-- ==== Sys2Proof/Word.lean ====
section
/-! DEFINITION. Bytes, words and the fixed index ranges of the module's dies (R4 to R6, R16). -/

namespace Sys2Proof

/-- One byte of any memory of the device. -/
abbrev Byte := BitVec 8
/-- One 32-bit register or descriptor word. -/
abbrev Word := BitVec 32
/-- A 64-bit register, address or time counter value. -/
abbrev DWord := BitVec 64

/-- Global plot index n = 8 x b + p (R16). -/
abbrev PlotIx := Fin 128
/-- Bed b of B0 to B15 (R16). -/
abbrev BedIx := Fin 16
/-- Partition 0 to 15 (R300). -/
abbrev PartIx := Fin 16
/-- Cistern C0 or C1 (R16). -/
abbrev CisIx := Fin 2
/-- Gardener core 0 to 7 (R16). -/
abbrev CoreIx := Fin 8
/-- PCIe function: 0 is PF0 and p + 1 is the virtual function of partition p (R302). -/
abbrev FnIx := Fin 17
/-- Queue pair 0 to 3 of a function (R374). -/
abbrev QpIx := Fin 4
/-- MSI-X vector 0 to 7 of a function (R304). -/
abbrev VecIx := Fin 8
/-- BVL port 0 to 7; ports 0 to 3 belong to C0 (R391). -/
abbrev PortIx := Fin 8
/-- Codec pipe: 0 to 3 are E0 to E3, 4 to 7 are D0 to D3 (R437). -/
abbrev PipeIx := Fin 8

end Sys2Proof
end

