-- ==== Sys2Proof/Syntax.lean ====
section
/-! DEFINITION. The commands of the module: one constructor for every row of the table of operations and events,
with what the row brings from outside (indices, descriptors, received frames, measured values, faults met). -/

namespace Sys2Proof

/-- The two issue lanes of a plot (R64). -/
inductive Lane where
  | compute | move
deriving DecidableEq, Repr

/-- SECDED errors met by the scratchpad reads of one step: words corrected, and one found uncorrectable (R61).
The words are named by their scratchpad offsets. -/
structure ReadErrs where
  ce : List (BitVec 25)
  ue : Option (BitVec 25)
deriving DecidableEq, Repr

/-- SECDED errors met in the table memory of the slot an SFU command reads (R130). -/
structure TableErrs where
  ce : Nat
  ue : Bool
deriving DecidableEq, Repr

/-- Where the residue checker found a mismatch in one run of a tile: in the first run and, when there was one, in the re-run (R58). -/
structure RunCheck where
  first : Bool
  again : Bool
deriving DecidableEq, Repr

/-- One symbol of a stored LPDDR sector read back wrong: symbols 0 to 255 are data bytes, 256 to 271 check bytes
(R249); `val` is exclusive-ored into the symbol. -/
structure SymFlip where
  sector : Nat
  sym : Nat
  val : Byte
deriving DecidableEq, Repr

/-- The wrong symbols of each attempt at a read; attempts beyond the list read what is stored (R476). -/
abbrev Flips := List (List SymFlip)

/-- A request of a bed that reaches a directory entry (R230). -/
inductive DirReq where
  | read (b : BedIx)
  | own (b : BedIx) (withData : Bool)
deriving DecidableEq, Repr

/-- An external request at a directory entry (R226, R230). -/
inductive ExtReq where
  | read | write | flush
deriving DecidableEq, Repr

/-- A check point of placement epochs (R282). -/
inductive CheckPoint where
  | bed (b : BedIx)
  | cistern (c : CisIx)
deriving DecidableEq, Repr

/-- A completion ring that the Almanac drains (R76, R223, R394). -/
inductive Ring where
  | bed (b : BedIx)
  | carrier (p : PartIx)
  | fabric (p : PartIx)
deriving DecidableEq, Repr

/-- One operator of a model package's cost table with what the package declares beside the 32-byte record of R260:
how often it runs as a command per pass, whether its T3 traffic runs to one parity, the widest rung its commands
permit, and the bytes of its input and output maps where it is a convolution (R188). -/
structure CostEntry where
  record : BitVec 256
  count : Nat
  oneParity : Bool
  top : Fin 4
  maps : Nat
deriving DecidableEq, Repr

/-- A collective of one pass as a package declares it (R419). -/
structure CollPlan where
  bytes : Nat
  fanin : Nat
  members : Nat
  var : Bool
deriving DecidableEq, Repr

/-- The live T0 regions of an operator: scratchpad offsets and lengths (R286). -/
structure LiveEntry where
  oper : BitVec 16
  regions : List (Nat × Nat)
deriving DecidableEq, Repr

/-- One model of a package: its limits, its token geometry, its cost table, its footprints (plots in T0, bytes in
T1 to T3), its collectives and point-to-point exchanges per pass, and its live map. -/
structure ModelDesc where
  maxWidth : Nat
  maxHeight : Nat
  maxFrames : Nat
  spaceDiv : Nat
  timeDiv : Nat
  costs : List CostEntry
  foot : List Nat
  colls : List CollPlan
  writes : List Nat
  live : List LiveEntry
deriving DecidableEq, Repr

/-- A model package as LOAD_MODEL brings it. The container is the compiler's own and no rule gives it, so its
content stands here already parsed: the models, the tile plan records with the reduction extent of their operators
(R96 to R98), the resident bytes of a swap (R295), and of a cut model its members, the addresses of its group records and
what the package fixes of the boundary vote (R405 to R407, R417). -/
structure ModelPkg where
  models : List ModelDesc
  tiles : List (BitVec 320 × Nat)
  resident : Nat
  members : Nat
  groups : List DWord
  voteFanin : Nat
  voteSrc : DWord
  voteDst : DWord
  voteStage : DWord
deriving DecidableEq, Repr

/-- A job whose output the host has received in full by a pass boundary: its bytes, its refresh-index entries, and the
time at which the last byte was acknowledged (R267, R272, R377). -/
structure JobOut where
  job : Word
  bytes : DWord
  index : Word
  time : DWord
deriving DecidableEq, Repr

/-- Why a pass failed (R270). -/
inductive PassFail where
  | haloProducer | lateError | residue | spUncorr | memUncorr | dataLost | otherStatus
deriving DecidableEq, Repr

/-- Why a plot or a resource is pruned, with the codes of R475. -/
inductive PruneCause where
  | ceRate | uncorr | training | test | residue | watchdog | laneErrors | linkLost | banks
deriving DecidableEq, Repr

/-- Sensor readings of one thermal sample: sixteen beds, two cisterns, shed and codec die, then the hottest LPDDR5X
package, the regulators and the coolant outlet, in degrees C (R333). -/
structure Temps where
  beds : Vector (BitVec 8) 16
  cisterns : Vector (BitVec 8) 2
  shed : BitVec 8
  codec : BitVec 8
  lpddr : BitVec 8
  regulator : BitVec 8
  coolant : BitVec 8
deriving DecidableEq, Repr

/-- Who tried to write a Fence register (R335, R343). -/
inductive FenceSource where
  | host (f : FnIx) | gardener | monitor | otherDie
deriving DecidableEq, Repr

/-- The trigger of a partition reset (R311). -/
inductive ResetTrigger where
  | flr | vfDisable | command | management
deriving DecidableEq, Repr

/-- A register access over PCIe: function, BAR (0, 1 for BAR2, 2 for BAR4), offset, byte enables and data (R372). -/
structure BusWrite where
  fn : FnIx
  bar : Fin 3
  offset : BitVec 16
  len : Nat
  data : DWord
deriving DecidableEq, Repr

/-- The register blocks of R370, the Fence block and the management registers (R450). -/
inductive Block where
  | plot (n : PlotIx)
  | bed (b : BedIx)
  | cistern (c : CisIx)
  | almanac
  | image
  | vf (p : PartIx)
  | pf0
  | fence
deriving DecidableEq, Repr

/-- A register write: from a gardener core on a block, or from the host through a BAR (R87, R372). -/
inductive RegWrite where
  | core (b : Block) (offset : Nat) (len : Nat) (data : DWord)
  | bus (w : BusWrite)
deriving DecidableEq, Repr

/-- A register read of the low half of a 64-bit register, by a host function or a gardener core (R372). -/
inductive RegReader where
  | host (f : FnIx) | core
deriving DecidableEq, Repr

/-- A BVL frame (R392): whether its FCS checks, the addresses with their first octet in the low byte, the tag control field of
an 802.1Q tag, the EtherType behind it, the 40-byte header of R393 and the payload. -/
structure Frame where
  fcsOk : Bool
  dstMac : BitVec 48
  srcMac : BitVec 48
  tag : Option (BitVec 16)
  etherType : BitVec 16
  header : BitVec 320
  payload : List Byte
deriving DecidableEq, Repr

/-- What a codec pipe met in coding or decoding one picture: the coded bytes, whether the frame overflowed the
decoder buffer, whether it still does at the maximum QP (R431), and what the stream turned out to be (R435); of a decoded
picture its samples, luma and then the two chroma planes, with the depth, matrix and range that its bitstream names (R433); whether
the reads of job input succeeded (R373). -/
structure CodecResult where
  coded : List Byte
  recoded : List Byte
  luma : List Nat
  cb : List Nat
  cr : List Nat
  deep : Bool
  bt2020 : Bool
  full : Bool
  mono : Bool
  overflow : Bool
  overflowMax : Bool
  bitstreamErr : Bool
  unsupported : Bool
  sramCe : Nat
  sramUe : Nat
  dmaOk : Bool
deriving DecidableEq, Repr

/-- A stream's parameters as OPEN brings them. The bytes of the 64-byte stream commands are not given by R435, so
its content stands here parsed: context, partition, direction, parameter block of R428, picture size, and the base
of the decoded picture buffer. -/
structure StreamParams where
  part : PartIx
  encode : Bool
  params : BitVec 512
  width : Nat
  height : Nat
  tileCols : Nat
  dpb : DWord
deriving DecidableEq, Repr

/-- One picture of a stream: the partition-virtual frame of BF16 planes, its plane stride in bytes and row stride,
the coded end's host or T3 address, and the epoch its writes carry (R433, R435). -/
structure FrameCmd where
  planes : DWord
  rowStride : Word
  planeStride : Word
  coded : DWord
  codedLen : Nat
  epoch : Word
deriving DecidableEq, Repr

/-- What the system board and the rails do to the supply comparators (R328). -/
inductive SupplyEvent where
  | input | rail
deriving DecidableEq, Repr

/-- Words of a management SPI write frame as they arrived, and how the frame ended: whole words received after the
command word and whether the frame stopped inside a word (R449, R452). -/
structure SpiEnd where
  words : Nat
  partialWord : Bool
deriving DecidableEq, Repr

/-- An upset in the stored copies of the Fence's registers as a vote meets it: the register by its offset, the copy, the bits
changed, and whether its SECDED code still checks (R338). -/
structure CopyUpset where
  reg : Nat
  copy : Fin 3
  flip : Word
  intact : Bool
deriving DecidableEq, Repr

/-- What start-up's tests find: plots that fail TEST pattern 0x05; channels (64 x cistern + channel) whose training or
pattern test fails, and the corrections counted in the tests of the others; gardener cores without a first heartbeat; and
Trellis lanes and modules, by link and sub-index of R475, that link training cannot bring back (R357, R484). -/
structure InitReport where
  plotFail : BitVec 128
  chanFail : BitVec 128
  chanErrs : List (Nat × Nat)
  coreFail : BitVec 8
  trFail : List (Nat × Nat)
deriving DecidableEq, Repr

/-- The commands of the module. Each constructor is one row of spec/opcode_table.json. -/
inductive Instr where
  | plotCommandSubmit (p : PlotIx) (d : BitVec 1024)
  | backpressureEntry (p : PlotIx) (lane : Lane)
  | gemm (p : PlotIx)
  | conv (p : PlotIx)
  | vec (p : PlotIx)
  | stat (p : PlotIx)
  | sfuEval (p : PlotIx)
  | sfuLoad (p : PlotIx) (errs : ReadErrs)
  | rot (p : PlotIx) (errs : ReadErrs)
  | rand (p : PlotIx)
  | attn (p : PlotIx)
  | move (p : PlotIx)
  | zero (p : PlotIx)
  | sync (p : PlotIx)
  | test (p : PlotIx) (fail : Option (BitVec 4 × BitVec 6))
  | unknownOpcode (p : PlotIx)
  | outputTileComplete (p : PlotIx) (runs : List RunCheck) (errs : ReadErrs)
  | stripeTileComplete (p : PlotIx) (runs : List RunCheck) (errs : ReadErrs)
  | keyTileComplete (p : PlotIx) (runs : List RunCheck) (errs : ReadErrs)
  | commandComplete (p : PlotIx) (lane : Lane) (errs : ReadErrs) (terrs : TableErrs) (flips : Flips)
  | plotFlush (p : PlotIx) (resume : Bool) (rw : BitVec 3)
  | plotResume (p : PlotIx) (rw : BitVec 3)
  | plotReset (p : PlotIx) (rw : BitVec 3)
  | plotResetDone (p : PlotIx)
  | reducedRequest (p : PlotIx) (rw : BitVec 3)
  | reducedApply (p : PlotIx)
  | clockGate (p : PlotIx)
  | powerGateEntry (p : PlotIx)
  | powerGateWake (p : PlotIx)
  | wakeComplete (p : PlotIx)
  | bankRetire (p : PlotIx) (bank : Fin 64) (cause : PruneCause)
  | rngStateLoad (p : PlotIx) (s3 : Word)
  | rngStateApply (p : PlotIx)
  | layerStateLoad (b : BedIx) (w : Word)
  | layerStateInstall (p : PlotIx)
  | pageWalk (p : PlotIx) (c : CoreIx)
  | leafFetchComplete (p : PlotIx) (c : CoreIx)
  | writingEntryReread (p : PlotIx)
  | missWaitExpire (p : PlotIx)
  | descriptorEnqueue (p : PlotIx)
  | pageFetchComplete (p : PlotIx) (flips : Flips)
  | pageEntryWriting (q : PartIx) (entry : DWord) (frame : Word)
  | pageEntryPresent (q : PartIx) (entry : DWord)
  | sequenceRelease (q : PartIx) (root : DWord)
  | haloWaitRelease (p : PlotIx)
  | haloLongWait (p : PlotIx)
  | carrierCopy (d : BitVec 512)
  | carrierWriteback (d : BitVec 512)
  | carrierFill (d : BitVec 512)
  | carrierFlush (d : BitVec 512)
  | carrierDescriptorStart (q : PartIx) (n : Nat)
  | carrierPageComplete (q : PartIx) (n : Nat) (page : Nat) (flips : Flips)
  | carrierComplete (q : PartIx) (n : Nat)
  | directoryRead (f : BitVec 24) (b : BedIx) (same : List DirReq)
  | directoryOwn (f : BitVec 24) (b : BedIx) (withData : Bool) (same : List DirReq)
  | directoryDrop (f : BitVec 24) (b : BedIx)
  | directoryEviction (f : BitVec 24) (b : BedIx)
  | directoryExternal (f : BitVec 24) (r : ExtReq)
  | tenureEnd (f : BitVec 24) (b : BedIx)
  | writebackDone (f : BitVec 24)
  | mirrorFillArrival (f : BitVec 24) (b : BedIx)
  | xltInvalidate (c : CisIx) (w : Word)
  | xltInvalidateDone (c : CisIx)
  | xltMissFill (c : CisIx) (q : PartIx) (v : BitVec 24)
  | epochCheckedWrite (at_ : CheckPoint) (q : PartIx) (epoch : Word) (addr : DWord) (data : List Byte)
  | lpddrRead (sector : Nat) (tau : BitVec 2) (cws : BitVec 4) (flips : Flips)
  | lpddrWrite (sector : Nat) (tau : BitVec 2) (cws : BitVec 4) (data : List Byte)
  | scrubSector (sector : Nat) (flips : Flips)
  | bankRefresh (c : CisIx) (ch : Fin 64) (rank : Fin 2) (bank : Fin 16)
  | periodicRetrain (c : CisIx) (failed : BitVec 64)
  | channelPrune (c : CisIx) (ch : Fin 64) (cause : PruneCause)
  | relocationComplete (c : CisIx) (ch : Fin 64)
  | submitJob (f : FnIx) (i : QpIx) (dmaOk : Bool)
  | cancel (f : FnIx) (i : QpIx)
  | suspend (f : FnIx) (i : QpIx)
  | resume (f : FnIx) (i : QpIx)
  | suspendExpire (q : PartIx) (job : Word)
  | queryJobs (f : FnIx) (i : QpIx) (dmaOk : Bool)
  | loadModel (f : FnIx) (i : QpIx) (pkg : Option ModelPkg)
  | unloadModel (f : FnIx) (i : QpIx)
  | replant (f : FnIx) (i : QpIx) (flashErr : BitVec 2)
  | resetPartition (f : FnIx) (i : QpIx)
  | passBoundary (q : PartIx) (outs : List JobOut)
  | voteResult (q : PartIx) (job : Word)
  | failedPass (q : PartIx) (why : PassFail) (jobs : List Word)
  | longHoldDecision
  | completionRingDrain (r : Ring)
  | pgIdleTimeout (p : PlotIx)
  | epochAdvance (q : PartIx) (slot : BitVec 8)
  | epochAcknowledged (q : PartIx) (slot : BitVec 8)
  | heelIn (q : PartIx) (job : Word)
  | heelInComplete (q : PartIx) (job : Word)
  | victimResume (q : PartIx) (job : Word)
  | restoreComplete (q : PartIx) (job : Word)
  | msixMessage (f : FnIx) (v : VecIx)
  | irqModerationTimeout (f : FnIx) (v : VecIx)
  | irqBudgetRefill (f : FnIx)
  | irqCauseClear (f : FnIx) (w : Word)
  | vfEnableChange (enable : Bool) (numVfs : BitVec 16)
  | flr (f : FnIx)
  | partitionReset (q : PartIx) (why : ResetTrigger)
  | partitionZeroingDone (q : PartIx)
  | pcieWarmReset
  | gaugeInterval (microJ : BitVec 32) (upsets : List CopyUpset)
  | bedClockTarget (b : BedIx) (step : BitVec 5)
  | clockStepComplete (b : BedIx)
  | thermalSample (t : Temps)
  | throttleNAssert
  | throttleNRelease
  | pinLimitLift
  | alertMinimumExpire
  | supplyWarning (e : SupplyEvent)
  | supplyRecovery
  | supplyDip
  | supplyQualified
  | holdResume
  | supplyReset (e : SupplyEvent)
  | overVoltage (e : SupplyEvent)
  | watchdogExpiry (c : CoreIx)
  | coreRestartDone (c : CoreIx)
  | lockstepMismatch
  | lockstepRestartDone
  | foreignWrite (src : FenceSource) (offset : BitVec 16) (data : Word)
  | powerOn
  | moduleReset
  | resetRelease
  | strapLatch (levels : BitVec 8)
  | imageVerified (flashErr : BitVec 2)
  | memoryInitComplete (r : InitReport)
  | pruneLogAppend (step : Fin 4)
  | logRotation (step : Fin 5)
  | sqDoorbell (f : FnIx) (i : QpIx) (v : Word)
  | cqDoorbell (f : FnIx) (i : QpIx) (v : Word)
  | submissionFetch (f : FnIx) (i : QpIx) (dmaOk : Bool)
  | completionWrite (f : FnIx) (i : QpIx)
  | qpAttach (f : FnIx) (i : QpIx)
  | qpResumeAttach (f : FnIx) (i : QpIx)
  | qpDetach (f : FnIx) (i : QpIx)
  | detachComplete (f : FnIx) (i : QpIx)
  | windowSelect (block : BitVec 8) (page : BitVec 2)
  | lowHalfRead (r : RegReader) (b : Block) (offset : Nat) (len : Nat)
  | registerWrite (w : RegWrite)
  | atsInvalidation (f : FnIx) (addr : DWord) (len : DWord)
  | mailboxMonitor (len : BitVec 16)
  | imageErase (copy : Fin 2)
  | imageWrite (copy : Fin 2) (len : BitVec 16)
  | imageCheck (copy : Fin 2)
  | mailboxComplete (flashErr : Bool)
  | fabricWrite (d : BitVec 512)
  | fabricRead (d : BitVec 512)
  | writeFrame (port : PortIx) (fr : Frame)
  | readReq (port : PortIx) (fr : Frame)
  | readData (port : PortIx) (fr : Frame)
  | ack (port : PortIx) (fr : Frame)
  | nak (port : PortIx) (fr : Frame)
  | lateErr (port : PortIx) (fr : Frame)
  | settle (port : PortIx) (fr : Frame)
  | settleDoneSend (port : PortIx) (dev : BitVec 12)
  | settleDone (port : PortIx) (fr : Frame)
  | settleTimeout (q : PartIx) (dev : BitVec 12)
  | timeFrame (port : PortIx) (fr : Frame)
  | chunkMemoryEntry (c : CisIx) (crcOk : Bool) (memOk : Bool)
  | ackTimer (port : PortIx) (dev : BitVec 12) (lc : Bool)
  | retransmitTimeout (port : PortIx) (dev : BitVec 12) (lc : Bool)
  | fabricUnreachable (dev : BitVec 12)
  | laneFault (port : PortIx) (lane : Fin 8) (training : Bool)
  | portTrained (port : PortIx) (lanes8 : Bool)
  | timeExchange (t1 t2 t3 t4 : DWord) (ok : Bool)
  | timeAdjust
  | holdoverEntry
  | masterClaim
  | syncPulse
  | broadcast (d : BitVec 512)
  | reduce (d : BitVec 512)
  | readyWrite (q : PartIx) (seq : Word) (src : Nat) (d : BitVec 512) (n : Nat)
  | creditWrite (q : PartIx) (seq : Word)
  | countArrival (q : PartIx) (seq : Word) (src : Nat) (count : Word)
  | pageArrival (q : PartIx) (seq : Word) (src : Nat) (page : Nat) (data : List Byte)
  | collTimeout (q : PartIx) (seq : Word)
  | streamOpen (ctx : Fin 32) (sp : StreamParams)
  | streamFrame (ctx : Fin 32) (pipe : PipeIx) (fc : FrameCmd)
  | streamClose (ctx : Fin 32)
  | frameComplete (pipe : PipeIx) (r : CodecResult)
  | parkEnd (pin : Fin 8)
  | inputBlankingEnd (pin : Fin 8) (high : Bool)
  | uartCharacter (ch : Byte) (stopOk : Bool)
  | mgtReadFrame (cmd : Word) (e : SpiEnd)
  | mgtWriteFrame (cmd : Word) (data : List Word) (e : SpiEnd)
  | mgtPartReset (w : Word)
  | beatToggle
  | monitorHelp
  | monitorStatus
  | monitorRd (block : Nat) (offset : Nat) (n : Nat)
  | monitorWr (block : Nat) (offset : Nat) (value : Word)
  | monitorLog (n : Nat)
  | monitorTest (plot : Nat) (pattern : Byte) (fail : Option (BitVec 4 × BitVec 6))
  | traceStart (q : PartIx) (base : DWord) (size : Nat) (wrap : Bool)
  | traceStop (q : PartIx)
  | traceDrained (q : PartIx)
  | traceStatus (q : PartIx)
  | cutArm (q : PartIx) (job : Word) (layer oper : BitVec 16) (pass : Nat) (base : DWord) (size : Nat) (cost energy : Nat)
  | cutList (q : PartIx)
  | cutGet (q : PartIx) (c : Nat) (offset : Nat) (len : Nat)
  | cutDrop (q : PartIx) (c : Nat)
  | captureComplete (p : PlotIx)
  | perfSelect (unit : Nat) (counter : Nat) (event : Byte) (q : Option PartIx)
  | perfClear (unit : Nat)
  | monitorTime
  | monitorGauge
  | monitorBaud (div : Nat)
  | faultWindowRollover (day : Bool)
  | flitReplay (link : Nat) (lane : Nat) (again : Bool)
  | trellisLaneFault (link : Nat) (dir : Bool) (module_ : Nat) (lane : Nat)
  | unitComplete (p : PlotIx) (errs : ReadErrs) (terrs : TableErrs)
  | moveRowComplete (p : PlotIx) (errs : ReadErrs) (flips : Flips)
  | powerGateComplete (p : PlotIx)
  | functionMaskWrite (f : FnIx) (mask : Bool)
deriving DecidableEq, Repr

end Sys2Proof
end

