-- ==== Sys2Proof/Config.lean ====
section
/-! DEFINITION. What an implementation fixes and the manual leaves open: free values without a body, so that nothing
can be proved of the value itself. -/

namespace Sys2Proof.Config

/-- HST_ID.REVISION: the manual gives the field and no value (R387). -/
opaque revision : BitVec 8

/-- Bytes that the manual calls undefined, by their place in the sequence of free values taken: an overlap of an SFU
source and destination (R140) and the units that an aborted TEST had reached (R488). -/
opaque freeByte : Nat → BitVec 8

/-- EXP40 of R145, whose table is published outside the manual. It is used only within the bounds R145 states. -/
opaque exp40 : Rat → Rat

/-- LN40 of R145, used only within the bounds R145 states. -/
opaque ln40 : Rat → Rat

/-- Whether a normal draw whose exact value lies too near a rounding boundary for the computed enclosure takes the
upper neighbour (R203), by u1 and u2 in units of 2^-24. -/
opaque normalUp : Nat → Nat → Bool

/-- The load-to-use latency, in plot cycles, that CYCLES of a MOVE between tiers contains (R21, R79 state it as a typical
and a largest value), by its place in the sequence of free values taken. -/
opaque moveLatency : Nat → Nat

/-- CYCLES in the record of a command that stopped before its end, by its place in the sequence of free values (R76). -/
opaque earlyCycles : Nat → Nat

/-- PROGRESS in the record of a ROT, for which R76 and R488 state no count, by its place in the sequence of free values. -/
opaque rotProgress : Nat → Nat

/-- The version word of a CODEC_FW section (R437): the manual does not say where it stands. It depends on the section alone,
named by its CRC. -/
opaque codecVersion : Nat → BitVec 32

/-- Whether the translation entry of a partition's virtual frame has MIRROR set, where the partition has a mirror share: the
manual does not say which entries have it (R214, R226). -/
opaque mirrorEntry : Nat → Nat → Bool

/-- The converter clamps of a picture with a NaN or Inf sample, which R433 does not state, by its place in the sequence of free
values. -/
opaque freeClamps : Nat → Nat

/-- LAYER_ID and, above it, OPER_ID of the operator that posted a collective (R462), which its descriptor does not carry, by the
descriptor. -/
opaque collOperator : Nat → BitVec 32

end Sys2Proof.Config
end

