-- ==== Sys2Proof/Machine/State.lean ====
section
/-! DEFINITION. The state of the module as plain data: every register, queue, buffer, counter, mode and pin that the
manual names, the queue of waiting commands, and the state right after power-on reset. -/

namespace Sys2Proof.Machine

/-- Where the machine stops with a fault. -/
inductive Fault where
  /-- Raised by LPDDR_READ, LPDDR_WRITE and SCRUB_SECTOR for a sector beyond the last frame that exists (R212).
  Safe: the hardware has no such sector. -/
  | absentSector
deriving DecidableEq, Repr

/-- Where a command has no meaning. -/
inductive Refusal where
  /-- Raised by an arm of `exec` for a command not yet given its meaning. Safe. -/
  | notModelled (mnemonic : String)
deriving DecidableEq, Repr

/-- Sparse table or memory: entries in rising key order, none equal to the value an unlisted key has. -/
abbrev Tab (α : Type) := List (Nat × α)

/-- The states of PLT_STATUS.STATE (R89). -/
inductive PlotMode where
  | off | waking | idle | run | halted | reset | gating | pruned
deriving DecidableEq, Repr

/-- How far the command at the head of a lane has come through the waits of R68. -/
inductive Stage where
  /-- still at steps 1 to 3 -/
  | queued
  /-- past step 3: the semaphore has been taken -/
  | taken
  /-- a CONV waiting on its halo tags since the time given (R191) -/
  | halo (since : DWord)
  /-- a CONV whose halo wait is over, waiting at step 4 -/
  | haloDone
deriving DecidableEq, Repr

/-- A command past step 7 of R68: its descriptor, the units it has completed counting from its START_TILE, the units
at which it ends, and what its completion record will hold (R76); the Watch counts of an ATTN so far, whose result is
one tile (R155). -/
structure Run where
  desc : BitVec 1024
  done : Nat
  total : Nat
  status : BitVec 8
  esc : Nat
  retries : Nat
  cycles : Nat
  faultAddr : Word
  misses : Nat
deriving DecidableEq, Repr

/-- One issue lane (R64): queued commands oldest first, submissions held outside it, the stage of its head, and the
command running. -/
structure LaneSt where
  queue : List (BitVec 1024)
  held : List (BitVec 1024)
  stage : Stage
  run : Option Run
deriving DecidableEq, Repr

/-- Layer state of R119. -/
structure Layer where
  id : BitVec 16
  count : BitVec 8
  rung : BitVec 2
  wide : Bool
deriving DecidableEq, Repr

/-- Watch registers (R122 to R125). -/
structure WatchRegs where
  sat : Word
  range : Word
  nan : Word
  escalated : BitVec 16
  unresolved : BitVec 16
  layer : Layer
  exceeded : BitVec 3
  fromRung : BitVec 2
  toRung : BitVec 2
  lastUnres : Bool
  tile : Word
  cyc : DWord
deriving DecidableEq, Repr

/-- One SFU slot: what PLT_SFU_SLOT and PLT_SFU_FUNC show, and the table it holds (R130, R148). -/
structure SfuSlot where
  valid : Bool
  kind : BitVec 2
  inFmt : BitVec 4
  outFmt : BitVec 4
  nseg : BitVec 9
  func : Word
  table : List Byte
deriving DecidableEq, Repr

/-- The stateful generator and its registers (R198, R209). -/
structure Rng where
  s0 : Word
  s1 : Word
  s2 : Word
  s3 : Word
  staged0 : Option Word
  staged1 : Option Word
  staged2 : Option Word
  load : Option Word
  draws : DWord
deriving DecidableEq, Repr

/-- Tags of the ATTN page ring (R166): the ring they belong to, the page in each slot, and the slots in order of use,
least recent first. -/
structure PageRing where
  addr : Word
  pages : Nat
  slots : List (Option (DWord × BitVec 16))
  order : List Nat
deriving DecidableEq, Repr

/-- What the walker waits for on the page it has reached (R163 to R165). -/
inductive WalkWait where
  | none
  | leaf (addr : Nat)
  | writing (since : DWord)
  | room (d : BitVec 128)
deriving DecidableEq, Repr

/-- The walk of the running ATTN command and the streamer's queue (R163). -/
structure Walk where
  pos : Nat
  wait : WalkWait
  queue : List (BitVec 128)
  fetched : Nat
deriving DecidableEq, Repr

/-- A 48-bit performance counter with its overflow bit (R469). -/
structure Perf where
  count : BitVec 48
  ovf : Bool
deriving DecidableEq, Repr

/-- The capture MOVEs, one for each matching cutting, that hold back a semaphore post and the compute lane (R466), with what the command's record held beside its
header, for a record of the post (R65). -/
structure Capture where
  part : PartIx
  cuts : List (Fin 16)
  desc : BitVec 1024
  pass : Nat
  esc : Nat
  retries : Nat
  cycles : Nat
  progress : Nat
deriving DecidableEq, Repr

/-- Error counters of a plot (R93, R94, R149). -/
structure PlotErr where
  ce : BitVec 16
  ue : BitVec 16
  lastBank : BitVec 6
  lastRow : BitVec 13
  lastUe : Bool
  mismatch : BitVec 16
  fault : BitVec 16
  sfuCe : BitVec 16
  sfuUe : BitVec 16
deriving DecidableEq, Repr

/-- Counts of the current fault windows of a plot (R473, R481, R482): corrected errors of each bank and residue
mismatches in the hour, residue faults in the day; the banks with an uncorrectable error not yet acted on; and how often each bank and the plot
returned to service. -/
structure PlotWin where
  bankCe : Tab Nat
  mismatch : Nat
  fault : Nat
  ueBanks : BitVec 64
  returns : Nat
  bankReturns : Tab Nat
deriving DecidableEq, Repr

/-- One plot (R53, R87 to R94). -/
structure Plot where
  mode : PlotMode
  clkGated : Bool
  reduced : Bool
  reducedReq : Option Bool
  haltCause : BitVec 8
  era : DWord
  banks : BitVec 64
  part : BitVec 4
  unassigned : Bool
  pgReq : Bool
  cgDis : Bool
  lastTag : BitVec 16
  lastOp : BitVec 8
  lastStatus : BitVec 8
  faultAddr : Word
  err : PlotErr
  win : PlotWin
  compute : LaneSt
  move : LaneSt
  flushing : Bool
  flushRec : Bool
  resumeAfter : Bool
  watch : WatchRegs
  sfu : Vector SfuSlot 8
  sfuDefault : BitVec 2
  sfuOverride : Bool
  rngClass : BitVec 4
  rng : Rng
  ring : PageRing
  walk : Walk
  layerLoad : Option Word
  perfSel : Vector (BitVec 8) 4
  perf : Vector Perf 4
  capture : Option Capture
deriving DecidableEq, Repr

/-- A mirror copy of a T3 frame in a bed's share (R225 to R227): the slot it occupies, whether the bed owns it, its
dirty sub-pages, whether its fill is still to come, and the tenure with a recall that waits for its end. -/
structure MirrorCopy where
  slot : Nat
  frame : BitVec 24
  owned : Bool
  dirty : BitVec 16
  filling : Bool
  tenure : Bool
  recalled : Bool
deriving DecidableEq, Repr

/-- The writes that a check point dropped for one partition (R297). -/
structure EpochDrop where
  stale : BitVec 24
  foreign : BitVec 8
deriving DecidableEq, Repr

/-- One bed controller (R65, R76, R241, R296, R345). Beside each record of the completion ring stands the epoch under
which the Almanac issued its command (R284). -/
structure Bed where
  sems : Vector (BitVec 16) 64
  ring : List (BitVec 256 × Word)
  energy : Int
  cap : Int
  debited : Nat
  target : BitVec 5
  current : BitVec 5
  stepping : Option Bool
  share : BitVec 5
  mirror : List MirrorCopy
  epochs : Tab (BitVec 25)
  drop : EpochDrop
  ctxSel : BitVec 3
  trace : List (BitVec 256)
deriving DecidableEq, Repr

/-- A directory entry (R229). -/
inductive DirEntry where
  | unheld
  | shared (beds : BitVec 16)
  | owned (bed : BedIx) (mask : BitVec 16)
  | writingBack (bed : BedIx)
deriving DecidableEq, Repr

/-- A request that the directory holds in queue (R231). -/
inductive DirQueued where
  | bed (r : DirReq)
  | ext (r : ExtReq)
deriving DecidableEq, Repr

/-- One LPDDR channel (R257, R476): its state code, counters, window counts and consecutive training failures. -/
structure Chan where
  state : BitVec 2
  linkCe : BitVec 8
  ce : BitVec 8
  ue : BitVec 8
  hourCe : Nat
  dayUe : Nat
  trainFails : Nat
  returns : Nat
  refreshed : Option (Fin 2 × Fin 16)
deriving DecidableEq, Repr

/-- A flow of one local port to one device in one class (R395): both ends of it that this device keeps. `held` is the time
since which the far device's frames carry HOLD. -/
structure Flow where
  port : PortIx
  dev : BitVec 12
  lc : Bool
  next : Word
  unacked : List Frame
  timeouts : Nat
  timeoutUs : Nat
  expected : Word
  sinceAck : Nat
  nakAt : Option DWord
  stalled : Option DWord
  held : Option DWord
deriving DecidableEq, Repr

/-- One BVL port (R404): its registers, its training failures in a row and those of its lanes (R397), whether it trains on the
half HALF names, whether it trains for its return to service, and how often it and its lanes returned (R484). -/
structure Port where
  state : BitVec 3
  half : Bool
  laneBad : BitVec 8
  trainFail : BitVec 4
  fecCorr : BitVec 16
  fecUncorr : BitVec 16
  resent : BitVec 16
  timeouts : BitVec 16
  fails : Nat
  laneFails : Vector Nat 8
  narrow : Bool
  testing : Bool
  returns : Nat
  laneReturns : Vector Nat 8
deriving DecidableEq, Repr

/-- Halo registers of C0 (R195). -/
structure Halo where
  stall : Vector Word 16
  time : Vector Word 16
  longTag : BitVec 9
  longPart : BitVec 4
  longPlot : BitVec 7
  longValid : Bool
  longNeed : BitVec 16
  longCurrent : BitVec 16
  regress : Word
  tags : Tab (BitVec 16)
deriving DecidableEq, Repr

/-- Select field of a cistern performance counter (R472). -/
structure PerfSel where
  event : BitVec 8
  part : BitVec 4
  all : Bool
deriving DecidableEq, Repr

/-- Partition ranges and shares held by a cistern (R238). -/
structure CisPart where
  t2Base : BitVec 8
  t2Size : BitVec 9
  quota : BitVec 10
  lpddr : BitVec 9
  t2 : BitVec 9
  carrier : BitVec 9
  drop : EpochDrop
  gate : Word
deriving DecidableEq, Repr

/-- Memory-error registers of a cistern (R257). -/
structure MemErrRegs where
  ce : BitVec 16
  chk : BitVec 16
  ue : BitVec 16
  rate : BitVec 16
  lastSector : BitVec 40
  lastCw : BitVec 2
  lastScrub : Bool
  lastValid : Bool
  scrubPass : BitVec 8
deriving DecidableEq, Repr

/-- Directory half of a cistern (R229 to R231, R240). -/
structure DirHalf where
  entries : Tab DirEntry
  queue : List (BitVec 24 × DirQueued)
  ptr : BitVec 4
  reads : Word
  owns : Word
  recalls : Word
  ties : BitVec 16
  external : BitVec 16
deriving DecidableEq, Repr

/-- BVL and collective counters of a cistern (R404, R421). -/
structure LinkRegs where
  lateSent : BitVec 8
  lateReceived : BitVec 8
  lateReplayed : BitVec 8
  lateIgnored : BitVec 8
  unreach : BitVec 16
  badFrame : BitVec 16
  collDone : BitVec 16
  collTimeout : BitVec 16
  collMismatch : BitVec 16
  collBytes : DWord
deriving DecidableEq, Repr

/-- A chunk accepted by the transport that has not yet entered memory (R396, R398). -/
structure Chunk where
  port : PortIx
  frame : Frame
deriving DecidableEq, Repr

/-- One cistern (R16, R237, R257, R404, R421). -/
structure Cistern where
  parts : Vector CisPart 16
  xltBusy : Option Word
  xltMiss : BitVec 16
  xltFault : BitVec 8
  xltDropped : BitVec 8
  xltCache : List (PartIx × BitVec 24 × Word)
  dir : DirHalf
  mem : MemErrRegs
  chans : Vector Chan 64
  halo : Halo
  epochs : Tab (BitVec 25)
  link : LinkRegs
  perfSel : Vector PerfSel 8
  perf : Vector Perf 8
  chunks : List Chunk
  settles : List (PortIx × Frame)
  trace : List (BitVec 256)
deriving DecidableEq, Repr

/-- Memory system shared by the dies: T0, T1 and T2 by device address, T3 by physical byte address with its check
bytes at 16 times the sector index (R244), the dirty masks of T1 and T2 pages (R219), the translation tables of the
partitions (R214), the sectors with a pending check-only correction (R251), the donor redirection's pruned channels
and withdrawn frames (R477, R478), and host memory. -/
structure Memories where
  ram : Tab Byte
  t3 : Tab Byte
  chk : Tab Byte
  dirty : Tab (BitVec 16)
  xlt : Tab Word
  pendingChk : List Nat
  relocating : Option (CisIx × Fin 64 × PruneCause)
  lost : List Nat
  host : Tab Byte
deriving DecidableEq, Repr

/-- A carrier descriptor posted to both carriers (R220 to R223). -/
structure CarrierOp where
  desc : BitVec 512
  started : Bool
  pages : List Nat
  status : BitVec 8
deriving DecidableEq, Repr

/-- A fabric transfer (R394): its descriptor and direction, the chunks sent, acknowledged and received, the time of
each acknowledgement, and its status. -/
structure FabricOp where
  desc : BitVec 512
  isRead : Bool
  sent : Nat
  acked : List (Nat × DWord)
  received : List Nat
  status : BitVec 8
deriving DecidableEq, Repr

/-- A collective in progress (R408 to R413): the member's index and the number of members, the time since which it waits, the
ranks whose ready writes have come, the credits held, the counts received, the pages received and not yet added, how many
children have been added to each page, the pages summed so far, the pages of a broadcast received, the pages sent, and the
frames of it that have been acknowledged, each with the time. -/
structure CollOp where
  desc : BitVec 512
  isReduce : Bool
  index : Nat
  members : Nat
  started : Bool
  since : DWord
  ready : List Nat
  credits : Nat
  counts : List (Nat × Nat)
  countSent : Bool
  early : List (Nat × Nat × List Byte)
  added : List (Nat × Nat)
  acc : List (Nat × List Byte)
  got : List Nat
  sentPages : Nat
  frames : List (Frame × DWord)
  status : BitVec 8
deriving DecidableEq, Repr

/-- Life states and final statuses of a job (R13, R272). TAINTED records the state it left. -/
inductive Life where
  | adm | running | runningFb
  | tainted (fb : Bool)
  | ok | degraded | late | cancelled | failed
deriving DecidableEq, Repr

/-- Why a job is off its plots (R286, R293). -/
inductive Away where
  | none
  | stopping (bySuspend : Bool) (maxUs : Word)
  | heeling (bySuspend : Bool) (maxUs : Word)
  | out (bySuspend : Bool) (since : DWord) (maxUs : Word)
  | restoring
deriving DecidableEq, Repr

/-- The context of one task that has been heeled in, with the plot it came from (R286). -/
structure TaskCtx where
  task : Nat
  plot : PlotIx
  rng : Vector Word 4
  layer : Layer
  sems : List (BitVec 6 × BitVec 16)
  regions : List (Nat × DWord × Nat)
deriving DecidableEq, Repr

/-- A late error that a job still holds: the chunk's transfer and address, and whether its replay is in flight
(R399). -/
structure LateHeld where
  xfer : Word
  addr : DWord
  replaying : Bool
deriving DecidableEq, Repr

/-- An accepted job (R258, R263, R272). Times are in ns. `watchAt` is PLT_WATCH_CYC of its plots at the last pass boundary
(R127), `flushed` the FLUSHED records drained since its tasks were stopped (R286), `extra` what its worst-case finish
grew by (R293, R465), `passAt` the time its pass was issued, `waitFrom` the time from which a newcomer waits for
victims that were not preempted (R285), `voting` that its boundary vote is under way, `voteRes` what the vote said: to switch, to run the pass again (R417). While `stopped`, nothing of
the job starts; `advanced` says that the new COUNT has been written and is not yet acknowledged (R283). `settled` holds
the devices to which SETTLE was sent in the pass, when, and whether SETTLE_DONE has come (R400). -/
structure Job where
  id : Word
  desc : BitVec 1024
  codec : BitVec 512
  fn : FnIx
  qp : QpIx
  ssn : Word
  slot : BitVec 8
  epoch : BitVec 24
  life : Life
  away : Away
  mainPasses : Nat
  fbPasses : Nat
  toGo : Nat
  wc : Nat
  marginLeft : Int
  retryLeft : Int
  exposure : Nat
  capacity : Nat
  energy : Nat
  watchAt : List (PlotIx × Nat)
  holdUs : Nat
  retries : Nat
  cancelReq : Bool
  switchNext : Bool
  passFailed : Bool
  inPass : Bool
  stopped : Bool
  advanced : Bool
  voting : Bool
  voteRes : Option (Bool × Bool)
  passAt : DWord
  waitFrom : Option DWord
  tasks : List (Nat × PlotIx)
  ctx : List TaskCtx
  flushed : List (BitVec 256)
  lates : List LateHeld
  settled : List (BitVec 12 × DWord × Bool)
  extra : Nat
deriving DecidableEq, Repr

/-- A resident model package (R294). -/
structure Resident where
  handle : Word
  pkg : ModelPkg
  onChip : Bool
deriving DecidableEq, Repr

/-- A cutting (R465 to R467), with the planned cost of its captures in ns and in 8 nJ units; state codes as TRC_CUT shows them. -/
structure Cutting where
  state : BitVec 3
  trunc : Bool
  pieces : BitVec 16
  job : Word
  layer : BitVec 16
  oper : BitVec 16
  pass : Nat
  base : DWord
  size : Nat
  wptr : Nat
  cost : Nat
  energy : Nat
  dropAfter : Bool
deriving DecidableEq, Repr

/-- Trace control of one partition (R464, R472). -/
structure Trace where
  on : Bool
  wrap : Bool
  full : Bool
  half : Bool
  pages : BitVec 17
  base : DWord
  wptr : Word
  lost : Word
  seq : Word
  count : Nat
  stopping : Bool
deriving DecidableEq, Repr

/-- Image fields of one partition (R351). -/
structure PartImage where
  beds : BitVec 16
  t0Plots : BitVec 8
  gtShare : BitVec 8
  t3Gib : Nat
  spillGib : Nat
  bvlShare : Nat
  encPipes : Nat
  decPipes : Nat
  resetZero : Bool
  shareW : Nat
  irqRate : Nat
  irqMinUs : Nat
  rerun : BitVec 8
  retry : BitVec 8
  faultBeds : BitVec 4
  passRetry : BitVec 2
  exp1 : BitVec 8
  exp2 : BitVec 8
  exp3 : BitVec 8
  slackDef : Word
  compat : Bool
  sfuMode : BitVec 2
  sfuOverride : Bool
  rngClass : BitVec 4
deriving DecidableEq, Repr

/-- How far a partition reset has come through the steps of R313. -/
inductive ResetStep where
  | none
  /-- steps 1, 2 and 4 done in HOLD; the rest follows the resume (R314) -/
  | waitResume
  /-- steps 1 to 4 done: plots draining and epochs being invalidated -/
  | draining
  /-- steps 5 and 6 under way -/
  | zeroing
deriving DecidableEq, Repr

/-- One partition as the Almanac keeps it (R263, R274, R296, R316). Beside each record of a completion ring stands the
epoch of its descriptor (R284). `fabricOld` keeps the WRITEs completed in the pass, for replays (R399); `readies` the ready
writes that came before their collective was posted (R412); `wrote` the epochs and devices of the pass's collectives, to which
SETTLE goes as well (R400, R412). -/
structure Part where
  defined : Bool
  img : PartImage
  adm : BitVec 3
  fPlan : BitVec 5
  reserveUsed : Bool
  jobs : List Job
  counts : Vector Word 8
  execs : Vector Word 4
  resetStep : ResetStep
  resetDone : Bool
  zeroing : Bool
  resets : BitVec 16
  absorbed : BitVec 16
  models : List Resident
  nextHandle : Word
  gens : Tab (BitVec 16)
  bal : Int
  mw : Word
  carrier : List CarrierOp
  carrierRing : List (BitVec 128 × Word)
  fabric : List FabricOp
  fabricOld : List FabricOp
  colls : List CollOp
  readies : List (Word × Nat × BitVec 512 × Nat)
  wrote : List (Word × BitVec 12)
  fabricRing : List (BitVec 128 × Word)
  gateSince : Option DWord
  trace : Trace
  cuts : Vector Cutting 16
  withdrawn : Nat
  scaledShare : BitVec 8
deriving DecidableEq, Repr

/-- A completion entry (R377) as the device holds it before and after it is written. -/
abbrev CqEntry := BitVec 1024

/-- A submission accepted and not yet answered (R379). -/
structure Accepted where
  entry : BitVec 1024
  taken : Bool
  resp : Option CqEntry
deriving DecidableEq, Repr

/-- One queue pair (R379, R382, R389). State codes as HST_QP_STAT shows them. -/
structure Qp where
  sqBase : DWord
  cqBase : DWord
  sqLog : BitVec 5
  cqLog : BitVec 5
  en : Bool
  resumeSeq : Bool
  ssnInit : Word
  csnInit : Word
  nextSsn : Word
  limit : Word
  lastCsn : Word
  consumed : Word
  state : BitVec 2
  detaching : Bool
  stall : Bool
  err : BitVec 3
  dbDrop : BitVec 16
  accepted : List Accepted
  ready : List CqEntry
  journal : List CqEntry
deriving DecidableEq, Repr

/-- One MSI-X vector (R305, R317, R369): its table entry, moderation fields, events since its last message, the time
of the first of them, the time of the last message, and whether its next message has been delayed by the budget (R306). -/
structure Vec where
  addr : DWord
  data : Word
  mask : Bool
  modCount : BitVec 8
  modTime : BitVec 16
  events : Nat
  firstAt : DWord
  lastAt : Option DWord
  late : Bool
deriving DecidableEq, Repr

/-- One PCIe function (R302, R317, R369, R387). -/
structure Fn where
  cause : BitVec 8
  vecs : Vector Vec 8
  sent : BitVec 16
  throttled : BitVec 16
  budget : Nat
  fnMask : Bool
  accCount : BitVec 16
  accKind : BitVec 2
  accBar : BitVec 2
  accOffset : BitVec 16
  qps : Vector Qp 4
  latch : Tab Word
  aer : List (BitVec 16)
  atsDone : Nat
deriving DecidableEq, Repr

/-- A Fence register stored three times: each copy is its value and whether its SECDED code checks (R338). -/
structure Tri (n : Nat) where
  a : BitVec n
  b : BitVec n
  c : BitVec n
  okA : Bool
  okB : Bool
  okC : Bool
deriving DecidableEq, Repr

/-- The triplicated registers of the Fence, by the bits that each holds (R338, R341): CAP_W and BURST_MS; BASE_W; SHARE_W;
THROTTLE_C, TRIP_C, HYST_C and COOLANT_C; STEP; PORTS; TIMEOUT_MS and EN. -/
structure FenceRegs where
  cap : Tri 16
  base : Tri 12
  share : Vector (Tri 12) 16
  therm : Tri 28
  pinStep : Tri 5
  linkEn : Tri 8
  wdog : Tri 11
deriving DecidableEq, Repr

/-- Limits of one bed (R342). -/
structure Ceil where
  therm : BitVec 5
  cap : BitVec 5
  coolMs : Nat
deriving DecidableEq, Repr

/-- The supply as R328 to R330 see it. -/
inductive Supply where
  | good | warned | qualifying | resuming | off
deriving DecidableEq, Repr

/-- One gardener core as the Fence watches it (R336). -/
structure Core where
  beat : Word
  seen : Word
  seenAt : DWord
  restarting : Bool
  held : Bool
  expiries : List DWord
  returns : Nat
deriving DecidableEq, Repr

/-- The Fence (R320 to R345). Mode codes as FNC_STATUS shows them. -/
structure Fence where
  mode : BitVec 3
  lockstepAt : Option DWord
  restarting : Bool
  safeCause : BitVec 4
  safe : Bool
  regs : FenceRegs
  loaded : Bool
  ceils : Vector Ceil 16
  resetCause : BitVec 4
  repaired : BitVec 16
  lockstep : BitVec 16
  foreign : BitVec 16
  foreignSrc : BitVec 4
  foreignAddr : Word
  foreignAt : Option DWord
  energy : DWord
  power : Word
  bal : Int
  hold : BitVec 16
  holdLong : BitVec 16
  holdUs : Word
  holdAt : DWord
  longDone : Bool
  tempMax : BitVec 8
  tempSensor : BitVec 8
  tripSeen : BitVec 20
  supply : Supply
  supplyAt : DWord
  throttleLow : Bool
  pinLift : Option DWord
  alertAt : Option DWord
  alertMin : Bool
deriving DecidableEq, Repr

/-- Stages of start-up (R357, R367). -/
inductive Boot where
  | off | released | strapped | verified | done
deriving DecidableEq, Repr

/-- The FAULT section in force (R474). -/
structure FaultImage where
  lpCeHr : Nat
  lpUeDay : Nat
  lpRetry : Nat
  lpTrain : Nat
  bvlSerExp : Nat
  trReplay : Nat
  trLaneSec : Nat
  spCeHr : Nat
  bankMax : Nat
  resMisHr : Nat
  resFaultDay : Nat
  retMax : Nat
deriving DecidableEq, Repr

/-- The BVL section in force (R403). -/
structure BvlImage where
  devId : BitVec 12
  eligible : Bool
  vlanEn : Bool
  etherType : BitVec 16
  macPrefix : BitVec 24
  vlanId : BitVec 12
  pcps : BitVec 9
  replayMs : Nat
  window : Nat
deriving DecidableEq, Repr

/-- Device-wide image fields in force that no register of their own holds (R350). -/
structure DeviceImage where
  spareGib : Nat
  scrubPeriod : BitVec 8
  haloLimit : BitVec 16
  pgIdle : Word
  traceEn : Bool
  cuttingEn : Bool
  perfEn : Bool
  stkFn : Vector (BitVec 8) 3
  syncEn : Bool
  partCount : Nat
  mirror : Vector (BitVec 5) 16
  fault : FaultImage
  bvl : BvlImage
  sfuSets : List (BitVec 16 × BitVec 3 × List Byte)
  codecFw : Word
deriving DecidableEq, Repr

/-- The image registers, the flash devices, the fuses and the prune log's progress (R346 to R367). -/
structure Image where
  flash : Vector (Tab Byte) 2
  keyHash : Vector (BitVec 384) 4
  revoked : BitVec 4
  copy : BitVec 2
  debugOn : Bool
  forced : Bool
  monitorStrap : Bool
  safeBoot : Bool
  stage : BitVec 3
  gen : Word
  digest : DWord
  aReason : BitVec 8
  bReason : BitVec 8
  sector : Bool
  rotating : Bool
  rotStep : Nat
  rotCopied : Nat
  seq : Word
  torn : BitVec 16
  conflict : BitVec 16
  pendingLog : List (BitVec 512)
  appendStep : Nat
  boots : Word
  boot : Boot
  bootAt : DWord
  recovery : Bool
  replant : Option (Fin 2)
  order512 : Bool
deriving DecidableEq, Repr

/-- A mailbox command that runs (R385). -/
inductive MbxOp where
  | none
  | monitor
  | erase (copy : Fin 2) (refused : Bool)
  | write (copy : Fin 2) (off len : Nat) (result : BitVec 4)
  | check (copy : Fin 2) (refused : Bool)
deriving DecidableEq, Repr

/-- PF0's device registers, the mailbox and the SR-IOV settings (R302, R385, R388, R390). -/
structure Pf0 where
  vfEnable : Bool
  numVfs : BitVec 16
  lastPart : BitVec 4
  reportCause : BitVec 4
  jobsLost : Bool
  winBlock : BitVec 8
  winPage : BitVec 2
  mbxArg : Word
  mbxBusy : Bool
  mbxOp : MbxOp
  mbxResult : BitVec 4
  mbxLen : BitVec 16
  mbxData : Tab Byte
deriving DecidableEq, Repr

/-- Phase of a stake pin: reset and strap are park level; a changing pin is parked, then its input is blanked
(R444, R446). -/
inductive PinPhase where
  | park | blank | run
deriving DecidableEq, Repr

/-- Pins, UART and the management SPI target (R443 to R457). `levels` is what the board gives each stake pin, `pinAt` when each
pin entered its phase, `syncAt` the start of the last SYNC pulse, `uartOut` the characters sent and `spiMiso` the words of the
last frame. -/
structure Pins where
  mrstLow : Bool
  phase : BitVec 2
  straps : BitVec 4
  levels : BitVec 8
  pins : Vector PinPhase 8
  pinAt : Vector DWord 8
  fns : Vector (BitVec 8) 3
  syncOn : Bool
  gpioOut : BitVec 3
  beat : Bool
  beatAt : DWord
  syncAt : Option DWord
  div : BitVec 16
  divNext : Option (BitVec 16)
  framing : BitVec 8
  overflow : BitVec 8
  fifo : List Byte
  uartLine : List Byte
  uartOut : List Byte
  spiPartial : BitVec 16
  spiOverrun : BitVec 8
  spiRefused : BitVec 8
  spiResult : BitVec 4
  spiFrames : BitVec 16
  spiMiso : List Word
deriving DecidableEq, Repr

/-- The Lamtoad monitor (R459): lines waiting in arrival order, each with whether it came by the mailbox. -/
structure Monitor where
  lines : List (Bool × List Byte)
deriving DecidableEq, Repr

/-- A stream context of the codec die (R426, R435). -/
structure Stream where
  sp : StreamParams
  frames : Nat
  outBytes : Nat
  index : Nat
deriving DecidableEq, Repr

/-- One codec pipe (R437) with the frame it codes. -/
structure Pipe where
  state : BitVec 2
  owner : BitVec 4
  owned : Bool
  user : BitVec 4
  lent : Bool
  paired : Bool
  ctx : BitVec 5
  lastCtx : Option (Fin 32)
  frame : Option FrameCmd
  count : Word
  ueOnce : Bool
deriving DecidableEq, Repr

/-- The codec die (R437). Completions of FRAMEs are (context, status). -/
structure Codec where
  pipes : Vector Pipe 8
  ctxs : Vector (Option Stream) 32
  ce : BitVec 8
  ue : BitVec 8
  bitstream : BitVec 8
  unsupported : BitVec 8
  recode : BitVec 16
  viol : BitVec 16
  clamp : Word
  fw : Word
  done : List (Fin 32 × BitVec 8)
  trace : List (BitVec 256)
deriving DecidableEq, Repr

/-- One exchange of TIME frames: offset and round trip in ns (R401). -/
structure Exchange where
  offset : Int
  trip : Int
deriving DecidableEq, Repr

/-- Broelavel Link of the device (R391 to R404). `slew` is what is left to slew in the ms, in ns; `slewHeld` that the
counter has been held back at its present value; `slewOnly` that a partition has become OPEN (R401). -/
structure Bvl where
  ports : Vector Port 8
  flows : List Flow
  wire : List (PortIx × Frame)
  master : BitVec 12
  synced : Bool
  holdover : Bool
  isMaster : Bool
  offset : Word
  exchanges : List Exchange
  lastOk : DWord
  slew : Int
  slewHeld : Bool
  slewOnly : Bool
deriving DecidableEq, Repr

/-- One Trellis module of a link in one direction: its faulty lanes, its width in lanes, and at half width whether lanes 32 to 63
survive (R480). -/
structure TrModule where
  link : Nat
  dir : Bool
  index : Nat
  faults : List Nat
  width : Nat
  upper : Bool
deriving DecidableEq, Repr

/-- Trellis: the modules with a faulty lane; the flit in progress on each link, with its replays and the lanes to which its
failures were attributed; the second whose lane failures are counted; the faulty lanes not yet acted on; the links lost; and how
often lanes and modules have returned (R480, R484). A lane is named by its link and its sub-index of R475. -/
structure Trellis where
  modules : List TrModule
  flits : List (Nat × Nat × List Nat)
  sec : Nat
  laneFails : List (Nat × Nat × Nat)
  due : List (Nat × Nat)
  lost : List Nat
  returns : Tab Nat
deriving DecidableEq, Repr

/-- The Almanac's device-wide registers and the walkers (R164, R173), and the high halves that gardener cores, the monitor and the
management SPI have latched (R372, R449). -/
structure Almanac where
  walkDesc : DWord
  walkHole : Word
  walkFault : BitVec 16
  walkWait : BitVec 16
  leaves : Vector (List Nat) 8
  events : List (BitVec 8)
  hourAt : DWord
  dayAt : DWord
  latch : Tab Word
deriving DecidableEq, Repr

/-- The module. `pending` is the queue of commands, first in, first out; `fresh` counts the free values taken. -/
structure State where
  time : DWord
  plots : Vector Plot 128
  beds : Vector Bed 16
  cis : Vector Cistern 2
  parts : Vector Part 16
  fns : Vector Fn 17
  cores : Vector Core 8
  fence : Fence
  image : Image
  dev : DeviceImage
  pf0 : Pf0
  pins : Pins
  monitor : Monitor
  codec : Codec
  bvl : Bvl
  trellis : Trellis
  alm : Almanac
  mem : Memories
  fresh : Nat
  pending : List Instr
deriving DecidableEq, Repr

/-! ### Reset values -/

/-- An empty issue lane. -/
def LaneSt.reset : LaneSt := { queue := [], held := [], stage := .queued, run := none }

/-- Layer state cleared (R119). -/
def Layer.reset : Layer := { id := 0, count := 0, rung := 0, wide := false }

/-- Watch registers at reset (R122 to R125). -/
def WatchRegs.reset : WatchRegs :=
  { sat := 0, range := 0, nan := 0, escalated := 0, unresolved := 0, layer := Layer.reset, exceeded := 0,
    fromRung := 0, toRung := 0, lastUnres := false, tile := 0, cyc := 0 }

/-- An SFU slot with no table (R148). -/
def SfuSlot.reset : SfuSlot :=
  { valid := false, kind := 0, inFmt := 0, outFmt := 0, nseg := 0, func := 0, table := [] }

/-- The generator at plot reset and power-on: (1, 0, 0, 0) (R198, R209). -/
def Rng.reset : Rng :=
  { s0 := 1, s1 := 0, s2 := 0, s3 := 0, staged0 := none, staged1 := none, staged2 := none, load := none, draws := 0 }

/-- No ring tags. -/
def PageRing.reset : PageRing := { addr := 0, pages := 0, slots := [], order := [] }

/-- No walk. -/
def Walk.reset : Walk := { pos := 0, wait := .none, queue := [], fetched := 0 }

/-- A performance counter at reset (R472). -/
def Perf.reset : Perf := { count := 0, ovf := false }

/-- Error registers of a plot at reset (R94, R149). -/
def PlotErr.reset : PlotErr :=
  { ce := 0, ue := 0, lastBank := 0, lastRow := 0, lastUe := false, mismatch := 0, fault := 0, sfuCe := 0,
    sfuUe := 0 }

/-- Window counts of a plot at reset (R473). -/
def PlotWin.reset : PlotWin := 
  { bankCe := [], mismatch := 0, fault := 0, ueBanks := 0, returns := 0, bankReturns := [] }

/-- A plot at power-on (R89 to R94, R209). -/
def Plot.reset : Plot :=
  { mode := .reset, clkGated := false, reduced := true, reducedReq := none, haltCause := 0, era := 0, banks := 0,
    part := 0, unassigned := true, pgReq := false, cgDis := false, lastTag := 0, lastOp := 0, lastStatus := 0,
    faultAddr := 0, err := PlotErr.reset, win := PlotWin.reset, compute := LaneSt.reset, move := LaneSt.reset,
    flushing := false, flushRec := false, resumeAfter := false, watch := WatchRegs.reset, sfu := Vector.replicate 8 SfuSlot.reset,
    sfuDefault := 1, sfuOverride := true, rngClass := 8, rng := Rng.reset, ring := PageRing.reset,
    walk := Walk.reset, layerLoad := none, perfSel := Vector.replicate 4 0, perf := Vector.replicate 4 Perf.reset,
    capture := none }

/-- No dropped writes (R297). -/
def EpochDrop.reset : EpochDrop := { stale := 0, foreign := 0 }

/-- A bed at power-on (R297, R298, R345). -/
def Bed.reset : Bed :=
  { sems := Vector.replicate 64 0, ring := [], energy := 0, cap := 0, debited := 0, target := 0, current := 0,
    stepping := none, share := 0, mirror := [], epochs := [], drop := EpochDrop.reset, ctxSel := 0, trace := [] }

/-- A channel at power-on: training (R257). -/
def Chan.reset : Chan :=
  { state := 0, linkCe := 0, ce := 0, ue := 0, hourCe := 0, dayUe := 0, trainFails := 0, returns := 0,
    refreshed := none }

/-- Halo registers at reset (R195). -/
def Halo.reset : Halo :=
  { stall := Vector.replicate 16 0, time := Vector.replicate 16 0, longTag := 0, longPart := 0, longPlot := 0,
    longValid := false, longNeed := 0, longCurrent := 0, regress := 0, tags := [] }

/-- A partition's ranges and shares in a cistern before an image is in force (R238). -/
def CisPart.reset : CisPart :=
  { t2Base := 0, t2Size := 0, quota := 0, lpddr := 0, t2 := 0, carrier := 0, drop := EpochDrop.reset, gate := 0 }

/-- Memory-error registers at reset (R257). -/
def MemErrRegs.reset : MemErrRegs :=
  { ce := 0, chk := 0, ue := 0, rate := 0, lastSector := 0, lastCw := 0, lastScrub := false, lastValid := false,
    scrubPass := 0 }

/-- A directory half at reset: every entry Unheld (R229, R240). -/
def DirHalf.reset : DirHalf :=
  { entries := [], queue := [], ptr := 0, reads := 0, owns := 0, recalls := 0, ties := 0, external := 0 }

/-- Link and collective counters at reset (R404, R421). -/
def LinkRegs.reset : LinkRegs :=
  { lateSent := 0, lateReceived := 0, lateReplayed := 0, lateIgnored := 0, unreach := 0, badFrame := 0,
    collDone := 0, collTimeout := 0, collMismatch := 0, collBytes := 0 }

/-- A cistern at power-on. -/
def Cistern.reset : Cistern :=
  { parts := Vector.replicate 16 CisPart.reset, xltBusy := none, xltMiss := 0, xltFault := 0, xltDropped := 0,
    xltCache := [], dir := DirHalf.reset, mem := MemErrRegs.reset, chans := Vector.replicate 64 Chan.reset,
    halo := Halo.reset, epochs := [], link := LinkRegs.reset,
    perfSel := Vector.replicate 8 { event := 0, part := 0, all := false }, perf := Vector.replicate 8 Perf.reset,
    chunks := [], settles := [], trace := [] }

/-- Memories with nothing listed. -/
def Memories.reset : Memories :=
  { ram := [], t3 := [], chk := [], dirty := [], xlt := [], pendingChk := [], relocating := none, lost := [],
    host := [] }

/-- A free cutting (R472). -/
def Cutting.reset : Cutting :=
  { state := 0, trunc := false, pieces := 0, job := 0, layer := 0, oper := 0, pass := 0, base := 0, size := 0,
    wptr := 0, cost := 0, energy := 0, dropAfter := false }

/-- Tracing off (R472). -/
def Trace.reset : Trace :=
  { on := false, wrap := false, full := false, half := false, pages := 0, base := 0, wptr := 0, lost := 0, seq := 0,
    count := 0, stopping := false }

/-- Image fields of a partition that no image has defined: nothing owned, and the defaults the manual names. -/
def PartImage.reset : PartImage :=
  { beds := 0, t0Plots := 0, gtShare := 8, t3Gib := 0, spillGib := 0, bvlShare := 0, encPipes := 0, decPipes := 0,
    resetZero := false, shareW := 0, irqRate := 512, irqMinUs := 8, rerun := 32, retry := 4, faultBeds := 1,
    passRetry := 2, exp1 := 16, exp2 := 32, exp3 := 64, slackDef := 250000, compat := false, sfuMode := 1,
    sfuOverride := true, rngClass := 8 }

/-- A partition at reset (R276, R277, R299, R318). -/
def Part.reset : Part :=
  { defined := false, img := PartImage.reset, adm := 2, fPlan := 0, reserveUsed := false, jobs := [],
    counts := Vector.replicate 8 0, execs := Vector.replicate 4 0, resetStep := .none, resetDone := false,
    zeroing := false, resets := 0, absorbed := 0, models := [], nextHandle := 1, gens := [],
    bal := 0, mw := 0, carrier := [], carrierRing := [], fabric := [], fabricOld := [], colls := [], readies := [], wrote := [], fabricRing := [],
    gateSince := none, trace := Trace.reset, cuts := Vector.replicate 16 Cutting.reset,
    withdrawn := 0, scaledShare := 0 }

/-- A detached queue pair (R389). -/
def Qp.reset : Qp :=
  { sqBase := 0, cqBase := 0, sqLog := 0, cqLog := 0, en := false, resumeSeq := false, ssnInit := 0, csnInit := 0,
    nextSsn := 0, limit := 0, lastCsn := 0, consumed := 0, state := 0, detaching := false, stall := false, err := 0,
    dbDrop := 0, accepted := [], ready := [], journal := [] }

/-- A vector at reset (R317). -/
def Vec.reset : Vec :=
  { addr := 0, data := 0, mask := true, modCount := 1, modTime := 0, events := 0, firstAt := 0, lastAt := none,
    late := false }

/-- A function at reset (R317, R387, R389). -/
def Fn.reset : Fn :=
  { cause := 0, vecs := Vector.replicate 8 Vec.reset, sent := 0, throttled := 0, budget := 0, fnMask := false,
    accCount := 0, accKind := 0, accBar := 0, accOffset := 0, qps := Vector.replicate 4 Qp.reset, latch := [],
    aer := [], atsDone := 0 }

/-- Three equal good copies (R338). -/
def Tri.of {n : Nat} (v : BitVec n) : Tri n := { a := v, b := v, c := v, okA := true, okB := true, okC := true }

/-- The Fence's limits before it has read any image: the defaults that R341 and R455 name, no share and no port. -/
def FenceRegs.reset : FenceRegs :=
  { cap := Tri.of 0xA5DC, base := Tri.of 120, share := Vector.replicate 16 (Tri.of 0), therm := Tri.of 0x3C37369,
    pinStep := Tri.of 8, linkEn := Tri.of 0, wdog := Tri.of 0x414 }

/-- A gardener core at reset. -/
def Core.reset : Core :=
  { beat := 0, seen := 0, seenAt := 0, restarting := false, held := false, expiries := [], returns := 0 }

/-- The Fence at power-on (R342 to R344). -/
def Fence.reset : Fence :=
  { mode := 0, lockstepAt := none, restarting := false, safeCause := 0, safe := false, regs := FenceRegs.reset,
    loaded := false, ceils := Vector.replicate 16 { therm := 24, cap := 24, coolMs := 0 }, resetCause := 0,
    repaired := 0, lockstep := 0, foreign := 0, foreignSrc := 0, foreignAddr := 0, foreignAt := none, energy := 0,
    power := 0, bal := 3000000, hold := 0, holdLong := 0, holdUs := 0, holdAt := 0, longDone := false, tempMax := 0,
    tempSensor := 0, tripSeen := 0, supply := .good, supplyAt := 0, throttleLow := false, pinLift := none, alertAt := none,
    alertMin := false }

/-- The defaults of the FAULT section (R474). -/
def FaultImage.reset : FaultImage :=
  { lpCeHr := 256, lpUeDay := 2, lpRetry := 2, lpTrain := 3, bvlSerExp := 5, trReplay := 8, trLaneSec := 64,
    spCeHr := 16, bankMax := 4, resMisHr := 8, resFaultDay := 1, retMax := 3 }

/-- The defaults of the BVL section (R403). -/
def BvlImage.reset : BvlImage :=
  { devId := 0, eligible := false, vlanEn := false, etherType := 0, macPrefix := 0, vlanId := 0, pcps := 0,
    replayMs := 0, window := 0 }

/-- Device-wide image fields before an image is in force. -/
def DeviceImage.reset : DeviceImage :=
  { spareGib := 0, scrubPeriod := 24, haloLimit := 1000, pgIdle := 2000, traceEn := false, cuttingEn := false,
    perfEn := false, stkFn := Vector.replicate 3 0, syncEn := false, partCount := 0, mirror := Vector.replicate 16 0,
    fault := FaultImage.reset, bvl := BvlImage.reset, sfuSets := [], codecFw := 0 }

/-- The image registers at power-on, with both flash devices erased (R346, R367). -/
def Image.reset : Image :=
  { flash := Vector.replicate 2 [], keyHash := Vector.replicate 4 0, revoked := 0, copy := 2, debugOn := false,
    forced := false, monitorStrap := false, safeBoot := false, stage := 0, gen := 0, digest := 0, aReason := 0,
    bReason := 0, sector := false, rotating := false, rotStep := 0, rotCopied := 0, seq := 0, torn := 0,
    conflict := 0, pendingLog := [], appendStep := 0, boots := 0, boot := .off, bootAt := 0, recovery := false, replant := none,
    order512 := false }

/-- PF0 at reset (R302, R388, R390). -/
def Pf0.reset : Pf0 :=
  { vfEnable := false, numVfs := 0, lastPart := 0, reportCause := 0, jobsLost := false, winBlock := 0, winPage := 0,
    mbxArg := 0, mbxBusy := false, mbxOp := .none, mbxResult := 0, mbxLen := 0, mbxData := [] }

/-- The pins at reset (R443, R457). -/
def Pins.reset : Pins :=
  { mrstLow := false, phase := 0, straps := 15, levels := 255,
    pins := Vector.replicate 8 .park, pinAt := Vector.replicate 8 0, fns := Vector.replicate 3 0, syncOn := false, gpioOut := 0, beat := false,
    beatAt := 0, syncAt := none, div := 651, divNext := none, framing := 0, overflow := 0, fifo := [], uartLine := [],
    uartOut := [], spiPartial := 0, spiOverrun := 0, spiRefused := 0, spiResult := 0, spiFrames := 0,
    spiMiso := [] }

/-- A free codec pipe (R437). -/
def Pipe.reset : Pipe :=
  { state := 0, owner := 0, owned := false, user := 0, lent := false, paired := false, ctx := 0, lastCtx := none,
    frame := none, count := 0, ueOnce := false }

/-- The codec die at reset (R437). -/
def Codec.reset : Codec :=
  { pipes := Vector.replicate 8 Pipe.reset, ctxs := Vector.replicate 32 none, ce := 0, ue := 0, bitstream := 0,
    unsupported := 0, recode := 0, viol := 0, clamp := 0, fw := 0, done := [], trace := [] }

/-- A BVL port at reset: off (R404). -/
def Port.reset : Port :=
  { state := 0, half := false, laneBad := 0, trainFail := 0, fecCorr := 0, fecUncorr := 0, resent := 0,
    timeouts := 0, fails := 0, laneFails := Vector.replicate 8 0, narrow := false, testing := false, returns := 0,
    laneReturns := Vector.replicate 8 0 }

/-- Broelavel Link at reset (R404). -/
def Bvl.reset : Bvl :=
  { ports := Vector.replicate 8 Port.reset, flows := [], wire := [], master := 0, synced := false, holdover := false,
    isMaster := false, offset := 0, exchanges := [], lastOk := 0, slew := 0,
    slewHeld := false, slewOnly := false }

/-- The Almanac's registers at reset (R173). -/
def Almanac.reset : Almanac :=
  { walkDesc := 0, walkHole := 0, walkFault := 0, walkWait := 0, leaves := Vector.replicate 8 [], events := [],
    hourAt := 0, dayAt := 0, latch := [] }

/-- The module right after power-on reset (R311): every register at its reset value, nothing in any queue or memory,
both flash devices erased and no image in force. -/
def State.reset : State :=
  { time := 0, plots := Vector.replicate 128 Plot.reset, beds := Vector.replicate 16 Bed.reset,
    cis := Vector.replicate 2 Cistern.reset, parts := Vector.replicate 16 Part.reset,
    fns := Vector.replicate 17 Fn.reset, cores := Vector.replicate 8 Core.reset, fence := Fence.reset,
    image := Image.reset, dev := DeviceImage.reset, pf0 := Pf0.reset, pins := Pins.reset,
    monitor := { lines := [] }, codec := Codec.reset, bvl := Bvl.reset,
    trellis := { modules := [], flits := [], sec := 0, laneFails := [], due := [], lost := [], returns := [] }, alm := Almanac.reset,
    mem := Memories.reset, fresh := 0, pending := [] }

end Sys2Proof.Machine
end

