-- ==== Sys2Proof/Machine/Bits.lean ====
section
/-! DEFINITION. Bit fields of descriptors and registers, little-endian byte strings, saturating and serial arithmetic,
and the sparse tables that hold memories (R6, R7, R9). -/

namespace Sys2Proof.Machine

/-- Quotient rounded up. -/
def cdiv (a b : Nat) : Nat := (a + b - 1) / b

/-- `a` rounded up to a multiple of `b`. -/
def roundUp (a b : Nat) : Nat := cdiv a b * b

/-- Bits [hi:lo] of a number. -/
def bitsOf (v hi lo : Nat) : Nat := v >>> lo % 2 ^ (hi - lo + 1)

/-- Bits [hi:lo] of the little-endian field at byte offset `off` of a descriptor (R6). -/
def fld {n : Nat} (d : BitVec n) (off hi lo : Nat) : Nat := bitsOf d.toNat (8 * off + hi) (8 * off + lo)

/-- One bit of a descriptor as a truth value. -/
def flag {n : Nat} (d : BitVec n) (off bit : Nat) : Bool := fld d off bit bit == 1

/-- A number with bits [hi:lo] replaced by the low bits of `x`. -/
def setBits (v hi lo x : Nat) : Nat :=
  let w := hi - lo + 1
  v - (bitsOf v hi lo) <<< lo + (x % 2 ^ w) <<< lo

/-- The `n` bytes of a number, least significant first. -/
def bytesOf : Nat → Nat → List Byte
  | 0, _ => []
  | n + 1, v => BitVec.ofNat 8 v :: bytesOf n (v / 256)

/-- The number whose bytes, least significant first, are given. -/
def natOf : List Byte → Nat
  | [] => 0
  | b :: bs => b.toNat + 256 * natOf bs

/-- A counter after `k` more events: it saturates at all ones (R9). -/
def satAdd {w : Nat} (x : BitVec w) (k : Nat) : BitVec w :=
  if x.toNat + k ≥ 2 ^ w - 1 then BitVec.ofNat w (2 ^ w - 1) else BitVec.ofNat w (x.toNat + k)

/-- `a` is serially greater than `b` at width `w`; two values half the range apart are neither (R7). -/
def serialGt (w a b : Nat) : Bool :=
  let d := (a + 2 ^ w - b % 2 ^ w) % 2 ^ w
  0 < d && d < 2 ^ (w - 1)

/-- Chunks of `n`, at most `fuel` of them. -/
def chunksFuel {α : Type} (n : Nat) : Nat → List α → List (List α)
  | 0, _ => []
  | fuel + 1, l => if l.isEmpty then [] else l.take n :: chunksFuel n fuel (l.drop n)

/-- Split a list into chunks of `n`. -/
def chunksOf {α : Type} (n : Nat) (l : List α) : List (List α) := chunksFuel n l.length l

/-- Replace the element at a position. -/
def listSet {α : Type} : List α → Nat → α → List α
  | [], _, _ => []
  | _ :: t, 0, x => x :: t
  | h :: t, i + 1, x => h :: listSet t i x

/-- Replace every element that satisfies `p`. -/
def updateWhere {α : Type} (p : α → Bool) (f : α → α) (l : List α) : List α :=
  l.map fun x => if p x then f x else x

/-- The first status whose breach holds (the order of the checks is the order of the list). -/
def firstBreach : List (Bool × Nat) → Option Nat
  | [] => none
  | (b, st) :: t => if b then some st else firstBreach t

/-- Two's complement value of a `w`-bit number. -/
def signed (w v : Nat) : Int := if v < 2 ^ (w - 1) then v else (v : Int) - 2 ^ w

/-- `w`-bit two's complement code of an integer. -/
def unsigned (w : Nat) (v : Int) : Nat := (v % 2 ^ w).toNat

/-! ### Sparse tables -/

/-- What a table holds at a key: `d` where nothing is listed. -/
def tabGet {α : Type} (d : α) (t : Tab α) (k : Nat) : α := (t.lookup k).getD d

/-- The listed entries of consecutive values from key `a`. -/
def tabEntries {α : Type} [DecidableEq α] (d : α) : Nat → List α → Tab α
  | _, [] => []
  | a, v :: vs => if v = d then tabEntries d (a + 1) vs else (a, v) :: tabEntries d (a + 1) vs

/-- A table with consecutive values written from key `a` on. A value equal to the default is not listed. -/
def tabWrite {α : Type} [DecidableEq α] (d : α) (t : Tab α) (a : Nat) (vs : List α) : Tab α :=
  t.filter (fun e => e.1 < a) ++ tabEntries d a vs ++ t.filter (fun e => a + vs.length ≤ e.1)

/-- A table with one value written. -/
def tabSet {α : Type} [DecidableEq α] (d : α) (t : Tab α) (k : Nat) (v : α) : Tab α := tabWrite d t k [v]

/-- `n` consecutive values from key `a` on, walking entries in rising key order. -/
def tabWalk {α : Type} (d : α) : Nat → Nat → Tab α → List α
  | 0, _, _ => []
  | n + 1, a, [] => d :: tabWalk d n (a + 1) []
  | n + 1, a, (k, v) :: t => if k = a then v :: tabWalk d n (a + 1) t else d :: tabWalk d n (a + 1) ((k, v) :: t)

/-- `n` consecutive values from key `a` on. -/
def tabRead {α : Type} (d : α) (t : Tab α) (a n : Nat) : List α :=
  tabWalk d n a (t.filter fun e => a ≤ e.1 && e.1 < a + n)

/-- A table with the keys of a range returned to the default. -/
def tabClear {α : Type} (t : Tab α) (a n : Nat) : Tab α := t.filter fun e => e.1 < a || a + n ≤ e.1

/-- A table with the value of every entry changed. -/
def tabMap {α : Type} [DecidableEq α] (d : α) (f : Nat × α → α) (t : Tab α) : Tab α :=
  (t.map fun e => (e.1, f e)).filter fun e => e.2 ≠ d

/-- The canonical form: keys strictly rising and no entry equal to the default. -/
def tabWf {α : Type} [DecidableEq α] (d : α) : Tab α → Bool
  | [] => true
  | [(_, v)] => v ≠ d
  | (k, v) :: (k', v') :: t => v ≠ d && k < k' && tabWf d ((k', v') :: t)

end Sys2Proof.Machine
end

