-- ==== Sys2Proof/Machine/Num.lean ====
section
/-! DEFINITION. Number formats and arithmetic: exact values, rounding, the element formats of R31, conversion (R44,
R45), block quantisation (R38), block sums and the two splits (R40 to R50), and the fixed-point enclosures behind
EXP40, LN40 and the normal draw. -/

namespace Sys2Proof.Machine

/-- A value that an element encodes. Zero keeps its sign; magnitudes are not negative. -/
inductive XVal where
  | nan
  | inf (neg : Bool)
  | fin (neg : Bool) (mag : Rat)
deriving DecidableEq, Repr

/-- +0. -/
def xzero : XVal := .fin false 0

/-- An exact rational as a value; zero is +0. -/
def xofRat (q : Rat) : XVal := if q < 0 then .fin true (-q) else .fin false q

/-- The rational of a finite value, 0 for the others. -/
def xrat : XVal → Rat
  | .fin n m => if n then -m else m
  | _ => 0

/-- Whether a value is NaN. -/
def xisNan (x : XVal) : Bool := x == .nan

/-- Whether a value is an infinity. -/
def xisInf : XVal → Bool
  | .inf _ => true
  | _ => false

/-- Whether a value is a zero of either sign. -/
def xisZero : XVal → Bool
  | .fin _ m => m == 0
  | _ => false

/-- The negated value. -/
def xneg : XVal → XVal
  | .nan => .nan
  | .inf n => .inf (!n)
  | .fin n m => .fin (!n) m

/-- The magnitude. -/
def xabs : XVal → XVal
  | .nan => .nan
  | .inf _ => .inf false
  | .fin _ m => .fin false m

/-- Exact sum. A zero sum is -0 only when both terms are -0 or negative zeros of the same sign (R31). -/
def xadd : XVal → XVal → XVal
  | .nan, _ => .nan
  | _, .nan => .nan
  | .inf a, .inf b => if a == b then .inf a else .nan
  | .inf a, _ => .inf a
  | _, .inf b => .inf b
  | .fin a m, .fin b n =>
    let r := xrat (.fin a m) + xrat (.fin b n)
    if r = 0 then .fin (a && b) 0 else xofRat r

/-- Exact product under R43. -/
def xmul : XVal → XVal → XVal
  | .nan, _ => .nan
  | _, .nan => .nan
  | .inf a, .inf b => .inf (a != b)
  | .inf a, .fin b n => if n = 0 then .nan else .inf (a != b)
  | .fin a m, .inf b => if m = 0 then .nan else .inf (a != b)
  | .fin a m, .fin b n => .fin (a != b) (m * n)

/-- Exact sum of a list, +0 when it is empty. -/
def xsum : List XVal → XVal
  | [] => xzero
  | x :: xs => xs.foldl xadd x

/-- A value times an exact factor that is not negative; an infinity times a zero scale is NaN (R43). -/
def xscale (q : Rat) : XVal → XVal
  | .fin n m => .fin n (m * q)
  | .inf n => if q = 0 then .nan else .inf n
  | .nan => .nan

/-- Numerical comparison: +0 and -0 are equal and NaN compares false. -/
def xlt : XVal → XVal → Bool
  | .nan, _ => false
  | _, .nan => false
  | .inf a, .inf b => a && !b
  | .inf a, .fin _ _ => a
  | .fin _ _, .inf b => !b
  | x, y => xrat x < xrat y

/-- The larger of two values: NaN if either is, and +0 above -0 (R62, R144). -/
def xmax (x y : XVal) : XVal :=
  if xisNan x || xisNan y then .nan
  else if xlt x y then y else if xlt y x then x
  else match x with
    | .fin true _ => y
    | _ => x

/-- The smaller of two values, with -0 below +0 (R62). -/
def xmin (x y : XVal) : XVal := xneg (xmax (xneg x) (xneg y))

/-! ### Rounding -/

/-- 2^e. -/
def pow2 (e : Int) : Rat := if e < 0 then 1 / ((2 ^ (-e).toNat : Nat) : Rat) else ((2 ^ e.toNat : Nat) : Rat)

/-- floor(log2 q) of a positive rational. -/
def ilog2 (q : Rat) : Int :=
  let e : Int := (Nat.log2 q.num.toNat : Int) - (Nat.log2 q.den : Int)
  if pow2 e ≤ q then e else e - 1

/-- The rounding of one conversion: nearest-even, stochastic with its 16 bits, or toward zero (R44, R203). -/
inductive Rnd where
  | rne
  | sr (r : Nat)
  | rtz
deriving DecidableEq, Repr

/-- A magnitude in units of the ulp, rounded to an integer. -/
def roundNat (m : Rat) : Rnd → Nat
  | .rne =>
    let f := m.num.toNat / m.den
    let r := m - (f : Rat)
    if r > 1 / 2 || (r = 1 / 2 && f % 2 == 1) then f + 1 else f
  | .sr r => (m + (r : Rat) / 65536).floor.toNat
  | .rtz => m.num.toNat / m.den

/-- A magnitude rounded to `mb` mantissa bits below its leading one, with subnormals below 2^emin. -/
def roundMag (mb : Nat) (emin : Int) (rnd : Rnd) (q : Rat) : Rat :=
  if q = 0 then 0
  else
    let u := max (ilog2 q) emin - mb
    (roundNat (q / pow2 u) rnd : Rat) * pow2 u

/-- The largest finite FP32 magnitude. -/
def fp32Max : Rat := ((2 ^ 24 - 1 : Nat) : Rat) * pow2 104

/-- rne32 of R41. -/
def rne32 : XVal → XVal
  | .fin n m =>
    let r := roundMag 23 (-126) .rne m
    if r > fp32Max then .inf n else .fin n r
  | x => x

/-- rnd40 of R136: a 40-bit significand with an unbounded exponent. -/
def rnd40 (q : Rat) : Rat :=
  if q = 0 then 0
  else
    let m := if q < 0 then -q else q
    let u := ilog2 m - 39
    let r := (roundNat (m / pow2 u) .rne : Rat) * pow2 u
    if q < 0 then -r else r

/-! ### Element formats (R31) -/

/-- A floating-point element layout: exponent bits, mantissa bits, bias, largest finite magnitude. -/
structure FloatFmt where
  eb : Nat
  mb : Nat
  bias : Int
  top : Rat

/-- FP4 E2M1. -/
def fmtE2M1 : FloatFmt := { eb := 2, mb := 1, bias := 1, top := 6 }
/-- FP8 E4M3. -/
def fmtE4M3 : FloatFmt := { eb := 4, mb := 3, bias := 7, top := 448 }
/-- FP8 E5M2. -/
def fmtE5M2 : FloatFmt := { eb := 5, mb := 2, bias := 15, top := 57344 }
/-- BF16. -/
def fmtBF16 : FloatFmt := { eb := 8, mb := 7, bias := 127, top := 255 * pow2 120 }
/-- FP32. -/
def fmtFP32 : FloatFmt := { eb := 8, mb := 23, bias := 127, top := fp32Max }

/-- Exponent of the smallest normal number. -/
def FloatFmt.emin (f : FloatFmt) : Int := 1 - f.bias

/-- The element layout that a format code stores (R34), for the codes whose elements are floating point. -/
def floatOf : Nat → Option FloatFmt
  | 0x2 => some fmtE2M1
  | 0x3 => some fmtE4M3
  | 0x4 => some fmtE5M2
  | 0x5 => some fmtBF16
  | 0x6 => some fmtFP32
  | 0x9 => some fmtE4M3
  | 0xA => some fmtE5M2
  | 0xB => some fmtE2M1
  | 0xC => some fmtE2M1
  | _ => none

/-- Element width in bits of a format code; 64 for pairs (R31, R51, R103). -/
def fmtBits : Nat → Nat
  | 0x0 => 4
  | 0x1 => 8
  | 0x2 => 4
  | 0x3 => 8
  | 0x4 => 8
  | 0x5 => 16
  | 0x6 => 32
  | 0x7 => 64
  | 0x8 => 8
  | 0x9 => 8
  | 0xA => 8
  | 0xB => 4
  | 0xC => 4
  | 0xD => 32
  | _ => 8

/-- Block length of a block format, 0 for the others (R34). -/
def fmtBlock : Nat → Nat
  | 0x8 => 32
  | 0x9 => 32
  | 0xA => 32
  | 0xB => 32
  | 0xC => 16
  | _ => 0

/-- Whether a code names a block format. -/
def isBlockFmt (f : Nat) : Bool := 0x8 ≤ f && f ≤ 0xC

/-- Whether a code names INT4, INT8 or INT32. -/
def isIntFmt (f : Nat) : Bool := f == 0x0 || f == 0x1 || f == 0xD

/-- The value of a floating-point code in a layout. -/
def decFloat (f : FloatFmt) (c : Nat) : XVal :=
  let neg := c / 2 ^ (f.eb + f.mb) % 2 == 1
  let e := c / 2 ^ f.mb % 2 ^ f.eb
  let m := c % 2 ^ f.mb
  let ieee := f.eb == 5 || f.eb == 8
  if ieee && e == 2 ^ f.eb - 1 then (if m == 0 then .inf neg else .nan)
  else if f.eb == 4 && e == 15 && m == 7 then .nan
  else if e == 0 then .fin neg ((m : Rat) * pow2 (f.emin - f.mb))
  else .fin neg (((2 ^ f.mb + m : Nat) : Rat) * pow2 ((e : Int) - f.bias - f.mb))

/-- The code of a representable magnitude with its sign. -/
def encFloat (f : FloatFmt) (neg : Bool) (m : Rat) : Nat :=
  let s := if neg then 2 ^ (f.eb + f.mb) else 0
  if m = 0 then s
  else
    let e := max (ilog2 m) f.emin
    let sig := (m / pow2 (e - f.mb)).num.toNat
    if sig < 2 ^ f.mb then s + sig else s + (e + f.bias).toNat * 2 ^ f.mb + (sig - 2 ^ f.mb)

/-- The code of an infinity (E5M2, BF16 and FP32 only). -/
def encInf (f : FloatFmt) (neg : Bool) : Nat :=
  (if neg then 2 ^ (f.eb + f.mb) else 0) + (2 ^ f.eb - 1) * 2 ^ f.mb

/-- The canonical NaN of a layout (R33). -/
def encNan (f : FloatFmt) : Nat :=
  if f.eb == 4 || f.eb == 5 then 0x7F else (2 ^ f.eb - 1) * 2 ^ f.mb + 2 ^ (f.mb - 1)

/-- The value of an element of a format code, before any block scale. MXINT8 elements are multiples of 2^-6 (R36). -/
def decElem (fmt c : Nat) : XVal :=
  match floatOf fmt with
  | some f => decFloat f c
  | none =>
    if fmt == 0x8 then xofRat ((signed 8 c : Rat) / 64)
    else if fmt == 0x7 then xadd (decFloat fmtFP32 (c % 2 ^ 32)) (decFloat fmtFP32 (c / 2 ^ 32))
    else xofRat (signed (fmtBits fmt) c : Rat)

/-- The value of an E8M0 scale, none for its NaN code (R36). -/
def decE8M0 (c : Nat) : Option Rat := if c == 255 then none else some (pow2 ((c : Int) - 127))

/-- The scale of a block from its scale byte: E8M0, or for FP4-B16 the E4M3 block scale, which reads as NaN with its
sign bit set or as the NaN code (R36, R37). -/
def decScale (fmt c : Nat) : Option Rat :=
  if fmt == 0xC then
    if c ≥ 127 then none else some (xrat (decFloat fmtE4M3 c))
  else decE8M0 c

/-! ### Conversion of results (R44, R45) -/

/-- Watch counts of R112: saturations, exponent-range misses, NaN and Inf results. -/
structure Counts where
  sat : Nat
  range : Nat
  nan : Nat
deriving DecidableEq, Repr

/-- No events. -/
def countsZero : Counts := { sat := 0, range := 0, nan := 0 }

/-- Sum of two counts. -/
def countsAdd (a b : Counts) : Counts := { sat := a.sat + b.sat, range := a.range + b.range, nan := a.nan + b.nan }

/-- A converted element with its events. -/
structure Conv where
  code : Nat
  ev : Counts
deriving DecidableEq, Repr

/-- Pack the events of one conversion. -/
def mkConv (code : Nat) (sat range nan : Bool) : Conv :=
  { code := code, ev := { sat := sat.toNat, range := range.toNat, nan := nan.toNat } }

/-- Conversion to an integer of `w` bits whose ulp is `ulp`; NaN gives 0 and counts as a NaN production. -/
def convInt (w : Nat) (ulp : Rat) (rnd : Rnd) : XVal → Conv
  | .nan => mkConv 0 false false true
  | .inf n => mkConv (if n then 2 ^ (w - 1) else 2 ^ (w - 1) - 1) true false false
  | .fin n m =>
    let r := roundNat (m / ulp) rnd
    let lim := if n then 2 ^ (w - 1) else 2 ^ (w - 1) - 1
    let c := min r lim
    mkConv (if n then unsigned w (-(c : Int)) else c) (lim < r) (m ≠ 0 && r == 0) false

/-- Conversion to an unscaled floating-point format under R45. -/
def convFloat (fmt : Nat) (f : FloatFmt) (sat : Bool) (rnd : Rnd) : XVal → Conv
  | .nan => if fmt == 0x2 then mkConv 0 false false true else mkConv (encNan f) false false true
  | .inf n =>
    if fmt == 0x2 || ((fmt == 0x3 || fmt == 0x4) && sat) then mkConv (encFloat f n f.top) true false false
    else if fmt == 0x3 then mkConv (encNan f) false false true
    else mkConv (encInf f n) false false true
  | .fin n m =>
    let r := roundMag f.mb f.emin rnd m
    if r > f.top then
      if sat || fmt == 0x2 then mkConv (encFloat f n f.top) true false false
      else if fmt == 0x3 then mkConv (encNan f) true false true
      else mkConv (encInf f n) true false true
    else mkConv (encFloat f n r) false (m ≠ 0 && r = 0) false

/-- Conversion of an exact value to an unscaled result format (R44, R45). -/
def convTo (fmt : Nat) (sat : Bool) (rnd : Rnd) (v : XVal) : Conv :=
  match floatOf fmt with
  | some f => convFloat fmt f sat rnd v
  | none => convInt (fmtBits fmt) 1 rnd v

/-- Conversion of one element of a block after division by its scale: always clamped (R38). -/
def convBlockElem (fmt : Nat) (rnd : Rnd) (v : XVal) : Conv :=
  match floatOf fmt with
  | some f =>
    match v with
    | .fin n m =>
      let r := roundMag f.mb f.emin rnd m
      if r > f.top then mkConv (encFloat f n f.top) true false false
      else mkConv (encFloat f n r) false (m ≠ 0 && r = 0) false
    | _ => mkConv 0 false false false
  | none => convInt 8 (1 / 64) rnd v

/-- emax_elem of R38. -/
def emaxElem : Nat → Int
  | 0x9 => 8
  | 0xA => 15
  | 0xB => 2
  | 0xC => 2
  | _ => 0

/-- The largest magnitude among finite values. -/
def amaxOf (vs : List XVal) : Rat := vs.foldl (fun a v => max a (xrat (xabs v))) 0

/-- The smallest E4M3 code from `c` up whose value is at least `q`, 448's code when none is. -/
def e4m3Above (q : Rat) : Nat → Nat → Nat
  | 0, c => c
  | n + 1, c => if q ≤ xrat (decFloat fmtE4M3 c) || c ≥ 126 then c else e4m3Above q n (c + 1)

/-- One quantised block: its scale byte, its element codes and the events (R38, R112). -/
structure QBlock where
  scale : Nat
  codes : List Nat
  ev : Counts
deriving DecidableEq, Repr

/-- Quantisation of one block (R38), each element with its own rounding. `ts` is the tensor scale of FP4-B16. A block with a NaN or an infinity gets the
NaN scale and zero element codes, and counts one NaN event for each element. -/
def quantBlock (fmt : Nat) (ts : Rat) (rnds : List Rnd) (vs : List XVal) : QBlock :=
  if vs.any fun v => xisNan v || xisInf v then
    { scale := if fmt == 0xC then 0x7F else 0xFF, codes := vs.map fun _ => 0,
      ev := { sat := 0, range := 0, nan := vs.length } }
  else
    let amax := amaxOf vs
    let (scale, q) :=
      if fmt == 0xC then
        let c := e4m3Above (amax / (6 * ts)) 126 1
        (c, xrat (decFloat fmtE4M3 c) * ts)
      else
        let e0 : Int := if amax = 0 then 0 else ilog2 amax - emaxElem fmt
        let e := max (-127) (min 127 e0)
        ((e + 127).toNat, pow2 e)
    let cs := (vs.zip rnds).map fun v => convBlockElem fmt v.2 (xscale (1 / q) v.1)
    { scale := scale, codes := cs.map (·.code), ev := (cs.map (·.ev)).foldl countsAdd countsZero }

/-! ### Accumulation (R40 to R43) -/

/-- A compensated pair (h, c). -/
structure Pair where
  h : XVal
  c : XVal
deriving DecidableEq, Repr

/-- The pair (0, 0). -/
def pairZero : Pair := { h := xzero, c := xzero }

/-- One scaled block sum added to a pair (R41). -/
def accStep (p : Pair) (x : XVal) : Pair :=
  let vh := rne32 x
  if xisNan p.h || xisNan vh then { h := .nan, c := .nan }
  else if xisInf p.h || xisInf vh then
    if xisInf p.h && xisInf vh && p.h != vh then { h := .nan, c := .nan }
    else if xisInf p.h then p else { p with h := vh }
  else
    let vl := rne32 (xadd x (xneg vh))
    let s := rne32 (xadd p.h vh)
    if xisInf s then { p with h := s }
    else
      let e := xadd (xadd p.h vh) (xneg s)
      { h := s, c := rne32 (xadd (rne32 (xadd p.c e)) vl) }

/-- The value that every consumer other than a pair reads: rne32(h + c), an infinite h giving that infinity (R51). -/
def pairSum (p : Pair) : XVal :=
  if xisNan p.h then .nan else if xisInf p.h then p.h else xadd p.h p.c

/-- Whether a finite scaled block sum becomes ±0 (R43). -/
def underflows (x : XVal) : Bool := !xisZero x && xisZero (rne32 x)

/-! ### Block sums and splits (R40, R47, R49) -/

/-- The three ways an array pass forms products: exact, BF16 split, FP32 split. -/
inductive SplitKind where
  | plain | bf16 | fp32
deriving DecidableEq, Repr

/-- One reduction block of one operand: its values, the pieces of each element (none where the element is excluded
from a split), the exponent the pieces carry, and the block's scale. -/
structure Blk where
  vals : List XVal
  pieces : List (Option (List Rat))
  exp : Int
  scale : Rat
  misses : Nat
deriving DecidableEq, Repr

/-- A flushed BF16 or FP32 operand: subnormals become zeros of the same sign (R46). -/
def flushSub : XVal → XVal
  | .fin n m => if m < pow2 (-126) then .fin n 0 else .fin n m
  | x => x

/-- Nearest E4M3 value of a rational, as used by the split of R47. -/
def nearE4M3 (q : Rat) : Rat :=
  let m := if q < 0 then -q else q
  let r := roundMag 3 (-6) .rne m
  if q < 0 then -r else r

/-- A block split into high and low E4M3 pieces (R47). Misses: flushed subnormals and elements below the exact range
of R48. -/
def splitBf16 (scale : Rat) (vs : List XVal) : Blk :=
  let f := vs.map flushSub
  let a := amaxOf f
  let e : Int := if a = 0 then 0 else max (-127) (min 127 (ilog2 a - 7))
  let piece : XVal → Option (List Rat)
    | .fin n m =>
      let y := xrat (.fin n m) / pow2 e
      let hi := nearE4M3 y
      some [hi, nearE4M3 (y - hi)]
    | _ => none
  let miss : XVal → Bool
    | .fin _ m => m ≠ 0 && (m < pow2 (-126) || m < pow2 (e - 2))
    | _ => false
  { vals := f, pieces := f.map piece, exp := e, scale := scale, misses := vs.countP miss }

/-- Balanced base-256 digit in [-128, 127]. -/
def mods256 (x : Int) : Int := (x + 128) % 256 - 128

/-- A block cut into three signed 8-bit slices (R49). Misses: flushed subnormals and non-zero elements whose X is 0
(R50). -/
def splitFp32 (scale : Rat) (vs : List XVal) : Blk :=
  let f := vs.map flushSub
  let a := amaxOf f
  let e : Int := if a = 0 then 0 else ilog2 a + 1
  let toX (n : Bool) (m : Rat) : Int :=
    let r := (roundNat (m * pow2 (22 - e)) .rne : Int)
    if n then -r else r
  let piece : XVal → Option (List Rat)
    | .fin n m =>
      let x := toX n m
      let s2 := mods256 x
      let x1 := (x - s2) / 256
      let s1 := mods256 x1
      some [(((x1 - s1) / 256 : Int) : Rat), (s1 : Rat), (s2 : Rat)]
    | _ => none
  let miss : XVal → Bool
    | .fin n m => m ≠ 0 && (m < pow2 (-126) || toX n m == 0)
    | _ => false
  { vals := f, pieces := f.map piece, exp := e, scale := scale, misses := vs.countP miss }

/-- A block whose products are formed exactly. -/
def plainBlk (scale : Rat) (vs : List XVal) : Blk :=
  { vals := vs, pieces := [], exp := 0, scale := scale, misses := 0 }

/-- The kept partial products of one element pair (R47, R49). -/
def pieceProd (k : SplitKind) (a b : List Rat) : Rat :=
  match k, a, b with
  | .bf16, [ha, la], [hb, lb] => ha * hb + ha * lb + la * hb
  | .fp32, [a0, a1, a2], [b0, b1, b2] =>
    a0 * b0 * pow2 32 + (a0 * b1 + a1 * b0) * pow2 24 + (a0 * b2 + a2 * b0 + a1 * b1) * pow2 16
  | _, _, _ => 0

/-- The exact scaled sum of one reduction block (R40), with the split that its pairing uses. -/
def blockSum (k : SplitKind) (a b : Blk) : XVal :=
  let raw :=
    match k with
    | .plain => xsum ((a.vals.zip b.vals).map fun p => xmul p.1 p.2)
    | _ =>
      let fin := (a.pieces.zip b.pieces).foldl (fun s p =>
        match p with
        | (some x, some y) => s + pieceProd k x y
        | _ => s) 0
      let spec := ((a.vals.zip b.vals).zip (a.pieces.zip b.pieces)).filterMap fun p =>
        match p.2 with
        | (some _, some _) => none
        | _ => some (xmul p.1.1 p.1.2)
      let e := if k = .bf16 then a.exp + b.exp else a.exp + b.exp - 44
      xsum (xofRat (fin * pow2 e) :: spec)
  xscale (a.scale * b.scale) raw

/-- INT32 accumulation of one exact integer block sum with saturation (R42): the accumulator and whether it
saturated. -/
def accInt (acc x : Int) : Int × Bool :=
  let s := acc + x
  if s > 2 ^ 31 - 1 then (2 ^ 31 - 1, true) else if s < -(2 ^ 31) then (-(2 ^ 31), true) else (s, false)

/-! ### Fixed-point enclosures

Numbers are integers in units of 2^-512. Every operation truncates, and the callers widen the result by a margin
that covers the truncations. -/

/-- The unit of the fixed-point enclosures. -/
def fxOne : Nat := 2 ^ 512

/-- Product of two fixed-point numbers. -/
def fxMul (a b : Nat) : Nat := a * b / fxOne

/-- Sum of a power series by its ratio of consecutive terms, `num`/`den` at each index. -/
def fxSeries (y : Nat) (ratio : Nat → Nat × Nat) : Nat → Nat → Nat → Nat
  | 0, _, _ => 0
  | n + 1, k, t => t + fxSeries y ratio n (k + 1) (fxMul t y * (ratio k).1 / (ratio k).2)

/-- e^y for 0 ≤ y ≤ 1. -/
def fxExp (y : Nat) : Nat := fxSeries y (fun k => (1, k + 1)) 100 0 fxOne

/-- Repeated squaring. -/
def fxSquare : Nat → Nat → Nat
  | 0, x => x
  | n + 1, x => fxSquare n (fxMul x x)

/-- 2 artanh z for 0 ≤ z ≤ 1/3, the logarithm of (1 + z) / (1 - z). -/
def fxArtanh2 (z : Nat) : Nat :=
  let z2 := fxMul z z
  (2 * ((List.range 170).foldl (fun (s : Nat × Nat) k => (s.1 + s.2 / (2 * k + 1), fxMul s.2 z2)) (0, z)).1)

/-- ln 2 = 2 artanh(1/3). -/
def fxLn2 : Nat := fxArtanh2 (fxOne / 3)

/-- A rational in fixed point, truncated. -/
def fxOfRat (q : Rat) : Nat := q.num.toNat * fxOne / q.den

/-- ln q for q ≥ 1. -/
def fxLn (q : Rat) : Nat :=
  let e := (ilog2 q).toNat
  let f := q / pow2 e
  fxArtanh2 (fxOfRat ((f - 1) / (f + 1))) + e * fxLn2

/-- π by Machin's formula 16 arctan(1/5) - 4 arctan(1/239). -/
def fxArctanInv (n : Nat) : Nat :=
  let step (s : Int × Nat) (k : Nat) : Int × Nat :=
    (if k % 2 == 0 then s.1 + (s.2 / (2 * k + 1) : Nat) else s.1 - (s.2 / (2 * k + 1) : Nat), s.2 / (n * n))
  ((List.range 240).foldl step (0, fxOne / n)).1.toNat

/-- π in fixed point. -/
def fxPi : Nat := 16 * fxArctanInv 5 - 4 * fxArctanInv 239

/-- The cosine of an angle between 0 and 2, by its alternating series. -/
def fxCos (y : Nat) : Int :=
  let y2 := fxMul y y
  let step (s : Int × Nat) (k : Nat) : Int × Nat :=
    (if k % 2 == 0 then s.1 + (s.2 : Nat) else s.1 - (s.2 : Nat), fxMul s.2 y2 / ((2 * k + 1) * (2 * k + 2)))
  ((List.range 100).foldl step (0, fxOne)).1

/-- The margin that covers the truncations of every series above, in units of 2^-512. -/
def fxMargin : Nat := 2 ^ 40

/-- A fixed-point number as a rational. -/
def fxRat (x : Int) : Rat := (x : Rat) / (fxOne : Rat)

/-- EXP40 of R145 on an argument rounded to 40 bits: the exact values at 0 and below -128, and elsewhere the published
table's value, of which only the bound of R145 is used. -/
def EXP40 (d : Rat) : Rat :=
  if d = 0 then 1
  else if d < -128 then 0
  else if d > 0 then rnd40 (max 0 (Config.exp40 d))
  else
    let x := fxSquare 8 (fxExp (fxOfRat ((-d) / 256)))
    let lo := fxRat (fxOne * fxOne / (x + fxMargin * 2 ^ 260) - fxMargin : Int)
    let hi := fxRat (fxOne * fxOne / (x - fxMargin * 2 ^ 260) + fxMargin : Int)
    let v := Config.exp40 d
    rnd40 (max (lo * (1 - pow2 (-36))) (min (hi * (1 + pow2 (-36))) v))

/-- LN40 of R145: exactly 0 at 1, and elsewhere the published table's value within its stated bound. -/
def LN40 (s : Rat) : Rat :=
  if s ≤ 1 then 0
  else
    let x : Int := fxLn s
    let v := Config.ln40 s
    rnd40 (max (fxRat (x - fxMargin) - pow2 (-36)) (min (fxRat (x + fxMargin) + pow2 (-36)) v))

end Sys2Proof.Machine
end

