-- ==== Sys2Proof/Machine/Code.lean ====
section
/-! DEFINITION. The codes of the manual: the Reed-Solomon code of T3 sectors (R249, R250), Bale compression (R253,
R254) and CRC-32C (R132, R360, R393). -/

namespace Sys2Proof.Machine

/-! ### Reed-Solomon over GF(2^8) (R249) -/

/-- Multiplication by x modulo x^8 + x^4 + x^3 + x^2 + 1. -/
def gfDouble (a : Nat) : Nat := if a < 128 then 2 * a else (2 * a) ^^^ 0x11D

/-- Product in GF(2^8), by the bits of the second factor. -/
def gfMulBits : Nat → Nat → Nat → Nat
  | 0, _, _ => 0
  | n + 1, a, b => (if b % 2 == 1 then a else 0) ^^^ gfMulBits n (gfDouble a) (b / 2)

/-- Product in GF(2^8). -/
def gfMul (a b : Nat) : Nat := gfMulBits 8 a b

/-- α^n with α = 2. -/
def gfAlpha : Nat → Nat
  | 0 => 1
  | n + 1 => gfDouble (gfAlpha n)

/-- The symbols of a codeword from its highest power down: τ, m_0 to m_63, p_0 to p_3. Codewords 1 to 3 have no τ and
take 0. -/
def cwSymbols (tau : Nat) (data chk : List Byte) : List Nat :=
  tau :: (data.map (·.toNat) ++ chk.map (·.toNat))

/-- The value of a codeword polynomial at α^i. -/
def rsSyndrome (i : Nat) (sym : List Nat) : Nat := sym.foldl (fun a c => gfMul a (gfAlpha i) ^^^ c) 0

/-- The four check symbols of a message, by division by g(x) = (x - 1)(x - α)(x - α²)(x - α³). The coefficients of g
below x⁴ are 15, 54, 120 and 64. -/
def rsCheck (tau : Nat) (data : List Byte) : List Byte :=
  let step (r : Nat × Nat × Nat × Nat) (m : Nat) : Nat × Nat × Nat × Nat :=
    let f := m ^^^ r.1
    (r.2.1 ^^^ gfMul f 15, r.2.2.1 ^^^ gfMul f 54, r.2.2.2 ^^^ gfMul f 120, gfMul f 64)
  let r := (tau :: data.map (·.toNat)).foldl step (0, 0, 0, 0)
  [BitVec.ofNat 8 r.1, BitVec.ofNat 8 r.2.1, BitVec.ofNat 8 r.2.2.1, BitVec.ofNat 8 r.2.2.2]

/-- What the syndrome of a codeword says (R250). -/
inductive CwRead where
  | clean
  | dataErr (pos val : Nat)
  | checkErr (pos val : Nat)
  | tauErr
  | uncorr
deriving DecidableEq, Repr

/-- The position, counted from the highest power, at which one error explains the syndromes. -/
def rsLocate (s0 s1 s2 s3 : Nat) : Nat → Option Nat
  | 0 => none
  | n + 1 =>
    -- position 68 - n has power n, where an error e gives s0 = e and s_i = e α^(i n)
    if s1 == gfMul s0 (gfAlpha n) && s2 == gfMul s1 (gfAlpha n) && s3 == gfMul s2 (gfAlpha n) then some (68 - n)
    else rsLocate s0 s1 s2 s3 n

/-- Decode one codeword read with rate tag `tau`; only codeword 0 carries the tag (R249, R250). -/
def rsDecode (cw0 : Bool) (tau : Nat) (data chk : List Byte) : CwRead :=
  let sym := cwSymbols (if cw0 then tau else 0) data chk
  let s0 := rsSyndrome 0 sym
  let s1 := rsSyndrome 1 sym
  let s2 := rsSyndrome 2 sym
  let s3 := rsSyndrome 3 sym
  if s0 == 0 && s1 == 0 && s2 == 0 && s3 == 0 then .clean
  else if s0 == 0 then .uncorr
  else match rsLocate s0 s1 s2 s3 69 with
    | none => .uncorr
    | some 0 => if cw0 then .tauErr else .uncorr
    | some n => if n ≤ 64 then .dataErr (n - 1) s0 else .checkErr (n - 65) s0

/-- Decode codeword 0 with τ as an erasure, as scrub does (R252): the τ found and what else was wrong. Each of the
four tags is tried; the one that leaves no error or one error in a stored symbol is the rate. -/
def rsScrub0 (data chk : List Byte) : Option (Nat × CwRead) :=
  let try1 := (List.range 4).filterMap fun t =>
    match rsDecode true t data chk with
    | .clean => some (t, CwRead.clean)
    | _ => none
  let try2 := (List.range 4).filterMap fun t =>
    match rsDecode true t data chk with
    | .dataErr p v => some (t, CwRead.dataErr p v)
    | .checkErr p v => some (t, CwRead.checkErr p v)
    | _ => none
  match try1, try2 with
  | r :: _, _ => some r
  | [], [r] => some r
  | _, _ => none

/-! ### Bale (R253, R254) -/

/-- Stored bytes and element width of a rate code. -/
def baleL : Nat → Nat
  | 1 => 192
  | 2 => 128
  | 3 => 64
  | _ => 256

/-- Element width w of a rate code. -/
def baleW : Nat → Nat
  | 1 => 11
  | 2 => 7
  | _ => 3

/-- Bits, least significant first, of a number. -/
def natBits : Nat → Nat → List Bool
  | 0, _ => []
  | n + 1, v => (v % 2 == 1) :: natBits n (v / 2)

/-- The number whose bits, least significant first, are given. -/
def bitsNat : List Bool → Nat
  | [] => 0
  | b :: t => b.toNat + 2 * bitsNat t

/-- Exponent, shift and element codes of one block of 32 elements (R254). -/
def baleBlock (w : Nat) (xs : List XVal) : Nat × List Nat × List Nat :=
  if xs.any fun v => xisNan v || xisInf v then (255, List.replicate 8 0, List.replicate 32 0)
  else
    let a := amaxOf xs
    let e : Int := if a = 0 then -127 else max (-127) (min 127 (ilog2 a))
    let subs := chunksOf 4 xs
    let ks := subs.map fun s =>
      let am := amaxOf s
      if am = 0 then 7 else min 7 (e - ilog2 am).toNat
    let ms := (subs.zip ks).flatMap fun p =>
      p.1.map fun x =>
        let q := pow2 (e - p.2 - w + 2)
        let v := xrat x
        let r := (roundNat ((if v < 0 then -v else v) / q) .rne : Int)
        let m := if v < 0 then max (-r) (-(2 ^ (w - 1))) else min r (2 ^ (w - 1) - 1)
        unsigned w m
    ((e + 127).toNat, ks, ms)

/-- A 256-byte sector of BF16 elements coded at a rate (R254). -/
def baleEncode (rate : Nat) (data : List Byte) : List Byte :=
  let w := baleW rate
  let xs := (chunksOf 2 data).map fun b => decFloat fmtBF16 (natOf b)
  let bl := (chunksOf 32 xs).map (baleBlock w)
  let bits := bl.flatMap (fun b => natBits 8 b.1) ++ bl.flatMap (fun b => b.2.1.flatMap (natBits 3)) ++
    bl.flatMap (fun b => b.2.2.flatMap (natBits w))
  (chunksOf 8 bits).map fun b => BitVec.ofNat 8 (bitsNat b)

/-- The 256-byte sector that a coded sector decodes to (R254). -/
def baleDecode (rate : Nat) (stored : List Byte) : List Byte :=
  let w := baleW rate
  let bits := stored.flatMap fun b => natBits 8 b.toNat
  let get (lo n : Nat) : Nat := bitsNat ((bits.drop lo).take n)
  (List.range 128).flatMap fun i =>
    let e := get (8 * (i / 32)) 8
    let k := get (32 + 3 * (i / 4)) 3
    let m := signed w (get (128 + w * i) w)
    if e == 255 then bytesOf 2 0x7FC0
    else bytesOf 2 (convTo 0x5 false .rne (xofRat ((m : Rat) * pow2 ((e : Int) - 127 - k - w + 2)))).code

/-! ### CRC-32C -/

/-- One byte through the reflected Castagnoli register. -/
def crcByte (c : Nat) (b : Nat) : Nat :=
  (List.range 8).foldl (fun c _ => if c % 2 == 1 then (c / 2) ^^^ 0x82F63B78 else c / 2) (c ^^^ b)

/-- CRC-32C of a byte string. -/
def crc32c (l : List Byte) : Nat := (l.foldl (fun c b => crcByte c b.toNat) 0xFFFFFFFF) ^^^ 0xFFFFFFFF

end Sys2Proof.Machine
end

