-- ==== Sys2Proof/Machine/Ops.lean ====
section
/-! DEFINITION. The named operations over the state: access to its parts, raising interrupt causes, the prune log, the
address map and the memories of all tiers, placement-epoch checks, and the trace. -/

namespace Sys2Proof.Machine

open Host

/-! ### Parts of the state -/

/-- Plot n. -/
def State.plot (s : State) (p : PlotIx) : Plot := s.plots[p]
/-- Plot n replaced. -/
def State.setPlot (s : State) (p : PlotIx) (x : Plot) : State := { s with plots := s.plots.set p.val x p.isLt }
/-- Bed b. -/
def State.bed (s : State) (b : BedIx) : Bed := s.beds[b]
/-- Bed b replaced. -/
def State.setBed (s : State) (b : BedIx) (x : Bed) : State := { s with beds := s.beds.set b.val x b.isLt }
/-- Cistern c. -/
def State.cistern (s : State) (c : CisIx) : Cistern := s.cis[c]
/-- Cistern c replaced. -/
def State.setCistern (s : State) (c : CisIx) (x : Cistern) : State := { s with cis := s.cis.set c.val x c.isLt }
/-- Partition p. -/
def State.part (s : State) (q : PartIx) : Part := s.parts[q]
/-- Partition p replaced. -/
def State.setPart (s : State) (q : PartIx) (x : Part) : State := { s with parts := s.parts.set q.val x q.isLt }
/-- A PCIe function. -/
def State.func (s : State) (f : FnIx) : Fn := s.fns[f]
/-- A PCIe function replaced. -/
def State.setFunc (s : State) (f : FnIx) (x : Fn) : State := { s with fns := s.fns.set f.val x f.isLt }
/-- A gardener core. -/
def State.core (s : State) (c : CoreIx) : Core := s.cores[c]
/-- A gardener core replaced. -/
def State.setCore (s : State) (c : CoreIx) (x : Core) : State := { s with cores := s.cores.set c.val x c.isLt }

/-- Change one plot. -/
def State.onPlot (s : State) (p : PlotIx) (f : Plot → Plot) : State := s.setPlot p (f (s.plot p))
/-- Change one bed. -/
def State.onBed (s : State) (b : BedIx) (f : Bed → Bed) : State := s.setBed b (f (s.bed b))
/-- Change one cistern. -/
def State.onCis (s : State) (c : CisIx) (f : Cistern → Cistern) : State := s.setCistern c (f (s.cistern c))
/-- Change one partition. -/
def State.onPart (s : State) (q : PartIx) (f : Part → Part) : State := s.setPart q (f (s.part q))
/-- Change one function. -/
def State.onFunc (s : State) (x : FnIx) (f : Fn → Fn) : State := s.setFunc x (f (s.func x))
/-- Change one core. -/
def State.onCore (s : State) (c : CoreIx) (f : Core → Core) : State := s.setCore c (f (s.core c))
/-- Change the memories. -/
def State.onMem (s : State) (f : Memories → Memories) : State := { s with mem := f s.mem }

/-- The bed of a plot (R16). -/
def bedOf (p : PlotIx) : BedIx := ⟨p.val / 8, by omega⟩
/-- Plot i of a bed. -/
def plotOf (b : BedIx) (i : Fin 8) : PlotIx := ⟨8 * b.val + i.val, by omega⟩
/-- The virtual function of a partition (R302). -/
def vfOf (q : PartIx) : FnIx := ⟨q.val + 1, by omega⟩
/-- PF0. -/
def pf0Fn : FnIx := 0
/-- The partition of a function, none for PF0. -/
def fnPart (f : FnIx) : Option PartIx := if h : f.val = 0 then none else some ⟨f.val - 1, by omega⟩
/-- The partition a plot is assigned to (R91). -/
def plotPart (x : Plot) : Option PartIx := if x.unassigned then none else some x.part.toFin
/-- The partition that owns a bed, by the bed masks of the image (R300). -/
def bedPart (s : State) (b : BedIx) : Option PartIx :=
  (List.finRange 16).find? fun q => (s.part q).defined && (s.part q).img.beds.getLsbD b.val
/-- The beds of a partition, ascending. -/
def bedsOf (s : State) (q : PartIx) : List BedIx :=
  (List.finRange 16).filter fun b => (s.part q).defined && (s.part q).img.beds.getLsbD b.val
/-- The plots assigned to a partition, ascending. -/
def plotsOf (s : State) (q : PartIx) : List PlotIx :=
  (List.finRange 128).filter fun p => plotPart (s.plot p) == some q

/-- Fold a change over a list of indices. -/
def forAll {α : Type} (l : List α) (f : State → α → State) (s : State) : State := l.foldl f s

/-! ### Triplicated Fence registers (R338, R341) -/

/-- A vote over the three copies: the value and how many copies are rewritten; none when the vote fails. -/
def triVote {n : Nat} (t : Tri n) : Option (BitVec n × Nat) :=
  match t.okA, t.okB, t.okC with
  | true, true, true =>
    if t.a = t.b then some (t.a, if t.c = t.a then 0 else 1)
    else if t.a = t.c then some (t.a, 1)
    else if t.b = t.c then some (t.b, 1)
    else none
  | true, true, false => if t.a = t.b then some (t.a, 1) else none
  | true, false, true => if t.a = t.c then some (t.a, 1) else none
  | false, true, true => if t.b = t.c then some (t.b, 1) else none
  | _, _, _ => none

/-- The value that a register is used with: the vote's, and the first copy's once the vote has failed. -/
def triVal {n : Nat} (t : Tri n) : Nat := ((triVote t).map (·.1)).getD t.a |>.toNat

/-- `FNC_CAP`.CAP_W. -/
def capW (s : State) : Nat := bitsOf (triVal s.fence.regs.cap) 11 0
/-- `FNC_CAP`.BURST_MS. -/
def burstMs (s : State) : Nat := bitsOf (triVal s.fence.regs.cap) 15 12
/-- `FNC_BASE`.BASE_W. -/
def baseW (s : State) : Nat := triVal s.fence.regs.base
/-- `FNC_SHARE`[q].SHARE_W. -/
def shareW (s : State) (q : PartIx) : Nat := triVal s.fence.regs.share[q]
/-- `FNC_THERM`.THROTTLE_C. -/
def throttleC (s : State) : Nat := bitsOf (triVal s.fence.regs.therm) 7 0
/-- `FNC_THERM`.TRIP_C. -/
def tripC (s : State) : Nat := bitsOf (triVal s.fence.regs.therm) 15 8
/-- `FNC_THERM`.HYST_C. -/
def hystC (s : State) : Nat := bitsOf (triVal s.fence.regs.therm) 19 16
/-- `FNC_THERM`.COOLANT_C. -/
def coolantC (s : State) : Nat := bitsOf (triVal s.fence.regs.therm) 27 20
/-- `FNC_PIN_STEP`.STEP. -/
def pinStep (s : State) : Nat := triVal s.fence.regs.pinStep
/-- `FNC_LINK_EN`.PORTS. -/
def linkPorts (s : State) : Nat := triVal s.fence.regs.linkEn
/-- `FNC_WDOG`.TIMEOUT_MS. -/
def wdogMs (s : State) : Nat := bitsOf (triVal s.fence.regs.wdog) 9 0
/-- `FNC_WDOG`.EN. -/
def wdogOn (s : State) : Bool := bitsOf (triVal s.fence.regs.wdog) 10 10 == 1

/-! ### Interrupt causes (R304, R305, R369) -/

/-- The vectors of a virtual function are held and its causes discarded while its partition is in reset (R313). -/
def causesHeld (s : State) (f : FnIx) : Bool :=
  match fnPart f with
  | some q => (s.part q).resetStep ≠ .none
  | none => false

/-- One cause event of a vector: its bit is latched, and the event counts toward the vector's next message. -/
def raiseEvent (f : FnIx) (v : VecIx) (s : State) : State :=
  if causesHeld s f then s
  else s.onFunc f fun x =>
    let e := x.vecs[v]
    { x with
      cause := x.cause ||| BitVec.ofNat 8 (2 ^ v.val)
      vecs := x.vecs.set v.val
        { e with events := e.events + 1, firstAt := if e.events = 0 then s.time else e.firstAt } v.isLt }

/-- NOTICE of a partition (R304). -/
def raiseNotice (q : PartIx) (s : State) : State := raiseEvent (vfOf q) 4 s
/-- CAPACITY of a partition (R304). -/
def raiseCapacity (q : PartIx) (s : State) : State := raiseEvent (vfOf q) 5 s
/-- STATE of a partition (R304). -/
def raiseState (q : PartIx) (s : State) : State := raiseEvent (vfOf q) 6 s
/-- DEBUG of a partition, in debug images only (R304). -/
def raiseDebug (q : PartIx) (s : State) : State := if s.image.debugOn then raiseEvent (vfOf q) 7 s else s
/-- FENCE on PF0 (R369). -/
def raiseFence (s : State) : State := raiseEvent pf0Fn 4 s
/-- DEVICE on PF0 (R369). -/
def raiseDevice (s : State) : State := raiseEvent pf0Fn 6 s

/-- The admission state of a partition, with the STATE cause at a change (R265, R304). Once one is OPEN the time counter only
slews (R401). -/
def setAdmit (q : PartIx) (a : BitVec 3) (s : State) : State :=
  if (s.part q).adm = a then s
  else
    let s1 := raiseState q (s.onPart q fun x => { x with adm := a })
    if a = 0 then { s1 with bvl := { s1.bvl with slewOnly := true } } else s1

/-! ### Prune log (R360 to R362, R473) -/

/-- Milliseconds since reset release, modulo 2^32 (R360). -/
def uptimeMs (s : State) : Nat := (s.time - s.image.bootAt).toNat / 1000000 % 2 ^ 32

/-- A record that waits in shed SRAM for its append: everything but SEQ, STATE and CRC is set. -/
def logRecord (s : State) (ty len payload : Nat) : BitVec 512 :=
  BitVec.ofNat 512 (ty * 2 ^ 8 + len * 2 ^ 16 + s.image.boots.toNat * 2 ^ 64 + uptimeMs s * 2 ^ 96 +
    payload % 2 ^ 320 * 2 ^ 128)

/-- Give the Almanac a record to append. -/
def queueLog (ty len payload : Nat) (s : State) : State :=
  { s with image := { s.image with pendingLog := s.image.pendingLog ++ [logRecord s ty len payload] } }

/-- The cause code of a pruning (R475). -/
def causeCode : PruneCause → Nat
  | .ceRate => 1
  | .uncorr => 2
  | .training => 3
  | .test => 4
  | .residue => 5
  | .watchdog => 6
  | .laneErrors => 7
  | .linkLost => 8
  | .banks => 9

/-- Payload of a PRUNE or RETURN record (R361, R475). -/
def prunePayload (kind index sub cause count returns : Nat) : Nat :=
  kind + index * 2 ^ 8 + sub * 2 ^ 24 + cause * 2 ^ 40 + count * 2 ^ 48 + returns * 2 ^ 80

/-- Queue the PRUNE record of a resource and raise DEVICE on PF0 (R473). -/
def recordPrune (kind index sub : Nat) (c : PruneCause) (count returns : Nat) (s : State) : State :=
  raiseDevice (queueLog 1 11 (prunePayload kind index sub (causeCode c) count returns) s)

/-! ### The address map (R59, R210 to R214) -/

/-- A tier of the address map, or a hole. -/
inductive Tier where
  | t0 | t1 | t2 | t3 | hole
deriving DecidableEq, Repr

/-- First address of T1. -/
def t1Base : Nat := 0x100000000
/-- First address of T2. -/
def t2Base : Nat := 0x200000000
/-- First address of T3. -/
def t3Base : Nat := 0x10000000000
/-- Bytes of one scratchpad. -/
def t0Size : Nat := 0x01800000
/-- Stride of the scratchpads and of the hold buffers. -/
def bedStride : Nat := 0x02000000
/-- 1 MiB. -/
def mib : Nat := 0x100000
/-- Bytes of a page. -/
def pageBytes : Nat := 0x10000

/-- The frames that exist (R212). -/
def frameCount (s : State) : Nat := if s.image.order512 then 7864320 else 15728640

/-- The tier of a device address (R210). -/
def tierOf (s : State) (a : Nat) : Tier :=
  if a < t1Base then (if a % bedStride < t0Size then .t0 else .hole)
  else if a < 0x120000000 then .t1
  else if a < t2Base then .hole
  else if a < 0x220000000 then .t2
  else if a < t3Base then .hole
  else if a < t3Base + frameCount s * pageBytes then .t3
  else .hole

/-- Device address of a scratchpad offset of plot n (R59). -/
def t0Addr (p : PlotIx) (o : Nat) : Nat := p.val * bedStride + o

/-- Device address of the hold buffer of bed b (R210). -/
def t1Addr (b : BedIx) (o : Nat) : Nat := t1Base + b.val * bedStride + o

/-- Bytes of the T3 quota of a partition. -/
def t3Quota (s : State) (q : PartIx) : Nat := (s.part q).img.t3Gib * 0x40000000

/-- Whether the partition may reach every byte of [a, a + n), within one tier (R72, R210, R225). -/
def rangeOk (s : State) (q : PartIx) (a n : Nat) : Bool :=
  let last := a + n - 1
  n > 0 && tierOf s a == tierOf s last &&
  match tierOf s a with
  | .t0 => a / bedStride == last / bedStride &&
      (if h : a / bedStride < 128 then plotPart (s.plot ⟨a / bedStride, h⟩) == some q else false)
  | .t1 =>
    (List.finRange 16).all fun b =>
      last < t1Addr b 0 || t1Addr b bedStride ≤ a ||
        ((s.part q).img.beds.getLsbD b.val && (s.part q).defined &&
          min last (t1Addr b bedStride - 1) < t1Addr b ((32 - (s.bed b).share.toNat) * mib))
  | .t2 =>
    (List.finRange 2).all fun c =>
      let lo := t2Base + c.val * 0x10000000
      let x := (s.cistern c).parts[q]
      last < lo || lo + 0x10000000 ≤ a ||
        (lo + x.t2Base.toNat * mib ≤ max a lo && min last (lo + 0xFFFFFFF) < lo + (x.t2Base.toNat + x.t2Size.toNat) * mib)
  | .t3 => (s.part q).defined && last < t3Base + t3Quota s q
  | .hole => false

/-- Whether a strided region of rows lies in one tier (and one scratchpad) within the partition's ranges (R72). -/
def regionOk (s : State) (q : PartIx) (a rows rowBytes stride : Nat) : Bool :=
  let last := a + (rows - 1) * stride + rowBytes - 1
  tierOf s a == tierOf s last && (tierOf s a != .t0 || a / bedStride == last / bedStride) &&
    (List.range rows).all fun r => rangeOk s q (a + r * stride) rowBytes

/-! ### Retired banks (R59, R85) -/

/-- The bank of a scratchpad offset under the mapping in force. -/
def bankOfOffset (reduced : Bool) (o : Nat) : Nat :=
  if reduced then o / 393216 else (o / 64 % 64) ^^^ (o / 4096 % 64)

/-- The row within its bank of a scratchpad offset. -/
def rowOfOffset (reduced : Bool) (o : Nat) : Nat := if reduced then o % 393216 / 64 else o / 64 / 64

/-- The first offset of [o, o + n) that lies on a retired bank. A window of 128 lines meets every bank that any longer
window meets, in normal mode; in reduced mode each bank's first offset in the window is looked at. -/
def retiredHit (x : Plot) (o n : Nat) : Option Nat :=
  if x.banks = 0 || n = 0 then none
  else
    let bad (a : Nat) : Bool := x.banks.getLsbD (bankOfOffset x.reduced a)
    let starts :=
      if x.reduced then o :: ((List.range 64).map (· * 393216)).filter fun a => o < a && a < o + n
      else o :: ((List.range 128).map fun i => (o / 64 + 1 + i) * 64).filter fun a => a < o + n
    starts.find? bad

/-! ### The canonical form of memory -/

/-- Every memory is in its canonical form: addresses strictly rising, no entry equal to what an unlisted address holds. -/
def Memory.wf (m : Memories) : Bool :=
  tabWf 0 m.ram && tabWf 0 m.t3 && tabWf 0 m.chk && tabWf 0 m.dirty && tabWf 0 m.xlt && tabWf 0 m.host

/-! ### Scratchpads, T1 and T2 -/

/-- `n` bytes of T0, T1 or T2 from a device address on. -/
def ramRead (s : State) (a n : Nat) : List Byte := tabRead 0 s.mem.ram a n

/-- Set the dirty bits of the sub-pages of T1 and T2 that [a, a + n) touches (R219). -/
def markDirty (d : Tab (BitVec 16)) (a n : Nat) : Tab (BitVec 16) :=
  if n = 0 then d
  else (List.range ((a + n - 1) / 4096 - a / 4096 + 1)).foldl (fun d i =>
    let sub := a / 4096 + i
    tabSet 0 d (sub / 16) (tabGet 0 d (sub / 16) ||| BitVec.ofNat 16 (2 ^ (sub % 16)))) d

/-- Write bytes of T0, T1 or T2; T1 and T2 keep dirty masks (R219). -/
def ramWrite (a : Nat) (bs : List Byte) (s : State) : State :=
  s.onMem fun m => { m with
    ram := tabWrite 0 m.ram a bs
    dirty := if a < t1Base then m.dirty else markDirty m.dirty a bs.length }

/-- `n` bytes of a plot's scratchpad. -/
def t0Read (s : State) (p : PlotIx) (o n : Nat) : List Byte := ramRead s (t0Addr p o) n

/-- Write bytes of a plot's scratchpad. -/
def t0Write (p : PlotIx) (o : Nat) (bs : List Byte) (s : State) : State := ramWrite (t0Addr p o) bs s

/-- Zero a plot's scratchpad. -/
def t0Zero (p : PlotIx) (s : State) : State := s.onMem fun m => { m with ram := tabClear m.ram (t0Addr p 0) t0Size }

/-- The ring tags of a plot are cleared when a command other than ATTN writes its scratchpad (R166). -/
def clearTags (p : PlotIx) (s : State) : State := s.onPlot p fun x => { x with ring := PageRing.reset }

/-! ### Sectors of T3 (R244, R249 to R251, R255) -/

/-- The cistern, channel, rank, bank and row of a sector (R245). -/
def sectorPlace (sector : Nat) : CisIx × Fin 64 × Fin 2 × Fin 16 × Nat :=
  let f := sector / 256
  let t := f / 2 * 256 + sector % 256
  let ch := (t % 64) ^^^ (t / 256 % 64) ^^^ (t / 65536 % 64) ^^^ (t / 16777216 % 64)
  let u := t / 64
  let bank := (u / 8 % 16) ^^^ (u / 2048 % 16)
  let d := u / 256
  (Fin.ofNat 2 f, Fin.ofNat 64 ch, Fin.ofNat 2 (u / 128), Fin.ofNat 16 bank, 16 * (d / 15) + d % 15)

/-- The cistern of a virtual or physical frame. -/
def frameCis (f : Nat) : CisIx := Fin.ofNat 2 f

/-- The channels of a cistern that are pruned. -/
def prunedChans (s : State) (c : CisIx) : List (Fin 64) :=
  (List.finRange 64).filter fun k => (s.cistern c).chans[k].state = 3

/-- The channel that R245 gives a sector. -/
def sectorChan (sector : Nat) : Fin 64 := (sectorPlace sector).2.1

/-- Frames of one parity that m pruned channels take as donors (R477). -/
def donorFrames (s : State) (m : Nat) : Nat := m * (if s.image.order512 then 61440 else 122880)

/-- First donor of a parity, as an index among the frames of that parity. -/
def donorStart (s : State) (m : Nat) : Nat := frameCount s / 2 - donorFrames s m

/-- The sectors of a frame on the channels that `p` names, ascending. -/
def frameSectorsOn (f : Nat) (p : Fin 64 → Bool) : List Nat :=
  (List.range 256).filter fun k => p (sectorChan (256 * f + k))

/-- Where a sector lies: itself, or its donor position when its channel is pruned (R477). Bytes stay listed under the
sector's own index; the donor position decides which channel answers. -/
def sectorHome (s : State) (sector : Nat) : Nat :=
  let ch := prunedChans s (frameCis (sector / 256))
  if !ch.contains (sectorChan sector) then sector
  else
    let m := ch.length
    let f := sector / 256
    let j := (frameSectorsOn f ch.contains).idxOf (sector % 256)
    let z := 4 * m * (f / 2) + j
    let donor := 2 * (donorStart s m + z / (4 * (64 - m))) + f % 2
    256 * donor + (frameSectorsOn donor fun k => !ch.contains k).getD (z % (4 * (64 - m))) 0

/-- The channel that serves a sector. -/
def servingChan (s : State) (sector : Nat) : Fin 64 := sectorChan (sectorHome s sector)

/-- Stored data bytes of codeword j of a sector. -/
def cwData (m : Memories) (sector j : Nat) : List Byte := tabRead 0 m.t3 (sector * 256 + 64 * j) 64

/-- Stored check bytes of codeword j of a sector. -/
def cwChk (m : Memories) (sector j : Nat) : List Byte := tabRead 0 m.chk (sector * 16 + 4 * j) 4

/-- Store a codeword with freshly computed check bytes (R250). -/
def cwStore (sector j tau : Nat) (data : List Byte) (m : Memories) : Memories :=
  { m with
    t3 := tabWrite 0 m.t3 (sector * 256 + 64 * j) data
    chk := tabWrite 0 m.chk (sector * 16 + 4 * j) (rsCheck (if j = 0 then tau else 0) data)
    pendingChk := m.pendingChk.filter (· ≠ sector)
    lost := m.lost.filter (· ≠ sector) }

/-- Exclusive-or the wrong symbols of one read attempt into a codeword's data and check bytes. -/
def flipCw (fl : List SymFlip) (sector j : Nat) (data chk : List Byte) : List Byte × List Byte :=
  fl.foldl (fun dc e =>
    if e.sector = sector then
      if e.sym / 64 = j && e.sym < 256 then
        (listSet dc.1 (e.sym % 64) (dc.1.getD (e.sym % 64) 0 ^^^ e.val), dc.2)
      else if 256 ≤ e.sym && (e.sym - 256) / 4 = j then
        (dc.1, listSet dc.2 (e.sym % 4) (dc.2.getD (e.sym % 4) 0 ^^^ e.val))
      else dc
    else dc) (data, chk)

/-- How a codeword was read after its re-reads (R250, R476): its data, and what happened. -/
inductive CwOut where
  | clean (data : List Byte)
  | corrected (data : List Byte)
  | checkOnly (data : List Byte)
  | rereadOk (data : List Byte)
  | rate
  | uncorr
deriving DecidableEq, Repr

/-- One attempt at a codeword: `first` tells the first read from a re-read, whose success counts as a correction. -/
def cwAttempt (first : Bool) (j tau : Nat) (dc : List Byte × List Byte) : Option CwOut :=
  match rsDecode (j == 0) tau dc.1 dc.2 with
  | .clean => some (if first then .clean dc.1 else .rereadOk dc.1)
  | .dataErr p v => some (.corrected (listSet dc.1 p (dc.1.getD p 0 ^^^ BitVec.ofNat 8 v)))
  | .checkErr _ _ => some (if first then .checkOnly dc.1 else .rereadOk dc.1)
  | .tauErr => some .rate
  | .uncorr => none

/-- The attempts at a codeword, up to `retry` re-reads. -/
def cwTry (m : Memories) (sector j tau : Nat) (flips : Flips) : Nat → Nat → CwOut
  | 0, i => (cwAttempt (i == 0) j tau (flipCw (flips.getD i []) sector j (cwData m sector j) (cwChk m sector j))).getD .uncorr
  | n + 1, i =>
    match cwAttempt (i == 0) j tau (flipCw (flips.getD i []) sector j (cwData m sector j) (cwChk m sector j)) with
    | some r => r
    | none => cwTry m sector j tau flips n (i + 1)

/-- Read one codeword: a lost sector is uncorrectable until it is written (R478). -/
def cwRead (s : State) (sector j tau : Nat) (flips : Flips) : CwOut :=
  if s.mem.lost.contains sector then .uncorr else cwTry s.mem sector j tau flips s.dev.fault.lpRetry 0

/-- Count a corrected data symbol of a sector (R250, R257, R476). -/
def countCe (sector : Nat) (s : State) : State :=
  let ch := servingChan s sector
  s.onCis (frameCis (sector / 256)) fun x =>
    let y := x.chans[ch]
    { x with
      mem := { x.mem with ce := satAdd x.mem.ce 1 }
      chans := x.chans.set ch.val { y with ce := satAdd y.ce 1, hourCe := y.hourCe + 1 } ch.isLt }

/-- Count a check-only correction and mark the sector for the next scrub (R250). -/
def countChk (sector : Nat) (s : State) : State :=
  (s.onCis (frameCis (sector / 256)) fun x => { x with mem := { x.mem with chk := satAdd x.mem.chk 1 } }).onMem fun m =>
    { m with pendingChk := sector :: m.pendingChk.filter (· ≠ sector) }

/-- Count an uncorrectable codeword and latch it (R250, R257). -/
def countUe (sector j : Nat) (scrub : Bool) (s : State) : State :=
  let ch := servingChan s sector
  s.onCis (frameCis (sector / 256)) fun x =>
    let y := x.chans[ch]
    { x with
      mem := { x.mem with
        ue := satAdd x.mem.ue 1
        lastSector := BitVec.ofNat 40 sector
        lastCw := BitVec.ofNat 2 j
        lastScrub := scrub
        lastValid := true }
      chans := x.chans.set ch.val { y with ue := satAdd y.ue 1, dayUe := y.dayUe + 1 } ch.isLt }

/-- Count an access that failed with RATE_ERR (R257). -/
def countRate (sector : Nat) (s : State) : State :=
  s.onCis (frameCis (sector / 256)) fun x => { x with mem := { x.mem with rate := satAdd x.mem.rate 1 } }

/-- MEM_UNCORR (R222). -/
def stMemUncorr : Nat := 0x0E
/-- RATE_ERR (R250). -/
def stRateErr : Nat := 0x0F

/-- Read one codeword with every effect of R250 and R476: the data, or the failing status. -/
def cwReadFx (sector j tau : Nat) (flips : Flips) (s : State) : State × Except Nat (List Byte) :=
  match cwRead s sector j tau flips with
  | .clean d => (s, .ok d)
  | .corrected d => ((countCe sector s).onMem (cwStore sector j tau d), .ok d)
  | .checkOnly d => (countChk sector s, .ok d)
  | .rereadOk d => (countCe sector s, .ok d)
  | .rate => (countRate sector s, .error stRateErr)
  | .uncorr => (countUe sector j false s, .error stMemUncorr)

/-- Read codewords `js` of a sector in order, stopping at the first failure. -/
def sectorRead (sector tau : Nat) (flips : Flips) (s : State) : List Nat → State × Except Nat (List Byte)
  | [] => (s, .ok [])
  | j :: js =>
    match cwReadFx sector j tau flips s with
    | (s1, .error e) => (s1, .error e)
    | (s1, .ok d) =>
      match sectorRead sector tau flips s1 js with
      | (s2, .error e) => (s2, .error e)
      | (s2, .ok ds) => (s2, .ok (d ++ ds))

/-! ### Translation (R213 to R216) -/

/-- Key of a translation entry: partition and virtual frame. -/
def xltKey (q : PartIx) (v : Nat) : Nat := q.val * 2 ^ 24 + v

/-- The translation entry that an access sees: the cached one, or else the one in the system area. -/
def xltEntry (s : State) (q : PartIx) (v : Nat) : Word :=
  match (s.cistern (frameCis v)).xltCache.find? fun e => e.1 == q && e.2.1.toNat == v with
  | some e => e.2.2
  | none => tabGet 0 s.mem.xlt (xltKey q v)

/-- Use a translation entry: a hit becomes the most recent, a miss is counted and cached, with least-recently-used
replacement beyond 8,192 entries (R215). -/
def xltTouch (q : PartIx) (v : Nat) (s : State) : State :=
  s.onCis (frameCis v) fun x =>
    let hit := x.xltCache.any fun e => e.1 == q && e.2.1.toNat == v
    let rest := x.xltCache.filter fun e => !(e.1 == q && e.2.1.toNat == v)
    { x with
      xltMiss := if hit then x.xltMiss else satAdd x.xltMiss 1
      xltCache := (((q, BitVec.ofNat 24 v, xltEntry s q v) :: rest).take 8192) }

/-- Whether an entry maps the frame: VALID, and the parity of v (R214). -/
def xltOk (e : Word) (v : Nat) : Bool := e.getLsbD 24 && (bitsOf e.toNat 23 0) % 2 == v % 2

/-- Translate a T3 address: the physical address, or none after counting the fault (R214). -/
def translate (q : PartIx) (a : Nat) (s : State) : State × Option Nat :=
  let v := (a - t3Base) / pageBytes
  let e := xltEntry s q v
  let s1 := xltTouch q v s
  if xltOk e v then (s1, some (bitsOf e.toNat 23 0 * pageBytes + a % pageBytes))
  else (s1.onCis (frameCis v) fun x => { x with xltFault := satAdd x.xltFault 1 }, none)

/-- MIRROR of the frame that a T3 address lies in. -/
def xltMirror (s : State) (q : PartIx) (a : Nat) : Bool := (xltEntry s q ((a - t3Base) / pageBytes)).getLsbD 25
/-- MOVING of the frame that a T3 address lies in. -/
def xltMoving (s : State) (q : PartIx) (a : Nat) : Bool := (xltEntry s q ((a - t3Base) / pageBytes)).getLsbD 26

/-- ADDR_FAULT (R77). -/
def stAddrFault : Nat := 0x05

/-- Pieces of [a, a + n) that cross no multiple of `unit`, with at most `fuel` pieces. -/
def cutAt (unit : Nat) : Nat → Nat → Nat → List (Nat × Nat)
  | 0, _, _ => []
  | fuel + 1, a, n => if n = 0 then [] else
    let k := min n (unit - a % unit)
    (a, k) :: cutAt unit fuel (a + k) (n - k)

/-- The pieces of a range at a unit. -/
def pieces (unit a n : Nat) : List (Nat × Nat) := cutAt unit (n / unit + 2) a n

/-- Read [a, a + n), a range of whole codewords of one partition's T3 range, uncompressed. -/
def t3ReadPieces (q : PartIx) (flips : Flips) (s : State) : List (Nat × Nat) → State × Except Nat (List Byte)
  | [] => (s, .ok [])
  | (a, n) :: t =>
    match translate q a s with
    | (s1, none) => (s1, .error stAddrFault)
    | (s1, some ph) =>
      match sectorRead (ph / 256) 0 flips s1 ((List.range 4).filter fun j => ph % 256 < 64 * (j + 1) && 64 * j < ph % 256 + n) with
      | (s2, .error e) => (s2, .error e)
      | (s2, .ok d) =>
        match t3ReadPieces q flips s2 t with
        | (s3, .error e) => (s3, .error e)
        | (s3, .ok ds) => (s3, .ok ((d.drop (ph % 64)).take n ++ ds))

/-- Read uncompressed T3 bytes. -/
def t3Read (q : PartIx) (a n : Nat) (flips : Flips) (s : State) : State × Except Nat (List Byte) :=
  t3ReadPieces q flips s (pieces 256 a n)

/-- Read whole Bale sectors: each is fetched as its L stored bytes and decoded (R253, R255). -/
def t3ReadBale (q : PartIx) (rate : Nat) (flips : Flips) (s : State) : List (Nat × Nat) → State × Except Nat (List Byte)
  | [] => (s, .ok [])
  | (a, _) :: t =>
    match translate q a s with
    | (s1, none) => (s1, .error stAddrFault)
    | (s1, some ph) =>
      match sectorRead (ph / 256) rate flips s1 (List.range (baleL rate / 64)) with
      | (s2, .error e) => (s2, .error e)
      | (s2, .ok d) =>
        match t3ReadBale q rate flips s2 t with
        | (s3, .error e) => (s3, .error e)
        | (s3, .ok ds) => (s3, .ok (baleDecode rate d ++ ds))

/-- Store bytes at a physical T3 address: each codeword touched is stored whole with its check bytes, τ = 0. -/
def physWrite (ph : Nat) (bs : List Byte) (m : Memories) : Memories :=
  (pieces 64 ph bs.length).foldl (fun m an =>
    let j := an.1 % 256 / 64
    let old := cwData m (an.1 / 256) j
    let o := an.1 % 64
    cwStore (an.1 / 256) j 0 (old.take o ++ ((bs.drop (an.1 - ph)).take an.2) ++ old.drop (o + an.2)) m) m

/-- Write uncompressed T3 bytes, one sector piece after another. -/
def t3WritePieces (q : PartIx) (base : Nat) (bs : List Byte) (s : State) : List (Nat × Nat) → State × Option Nat
  | [] => (s, none)
  | (a, n) :: t =>
    match translate q a s with
    | (s1, none) => (s1, some stAddrFault)
    | (s1, some ph) => t3WritePieces q base bs (s1.onMem (physWrite ph ((bs.drop (a - base)).take n))) t

/-- Write uncompressed T3 bytes: the failing status, if any. -/
def t3Write (q : PartIx) (a : Nat) (bs : List Byte) (s : State) : State × Option Nat :=
  t3WritePieces q a bs s (pieces 256 a bs.length)

/-- Store one sector in Bale form: its L coded bytes with the rate's τ, and zero check bytes behind them (R255). -/
def baleStore (sector rate : Nat) (data : List Byte) (m : Memories) : Memories :=
  let st := baleEncode rate data
  let m1 := (List.range (baleL rate / 64)).foldl (fun m j => cwStore sector j rate ((st.drop (64 * j)).take 64) m) m
  { m1 with chk := tabClear m1.chk (sector * 16 + baleL rate / 16) (16 - baleL rate / 16) }

/-- Write whole sectors in Bale form. -/
def t3WriteBale (q : PartIx) (rate base : Nat) (bs : List Byte) (s : State) : List (Nat × Nat) → State × Option Nat
  | [] => (s, none)
  | (a, _) :: t =>
    match translate q a s with
    | (s1, none) => (s1, some stAddrFault)
    | (s1, some ph) => t3WriteBale q rate base bs (s1.onMem (baleStore (ph / 256) rate ((bs.drop (a - base)).take 256))) t

/-! ### Performance counters (R469, R470) -/

/-- A performance counter after `n` more of its events: it stops at 2^48 - 1 and sets OVF (R469). -/
def perfBump (c : Perf) (n : Nat) : Perf :=
  { count := satAdd c.count n, ovf := c.ovf || decide (2 ^ 48 - 1 ≤ c.count.toNat + n) }

/-- Whether `n` more events saturate a counter that was not saturated. -/
def perfOverflows (c : Perf) (n : Nat) : Bool := !c.ovf && decide (2 ^ 48 - 1 ≤ c.count.toNat + n)

/-- Whether counter i of a plot counts an event code. -/
def plotCounts (x : Plot) (code : Nat) (i : Fin 4) : Bool := x.perfSel[i].toNat == code

/-- Add to a plot's performance counters the events of one code (R469, R470). -/
def perfAdd (p : PlotIx) (code n : Nat) (s : State) : State :=
  if !s.dev.perfEn || n = 0 then s
  else
    let x := s.plot p
    let new : Vector Perf 4 := Vector.ofFn fun i => if plotCounts x code i then perfBump x.perf[i] n else x.perf[i]
    let ovf := (List.finRange 4).any fun i => plotCounts x code i && perfOverflows x.perf[i] n
    let s1 := s.setPlot p { x with perf := new }
    match plotPart x with
    | some q => if ovf then raiseDebug q s1 else s1
    | none => s1

/-- Whether counter i of a cistern counts an event code of a partition. -/
def cisCounts (x : Cistern) (q : Option PartIx) (code : Nat) (i : Fin 8) : Bool :=
  x.perfSel[i].event.toNat == code && (x.perfSel[i].all || q == some x.perfSel[i].part.toFin)

/-- Add to a cistern's performance counters the events of one code for a partition; saturation raises PF0 vector 6 in
a debug image (R369, R469, R470). -/
def cisPerfAdd (c : CisIx) (q : Option PartIx) (code n : Nat) (s : State) : State :=
  if !s.dev.perfEn || n = 0 then s
  else
    let x := s.cistern c
    let new : Vector Perf 8 := Vector.ofFn fun i => if cisCounts x q code i then perfBump x.perf[i] n else x.perf[i]
    let ovf := (List.finRange 8).any fun i => cisCounts x q code i && perfOverflows x.perf[i] n
    let s1 := s.setCistern c { x with perf := new }
    if ovf && s.image.debugOn then raiseDevice s1 else s1

/-! ### Placement epochs (R281, R282, R297) -/

/-- What a check point says of a write. -/
inductive EpochAns where
  | accept | stale | foreign
deriving DecidableEq, Repr

/-- Check an epoch against a table whose entry of a slot is COUNT and VALID. -/
def epochCheck (entry : Nat → BitVec 25) (epoch : Nat) : EpochAns :=
  if epoch = 0xFFFFFFFF then .accept
  else
    let e := entry (epoch / 2 ^ 24)
    if !e.getLsbD 24 then .foreign else if bitsOf e.toNat 23 0 = epoch % 2 ^ 24 then .accept else .stale

/-- The entry of slot k of partition q in a cistern's table. -/
def cisEpoch (s : State) (c : CisIx) (q : PartIx) (k : Nat) : BitVec 25 := tabGet 0 (s.cistern c).epochs (256 * q.val + k)
/-- The entry of slot k in a bed's table. -/
def bedEpoch (s : State) (b : BedIx) (k : Nat) : BitVec 25 := tabGet 0 (s.bed b).epochs k

/-- Count a dropped write of n bytes (R297). -/
def dropCount (d : EpochDrop) (a : EpochAns) (n : Nat) : EpochDrop :=
  match a with
  | .accept => d
  | .stale => { d with stale := satAdd d.stale (cdiv n 256) }
  | .foreign => { d with foreign := satAdd d.foreign 1 }

/-- The check of a write of n bytes at a cistern, with its count. -/
def cisCheck (c : CisIx) (q : PartIx) (epoch n : Nat) (s : State) : State × Bool :=
  let a := epochCheck (cisEpoch s c q) epoch
  (s.onCis c fun x =>
    let y := x.parts[q]
    { x with parts := x.parts.set q.val { y with drop := dropCount y.drop a n } q.isLt }, a == .accept)

/-- The check of a write of n bytes at a bed, with its count. -/
def bedCheck (b : BedIx) (epoch n : Nat) (s : State) : State × Bool :=
  let a := epochCheck (bedEpoch s b) epoch
  (s.onBed b fun x => { x with drop := dropCount x.drop a n }, a == .accept)

/-! ### Reads and writes by device address -/

/-- Read [a, a + n) of any tier for a partition: T3 with the rate given. -/
def devRead (q : PartIx) (a n rate : Nat) (flips : Flips) (s : State) : State × Except Nat (List Byte) :=
  match tierOf s a with
  | .t3 => if rate = 0 then t3Read q a n flips s else t3ReadBale q rate flips s (pieces 256 a n)
  | .hole => (s, .error stAddrFault)
  | _ => (s, .ok (ramRead s a n))

/-- Write one piece, within one page, of a write that carries an epoch: T0 carries none, T1 is checked by its bed, T2
and T3 by their cistern. A dropped write has no effect and fails nothing (R282). -/
def devWritePiece (q : PartIx) (a rate epoch : Nat) (bs : List Byte) (s : State) : State × Option Nat :=
  match tierOf s a with
  | .t0 => (ramWrite a bs s, none)
  | .t1 =>
    match bedCheck (Fin.ofNat 16 ((a - t1Base) / bedStride)) epoch bs.length s with
    | (s1, true) => (ramWrite a bs s1, none)
    | (s1, false) => (s1, none)
  | .t2 =>
    match cisCheck (Fin.ofNat 2 ((a - t2Base) / 0x10000000)) q epoch bs.length s with
    | (s1, true) => (ramWrite a bs s1, none)
    | (s1, false) => (s1, none)
  | .t3 =>
    match cisCheck (frameCis ((a - t3Base) / pageBytes)) q epoch bs.length s with
    | (s1, true) =>
      let s2 := cisPerfAdd (frameCis ((a - t3Base) / pageBytes)) (some q) 0x03 (pieces 256 a bs.length).length s1
      if rate = 0 then t3Write q a bs s2 else t3WriteBale q rate a bs s2 (pieces 256 a bs.length)
    | (s1, false) => (s1, none)
  | .hole => (s, some stAddrFault)

/-- Write pieces in order, stopping at the first failure. -/
def devWritePieces (q : PartIx) (base rate epoch : Nat) (bs : List Byte) (s : State) : List (Nat × Nat) → State × Option Nat
  | [] => (s, none)
  | (a, n) :: t =>
    match devWritePiece q a rate epoch ((bs.drop (a - base)).take n) s with
    | (s1, some e) => (s1, some e)
    | (s1, none) => devWritePieces q base rate epoch bs s1 t

/-- Write bytes at a device address under an epoch, page piece by page piece. -/
def devWrite (q : PartIx) (a rate epoch : Nat) (bs : List Byte) (s : State) : State × Option Nat :=
  devWritePieces q a rate epoch bs s (pieces pageBytes a bs.length)

/-! ### Host memory -/

/-- Read host memory. -/
def hostRead (s : State) (a n : Nat) : List Byte := tabRead 0 s.mem.host a n
/-- Write host memory. -/
def hostWrite (a : Nat) (bs : List Byte) (s : State) : State := s.onMem fun m => { m with host := tabWrite 0 m.host a bs }

/-! ### Trace (R462 to R464) -/

/-- A trace record but for its SEQ. -/
def traceRecord (time layer oper unit : Nat) (isEnd : Bool) (lane op status tag epoch cycles : Nat) : BitVec 256 :=
  BitVec.ofNat 256 (time + layer * 2 ^ 64 + oper * 2 ^ 80 + unit * 2 ^ 96 + isEnd.toNat * 2 ^ 104 + lane * 2 ^ 105 +
    op * 2 ^ 112 + status * 2 ^ 120 + tag * 2 ^ 128 + epoch * 2 ^ 160 + cycles * 2 ^ 192)

/-- The die whose buffer takes a unit's records: a bed, a cistern or the codec die (R463, R464). -/
inductive TraceDie where
  | bed (b : BedIx)
  | cis (c : CisIx)
  | codec
deriving DecidableEq, Repr

/-- Count a lost record of a partition. -/
def traceLose (q : PartIx) (s : State) : State :=
  s.onPart q fun x => { x with trace := { x.trace with lost := satAdd x.trace.lost 1 } }

/-- A traced unit writes a record for partition q into its die's buffer of 64, until a STOP; a full buffer loses it (R464). The
partition travels in the reserved upper bits of the CMD_TAG word until the record is written. -/
def traceEmit (die : TraceDie) (q : PartIx) (r : BitVec 256) (s : State) : State :=
  if s.dev.traceEn && (s.part q).trace.on && !(s.part q).trace.stopping then
    let e := r ||| BitVec.ofNat 256 (q.val * 2 ^ 144)
    match die with
    | .bed b => if (s.bed b).trace.length < 64 then s.onBed b fun x => { x with trace := x.trace ++ [e] } else traceLose q s
    | .cis c => if (s.cistern c).trace.length < 64 then s.onCis c fun x => { x with trace := x.trace ++ [e] } else traceLose q s
    | .codec => if s.codec.trace.length < 64 then { s with codec := { s.codec with trace := s.codec.trace ++ [e] } } else traceLose q s
  else s

/-- Records of a trace range. -/
def traceCap (t : Trace) : Nat := t.pages.toNat * 2048

/-- Write one buffered record into its partition's range, under the partition epoch, with SEQ, the fill marks and the
DEBUG causes of R464. -/
def traceStore (s : State) (e : BitVec 256) : State :=
  let q : PartIx := Fin.ofNat 16 (bitsOf e.toNat 147 144)
  let t := (s.part q).trace
  if !t.on then s
  else if t.full then traceLose q s
  else
    let r := setBits (setBits e.toNat 159 144 0) 255 224 t.seq.toNat
    let s1 := (devWrite q (t.base.toNat + 32 * (t.wptr.toNat % max 1 (traceCap t))) 0 0xFFFFFFFF (bytesOf 32 r) s).1
    let cap := traceCap t
    let n := t.count + 1
    let halfNow := 2 * t.count < cap && cap ≤ 2 * n
    let s2 := s1.onPart q fun x => { x with trace := { x.trace with
      wptr := BitVec.ofNat 32 (if x.trace.wrap then n % max 1 cap else n)
      seq := x.trace.seq + 1
      count := n
      half := x.trace.half || halfNow
      full := !x.trace.wrap && decide (cap ≤ n) } }
    let s3 := if halfNow then raiseDebug q s2 else s2
    if n = cap then raiseDebug q s3 else s3

/-- Every buffered record is written: beds, then cisterns, then the codec die. -/
def traceDrain (s : State) : State :=
  let es := (List.finRange 16).flatMap (fun b => (s.bed b).trace) ++
    (List.finRange 2).flatMap (fun c => (s.cistern c).trace) ++ s.codec.trace
  let s0 := { s with codec := { s.codec with trace := [] } }
  let s1 := forAll (List.finRange 16) (fun s b => s.onBed b fun x => { x with trace := [] }) s0
  let s2 := forAll (List.finRange 2) (fun s c => s.onCis c fun x => { x with trace := [] }) s1
  es.foldl traceStore s2

/-! ### Outcome of a command -/

/-- A command's outcome. -/
abbrev Out := Outcome State Fault Refusal

end Sys2Proof.Machine
end

