-- ==== Sys2Proof/Machine/Clock.lean ====
section
/-! DEFINITION. Bed clocks: limits, ceilings, targets and single steps (R325, R333, R334). -/

namespace Sys2Proof.Machine

open Host

/-- The pin limit is active (R334). -/
def pinActive (s : State) : Bool := s.fence.throttleLow || s.fence.pinLift.isSome

/-- The ceiling of a bed: the lowest of its limits. Safe hold sets no step of its own; its cap acts through the cap limit
(R339). -/
def bedCeil (s : State) (b : BedIx) : Nat :=
  let c := s.fence.ceils[b]
  min (min c.therm.toNat c.cap.toNat) (if pinActive s then pinStep s else 24)

/-- The step that a bed is to run at. -/
def clockGoal (s : State) (b : BedIx) : Nat := min (s.bed b).target.toNat (bedCeil s b)

/-- A bed that is not at its goal and not changing begins a step towards it. -/
def clockKick (b : BedIx) (s : State) : State :=
  let cur := (s.bed b).current.toNat
  let goal := clockGoal s b
  if (s.bed b).stepping.isSome || cur = goal then s
  else s.onBed b fun x => { x with stepping := some (decide (cur < goal)) }

/-- Every bed is looked at again after a limit has changed. -/
def kickClocks (s : State) : State := forAll (List.finRange 16) (fun s b => clockKick b s) s

/-- BED_CLK.TARGET is written; a value above 24 is taken as 24. -/
def setTarget (b : BedIx) (step : BitVec 5) (s : State) : State :=
  clockKick b (s.onBed b fun x => { x with target := if 24 < step.toNat then 24 else step })

/-- BED_CLOCK_TARGET. -/
def execBedClockTarget (b : BedIx) (step : BitVec 5) (s : State) : Out := .next (setTarget b step s)

/-- CLOCK_STEP_COMPLETE: one step has finished, and the next begins when the bed is not at its goal. -/
def execClockStepComplete (b : BedIx) (s : State) : Out :=
  .next (match (s.bed b).stepping with
    | none => s
    | some up =>
      clockKick b (s.onBed b fun x => { x with current := if up then x.current + 1 else x.current - 1, stepping := none }))

end Sys2Proof.Machine
end

