-- ==== Sys2Proof/Machine/Lane.lean ====
section
/-! DEFINITION. Issue lanes: command headers, the steps of R68, completion records, halting, semaphores, energy
accounts, flushes and pruning of plots (R64 to R68, R75 to R78, R323, R473, R482). -/

namespace Sys2Proof.Machine

/-! ### Status codes (R77) -/

/-- OK. -/
def stOk : Nat := 0x00
/-- ILLEGAL_OP. -/
def stIllegal : Nat := 0x01
/-- FORMAT_ERR. -/
def stFormat : Nat := 0x02
/-- DIM_ERR. -/
def stDim : Nat := 0x03
/-- ALIGN_ERR. -/
def stAlign : Nat := 0x04
/-- STALE. -/
def stStale : Nat := 0x06
/-- LAYOUT_ERR. -/
def stLayout : Nat := 0x07
/-- FILTER_ERR. -/
def stFilter : Nat := 0x08
/-- SP_UNCORR. -/
def stSpUncorr : Nat := 0x09
/-- RESIDUE_FAULT. -/
def stResidue : Nat := 0x0A
/-- SEM_OVF. -/
def stSemOvf : Nat := 0x0B
/-- TEST_FAIL. -/
def stTest : Nat := 0x0C
/-- FLUSHED. -/
def stFlushed : Nat := 0x0D

/-! ### Header fields (R66) -/

/-- OPCODE. -/
def hOp (d : BitVec 1024) : Nat := fld d 0x00 7 0
/-- EVT. -/
def hEvt (d : BitVec 1024) : Bool := flag d 0x00 8
/-- WAIT_ALL. -/
def hWaitAll (d : BitVec 1024) : Bool := flag d 0x00 9
/-- CMD_TAG. -/
def hTag (d : BitVec 1024) : Nat := fld d 0x00 31 16
/-- LAYER_ID. -/
def hLayer (d : BitVec 1024) : Nat := fld d 0x04 15 0
/-- OPER_ID. -/
def hOper (d : BitVec 1024) : Nat := fld d 0x04 31 16
/-- ERA. -/
def hEra (d : BitVec 1024) : Nat := fld d 0x08 63 0
/-- EPOCH. -/
def hEpoch (d : BitVec 1024) : Nat := fld d 0x10 31 0
/-- ENERGY_EST. -/
def hEnergy (d : BitVec 1024) : Nat := fld d 0x14 31 0
/-- WATCH_EN. -/
def hWatch (d : BitVec 1024) : Bool := flag d 0x1C 0
/-- ESC_TOP. -/
def hEscTop (d : BitVec 1024) : Nat := fld d 0x1C 4 1
/-- LAYER_ESC_K. -/
def hEscK (d : BitVec 1024) : Nat := fld d 0x1C 12 5
/-- WAIT_SEM. -/
def hWaitSem (d : BitVec 1024) : Fin 64 := Fin.ofNat 64 (fld d 0x1C 21 16)
/-- POST_SEM. -/
def hPostSem (d : BitVec 1024) : Fin 64 := Fin.ofNat 64 (fld d 0x1C 27 22)
/-- SEM_WAIT. -/
def hSemWait (d : BitVec 1024) : Bool := flag d 0x1C 28
/-- SEM_POST. -/
def hSemPost (d : BitVec 1024) : Bool := flag d 0x1C 29

/-- A reserved header field is non-zero. -/
def headerReserved (d : BitVec 1024) : Bool :=
  fld d 0x00 15 10 != 0 || fld d 0x1C 15 13 != 0 || fld d 0x1C 31 30 != 0

/-- START_TILE of a GEMM, CONV or ATTN, 0 for every other command (R76, R78). -/
def startTile (d : BitVec 1024) : Nat :=
  if hOp d = 0x01 then fld d 0x70 31 0
  else if hOp d = 0x02 then fld d 0x7C 31 0
  else if hOp d = 0x08 then fld d 0x4C 31 0
  else 0

/-- Any bit of bytes [lo, hi) of a descriptor is set. -/
def bytesSet (d : BitVec 1024) (lo hi : Nat) : Bool := (d.toNat >>> (8 * lo)) % 2 ^ (8 * (hi - lo)) != 0

/-! ### Lanes -/

/-- A lane of a plot. -/
def laneGet (x : Plot) : Lane → LaneSt
  | .compute => x.compute
  | .move => x.move

/-- A lane of a plot replaced. -/
def laneSet (x : Plot) (l : Lane) (y : LaneSt) : Plot :=
  match l with
  | .compute => { x with compute := y }
  | .move => { x with move := y }

/-- The other lane. -/
def laneOther : Lane → Lane
  | .compute => .move
  | .move => .compute

/-- LANE of a completion record (R76). -/
def laneCode : Lane → Nat
  | .compute => 0
  | .move => 1

/-- The lane an opcode belongs to: MOVE to the move lane, every other to the compute lane (R64). -/
def laneFor (d : BitVec 1024) : Lane := if hOp d = 0x09 then .move else .compute

/-- A lane with nothing queued and nothing running. -/
def laneEmpty (y : LaneSt) : Bool := y.queue.isEmpty && y.run.isNone

/-- Both lanes of a plot are empty and idle, and no capture MOVE is under way. -/
def plotEmpty (x : Plot) : Bool := laneEmpty x.compute && laneEmpty x.move && x.capture.isNone

/-- An idle point (R86, R209, R298): powered, in service, and idle with both lanes empty. -/
def idlePoint (x : Plot) : Bool := plotEmpty x && (x.mode = .idle || x.mode = .halted)

/-- After a command has ended or been discarded: a plot that runs nothing is idle. -/
def plotSettle (x : Plot) : Plot :=
  if x.mode = .run && x.compute.run.isNone && x.move.run.isNone then { x with mode := .idle } else x

/-- Halt a plot (R77): the first cause stands until RESUME. -/
def haltPlot (st : Nat) (x : Plot) : Plot :=
  if x.mode = .idle || x.mode = .run then { x with mode := .halted, haltCause := BitVec.ofNat 8 st } else x

/-- HOLD or RESUMING: every bed controller starts nothing and every plot clock stands (R329, R330). -/
def holdActive (s : State) : Bool := s.fence.mode = 2 || s.fence.mode = 3

/-! ### Completion records (R76) -/

/-- The 32-byte completion record. -/
def completionRecord (d : BitVec 1024) (st p lane esc retries cycles time progress fault : Nat) : BitVec 256 :=
  BitVec.ofNat 256 (hTag d + hOp d * 2 ^ 16 + st * 2 ^ 24 + p * 2 ^ 32 + lane * 2 ^ 39 + min 255 esc * 2 ^ 40 +
    min 255 retries * 2 ^ 48 + hLayer d * 2 ^ 64 + hOper d * 2 ^ 80 + min 0xFFFFFFFF cycles * 2 ^ 96 + time * 2 ^ 128 +
    progress % 2 ^ 32 * 2 ^ 192 + fault % 2 ^ 32 * 2 ^ 224)

/-- How a command ended: what its record says beside its header. -/
structure Ended where
  status : Nat
  esc : Nat
  retries : Nat
  cycles : Nat
  progress : Nat
  fault : Nat
deriving DecidableEq, Repr

/-- A command that ended before anything of it ran. -/
def endedEarly (st progress fault : Nat) : Ended :=
  { status := st, esc := 0, retries := 0, cycles := 0, progress := progress, fault := fault }

/-- Append a completion record to the ring of the plot's bed. -/
def writeRecord (p : PlotIx) (l : Lane) (d : BitVec 1024) (e : Ended) (s : State) : State :=
  s.onBed (bedOf p) fun b => { b with ring := b.ring ++
    [(completionRecord d e.status p.val (laneCode l) e.esc e.retries e.cycles s.time.toNat e.progress e.fault,
      BitVec.ofNat 32 (hEpoch d))] }

/-- The trace record of a command at its begin or end (R462, R463). -/
def traceCommand (p : PlotIx) (l : Lane) (d : BitVec 1024) (isEnd : Bool) (st cycles : Nat) (s : State) : State :=
  match plotPart (s.plot p) with
  | some q => traceEmit (.bed (bedOf p)) q
      (traceRecord s.time.toNat (hLayer d) (hOper d) p.val isEnd (laneCode l) (hOp d) st (hTag d) (hEpoch d)
        (min 0xFFFFFFFF cycles)) s
  | none => s

/-- PLT_LAST and PLT_FAULT_ADDR after a command (R93). -/
def noteLast (d : BitVec 1024) (e : Ended) (x : Plot) : Plot :=
  { x with
    lastTag := BitVec.ofNat 16 (hTag d)
    lastOp := BitVec.ofNat 8 (hOp d)
    lastStatus := BitVec.ofNat 8 e.status
    faultAddr := if e.status = stOk || e.status = stFlushed then x.faultAddr else BitVec.ofNat 32 e.fault }

/-- Step 10 of R68: the record if EVT is set or the command did not end OK, PLT_LAST, and the trace end record. -/
def step10 (p : PlotIx) (l : Lane) (d : BitVec 1024) (e : Ended) (s : State) : State :=
  let s1 := if hEvt d || e.status ≠ stOk then writeRecord p l d e s else s
  traceCommand p l d true e.status e.cycles (s1.onPlot p (noteLast d e))

/-- Step 11 of R68: the post of a completed command; at 65,535 the count stays, a second record says SEM_OVF and the
plot halts (R65). -/
def step11 (p : PlotIx) (l : Lane) (d : BitVec 1024) (e : Ended) (s : State) : State :=
  if hSemPost d then
    let b := s.bed (bedOf p)
    let k := hPostSem d
    if b.sems[k] = 0xFFFF then
      (writeRecord p l d { e with status := stSemOvf } s).onPlot p fun x =>
        haltPlot stSemOvf { x with lastStatus := BitVec.ofNat 8 stSemOvf }
    else s.setBed (bedOf p) { b with sems := b.sems.set k.val (b.sems[k] + 1) k.isLt }
  else s

/-! ### Jobs and cuttings a plot serves -/

/-- The job that has a task bound to a plot. -/
def plotJob (s : State) (p : PlotIx) : Option (PartIx × Job) :=
  match plotPart (s.plot p) with
  | none => none
  | some q => ((s.part q).jobs.find? fun j => j.tasks.any fun t => t.2 == p).map fun j => (q, j)

/-- The cuttings that a completed command of a plot matches in the pass under way (R465). -/
def matchedCuts (s : State) (p : PlotIx) (d : BitVec 1024) : Option (PartIx × List (Fin 16) × Nat) :=
  if !s.dev.cuttingEn then none
  else match plotJob s p with
    | none => none
    | some (q, j) =>
      let pass := j.mainPasses + 1
      let l := (List.finRange 16).filter fun c =>
        let k := (s.part q).cuts[c]
        (k.state = 1 || k.state = 2) && k.job = j.id && k.layer.toNat = hLayer d && k.oper.toNat = hOper d &&
          k.pass = pass && j.life != .runningFb
      if l.isEmpty then none else some (q, l, pass)

/-- A command that completed OK and matches a cutting holds back its post and its lane for the capture MOVE (R466). -/
def armCapture (p : PlotIx) (d : BitVec 1024) (e : Ended) (s : State) : Option State :=
  match matchedCuts s p d with
  | none => none
  | some (q, l, pass) =>
    let k : Capture :=
      { part := q, cuts := l, desc := d, pass := pass, esc := e.esc, retries := e.retries, cycles := e.cycles, progress := e.progress }
    some (forAll l (fun s c => s.onPart q fun x => { x with cuts := x.cuts.set c.val { x.cuts[c] with state := 2 } c.isLt })
      (s.onPlot p fun x => { x with capture := some k }))

/-! ### Pruning of plots (R473, R482) -/

/-- Whether plots of the partition that can take work no longer cover its T0 quota (R217, R482). -/
def t0Short (s : State) (q : PartIx) : Bool :=
  ((plotsOf s q).filter fun p => (s.plot p).mode != .pruned && (s.plot p).banks = 0).length < (s.part q).img.t0Plots.toNat

/-- The pass in progress of every job with a task on the plot fails (R270, R290). -/
def failPassOn (p : PlotIx) (s : State) : State :=
  match plotPart (s.plot p) with
  | none => s
  | some q => s.onPart q fun x =>
    { x with
      jobs := updateWhere (fun j => j.tasks.any fun t => t.2 == p) (fun j => { j with passFailed := true }) x.jobs }

/-- RESERVE_USED once a loss has no standby plot behind it, with CAPACITY (R304, R482). -/
def drawReserve (q : PartIx) (s : State) : State :=
  if t0Short s q then s.onPart q fun x => { x with reserveUsed := true } else s

/-- A plot is pruned: it leaves service at once, its record is queued, and CAPACITY and DEVICE are raised. A plot
already pruned is left as it is. -/
def prunePlot (p : PlotIx) (c : PruneCause) (count : Nat) (s : State) : State :=
  if (s.plot p).mode = .pruned then s
  else
    let s1 := failPassOn p s
    let s2 := s1.onPlot p fun x =>
      { x with
        mode := .pruned
        compute := { LaneSt.reset with held := x.compute.held }
        move := { LaneSt.reset with held := x.move.held }
        flushing := false
        flushRec := false
        resumeAfter := false
        capture := none }
    let s3 := recordPrune 7 p.val 0 c count (s.plot p).win.returns s2
    match plotPart (s.plot p) with
    | none => s3
    | some q => drawReserve q (raiseCapacity q s3)

/-- The residue thresholds of a plot (R482), acted on outside HOLD (R473). -/
def pruneOnResidue (p : PlotIx) (s : State) : State :=
  let w := (s.plot p).win
  if holdActive s then s
  else if s.dev.fault.resFaultDay ≤ w.fault || s.dev.fault.resMisHr ≤ w.mismatch then
    prunePlot p .residue (w.fault + w.mismatch) s
  else s

/-! ### The end of a command -/

/-- The last running command of a flush has stopped: HALTED with FLUSHED when a FLUSHED record was written, and then
the resume that the same write asked for (R78). -/
def flushDone (x : Plot) : Plot :=
  if x.flushing && x.compute.run.isNone && x.move.run.isNone then
    let y := { x with flushing := false, flushRec := false, resumeAfter := false }
    let z := plotSettle y
    if x.resumeAfter then { z with mode := if z.mode = .halted then .idle else z.mode, haltCause := 0 }
    else if x.flushRec && (z.mode = .idle || z.mode = .run || z.mode = .halted) then
      { z with mode := .halted, haltCause := BitVec.ofNat 8 stFlushed }
    else z
  else x

/-- The running command of a lane ends: steps 10 and 11, halting, flush and capture. -/
def endCommand (p : PlotIx) (l : Lane) (d : BitVec 1024) (e : Ended) (s : State) : State :=
  let s1 := s.onPlot p fun x => laneSet x l { laneGet x l with run := none, stage := .queued }
  let s2 := step10 p l d e s1
  let s3 :=
    if e.status = stOk then
      let t := perfAdd p 0x07 1 s2
      match (if l = .compute then armCapture p d e t else none) with
      | some u => u
      | none => step11 p l d e t
    else if e.status = stFlushed && (s2.plot p).flushing then s2.onPlot p fun x => { x with flushRec := true }
    else s2.onPlot p (haltPlot e.status)
  pruneOnResidue p (s3.onPlot p fun x => flushDone (plotSettle x))

/-- What the record of a run says when it ends with a status. -/
def endedRun (r : Run) (st progress fault : Nat) : Ended :=
  { status := st, esc := r.esc, retries := r.retries, cycles := r.cycles, progress := progress, fault := fault }

/-- The record of a run that stops before its end: no rule states how many cycles it had run by then, so CYCLES is a
free value (R76). -/
def endedShort (s : State) (r : Run) (st progress fault : Nat) : Ended :=
  { endedRun r st progress fault with cycles := Config.earlyCycles s.fresh }

/-- The running command of a lane ends with a status. PROGRESS counts its finished units from START_TILE. -/
def endRun (p : PlotIx) (l : Lane) (r : Run) (st fault : Nat) (s : State) : State :=
  if st = stOk || st = stTest then
    endCommand p l r.desc (endedRun r st (startTile r.desc + r.done) fault) s
  else
    endCommand p l r.desc (endedShort s r st (startTile r.desc + r.done) fault) { s with fresh := s.fresh + 1 }

/-! ### Energy (R323, R324) -/

/-- k_s x 1,024 of a clock step (R324). -/
def kStep (step : Nat) : Nat := (8 * (56 + step) ^ 2 + 25) / 50

/-- The debit of an estimate at a bed's clock step, with the PERF_EN factor (R323, R458). -/
def energyNeed (s : State) (b : BedIx) (est : Nat) : Nat :=
  let k := kStep (s.bed b).current.toNat
  if s.dev.perfEn then cdiv (est * k * 1015) (1024 * 1000) else cdiv (est * k) 1024

/-- Debit a bed's account. -/
def debitBed (b : BedIx) (n : Nat) (s : State) : State :=
  s.onBed b fun x => { x with energy := x.energy - (n : Int), debited := x.debited + n }

/-! ### Steps 1 to 7 of R68 -/

/-- The gate of the plot's partition is open (R414). -/
def gateOpen (s : State) (p : PlotIx) : Bool :=
  match plotPart (s.plot p) with
  | some q => (s.part q).gateSince.isNone
  | none => true

/-- A lane may start its head: not in HOLD, not halted, stopped or flushing, the gate open, nothing running in the lane,
and no capture holding the compute lane (R78, R329, R414, R466). -/
def canStart (s : State) (p : PlotIx) (l : Lane) : Bool :=
  let x := s.plot p
  (x.mode = .idle || x.mode = .run) && !holdActive s && gateOpen s p && !x.flushing && (laneGet x l).run.isNone &&
    (l = .move || x.capture.isNone)

/-- Steps 2 and 3: none while the command must wait. -/
def waits23 (p : PlotIx) (l : Lane) (d : BitVec 1024) (s : State) : Option State :=
  let x := s.plot p
  if (laneGet x l).stage ≠ .queued then some s
  else if hWaitAll d && !laneEmpty (laneGet x (laneOther l)) then none
  else
    let s1 := s.onPlot p fun x => laneSet x l { laneGet x l with stage := .taken }
    if hSemWait d then
      let b := s.bed (bedOf p)
      let k := hWaitSem d
      if b.sems[k] = 0 then none
      else some (s1.setBed (bedOf p) { b with sems := b.sems.set k.val (b.sems[k] - 1) k.isLt })
    else some s1

/-- Step 4: none while the bed's account is short. The command leaves the queue and runs. -/
def wait4 (p : PlotIx) (l : Lane) (d : BitVec 1024) (s : State) : Option State :=
  let b := bedOf p
  let n := energyNeed s b (hEnergy d)
  if (s.bed b).energy < (n : Int) then none
  else
    let s1 := debitBed b n s
    some (s1.onPlot p fun x =>
      laneSet { x with mode := if x.mode = .idle then .run else x.mode, clkGated := false } l
        { laneGet x l with queue := (laneGet x l).queue.tail, stage := .queued })

/-- The layer state when a compute command with WATCH_EN starts with another LAYER_ID (R119). -/
def layerStart (d : BitVec 1024) (x : Plot) : Plot :=
  if hWatch d && x.watch.layer.id.toNat ≠ hLayer d then
    { x with watch := { x.watch with layer := { Layer.reset with id := BitVec.ofNat 16 (hLayer d) } } }
  else x

/-- Steps 5 to 7, and step 8 begun by `start`. `check` gives the status and FAULT_ADDR of a breach of steps 6 and 7. -/
def issue (p : PlotIx) (l : Lane) (d : BitVec 1024) (check : State → Option (Nat × Nat)) (start : State → State)
    (s : State) : State :=
  let s1 := traceCommand p l d false 0 0 s
  if hEra d ≠ (s.plot p).era.toNat then endCommand p l d (endedEarly stStale (startTile d) 0) s1
  else if headerReserved d then endCommand p l d (endedEarly stIllegal (startTile d) 0) s1
  else match check s1 with
    | some (st, fa) => endCommand p l d (endedEarly st (startTile d) fa) s1
    | none => start (if l = .compute then s1.onPlot p (layerStart d) else s1)

/-- The head command of a lane leaves its waits (R68). `isOp` tells the commands this event is about. -/
def leaveWaits (p : PlotIx) (l : Lane) (isOp : Nat → Bool) (check : BitVec 1024 → State → Option (Nat × Nat))
    (start : BitVec 1024 → State → State) (s : State) : State :=
  match (laneGet (s.plot p) l).queue with
  | [] => s
  | d :: _ =>
    if !isOp (hOp d) || !canStart s p l then s
    else match waits23 p l d s with
      | none => s
      | some s1 =>
        match wait4 p l d s1 with
        | none => s1
        | some s2 => issue p l d (check d) (start d) s2

/-- A fresh run of a command: `total` units, `cycles` planned cycles, four times as many in reduced mode (R79). -/
def beginRun (p : PlotIx) (l : Lane) (d : BitVec 1024) (total cycles : Nat) (s : State) : State :=
  s.onPlot p fun x =>
    let r : Run :=
      { desc := d, done := 0, total := total, status := 0, esc := 0, retries := 0,
        cycles := (if x.reduced then 4 else 1) * cycles + (if s.dev.traceEn then 8 else 0), faultAddr := 0, misses := 0 }
    laneSet x l { laneGet x l with run := some r }

/-- Change the run of a lane. -/
def onRun (p : PlotIx) (l : Lane) (f : Run → Run) (s : State) : State :=
  s.onPlot p fun x => laneSet x l { laneGet x l with run := (laneGet x l).run.map f }

/-! ### SECDED words of the scratchpad (R61) -/

/-- PLT_SP_LAST and the counters after an error at a scratchpad offset (R61, R94). -/
def noteSp (p : PlotIx) (ue : Bool) (o : Nat) (s : State) : State :=
  s.onPlot p fun x =>
    let b := bankOfOffset x.reduced o
    { x with
      err := { x.err with
        ce := if ue then x.err.ce else satAdd x.err.ce 1
        ue := if ue then satAdd x.err.ue 1 else x.err.ue
        lastBank := BitVec.ofNat 6 b
        lastRow := BitVec.ofNat 13 (rowOfOffset x.reduced o)
        lastUe := ue }
      win := if ue then { x.win with ueBanks := x.win.ueBanks ||| BitVec.ofNat 64 (2 ^ b) }
        else { x.win with bankCe := tabSet 0 x.win.bankCe b (tabGet 0 x.win.bankCe b + 1) } }

/-- The errors met by one step's scratchpad reads; the offset of an uncorrectable word fails the command. -/
def applyErrs (p : PlotIx) (e : ReadErrs) (s : State) : State × Option Nat :=
  let s1 := e.ce.foldl (fun s o => noteSp p false o.toNat s) s
  match e.ue with
  | none => (s1, none)
  | some o => (noteSp p true o.toNat s1, some o.toNat)

end Sys2Proof.Machine
end

