-- ==== Sys2Proof/Machine/Operands.lean ====
section
/-! DEFINITION. Operand forms: elements packed in a scratchpad (R32), block scales (R36), pairs (R51), strided
extents and their checks (R70, R85), writing result rows, and the bits that stochastic rounding draws (R198, R199). -/

namespace Sys2Proof.Machine

/-! ### Reading elements -/

/-- The codes of packed elements of `w` bits (R32). -/
def codesOf (w : Nat) (bs : List Byte) : List Nat :=
  if w = 4 then bs.flatMap fun b => [b.toNat % 16, b.toNat / 16] else (chunksOf (w / 8) bs).map natOf

/-- Codes of elements idx .. idx + n - 1 of a row at a scratchpad offset. -/
def rowCodes (s : State) (p : PlotIx) (base w idx n : Nat) : List Nat :=
  if w = 4 then ((codesOf 4 (t0Read s p (base + idx / 2) ((idx % 2 + n + 1) / 2))).drop (idx % 2)).take n
  else codesOf w (t0Read s p (base + idx * (w / 8)) (n * (w / 8)))

/-- Values of elements idx .. idx + n - 1 of a row in a format, without any block scale. -/
def rowVals (s : State) (p : PlotIx) (fmt base idx n : Nat) : List XVal :=
  (rowCodes s p base (fmtBits fmt) idx n).map (decElem fmt)

/-- One element. -/
def elemVal (s : State) (p : PlotIx) (fmt base idx : Nat) : XVal :=
  decElem fmt ((rowCodes s p base (fmtBits fmt) idx 1).headD 0)

/-- The pair words of elements of a pair row (R51). -/
def pairVals (s : State) (p : PlotIx) (base idx n : Nat) : List Pair :=
  (rowCodes s p base 64 idx n).map fun c =>
    { h := decFloat fmtFP32 (c % 2 ^ 32), c := decFloat fmtFP32 (c / 2 ^ 32) }

/-- Bytes of a stored row of n elements of w bits. -/
def rowBytes (w n : Nat) : Nat := (n * w + 7) / 8

/-- A block's values with its scale applied exactly; a NaN scale makes every element NaN (R36, R37). -/
def scaledBlock (sc : Option Rat) (vs : List XVal) : List XVal :=
  match sc with
  | none => vs.map fun _ => .nan
  | some q => vs.map (xscale q)

/-- A tensor scale is a positive finite FP32 value (R37). -/
def goodScale (c : Nat) : Bool :=
  match decFloat fmtFP32 c with
  | .fin false m => m ≠ 0
  | _ => false

/-- The rational of an FP32 field. -/
def fp32Rat (c : Nat) : Rat := xrat (decFloat fmtFP32 c)

/-! ### Extents (R70, R85) -/

/-- A strided region of a scratchpad: offset, rows, stride, bytes of a row. -/
structure Ext where
  off : Nat
  rows : Nat
  ld : Nat
  len : Nat
deriving DecidableEq, Repr

/-- A dense region. -/
def extFlat (off len : Nat) : Ext := { off := off, rows := 1, ld := 0, len := len }

/-- The offset after the last byte of a region. -/
def extEnd (e : Ext) : Nat := e.off + (e.rows - 1) * e.ld + e.len

/-- The offset at which a region faults: at or above 0x0180_0000, or on a retired bank (R59, R70, R85). -/
def extFault (x : Plot) (e : Ext) : Option Nat :=
  if e.rows = 0 || e.len = 0 then none
  else if t0Size < extEnd e then some (max e.off t0Size)
  else if x.banks = 0 then none
  else (List.range e.rows).findSome? fun r => retiredHit x (e.off + r * e.ld) e.len

/-- The first fault among regions, as a status with its address. -/
def extsFault (x : Plot) (es : List Ext) : Option (Nat × Nat) := (es.findSome? (extFault x)).map fun a => (stAddrFault, a)

/-- The checks of step 7 in their order: breaches of formats, dimensions and alignment, then the extents. -/
def checkAll (breaches : List (Bool × Nat)) (fault : Option (Nat × Nat)) : Option (Nat × Nat) :=
  match firstBreach breaches with
  | some st => some (st, 0)
  | none => fault

/-- A number off the 64-byte grid. -/
def off64 (a : Nat) : Bool := a % 64 != 0

/-! ### Writing result rows -/

/-- The bytes of elements written at idx of a row whose elements are `w` bits wide, with the nibbles beside them kept,
but for the pad nibble of a row that ends at `rowLen`, which is written 0 (R32). -/
def rowImage (s : State) (p : PlotIx) (base w idx rowLen : Nat) (codes : List Nat) : Nat × List Byte :=
  if w = 4 then
    let lo := (t0Read s p (base + idx / 2) 1).headD 0
    let last := idx + codes.length
    let hi := (t0Read s p (base + last / 2) 1).headD 0
    let ns := (if idx % 2 = 1 then [lo.toNat % 16] else []) ++ codes ++
      (if last % 2 = 1 then [if last = rowLen then 0 else hi.toNat / 16] else [])
    (base + idx / 2, (chunksOf 2 ns).map fun c => BitVec.ofNat 8 (c.headD 0 + 16 * (c.tail.headD 0)))
  else (base + idx * (w / 8), codes.flatMap (bytesOf (w / 8)))

/-- Write elements of a row. -/
def putRow (p : PlotIx) (base w idx rowLen : Nat) (codes : List Nat) (s : State) : State :=
  let (o, bs) := rowImage s p base w idx rowLen codes
  t0Write p o bs s

/-! ### The stateful generator (R198, R199) -/

/-- One step of the stateful generator; the draw is counted. -/
def rngStep (g : Rng) : Nat × Rng :=
  let t := g.s0 ^^^ (g.s0 <<< 11)
  let n := g.s3 ^^^ (g.s3 >>> 19) ^^^ t ^^^ (t >>> 8)
  (n.toNat, { g with s0 := g.s1, s1 := g.s2, s2 := g.s3, s3 := n, draws := satAdd g.draws 1 })

/-- `n` outputs in order. -/
def rngOuts : Nat → Rng → List Nat × Rng
  | 0, g => ([], g)
  | n + 1, g =>
    let (w, g1) := rngStep g
    let (ws, g2) := rngOuts n g1
    (w :: ws, g2)

/-- The 16 bits of each of `n` elements: bits [15:0] of an output, then bits [31:16]; a half left over is discarded
(R199). -/
def rngHalves (n : Nat) (g : Rng) : List Nat × Rng :=
  let (ws, g1) := rngOuts (cdiv n 2) g
  ((ws.flatMap fun w => [w % 65536, w / 65536]).take n, g1)

/-- The roundings of `n` elements of a tile or unit: nearest-even, or stochastic with fresh bits. -/
def rndList (stochastic : Bool) (n : Nat) (g : Rng) : List Rnd × Rng :=
  if stochastic then
    let (hs, g1) := rngHalves n g
    (hs.map .sr, g1)
  else (List.replicate n .rne, g)

/-! ### Results (R41, R44, R45, R51) -/

/-- The FP32 result of a pair, with saturation and its overflow event (R41). -/
def pairResult (sat : Bool) (a : Pair) : XVal × Bool :=
  match pairSum a with
  | .fin n m =>
    let r := roundMag 23 (-126) .rne m
    if r > fp32Max then (if sat then .fin n fp32Max else .inf n, true) else (.fin n r, false)
  | x => (x, false)

/-- Convert one accumulated pair to an unscaled format. An overflow counts once for a result. -/
def convPair (fmt : Nat) (sat : Bool) (rnd : Rnd) (a : Pair) : Conv :=
  let (v, o) := pairResult sat a
  let c := convTo fmt sat rnd v
  { c with ev := { c.ev with sat := max c.ev.sat o.toNat } }

/-- Store one pair as it is; the Watch looks at h (R51). -/
def storePair (a : Pair) : Conv :=
  let h := convTo 0x6 false .rne a.h
  let c := convTo 0x6 false .rne a.c
  { code := h.code + c.code * 2 ^ 32, ev := { countsZero with nan := if xisNan a.h || xisInf a.h then 1 else 0 } }

/-- Sum of the events of conversions. -/
def evSum (cs : List Conv) : Counts := (cs.map (·.ev)).foldl countsAdd countsZero

/-- One converted row: element codes, scale bytes of a block format, and events. -/
structure RowOut where
  codes : List Nat
  scales : List Nat
  ev : Counts
deriving DecidableEq, Repr

/-- Quantise a row of exact values in blocks of a block format (R38). -/
def quantRow (fmt : Nat) (ts : Rat) (rnds : List Rnd) (vs : List XVal) : RowOut :=
  let b := fmtBlock fmt
  let qs := (chunksOf b (vs.zip rnds)).map fun c => quantBlock fmt ts (c.map (·.2)) (c.map (·.1))
  { codes := qs.flatMap (·.codes), scales := qs.map (·.scale), ev := (qs.map (·.ev)).foldl countsAdd countsZero }

/-- Convert a row of accumulated pairs to the result format. -/
def convPairRow (fmt : Nat) (sat : Bool) (ts : Rat) (rnds : List Rnd) (row : List Pair) : RowOut :=
  if isBlockFmt fmt then
    let vs := row.map (pairResult sat)
    let q := quantRow fmt ts rnds (vs.map (·.1))
    { q with ev := { q.ev with sat := q.ev.sat + (vs.countP (·.2)) } }
  else
    let cs := if fmt = 0x7 then row.map storePair else (row.zip rnds).map fun a => convPair fmt sat a.2 a.1
    { codes := cs.map (·.code), scales := [], ev := evSum cs }

/-- Convert a row of exact values to an unscaled format or pairs (R62). -/
def convRow (fmt : Nat) (sat : Bool) (rnds : List Rnd) (vs : List XVal) : RowOut :=
  let cs :=
    if fmt = 0x7 then vs.map fun v =>
      let h := rne32 v
      let c := if xisNan h then .nan else if xisInf h then xzero else rne32 (xadd v (xneg h))
      storePair { h := h, c := c }
    else (vs.zip rnds).map fun a => convTo fmt sat a.2 a.1
  { codes := cs.map (·.code), scales := [], ev := evSum cs }

end Sys2Proof.Machine
end

