-- ==== Sys2Proof/Machine/Flags.lean ====
section
/-! DEFINITION. The Watch and the residue checker: event counts, thresholds, rungs, the escalation loop of a tile and
the layer state (R57, R58, R112 to R125). -/

namespace Sys2Proof.Machine

/-! ### Counting (R112, R113, R123) -/

/-- Add events to the cumulative Watch registers of a plot. -/
def watchCount (p : PlotIx) (e : Counts) (s : State) : State :=
  s.onPlot p fun x => { x with watch := { x.watch with
    sat := satAdd x.watch.sat e.sat
    range := satAdd x.watch.range e.range
    nan := satAdd x.watch.nan e.nan } }

/-- A count above its threshold; an all-ones threshold is never exceeded. -/
def overThr (n thr ones : Nat) : Bool := thr != ones && thr < n

/-- The counts of a tile that exceed the command's thresholds: bit 0 saturations, bit 1 range, bit 2 NaN/Inf. -/
def exceededMask (d : BitVec 1024) (e : Counts) : Nat :=
  (overThr e.sat (fld d 0x18 11 0) 0xFFF).toNat + 2 * (overThr e.range (fld d 0x18 23 12) 0xFFF).toNat +
    4 * (overThr e.nan (fld d 0x18 31 24) 0xFF).toNat

/-! ### Rungs (R114, R115) -/

/-- The rung of a format code of operand A; the integer formats stand at rung 0 and never escalate. -/
def rungOf (fmt : Nat) : Nat :=
  if fmt = 0x6 then 3
  else if fmt = 0x5 then 2
  else if fmt = 0x3 || fmt = 0x4 || fmt = 0x8 || fmt = 0x9 || fmt = 0xA then 1
  else 0

/-- The rung that ESC_TOP names; 0x0 permits none. -/
def topRung (esc : Nat) : Nat := if esc = 0x9 then 1 else if esc = 0x5 then 2 else if esc = 0x6 then 3 else 0

/-- ESC_TOP values that exist. -/
def escTopOk (esc : Nat) : Bool := esc = 0 || esc = 0x9 || esc = 0x5 || esc = 0x6

/-- Whether a command may escalate to a rung that reads X. -/
def needsX (rung : Nat) (d : BitVec 1024) : Bool := rung ≤ 1 && rung < topRung (hEscTop d)

/-! ### The residue checker (R58) -/

/-- Count residue mismatches, and a fault when the re-run mismatched too. -/
def countResidue (p : PlotIx) (mism fault : Nat) (s : State) : State :=
  s.onPlot p fun x =>
    { x with
      err := { x.err with mismatch := satAdd x.err.mismatch mism, fault := satAdd x.err.fault fault }
      win := { x.win with mismatch := x.win.mismatch + mism, fault := x.win.fault + fault } }

/-! ### One tile (R116 to R121) -/

/-- One run of a tile at one rung: the bytes it would write, its counts and the generator after its draws. -/
structure TileRun where
  writes : List (Nat × List Byte)
  ev : Counts
  rng : Rng
deriving DecidableEq, Repr

/-- A tile of a command: its index in the command's numbering, the command's rung and top, the span of a run at a rung,
the command's cycles by R79, the regions that a run at a rung touches, and the run itself. -/
structure TileJob where
  index : Nat
  rung : Nat
  top : Nat
  span : Nat → Nat
  cycles : Nat
  exts : Nat → List Ext
  run : Nat → Rng → TileRun

/-- How the runs of a tile end: a failing status with its address, or the bytes to write. -/
inductive TileEnd where
  | fail (st fa : Nat)
  | done (writes : List (Nat × List Byte))
deriving DecidableEq, Repr

/-- Four times the plot cycles in reduced mode (R79). -/
def modeCycles (s : State) (p : PlotIx) (n : Nat) : Nat := (if (s.plot p).reduced then 4 else 1) * n

/-- The command carries one residue re-run more, of so many planned cycles (R58, R77). -/
def residueRerun (p : PlotIx) (n : Nat) (s : State) : State :=
  onRun p .compute (fun x => { x with retries := x.retries + 1, cycles := x.cycles + modeCycles s p n }) s

/-- Cycles owed to the Watch with the debit of R121: they count in the record and in PLT_WATCH_CYC. -/
def owe (p : PlotIx) (d : BitVec 1024) (cycles n : Nat) (s : State) : State :=
  let b := bedOf p
  let s1 := debitBed b (energyNeed s b (cdiv (hEnergy d * n) (max 1 cycles))) s
  let m := modeCycles s p n
  (onRun p .compute (fun r => { r with cycles := r.cycles + m }) s1).onPlot p fun x =>
    { x with watch := { x.watch with cyc := satAdd x.watch.cyc m } }

/-- The layer state after an escalated tile was accepted at a rung (R120). -/
def layerNote (d : BitVec 1024) (rung : Nat) (y : Layer) : Layer :=
  let c := satAdd y.count 1
  { y with
    count := c
    rung := BitVec.ofNat 2 (max y.rung.toNat rung)
    wide := y.wide || (hEscK d != 0 && decide (hEscK d ≤ c.toNat)) }

/-- PLT_WATCH_LAST and PLT_WATCH_TILE of a tile that exceeded (R124). -/
def noteExceeded (mask start final index : Nat) (unres : Bool) (w : WatchRegs) : WatchRegs :=
  { w with
    exceeded := BitVec.ofNat 3 mask
    fromRung := BitVec.ofNat 2 start
    toRung := BitVec.ofNat 2 final
    lastUnres := unres
    tile := BitVec.ofNat 32 index
    unresolved := if unres then satAdd w.unresolved 1 else w.unresolved }

/-- What the earlier runs of a tile left: whether one was discarded, the counts that exceeded and the rung of the
first. -/
structure TileSeen where
  esc : Bool
  mask : Nat
  start : Nat
deriving DecidableEq, Repr

/-- A tile is accepted at a rung: the registers of the Watch and the layer state. -/
def acceptTile (p : PlotIx) (d : BitVec 1024) (j : TileJob) (rung : Nat) (seen : TileSeen) (unres : Bool) (s : State) : State :=
  s.onPlot p fun x =>
    let w := if seen.mask = 0 then x.watch else noteExceeded seen.mask seen.start rung j.index unres x.watch
    { x with watch := { w with
      escalated := if seen.esc then satAdd w.escalated 1 else w.escalated
      layer := if seen.esc then layerNote d rung w.layer else w.layer } }

/-- The runs of a tile from a rung on, one residue check per run, with `fuel` rungs left (R118). The Watch-discarded run
keeps its draws in PLT_RNG_DRAWS and gives the state back (R199). -/
def tileRuns (p : PlotIx) (d : BitVec 1024) (j : TileJob) : Nat → Nat → List RunCheck → TileSeen → State → State × TileEnd
  | 0, _, _, _, s => (s, .fail stResidue 0)
  | fuel + 1, r, checks, seen, s =>
    match extsFault (s.plot p) (j.exts r) with
    | some (st, fa) => (s, .fail st fa)
    | none =>
      let c := checks.headD { first := false, again := false }
      if c.first && c.again then (residueRerun p (j.span r) (countResidue p 2 1 s), .fail stResidue 0)
      else
        let s1 := if c.first then residueRerun p (j.span r) (countResidue p 1 0 s) else s
        let g := (s1.plot p).rng
        let t := j.run r g
        let s2 := watchCount p t.ev s1
        let m := if hWatch d then exceededMask d t.ev else 0
        let seen1 := if m = 0 then seen
          else { seen with mask := seen.mask ||| m, start := if seen.mask = 0 then r else seen.start }
        let accept (u : Bool) := ((acceptTile p d j r seen1 u s2).onPlot p fun x => { x with rng := t.rng }, TileEnd.done t.writes)
        if m = 0 then accept false
        else if j.top ≤ r then accept true
        else
          let s3 := s2.onPlot p fun x => { x with rng := { g with draws := t.rng.draws } }
          let s4 := onRun p .compute (fun x => { x with esc := x.esc + 1 }) (owe p d j.cycles (j.span (r + 1)) s3)
          tileRuns p d j fuel (r + 1) checks.tail { seen1 with esc := true } s4

/-- The rung at which a tile starts: the layer's when it is wide (R118, R120). -/
def startRung (x : Plot) (d : BitVec 1024) (j : TileJob) : Nat :=
  let y := x.watch.layer
  if hWatch d && y.wide && y.id.toNat = hLayer d then max j.rung (min y.rung.toNat j.top) else j.rung

/-- One whole tile: a wide start owes the cycles beyond the command's own span (R121, R125). -/
def runTile (p : PlotIx) (d : BitVec 1024) (j : TileJob) (checks : List RunCheck) (s : State) : State × TileEnd :=
  let r := startRung (s.plot p) d j
  let s1 := if j.rung < r then owe p d j.cycles (j.span r - j.span j.rung) s else s
  tileRuns p d j 4 r checks { esc := false, mask := 0, start := 0 } s1

/-- Write the pieces of an accepted tile; the ring tags of ATTN go (R166). -/
def putWrites (p : PlotIx) (ws : List (Nat × List Byte)) (s : State) : State :=
  clearTags p (ws.foldl (fun s w => t0Write p w.1 w.2 s) s)

end Sys2Proof.Machine
end

