-- ==== Sys2Proof/Machine/Tile.lean ====
section
/-! DEFINITION. The array: pairings, operand rows cut into reduction blocks, widening of operand B, the sums of one
tile, and the event in which a running command finishes a tile (R39 to R50, R54 to R56, R117). -/

namespace Sys2Proof.Machine

/-! ### Pairings (R39) -/

/-- Any FP4 format. -/
def isFp4 (f : Nat) : Bool := f == 0x2 || f == 0xB || f == 0xC
/-- Any FP8 format. -/
def isFp8 (f : Nat) : Bool := f == 0x3 || f == 0x4 || f == 0x9 || f == 0xA
/-- INT4 or INT8. -/
def isInt48 (f : Nat) : Bool := f == 0x0 || f == 0x1

/-- An integer pairing. -/
def intPair (a b : Nat) : Bool := isInt48 a && isInt48 b

/-- The pairings of R39. -/
def pairOk (a b : Nat) : Bool :=
  intPair a b || ((isFp4 a || isFp8 a) && (isFp4 b || isFp8 b)) || (a == 0x8 && b == 0x8) || (a == 0x5 && b == 0x5) ||
    (a == 0x6 && b == 0x6)

/-- K_blk of R56: 512 at the 4-bit rate. -/
def kBlk (a b : Nat) : Nat := if (isFp4 a && isFp4 b) || (a == 0x0 && b == 0x0) then 512 else 256

/-- p of R56 at a rung. -/
def passCount (rung : Nat) : Nat := if rung = 2 then 3 else if rung = 3 then 6 else 1

/-- The tile span at a rung of a command with operand formats a and b (R56, R114). -/
def tileSpan (a b k rung r : Nat) : Nat := cdiv k (if r = 0 && rung = 0 then kBlk a b else 256) * 256 * passCount r

/-- The split that a rung uses. -/
def rungSplit (r : Nat) : SplitKind := if r = 2 then .bf16 else if r = 3 then .fp32 else .plain

/-- Reduction block length (R40). -/
def redLen (a b : Nat) : Nat := if a == 0xC || b == 0xC then 16 else 32

/-! ### Operand rows -/

/-- One operand row along K: element values and the scale bytes of its blocks, with its format. -/
structure OpRow where
  fmt : Nat
  vals : List XVal
  scales : List Nat
deriving DecidableEq, Repr

/-- A row of an unscaled format. -/
def plainRow (fmt : Nat) (vals : List XVal) : OpRow := { fmt := fmt, vals := vals, scales := [] }

/-- The scale of the block of a row that holds an element index, 1 for an unscaled row. -/
def rowScale (r : OpRow) (k : Nat) : Option Rat :=
  if isBlockFmt r.fmt then decScale r.fmt (r.scales.getD (k / fmtBlock r.fmt) 0) else some 1

/-- A chunk padded with zeros to the block length (R40). -/
def padTo (l : Nat) (vs : List XVal) : List XVal := vs ++ List.replicate (l - vs.length) xzero

/-- One reduction block of a row under a split. A NaN scale makes its elements NaN. `ts` is the tensor scale. -/
def mkBlk (k : SplitKind) (ts : Rat) (sc : Option Rat) (vs : List XVal) : Blk :=
  match sc with
  | none => plainBlk 1 (vs.map fun _ => .nan)
  | some q =>
    match k with
    | .plain => plainBlk (q * ts) vs
    | .bf16 => splitBf16 (q * ts) vs
    | .fp32 => splitFp32 (q * ts) vs

/-- The reduction blocks of a row. -/
def rowBlks (k : SplitKind) (l : Nat) (ts : Rat) (r : OpRow) : List Blk :=
  let cs := chunksOf l r.vals
  (cs.zip (List.range cs.length)).map fun c => mkBlk k ts (rowScale r (c.2 * l)) (padTo l c.1)

/-- One stored element of B widened to BF16, and whether it left the BF16 normal range (R117). -/
def widenElem (sc : Option Rat) (v : XVal) : XVal × Bool :=
  match sc with
  | none => (.nan, false)
  | some q =>
    match xscale q v with
    | .fin n m =>
      if m > fmtBF16.top then (.inf n, true)
      else if m ≠ 0 && m < pow2 (-126) then (.fin n 0, true)
      else (.fin n m, false)
    | x => (x, false)

/-- A row of B for rungs 2 and 3: its widened values and how many of them count as misses. -/
def widenRow (r : OpRow) : OpRow × Nat :=
  if r.fmt = 0x5 || r.fmt = 0x6 then (r, 0)
  else
    let ws := (r.vals.zip (List.range r.vals.length)).map fun v => widenElem (rowScale r v.2) v.1
    (plainRow 0x5 (ws.map (·.1)), ws.countP (·.2))

/-- X quantised on the fly to MXFP8 E4M3, with the elements it clamped (R116). -/
def quantX (vs : List XVal) : OpRow × Nat :=
  let q := quantRow 0x9 1 (vs.map fun _ => .rne) vs
  ({ fmt := 0x9, vals := q.codes.map (decElem 0x9), scales := q.scales }, q.ev.sat)

/-! ### Sums -/

/-- The block sums of two rows, in ascending order of blocks. -/
def blockSums (k : SplitKind) (a b : List Blk) : List XVal := (a.zip b).map fun p => blockSum k p.1 p.2

/-- One accumulated element and how many of its block sums became ±0 (R41, R43). -/
def accPair (seed : Pair) (xs : List XVal) (term : Option XVal) : Pair × Nat :=
  let acc := xs.foldl accStep seed
  (match term with
    | some y => accStep acc y
    | none => acc, xs.countP underflows)

/-- One INT32 element and how many additions saturated (R42). -/
def accInts (seed : Int) (xs : List XVal) : Int × Nat :=
  xs.foldl (fun (a : Int × Nat) x =>
    let (v, o) := accInt a.1 (xrat x).floor
    (v, a.2 + o.toNat)) (seed, 0)

/-- The misses that the blocks of all rows of an operand hold. -/
def missCount (rows : List (List Blk)) : Nat := (rows.map fun r => (r.map (·.misses)).sum).sum

/-- The INT32 results converted to a result format; INT32 itself is the accumulator (R42). -/
def convIntRow (fmt : Nat) (sat : Bool) (ts : Rat) (rnds : List Rnd) (row : List Int) : RowOut :=
  if fmt = 0xD then { codes := row.map (unsigned 32), scales := [], ev := countsZero }
  else if isBlockFmt fmt then quantRow fmt ts rnds (row.map fun v => xofRat (v : Rat))
  else convRow fmt sat rnds (row.map fun v => xofRat (v : Rat))

/-- Whether results of a format draw bits under stochastic rounding: INT32 and pair results are not converted. -/
def drawsBits (fmt : Nat) (stochastic : Bool) : Bool := stochastic && fmt != 0x7 && fmt != 0xD

/-! ### Tile events -/

/-- The number of residue checks a tile event may bring is one per rung run; those that are missing are clean. A tile of
a running compute command is finished: SECDED errors of its reads first, then its runs; on success its result is written
and a pending flush takes effect (R56, R58, R61, R78). `put` makes the writes, and answers a status and address where one
fails. -/
def tileEvent (p : PlotIx) (op : Nat) (job : Run → State → TileJob) (checks : List RunCheck) (errs : ReadErrs)
    (put : Run → List (Nat × List Byte) → State → State × Option (Nat × Nat)) (s : State) : State :=
  match (s.plot p).compute.run with
  | none => s
  | some r =>
    if holdActive s || hOp r.desc ≠ op || r.total ≤ r.done then s
    else
      match applyErrs p errs s with
      | (s1, some o) => endRun p .compute r stSpUncorr o s1
      | (s1, none) =>
        match runTile p r.desc (job r s1) checks s1 with
        | (s2, .fail st fa) => endRun p .compute ((s2.plot p).compute.run.getD r) st fa s2
        | (s2, .done ws) =>
          match put r ws s2 with
          | (s3, some (st, fa)) => endRun p .compute ((s3.plot p).compute.run.getD r) st fa s3
          | (s3, none) =>
            let s4 := onRun p .compute (fun x => { x with done := x.done + 1 }) s3
            let r4 := (s4.plot p).compute.run.getD r
            if (s4.plot p).flushing && r4.done < r4.total then endRun p .compute r4 stFlushed 0 s4 else s4

/-- Rounding choices and the generator after the draws of one tile row by row (R199). -/
def rndRows (stochastic : Bool) : List Nat → List Nat → List (List Rnd)
  | [], _ => []
  | n :: ns, hs => (if stochastic then (hs.take n).map .sr else List.replicate n .rne) :: rndRows stochastic ns (hs.drop n)

/-- The roundings of a tile whose rows hold the numbers of elements given. -/
def tileRnds (stochastic : Bool) (sizes : List Nat) (g : Rng) : List (List Rnd) × Rng :=
  if stochastic then
    let (hs, g1) := rngHalves sizes.sum g
    (rndRows true sizes hs, g1)
  else (rndRows false sizes [], g)

/-- Write the codes of an element run at a row base, after the writes that precede it in the tile. -/
def imageOf (s : State) (p : PlotIx) (base w idx rowLen : Nat) (codes : List Nat) : Nat × List Byte :=
  rowImage s p base w idx rowLen codes

end Sys2Proof.Machine
end

