-- ==== Sys2Proof/Machine/Gemm.lean ====
section
/-! DEFINITION. GEMM: checks, tile geometry and folding, operands at each rung, the Stake, and the tile event (R69, R70,
R79, R99 to R102, R111, R114 to R117). -/

namespace Sys2Proof.Machine

open Host

/-- A 32-bit descriptor word. -/
def w32 (d : BitVec 1024) (off : Nat) : Nat := fld d off 31 0

/-! ### Fields (R69, R99) -/

/-- M. -/
def gM (d : BitVec 1024) : Nat := fld d 0x30 15 0
/-- N. -/
def gN (d : BitVec 1024) : Nat := fld d 0x30 31 16
/-- K. -/
def gK (d : BitVec 1024) : Nat := w32 d 0x34
/-- A_FMT. -/
def gAF (d : BitVec 1024) : Nat := fld d 0x38 3 0
/-- B_FMT. -/
def gBF (d : BitVec 1024) : Nat := fld d 0x38 7 4
/-- C_FMT. -/
def gCF (d : BitVec 1024) : Nat := fld d 0x38 11 8
/-- ROUND. -/
def gRound (d : BitVec 1024) : Bool := flag d 0x38 12
/-- SAT. -/
def gSat (d : BitVec 1024) : Bool := flag d 0x38 13
/-- SEED_MODE. -/
def gSeed (d : BitVec 1024) : Nat := fld d 0x38 15 14
/-- TRANS_A. -/
def gTA (d : BitVec 1024) : Bool := flag d 0x38 16
/-- TRANS_B. -/
def gTB (d : BitVec 1024) : Bool := flag d 0x38 17
/-- STAKE_EN. -/
def gStake (d : BitVec 1024) : Bool := flag d 0x38 18
/-- RANK. -/
def gRank (d : BitVec 1024) : Nat := fld d 0x6C 6 0
/-- The number of folds F. -/
def gF (d : BitVec 1024) : Nat := fld d 0x74 11 2 + 1
/-- C_FOLD. -/
def gCFold (d : BitVec 1024) : Nat := fld d 0x74 31 12
/-- A_FOLD. -/
def gAFold (d : BitVec 1024) : Nat := fld d 0x78 19 0
/-- B_FOLD. -/
def gBFold (d : BitVec 1024) : Nat := fld d 0x7C 19 0
/-- ORDER: N tiles outer. -/
def gOrder (d : BitVec 1024) : Bool := flag d 0x74 0
/-- FOLD_DIM: folds along N. -/
def gFoldN (d : BitVec 1024) : Bool := flag d 0x74 1
/-- The integer pairing. -/
def gInt (d : BitVec 1024) : Bool := intPair (gAF d) (gBF d)

/-! ### Tiles (R99, R100) -/

/-- Folds packed along M. -/
def packedM (d : BitVec 1024) : Bool := !gFoldN d && gBFold d == 0
/-- Folds packed along N. -/
def packedN (d : BitVec 1024) : Bool := gFoldN d && gAFold d == 0

/-- Logical rows of one tiled problem. -/
def rowsOf (d : BitVec 1024) : Nat := if packedM d then gF d * gM d else gM d
/-- Logical columns of one tiled problem. -/
def colsOf (d : BitVec 1024) : Nat := if packedN d then gF d * gN d else gN d
/-- Tiled problems: the folds of a separate folding. -/
def problems (d : BitVec 1024) : Nat := if packedM d || packedN d then 1 else gF d

/-- Output tiles of a command. -/
def gemmTiles (d : BitVec 1024) : Nat := problems d * (cdiv (rowsOf d) 256 * cdiv (colsOf d) 256)

/-- The fold, row-tile and column-tile indices of tile t. -/
def tilePos (d : BitVec 1024) (t : Nat) : Nat × Nat × Nat :=
  let mt := cdiv (rowsOf d) 256
  let nt := cdiv (colsOf d) 256
  let u := t % (mt * nt)
  if gOrder d then (t / (mt * nt), u % mt, u / mt) else (t / (mt * nt), u / nt, u % nt)

/-- Indices of a tile along one dimension as (fold, index within the fold). -/
def tileIdx (packed : Bool) (ext whole fold t : Nat) : List (Nat × Nat) :=
  (List.range (min 256 (whole - 256 * t))).map fun i =>
    let l := 256 * t + i
    if packed then (l / ext, l % ext) else (fold, l)

/-- Rows of tile t. -/
def tileRows (d : BitVec 1024) (t : Nat) : List (Nat × Nat) :=
  tileIdx (packedM d) (gM d) (rowsOf d) (if packedN d then 0 else (tilePos d t).1) (tilePos d t).2.1
/-- Columns of tile t. -/
def tileCols (d : BitVec 1024) (t : Nat) : List (Nat × Nat) :=
  tileIdx (packedN d) (gN d) (colsOf d) (if packedM d then 0 else (tilePos d t).1) (tilePos d t).2.2

/-! ### Operands -/

/-- An operand as the descriptor gives it: format, base, stride, transposed, scale tensor, fold stride, rows. -/
structure Oper where
  fmt : Nat
  base : Nat
  ld : Nat
  tr : Bool
  sc : Nat
  fold : Nat
  rows : Nat
deriving DecidableEq, Repr

/-- Operand A. -/
def operA (d : BitVec 1024) : Oper :=
  { fmt := gAF d, base := w32 d 0x20, ld := w32 d 0x3C, tr := gTA d, sc := w32 d 0x48, fold := gAFold d, rows := gM d }
/-- Operand B. -/
def operB (d : BitVec 1024) : Oper :=
  { fmt := gBF d, base := w32 d 0x24, ld := w32 d 0x40, tr := gTB d, sc := w32 d 0x4C, fold := gBFold d, rows := gN d }

/-- Data bytes per scale byte: R of R101. -/
def scaleRatio (fmt : Nat) : Nat := if fmt = 0xC then 8 else if fmt = 0xB then 16 else 32

/-- Where the scale bytes of a row of a fold start. -/
def scaleAt (o : Oper) (k fold i : Nat) : Nat :=
  o.sc + 64 * fold * o.fold / scaleRatio o.fmt + i * cdiv k (fmtBlock o.fmt)

/-- One stored row of an operand, K elements. -/
def operRow (s : State) (p : PlotIx) (o : Oper) (k fold i : Nat) : OpRow :=
  let base := o.base + 64 * fold * o.fold
  if o.tr then
    plainRow o.fmt ((List.range k).map fun q => elemVal s p o.fmt (base + q * o.ld) i)
  else
    { fmt := o.fmt, vals := rowVals s p o.fmt (base + i * o.ld) 0 k,
      scales := if isBlockFmt o.fmt then (t0Read s p (scaleAt o k fold i) (cdiv k (fmtBlock o.fmt))).map (·.toNat) else [] }

/-- The regions that one row of an operand occupies. -/
def operExts (o : Oper) (k fold i : Nat) : List Ext :=
  let base := o.base + 64 * fold * o.fold
  if o.tr then [{ off := base + i * fmtBits o.fmt / 8, rows := k, ld := o.ld, len := max 1 (fmtBits o.fmt / 8) }]
  else extFlat (base + i * o.ld) (rowBytes (fmtBits o.fmt) k) ::
    (if isBlockFmt o.fmt then [extFlat (scaleAt o k fold i) (cdiv k (fmtBlock o.fmt))] else [])

/-- The row of X that serves a row of A (R115). -/
def xIndex (d : BitVec 1024) (fi : Nat × Nat) : Nat := if gAFold d ≠ 0 then fi.1 * gM d + fi.2 else fi.2

/-- A row of X. -/
def xRow (s : State) (p : PlotIx) (d : BitVec 1024) (fi : Nat × Nat) : List XVal :=
  rowVals s p 0x5 (w32 d 0x60 + xIndex d fi * (2 * gK d)) 0 (gK d)

/-- The tensor scale of an operand, 1 when it has none. -/
def tensorScale (fmt c : Nat) : Rat := if fmt = 0xC then fp32Rat c else 1

/-- A row of A at a rung, with its tensor scale and the elements that X's quantisation clamped (R116). -/
def rungA (s : State) (p : PlotIx) (d : BitVec 1024) (r : Nat) (fi : Nat × Nat) : OpRow × Rat × Nat :=
  let own := rungOf (gAF d)
  if r = own || gInt d || (own = 2 && r = 3) then
    (operRow s p (operA d) (gK d) fi.1 fi.2, tensorScale (gAF d) (w32 d 0x54), 0)
  else if r = 1 then
    let q := quantX (xRow s p d fi)
    (q.1, 1, q.2)
  else (plainRow 0x5 (xRow s p d fi), 1, 0)

/-- A row of B at a rung, with the elements whose widening missed (R117). -/
def rungB (s : State) (p : PlotIx) (d : BitVec 1024) (r : Nat) (fj : Nat × Nat) : OpRow × Rat × Nat :=
  let b := operRow s p (operB d) (gK d) fj.1 fj.2
  let w := if 2 ≤ r then widenRow b else (b, 0)
  (w.1, tensorScale (gBF d) (w32 d 0x58), w.2)

/-- Reduction block length of a run at a rung. -/
def rungLen (d : BitVec 1024) (r : Nat) : Nat :=
  if r = rungOf (gAF d) then redLen (gAF d) (gBF d) else if r = 1 then redLen 0x9 (gBF d) else 32

/-! ### The Stake (R111) -/

/-- FP32 rounded to BF16, nearest-even, overflow to infinity, as a value. -/
def toBf16 (x : XVal) : XVal := decFloat fmtBF16 (convFloat 0x5 fmtBF16 false .rne x).code

/-- One row of T = X U. -/
def stakeT (s : State) (p : PlotIx) (d : BitVec 1024) (fi : Nat × Nat) : List XVal :=
  let x := xRow s p d fi
  let k := gK d
  let xb := rowBlks .plain 32 1 (plainRow 0x5 x)
  (List.range (gRank d)).map fun q =>
    let u := (List.range k).map fun i => elemVal s p 0x5 (w32 d 0x64) (i * gRank d + q)
    let (acc, _) := accPair pairZero (blockSums .plain xb (rowBlks .plain 32 1 (plainRow 0x5 u))) none
    toBf16 (rne32 (pairSum acc))

/-- Column j of V. -/
def stakeV (s : State) (p : PlotIx) (d : BitVec 1024) (j : Nat) : List XVal :=
  (List.range (gRank d)).map fun q => elemVal s p 0x5 (w32 d 0x68) (q * gN d + j)

/-- One element of Y = T V. -/
def stakeY (t v : List XVal) : XVal := rne32 (xsum ((t.zip v).map fun a => xmul a.1 a.2))

/-! ### One run of a tile -/

/-- The fold of an output element. -/
def outFold (fi fj : Nat × Nat) : Nat := max fi.1 fj.1

/-- The seed pair of an element (R41). -/
def seedPair (s : State) (p : PlotIx) (d : BitVec 1024) (fi fj : Nat × Nat) : Pair :=
  let base := w32 d 0x2C + 64 * outFold fi fj * gCFold d + fi.2 * w32 d 0x44
  match gSeed d with
  | 1 => { h := elemVal s p 0x6 base fj.2, c := xzero }
  | 2 => (pairVals s p base fj.2 1).headD pairZero
  | _ => pairZero

/-- The INT32 seed of an element (R42). -/
def seedInt (s : State) (p : PlotIx) (d : BitVec 1024) (fi fj : Nat × Nat) : Int :=
  if gSeed d = 3 then
    (xrat (elemVal s p 0xD (w32 d 0x2C + 64 * outFold fi fj * gCFold d + fi.2 * w32 d 0x44) fj.2)).floor
  else 0

/-- A run of columns of one row that lie in one fold: the row, its fold, the first column, and the count. -/
structure Seg where
  row : Nat
  fold : Nat
  col : Nat
  len : Nat
deriving DecidableEq, Repr

/-- Cut a tile's columns into runs of one fold: (fold, first column, length). -/
def colRuns : List (Nat × Nat) → List (Nat × Nat × Nat)
  | [] => []
  | (f, j) :: t =>
    match colRuns t with
    | (g, _, n) :: rest => if f = g then (f, j, n + 1) :: rest else (f, j, 1) :: (g, t.headD (0, 0) |>.2, n) :: rest
    | [] => [(f, j, 1)]

/-- The bytes of one converted run of columns: its elements and, for a block format, its scales (R70). -/
def segWrites (s : State) (p : PlotIx) (d : BitVec 1024) (i fold j : Nat) (o : RowOut) : List (Nat × List Byte) :=
  let cf := gCF d
  let at_ := w32 d 0x28 + 64 * fold * gCFold d
  rowImage s p (at_ + i * w32 d 0x44) (fmtBits cf) j (gN d) o.codes ::
    (if isBlockFmt cf then
      [(w32 d 0x50 + 64 * fold * gCFold d / scaleRatio cf + i * cdiv (gN d) (fmtBlock cf) + j / fmtBlock cf,
        o.scales.map (BitVec.ofNat 8))]
    else [])

/-- Convert the rows of a tile run by run and collect what is written. Each row brings its index and elements. -/
def tileOut {α : Type} (s : State) (p : PlotIx) (d : BitVec 1024) (conv : List Rnd → List α → RowOut)
    (cols : List (Nat × Nat)) : List ((Nat × Nat) × List α) → List (List Rnd) → List (Nat × List Byte) × Counts
  | [], _ => ([], countsZero)
  | (fi, xs) :: rows, rnds =>
    let step (a : List (Nat × List Byte) × Counts × Nat) (run : Nat × Nat × Nat) :=
      let o := conv (((rnds.headD []).drop a.2.2).take run.2.2) ((xs.drop a.2.2).take run.2.2)
      (a.1 ++ segWrites s p d fi.2 (max fi.1 run.1) run.2.1 o, countsAdd a.2.1 o.ev, a.2.2 + run.2.2)
    let here := (colRuns cols).foldl step ([], countsZero, 0)
    let rest := tileOut s p d conv cols rows rnds.tail
    (here.1 ++ rest.1, countsAdd here.2.1 rest.2)

/-- One run of tile t at a rung. -/
def gemmRun (s : State) (p : PlotIx) (d : BitVec 1024) (t r : Nat) (g : Rng) : TileRun :=
  let rows := tileRows d t
  let cols := tileCols d t
  let l := rungLen d r
  let k := rungSplit r
  let as := rows.map (rungA s p d r)
  let ab := as.map fun a => rowBlks k l a.2.1 a.1
  let bs := cols.map (rungB s p d r)
  let bb := bs.map fun b => rowBlks k l b.2.1 b.1
  let miss := missCount ab + missCount bb + (bs.map (·.2.2)).sum
  let clamp := (as.map (·.2.2)).sum
  let (rnds, g1) := tileRnds (drawsBits (gCF d) (gRound d)) (rows.map fun _ => cols.length) g
  let ts := tensorScale (gCF d) (w32 d 0x5C)
  if gInt d then
    let accs := (rows.zip ab).map fun a => (a.1, (cols.zip bb).map fun b => accInts (seedInt s p d a.1 b.1) (blockSums .plain a.2 b.2))
    let sat := (accs.map fun a => (a.2.map (·.2)).sum).sum
    let o := tileOut s p d (convIntRow (gCF d) (gSat d) ts) cols (accs.map fun a => (a.1, a.2.map (·.1))) rnds
    { writes := o.1, ev := countsAdd o.2 { sat := sat, range := 0, nan := 0 }, rng := g1 }
  else
    let ts' := if gStake d then rows.map (stakeT s p d) else []
    let vs := if gStake d then cols.map fun c => stakeV s p d c.2 else []
    let term (i j : Nat) : Option XVal := if gStake d then some (stakeY (ts'.getD i []) (vs.getD j [])) else none
    let accs := ((rows.zip ab).zip (List.range rows.length)).map fun a => (a.1.1,
      ((cols.zip bb).zip (List.range cols.length)).map fun b =>
        accPair (seedPair s p d a.1.1 b.1.1) (blockSums k a.1.2 b.1.2) (term a.2 b.2))
    let low := (accs.map fun a => (a.2.map (·.2)).sum).sum
    let o := tileOut s p d (convPairRow (gCF d) (gSat d) ts) cols (accs.map fun a => (a.1, a.2.map (·.1))) rnds
    { writes := o.1, ev := countsAdd o.2 { sat := clamp, range := low + miss, nan := 0 }, rng := g1 }

/-- The regions that a run of tile t at a rung reads and writes. -/
def gemmExts (d : BitVec 1024) (t r : Nat) : List Ext :=
  let rows := tileRows d t
  let cols := tileCols d t
  let own := rungOf (gAF d)
  let useX := gStake d || !(r = own || (own = 2 && r = 3))
  let outs := rows.flatMap fun fi => (colRuns cols).flatMap fun c =>
    let f := max fi.1 c.1
    let cell (base w : Nat) := extFlat (base + 64 * f * gCFold d + fi.2 * w32 d 0x44 + c.2.1 * w / 8) (cdiv (c.2.2 * w) 8)
    (if gSeed d = 0 then [] else [cell (w32 d 0x2C) (if gSeed d = 2 then 64 else 32)]) ++
      cell (w32 d 0x28) (fmtBits (gCF d)) ::
      (if isBlockFmt (gCF d) then
        [extFlat (w32 d 0x50 + 64 * f * gCFold d / scaleRatio (gCF d) + fi.2 * cdiv (gN d) (fmtBlock (gCF d)) +
          c.2.1 / fmtBlock (gCF d)) (cdiv c.2.2 (fmtBlock (gCF d)))]
      else [])
  (if r = own || (own = 2 && r = 3) then rows.flatMap fun fi => operExts (operA d) (gK d) fi.1 fi.2 else []) ++
    (if useX then rows.map fun fi => extFlat (w32 d 0x60 + xIndex d fi * (2 * gK d)) (2 * gK d) else []) ++
    (cols.flatMap fun fj => operExts (operB d) (gK d) fj.1 fj.2) ++
    (if gStake d then extFlat (w32 d 0x64) (2 * gK d * gRank d) ::
      cols.map fun fj => { off := w32 d 0x68 + 2 * fj.2, rows := gRank d, ld := 2 * gN d, len := 2 } else []) ++ outs

/-! ### Checks (R70, R101, R115) -/

/-- Reserved body bits of GEMM. -/
def gemmReserved (d : BitVec 1024) : Bool :=
  fld d 0x38 31 19 != 0 || fld d 0x6C 31 7 != 0 || fld d 0x78 31 20 != 0 || fld d 0x7C 31 20 != 0

/-- The stored rows and the elements of a stored row of an operand. -/
def storedShape (o : Oper) (k : Nat) : Nat × Nat := if o.tr then (k, o.rows) else (o.rows, k)

/-- Bytes of one stored row of an operand. -/
def storedRow (o : Oper) (k : Nat) : Nat := rowBytes (fmtBits o.fmt) (storedShape o k).2

/-- The regions of an operand in the first and the last fold. -/
def operRegions (o : Oper) (k f : Nat) : List Ext :=
  [0, f - 1].flatMap fun q =>
    { off := o.base + 64 * q * o.fold, rows := (storedShape o k).1, ld := o.ld, len := storedRow o k } ::
      (if isBlockFmt o.fmt then [extFlat (scaleAt o k q 0) (o.rows * cdiv k (fmtBlock o.fmt))] else [])

/-- The bytes of a row of the result and of the seed. -/
def resultRow (d : BitVec 1024) : Nat := rowBytes (fmtBits (gCF d)) (gN d)
/-- The bytes of a row of the seed, 0 without one. -/
def seedRow (d : BitVec 1024) : Nat := match gSeed d with
  | 0 => 0
  | 2 => 8 * gN d
  | _ => 4 * gN d

/-- Whether X is read or may be read. -/
def gemmX (d : BitVec 1024) : Bool := gStake d || (!gInt d && needsX (rungOf (gAF d)) d)

/-- All regions of a GEMM that step 7 checks. -/
def gemmRegions (d : BitVec 1024) : List Ext :=
  let f := gF d
  let out (base row : Nat) := [0, f - 1].map fun q =>
    ({ off := base + 64 * q * gCFold d, rows := gM d, ld := w32 d 0x44, len := row } : Ext)
  operRegions (operA d) (gK d) f ++ operRegions (operB d) (gK d) f ++ out (w32 d 0x28) (resultRow d) ++
    (if isBlockFmt (gCF d) then [0, f - 1].map fun q =>
      extFlat (w32 d 0x50 + 64 * q * gCFold d / scaleRatio (gCF d)) (gM d * cdiv (gN d) (fmtBlock (gCF d))) else []) ++
    (if gSeed d = 0 then [] else out (w32 d 0x2C) (seedRow d)) ++
    (if gemmX d then [extFlat (w32 d 0x60) (2 * (if gAFold d ≠ 0 then f * gM d else gM d) * gK d)] else []) ++
    (if gStake d then [extFlat (w32 d 0x64) (2 * gK d * gRank d), extFlat (w32 d 0x68) (2 * gRank d * gN d)] else [])

/-- Steps 6 and 7 for GEMM. -/
def checkGemm (p : PlotIx) (d : BitVec 1024) (s : State) : Option (Nat × Nat) :=
  let a := gAF d
  let b := gBF d
  let c := gCF d
  let int := gInt d
  checkAll
    [ (gemmReserved d, stIllegal),
      (!pairOk a b || c ≥ 0xE, stFormat),
      (c = 0xD && !int || c = 0x7 && int, stFormat),
      (gSeed d = 3 && !int || (gSeed d = 1 || gSeed d = 2) && int, stFormat),
      (gTA d && isBlockFmt a || gTB d && isBlockFmt b, stFormat),
      (gStake d && int, stFormat),
      (isBlockFmt c && gN d % fmtBlock c != 0, stFormat),
      (a = 0xC && !goodScale (w32 d 0x54) || b = 0xC && !goodScale (w32 d 0x58) || c = 0xC && !goodScale (w32 d 0x5C), stFormat),
      (!escTopOk (hEscTop d) || hEscTop d != 0 && int, stFormat),
      (gM d = 0 || gN d = 0 || gK d = 0 || gK d > 2097152, stDim),
      (gStake d && (gRank d = 0 || gRank d > 64), stDim),
      (gF d > 1 && (gCFold d = 0 || gStake d), stDim),
      (startTile d ≥ gemmTiles d, stDim),
      (off64 (w32 d 0x20) || off64 (w32 d 0x24) || off64 (w32 d 0x28) || gSeed d != 0 && off64 (w32 d 0x2C), stAlign),
      (gemmX d && off64 (w32 d 0x60) || gStake d && (off64 (w32 d 0x64) || off64 (w32 d 0x68)), stAlign),
      (off64 (w32 d 0x3C) || off64 (w32 d 0x40) || off64 (w32 d 0x44), stAlign),
      (w32 d 0x3C < storedRow (operA d) (gK d) || w32 d 0x40 < storedRow (operB d) (gK d) ||
        w32 d 0x44 < max (resultRow d) (seedRow d), stAlign) ]
    (extsFault (s.plot p) (gemmRegions d))

/-! ### Cycles (R79, R102) -/

/-- The widest rung a command may reach. -/
def topOf (own : Nat) (int : Bool) (d : BitVec 1024) : Nat := if int then own else max own (topRung (hEscTop d))

/-- Plot cycles of the tiles a GEMM computes. -/
def gemmCycles (d : BitVec 1024) : Nat :=
  let own := rungOf (gAF d)
  let base := 520 + (gemmTiles d - startTile d) * tileSpan (gAF d) (gBF d) (gK d) own own
  if gStake d then max base (64 + cdiv (gM d * gRank d * (gK d + gN d)) 16384) else base

/-- The tile of a running GEMM that comes next. -/
def gemmJob (p : PlotIx) (r : Run) (s : State) : TileJob :=
  let d := r.desc
  let t := startTile d + r.done
  let own := rungOf (gAF d)
  { index := t, rung := own, top := topOf own (gInt d) d, span := tileSpan (gAF d) (gBF d) (gK d) own,
    cycles := gemmCycles d, exts := gemmExts d t, run := gemmRun s p d t }

/-- GEMM: the command leaves its waits and starts. -/
def execGemm (p : PlotIx) (s : State) : Out :=
  .next (leaveWaits p .compute (· = 0x01) (fun d => checkGemm p d)
    (fun d => beginRun p .compute d (gemmTiles d - startTile d) (gemmCycles d)) s)

/-- OUTPUT_TILE_COMPLETE: the next output tile of the running GEMM. -/
def execOutputTileComplete (p : PlotIx) (runs : List RunCheck) (errs : ReadErrs) (s : State) : Out :=
  .next (tileEvent p 0x01 (gemmJob p) runs errs (fun _ ws s => (putWrites p ws s, none)) s)

end Sys2Proof.Machine
end

