-- ==== Sys2Proof/Machine/Vector.lean ====
section
/-! DEFINITION. The vector unit: VEC (R62, R63, R73), STAT and the soft maximum (R142 to R146), each unit of R488 by
itself. -/

namespace Sys2Proof.Machine

open Host

/-! ### VEC -/

/-- VOP. -/
def vOp (d : BitVec 1024) : Nat := fld d 0x34 7 0
/-- COUNT. -/
def vCount (d : BitVec 1024) : Nat := w32 d 0x30
/-- S0_FMT. -/
def vF0 (d : BitVec 1024) : Nat := fld d 0x34 11 8
/-- S1_FMT. -/
def vF1 (d : BitVec 1024) : Nat := fld d 0x34 15 12
/-- S2_FMT. -/
def vF2 (d : BitVec 1024) : Nat := fld d 0x34 19 16
/-- D_FMT. -/
def vFD (d : BitVec 1024) : Nat := fld d 0x34 23 20
/-- ROUND. -/
def vRound (d : BitVec 1024) : Bool := flag d 0x34 24
/-- SAT. -/
def vSat (d : BitVec 1024) : Bool := flag d 0x34 25
/-- S1_PERIOD. -/
def vPeriod (d : BitVec 1024) : Nat := w32 d 0x3C

/-- Whether the operation reads source 1. -/
def vUses1 (op : Nat) : Bool := (1 ≤ op && op ≤ 6) || op == 0x0B || op == 0x0C
/-- Whether the operation reads source 2. -/
def vUses2 (op : Nat) : Bool := op == 0x04 || op == 0x0B

/-- The exact result of one operation on exact values (R62, R73). -/
def vecOp (op : Nat) (a b c scalar : XVal) : XVal :=
  match op with
  | 0x01 => xadd a b
  | 0x02 => xadd a (xneg b)
  | 0x03 => xmul a b
  | 0x04 => xadd (xmul a b) c
  | 0x05 => xmax a b
  | 0x06 => xmin a b
  | 0x07 => xmul a scalar
  | 0x08 => xadd a scalar
  | 0x09 => xabs a
  | 0x0A => xneg a
  | 0x0B => if xisZero c then b else a
  | 0x0C => if xlt b a then .fin false 1 else xzero
  | _ => a

/-- Source 0 of elements lo .. lo + n - 1, with the block scales that COPY applies. -/
def vecSrc0 (s : State) (p : PlotIx) (d : BitVec 1024) (lo n : Nat) : List XVal :=
  let f := vF0 d
  let vs := rowVals s p f (w32 d 0x20) lo n
  if isBlockFmt f then
    let b := fmtBlock f
    let ts := tensorScale f (w32 d 0x44)
    let scs := (t0Read s p (w32 d 0x40 + lo / b) (cdiv n b)).map (·.toNat)
    ((chunksOf b vs).zip scs).flatMap fun c => scaledBlock ((decScale f c.2).map (· * ts)) c.1
  else vs

/-- Source 1, repeated with its period. -/
def vecSrc1 (s : State) (p : PlotIx) (d : BitVec 1024) (lo n : Nat) : List XVal :=
  if vPeriod d = 0 then rowVals s p (vF1 d) (w32 d 0x24) lo n
  else (List.range n).map fun i => elemVal s p (vF1 d) (w32 d 0x24) ((lo + i) % vPeriod d)

/-- The exact results of elements lo .. lo + n - 1. -/
def vecVals (s : State) (p : PlotIx) (d : BitVec 1024) (lo n : Nat) : List XVal :=
  let op := vOp d
  let s0 := vecSrc0 s p d lo n
  let s1 := if vUses1 op then vecSrc1 s p d lo n else s0
  let s2 := if vUses2 op then rowVals s p (vF2 d) (w32 d 0x28) lo n else s0
  let k := decFloat fmtFP32 (w32 d 0x38)
  ((s0.zip s1).zip s2).map fun a => vecOp op a.1.1 a.1.2 a.2 k

/-- One unit of VEC: convert, count and write. -/
def vecUnit (p : PlotIx) (d : BitVec 1024) (lo n : Nat) (s : State) : State :=
  let f := vFD d
  let (rnds, g) := rndList (vRound d && f != 0x7) n (s.plot p).rng
  let vs := vecVals s p d lo n
  let o := if isBlockFmt f then quantRow f (tensorScale f (w32 d 0x4C)) rnds vs else convRow f (vSat d) rnds vs
  let s1 := (watchCount p o.ev s).onPlot p fun x => { x with rng := g }
  let s2 := putRow p (w32 d 0x2C) (fmtBits f) lo (vCount d) o.codes s1
  clearTags p (if isBlockFmt f then t0Write p (w32 d 0x48 + lo / fmtBlock f) (o.scales.map (BitVec.ofNat 8)) s2 else s2)

/-- The region of elements lo .. lo + n - 1 of a dense tensor. -/
def elemExt (base w lo n : Nat) : Ext := extFlat (base + lo * w / 8) (cdiv (n * w) 8)

/-- The regions that elements lo .. lo + n - 1 of a VEC touch. -/
def vecExts (d : BitVec 1024) (lo n : Nat) : List Ext :=
  let op := vOp d
  let sc (f base : Nat) := if isBlockFmt f then [extFlat (base + lo / fmtBlock f) (cdiv n (fmtBlock f))] else []
  [elemExt (w32 d 0x20) (fmtBits (vF0 d)) lo n] ++ sc (vF0 d) (w32 d 0x40) ++
    (if vUses1 op then
      [if vPeriod d = 0 then elemExt (w32 d 0x24) (fmtBits (vF1 d)) lo n
        else elemExt (w32 d 0x24) (fmtBits (vF1 d)) 0 (min (vPeriod d) (vCount d))]
    else []) ++
    (if vUses2 op then [elemExt (w32 d 0x28) (fmtBits (vF2 d)) lo n] else []) ++
    [elemExt (w32 d 0x2C) (fmtBits (vFD d)) lo n] ++ sc (vFD d) (w32 d 0x48)

/-- A format code that no operand of VEC may hold. -/
def vecBadFmt (f : Nat) (block pair : Bool) : Bool := f ≥ 0xE || (isBlockFmt f && !block) || (f == 0x7 && !pair)

/-- Steps 6 and 7 for VEC. -/
def checkVec (p : PlotIx) (d : BitVec 1024) (s : State) : Option (Nat × Nat) :=
  let op := vOp d
  let n := vCount d
  let copy := op = 0x00
  let pair0 := op = 0x00 || op = 0x01 || op = 0x02 || op = 0x08
  checkAll
    [ (fld d 0x34 31 26 != 0 || bytesSet d 0x50 0x80 || op > 0x0C, stIllegal),
      (vecBadFmt (vF0 d) copy pair0, stFormat),
      (vUses1 op && vecBadFmt (vF1 d) false false, stFormat),
      (vUses2 op && vecBadFmt (vF2 d) false false, stFormat),
      (vecBadFmt (vFD d) copy true, stFormat),
      (isBlockFmt (vF0 d) && n % fmtBlock (vF0 d) != 0 || isBlockFmt (vFD d) && n % fmtBlock (vFD d) != 0, stFormat),
      (vF0 d = 0xC && !goodScale (w32 d 0x44) || vFD d = 0xC && !goodScale (w32 d 0x4C), stFormat),
      (n = 0 || n > 16777216, stDim),
      (off64 (w32 d 0x20) || vUses1 op && off64 (w32 d 0x24) || vUses2 op && off64 (w32 d 0x28) || off64 (w32 d 0x2C), stAlign) ]
    (extsFault (s.plot p) (vecExts d 0 n))

/-- Cycles of a VEC (R79). -/
def vecCycles (d : BitVec 1024) : Nat :=
  let slow := vOp d = 0x04 && vF0 d ≠ 0x6 && vF1 d ≠ 0x6 && vF2 d ≠ 0x6
  16 + (if slow then 2 else 1) * cdiv (vCount d) 256

/-- VEC: the command leaves its waits and starts. -/
def execVec (p : PlotIx) (s : State) : Out :=
  .next (leaveWaits p .compute (· = 0x03) (fun d => checkVec p d) (fun d => beginRun p .compute d (vCount d) (vecCycles d)) s)

/-! ### The soft maximum (R146) -/

/-- A row record: MAX, SUM, LSE and FLAGS, with the probabilities before their rounding. -/
structure SoftRow where
  probs : List XVal
  max : XVal
  sum : XVal
  lse : XVal
  flags : Nat
deriving DecidableEq, Repr

/-- Σ e_j of present elements against a maximum. -/
def expSum (m : Rat) (vs : List XVal) : List Rat := vs.map fun v =>
  match v with
  | .fin _ _ => EXP40 (rnd40 (xrat v - m))
  | _ => 0

/-- The soft maximum of one row: each element is a value with its mask bit (R146). -/
def softRow (row : List (XVal × Bool)) : SoftRow :=
  let live := (row.filter fun e => !e.2).map (·.1)
  let infs := live.countP (· == .inf false)
  if live.any xisNan then
    { probs := row.map fun _ => .nan, max := .nan, sum := .nan, lse := .nan, flags := 4 }
  else if 0 < infs then
    { probs := row.map fun e => if !e.2 && e.1 == .inf false then xofRat (1 / (infs : Rat)) else xzero,
      max := .inf false, sum := xofRat (infs : Rat), lse := .inf false, flags := 2 }
  else
    let pres (e : XVal × Bool) : Bool := !e.2 && !xisInf e.1
    match (row.filter pres).map (·.1) with
    | [] => { probs := row.map fun _ => xzero, max := .inf true, sum := xzero, lse := .inf true, flags := 1 }
    | v :: vs =>
      let m := vs.foldl xmax v
      let es := row.map fun e => if pres e then EXP40 (rnd40 (xrat e.1 - xrat m)) else 0
      let sum := rnd40 es.sum
      { probs := es.map fun e => xofRat (e / sum), max := m, sum := xofRat sum,
        lse := xadd m (xofRat (LN40 sum)), flags := 0 }

/-! ### STAT -/

/-- SOP of STAT. -/
def sOp (d : BitVec 1024) : Nat := fld d 0x30 19 17
/-- ROWS. -/
def sRows (d : BitVec 1024) : Nat := fld d 0x30 15 0
/-- COLS. -/
def sCols (d : BitVec 1024) : Nat := w32 d 0x34
/-- MASK_EN. -/
def sMask (d : BitVec 1024) : Bool := flag d 0x30 16
/-- S_FMT. -/
def sFmt (d : BitVec 1024) : Nat := fld d 0x30 23 20
/-- D_FMT. -/
def sDFmt (d : BitVec 1024) : Nat := fld d 0x30 27 24

/-- The mask bits of n elements of a mask row. -/
def maskBits (s : State) (p : PlotIx) (base n : Nat) : List Bool :=
  ((t0Read s p base (cdiv n 8)).flatMap fun b => (List.range 8).map b.getLsbD).take n

/-- Row r of a STAT: values with their mask bits. -/
def statRow (s : State) (p : PlotIx) (d : BitVec 1024) (r : Nat) : List (XVal × Bool) :=
  let vs := rowVals s p (sFmt d) (w32 d 0x20 + r * w32 d 0x38) 0 (sCols d)
  if sMask d then vs.zip (maskBits s p (w32 d 0x2C + r * w32 d 0x40) (sCols d)) else vs.map (·, false)

/-- MAX, SUM and SUMSQ of the unmasked elements of a row, exact (R144). -/
def statValue (sop : Nat) (row : List (XVal × Bool)) : XVal :=
  let live := (row.filter fun e => !e.2).map (·.1)
  match sop, live with
  | 0, [] => .inf true
  | 0, v :: vs => vs.foldl xmax v
  | 1, _ => xsum live
  | 2, _ => xsum (live.map fun v => xmul v v)
  | _, _ => (softRow row).lse

/-- The bytes that row r writes, with its events. -/
def statOut (s : State) (p : PlotIx) (d : BitVec 1024) (r : Nat) : List (Nat × List Byte) × Counts :=
  let row := statRow s p d r
  let f32 (v : XVal) := convTo 0x6 false .rne v
  if sOp d < 4 then
    let c := f32 (statValue (sOp d) row)
    ([(w32 d 0x24 + 4 * r, bytesOf 4 c.code)], c.ev)
  else
    let q := softRow row
    let o := convRow (sDFmt d) (flag d 0x30 28) (q.probs.map fun _ => .rne) q.probs
    let rec3 := [f32 q.max, f32 q.sum, f32 q.lse]
    ([rowImage s p (w32 d 0x24 + r * w32 d 0x3C) (fmtBits (sDFmt d)) 0 (sCols d) o.codes,
      (w32 d 0x28 + 16 * r, rec3.flatMap (fun c => bytesOf 4 c.code) ++ bytesOf 4 q.flags)], countsAdd o.ev (evSum rec3))

/-- One unit of STAT: rows lo .. lo + n - 1. -/
def statUnit (p : PlotIx) (d : BitVec 1024) (lo n : Nat) (s : State) : State :=
  (List.range n).foldl (fun s i =>
    let o := statOut s p d (lo + i)
    watchCount p o.2 (putWrites p o.1 s)) s

/-- The regions that rows lo .. lo + n - 1 of a STAT touch. -/
def statExts (d : BitVec 1024) (lo n : Nat) : List Ext :=
  let rows (base ld len : Nat) : Ext := { off := base + lo * ld, rows := n, ld := ld, len := len }
  [rows (w32 d 0x20) (w32 d 0x38) (rowBytes (fmtBits (sFmt d)) (sCols d))] ++
    (if sMask d then [rows (w32 d 0x2C) (w32 d 0x40) (cdiv (sCols d) 8)] else []) ++
    (if sOp d < 4 then [extFlat (w32 d 0x24 + 4 * lo) (4 * n)]
    else [rows (w32 d 0x24) (w32 d 0x3C) (rowBytes (fmtBits (sDFmt d)) (sCols d)), extFlat (w32 d 0x28 + 16 * lo) (16 * n)])

/-- Steps 6 and 7 for STAT (R143). -/
def checkStat (p : PlotIx) (d : BitVec 1024) (s : State) : Option (Nat × Nat) :=
  let op := sOp d
  let f := sFmt d
  let soft := op = 4
  checkAll
    [ (fld d 0x30 31 29 != 0 || bytesSet d 0x44 0x80 || op > 4, stIllegal),
      (!(f ≤ 0x6 || f = 0xD || f = 0x7 && op = 1), stFormat),
      (if soft then !(0x3 ≤ sDFmt d && sDFmt d ≤ 0x6) else sDFmt d ≠ 0x6, stFormat),
      (sRows d = 0 || sCols d = 0 || sCols d > 2097152, stDim),
      (off64 (w32 d 0x20) || off64 (w32 d 0x24) || soft && off64 (w32 d 0x28) || sMask d && off64 (w32 d 0x2C), stAlign),
      (off64 (w32 d 0x38) || soft && off64 (w32 d 0x3C) || sMask d && off64 (w32 d 0x40), stAlign),
      (w32 d 0x38 < rowBytes (fmtBits f) (sCols d) || sMask d && w32 d 0x40 < cdiv (sCols d) 8, stAlign) ]
    (extsFault (s.plot p) (statExts d 0 (sRows d)))

/-- Cycles of a STAT (R79, R143). -/
def statCycles (d : BitVec 1024) : Nat :=
  16 + (if sOp d = 3 then 2 else if sOp d = 4 then 3 else 1) * cdiv (sRows d) 256 * sCols d

/-- STAT: the command leaves its waits and starts. -/
def execStat (p : PlotIx) (s : State) : Out :=
  .next (leaveWaits p .compute (· = 0x04) (fun d => checkStat p d) (fun d => beginRun p .compute d (sRows d) (statCycles d)) s)

end Sys2Proof.Machine
end

