-- ==== Sys2Proof/Machine/Sfu.lean ====
section
/-! DEFINITION. The special function unit: table slots, LOAD and its checks, exact and segment evaluation (R129 to R141,
R148, R149). -/

namespace Sys2Proof.Machine

open Host

/-- SOP of an SFU command: 0 EVAL, 1 LOAD. -/
def uOp (d : BitVec 1024) : Nat := fld d 0x2C 1 0
/-- MODE. -/
def uMode (d : BitVec 1024) : Nat := fld d 0x2C 3 2
/-- SLOT. -/
def uSlot (d : BitVec 1024) : Fin 8 := Fin.ofNat 8 (fld d 0x2C 6 4)
/-- S_FMT. -/
def uSF (d : BitVec 1024) : Nat := fld d 0x2C 10 7
/-- D_FMT. -/
def uDF (d : BitVec 1024) : Nat := fld d 0x2C 14 11
/-- SAT. -/
def uSat (d : BitVec 1024) : Bool := flag d 0x2C 15
/-- COUNT. -/
def uCount (d : BitVec 1024) : Nat := w32 d 0x28

/-- Capacity of a slot in bytes (R130). -/
def slotCap (k : Nat) : Nat := if k = 0 then 131136 else if k = 1 then 65600 else 10240

/-! ### Tables (R132 to R134) -/

/-- A 32-bit word of a table. -/
def tabW (t : List Byte) (off : Nat) : Nat := natOf ((t.drop off).take 4)
/-- KIND. -/
def tabKind (t : List Byte) : Nat := bitsOf (tabW t 0) 23 16
/-- IN_FMT. -/
def tabIn (t : List Byte) : Nat := bitsOf (tabW t 0) 27 24
/-- OUT_FMT. -/
def tabOut (t : List Byte) : Nat := bitsOf (tabW t 0) 31 28
/-- FUNC_ID. -/
def tabFunc (t : List Byte) : Nat := tabW t 4
/-- BODY_LEN. -/
def tabBodyLen (t : List Byte) : Nat := tabW t 8
/-- NSEG. -/
def tabNseg (t : List Byte) : Nat := bitsOf (tabW t 0x10) 8 0
/-- RED. -/
def tabRed (t : List Byte) : Nat := bitsOf (tabW t 0x10) 10 9
/-- RED_K. -/
def tabRedK (t : List Byte) : Nat := bitsOf (tabW t 0x10) 12 11
/-- LO_MODE. -/
def tabLo (t : List Byte) : Nat := bitsOf (tabW t 0x10) 14 13
/-- HI_MODE. -/
def tabHi (t : List Byte) : Nat := bitsOf (tabW t 0x10) 16 15
/-- ZERO_CONST. -/
def tabZero (t : List Byte) : Bool := bitsOf (tabW t 0x10) 17 17 == 1
/-- An FP32 word of a table as a value. -/
def tabF (t : List Byte) (off : Nat) : XVal := decFloat fmtFP32 (tabW t off)
/-- Word w of segment i: 0 b, 1 c, 2 a0_hi, 3 a0_lo, 4 a1, 5 a2, 6 a3. -/
def segF (t : List Byte) (i w : Nat) : XVal := tabF t (64 + 32 * i + 4 * w)

/-- A finite value. -/
def xfinite : XVal → Bool
  | .fin _ _ => true
  | _ => false

/-- The content checks of an exact table. -/
def exactOk (t : List Byte) : Bool :=
  let i := tabIn t
  let o := tabOut t
  3 ≤ i && i ≤ 5 && 3 ≤ o && o ≤ 5 && tabBodyLen t == 2 ^ fmtBits i * (fmtBits o / 8) &&
    ((t.drop 0x10).take 0x30).all (· == 0)

/-- The content checks of a segment table. -/
def segmentOk (t : List Byte) : Bool :=
  let n := tabNseg t
  let red := tabRed t
  let bend := tabF t 0x14
  let ascending := (List.range (n - 1)).all fun i => xlt (segF t i 0) (segF t (i + 1) 0)
  tabIn t == 0 && tabOut t == 0 && 1 ≤ n && n ≤ 256 && tabBodyLen t == 32 * n &&
    bitsOf (tabW t 0x10) 31 18 == 0 && tabW t 0x3C == 0 && tabRedK t != 3 && tabLo t != 3 && tabHi t != 3 &&
    ((List.range n).all fun i => (List.range 7).all (fun w => xfinite (segF t i w)) && tabW t (64 + 32 * i + 28) == 0) &&
    ascending && xlt (segF t (n - 1) 0) bend && (xfinite bend || (red == 0 || red == 3)) &&
    xfinite (tabF t 0x30) && xfinite (tabF t 0x34) && xfinite (tabF t 0x38) &&
    (!(red == 1 || red == 2) ||
      (segF t 0 0 == .fin false 1 && bend == .fin false (if red == 1 && tabRedK t != 0 then 4 else 2)))

/-- Every check of R134 on a table loaded into a slot. -/
def tableOk (slot : Nat) (func : Nat) (t : List Byte) : Bool :=
  64 ≤ t.length && bitsOf (tabW t 0) 15 0 == 0x5E1F && t.length == 64 + tabBodyLen t && t.length ≤ slotCap slot &&
    tabFunc t == func && crc32c (t.drop 64) == tabW t 0x0C &&
    (if tabKind t == 1 then exactOk t else tabKind t == 2 && segmentOk t)

/-- The slot that holds a validated table. -/
def slotOf (t : List Byte) : SfuSlot :=
  { valid := true, kind := BitVec.ofNat 2 (tabKind t), inFmt := BitVec.ofNat 4 (tabIn t), outFmt := BitVec.ofNat 4 (tabOut t),
    nseg := BitVec.ofNat 9 (if tabKind t = 2 then tabNseg t else 0), func := BitVec.ofNat 32 (tabFunc t), table := t }

/-- Change one slot of a plot. -/
def setSlot (p : PlotIx) (k : Fin 8) (x : SfuSlot) (s : State) : State :=
  s.onPlot p fun y => { y with sfu := y.sfu.set k.val x k.isLt }

/-- Every slot of a plot invalid (R131). -/
def slotsInvalid (x : Plot) : Plot := { x with sfu := Vector.replicate 8 SfuSlot.reset }

/-- The Almanac loads the default set of the plot's partition into the slots that are invalid (R131). A set entry names
the partitions it belongs to, its slot and its table. -/
def reloadDefaults (p : PlotIx) (s : State) : State :=
  match plotPart (s.plot p) with
  | none => s
  | some q =>
    s.dev.sfuSets.foldl (fun s e =>
      let k := e.2.1.toFin
      if e.1.getLsbD q.val && !((s.plot p).sfu[k]).valid && tableOk k.val (tabFunc e.2.2) e.2.2 then
        setSlot p k (slotOf e.2.2) s
      else s) s

/-! ### Evaluation (R135, R136) -/

/-- The integer nearest to a rational, ties to even. -/
def nearInt (q : Rat) : Int := if q < 0 then -(roundNat (-q) .rne : Int) else (roundNat q .rne : Int)

/-- The largest segment whose breakpoint is at most u, none below the first. -/
def segIndex (t : List Byte) (u : Rat) : Option Nat :=
  ((List.range (tabNseg t)).filter fun i => xrat (segF t i 0) ≤ u).getLast?

/-- The polynomial of segment i at u. -/
def segPoly (t : List Byte) (i : Nat) (u add : Rat) : Rat :=
  let a (w : Nat) := xrat (segF t i w)
  let x := rnd40 (u - a 1)
  let p3 := a 6
  let p2 := rnd40 (p3 * x + a 5)
  let p1 := rnd40 (p2 * x + a 4)
  rnd40 (p1 * x + a 2 + a 3 + add)

/-- The search and the polynomial for a reduced argument, for an input x. -/
def segEval (t : List Byte) (x : XVal) (u : Rat) (scale : Int) (add : Rat) : XVal :=
  let poly (i : Nat) := xofRat (segPoly t i u add * pow2 scale)
  let high (i : Nat) : XVal :=
    if xlt (xofRat u) (tabF t 0x14) then poly i
    else if tabHi t = 0 then tabF t 0x1C
    else if tabHi t = 1 then x
    else poly (tabNseg t - 1)
  match segIndex t u with
  | some i => high i
  | none => if tabLo t = 0 then tabF t 0x18 else if tabLo t = 1 then x else high 0

/-- f and e of x = f x 2^e for a positive x. -/
def splitExp (m : Rat) : Rat × Int := (m / pow2 (ilog2 m), ilog2 m)

/-- The result for a positive input under power reduction. -/
def segPower (t : List Byte) (m : Rat) : XVal :=
  let (f0, e0) := splitExp m
  let odd := tabRedK t ≠ 0 && e0 % 2 ≠ 0
  let f := if odd then 2 * f0 else f0
  let e := if odd then e0 - 1 else e0
  let scale : Int := if tabRedK t = 0 then -e else if tabRedK t = 1 then -(e / 2) else e / 2
  segEval t (xofRat m) f scale 0

/-- The exact argument of conv for an input that is neither NaN nor infinite (R136). -/
def segFinite (t : List Byte) (neg : Bool) (m : Rat) : XVal :=
  let x : XVal := .fin neg m
  if m = 0 && tabZero t then tabF t (if neg then 0x2C else 0x28)
  else match tabRed t with
    | 0 => segEval t x (xrat x) 0 0
    | 1 =>
      if m = 0 then tabF t 0x18
      else if neg then (if tabRedK t = 0 then xneg (segPower t m) else tabF t 0x18)
      else segPower t m
    | 2 =>
      if m = 0 || neg then tabF t 0x18
      else
        let (f, e) := splitExp m
        segEval t x f 0 ((e : Rat) * (xrat (tabF t 0x30) + xrat (tabF t 0x34)))
    | _ =>
      let v := xrat x
      let n := nearInt (v * xrat (tabF t 0x38))
      segEval t x (rnd40 (v - (n : Rat) * xrat (tabF t 0x30) - (n : Rat) * xrat (tabF t 0x34))) n 0

/-- Segment mode before conv. -/
def segValue (t : List Byte) : XVal → XVal
  | .nan => .nan
  | .inf neg => tabF t (if neg then 0x24 else 0x20)
  | .fin neg m => segFinite t neg m

/-- The canonical NaN code of a floating-point format. -/
def nanCode (fmt : Nat) : Nat := ((floatOf fmt).map encNan).getD 0

/-- Exact mode: the entry of the input code, NaN canonical (R135). -/
def exactEval (t : List Byte) (sf df c : Nat) : Conv :=
  let w := fmtBits df / 8
  let e := natOf ((t.drop (64 + c * w)).take w)
  let v := decElem df e
  if xisNan (decElem sf c) || xisNan v then mkConv (nanCode df) false false true
  else mkConv e false false (xisInf v)

/-- The effective mode of an EVAL: 1 exact, 2 segment (R138). -/
def evalMode (x : Plot) (d : BitVec 1024) : Nat :=
  let m := uMode d
  if m = 1 || m = 2 then m
  else if x.sfuDefault.toNat = 1 && !(3 ≤ uSF d && uSF d ≤ 5) then 2
  else x.sfuDefault.toNat

/-- One unit of EVAL: elements lo .. lo + n - 1. Elements written over the source in any way but in place are undefined:
free values (R140). -/
def evalUnit (p : PlotIx) (d : BitVec 1024) (lo n : Nat) (s : State) : State :=
  let x := s.plot p
  let t := (x.sfu[uSlot d]).table
  let cs := rowCodes s p (w32 d 0x20) (fmtBits (uSF d)) lo n
  let os := if evalMode x d = 1 then cs.map (exactEval t (uSF d) (uDF d))
    else cs.map fun c => convTo (uDF d) (uSat d) .rne (segValue t (decElem (uSF d) c))
  let bs := os.flatMap fun o => bytesOf (fmtBits (uDF d) / 8) o.code
  let src := w32 d 0x20
  let dst := w32 d 0x24
  let srcEnd := src + cdiv (uCount d * fmtBits (uSF d)) 8
  let w := fmtBits (uDF d) / 8
  let inPlace := src = dst && fmtBits (uSF d) = fmtBits (uDF d)
  let base := dst + lo * w
  let hit (i : Nat) : Bool := !inPlace && base + i / w * w < srcEnd && src < base + i / w * w + w
  let out := (bs.zip (List.range bs.length)).map fun b => if hit b.2 then Config.freeByte (s.fresh + b.2) else b.1
  let s1 := watchCount p (evSum os) { s with fresh := if inPlace then s.fresh else s.fresh + bs.length }
  clearTags p (t0Write p base out s1)

/-- The regions that elements lo .. lo + n - 1 of an EVAL touch. -/
def evalExts (d : BitVec 1024) (lo n : Nat) : List Ext :=
  [elemExt (w32 d 0x20) (fmtBits (uSF d)) lo n, elemExt (w32 d 0x24) (fmtBits (uDF d)) lo n]

/-- Steps 6 and 7 for EVAL (R138, R140). -/
def checkEval (p : PlotIx) (d : BitVec 1024) (s : State) : Option (Nat × Nat) :=
  let x := s.plot p
  let m := uMode d
  let k := x.sfu[uSlot d]
  let mode := evalMode x d
  let sf := uSF d
  let df := uDF d
  checkAll
    [ (fld d 0x2C 31 16 != 0 || bytesSet d 0x34 0x80, stIllegal),
      (m = 3 || m ≠ 0 && !x.sfuOverride && m ≠ x.sfuDefault.toNat, stIllegal),
      (!k.valid || k.kind.toNat ≠ mode || k.func.toNat ≠ w32 d 0x30, stFormat),
      (mode = 1 && (!(3 ≤ sf && sf ≤ 5) || sf ≠ k.inFmt.toNat || df ≠ k.outFmt.toNat), stFormat),
      (mode ≠ 1 && (!(sf ≤ 0x6 || sf = 0xD) || !(3 ≤ df && df ≤ 6)), stFormat),
      (uCount d = 0 || uCount d > 16777216, stDim),
      (off64 (w32 d 0x20) || off64 (w32 d 0x24), stAlign) ]
    (extsFault x (evalExts d 0 (uCount d)))

/-- Cycles of an EVAL (R79). -/
def evalCycles (x : Plot) (d : BitVec 1024) : Nat := 24 + cdiv (uCount d) (if evalMode x d = 1 then 64 else 128)

/-! ### Table memory errors (R130, R149) -/

/-- Errors met in the slot that a command reads; true when one is uncorrectable, and the slot is then invalid. -/
def applyTableErrs (p : PlotIx) (k : Fin 8) (e : TableErrs) (s : State) : State × Bool :=
  let s1 := s.onPlot p fun x => { x with err := { x.err with sfuCe := satAdd x.err.sfuCe e.ce } }
  if e.ue then
    (setSlot p k SfuSlot.reset (s1.onPlot p fun x => { x with err := { x.err with sfuUe := satAdd x.err.sfuUe 1 } }), true)
  else (s1, false)

/-! ### LOAD -/

/-- Steps 6 and 7 for LOAD (R139, R140). -/
def checkLoad (p : PlotIx) (d : BitVec 1024) (s : State) : Option (Nat × Nat) :=
  checkAll
    [ (fld d 0x2C 31 16 != 0 || bytesSet d 0x34 0x80, stIllegal),
      (uCount d = 0 || uCount d > 131136, stDim),
      (off64 (w32 d 0x20), stAlign) ]
    (extsFault (s.plot p) [extFlat (w32 d 0x20) (uCount d)])

/-- Step 8 of LOAD: the slot becomes invalid, the table is read, and it is valid again only when every check of R134
passes. -/
def startLoad (p : PlotIx) (errs : ReadErrs) (d : BitVec 1024) (s : State) : State :=
  let k := uSlot d
  let s1 := setSlot p k SfuSlot.reset (beginRun p .compute d 0 (32 + cdiv (uCount d) 64) s)
  match applyErrs p errs s1, (s1.plot p).compute.run with
  | (s2, some o), some r => endRun p .compute r stSpUncorr o s2
  | (s2, none), some r =>
    let t := t0Read s2 p (w32 d 0x20) (uCount d)
    if tableOk k.val (w32 d 0x30) t then setSlot p k (slotOf t) s2 else endRun p .compute r stFormat 0 s2
  | (s2, _), none => s2

/-- An SFU command whose SOP is not EVAL or LOAD fails at step 6. -/
def badSop (d : BitVec 1024) : Bool := uOp d ≥ 2

/-- The head of the compute lane is an SFU command with the SOP given. -/
def headSop (s : State) (p : PlotIx) (ok : Nat → Bool) : Bool :=
  match (s.plot p).compute.queue with
  | d :: _ => hOp d == 0x05 && ok (uOp d)
  | [] => false

/-- SFU_EVAL: an EVAL, or a command with SOP 2 or 3, leaves its waits. The default set has been loaded again before it
(R131). -/
def execSfuEval (p : PlotIx) (s : State) : Out :=
  .next (if headSop s p (· ≠ 1) then
    leaveWaits p .compute (· = 0x05)
      (fun d s => if badSop d then some (stIllegal, 0) else checkEval p d s)
      (fun d s => beginRun p .compute d (uCount d) (evalCycles (s.plot p) d) s) (if canStart s p .compute then reloadDefaults p s else s)
  else s)

/-- SFU_LOAD: a LOAD leaves its waits, copies its table and validates it. -/
def execSfuLoad (p : PlotIx) (errs : ReadErrs) (s : State) : Out :=
  .next (if headSop s p (· = 1) then
    leaveWaits p .compute (· = 0x05) (fun d => checkLoad p d) (startLoad p errs)
      (if canStart s p .compute then reloadDefaults p s else s)
  else s)

end Sys2Proof.Machine
end

