-- ==== Sys2Proof/Machine/Rand.lean ====
section
/-! DEFINITION. The counter-based generator, RAND and ROT (R106 to R109, R196 to R206). -/

namespace Sys2Proof.Machine

open Host

/-! ### The counter-based generator (R196) -/

/-- Round constants C0 to C3. -/
def roundConst (r : Nat) : Word :=
  if r = 0 then 0x9E3779B9 else if r = 1 then 0x3C6EF372 else if r = 2 then 0xDAA66D2B else 0x78DDE6E4

/-- Word i of a 128-bit key. -/
def keyWord (key i : Nat) : Word := BitVec.ofNat 32 (key / 2 ^ (32 * i))

/-- The four words in flight of G. -/
structure Quad where
  a : Word
  b : Word
  c : Word
  d : Word
deriving DecidableEq, Repr

/-- One round of G. -/
def gRoundStep (key r : Nat) (x : Quad) : Quad :=
  let a1 := x.a + keyWord key r + roundConst r
  let b1 := x.b ^^^ a1.rotateLeft 7
  let c1 := x.c + b1
  let d1 := x.d ^^^ c1.rotateLeft 13
  { a := b1, b := c1, c := d1, d := a1 + d1 }

/-- G(key, x) as a list of four output words. -/
def genG (key : Nat) (x0 x1 x2 x3 : Word) : List Nat :=
  let y := (List.range 4).foldl (fun y r => gRoundStep key r y) { a := x0, b := x1, c := x2, d := x3 }
  [(y.a + keyWord key 0).toNat, (y.b + keyWord key 1).toNat, (y.c + keyWord key 2).toNat, (y.d + keyWord key 3).toNat]

/-- Output bit b of G. -/
def genBit (ws : List Nat) (b : Nat) : Bool := (ws.getD (b / 32) 0).testBit (b % 32)

/-! ### RAND -/

/-- DIST. -/
def rDist (d : BitVec 1024) : Nat := fld d 0x30 2 0
/-- CLASS. -/
def rClass (d : BitVec 1024) : Nat := fld d 0x30 4 3
/-- FAST. -/
def rFast (d : BitVec 1024) : Bool := flag d 0x30 5
/-- D_FMT. -/
def rDF (d : BitVec 1024) : Nat := fld d 0x30 9 6
/-- S_FMT. -/
def rSF (d : BitVec 1024) : Nat := fld d 0x30 13 10
/-- MASK_EN. -/
def rMask (d : BitVec 1024) : Bool := flag d 0x30 14
/-- ROWS. -/
def rRows (d : BitVec 1024) : Nat := fld d 0x34 15 0
/-- COUNT, or the columns of SAMPLE. -/
def rCount (d : BitVec 1024) : Nat := w32 d 0x2C
/-- PARAM. -/
def rParam (d : BitVec 1024) : Nat := w32 d 0x38
/-- INDEX_BASE. -/
def rBase (d : BitVec 1024) : Nat := fld d 0x44 63 0
/-- STREAM. -/
def rStream (d : BitVec 1024) : Nat := w32 d 0x4C
/-- KEY. -/
def rKey (d : BitVec 1024) : Nat := fld d 0x50 127 0

/-- Units of a RAND in elements, or rows of SAMPLE. -/
def rTotal (d : BitVec 1024) : Nat := if rDist d = 4 then rRows d else rCount d

/-- Block q of RAND (R197). -/
def randBlock (d : BitVec 1024) (q : Nat) : List Nat :=
  genG (rKey d) (BitVec.ofNat 32 q) (BitVec.ofNat 32 (q / 2 ^ 32)) (BitVec.ofNat 32 (rStream d)) (BitVec.ofNat 32 (0x100 + rDist d))

/-- The bits of the element or row at offset i of a command, from the counter-based generator (R197). -/
def randIndexed (d : BitVec 1024) (i : Nat) : List Nat :=
  let n := (rBase d + i) % 2 ^ 64
  if rDist d = 4 then [(randBlock d n).getD 0 0]
  else if rDist d = 2 then [(randBlock d (n / 2)).getD (2 * (n % 2)) 0, (randBlock d (n / 2)).getD (2 * (n % 2) + 1) 0]
  else if rFast d then [(randBlock d (n / 16)).getD (n % 16 / 4) 0 / 2 ^ (8 * (n % 4)) % 256]
  else [(randBlock d (n / 4)).getD (n % 4) 0]

/-- The bits of the n elements or rows of one unit from the stateful generator (R199). -/
def randStateful (d : BitVec 1024) (n : Nat) (g : Rng) : List (List Nat) × Rng :=
  if rDist d = 2 then
    let (ws, g1) := rngOuts (2 * n) g
    (chunksOf 2 ws, g1)
  else if rFast d && rDist d = 3 then
    let (ws, g1) := rngOuts (cdiv n 4) g
    (((ws.flatMap fun w => [w % 256, w / 2 ^ 8 % 256, w / 2 ^ 16 % 256, w / 2 ^ 24]).take n).map ([·]), g1)
  else
    let (ws, g1) := rngOuts n g
    (ws.map ([·]), g1)

/-- u of R203. -/
def uniOf (w : Nat) : Rat := ((2 * (w / 512) + 1 : Nat) : Rat) / 16777216

/-- Bounds of |√(-2 ln u1) cos(2π u2)| and its sign, for u1 and u2 in units of 2^-24. -/
def normalBounds (u1 u2 : Nat) : Bool × Rat × Rat :=
  let f := if 2 ^ 23 < u2 then 2 ^ 24 - u2 else u2
  let neg := 2 ^ 22 < f
  let a := if neg then 2 ^ 23 - f else f
  let lnv := fxLn (16777216 / (u1 : Rat))
  let c := (fxCos (2 * fxPi * a / 2 ^ 24)).toNat
  let lo := fxMul (Nat.sqrt (2 * (lnv - fxMargin) * fxOne)) (c - fxMargin)
  let hi := fxMul (Nat.sqrt (2 * (lnv + fxMargin) * fxOne) + 1) (c + fxMargin) + 1
  (neg, fxRat lo, fxRat hi)

/-- The code of a normal draw: rounded once from the exact value (R203). Where the enclosure straddles a rounding
boundary, an implementation choice between the two neighbours. -/
def normalCode (fmt u1 u2 : Nat) : Nat :=
  let (neg, lo, hi) := normalBounds u1 u2
  let a := (convTo fmt true .rne (.fin neg lo)).code
  let b := (convTo fmt true .rne (.fin neg hi)).code
  if a = b then a else if Config.normalUp u1 u2 then b else a

/-- One element of a distribution other than SAMPLE, from its bits (R203). -/
def randElem (d : BitVec 1024) (ws : List Nat) : Nat :=
  let w := ws.headD 0
  let u (x : Nat) := 2 * (x / 512) + 1
  match rDist d with
  | 0 => w % 2 ^ fmtBits (rDF d)
  | 1 => (convTo (rDF d) true .rtz (xofRat (uniOf w))).code
  | 2 => normalCode (rDF d) (u w) (u (ws.getD 1 0))
  | _ => if rFast d then w * rParam d / 2 ^ 8 else w * rParam d / 2 ^ 32

/-- The smallest present position whose cumulative sum exceeds the target, else the last present one (R204). -/
def pickCum (target : Rat) : List (Rat × Nat) → Rat → Nat → Nat
  | [], _, last => last
  | (e, j) :: t, acc, _ => if target < acc + e then j else pickCum target t (acc + e) j

/-- The index that SAMPLE writes for one row of scaled scores with their mask bits, as an INT32 code. -/
def sampleRow (row : List (XVal × Bool)) (u : Rat) : Nat :=
  let ix := row.zip (List.range row.length)
  let live := ix.filter fun e => !e.1.2
  let infs := live.filter fun e => e.1.1 == .inf false
  if live.any fun e => xisNan e.1.1 then unsigned 32 (-2)
  else if infs ≠ [] then (infs.map (·.2)).getD (u * (infs.length : Rat)).floor.toNat 0
  else
    match live.filter fun e => !xisInf e.1.1 with
    | [] => unsigned 32 (-1)
    | v :: vs =>
      let m := xrat (vs.foldl (fun m e => xmax m e.1.1) v.1.1)
      let es := (v :: vs).map fun e => (EXP40 (rnd40 (xrat e.1.1 - m)), e.2)
      pickCum (u * rnd40 (es.map (·.1)).sum) es 0 v.2

/-- Row r of a SAMPLE: scaled scores with mask bits. -/
def sampleScores (s : State) (p : PlotIx) (d : BitVec 1024) (r : Nat) : List (XVal × Bool) :=
  let inv := fp32Rat (rParam d)
  let vs := (rowVals s p (rSF d) (w32 d 0x24 + r * w32 d 0x3C) 0 (rCount d)).map fun v => rne32 (xscale inv v)
  if rMask d then vs.zip (maskBits s p (w32 d 0x28 + r * w32 d 0x40) (rCount d)) else vs.map (·, false)

/-- Whether a RAND draws from the stateful generator (R201). -/
def randIsStateful (x : Plot) (d : BitVec 1024) : Bool := x.rngClass.getLsbD (rClass d)

/-- One unit of RAND. -/
def randUnit (p : PlotIx) (d : BitVec 1024) (lo n : Nat) (s : State) : State :=
  let x := s.plot p
  let (bits, g) := if randIsStateful x d then randStateful d n x.rng else ((List.range n).map fun i => randIndexed d (lo + i), x.rng)
  let codes :=
    if rDist d = 4 then (bits.zip (List.range n)).map fun b => sampleRow (sampleScores s p d (lo + b.2)) (uniOf (b.1.headD 0))
    else bits.map (randElem d)
  clearTags p (putRow p (w32 d 0x20) (fmtBits (rDF d)) lo (rTotal d) codes (s.onPlot p fun x => { x with rng := g }))

/-- The regions that units lo .. lo + n - 1 of a RAND touch. -/
def randExts (d : BitVec 1024) (lo n : Nat) : List Ext :=
  elemExt (w32 d 0x20) (fmtBits (rDF d)) lo n ::
    (if rDist d = 4 then
      { off := w32 d 0x24 + lo * w32 d 0x3C, rows := n, ld := w32 d 0x3C, len := rowBytes (fmtBits (rSF d)) (rCount d) } ::
        (if rMask d then [{ off := w32 d 0x28 + lo * w32 d 0x40, rows := n, ld := w32 d 0x40, len := cdiv (rCount d) 8 }] else [])
    else [])

/-- Whether D_FMT is in the list of R203 for the distribution. -/
def randFmtOk (d : BitVec 1024) : Bool :=
  let f := rDF d
  match rDist d with
  | 0 => f == 0x0 || f == 0x1 || f == 0xD
  | 1 => 3 ≤ f && f ≤ 6
  | 2 => 3 ≤ f && f ≤ 6
  | 3 => if rFast d then f == 0x0 else f == 0x1 || f == 0xD
  | _ => f == 0xD && (rSF d ≤ 0x6 || rSF d == 0xD)

/-- The largest n of UINT (R203). -/
def uintMax (d : BitVec 1024) : Nat := if rFast d then 8 else if rDF d = 0x1 then 128 else 2 ^ 31

/-- Steps 6 and 7 for RAND (R205). -/
def checkRand (p : PlotIx) (d : BitVec 1024) (s : State) : Option (Nat × Nat) :=
  let sample := rDist d = 4
  checkAll
    [ (fld d 0x30 31 15 != 0 || fld d 0x34 31 16 != 0 || bytesSet d 0x60 0x80 || rDist d > 4, stIllegal),
      (!randFmtOk d, stFormat),
      (sample && !goodScale (rParam d), stFormat),
      (rCount d = 0 || rCount d > (if sample then 2097152 else 16777216) || sample && rRows d = 0, stDim),
      (rDist d = 3 && (rParam d = 0 || rParam d > uintMax d), stDim),
      (rFast d && rDist d ≠ 3, stDim),
      (off64 (w32 d 0x20) || sample && (off64 (w32 d 0x24) || rMask d && off64 (w32 d 0x28)), stAlign),
      (sample && (off64 (w32 d 0x3C) || rMask d && off64 (w32 d 0x40)), stAlign),
      (sample && (w32 d 0x3C < rowBytes (fmtBits (rSF d)) (rCount d) || rMask d && w32 d 0x40 < cdiv (rCount d) 8), stAlign) ]
    (extsFault (s.plot p) (randExts d 0 (rTotal d)))

/-- Cycles of a RAND (R206). -/
def randCycles (d : BitVec 1024) : Nat :=
  if rDist d = 4 then 16 + 3 * cdiv (rRows d) 256 * rCount d
  else 16 + cdiv (rCount d) (if rDist d = 2 then 32 else if rFast d then 256 else 64)

/-- RAND: the command leaves its waits and starts. -/
def execRand (p : PlotIx) (s : State) : Out :=
  .next (leaveWaits p .compute (· = 0x07) (fun d => checkRand p d) (fun d => beginRun p .compute d (rTotal d) (randCycles d)) s)

/-! ### ROT -/

/-- LOG2_L. -/
def tLog (d : BitVec 1024) : Nat := fld d 0x28 19 16
/-- ROWS. -/
def tRows (d : BitVec 1024) : Nat := fld d 0x28 15 0
/-- DIR: inverse. -/
def tInv (d : BitVec 1024) : Bool := flag d 0x28 20
/-- S_FMT. -/
def tSF (d : BitVec 1024) : Nat := fld d 0x28 26 23
/-- D_FMT. -/
def tDF (d : BitVec 1024) : Nat := fld d 0x28 30 27
/-- ROW_LEN. -/
def tLen (d : BitVec 1024) : Nat := w32 d 0x2C

/-- The sign of global index k (R107): true for -1. -/
def rotSign (key site k : Nat) : Bool :=
  genBit (genG key (BitVec.ofNat 32 (k / 128)) (BitVec.ofNat 32 site) 0 0) (k % 128)

/-- Whether popcount(i AND j) is odd. -/
def oddAnd (i j : Nat) : Bool := ((List.range 12).countP fun b => (i &&& j).testBit b) % 2 == 1

/-- m / √2, nearer to the exact value than any rounding boundary of the formats lies (within 2^-600). -/
def halfRoot (m : Rat) : Rat :=
  if m = 0 then 0 else ((2 * Nat.sqrt (m * m / 2 * ((4 ^ 600 : Nat) : Rat)).floor.toNat + 1 : Nat) : Rat) / ((2 ^ 601 : Nat) : Rat)

/-- A sum times g_L. -/
def rotScale (log : Nat) : XVal → XVal
  | .fin n m => .fin n ((if log % 2 = 0 then m else halfRoot m) / ((2 ^ (log / 2) : Nat) : Rat))
  | x => x

/-- One block of a rotation, `k0` the global index of its first element (R106). -/
def rotBlock (log key site k0 : Nat) (inv : Bool) (vs : List XVal) : List XVal :=
  let n := vs.length
  let ix := List.range n
  let sg := ix.map fun j => rotSign key site (k0 + j)
  let ins := if inv then vs else (vs.zip sg).map fun v => if v.2 then xneg v.1 else v.1
  let sums := ix.map fun i => rotScale log (xsum ((ins.zip ix).map fun v => if oddAnd i v.2 then xneg v.1 else v.1))
  if inv then (sums.zip sg).map fun v => if v.2 then xneg v.1 else v.1 else sums

/-- The exact results of row r. -/
def rotRow (s : State) (p : PlotIx) (d : BitVec 1024) (r : Nat) : List XVal :=
  let l := 2 ^ tLog d
  let bs := chunksOf l (rowVals s p (tSF d) (w32 d 0x20 + r * w32 d 0x30) 0 (tLen d))
  (bs.zip (List.range bs.length)).flatMap fun b =>
    rotBlock (tLog d) (fld d 0x40 127 0) (w32 d 0x3C) (w32 d 0x38 + l * b.2) (tInv d) b.1

/-- Convert and write row r with its roundings. -/
def rotPut (p : PlotIx) (d : BitVec 1024) (r : Nat) (rnds : List Rnd) (s : State) : State :=
  let f := tDF d
  let vs := rotRow s p d r
  let o := if isBlockFmt f then quantRow f (tensorScale f (w32 d 0x54)) rnds (vs.map rne32)
    else convRow f (flag d 0x28 22) rnds vs
  let s1 := watchCount p o.ev (putRow p (w32 d 0x24 + r * w32 d 0x34) (fmtBits f) 0 (tLen d) o.codes s)
  if isBlockFmt f then
    t0Write p (w32 d 0x50 + r * (tLen d / fmtBlock f)) (o.scales.map (BitVec.ofNat 8)) s1
  else s1

/-- Step 8 of ROT: every row in order; it has no stop points. Its draws run on from row to row (R199). -/
def startRot (p : PlotIx) (errs : ReadErrs) (d : BitVec 1024) (s : State) : State :=
  let s1 := beginRun p .compute d 0 (32 + cdiv (tRows d * tLen d) 256 * cdiv (tLog d) 6) s
  match applyErrs p errs s1, (s1.plot p).compute.run with
  | (s2, some o), some r => endRun p .compute r stSpUncorr o s2
  | (s2, none), some _ =>
    let (rnds, g) := rndList (flag d 0x28 21) (tRows d * tLen d) (s2.plot p).rng
    let s3 := s2.onPlot p fun x => { x with rng := g }
    clearTags p ((List.range (tRows d)).foldl (fun s r => rotPut p d r ((rnds.drop (r * tLen d)).take (tLen d)) s) s3)
  | (s2, _), none => s2

/-- The regions of a ROT. -/
def rotExts (d : BitVec 1024) : List Ext :=
  let f := tDF d
  [{ off := w32 d 0x20, rows := tRows d, ld := w32 d 0x30, len := rowBytes (fmtBits (tSF d)) (tLen d) },
    { off := w32 d 0x24, rows := tRows d, ld := w32 d 0x34, len := rowBytes (fmtBits f) (tLen d) }] ++
    (if isBlockFmt f then [extFlat (w32 d 0x50) (tRows d * (tLen d / fmtBlock f))] else [])

/-- Steps 6 and 7 for ROT (R109). -/
def checkRot (p : PlotIx) (d : BitVec 1024) (s : State) : Option (Nat × Nat) :=
  let f := tDF d
  let l := 2 ^ tLog d
  checkAll
    [ (flag d 0x28 31 || bytesSet d 0x58 0x80, stIllegal),
      (!(3 ≤ tSF d && tSF d ≤ 6) || !(2 ≤ f && f ≤ 6 || 9 ≤ f && f ≤ 0xC), stFormat),
      (f = 0xC && !goodScale (w32 d 0x54), stFormat),
      (tLog d < 6 || tLog d > 12 || tLen d % l != 0 || w32 d 0x38 % l != 0, stDim),
      (tRows d = 0 || tLen d = 0 || tLen d > 2097152, stDim),
      (off64 (w32 d 0x20) || off64 (w32 d 0x24) || off64 (w32 d 0x30) || off64 (w32 d 0x34), stAlign),
      (w32 d 0x30 < rowBytes (fmtBits (tSF d)) (tLen d) || w32 d 0x34 < rowBytes (fmtBits f) (tLen d), stAlign) ]
    (extsFault (s.plot p) (rotExts d))

/-- ROT: the command leaves its waits and rotates. -/
def execRot (p : PlotIx) (errs : ReadErrs) (s : State) : Out :=
  .next (leaveWaits p .compute (· = 0x06) (fun d => checkRot p d) (startRot p errs) s)

end Sys2Proof.Machine
end

