-- ==== Sys2Proof/Machine/Attn.lean ====
section
/-! DEFINITION. ATTN: its body and checks, sparse patterns, the descriptors a command needs, the arithmetic of one key
tile in the three modes, and the result (R150 to R160, R162, R163, R169 to R171). -/

namespace Sys2Proof.Machine

open Host

/-! ### Fields (R151) -/

/-- Head dimension d. -/
def aDim (d : BitVec 1024) : Nat := 64 * 2 ^ fld d 0x34 9 8
/-- AMODE. -/
def aMode (d : BitVec 1024) : Nat := fld d 0x34 11 10
/-- Q_FMT. -/
def aQF (d : BitVec 1024) : Nat := fld d 0x34 15 12
/-- KV_FMT. -/
def aKF (d : BitVec 1024) : Nat := fld d 0x34 19 16
/-- O_FMT. -/
def aOF (d : BitVec 1024) : Nat := fld d 0x34 23 20
/-- DESC_SRC: a static list. -/
def aStatic (d : BitVec 1024) : Bool := flag d 0x34 24
/-- QGLOBAL. -/
def aQGlob (d : BitVec 1024) : Bool := flag d 0x34 25
/-- MISS_MODE. -/
def aMiss (d : BitVec 1024) : Bool := flag d 0x34 26
/-- RESUME_RUN. -/
def aResume (d : BitVec 1024) : Bool := flag d 0x34 27
/-- HEAD_SEL, for d = 64 only. -/
def aHead (d : BitVec 1024) : Nat := if aDim d = 64 then fld d 0x34 28 28 else 0
/-- RING_PAGES. -/
def aRing (d : BitVec 1024) : Nat := fld d 0x34 7 0
/-- TABLE. -/
def aTable (d : BitVec 1024) : Nat := fld d 0x50 63 0
/-- The scratchpad offset of the static list. -/
def aList (d : BitVec 1024) : Nat := fld d 0x50 23 0
/-- NDESC. -/
def aNdesc (d : BitVec 1024) : Nat := w32 d 0x58
/-- Slices of the command's head (R160). -/
def aSlices (d : BitVec 1024) : Nat := if aDim d = 256 then 2 else 1

/-! ### Patterns (R157, R158) -/

/-- One axis of a pattern: grid and valid extents, reach and shift. -/
structure Axis where
  grid : Nat
  valid : Nat
  lo : Nat
  hi : Nat
  shift : Bool
deriving DecidableEq, Repr

/-- A pattern descriptor. -/
structure Pattern where
  t : Axis
  h : Axis
  w : Axis
  causal : Bool
  chunk : Nat
  nglobal : Nat
  bad : Bool
deriving DecidableEq, Repr

/-- The pattern in 64 bytes, and whether it breaks a limit of R157. -/
def patternOf (b : BitVec 512) : Pattern :=
  let ax (off lo loHi : Nat) (sh : Nat) : Axis :=
    { grid := fld b off 15 0, valid := fld b off 31 16, lo := fld b lo (loHi + 7) loHi, hi := fld b lo (loHi + 15) (loHi + 8),
      shift := flag b 0x14 sh }
  let t := ax 0x04 0x10 0 16
  let h := ax 0x08 0x10 16 17
  let w := ax 0x0C 0x14 0 18
  let reserved := fld b 0x00 31 16 != 0 || fld b 0x14 31 20 != 0 || fld b 0x18 31 27 != 0 || fld b 0x1C 287 0 != 0
  { t := t, h := h, w := w, causal := flag b 0x14 19, chunk := fld b 0x18 15 0, nglobal := fld b 0x18 26 16,
    bad := fld b 0x00 15 0 != 0xA7C0 || reserved || t.valid = 0 || t.grid < t.valid || h.grid < h.valid || w.grid < w.valid ||
      h.grid > 4080 || w.grid > 4080 || t.lo + t.hi + 1 > 32 || h.lo + h.hi + 1 > 64 || w.lo + w.hi + 1 > 64 ||
      fld b 0x18 15 0 = 0 || fld b 0x18 26 16 > 1024 }

/-- The pattern of a command. -/
def attnPattern (s : State) (p : PlotIx) (d : BitVec 1024) : Pattern :=
  patternOf (BitVec.ofNat 512 (natOf (t0Read s p (w32 d 0x44) 64)))

/-- The window of one axis for a coordinate (R158). -/
def axisWindow (a : Axis) (c : Nat) : Int × Int :=
  let lo : Int := (c : Int) - a.lo
  let hi : Int := (c : Int) + a.hi
  let top : Int := (a.valid : Int) - 1
  if a.shift then
    let (lo1, hi1) := if lo < 0 then ((0 : Int), min (hi - lo) top) else (lo, hi)
    if hi1 > top then (max (lo1 - (hi1 - top)) 0, top) else (lo1, hi1)
  else (max lo 0, min hi top)

/-- The window in frames, with the causal limit (R158). -/
def timeWindow (k : Pattern) (c : Nat) : Int × Int :=
  let (lo, hi) := axisWindow k.t c
  (lo, if k.causal then min hi (((c / k.chunk + 1) * k.chunk : Nat) - 1) else hi)

/-- A coordinate lies in a window. -/
def inWindow (w : Int × Int) (c : Nat) : Bool := decide (w.1 ≤ (c : Int)) && decide ((c : Int) ≤ w.2)

/-- A token of a sequence: a global position or a latent token. -/
inductive Tok where
  | glob (n : Nat)
  | vid (t h w : Nat)
deriving DecidableEq, Repr

/-- Whether a token exists: below NGLOBAL, or inside the valid extents. -/
def tokValid (k : Pattern) : Tok → Bool
  | .glob n => n < k.nglobal
  | .vid t h w => t < k.t.valid && h < k.h.valid && w < k.w.valid

/-- Whether a query attends to a key (R158, R159). -/
def attends (k : Pattern) (query key : Tok) : Bool :=
  tokValid k query && tokValid k key &&
  match query, key with
  | .vid t h w, .vid t' h' w' =>
    inWindow (timeWindow k t) t' && inWindow (axisWindow k.h h) h' && inWindow (axisWindow k.w w) w'
  | _, _ => true

/-- Row r of a brick or of a global page (R160). -/
def brickTok (glob : Bool) (t ph pw r : Nat) : Tok :=
  if glob then .glob (256 * t + r) else .vid t (16 * ph + r / 16) (16 * pw + r % 16)

/-- The 256 tokens of the command's own block: queries in modes 0 and 1, keys in mode 2. -/
def blockToks (d : BitVec 1024) : List Tok :=
  (List.range 256).map (brickTok (aQGlob d) (fld d 0x48 15 0) (fld d 0x48 23 16) (fld d 0x48 31 24))

/-! ### Page descriptors (R161 to R163) -/

/-- A page that a command needs: global or a brick, with its slice. -/
structure PageRef where
  glob : Bool
  t : Nat
  ph : Nat
  pw : Nat
  slice : Nat
deriving DecidableEq, Repr

/-- Page rows and columns of the grid. -/
def gridPH (k : Pattern) : Nat := cdiv k.h.grid 16
/-- Page columns of the grid. -/
def gridPW (k : Pattern) : Nat := cdiv k.w.grid 16

/-- Entry index of a page (R161). -/
def entryIndex (k : Pattern) (sl : Nat) (r : PageRef) : Nat :=
  (if r.glob then r.t else 4 + (r.t * gridPH k + r.ph) * gridPW k + r.pw) * sl + r.slice

/-- Some of 16 rows of page row `a` is valid and has a window that meets [lo, hi]. -/
def rowsReach (a : Axis) (page lo hi : Nat) : Bool :=
  (List.range 16).any fun i =>
    let c := 16 * page + i
    let w := axisWindow a c
    c < a.valid && decide (w.1 ≤ (hi : Int)) && decide ((lo : Int) ≤ w.2)

/-- The bricks a command needs, in ascending (t, ph, pw) (R163, R170). -/
def attnBricks (d : BitVec 1024) (k : Pattern) : List (Nat × Nat × Nat) :=
  let qt := fld d 0x48 15 0
  let qh := fld d 0x48 23 16
  let qw := fld d 0x48 31 24
  let all := aQGlob d
  let ts := (List.range k.t.grid).filter fun t =>
    if all then t < k.t.valid
    else if aMode d = 2 then t < k.t.valid && inWindow (timeWindow k t) qt
    else qt < k.t.valid && inWindow (timeWindow k qt) t
  let reach (a : Axis) (own page : Nat) : Bool :=
    if all then 16 * page < a.valid
    else if aMode d = 2 then rowsReach a page (16 * own) (16 * own + 15)
    else rowsReach a own (16 * page) (16 * page + 15)
  let phs := (List.range (gridPH k)).filter (reach k.h qh)
  let pws := (List.range (gridPW k)).filter (reach k.w qw)
  ts.flatMap fun t => phs.flatMap fun ph => pws.map fun pw => (t, ph, pw)

/-- The pages the walker emits for a command, in order (R162, R163, R170). -/
def attnPages (d : BitVec 1024) (k : Pattern) : List PageRef :=
  let globs := if aMode d = 2 then [] else (List.range (cdiv k.nglobal 256)).map fun g => (true, g, 0, 0)
  (globs ++ (attnBricks d k).map fun b => (false, b.1, b.2.1, b.2.2)).flatMap fun b =>
    (List.range (aSlices d)).map fun sl => { glob := b.1, t := b.2.1, ph := b.2.2.1, pw := b.2.2.2, slice := sl }

/-- A page descriptor (R162). -/
def pageDesc (r : PageRef) (frame : Nat) (hole last : Bool) (gen : Nat) : BitVec 128 :=
  BitVec.ofNat 128 (frame + (r.t + r.ph * 2 ^ 16 + r.pw * 2 ^ 24 + r.glob.toNat * 2 ^ 32 + hole.toNat * 2 ^ 33 +
    r.slice * 2 ^ 34 + last.toNat * 2 ^ 35 + gen * 2 ^ 48) * 2 ^ 64)

/-- FRAME of a page descriptor. -/
def pdFrame (x : BitVec 128) : DWord := BitVec.ofNat 64 (fld x 0 63 0)
/-- GEN of a page descriptor. -/
def pdGen (x : BitVec 128) : BitVec 16 := BitVec.ofNat 16 (fld x 8 63 48)
/-- HOLE of a page descriptor. -/
def pdHole (x : BitVec 128) : Bool := flag x 8 33
/-- LAST of a page descriptor. -/
def pdLast (x : BitVec 128) : Bool := flag x 8 35
/-- The page of a page descriptor. -/
def pdRef (x : BitVec 128) : PageRef :=
  { glob := flag x 8 32, t := fld x 8 15 0, ph := fld x 8 23 16, pw := fld x 8 31 24, slice := fld x 8 34 34 }

/-- The place of a descriptor in the order of R162. -/
def pdOrder (x : BitVec 128) : Nat :=
  let r := pdRef x
  (((((if r.glob then 0 else 1) * 2 ^ 16 + r.t) * 2 ^ 8 + r.ph) * 2 ^ 8) + r.pw) * 2 + r.slice

/-- Descriptor k of the static list. -/
def staticDesc (s : State) (p : PlotIx) (d : BitVec 1024) (k : Nat) : BitVec 128 :=
  BitVec.ofNat 128 (natOf (t0Read s p (aList d + 16 * k) 16))

/-- The descriptors of the static list up to its first LAST. -/
def staticList (s : State) (p : PlotIx) (d : BitVec 1024) : List (BitVec 128) :=
  let ds := (List.range (aNdesc d)).map (staticDesc s p d)
  ds.takeWhile (fun x => !pdLast x) ++ (ds.dropWhile fun x => !pdLast x).take 1

/-- The descriptors of tile t of a static list break the order of R162, miss a slice, or end the list without LAST. -/
def staticFault (s : State) (p : PlotIx) (d : BitVec 1024) (t : Nat) : Bool :=
  let sl := aSlices d
  (List.range sl).any fun i =>
    let k := t * sl + i
    k ≥ aNdesc d ||
      (0 < k && pdOrder (staticDesc s p d k) ≤ pdOrder (staticDesc s p d (k - 1))) ||
      (sl = 2 && (pdRef (staticDesc s p d k)).slice ≠ i) ||
      (k + 1 = aNdesc d && !pdLast (staticDesc s p d k))

/-- The key tiles of a command. -/
def attnTiles (s : State) (p : PlotIx) (d : BitVec 1024) : Nat :=
  if aStatic d then cdiv (staticList s p d).length (aSlices d)
  else (attnPages d (attnPattern s p d)).length / aSlices d

/-! ### Checks (R152) -/

/-- Bytes of the running state of a row. -/
def workRow (d : BitVec 1024) : Nat := 16 + 8 * aDim d

/-- The scratchpad regions of an ATTN. -/
def attnRegions (d : BitVec 1024) : List Ext :=
  let n := 256 * aDim d
  let two := if aMode d = 2 then 2 else 1
  [extFlat (w32 d 0x20) (two * n), extFlat (w32 d 0x24) (two * n * (fmtBits (aOF d) / 8)),
    extFlat (w32 d 0x2C) (two * 256 * workRow d), extFlat (w32 d 0x30) (aRing d * pageBytes), extFlat (w32 d 0x44) 64] ++
    (if aMode d = 2 then [] else [extFlat (w32 d 0x28) 4096]) ++
    (if aMode d = 1 then [extFlat (w32 d 0x60) n, extFlat (w32 d 0x64) 1024] else []) ++
    (if aStatic d then [extFlat (aList d) (16 * aNdesc d)] else [])

/-- The own block of a command lies outside the grid. -/
def blockOutside (d : BitVec 1024) (k : Pattern) : Bool :=
  !aQGlob d && (k.t.grid ≤ fld d 0x48 15 0 || gridPH k ≤ fld d 0x48 23 16 || gridPW k ≤ fld d 0x48 31 24)

/-- Steps 6 and 7 for ATTN (R85, R152, R157, R161). -/
def checkAttn (p : PlotIx) (d : BitVec 1024) (s : State) : Option (Nat × Nat) :=
  let x := s.plot p
  let k := attnPattern s p d
  let fits := w32 d 0x44 + 64 ≤ t0Size
  checkAll
    [ (x.reduced || fld d 0x34 31 29 != 0 || fld d 0x5C 31 16 != 0 || bytesSet d 0x70 0x80, stIllegal),
      (hEscTop d ≠ 0, stFormat),
      (!(aQF d = 3 || aQF d = 4) || !(aKF d = 3 || aKF d = 4) || !(aOF d = 3 || aOF d = 5 || aOF d = 6), stFormat),
      (!goodScale (w32 d 0x38) || !goodScale (w32 d 0x3C) || !goodScale (w32 d 0x40), stFormat),
      (fld d 0x34 9 8 = 3 || aMode d = 3 || aStatic d && aNdesc d = 0 || aRing d < 2, stDim),
      (fits && (k.bad || blockOutside d k || (4 + k.t.grid * gridPH k * gridPW k) * aSlices d > 524288), stDim),
      (off64 (w32 d 0x20) || off64 (w32 d 0x24) || off64 (w32 d 0x2C) || off64 (w32 d 0x30) || off64 (w32 d 0x44), stAlign),
      (aMode d ≠ 2 && off64 (w32 d 0x28) || aMode d = 1 && (off64 (w32 d 0x60) || off64 (w32 d 0x64)), stAlign),
      (if aStatic d then off64 (aList d) else aTable d % 8192 != 0, stAlign) ]
    (extsFault x (attnRegions d))

/-! ### Running state -/

/-- A 40-bit significand with its exponent in eight bytes. -/
def enc40 (q : Rat) : Nat :=
  if q = 0 then 0
  else
    let e := ilog2 q - 39
    (q / pow2 e).num.toNat % 2 ^ 40 + (e + 2 ^ 23).toNat * 2 ^ 40

/-- The value of such eight bytes. -/
def dec40 (n : Nat) : Rat := ((n % 2 ^ 40 : Nat) : Rat) * pow2 ((n / 2 ^ 40 : Nat) - 2 ^ 23)

/-- The state of one row at WORK_ADDR (R153): flag 0 none, 1 INF, 2 NAN. -/
structure RowState where
  m : XVal
  sum : Rat
  k : Nat
  flag : Nat
  acc : List Pair
deriving DecidableEq, Repr

/-- An FP32 value as its code. -/
def fp32Code (v : XVal) : Nat := (convTo 0x6 false .rne v).code

/-- The state at the start. -/
def rowStart (n : Nat) : RowState := { m := .inf true, sum := 0, k := 0, flag := 0, acc := List.replicate n pairZero }

/-- The bytes of a row's state: m, S, k with the flag, then the accumulators. -/
def rowImage40 (r : RowState) : List Byte :=
  bytesOf 4 (fp32Code r.m) ++ bytesOf 8 (enc40 r.sum) ++ bytesOf 4 (r.k % 2 ^ 28 + r.flag * 2 ^ 28) ++
    r.acc.flatMap fun a => bytesOf 4 (fp32Code a.h) ++ bytesOf 4 (fp32Code a.c)

/-- The state of a row read from its bytes. -/
def rowRead (s : State) (p : PlotIx) (at_ n : Nat) : RowState :=
  let kf := natOf (t0Read s p (at_ + 12) 4)
  { m := decFloat fmtFP32 (natOf (t0Read s p at_ 4)), sum := dec40 (natOf (t0Read s p (at_ + 4) 8)), k := kf % 2 ^ 28,
    flag := kf / 2 ^ 28, acc := pairVals s p (at_ + 16) 0 n }

/-- Where a row's state lies; the second half of AMODE 2 follows the first. -/
def workAt (d : BitVec 1024) (half i : Nat) : Nat := w32 d 0x2C + (256 * half + i) * workRow d

/-! ### One key tile -/

/-- SK (R153). -/
def attnSK (d : BitVec 1024) : XVal := rne32 (xmul (decFloat fmtFP32 (w32 d 0x38)) (decFloat fmtFP32 (w32 d 0x3C)))
/-- V_TS. -/
def attnVTS (d : BitVec 1024) : XVal := decFloat fmtFP32 (w32 d 0x40)

/-- The dot product of two rows under R40 and R41, as an FP32 value, with its underflows. -/
def rowDot (a b : List Blk) : XVal × Nat :=
  let (acc, n) := accPair pairZero (blockSums .plain a b) none
  (rne32 (pairSum acc), n)

/-- Blocks of a row of FP8 values. -/
def fp8Blks (fmt : Nat) (vs : List XVal) : List Blk := rowBlks .plain 32 1 (plainRow fmt vs)

/-- The ring slot that holds a page. -/
def ringSlot (x : Plot) (t : DWord × BitVec 16) : Nat := x.ring.slots.findIdx fun y => y == some t

/-- The rows of one half of the tile's pages: K or Q at 0x0000, V or dO at 0x8000 (R160). -/
def pageRows (s : State) (p : PlotIx) (d : BitVec 1024) (ds : List (BitVec 128)) (fmt half : Nat) : List (List XVal) :=
  (List.range 256).map fun r => ds.flatMap fun x =>
    rowVals s p fmt (w32 d 0x30 + ringSlot (s.plot p) (pdFrame x, pdGen x) * pageBytes + 0x8000 * half + 128 * r)
      (64 * aHead d) (min 128 (aDim d))

/-- Resident rows of a block stored densely at a scratchpad offset. -/
def blockRows (s : State) (p : PlotIx) (d : BitVec 1024) (fmt at_ : Nat) : List (List XVal) :=
  (List.range 256).map fun r => rowVals s p fmt (at_ + r * aDim d) 0 (aDim d)

/-- The tokens of the tile's page. -/
def tileToks (ds : List (BitVec 128)) : List Tok :=
  let r := pdRef (ds.headD 0)
  (List.range 256).map (brickTok r.glob r.t r.ph r.pw)

/-- Scores of one row: s_j of every key (R153), none where the key is dropped, with the underflows of its sums. -/
def rowScores (d : BitVec 1024) (a : List Blk) (bs : List (List Blk)) (seen : List Bool) : List (Option XVal) × Nat :=
  let rs := bs.map (rowDot a)
  ((rs.zip seen).map fun r => if r.2 then some (rne32 (xmul r.1.1 (attnSK d))) else none, (rs.map (·.2)).sum)

/-- Quantise weights along the reduction in blocks of 32 as MXFP8 E4M3, nearest-even (R153, R169). -/
def quantWeights (ws : List XVal) : OpRow := (quantX ws).1

/-- Add weights times rows to accumulators, one term per block of 32 (R40, R41). Positions not used are excluded. -/
def accRows (acc : List Pair) (ws : List XVal) (used : List Bool) (rows : List (List XVal)) : List Pair × Nat :=
  let q := quantWeights ws
  let blocks := chunksOf 32 (((q.vals.zip used).zip rows))
  let sums (col : Nat) : List XVal := (blocks.zip (List.range blocks.length)).map fun b =>
    let terms := b.1.filterMap fun e => if e.1.2 then some (xmul e.1.1 (e.2.getD col .nan)) else none
    match rowScale q (32 * b.2) with
    | some sc => xscale sc (xsum terms)
    | none => if terms.isEmpty then xzero else .nan
  let os := (acc.zip (List.range acc.length)).map fun a => accPair a.1 (sums a.2) none
  (os.map (·.1), (os.map (·.2)).sum)

/-- A pair rescaled by a factor (R153). -/
def rescale (a : Rat) (x : Pair) : Pair :=
  let v := xmul (xofRat a) (pairSum x)
  let h := rne32 v
  if xisNan h then { h := .nan, c := .nan } else { h := h, c := rne32 (xadd v (xneg h)) }

/-- One tile of one query row in the forward mode (R153). `vs` are the value rows. -/
def forwardRow (st : RowState) (sc : List (Option XVal)) (vs : List (List XVal)) : RowState × Nat :=
  let live := sc.filterMap id
  if st.flag = 2 || live.any xisNan then ({ st with flag := 2 }, 0)
  else
    let infs := sc.map (· == some (.inf false))
    let n := infs.countP id
    if 0 < n then
      let base := if st.flag = 1 then st else { st with acc := st.acc.map fun _ => pairZero, k := 0, flag := 1 }
      let sum (col : Nat) := xsum ((vs.zip infs).filterMap fun v => if v.2 then some (v.1.getD col .nan) else none)
      ({ base with k := base.k + n, acc := (base.acc.zip (List.range base.acc.length)).map fun a => accStep a.1 (sum a.2) },
        (List.range base.acc.length).countP fun c => underflows (sum c))
    else if st.flag = 1 then (st, 0)
    else
      let m2 := live.foldl (fun m v => if xisInf v then m else xmax m v) st.m
      if m2 == .inf true then (st, 0)
      else
        let a : Rat := if st.m == .inf true then 0 else EXP40 (rnd40 (xrat st.m - xrat m2))
        let es := sc.map fun v => match v with
          | some (.fin g q) => EXP40 (rnd40 (xrat (.fin g q) - xrat m2))
          | _ => 0
        let (acc, low) := accRows (st.acc.map (rescale a)) (es.map xofRat) (sc.map (·.isSome)) vs
        ({ st with m := m2, sum := rnd40 (a * st.sum + es.sum), acc := acc }, low)

/-- A row record of R146 as a backward mode reads it. -/
structure RowRec where
  sum : XVal
  lse : XVal
  flags : Nat
deriving DecidableEq, Repr

/-- The record in 16 bytes. -/
def recOf (bs : List Byte) : RowRec :=
  { sum := decFloat fmtFP32 (natOf ((bs.drop 4).take 4)), lse := decFloat fmtFP32 (natOf ((bs.drop 8).take 4)),
    flags := natOf ((bs.drop 12).take 4) }

/-- P_ij and dS_ij of one pair of a query row and a key (R169, R171); `dp` is rne32(h + c) of dO_i with v_j. -/
def gradPair (d : BitVec 1024) (rc : RowRec) (delta dp : XVal) (sc : Option XVal) : XVal × XVal :=
  match sc with
  | none => (xzero, xzero)
  | some v =>
    if rc.flags = 1 then (xzero, xzero)
    else if rc.flags = 2 then (if v == .inf false then xofRat (1 / xrat rc.sum) else xzero, xzero)
    else
      match v with
      | .fin g q =>
        let pij := xofRat (EXP40 (rnd40 (xrat (.fin g q) - xrat rc.lse)))
        let dpv := rne32 (xmul dp (attnVTS d))
        (pij, rne32 (xmul pij (xadd dpv (xneg delta))))
      | _ => (xzero, xzero)

/-- Whether a score is present: not dropped and not -Inf. -/
def present : Option XVal → Bool
  | some (.inf true) => false
  | some _ => true
  | none => false

/-- What one key tile does to the running state: the rows to write with their offsets, and the underflows of its sums. -/
structure TileState where
  rows : List (Nat × RowState)
  low : Nat
deriving DecidableEq, Repr

/-- The dropped keys of the tile are those the pattern masks, and every key of a hole. -/
def tileMask (k : Pattern) (hole : Bool) (query key : Tok) : Bool := !hole && attends k query key

/-- Modes 0 and 1: the block's rows are queries, the pages hold keys and values. -/
def queryTile (s : State) (p : PlotIx) (d : BitVec 1024) (k : Pattern) (ds : List (BitVec 128)) : TileState :=
  let hole := ds.any pdHole
  let keys := tileToks ds
  let ks := pageRows s p d ds (aKF d) 0
  let vs := pageRows s p d ds (aKF d) 1
  let kb := ks.map (fp8Blks (aKF d))
  let vb := vs.map (fp8Blks (aKF d))
  let qs := blockRows s p d (aQF d) (w32 d 0x20)
  let outs := ((qs.zip (blockToks d)).zip (List.range 256)).map fun q =>
    let i := q.2
    let st := rowRead s p (workAt d 0 i) (aDim d)
    let seen := keys.map (tileMask k hole q.1.2)
    let (sc, low) := rowScores d (fp8Blks (aQF d) q.1.1) kb seen
    if aMode d = 0 then
      let (st1, l1) := forwardRow st sc vs
      ((workAt d 0 i, st1), low + l1)
    else
      let rc := recOf (t0Read s p (w32 d 0x28 + 16 * i) 16)
      if rc.flags = 4 then ((workAt d 0 i, { st with flag := 2 }), low)
      else if rc.flags ≠ 0 then ((workAt d 0 i, st), low)
      else
        let dob := fp8Blks (aQF d) (rowVals s p (aQF d) (w32 d 0x60 + i * aDim d) 0 (aDim d))
        let delta := elemVal s p 0x6 (w32 d 0x64) i
        let dps : List (XVal × Nat) := vb.map (rowDot dob)
        let dss : List XVal := (sc.zip dps).map fun (e : Option XVal × XVal × Nat) => (gradPair d rc delta e.2.1 e.1).2
        let (acc, l1) := accRows st.acc dss (sc.map present) ks
        ((workAt d 0 i, { st with acc := acc }), low + (dps.map fun (x : XVal × Nat) => x.2).sum + l1)
  { rows := outs.map (·.1), low := if hole then 0 else (outs.map (·.2)).sum }

/-- Mode 2: the block's rows are keys, the pages hold queries and their output gradients. `stats` are the 256 row records
and D values of the query brick. -/
def keyTile (s : State) (p : PlotIx) (d : BitVec 1024) (k : Pattern) (ds : List (BitVec 128)) (stats : List Byte) : TileState :=
  let hole := ds.any pdHole
  let queries := tileToks ds
  let qs := pageRows s p d ds (aQF d) 0
  let dos := pageRows s p d ds (aQF d) 1
  let qb := qs.map (fp8Blks (aQF d))
  let ob := dos.map (fp8Blks (aQF d))
  let kr := blockRows s p d (aKF d) (w32 d 0x20)
  let vr := blockRows s p d (aKF d) (w32 d 0x20 + 256 * aDim d)
  let recs := (List.range 256).map fun i => recOf ((stats.drop (16 * i)).take 16)
  let deltas := (List.range 256).map fun i => decFloat fmtFP32 (natOf ((stats.drop (4096 + 4 * i)).take 4))
  let nan := !hole && recs.any fun r => r.flags == 4
  let outs := (((kr.zip vr).zip (blockToks d)).zip (List.range 256)).map fun e =>
    let j := e.2
    let stK := rowRead s p (workAt d 0 j) (aDim d)
    let stV := rowRead s p (workAt d 1 j) (aDim d)
    if nan then ([(workAt d 0 j, { stK with flag := 2 }), (workAt d 1 j, { stV with flag := 2 })], 0)
    else
      let seen := queries.map fun q => tileMask k hole q e.1.2
      let (sc, low) := rowScores d (fp8Blks (aKF d) e.1.1.1) qb seen
      let dps := ob.map (rowDot (fp8Blks (aKF d) e.1.1.2))
      let gs := ((sc.zip dps).zip (recs.zip deltas)).map fun g => gradPair d g.2.1 g.2.2 g.1.2.1 g.1.1
      let used := (sc.zip recs).map fun g => present g.1 && g.2.flags != 1
      let (accV, lv) := accRows stV.acc (gs.map (·.1)) used dos
      let (accK, lk) := accRows stK.acc (gs.map (·.2)) ((used.zip recs).map fun g => g.1 && g.2.flags == 0) qs
      ([(workAt d 0 j, { stK with acc := accK }), (workAt d 1 j, { stV with acc := accV })], low + (dps.map (·.2)).sum + lv + lk)
  { rows := outs.flatMap (·.1), low := if hole then 0 else (outs.map (·.2)).sum }

/-! ### The result (R154, R169 to R171) -/

/-- One output row: codes with their events. -/
def outRow (d : BitVec 1024) (vs : List XVal) : RowOut := convRow (aOF d) true (vs.map fun _ => .rne) vs

/-- O and the row record of a query row (R154). -/
def forwardOut (d : BitVec 1024) (st : RowState) : List XVal × List Byte :=
  let vts := attnVTS d
  let quot (q : Rat) := st.acc.map fun a => xscale (1 / q) (xmul (pairSum a) vts)
  let rec4 (m sm l : XVal) (fl : Nat) := [m, sm, l].flatMap (fun v => bytesOf 4 (fp32Code v)) ++ bytesOf 4 fl
  if st.flag = 2 then (st.acc.map fun _ => .nan, rec4 .nan .nan .nan 4)
  else if st.flag = 1 then (quot (st.k : Rat), rec4 (.inf false) (xofRat (st.k : Rat)) (.inf false) 2)
  else if st.m == .inf true then (st.acc.map fun _ => xzero, rec4 (.inf true) xzero (.inf true) 1)
  else (quot st.sum, rec4 st.m (xofRat st.sum) (xadd st.m (xofRat (LN40 st.sum))) 0)

/-- A gradient row: the accumulators times a factor, all NaN when flagged. -/
def gradOut (f : XVal) (st : RowState) : List XVal :=
  if st.flag = 2 then st.acc.map fun _ => .nan else st.acc.map fun a => xmul f (pairSum a)

/-- The writes of the result of an ATTN, with its events. -/
def attnResult (s : State) (p : PlotIx) (d : BitVec 1024) : List (Nat × List Byte) × Counts :=
  let w := fmtBits (aOF d) / 8
  let n := aDim d
  let put (half i : Nat) (o : RowOut) := (w32 d 0x24 + (256 * half + i) * n * w, o.codes.flatMap (bytesOf w))
  let outs := (List.range 256).map fun i =>
    let a := rowRead s p (workAt d 0 i) n
    match aMode d with
    | 0 =>
      let (vs, rec16) := forwardOut d a
      let o := outRow d vs
      ([put 0 i o, (w32 d 0x28 + 16 * i, rec16)], o.ev)
    | 1 =>
      let o := outRow d (gradOut (attnSK d) a)
      ([put 0 i o], o.ev)
    | _ =>
      let o := outRow d (gradOut (attnSK d) a)
      let v := outRow d (gradOut (attnVTS d) (rowRead s p (workAt d 1 i) n))
      ([put 0 i o, put 1 i v], countsAdd o.ev v.ev)
  (outs.flatMap (·.1), (outs.map (·.2)).foldl countsAdd countsZero)

/-! ### The command -/

/-- Cycles of a key tile (R156). -/
def keyTileCycles (d : BitVec 1024) : Nat := if aMode d = 0 then 512 else if aMode d = 1 then 768 else 1024

/-- Step 8 of ATTN: the running state starts unless it is continued, the ring keeps its tags only for the same ring, and
the walk starts at START_TILE. -/
def startAttn (p : PlotIx) (d : BitVec 1024) (s : State) : State :=
  let n := attnTiles s p d - startTile d
  let s1 := beginRun p .compute d n (600 + keyTileCycles d * n) s
  let halves := if aMode d = 2 then 2 else 1
  let s2 := if aResume d then s1 else
    (List.range (256 * halves)).foldl (fun s i => t0Write p (workAt d 0 i) (rowImage40 (rowStart (aDim d))) s) s1
  let skip := startTile d * aSlices d
  let ds := if aStatic d then (staticList s p d).drop skip else []
  s2.onPlot p fun x => { x with
    ring := if x.ring.addr.toNat = w32 d 0x30 && x.ring.pages = aRing d then x.ring
      else { addr := BitVec.ofNat 32 (w32 d 0x30), pages := aRing d, slots := List.replicate (aRing d) none, order := List.range (aRing d) }
    walk := { pos := skip, wait := .none, queue := ds, fetched := 0 } }

/-- ATTN: the command leaves its waits and starts. -/
def execAttn (p : PlotIx) (s : State) : Out :=
  .next (leaveWaits p .compute (· = 0x08) (fun d => checkAttn p d) (startAttn p) s)

/-- The pages of the next key tile are in the ring. -/
def tileReady (x : Plot) (d : BitVec 1024) : Bool :=
  aSlices d ≤ x.walk.fetched && aSlices d ≤ x.walk.queue.length

/-- The row records and D values that mode 2 reads for the tile's query brick (R170), or the failing status. -/
def tileStats (p : PlotIx) (d : BitVec 1024) (k : Pattern) (ds : List (BitVec 128)) (s : State) : State × Except (Nat × Nat) (List Byte) :=
  let b := entryIndex k 1 { pdRef (ds.headD 0) with slice := 0 }
  let a := fld d 0x68 63 0 + b * 0x1400
  match plotPart (s.plot p) with
  | none => (s, .error (stAddrFault, a))
  | some q =>
    if aMode d ≠ 2 || ds.any pdHole then (s, .ok [])
    else if !rangeOk s q a 0x1400 then (s, .error (stAddrFault, a))
    else match devRead q (a / 64 * 64) (roundUp (a % 64 + 0x1400) 64) 0 [] s with
      | (s1, .ok bs) => (s1, .ok ((bs.drop (a % 64)).take 0x1400))
      | (s1, .error e) => (s1, .error (e, a))

/-- The key tile at the front of the queue runs on the state before it; a residue mismatch repeats it once (R58, R155). -/
def keyTileRun (p : PlotIx) (r : Run) (checks : List RunCheck) (s : State) : State :=
  let d := r.desc
  let ds := (s.plot p).walk.queue.take (aSlices d)
  let k := attnPattern s p d
  let c := checks.headD { first := false, again := false }
  match extsFault (s.plot p) (attnRegions d) with
  | some (st, fa) => endRun p .compute r st fa s
  | none =>
    if c.first && c.again then
      let s1 := residueRerun p (keyTileCycles d) (countResidue p 2 1 s)
      endRun p .compute ((s1.plot p).compute.run.getD r) stResidue 0 s1
    else
      match tileStats p d k ds s with
      | (s1, .error e) => endRun p .compute r e.1 e.2 s1
      | (s1, .ok stats) =>
        let t := if aMode d = 2 then keyTile s1 p d k ds stats else queryTile s1 p d k ds
        let s2 := if c.first then residueRerun p (keyTileCycles d) (countResidue p 1 0 s1) else s1
        let s3 := t.rows.foldl (fun s w => t0Write p w.1 (rowImage40 w.2) s) s2
        let s4 := watchCount p { sat := 0, range := t.low, nan := 0 } s3
        let s5 := onRun p .compute (fun x => { x with done := x.done + 1, misses := x.misses + t.low }) s4
        let s6 := s5.onPlot p fun x => { x with walk := { x.walk with
          queue := x.walk.queue.drop (aSlices d), fetched := x.walk.fetched - aSlices d } }
        let r6 := (s6.plot p).compute.run.getD r
        if (s6.plot p).flushing && r6.done < r6.total then endRun p .compute r6 stFlushed 0 s6 else s6

/-- KEY_TILE_COMPLETE: the running ATTN finishes its next key tile. -/
def execKeyTileComplete (p : PlotIx) (runs : List RunCheck) (errs : ReadErrs) (s : State) : Out :=
  .next (match (s.plot p).compute.run with
    | none => s
    | some r =>
      if holdActive s || hOp r.desc ≠ 0x08 || r.total ≤ r.done then s
      else if aStatic r.desc && staticFault s p r.desc (startTile r.desc + r.done) then endRun p .compute r stDim 0 s
      else if !tileReady (s.plot p) r.desc then s
      else match applyErrs p errs s with
        | (s1, some o) => endRun p .compute r stSpUncorr o s1
        | (s1, none) => keyTileRun p r runs s1)

/-- The result of an ATTN is written and judged as one tile that cannot escalate (R154, R155). -/
def finishAttn (p : PlotIx) (r : Run) (s : State) : State :=
  let d := r.desc
  let (ws, ev) := attnResult s p d
  let s1 := ws.foldl (fun s w => t0Write p w.1 w.2 s) s
  let s2 := watchCount p ev s1
  let m := if hWatch d then exceededMask d { ev with range := ev.range + r.misses } else 0
  if m = 0 then s2
  else s2.onPlot p fun x => { x with watch := noteExceeded m 1 1 (startTile d + r.done - 1) true x.watch }

end Sys2Proof.Machine
end

