-- ==== Sys2Proof/Machine/Directory.lean ====
section
/-! DEFINITION. Mirror shares and the directory: requests, grants, recalls, evictions and write-backs, and when an access
to T3 may go on (R225 to R231, R487). -/

namespace Sys2Proof.Machine

open Host

/-! ### Entries and copies -/

/-- The directory entry of a physical frame. -/
def dirEntry (s : State) (f : Nat) : DirEntry := tabGet .unheld (s.cistern (frameCis f)).dir.entries f

/-- Change the directory half of a frame. -/
def onDir (f : Nat) (g : DirHalf → DirHalf) (s : State) : State := s.onCis (frameCis f) fun c => { c with dir := g c.dir }

/-- Set the directory entry of a frame. -/
def setDirEntry (f : Nat) (e : DirEntry) (s : State) : State :=
  onDir f (fun d => { d with entries := tabSet .unheld d.entries f e }) s

/-- The mirror copy that a bed holds of a frame. -/
def copyOf (s : State) (b : BedIx) (f : Nat) : Option MirrorCopy := (s.bed b).mirror.find? fun c => c.frame.toNat = f

/-- Change a bed's copy of a frame. -/
def onCopy (b : BedIx) (f : Nat) (g : MirrorCopy → MirrorCopy) (s : State) : State :=
  s.onBed b fun x => { x with mirror := updateWhere (fun c => c.frame.toNat = f) g x.mirror }

/-- A bed drops its copy of a frame. -/
def removeCopy (b : BedIx) (f : Nat) (s : State) : State :=
  s.onBed b fun x => { x with mirror := x.mirror.filter fun c => c.frame.toNat ≠ f }

/-- The copies of a bed, most recently used first: this one now is. -/
def touchCopy (b : BedIx) (f : Nat) (s : State) : State :=
  s.onBed b fun x =>
    { x with mirror := (x.mirror.filter fun c => c.frame.toNat = f) ++ x.mirror.filter fun c => c.frame.toNat ≠ f }

/-- Pages of a bed's mirror share (R225). -/
def sharePages (s : State) (b : BedIx) : Nat := 16 * (s.bed b).share.toNat

/-- Device address of the page that a copy occupies, at the top of the bed's T1 range (R225). -/
def copyAddr (s : State) (b : BedIx) (c : MirrorCopy) : Nat :=
  t1Addr b ((32 - (s.bed b).share.toNat) * mib) + c.slot * pageBytes

/-- The lowest free slot of a bed's share. -/
def freeSlot (s : State) (b : BedIx) : Option Nat :=
  (List.range (sharePages s b)).find? fun k => (s.bed b).mirror.all fun c => c.slot ≠ k

/-- Requests of a bed that wait in either directory half. -/
def bedWaiting (s : State) (b : BedIx) : Nat :=
  ((List.finRange 2).map fun c => (s.cistern c).dir.queue.countP fun e =>
    match e.2 with
    | .bed (.read b') => b' == b
    | .bed (.own b' _) => b' == b
    | .ext _ => false).sum

/-- The bed's partition maps the frame with MIRROR set (R226, R228). -/
def mirrorsFrame (s : State) (b : BedIx) (f : Nat) : Bool :=
  match bedPart s b with
  | none => false
  | some q => s.mem.xlt.any fun e =>
      e.1 / 2 ^ 24 == q.val && e.2.getLsbD 24 && e.2.getLsbD 25 && bitsOf e.2.toNat 23 0 == f

/-! ### Grants, invalidations and recalls -/

/-- Grant a page to a bed: a copy it holds is kept, else a slot is taken, to be filled from T3 when `fill` holds. A
tenure starts (R227). -/
def grantCopy (b : BedIx) (f : Nat) (own fill : Bool) (s : State) : State :=
  match copyOf s b f with
  | some _ => onCopy b f (fun c => { c with owned := own, tenure := true, recalled := false }) s
  | none =>
    match freeSlot s b with
    | none => s
    | some k => s.onBed b fun x => { x with mirror :=
        { slot := k, frame := BitVec.ofNat 24 f, owned := own, dirty := 0, filling := fill, tenure := true, recalled := false } :: x.mirror }

/-- The beds of a set. -/
def bedsIn (m : BitVec 16) : List BedIx := (List.finRange 16).filter fun b => m.getLsbD b.val

/-- The set of one bed. -/
def bedSet (b : BedIx) : BitVec 16 := BitVec.ofNat 16 (2 ^ b.val)

/-- Invalidate the copies of every bed of a set. -/
def invalidateBeds (m : BitVec 16) (f : Nat) (s : State) : State := forAll (bedsIn m) (fun s b => removeCopy b f s) s

/-- Write the dirty sub-pages of a copy back to its frame: no epoch, never dropped (R226). -/
def writeBackCopy (b : BedIx) (f : Nat) (c : MirrorCopy) (s : State) : State :=
  (List.range 16).foldl (fun s i =>
    if c.dirty.getLsbD i then
      let bs := ramRead s (copyAddr s b c + 4096 * i) 4096
      s.onMem (physWrite (f * pageBytes + 4096 * i) bs)
    else s) s

/-- An owner gives its copy up: with dirty sub-pages the entry stands in Writing-back, else it is Unheld (R230). -/
def takeBack (b : BedIx) (f : Nat) (s : State) : State :=
  match copyOf s b f with
  | none => setDirEntry f .unheld s
  | some c =>
    if c.dirty = 0 then setDirEntry f .unheld (removeCopy b f s)
    else setDirEntry f (.writingBack b) (removeCopy b f (writeBackCopy b f c s))

/-- Recall an owner's copy: at once, or at the end of its tenure (R227, R230). A recall already waiting is not sent
again. -/
def recallOwner (b : BedIx) (f : Nat) (s : State) : State :=
  let counted := onDir f (fun d => { d with recalls := satAdd d.recalls 1 }) s
  match copyOf s b f with
  | some c =>
    if c.recalled then s
    else if c.tenure then onCopy b f (fun c => { c with recalled := true }) counted
    else takeBack b f counted
  | none => takeBack b f counted

/-! ### Answers (R230) -/

/-- Answer a bed's request on an entry that is neither Owned by another bed nor Writing-back. -/
def answerBed (f : Nat) (r : DirReq) (s : State) : State :=
  match r, dirEntry s f with
  | .read b, .unheld => grantCopy b f false true (setDirEntry f (.shared (bedSet b)) s)
  | .own b d, .unheld => grantCopy b f true d (setDirEntry f (.owned b 0) s)
  | .read b, .shared m =>
    if m.getLsbD b.val then s else grantCopy b f false true (setDirEntry f (.shared (m ||| bedSet b)) s)
  | .own b d, .shared m =>
    grantCopy b f true d (setDirEntry f (.owned b 0) (invalidateBeds (m &&& ~~~(bedSet b)) f s))
  | _, _ => s

/-- The bed of a request. -/
def reqBed : DirReq → BedIx
  | .read b => b
  | .own b _ => b

/-- Whether a request can be answered on an entry now. -/
def answerable (e : DirEntry) (r : DirQueued) : Bool :=
  match e, r with
  | .owned o _, .bed q => o == reqBed q
  | .owned _ _, .ext _ => false
  | .writingBack _, _ => false
  | _, _ => true

/-- Answer a request that can be answered. -/
def answer (f : Nat) (r : DirQueued) (s : State) : State :=
  match r with
  | .bed q => answerBed f q s
  | .ext x =>
    match x, dirEntry s f with
    | .read, _ => s
    | _, .shared m => setDirEntry f .unheld (invalidateBeds m f s)
    | _, _ => s

/-- Recall the owner that a request waits for. -/
def recallFor (f : Nat) (s : State) : State :=
  match dirEntry s f with
  | .owned o _ => recallOwner o f s
  | _ => s

/-- Serve the requests queued for a frame, in queue order, until one must wait (R231). -/
def serveQueue (f : Nat) : Nat → State → State
  | 0, s => s
  | fuel + 1, s =>
    match (s.cistern (frameCis f)).dir.queue.find? fun e => e.1.toNat = f with
    | none => s
    | some e =>
      let s1 := if answerable (dirEntry s f) e.2 then s else recallFor f s
      if answerable (dirEntry s1 f) e.2 then
        serveQueue f fuel (answer f e.2 (onDir f (fun d => { d with queue := d.queue.erase e }) s1))
      else s1

/-- Serve a frame's queue: at most 256 requests wait. -/
def dirServe (f : Nat) (s : State) : State := serveQueue f 257 s

/-- A request reaches its entry: it joins the requests of its frame and is served in its turn. -/
def dirRequest (f : Nat) (r : DirQueued) (s : State) : State :=
  dirServe f (onDir f (fun d => { d with queue := d.queue ++ [(BitVec.ofNat 24 f, r)] }) s)

/-! ### Requests of beds -/

/-- A bed sends a request only for a page it does not hold in the state it needs, when a slot is free for it. -/
def bedMayRequest (s : State) (f : Nat) (r : DirReq) : Bool :=
  let b := reqBed r
  mirrorsFrame s b f && bedWaiting s b + (s.bed b).mirror.length < sharePages s b + (if (copyOf s b f).isSome then 1 else 0) &&
    match copyOf s b f, r with
    | none, _ => true
    | some c, .own _ _ => !c.owned
    | some _, .read _ => false

/-- Requests of one cycle in rotating bed priority from a pointer (R231). -/
def rotatePrio (ptr : Nat) (rs : List DirReq) : List DirReq :=
  (List.range 16).flatMap fun i => rs.filter fun r => (reqBed r).val = (ptr + i) % 16

/-- Count a bed request (R240). -/
def countReq (f : Nat) (r : DirReq) (s : State) : State :=
  onDir f (fun d => match r with
    | .read _ => { d with reads := satAdd d.reads 1 }
    | .own _ _ => { d with owns := satAdd d.owns 1 }) s

/-- Bed requests of one cycle reach an entry: a tie is decided by PTR, which moves past the winner (R231). -/
def bedRequests (f : Nat) (rs : List DirReq) (s : State) : State :=
  let d := (s.cistern (frameCis f)).dir
  let live := rs.filter fun r => bedMayRequest s f r
  if live.isEmpty || 256 < d.queue.length + live.length then s
  else
    let order := if live.length = 1 then live else rotatePrio d.ptr.toNat live
    let s1 := if live.length = 1 then s else
      onDir f (fun d => { d with
        ptr := BitVec.ofNat 4 ((order.map fun r => (reqBed r).val).headD 0 + 1)
        ties := satAdd d.ties 1 }) s
    order.foldl (fun s r => dirRequest f (.bed r) (countReq f r s)) s1

/-- DIRECTORY_READ: a read request from a bed reaches an entry, with the other bed requests of that cycle. -/
def execDirectoryRead (f : BitVec 24) (b : BedIx) (same : List DirReq) (s : State) : Out :=
  .next (bedRequests f.toNat (.read b :: same.filter fun r => reqBed r != b) s)

/-- DIRECTORY_OWN: an own request from a bed reaches an entry, with the other bed requests of that cycle. -/
def execDirectoryOwn (f : BitVec 24) (b : BedIx) (withData : Bool) (same : List DirReq) (s : State) : Out :=
  .next (bedRequests f.toNat (.own b withData :: same.filter fun r => reqBed r != b) s)

/-- The copy that a bed with a full share gives up next: the least recently used outside any tenure (R227). -/
def victimCopy (s : State) (b : BedIx) : Option MirrorCopy :=
  if (s.bed b).mirror.length < sharePages s b then none
  else (s.bed b).mirror.reverse.find? fun c => !c.tenure && !c.filling

/-- A bed drops a Shared copy: the entry loses it (R230). -/
def dropShared (b : BedIx) (f : Nat) (s : State) : State :=
  let s1 := removeCopy b f s
  match dirEntry s1 f with
  | .shared m =>
    let r := m &&& ~~~(bedSet b)
    setDirEntry f (if r = 0 then .unheld else .shared r) s1
  | _ => s1

/-- DIRECTORY_DROP: a bed that replaces a Shared copy sends a drop. -/
def execDirectoryDrop (f : BitVec 24) (b : BedIx) (s : State) : Out :=
  .next (match victimCopy s b with
    | some c => if c.frame = f && !c.owned then dirServe f.toNat (dropShared b f.toNat s) else s
    | none => s)

/-- DIRECTORY_EVICTION: a bed that replaces an Owned copy writes its dirty sub-pages back. -/
def execDirectoryEviction (f : BitVec 24) (b : BedIx) (s : State) : Out :=
  .next (match victimCopy s b with
    | some c => if c.frame = f && c.owned then dirServe f.toNat (takeBack b f.toNat s) else s
    | none => s)

/-- Whether an entry holds a copy. -/
def entryHeld : DirEntry → Bool
  | .shared _ => true
  | .owned _ _ => true
  | _ => false

/-- DIRECTORY_EXTERNAL: an external read or write, or a FLUSH, reaches an entry (R230). -/
def execDirectoryExternal (f : BitVec 24) (r : ExtReq) (s : State) : Out :=
  let n := f.toNat
  .next (if 256 ≤ (s.cistern (frameCis n)).dir.queue.length then s
    else
      let s1 := if entryHeld (dirEntry s n) then onDir n (fun d => { d with external := satAdd d.external 1 }) s else s
      dirRequest n (.ext r) s1)

/-- TENURE_END: the tenure of a copy ends, and a recall that waited takes effect (R227). -/
def execTenureEnd (f : BitVec 24) (b : BedIx) (s : State) : Out :=
  let n := f.toNat
  .next (match copyOf s b n with
    | none => s
    | some c =>
      if !c.tenure then s
      else if c.recalled then dirServe n (takeBack b n s)
      else onCopy b n (fun c => { c with tenure := false }) s)

/-- WRITEBACK_DONE: the last sub-page of a write-back is acknowledged, and the entry is Unheld (R229). -/
def execWritebackDone (f : BitVec 24) (s : State) : Out :=
  let n := f.toNat
  .next (match dirEntry s n with
    | .writingBack _ => dirServe n (setDirEntry n .unheld s)
    | _ => s)

/-- The bytes of a physical frame as a fill reads them, sector by sector. -/
def frameRead (f : Nat) (s : State) : List Nat → State × Except Nat (List Byte)
  | [] => (s, .ok [])
  | k :: ks =>
    match sectorRead (256 * f + k) 0 [] s [0, 1, 2, 3] with
    | (s1, .error e) => (s1, .error e)
    | (s1, .ok d) =>
      match frameRead f s1 ks with
      | (s2, .error e) => (s2, .error e)
      | (s2, .ok ds) => (s2, .ok (d ++ ds))

/-- MIRROR_FILL_ARRIVAL: a fill from T3 arrives at the requesting bed's share. A fill that cannot be read is dropped with
its copy, and the access that needs the page then meets the error in T3 itself. -/
def execMirrorFillArrival (f : BitVec 24) (b : BedIx) (s : State) : Out :=
  let n := f.toNat
  .next (match copyOf s b n with
    | none => s
    | some c =>
      if !c.filling then s
      else match frameRead n s (List.range 256) with
        | (s1, .ok bs) =>
          (onCopy b n (fun c => { c with filling := false }) s1).onMem fun m => { m with ram := tabWrite 0 m.ram (copyAddr s1 b c) bs }
        | (s1, .error _) => if c.owned then dirServe n (takeBack b n s1) else dirServe n (dropShared b n s1))

/-! ### Giving mirror copies up (R228, R487) -/

/-- A bed writes back every Owned copy and drops every Shared one, before it is power-gated. -/
def giveUpMirror (b : BedIx) (s : State) : State :=
  (s.bed b).mirror.foldl (fun s c =>
    let f := c.frame.toNat
    dirServe f (if c.owned then takeBack b f s else dropShared b f s)) s

/-- A bed discards its copies without write-back, and their entries are Unheld (R228). -/
def discardMirror (b : BedIx) (s : State) : State :=
  (s.bed b).mirror.foldl (fun s c => dirServe c.frame.toNat (setDirEntry c.frame.toNat .unheld (removeCopy b c.frame.toNat s))) s

/-! ### Accesses to T3 (R214, R226) -/

/-- How an access reaches one page of T3. -/
inductive Route where
  /-- straight to LPDDR, or to a fault -/
  | direct
  /-- through the bed's copy of the frame -/
  | copy (c : MirrorCopy) (f : Nat)
  /-- the access must wait for the directory or for a MOVING bit -/
  | waits
deriving DecidableEq, Repr

/-- The route of an access of partition q to the page of a T3 address, from `bed` when it may use that bed's mirror. -/
def routeOf (s : State) (q : PartIx) (bed : Option BedIx) (a : Nat) (write : Bool) : Route :=
  let v := (a - t3Base) / pageBytes
  let e := xltEntry s q v
  if !xltOk e v then .direct
  else if write && e.getLsbD 26 then .waits
  else if !e.getLsbD 25 then .direct
  else
    let f := bitsOf e.toNat 23 0
    match bed with
    | some b =>
      match copyOf s b f with
      | some c => if c.filling || write && !c.owned then .waits else .copy c f
      | none => .waits
    | none =>
      match dirEntry s f with
      | .unheld => .direct
      | .shared _ => if write then .waits else .direct
      | _ => .waits

/-- The bed through whose mirror an access of a plot goes: BALE is 0 and the bed has a share (R226). -/
def mirrorBed (s : State) (b : BedIx) (bale : Nat) : Option BedIx := if bale = 0 && (s.bed b).share ≠ 0 then some b else none

/-- Whether an access to [a, a + n) may go on now: every page of it that lies in T3 has its route. -/
def accessReady (s : State) (q : PartIx) (bed : Option BedIx) (a n : Nat) (write : Bool) : Bool :=
  tierOf s a != .t3 || (pieces pageBytes a n).all fun an => routeOf s q bed an.1 write != .waits

/-- Read one page piece by its route. -/
def readPiece (q : PartIx) (bed : Option BedIx) (a n rate : Nat) (flips : Flips) (s : State) : State × Except Nat (List Byte) :=
  match routeOf s q bed a false, bed with
  | .copy c f, some b =>
    let s1 := touchCopy b f (xltTouch q ((a - t3Base) / pageBytes) s)
    (s1, .ok (ramRead s1 (copyAddr s1 b c + a % pageBytes) n))
  | _, _ => devRead q a n rate flips s

/-- Read page pieces in order, stopping at the first failure. -/
def readPieces (q : PartIx) (bed : Option BedIx) (rate : Nat) (flips : Flips) (s : State) :
    List (Nat × Nat) → State × Except Nat (List Byte)
  | [] => (s, .ok [])
  | (a, n) :: t =>
    match readPiece q bed a n rate flips s with
    | (s1, .error e) => (s1, .error e)
    | (s1, .ok d) =>
      match readPieces q bed rate flips s1 t with
      | (s2, .error e) => (s2, .error e)
      | (s2, .ok ds) => (s2, .ok (d ++ ds))

/-- Read [a, a + n) of any tier, through a mirror where it applies. -/
def routedRead (q : PartIx) (bed : Option BedIx) (a n rate : Nat) (flips : Flips) (s : State) : State × Except Nat (List Byte) :=
  if tierOf s a = .t3 then readPieces q bed rate flips s (pieces pageBytes a n) else devRead q a n rate flips s

/-- The dirty bits of the sub-pages that n bytes from offset o of a page touch. -/
def subPages (o n : Nat) : BitVec 16 :=
  BitVec.ofNat 16 (((List.range 16).map fun i => if o < 4096 * (i + 1) && 4096 * i < o + n then 2 ^ i else 0).sum)

/-- Write one page piece by its route. The epoch of a write into a mirror is checked when it enters the mirror, by the bed
(R226, R282). -/
def writePiece (q : PartIx) (bed : Option BedIx) (a rate epoch : Nat) (bs : List Byte) (s : State) : State × Option Nat :=
  match routeOf s q bed a true, bed with
  | .copy c f, some b =>
    let s0 := touchCopy b f (xltTouch q ((a - t3Base) / pageBytes) s)
    match bedCheck b epoch bs.length s0 with
    | (s1, true) =>
      let s2 := s1.onMem fun m => { m with ram := tabWrite 0 m.ram (copyAddr s1 b c + a % pageBytes) bs }
      let m := subPages (a % pageBytes) bs.length
      let s3 := onCopy b f (fun c => { c with dirty := c.dirty ||| m }) s2
      (match dirEntry s3 f with
        | .owned o d => setDirEntry f (.owned o (d ||| m)) s3
        | _ => s3, none)
    | (s1, false) => (s1, none)
  | _, _ => devWritePiece q a rate epoch bs s

/-- Write page pieces in order, stopping at the first failure. -/
def writePieces (q : PartIx) (bed : Option BedIx) (base rate epoch : Nat) (bs : List Byte) (s : State) :
    List (Nat × Nat) → State × Option Nat
  | [] => (s, none)
  | (a, n) :: t =>
    match writePiece q bed a rate epoch ((bs.drop (a - base)).take n) s with
    | (s1, some e) => (s1, some e)
    | (s1, none) => writePieces q bed base rate epoch bs s1 t

/-- Write bytes at a device address under an epoch, through a mirror where it applies. -/
def routedWrite (q : PartIx) (bed : Option BedIx) (a rate epoch : Nat) (bs : List Byte) (s : State) : State × Option Nat :=
  if tierOf s a = .t3 then writePieces q bed a rate epoch bs s (pieces pageBytes a bs.length) else devWrite q a rate epoch bs s

end Sys2Proof.Machine
end

