-- ==== Sys2Proof/Machine/Move.lean ====
section
/-! DEFINITION. MOVE: its checks and its rows (R71, R72, R75, R226). -/

namespace Sys2Proof.Machine

open Host

/-- SRC. -/
def mvSrc (d : BitVec 1024) : Nat := fld d 0x20 63 0
/-- DST. -/
def mvDst (d : BitVec 1024) : Nat := fld d 0x28 63 0
/-- ROW_BYTES. -/
def mvBytes (d : BitVec 1024) : Nat := w32 d 0x30
/-- ROWS. -/
def mvRows (d : BitVec 1024) : Nat := w32 d 0x34
/-- SRC_STRIDE. -/
def mvSrcLd (d : BitVec 1024) : Nat := w32 d 0x38
/-- DST_STRIDE. -/
def mvDstLd (d : BitVec 1024) : Nat := w32 d 0x3C
/-- BALE. -/
def mvBale (d : BitVec 1024) : Nat := fld d 0x40 1 0

/-- The plot whose scratchpad stride holds a T0 address. -/
def t0Plot (a : Nat) : PlotIx := Fin.ofNat 128 (a / bedStride)

/-- An address lies in the scratchpad of plot p. -/
def ownT0 (s : State) (p : PlotIx) (a : Nat) : Bool := tierOf s a == .t0 && a / bedStride == p.val

/-- What FAULT_ADDR shows for an address: a scratchpad offset in the plot's own scratchpad, else the low address word. -/
def faultWord (s : State) (p : PlotIx) (a : Nat) : Nat := if ownT0 s p a then a % bedStride else a % 2 ^ 32

/-- Where a region of rows faults: a row outside one tier, one scratchpad or the partition's ranges, or on a retired bank
(R59, R72, R85). -/
def regionFault (s : State) (q : PartIx) (a rows bytes ld : Nat) : Option Nat :=
  match (List.range rows).find? fun r => !rangeOk s q (a + r * ld) bytes with
  | some r => some (a + r * ld)
  | none =>
    if !regionOk s q a rows bytes ld then some (a + (rows - 1) * ld)
    else if tierOf s a = .t0 then
      (extFault (s.plot (t0Plot a)) { off := a % bedStride, rows := rows, ld := ld, len := bytes }).map (· + a / bedStride * bedStride)
    else none

/-- The address fault of a MOVE before any transfer. -/
def mvFault (p : PlotIx) (d : BitVec 1024) (s : State) : Option (Nat × Nat) :=
  match plotPart (s.plot p) with
  | none => some (stAddrFault, faultWord s p (mvSrc d))
  | some q =>
    if !ownT0 s p (mvSrc d) && !ownT0 s p (mvDst d) then some (stAddrFault, faultWord s p (mvSrc d))
    else
      match regionFault s q (mvSrc d) (mvRows d) (mvBytes d) (mvSrcLd d) with
      | some a => some (stAddrFault, faultWord s p a)
      | none => (regionFault s q (mvDst d) (mvRows d) (mvBytes d) (mvDstLd d)).map fun a => (stAddrFault, faultWord s p a)

/-- Steps 6 and 7 for MOVE. -/
def checkMove (p : PlotIx) (d : BitVec 1024) (s : State) : Option (Nat × Nat) :=
  let ts := tierOf s (mvSrc d)
  let td := tierOf s (mvDst d)
  let baleOff (t : Tier) (a ld : Nat) : Bool := t == .t3 && (a % 256 != 0 || ld % 256 != 0)
  checkAll
    [ (fld d 0x40 31 3 != 0 || bytesSet d 0x44 0x80, stIllegal),
      (mvBale d ≠ 0 && !(ts == .t3 && td == .t0 || ts == .t0 && td == .t3), stIllegal),
      (mvBytes d = 0 || mvBytes d > 16777216 || mvRows d = 0 || mvRows d > 16777216, stDim),
      (off64 (mvSrc d) || off64 (mvDst d) || off64 (mvSrcLd d) || off64 (mvDstLd d) || off64 (mvBytes d), stAlign),
      (mvBale d ≠ 0 && (mvBytes d % 256 != 0 || baleOff ts (mvSrc d) (mvSrcLd d) || baleOff td (mvDst d) (mvDstLd d)), stAlign) ]
    (mvFault p d s)

/-- Step 8 of MOVE. CYCLES holds the cycle part of R79 and, between tiers, one load-to-use latency: a free value. -/
def startMove (p : PlotIx) (d : BitVec 1024) (s : State) : State :=
  let s1 := beginRun p .move d (mvRows d) (40 + cdiv (mvBytes d * mvRows d) 256) s
  if ownT0 s p (mvSrc d) && ownT0 s p (mvDst d) then s1
  else
    let s2 := onRun p .move (fun r => { r with cycles := r.cycles + Config.moveLatency s.fresh }) s1
    { s2 with fresh := s2.fresh + 1 }

/-- MOVE: the command leaves its waits and starts. -/
def execMove (p : PlotIx) (s : State) : Out :=
  .next (leaveWaits p .move (· = 0x09) (fun d => checkMove p d) (startMove p) s)

/-- A retired bank under one row of a T0 end. -/
def rowRetired (s : State) (a n : Nat) : Option Nat :=
  if tierOf s a = .t0 then
    (extFault (s.plot (t0Plot a)) (extFlat (a % bedStride) n)).map (· + a / bedStride * bedStride)
  else none

/-- Write one row; a scratchpad written by a command other than ATTN loses its ring tags (R166). -/
def writeRow (p : PlotIx) (q : PartIx) (d : BitVec 1024) (a : Nat) (bs : List Byte) (s : State) : State × Option Nat :=
  let (s1, e) := routedWrite q (mirrorBed s (bedOf p) (mvBale d)) a (mvBale d) (hEpoch d) bs s
  (if tierOf s a = .t0 then clearTags (t0Plot a) s1 else s1, e)

/-- The next row of the running MOVE: none where it must wait for the directory or a MOVING bit. -/
def moveRow (p : PlotIx) (errs : ReadErrs) (flips : Flips) (r : Run) (s : State) : Option State :=
  let d := r.desc
  let a := mvSrc d + r.done * mvSrcLd d
  let b := mvDst d + r.done * mvDstLd d
  let n := mvBytes d
  let bed := mirrorBed s (bedOf p) (mvBale d)
  match plotPart (s.plot p) with
  | none => some (endRun p .move r stAddrFault (faultWord s p a) s)
  | some q =>
    if !accessReady s q bed a n false || !accessReady s q bed b n true then none
    else match rowRetired s a n <|> rowRetired s b n with
      | some x => some (endRun p .move r stAddrFault (faultWord s p x) s)
      | none =>
        match applyErrs p errs s with
        | (s1, some o) => some (endRun p .move r stSpUncorr o s1)
        | (s1, none) =>
          match routedRead q bed a n (mvBale d) flips s1 with
          | (s2, .error e) => some (endRun p .move r e (faultWord s p a) s2)
          | (s2, .ok bs) =>
            match writeRow p q d b bs s2 with
            | (s3, some e) => some (endRun p .move r e (faultWord s p b) s3)
            | (s3, none) => some (onRun p .move (fun x => { x with done := x.done + 1 }) s3)

/-- MOVE_ROW_COMPLETE: a row of the running MOVE is transferred; a flush stops the command after it (R78). -/
def execMoveRowComplete (p : PlotIx) (errs : ReadErrs) (flips : Flips) (s : State) : Out :=
  .next (match (s.plot p).move.run with
    | none => s
    | some r =>
      if holdActive s || hOp r.desc ≠ 0x09 || r.total ≤ r.done then s
      else match moveRow p errs flips r s with
        | none => s
        | some s1 =>
          match (s1.plot p).move.run with
          | none => s1
          | some r1 => if (s1.plot p).flushing && r1.done < r1.total then endRun p .move r1 stFlushed 0 s1 else s1)

end Sys2Proof.Machine
end

