-- ==== Sys2Proof/Machine/Walker.lean ====
section
/-! DEFINITION. The page walker and the ATTN streamer: page tables, missing pages, the descriptor queue, the page ring,
and the Almanac's page entries (R161 to R168, R173). -/

namespace Sys2Proof.Machine

open Host

/-! ### Reading page tables -/

/-- Bytes of T2 or T3 as they stand, corrected data included, without counting anything. -/
def peek (s : State) (q : PartIx) (a n : Nat) : List Byte :=
  if tierOf s a = .t3 then
    tabRead 0 s.mem.t3 (bitsOf (xltEntry s q ((a - t3Base) / pageBytes)).toNat 23 0 * pageBytes + a % pageBytes) n
  else ramRead s a n

/-- An 8-byte table entry. -/
def tableEntry (s : State) (q : PartIx) (a : Nat) : Nat := natOf (peek s q a 8)

/-- An address of a page table that the partition may reach: T2 or T3 within its ranges (R161). -/
def tableOkAt (s : State) (q : PartIx) (a n : Nat) : Bool := (tierOf s a == .t2 || tierOf s a == .t3) && rangeOk s q a n

/-- Where the entry of page index e stands: the root entry's address, its validity, the leaf's address and the entry's. -/
structure EntryAt where
  root : Nat
  valid : Bool
  leaf : Nat
  entry : Nat
deriving DecidableEq, Repr

/-- The place of entry e of a table (R161). -/
def entryAt (s : State) (q : PartIx) (table e : Nat) : EntryAt :=
  let r := table + 8 * (e / 512)
  let v := if tableOkAt s q r 8 then tableEntry s q r else 0
  let leaf := bitsOf v 47 12 * 4096
  { root := r, valid := bitsOf v 0 0 == 1, leaf := leaf, entry := leaf + 8 * (e % 512) }

/-- The running ATTN of a plot that takes its descriptors from the walker, with its partition. -/
def walkedRun (s : State) (p : PlotIx) : Option (PartIx × Run) :=
  match (s.plot p).compute.run, plotPart (s.plot p) with
  | some r, some q => if hOp r.desc = 0x08 && !aStatic r.desc then some (q, r) else none
  | _, _ => none

/-- The page that a walk has reached, with whether it is the last, and its entry index. -/
def walkPage (s : State) (p : PlotIx) (r : Run) : Option (PageRef × Bool × Nat) :=
  let k := attnPattern s p r.desc
  let ps := attnPages r.desc k
  let i := (s.plot p).walk.pos
  (ps[i]?).map fun g => (g, i + 1 == ps.length, entryIndex k (aSlices r.desc) g)

/-- Change the walk of a plot. -/
def onWalk (p : PlotIx) (f : Walk → Walk) (s : State) : State := s.onPlot p fun x => { x with walk := f x.walk }

/-- The walker emits a descriptor, which waits for room in the streamer's queue. -/
def emitDesc (p : PlotIx) (d : BitVec 128) (s : State) : State :=
  let s1 := { s with alm := { s.alm with
    walkDesc := satAdd s.alm.walkDesc 1
    walkHole := if pdHole d then satAdd s.alm.walkHole 1 else s.alm.walkHole } }
  onWalk p (fun w => { w with wait := .room d }) s1

/-- A missing page: a HOLE, or the failure of the command (R165). -/
def missingPage (p : PlotIx) (r : Run) (g : PageRef) (last : Bool) (e : Nat) (s : State) : State :=
  if aMiss r.desc then emitDesc p (pageDesc g 0 true last 0) s
  else
    let s1 := { s with alm := { s.alm with walkFault := satAdd s.alm.walkFault 1 } }
    endRun p .compute r stAddrFault (0x80000000 + e) s1

/-- Act on a leaf entry that the walker has read. -/
def actOnEntry (p : PlotIx) (r : Run) (g : PageRef) (last : Bool) (e v : Nat) (s : State) : State :=
  match bitsOf v 1 0 with
  | 1 => emitDesc p (pageDesc g (bitsOf v 47 16 * pageBytes) false last (bitsOf v 63 48)) s
  | 2 =>
    (match (s.plot p).walk.wait with
      | .writing _ => s
      | _ => onWalk p (fun w => { w with wait := .writing s.time }) s)
  | _ => missingPage p r g last e s

/-- A gardener core is in service. -/
def coreServes (s : State) (c : CoreIx) : Bool := !(s.core c).restarting && !(s.core c).held

/-- Key of a leaf in a core's cache. -/
def leafKey (q : PartIx) (leaf : Nat) : Nat := q.val * 2 ^ 48 + leaf

/-- A leaf becomes the most recently used of the 32 that a core caches (R164). -/
def touchLeaf (c : CoreIx) (k : Nat) (s : State) : State :=
  { s with alm := { s.alm with leaves := s.alm.leaves.set c.val ((k :: (s.alm.leaves[c]).filter (· ≠ k)).take 32) c.isLt } }

/-- PAGE_WALK: the walker takes the next page of the command. -/
def execPageWalk (p : PlotIx) (c : CoreIx) (s : State) : Out :=
  .next (match walkedRun s p with
    | none => s
    | some (q, r) =>
      match walkPage s p r with
      | none => s
      | some (g, last, e) =>
        if !coreServes s c || (s.plot p).walk.wait ≠ .none then s
        else
          let at_ := entryAt s q (aTable r.desc) e
          if !tableOkAt s q at_.root 8 then endRun p .compute r stAddrFault (faultWord s p at_.root) s
          else if !at_.valid then missingPage p r g last e s
          else if !tableOkAt s q at_.leaf 4096 then endRun p .compute r stAddrFault (faultWord s p at_.leaf) s
          else if (s.alm.leaves[c]).contains (leafKey q at_.leaf) then
            actOnEntry p r g last e (tableEntry s q at_.entry) (touchLeaf c (leafKey q at_.leaf) s)
          else onWalk p (fun w => { w with wait := .leaf at_.leaf }) s)

/-- LEAF_FETCH_COMPLETE: the leaf that the walk waits for arrives, and the core caches it. The walker is an external agent
to mirrors (R226). -/
def execLeafFetchComplete (p : PlotIx) (c : CoreIx) (s : State) : Out :=
  .next (match walkedRun s p, (s.plot p).walk.wait with
    | some (q, r), .leaf a =>
      if !coreServes s c || !accessReady s q none a 4096 false then s
      else match routedRead q none a 4096 0 [] s with
        | (s1, .error e) => endRun p .compute r e (faultWord s p a) s1
        | (s1, .ok _) => onWalk p (fun w => { w with wait := .none }) (touchLeaf c (leafKey q a) s1)
    | _, _ => s)

/-- WRITING_ENTRY_REREAD: a WRITING entry is read again, at intervals of 1 µs. -/
def execWritingEntryReread (p : PlotIx) (s : State) : Out :=
  .next (match walkedRun s p, (s.plot p).walk.wait with
    | some (q, r), .writing since =>
      (match walkPage s p r with
        | none => s
        | some (g, last, e) =>
          if (s.time - since).toNat < 1000 then s
          else
            let at_ := entryAt s q (aTable r.desc) e
            if at_.valid then actOnEntry p r g last e (tableEntry s q at_.entry) s else missingPage p r g last e s)
    | _, _ => s)

/-- MISS_WAIT in µs. -/
def aMissWait (d : BitVec 1024) : Nat := fld d 0x5C 15 0

/-- MISS_WAIT_EXPIRE: the wait on a WRITING entry has lasted MISS_WAIT, and the page is missing. -/
def execMissWaitExpire (p : PlotIx) (s : State) : Out :=
  .next (match walkedRun s p, (s.plot p).walk.wait with
    | some (_, r), .writing since =>
      (match walkPage s p r with
        | none => s
        | some (g, last, e) =>
          if (s.time - since).toNat < 1000 * aMissWait r.desc then s
          else missingPage p r g last e { s with alm := { s.alm with walkWait := satAdd s.alm.walkWait 1 } })
    | _, _ => s)

/-- DESCRIPTOR_ENQUEUE: the emitted descriptor enters the queue of 256 once it has room. -/
def execDescriptorEnqueue (p : PlotIx) (s : State) : Out :=
  .next (match (s.plot p).walk.wait with
    | .room d =>
      if 256 ≤ (s.plot p).walk.queue.length then s
      else onWalk p (fun w => { w with queue := w.queue ++ [d], pos := w.pos + 1, wait := .none }) s
    | _ => s)

/-! ### The page ring (R166) -/

/-- The tag of a page descriptor. -/
def pdTag (d : BitVec 128) : DWord × BitVec 16 := (pdFrame d, pdGen d)

/-- A ring slot becomes the most recently used. -/
def touchSlot (k : Nat) (g : PageRing) : PageRing := { g with order := g.order.filter (· ≠ k) ++ [k] }

/-- The least recently used slot that holds no page of the descriptors fetched and not yet used. -/
def ringVictim (x : Plot) : Option Nat :=
  let pinned := ((x.walk.queue.take x.walk.fetched).filter fun d => !pdHole d).map pdTag
  x.ring.order.find? fun k =>
    match x.ring.slots.getD k none with
    | some t => !pinned.contains t
    | none => true

/-- One more descriptor of the queue has its page. -/
def oneFetched (p : PlotIx) (s : State) : State := onWalk p (fun w => { w with fetched := w.fetched + 1 }) s

/-- A fetched page is written into a ring slot and tagged. -/
def storePage (p : PlotIx) (r : Run) (k : Nat) (d : BitVec 128) (bs : List Byte) (s : State) : State :=
  let s1 := t0Write p (w32 r.desc 0x30 + k * pageBytes) bs s
  oneFetched p (s1.onPlot p fun x => { x with ring := touchSlot k { x.ring with slots := x.ring.slots.set k (some (pdTag d)) } })

/-- The fetch of a page that the ring does not hold. -/
def fetchPage (p : PlotIx) (q : PartIx) (r : Run) (d : BitVec 128) (flips : Flips) (s : State) : State :=
  let a := (pdFrame d).toNat
  let bed := mirrorBed s (bedOf p) 0
  match ringVictim (s.plot p) with
  | none => s
  | some k =>
    if a % pageBytes ≠ 0 then endRun p .compute r stAlign (faultWord s p a) s
    else if !rangeOk s q a pageBytes then endRun p .compute r stAddrFault (faultWord s p a) s
    else if !accessReady s q bed a pageBytes false then s
    else match extFault (s.plot p) (extFlat (w32 r.desc 0x30 + k * pageBytes) pageBytes) with
      | some o => endRun p .compute r stAddrFault o s
      | none =>
        match routedRead q bed a pageBytes 0 flips s with
        | (s1, .error e) => endRun p .compute r e (faultWord s p a) s1
        | (s1, .ok bs) => storePage p r k d bs s1

/-- PAGE_FETCH_COMPLETE: the streamer has the page of the next descriptor: a hole, a page in the ring, or one fetched. -/
def execPageFetchComplete (p : PlotIx) (flips : Flips) (s : State) : Out :=
  let x := s.plot p
  .next (match x.compute.run, plotPart x, x.walk.queue[x.walk.fetched]? with
    | some r, some q, some d =>
      if hOp r.desc ≠ 0x08 || holdActive s then s
      else if pdHole d then oneFetched p s
      else if x.ring.slots.contains (some (pdTag d)) then
        oneFetched p (s.onPlot p fun y => { y with ring := touchSlot (ringSlot y (pdTag d)) y.ring })
      else fetchPage p q r d flips s
    | _, _, _ => s)

/-! ### Page entries and sequences (R167, R168) -/

/-- The Almanac writes bytes of a page table under the partition epoch. -/
def tableWrite (q : PartIx) (a : Nat) (bs : List Byte) (s : State) : State := (devWrite q a 0 0xFFFFFFFF bs s).1

/-- PAGE_ENTRY_WRITING: the entry is written WRITING with the frame's GEN advanced, before the frame is filled. `frame` is
bits [47:16] of its address. -/
def execPageEntryWriting (q : PartIx) (entry : DWord) (frame : Word) (s : State) : Out :=
  let a := entry.toNat
  .next (if a % 8 ≠ 0 || !tableOkAt s q a 8 || !accessReady s q none a 8 true then s
    else
      let g := tabGet 0 (s.part q).gens frame.toNat + 1
      let s1 := s.onPart q fun x => { x with gens := tabSet 0 x.gens frame.toNat g }
      tableWrite q a (bytesOf 8 (2 + frame.toNat * 2 ^ 16 + g.toNat * 2 ^ 48)) s1)

/-- PAGE_ENTRY_PRESENT: the filling MOVE has completed, and the WRITING entry becomes PRESENT. -/
def execPageEntryPresent (q : PartIx) (entry : DWord) (s : State) : Out :=
  let a := entry.toNat
  .next (if a % 8 ≠ 0 || !tableOkAt s q a 8 || !accessReady s q none a 8 true then s
    else
      let v := tableEntry s q a
      if bitsOf v 1 0 ≠ 2 then s else tableWrite q a (bytesOf 8 (setBits v 1 0 1)) s)

/-- A command is an ATTN over a table. -/
def usesTable (root : Nat) (d : BitVec 1024) : Bool := hOp d = 0x08 && !aStatic d && aTable d = root

/-- Some plot of a partition queues or runs an ATTN over a table. -/
def tableInUse (s : State) (q : PartIx) (root : Nat) : Bool :=
  (plotsOf s q).any fun p =>
    let l := (s.plot p).compute
    l.queue.any (usesTable root) || l.held.any (usesTable root) || l.run.any fun r => usesTable root r.desc

/-- Every entry of a leaf becomes FREED; FRAME and GEN stay (R168). -/
def freeLeaf (q : PartIx) (leaf : Nat) (s : State) : State :=
  if tableOkAt s q leaf 4096 && accessReady s q none leaf 4096 true then
    tableWrite q leaf ((List.range 512).flatMap fun i => bytesOf 8 (setBits (tableEntry s q (leaf + 8 * i)) 1 0 3)) s
  else s

/-- SEQUENCE_RELEASE: once no ATTN of the sequence is left, every entry of its table becomes FREED. -/
def execSequenceRelease (q : PartIx) (root : DWord) (s : State) : Out :=
  let t := root.toNat
  .next (if tableInUse s q t || t % 8192 ≠ 0 || !tableOkAt s q t 8192 then s
    else (List.range 1024).foldl (fun s i =>
      let e := entryAt s q t (512 * i)
      if e.valid then freeLeaf q e.leaf s else s) s)

end Sys2Proof.Machine
end

