-- ==== Sys2Proof/Machine/Conv.lean ====
section
/-! DEFINITION. CONV: layouts, checks, direct convolution, the frequency-domain path, pooling, resampling, halo waits and
halo tags (R174 to R195). -/

namespace Sys2Proof.Machine

open Host

/-! ### Fields (R174) -/

/-- COP. -/
def cCop (d : BitVec 1024) : Nat := fld d 0x34 3 0
/-- LAYOUT. -/
def cLay (d : BitVec 1024) : Nat := fld d 0x34 5 4
/-- X_FMT. -/
def cXF (d : BitVec 1024) : Nat := fld d 0x34 9 6
/-- W_FMT. -/
def cWF (d : BitVec 1024) : Nat := fld d 0x34 13 10
/-- Y_FMT. -/
def cYF (d : BitVec 1024) : Nat := fld d 0x34 17 14
/-- ROUND. -/
def cRound (d : BitVec 1024) : Bool := flag d 0x34 18
/-- SAT. -/
def cSat (d : BitVec 1024) : Bool := flag d 0x34 19
/-- SEED_MODE. -/
def cSeed (d : BitVec 1024) : Nat := fld d 0x34 21 20
/-- PAD_MODE: replicate. -/
def cRep (d : BitVec 1024) : Bool := flag d 0x34 22
/-- SUB. -/
def cSub (d : BitVec 1024) : Nat := fld d 0x34 25 23
/-- C_IN. -/
def cIn (d : BitVec 1024) : Nat := fld d 0x38 15 0
/-- C_OUT. -/
def cOut (d : BitVec 1024) : Nat := fld d 0x38 31 16
/-- GROUPS. -/
def cGr (d : BitVec 1024) : Nat := fld d 0x3C 15 0
/-- KH. -/
def cKH (d : BitVec 1024) : Nat := fld d 0x3C 23 16
/-- KW. -/
def cKW (d : BitVec 1024) : Nat := fld d 0x3C 31 24
/-- KD. -/
def cKD (d : BitVec 1024) : Nat := fld d 0x40 29 27
/-- OW. -/
def cOW (d : BitVec 1024) : Nat := fld d 0x48 31 16
/-- OD. -/
def cOD (d : BitVec 1024) : Nat := fld d 0x4C 15 0
/-- OH. -/
def cOH (d : BitVec 1024) : Nat := fld d 0x4C 31 16
/-- XD. -/
def cXD (d : BitVec 1024) : Nat := fld d 0x58 15 0
/-- XH. -/
def cXH (d : BitVec 1024) : Nat := fld d 0x58 31 16
/-- Y_ADDR. -/
def cY (d : BitVec 1024) : Nat := fld d 0x28 63 0
/-- HALO_EN. -/
def cHalo (d : BitVec 1024) : Bool := flag d 0x74 24
/-- H_ADDR. -/
def cHaloAt (d : BitVec 1024) : Nat := fld d 0x74 23 0

/-- One axis of a CONV: input map extent, first position held, positions held, filter extent, stride, leading pad, log2 of
the resample factor, first output coordinate and outputs. -/
structure CAxis where
  map : Nat
  held0 : Nat
  held : Nat
  k : Nat
  stride : Nat
  pad : Nat
  r : Nat
  out0 : Nat
  out : Nat
deriving DecidableEq, Repr

/-- The frame axis. -/
def axD (d : BitVec 1024) : CAxis :=
  { map := fld d 0x44 15 0, held0 := fld d 0x54 15 0, held := cXD d, k := cKD d, stride := fld d 0x40 1 0 + 1,
    pad := fld d 0x40 8 6, r := fld d 0x40 22 21, out0 := fld d 0x50 15 0, out := cOD d }
/-- The row axis. -/
def axH (d : BitVec 1024) : CAxis :=
  { map := fld d 0x44 31 16, held0 := fld d 0x54 31 16, held := cXH d, k := cKH d, stride := fld d 0x40 3 2 + 1,
    pad := fld d 0x40 14 9, r := fld d 0x40 24 23, out0 := fld d 0x50 31 16, out := cOH d }
/-- The column axis: rows are held at full width. -/
def axW (d : BitVec 1024) : CAxis :=
  { map := fld d 0x48 15 0, held0 := 0, held := fld d 0x48 15 0, k := cKW d, stride := fld d 0x40 5 4 + 1,
    pad := fld d 0x40 20 15, r := fld d 0x40 26 25, out0 := 0, out := cOW d }

/-- Bytes of an element. -/
def eltBytes (fmt : Nat) : Nat := fmtBits fmt / 8

/-! ### Layouts (R176, R177) -/

/-- Strides of a tensor with its channel count, its element bytes and its layout. -/
structure Tensor where
  lay : Nat
  ch : Nat
  eb : Nat
  hs : Nat
  ds : Nat
  cs : Nat
deriving DecidableEq, Repr

/-- The input tensor. -/
def tensX (d : BitVec 1024) : Tensor :=
  { lay := cLay d, ch := cIn d, eb := eltBytes (cXF d), hs := w32 d 0x5C, ds := w32 d 0x60, cs := w32 d 0x64 }
/-- The output tensor; the seed has its layout and strides with elements of its own. -/
def tensY (d : BitVec 1024) (eb : Nat) : Tensor :=
  { lay := cLay d, ch := cOut d, eb := eb, hs := w32 d 0x68, ds := w32 d 0x6C, cs := w32 d 0x70 }

/-- Byte offset of channel c at a position counted from the tensor's origin. -/
def tensAt (t : Tensor) (c d h w : Nat) : Nat :=
  match t.lay with
  | 0 => c * t.cs + d * t.ds + h * t.hs + w * t.eb
  | 1 => d * t.ds + h * t.hs + (w * t.ch + c) * t.eb
  | _ => c / 32 * t.cs + d * t.ds + h * t.hs + (w * 32 + c % 32) * t.eb

/-- Planes of a tensor: channels, one, or blocks of 32 channels. -/
def tensPlanes (t : Tensor) : Nat := if t.lay = 0 then t.ch else if t.lay = 1 then 1 else cdiv t.ch 32

/-- Bytes of one stored row of `w` positions. -/
def tensRow (t : Tensor) (w : Nat) : Nat := w * t.eb * (if t.lay = 0 then 1 else if t.lay = 1 then t.ch else 32)

/-- The stored rows of a tensor as (plane, frame, row). -/
def tensRows (t : Tensor) (nd nh : Nat) : List (Nat × Nat × Nat) :=
  (List.range (tensPlanes t)).flatMap fun c => (List.range nd).flatMap fun d => (List.range nh).map fun h => (c, d, h)

/-- Byte offset of a stored row. -/
def tensRowAt (t : Tensor) (r : Nat × Nat × Nat) : Nat := r.1 * t.cs + r.2.1 * t.ds + r.2.2 * t.hs

/-- A stride is off the grid or shorter than the extent it steps over. -/
def tensStrideBad (t : Tensor) (nd nh w : Nat) : Bool :=
  let row := tensRow t w
  let frame := (nh - 1) * t.hs + row
  let plane := (nd - 1) * t.ds + frame
  off64 t.hs || off64 t.ds || off64 t.cs || t.hs < row || t.ds < frame || (t.lay != 1 && t.cs < plane)

/-- Bytes that a tensor spans. -/
def tensSpan (t : Tensor) (nd nh w : Nat) : Nat :=
  (tensPlanes t - 1) * t.cs + (nd - 1) * t.ds + (nh - 1) * t.hs + tensRow t w

/-! ### Input positions -/

/-- The input coordinate of an output coordinate and tap on an axis, in the map or not (R178). -/
def tapCoord (a : CAxis) (o k : Nat) : Int := ((o * a.stride + k : Nat) : Int) - a.pad

/-- A coordinate lies in the map. -/
def inMap (a : CAxis) (x : Int) : Bool := decide (0 ≤ x) && decide (x < (a.map : Int))

/-- The nearest coordinate in the map. -/
def clampMap (a : CAxis) (x : Int) : Nat := min x.toNat (a.map - 1)

/-- A map coordinate is in the buffer. -/
def heldAt (a : CAxis) (x : Nat) : Bool := a.held0 ≤ x && x < a.held0 + a.held

/-- One stored element at map coordinates. -/
def xElem (s : State) (p : PlotIx) (d : BitVec 1024) (c zd zh zw : Nat) : XVal :=
  elemVal s p (cXF d) (w32 d 0x20 + tensAt (tensX d) c (zd - (axD d).held0) (zh - (axH d).held0) zw) 0

/-- The element that an input coordinate reads: the map, or a pad position (R178). -/
def xRead (s : State) (p : PlotIx) (d : BitVec 1024) (c : Nat) (zd zh zw : Int) : XVal :=
  if inMap (axD d) zd && inMap (axH d) zh && inMap (axW d) zw || cRep d then
    xElem s p d c (clampMap (axD d) zd) (clampMap (axH d) zh) (clampMap (axW d) zw)
  else xzero

/-- Input coordinates that an output coordinate of an axis reads, map positions only. -/
def axisReads (d : BitVec 1024) (a : CAxis) (o : Nat) : List Nat :=
  match cCop d with
  | 4 =>
    (match cSub d with
      | 1 => if a.r = 1 then [o / 2, if o % 2 = 0 then o / 2 - 1 else min (o / 2 + 1) (a.map - 1)] else [o]
      | 3 => (List.range (2 ^ a.r)).map fun k => o * 2 ^ a.r + k
      | _ => [o / 2 ^ a.r])
  | c =>
    let n := if c = 1 then 256 else a.k
    (List.range n).filterMap fun k =>
      let z := tapCoord a o k
      if inMap a z then some z.toNat else if cRep d then some (clampMap a z) else none

/-- The output coordinates of an axis whose reads are looked at: all, or the origins of the frequency tiles. -/
def axisOuts (d : BitVec 1024) (a : CAxis) : List Nat :=
  (List.range a.out).filterMap fun i => if cCop d ≠ 1 || i % (257 - a.k) = 0 then some (a.out0 + i) else none

/-- Some read position of an axis lies in the map and outside the buffer, or beyond the map where no pad exists. -/
def axisUnheld (d : BitVec 1024) (a : CAxis) : Bool := (axisOuts d a).any fun o => (axisReads d a o).any fun z => !heldAt a z

/-! ### Tiles -/

/-- Output positions of the command. -/
def cPositions (d : BitVec 1024) : Nat := cOD d * cOH d * cOW d

/-- Frequency tile rows per frame (R182). -/
def freqRows (d : BitVec 1024) : Nat := cdiv (cOH d) (257 - cKH d)
/-- Frequency tile columns per frame. -/
def freqCols (d : BitVec 1024) : Nat := cdiv (cOW d) (257 - cKW d)

/-- Stripe tiles of a command: position tiles times channel tiles (R179); for FREQ one frequency tile is one stripe tile,
and for SPEC one filter pair. -/
def convTiles (d : BitVec 1024) : Nat :=
  match cCop d with
  | 1 => cOD d * freqRows d * freqCols d
  | 2 => cOut d * cIn d
  | _ => cdiv (cPositions d) 256 * cdiv (cOut d) 256

/-- The position of an output index: (d, h, w) from the command's origin. -/
def posAt (d : BitVec 1024) (i : Nat) : Nat × Nat × Nat :=
  (i / (cOW d * cOH d), i / cOW d % cOH d, i % cOW d)

/-- Positions and channels of stripe tile t; channel tiles are inner. -/
def stripePos (d : BitVec 1024) (t : Nat) : List (Nat × Nat × Nat) :=
  let m := t / cdiv (cOut d) 256
  (List.range (min 256 (cPositions d - 256 * m))).map fun i => posAt d (256 * m + i)
/-- Output channels of stripe tile t. -/
def stripeCh (d : BitVec 1024) (t : Nat) : List Nat :=
  let n := t % cdiv (cOut d) 256
  (List.range (min 256 (cOut d - 256 * n))).map (256 * n + ·)

/-- Adjacent writes joined, in rising address order. -/
def joinWrites : List (Nat × List Byte) → List (Nat × List Byte)
  | [] => []
  | (a, bs) :: t =>
    match joinWrites t with
    | (b, cs) :: u => if a + bs.length = b then (a, bs ++ cs) :: u else (a, bs) :: (b, cs) :: u
    | [] => [(a, bs)]

/-- The device-address writes of a tile's codes: one row of codes per position. -/
def yWrites (d : BitVec 1024) (pos : List (Nat × Nat × Nat)) (ch : List Nat) (codes : List (List Nat)) : List (Nat × List Byte) :=
  let eb := eltBytes (cYF d)
  let t := tensY d eb
  let ws := (pos.zip codes).flatMap fun (e : (Nat × Nat × Nat) × List Nat) => (ch.zip e.2).map fun (f : Nat × Nat) =>
    (cY d + tensAt t f.1 e.1.1 e.1.2.1 e.1.2.2, bytesOf eb f.2)
  joinWrites (ws.mergeSort fun a b => a.1 ≤ b.1)

/-! ### DIRECT (R178 to R180) -/

/-- Input channels of a group. -/
def cInG (d : BitVec 1024) : Nat := cIn d / cGr d
/-- Output channels of a group. -/
def cOutG (d : BitVec 1024) : Nat := cOut d / cGr d
/-- Taps of the filter. -/
def cTaps (d : BitVec 1024) : Nat := cKD d * cKH d * cKW d
/-- Reduction length of a group. -/
def cKg (d : BitVec 1024) : Nat := cTaps d * cInG d
/-- The integer pairing. -/
def cInt (d : BitVec 1024) : Bool := intPair (cXF d) (cWF d)

/-- Tap number as (kd, kh, kw). -/
def tapAt (d : BitVec 1024) (t : Nat) : Nat × Nat × Nat := (t / (cKH d * cKW d), t / cKW d % cKH d, t % cKW d)

/-- The reduction row of a position in a group. -/
def patchRow (s : State) (p : PlotIx) (d : BitVec 1024) (g : Nat) (pos : Nat × Nat × Nat) : List XVal :=
  (List.range (cTaps d)).flatMap fun t =>
    let k := tapAt d t
    let zd := tapCoord (axD d) ((axD d).out0 + pos.1) k.1
    let zh := tapCoord (axH d) ((axH d).out0 + pos.2.1) k.2.1
    let zw := tapCoord (axW d) pos.2.2 k.2.2
    (List.range (cInG d)).map fun c => xRead s p d (g * cInG d + c) zd zh zw

/-- The filter row of an output channel. -/
def filterRow (s : State) (p : PlotIx) (d : BitVec 1024) (o : Nat) : List XVal :=
  rowVals s p (cWF d) (w32 d 0x24) (o * cKg d) (cKg d)

/-- Where the seed of an output element lies. -/
def seedAt (d : BitVec 1024) (pos : Nat × Nat × Nat) (o : Nat) : Nat :=
  w32 d 0x30 + tensAt (tensY d (if cSeed d = 2 then 8 else 4)) o pos.1 pos.2.1 pos.2.2

/-- The seed pair of an output element. -/
def convSeed (s : State) (p : PlotIx) (d : BitVec 1024) (pos : Nat × Nat × Nat) (o : Nat) : Pair :=
  match cSeed d with
  | 1 => { h := elemVal s p 0x6 (seedAt d pos o) 0, c := xzero }
  | 2 => (pairVals s p (seedAt d pos o) 0 1).headD pairZero
  | _ => pairZero

/-- The INT32 seed of an output element. -/
def convSeedInt (s : State) (p : PlotIx) (d : BitVec 1024) (pos : Nat × Nat × Nat) (o : Nat) : Int :=
  if cSeed d = 3 then (xrat (elemVal s p 0xD (seedAt d pos o) 0)).floor else 0

/-- Convert the rows of a tile, one row per position. -/
def convRows {α : Type} (conv : List Rnd → List α → RowOut) (rows : List (List α)) (rnds : List (List Rnd)) :
    List (List Nat) × Counts :=
  let os := (rows.zip rnds).map fun (e : List α × List Rnd) => conv e.2 e.1
  (os.map (·.codes), (os.map (·.ev)).foldl countsAdd countsZero)

/-- One run of a DIRECT stripe tile. -/
def directRun (s : State) (p : PlotIx) (d : BitVec 1024) (t : Nat) (g : Rng) : TileRun :=
  let pos := stripePos d t
  let ch := stripeCh d t
  let sp := rungSplit (rungOf (cXF d))
  let wb := ch.map fun o => (o / cOutG d, o, rowBlks sp 32 1 (plainRow (cWF d) (filterRow s p d o)))
  let gs := (ch.map (· / cOutG d)).dedup
  let xb := pos.map fun q => (q, gs.map fun gr => (gr, rowBlks sp 32 1 (plainRow (cXF d) (patchRow s p d gr q))))
  let row (x : (Nat × Nat × Nat) × List (Nat × List Blk)) (gr : Nat) : List Blk := (x.2.lookup gr).getD []
  let miss := missCount (wb.map (·.2.2)) + (xb.map fun (x : (Nat × Nat × Nat) × List (Nat × List Blk)) => missCount (x.2.map (·.2))).sum
  let (rnds, g1) := tileRnds (drawsBits (cYF d) (cRound d)) (pos.map fun _ => ch.length) g
  if cInt d then
    let accs := xb.map fun x => wb.map fun w => accInts (convSeedInt s p d x.1 w.2.1) (blockSums .plain (row x w.1) w.2.2)
    let o := convRows (convIntRow (cYF d) (cSat d) 1) (accs.map fun r => r.map (·.1)) rnds
    { writes := yWrites d pos ch o.1, ev := { o.2 with sat := o.2.sat + (accs.map fun r => (r.map (·.2)).sum).sum }, rng := g1 }
  else
    let accs := xb.map fun x => wb.map fun w => accPair (convSeed s p d x.1 w.2.1) (blockSums sp (row x w.1) w.2.2) none
    let o := convRows (convPairRow (cYF d) (cSat d) 1) (accs.map fun r => r.map (·.1)) rnds
    { writes := yWrites d pos ch o.1,
      ev := { o.2 with range := o.2.range + miss + (accs.map fun r => (r.map (·.2)).sum).sum }, rng := g1 }

/-! ### FREQ and SPEC (R182 to R184) -/

/-- cos(2πk/256) rounded to BF16. -/
def cosW (k : Nat) : XVal :=
  let m := k % 256
  let a := if m > 128 then 256 - m else m
  let b := if a > 64 then 128 - a else a
  let v : Rat := if b = 64 then 0 else if b = 0 then 1 else fxRat (fxCos (2 * fxPi * b / 256))
  toBf16 (xofRat (if a > 64 then -v else v))

/-- sin(2πk/256) rounded to BF16. -/
def sinW (k : Nat) : XVal := cosW (k + 192)

/-- A dot product of a BF16 split stage as an accumulated pair, with its underflows. -/
def splitDot (a b : List Blk) : Pair × Nat := accPair pairZero (blockSums .bf16 a b) none

/-- Blocks of a BF16 row for a split stage. -/
def splitBlks (vs : List XVal) : List Blk := rowBlks .bf16 32 1 (plainRow 0x5 vs)

/-- A matrix product of rows with rows, rounded to BF16 as stage 1 says, with its misses and underflows. -/
def stageMul (as bs : List (List XVal)) : List (List XVal) × Nat :=
  let ab := as.map splitBlks
  let bb := bs.map splitBlks
  let ds := ab.map fun a => bb.map fun b => splitDot a b
  (ds.map fun (r : List (Pair × Nat)) => r.map fun (e : Pair × Nat) => toBf16 (rne32 (pairSum e.1)),
    missCount ab + missCount bb + (ds.map fun (r : List (Pair × Nat)) => (r.map fun (e : Pair × Nat) => e.2).sum).sum)

/-- Columns of a matrix given by rows of `w` elements. -/
def colsAt (w : Nat) (m : List (List XVal)) : List (List XVal) := (List.range w).map fun j => m.map fun r => r.getD j xzero

/-- A complex matrix as real and imaginary rows. -/
structure CMat where
  re : List (List XVal)
  im : List (List XVal)
deriving DecidableEq, Repr

/-- Stages 1 and 2: the spectrum of a 256 × 256 region, rows v and columns u = 0 to 128. -/
def spectrumOf (x : List (List XVal)) : CMat × Nat :=
  let cw := (List.range 129).map fun u => (List.range 256).map fun n => cosW (u * n)
  let sw := (List.range 129).map fun u => (List.range 256).map fun n => sinW (u * n)
  let (r, n1) := stageMul x cw
  let (i, n2) := stageMul (x.map fun row => row.map xneg) sw
  let cs := (List.range 256).map fun v => ((List.range 256).map fun h => cosW (v * h), (List.range 256).map fun h => sinW (v * h))
  let rc := colsAt 129 r
  let ic := colsAt 129 i
  let cols := (rc.zip ic).map fun (e : List XVal × List XVal) => e.1 ++ e.2
  let swapped := (ic.zip rc).map fun (e : List XVal × List XVal) => e.1 ++ e.2
  let (re, n3) := stageMul (cs.map fun (e : List XVal × List XVal) => e.1 ++ e.2) cols
  let (im, n4) := stageMul (cs.map fun (e : List XVal × List XVal) => e.1 ++ e.2.map xneg) swapped
  ({ re := re, im := im }, n1 + n2 + n3 + n4)

/-- A stored spectrum. -/
def storedSpectrum (s : State) (p : PlotIx) (at_ : Nat) : CMat :=
  { re := (List.range 256).map fun v => rowVals s p 0x5 (at_ + 258 * v) 0 129,
    im := (List.range 256).map fun v => rowVals s p 0x5 (at_ + 66048 + 258 * v) 0 129 }

/-- Stage 3 for one output channel: the exact complex products summed in ascending c, rounded once to BF16. -/
def spectralSum (xs ws : List CMat) : CMat :=
  let at_ (m : List (List XVal)) (v u : Nat) : XVal := (m.getD v []).getD u xzero
  let cell (f : CMat → CMat → Nat → Nat → List XVal) (v u : Nat) : XVal :=
    toBf16 (xsum ((xs.zip ws).flatMap fun (e : CMat × CMat) => f e.1 e.2 v u))
  let grid (f : CMat → CMat → Nat → Nat → List XVal) : List (List XVal) :=
    (List.range 256).map fun v => (List.range 129).map fun u => cell f v u
  { re := grid fun x w v u => [xmul (at_ x.re v u) (at_ w.re v u), xneg (xmul (at_ x.im v u) (at_ w.im v u))],
    im := grid fun x w v u => [xmul (at_ x.re v u) (at_ w.im v u), xmul (at_ x.im v u) (at_ w.re v u)] }

/-- Stages 4 and 5 for one output channel: the exact pair results of rows h and columns w, before the scale 2^-16. -/
def inverseOf (z : CMat) (rows cols : Nat) : List (List Pair) × Nat :=
  let zr := colsAt 129 z.re
  let zi := colsAt 129 z.im
  let zc := (zr.zip zi).map fun (e : List XVal × List XVal) => e.1 ++ e.2
  let ms := (List.range rows).map fun h => ((List.range 256).map fun v => cosW (v * h), (List.range 256).map fun v => sinW (v * h))
  let (re, n1) := stageMul (ms.map fun (e : List XVal × List XVal) => e.1 ++ e.2.map xneg) zc
  let (im, n2) := stageMul (ms.map fun (e : List XVal × List XVal) => e.2 ++ e.1) zc
  let two (u : Nat) (v : XVal) : XVal := if u = 0 || u = 128 then v else xscale 2 v
  let bs := (List.range cols).map fun w =>
    splitBlks (((List.range 129).map fun u => two u (cosW (u * w))) ++ (List.range 129).map fun u => xneg (two u (sinW (u * w))))
  let as := ((re.zip im).map fun (e : List XVal × List XVal) => e.1 ++ e.2).map splitBlks
  let ds := as.map fun a => bs.map fun b => splitDot a b
  (ds.map fun (r : List (Pair × Nat)) => r.map fun (e : Pair × Nat) => e.1,
    n1 + n2 + missCount as + missCount bs + (ds.map fun (r : List (Pair × Nat)) => (r.map fun (e : Pair × Nat) => e.2).sum).sum)

/-- The 256 × 256 input region of a channel from a map position (R182). -/
def freqRegion (s : State) (p : PlotIx) (d : BitVec 1024) (c od oh ow : Nat) : List (List XVal) :=
  (List.range 256).map fun i => (List.range 256).map fun j =>
    xRead s p d c (tapCoord (axD d) od 0) (tapCoord (axH d) oh i) (tapCoord (axW d) ow j)

/-- One run of frequency tile t. -/
def freqRun (s : State) (p : PlotIx) (d : BitVec 1024) (t : Nat) (g : Rng) : TileRun :=
  let per := freqRows d * freqCols d
  let fd := t / per
  let h0 := t % per / freqCols d * (257 - cKH d)
  let w0 := t % freqCols d * (257 - cKW d)
  let rows := min (257 - cKH d) (cOH d - h0)
  let cols := min (257 - cKW d) (cOW d - w0)
  let xs := (List.range (cIn d)).map fun c => spectrumOf (freqRegion s p d c ((axD d).out0 + fd) ((axH d).out0 + h0) w0)
  let ys := (List.range (cOut d)).map fun o =>
    inverseOf (spectralSum (xs.map (·.1)) ((List.range (cIn d)).map fun c => storedSpectrum s p (w32 d 0x24 + (o * cIn d + c) * 132096))) rows cols
  let pos := (List.range rows).flatMap fun h => (List.range cols).map fun w => (fd, h0 + h, w0 + w)
  let ch := List.range (cOut d)
  let vals := pos.map fun q => (ch.zip ys).map fun (e : Nat × List (List Pair) × Nat) =>
    let y := (e.2.1.getD (q.2.1 - h0) []).getD (q.2.2 - w0) pairZero
    let z := convSeed s p d q e.1
    xadd (xscale (pow2 (-16)) (xadd y.h y.c)) (xadd z.h z.c)
  let (rnds, g1) := tileRnds (cRound d) (pos.map fun _ => ch.length) g
  let o := convRows (convRow (cYF d) (cSat d)) vals rnds
  let low := (xs.map (·.2)).sum + (ys.map (·.2)).sum
  { writes := yWrites d pos ch o.1, ev := { o.2 with range := o.2.range + low }, rng := g1 }

/-- One run of SPEC for filter pair t: the filter lies at X_ADDR in the order [o][tap][c]. -/
def specRun (s : State) (p : PlotIx) (d : BitVec 1024) (t : Nat) (g : Rng) : TileRun :=
  let o := t / cIn d
  let c := t % cIn d
  let tap (h w : Nat) : XVal :=
    if h < cKH d && w < cKW d then elemVal s p (cXF d) (w32 d 0x20) ((o * cTaps d + h * cKW d + w) * cIn d + c) else xzero
  let (m, low) := spectrumOf ((List.range 256).map fun h => (List.range 256).map fun w => tap h w)
  let code (v : XVal) : List Byte := bytesOf 2 (convTo 0x5 false .rne v).code
  let bs := m.re.flatMap (fun r => r.flatMap code) ++ m.im.flatMap fun r => r.flatMap fun v => code (xneg v)
  { writes := [(t0Addr p (w32 d 0x24 + t * 132096), bs)], ev := { countsZero with range := low }, rng := g }

/-! ### POOL and RESAMPLE (R186, R187) -/

/-- The exact result of POOL at an output position; none where the spec states no result, for a window without any
position in the map. -/
def poolVal (s : State) (p : PlotIx) (d : BitVec 1024) (pos : Nat × Nat × Nat) (c : Nat) : Option XVal :=
  let zs := (List.range (cTaps d)).map fun t =>
    let k := tapAt d t
    (tapCoord (axD d) ((axD d).out0 + pos.1) k.1, tapCoord (axH d) ((axH d).out0 + pos.2.1) k.2.1, tapCoord (axW d) pos.2.2 k.2.2)
  let ins := zs.filter fun z => inMap (axD d) z.1 && inMap (axH d) z.2.1 && inMap (axW d) z.2.2
  let val (z : Int × Int × Int) : XVal := xRead s p d c z.1 z.2.1 z.2.2
  if cSub d = 2 then some (xscale (1 / (cTaps d : Rat)) (xsum (zs.map val)))
  else match ins with
    | [] => none
    | z :: t => if cSub d = 0 then some (t.foldl (fun m y => xmax m (val y)) (val z)) else some (xscale (1 / (ins.length : Rat)) (xsum (ins.map val)))

/-- Positions and weights that LINEAR reads on an axis. -/
def linearTaps (a : CAxis) (o : Nat) : List (Nat × Rat) :=
  if a.r = 1 then [(o / 2, 3 / 4), (if o % 2 = 0 then o / 2 - 1 else min (o / 2 + 1) (a.map - 1), 1 / 4)] else [(o, 1)]

/-- The exact result of RESAMPLE at an output position. -/
def resampleVal (s : State) (p : PlotIx) (d : BitVec 1024) (pos : Nat × Nat × Nat) (c : Nat) : XVal :=
  let ad := axD d
  let ah := axH d
  let aw := axW d
  let od := ad.out0 + pos.1
  let oh := ah.out0 + pos.2.1
  let ow := pos.2.2
  let low (a : CAxis) (o : Nat) : Nat := o % 2 ^ a.r
  match cSub d with
  | 0 => xElem s p d c (od / 2 ^ ad.r) (oh / 2 ^ ah.r) (ow / 2 ^ aw.r)
  | 1 => xsum ((linearTaps ad od).flatMap fun x => (linearTaps ah oh).flatMap fun y => (linearTaps aw ow).map fun z =>
      xscale (x.2 * y.2 * z.2) (xElem s p d c x.1 y.1 z.1))
  | 2 => xElem s p d (c * 2 ^ (ad.r + ah.r + aw.r) + (low ad od * 2 ^ ah.r + low ah oh) * 2 ^ aw.r + low aw ow)
      (od / 2 ^ ad.r) (oh / 2 ^ ah.r) (ow / 2 ^ aw.r)
  | _ =>
    let n := 2 ^ (ad.r + ah.r + aw.r)
    let k := c % n
    xElem s p d (c / n) (od * 2 ^ ad.r + k / 2 ^ (ah.r + aw.r)) (oh * 2 ^ ah.r + k / 2 ^ aw.r % 2 ^ ah.r) (ow * 2 ^ aw.r + k % 2 ^ aw.r)

/-- The exact result of a vector-unit CONV. -/
def vectorVal (s : State) (p : PlotIx) (d : BitVec 1024) (pos : Nat × Nat × Nat) (c : Nat) : Option XVal :=
  if cCop d = 3 then poolVal s p d pos c else some (resampleVal s p d pos c)

/-- A code for a result that the spec does not state, from the free bytes. -/
def freeCode (fmt fresh i : Nat) : Conv :=
  let c := natOf ((List.range (eltBytes fmt)).map fun k => Config.freeByte (fresh + 8 * i + k))
  let v := decElem fmt c
  mkConv c false false (xisNan v || xisInf v)

/-- One run of a POOL or RESAMPLE stripe tile. -/
def vectorRun (s : State) (p : PlotIx) (d : BitVec 1024) (t : Nat) (g : Rng) : TileRun :=
  let pos := stripePos d t
  let ch := stripeCh d t
  let (rnds, g1) := tileRnds (cRound d) (pos.map fun _ => ch.length) g
  let rows := ((pos.zip rnds).zip (List.range pos.length)).map fun (e : ((Nat × Nat × Nat) × List Rnd) × Nat) =>
    ((ch.zip e.1.2).zip (List.range ch.length)).map fun (f : (Nat × Rnd) × Nat) =>
      match vectorVal s p d e.1.1 f.1.1 with
      | some v => convTo (cYF d) (cSat d) f.1.2 v
      | none => freeCode (cYF d) s.fresh (256 * e.2 + f.2)
  { writes := yWrites d pos ch (rows.map fun r => r.map (·.code)), ev := (rows.map evSum).foldl countsAdd countsZero, rng := g1 }

/-- One run of a stripe tile. -/
def convRun (s : State) (p : PlotIx) (d : BitVec 1024) (t : Nat) (g : Rng) : TileRun :=
  match cCop d with
  | 0 => directRun s p d t g
  | 1 => freqRun s p d t g
  | 2 => specRun s p d t g
  | _ => vectorRun s p d t g

/-! ### Halo descriptors and tags (R189 to R193) -/

/-- A halo descriptor. -/
structure HaloDesc where
  ok : Bool
  loEn : Bool
  hiEn : Bool
  loRows : Nat
  hiRows : Nat
  loSrc : Nat
  hiSrc : Nat
  hs : Nat
  ds : Nat
  cs : Nat
  loTag : Nat
  loNeed : Nat
  hiTag : Nat
  hiNeed : Nat
deriving DecidableEq, Repr

/-- The halo descriptor of a command. -/
def haloDesc (s : State) (p : PlotIx) (d : BitVec 1024) : HaloDesc :=
  let b : BitVec 512 := BitVec.ofNat 512 (natOf (t0Read s p (cHaloAt d) 64))
  { ok := fld b 0 15 0 == 0x4A10 && cHaloAt d + 64 ≤ t0Size, loEn := flag b 0 16, hiEn := flag b 0 17,
    loRows := fld b 4 15 0, hiRows := fld b 4 31 16, loSrc := fld b 8 63 0, hiSrc := fld b 0x10 63 0,
    hs := fld b 0x18 31 0, ds := fld b 0x1C 31 0, cs := fld b 0x20 31 0,
    loTag := fld b 0x24 8 0, loNeed := fld b 0x24 31 16, hiTag := fld b 0x28 8 0, hiNeed := fld b 0x28 31 16 }

/-- A halo tag of a partition. -/
def haloTag (s : State) (q : PartIx) (i : Nat) : BitVec 16 := tabGet 0 (s.cistern 0).halo.tags (512 * q.val + i)

/-- Change the halo registers of C0. -/
def onHalo (f : Halo → Halo) (s : State) : State := s.onCis 0 fun c => { c with halo := f c.halo }

/-- A tag has reached a value (R191). -/
def tagReached (tag : BitVec 16) (need : Nat) : Bool := (tag.toNat + 65536 - need) % 65536 ≤ 32767

/-- The first enabled region whose tag is short: its tag number and need. -/
def haloShort (s : State) (q : PartIx) (h : HaloDesc) : Option (Nat × Nat) :=
  if h.loEn && !tagReached (haloTag s q h.loTag) h.loNeed then some (h.loTag, h.loNeed)
  else if h.hiEn && !tagReached (haloTag s q h.hiTag) h.hiNeed then some (h.hiTag, h.hiNeed)
  else none

/-- Publication of a halo tag (R192). -/
def publishTag (q : PartIx) (i v : Nat) (s : State) : State :=
  onHalo (fun h =>
    let k := 512 * q.val + i
    let old := tabGet 0 h.tags k
    if serialGt 16 v old.toNat then { h with tags := tabSet 0 h.tags k (BitVec.ofNat 16 v) }
    else { h with regress := satAdd h.regress 1 }) s

/-- Publication by a completed CONV. -/
def publishHalo (p : PlotIx) (d : BitVec 1024) (s : State) : State :=
  match plotPart (s.plot p) with
  | some q => if hOp d = 0x02 && flag d 0x78 9 then publishTag q (fld d 0x78 8 0) (fld d 0x78 31 16) s else s
  | none => s

/-- One row of a halo region: the buffer offset it lands at, its source address, and its bytes. -/
def haloRows (d : BitVec 1024) (h : HaloDesc) : List (Nat × Nat × Nat) :=
  let t := tensX d
  let src : Tensor := { t with hs := h.hs, ds := h.ds, cs := h.cs }
  let n := tensRow t (axW d).map
  let part (en : Bool) (rows base first : Nat) : List (Nat × Nat × Nat) :=
    if en then (tensRows t (cXD d) rows).map fun r =>
      (w32 d 0x20 + tensRowAt t (r.1, r.2.1, first + r.2.2), base + tensRowAt src r, n)
    else []
  part h.loEn h.loRows h.loSrc 0 ++ part h.hiEn h.hiRows h.hiSrc (cXH d - h.hiRows)

/-- Fetch the halo rows; the first that cannot be read gives its status and address. -/
def haloFetch (p : PlotIx) (q : PartIx) (s : State) : List (Nat × Nat × Nat) → State × Option (Nat × Nat)
  | [] => (s, none)
  | (o, a, n) :: t =>
    match devRead q (a / 64 * 64) (roundUp (a % 64 + n) 64) 0 [] s with
    | (s1, .error e) => (s1, some (e, faultWord s1 p a))
    | (s1, .ok bs) => haloFetch p q (t0Write p o ((bs.drop (a % 64)).take n) s1) t

/-- Every page of the halo sources may be read now. -/
def haloReady (s : State) (q : PartIx) (rows : List (Nat × Nat × Nat)) : Bool :=
  rows.all fun r => accessReady s q none r.2.1 r.2.2 false

/-! ### Checks (R175) -/

/-- Reserved body bits of CONV. -/
def convReserved (d : BitVec 1024) : Bool :=
  fld d 0x34 31 26 != 0 || fld d 0x40 31 30 != 0 || fld d 0x74 31 25 != 0 || fld d 0x78 15 10 != 0

/-- The formats of COP 0 to 2. -/
def convFmtBad (d : BitVec 1024) : Bool :=
  let wide (f : Nat) : Bool := f == 1 || (3 ≤ f && f ≤ 6)
  let yOk : Bool := wide (cYF d) || cYF d == 0x7 || cYF d == 0xD
  !pairOk (cXF d) (cWF d) || !wide (cXF d) || !wide (cWF d) || !yOk || cYF d == 0xD && !cInt d || cYF d == 0x7 && cInt d ||
    cSeed d == 3 && !cInt d || (cSeed d == 1 || cSeed d == 2) && cInt d

/-- FORMAT_ERR of any COP. -/
def convFormat (d : BitVec 1024) : Bool :=
  let vec (f : Nat) : Bool := f == 1 || (3 ≤ f && f ≤ 6)
  hEscTop d != 0 ||
    (match cCop d with
      | 0 => convFmtBad d
      | 1 => convFmtBad d || cXF d != 0x5 || cWF d != 0x5 || !(cYF d == 0x5 || cYF d == 0x6)
      | 2 => convFmtBad d || cXF d != 0x5 || cWF d != 0x5
      | _ => cWF d != 0 || !vec (cXF d) || !vec (cYF d) || cSeed d != 0)

/-- DIM_ERR: zero extents, groups, pads, positions not held, the start tile, the halo tag and the limits of R182, R186 and
R187. -/
def convDim (s : State) (p : PlotIx) (d : BitVec 1024) : Bool :=
  let axes := [axD d, axH d, axW d]
  let spec := cCop d = 2
  let factor := 2 ^ ((axD d).r + (axH d).r + (axW d).r)
  let resample := cCop d = 4
  cIn d == 0 || cOut d == 0 || cGr d == 0 || axes.any (fun a => a.k = 0) ||
    (!spec && (axes.any fun a => a.map = 0 || a.out = 0 || a.held = 0)) ||
    cIn d % cGr d != 0 || cOut d % cGr d != 0 || axes.any (fun a => a.k ≤ a.pad) ||
    axes.any (fun a => a.r = 3) ||
    ((cCop d = 1 || spec) && ((axes.any fun a => a.stride ≠ 1) || cGr d ≠ 1 || 64 < cIn d * cOut d)) ||
    (cCop d = 3 && (cIn d ≠ cOut d || cGr d ≠ cIn d)) ||
    (resample && cSub d ≤ 1 && cIn d ≠ cOut d) || (resample && cSub d = 1 && axes.any (fun a => a.r = 2)) ||
    (resample && cSub d = 2 && cIn d ≠ cOut d * factor) || (resample && cSub d = 3 && cOut d ≠ cIn d * factor) ||
    (!spec && axes.any (axisUnheld d)) || convTiles d ≤ startTile d ||
    (cHalo d && cHaloAt d + 64 ≤ t0Size &&
      (let h := haloDesc s p d
       !h.ok || cXH d < (if h.loEn then h.loRows else 0) + (if h.hiEn then h.hiRows else 0)))

/-- ALIGN_ERR. -/
def convAlign (s : State) (p : PlotIx) (d : BitVec 1024) : Bool :=
  let h := haloDesc s p d
  let seedEb := if cSeed d = 2 then 8 else 4
  off64 (w32 d 0x20) || cCop d ≤ 2 && off64 (w32 d 0x24) || cHalo d && off64 (cHaloAt d) ||
    (cCop d != 2 && (off64 (cY d) || cSeed d != 0 && off64 (w32 d 0x30) || tensStrideBad (tensX d) (cXD d) (cXH d) (axW d).map ||
      tensStrideBad (tensY d (eltBytes (cYF d))) (cOD d) (cOH d) (cOW d) ||
      cSeed d != 0 && tensStrideBad (tensY d seedEb) (cOD d) (cOH d) (cOW d))) ||
    (cHalo d && (off64 h.hs || off64 h.ds || off64 h.cs || h.loEn && off64 h.loSrc || h.hiEn && off64 h.hiSrc))

/-- The scratchpad regions of a CONV, without Y. -/
def convRegions (d : BitVec 1024) : List Ext :=
  let pairs := cOut d * cIn d * 132096
  (match cCop d with
    | 2 => [extFlat (w32 d 0x20) (cOut d * cTaps d * cIn d * eltBytes (cXF d)), extFlat (w32 d 0x24) pairs]
    | c => extFlat (w32 d 0x20) (tensSpan (tensX d) (cXD d) (cXH d) (axW d).map) ::
        (if c = 0 then [extFlat (w32 d 0x24) (cOut d * cKg d * eltBytes (cWF d))] else if c = 1 then [extFlat (w32 d 0x24) pairs] else [])) ++
    (if cSeed d ≠ 0 && cCop d ≠ 2 then
      [extFlat (w32 d 0x30) (tensSpan (tensY d (if cSeed d = 2 then 8 else 4)) (cOD d) (cOH d) (cOW d))] else []) ++
    (if cHalo d then [extFlat (cHaloAt d) 64] else [])

/-- The rows of Y as (address, bytes). -/
def yRows (d : BitVec 1024) : List (Nat × Nat) :=
  let t := tensY d (eltBytes (cYF d))
  (tensRows t (cOD d) (cOH d)).map fun r => (cY d + tensRowAt t r, tensRow t (cOW d))

/-- Rows that must lie in the partition's ranges and in one tier, with no retired bank of T0 under them (R72). -/
def rowsFault (s : State) (q : PartIx) (rows : List (Nat × Nat)) : Option Nat :=
  match rows with
  | [] => none
  | r :: _ =>
    rows.findSome? fun e =>
      if !rangeOk s q e.1 e.2 || tierOf s e.1 != tierOf s r.1 || tierOf s e.1 == .t0 && e.1 / bedStride != r.1 / bedStride then some e.1
      else rowRetired s e.1 e.2

/-- The address faults of a CONV: scratchpad regions, then Y, then the halo sources. -/
def convFault (s : State) (p : PlotIx) (d : BitVec 1024) : Option (Nat × Nat) :=
  match extsFault (s.plot p) (convRegions d) with
  | some e => some e
  | none =>
    match plotPart (s.plot p) with
    | none => some (stAddrFault, faultWord s p (cY d))
    | some q =>
      let h := haloDesc s p d
      let halo := if cHalo d then (haloRows d h).map (·.2) else []
      let lo := halo.take (if h.loEn then (tensRows (tensX d) (cXD d) h.loRows).length else 0)
      let hi := halo.drop lo.length
      ((if cCop d = 2 then none else rowsFault s q (yRows d)) <|> rowsFault s q lo <|> rowsFault s q hi).map fun a =>
        (stAddrFault, faultWord s p a)

/-- Steps 6 and 7 for CONV. -/
def checkConv (p : PlotIx) (d : BitVec 1024) (s : State) : Option (Nat × Nat) :=
  let c := cCop d
  checkAll
    [ (convReserved d || c > 4 || c = 3 && cSub d > 2 || c = 4 && cSub d > 3, stIllegal),
      (cLay d = 3 || (s.plot p).reduced && cLay d ≠ 0 || (c = 1 || c = 2) && cLay d ≠ 0, stLayout),
      (convFormat d, stFormat),
      ((c = 0 || c = 3) && (cKH d > 7 || cKW d > 7) || cKH d > 63 || cKW d > 63 || (c = 1 || c = 2) && cKD d > 1, stFilter),
      (convDim s p d, stDim),
      (convAlign s p d, stAlign) ]
    (convFault s p d)

/-! ### Cycles (R177, R180, R181) -/

/-- The layout factor. -/
def layFactor (d : BitVec 1024) : Nat :=
  if cLay d = 0 then (if cCop d = 0 then 4 else if cCop d ≥ 3 then 2 else 1)
  else if cLay d = 1 && cCop d = 0 && cInG d * eltBytes (cXF d) % 64 ≠ 0 then 2
  else 1

/-- Groups packed into one array block. -/
def packedGroups (d : BitVec 1024) : Nat :=
  let k' := 32 * cdiv (cKg d) 32
  if k' > 256 then 1 else max 1 (min (256 / max 1 (cOutG d)) (256 / max 1 k'))

/-- Cycles beyond the fixed part of all the tiles of a command. -/
def convWork (d : BitVec 1024) : Nat :=
  let n := cPositions d
  match cCop d with
  | 0 =>
    let g := packedGroups d
    let k := if g = 1 then cKg d else g * (32 * cdiv (cKg d) 32)
    layFactor d * cdiv (cGr d) g * cdiv k 256 * cdiv (cOutG d * g) 256 * (256 * cdiv n 256) * passCount (rungOf (cXF d))
  | 1 => convTiles d * (4608 * (cIn d + cOut d) + 258 * cIn d * cOut d)
  | 2 => 4608 * cIn d * cOut d
  | 3 => layFactor d * cdiv (n * cOut d) 256 * cTaps d
  | _ => layFactor d * cdiv (n * cOut d) 256 * 2 ^ (if cSub d = 1 then (axD d).r + (axH d).r + (axW d).r else 0)

/-- The fixed part of the cycles of a command. -/
def convBase (d : BitVec 1024) : Nat := if cCop d = 0 then 520 else if cCop d ≤ 2 then 600 else 16

/-- Cycles of the tiles from START_TILE on. -/
def convCycles (d : BitVec 1024) : Nat :=
  convBase d + cdiv (convWork d * (convTiles d - startTile d)) (max 1 (convTiles d))

/-- Bytes of a halo fetch. -/
def haloBytes (rows : List (Nat × Nat × Nat)) : Nat := (rows.map (·.2.2)).sum

/-! ### The command -/

/-- Step 8 of CONV: the halo regions are fetched, then the stripe tiles are computed. -/
def startConv (p : PlotIx) (d : BitVec 1024) (s : State) : State :=
  let rows := if cHalo d then haloRows d (haloDesc s p d) else []
  let move := if rows.isEmpty then 0 else 40 + cdiv (haloBytes rows) 256
  let s1 := beginRun p .compute d (convTiles d - startTile d) (convCycles d + move) s
  match plotPart (s.plot p), rows with
  | some q, _ :: _ =>
    let s2 := onRun p .compute (fun r => { r with cycles := r.cycles + Config.moveLatency s.fresh }) s1
    let s3 := { s2 with fresh := s2.fresh + 1 }
    (match haloFetch p q s3 rows, (s1.plot p).compute.run with
      | (s4, some (st, fa)), some r => endRun p .compute ((s4.plot p).compute.run.getD r) st fa (clearTags p s4)
      | (s4, _), _ => clearTags p s4)
  | _, _ => s1

/-- The stage of a plot's compute lane. -/
def setStage (p : PlotIx) (g : Stage) (s : State) : State := s.onPlot p fun x => { x with compute := { x.compute with stage := g } }

/-- Step 4 and what follows of a CONV whose halo wait is over; it waits too while the directory holds its halo pages. -/
def convGo (p : PlotIx) (d : BitVec 1024) (s : State) : State :=
  let ready :=
    match plotPart (s.plot p) with
    | some q => !cHalo d || haloReady s q (haloRows d (haloDesc s p d))
    | none => true
  if !ready then s
  else match wait4 p .compute d s with
    | none => s
    | some s1 => issue p .compute d (checkConv p d) (startConv p d) s1

/-- The head of the compute lane is a CONV that may start. -/
def convHead (s : State) (p : PlotIx) : Option (BitVec 1024) :=
  match (s.plot p).compute.queue with
  | d :: _ => if hOp d = 0x02 && canStart s p .compute then some d else none
  | [] => none

/-- The halo wait of a CONV past step 3 (R191, R193). -/
def convHaloStep (p : PlotIx) (d : BitVec 1024) (s : State) : State :=
  let h := haloDesc s p d
  match plotPart (s.plot p) with
  | none => convGo p d (setStage p .haloDone s)
  | some q =>
    if !cHalo d || !h.ok || (haloShort s q h).isNone then convGo p d (setStage p .haloDone s)
    else
      setStage p (.halo s.time) (onHalo (fun x => { x with stall := x.stall.set q.val (satAdd x.stall[q] 1) q.isLt }) s)

/-- CONV: the command leaves its waits, the halo wait among them, and starts. -/
def execConv (p : PlotIx) (s : State) : Out :=
  .next (match convHead s p with
    | none => s
    | some d =>
      match waits23 p .compute d s with
      | none => s
      | some s1 =>
        match (s1.plot p).compute.stage with
        | .halo _ => s1
        | .haloDone => convGo p d s1
        | _ => convHaloStep p d s1)

/-- HALO_WAIT_RELEASE: the tags of a waiting CONV are reached; its wait is charged and it goes on. -/
def execHaloWaitRelease (p : PlotIx) (s : State) : Out :=
  .next (match convHead s p, (s.plot p).compute.stage, plotPart (s.plot p) with
    | some d, .halo since, some q =>
      if (haloShort s q (haloDesc s p d)).isSome then s
      else
        let us := (s.time - since).toNat / 1000
        let s1 := onHalo (fun x => { x with time := x.time.set q.val (satAdd x.time[q] us) q.isLt }) s
        convGo p d (setStage p .haloDone s1)
    | _, _, _ => s)

/-- Codes of the events the Almanac receives. -/
def evHaloStall : BitVec 8 := 1

/-- An event for the Almanac. -/
def almEvent (e : BitVec 8) (s : State) : State := { s with alm := { s.alm with events := s.alm.events ++ [e] } }

/-- HALO_LONG_WAIT: a halo wait exceeds IMG_HALO_LIMIT, which latches CIS_HALO_LONG and raises an event (R193). -/
def execHaloLongWait (p : PlotIx) (s : State) : Out :=
  .next (match convHead s p, (s.plot p).compute.stage, plotPart (s.plot p) with
    | some d, .halo since, some q =>
      match haloShort s q (haloDesc s p d) with
      | none => s
      | some (tag, need) =>
        if (s.time - since).toNat ≤ 1000 * s.dev.haloLimit.toNat then s
        else almEvent evHaloStall (onHalo (fun x => { x with
          longTag := BitVec.ofNat 9 tag
          longPart := BitVec.ofNat 4 q.val
          longPlot := BitVec.ofNat 7 p.val
          longValid := true
          longNeed := BitVec.ofNat 16 need
          longCurrent := tabGet 0 x.tags (512 * q.val + tag) }) s)
    | _, _, _ => s)

/-! ### Stripe tiles -/

/-- The scratchpad regions that one tile touches, looked at only where a bank is retired: the taps of its positions, its
filter rows, its seed and Y. -/
def tileTouch (s : State) (p : PlotIx) (d : BitVec 1024) (t : Nat) : List Ext :=
  if (s.plot p).banks = 0 then []
  else match cCop d with
    | 0 =>
      let eb := eltBytes (cXF d)
      let elems := (stripePos d t).flatMap fun pos => (List.range (cTaps d)).flatMap fun k =>
        let z := tapAt d k
        let zd := tapCoord (axD d) ((axD d).out0 + pos.1) z.1
        let zh := tapCoord (axH d) ((axH d).out0 + pos.2.1) z.2.1
        let zw := tapCoord (axW d) pos.2.2 z.2.2
        if inMap (axD d) zd && inMap (axH d) zh && inMap (axW d) zw || cRep d then
          ((stripeCh d t).map (· / cOutG d)).dedup.flatMap fun g => (List.range (cInG d)).map fun c =>
            extFlat (w32 d 0x20 + tensAt (tensX d) (g * cInG d + c) (clampMap (axD d) zd - (axD d).held0)
              (clampMap (axH d) zh - (axH d).held0) (clampMap (axW d) zw)) eb
        else []
      elems ++ ((stripeCh d t).map fun o => extFlat (w32 d 0x24 + o * cKg d * eltBytes (cWF d)) (cKg d * eltBytes (cWF d))) ++
        (if cSeed d = 0 then [] else (stripePos d t).flatMap fun pos => (stripeCh d t).map fun o => extFlat (seedAt d pos o) 4)
    | _ => convRegions d

/-- Write the results of a tile: own scratchpad, or another address under EPOCH (R72, R175). -/
def convPut (p : PlotIx) (q : PartIx) (d : BitVec 1024) (s : State) : List (Nat × List Byte) → State × Option (Nat × Nat)
  | [] => (s, none)
  | (a, bs) :: t =>
    match rowRetired s a bs.length with
    | some x => (s, some (stAddrFault, faultWord s p x))
    | none =>
      let s1 := if tierOf s a = .t0 then clearTags (t0Plot a) s else s
      match devWrite q a 0 (hEpoch d) bs s1 with
      | (s2, some e) => (s2, some (e, faultWord s2 p a))
      | (s2, none) => convPut p q d s2 t

/-- Every page that the tile writes may be written now. -/
def convReady (s : State) (q : PartIx) (d : BitVec 1024) (t : Nat) : Bool :=
  if cCop d = 2 || tierOf s (cY d) ≠ .t3 then true
  else
    let eb := eltBytes (cYF d)
    let tn := tensY d eb
    let pos := if cCop d = 1 then (List.range (cPositions d)).map (posAt d) else stripePos d t
    let ch := if cCop d = 1 then List.range (cOut d) else stripeCh d t
    pos.all fun x => ch.all fun c => accessReady s q none (cY d + tensAt tn c x.1 x.2.1 x.2.2) eb true

/-- The stripe tile of a running CONV that comes next. -/
def convJob (p : PlotIx) (r : Run) (s : State) : TileJob :=
  let d := r.desc
  let t := startTile d + r.done
  let own := rungOf (cXF d)
  { index := t, rung := own, top := own, span := fun _ => cdiv (convWork d) (max 1 (convTiles d)), cycles := convCycles d,
    exts := fun _ => tileTouch s p d t, run := fun _ g => convRun s p d t g }

/-- Free codes that a vector tile used. -/
def convFresh (r : Run) (s : State) : State := if cCop r.desc = 3 then { s with fresh := s.fresh + 524288 } else s

/-- STRIPE_TILE_COMPLETE: the next stripe tile of the running CONV. The vector unit's tiles have no residue check. -/
def execStripeTileComplete (p : PlotIx) (runs : List RunCheck) (errs : ReadErrs) (s : State) : Out :=
  .next (match (s.plot p).compute.run, plotPart (s.plot p) with
    | some r, some q =>
      if hOp r.desc ≠ 0x02 || !convReady s q r.desc (startTile r.desc + r.done) then s
      else tileEvent p 0x02 (convJob p) (if cCop r.desc ≥ 3 then [] else runs) errs
        (fun r ws s => convPut p q r.desc (convFresh r s) ws) s
    | _, _ => s)

end Sys2Proof.Machine
end

