-- ==== Sys2Proof/Machine/Lpddr.lean ====
section
/-! DEFINITION. LPDDR channels: sector reads and writes, scrub, refresh, training, and the pruning of a channel with its
donor frames (R243 to R252, R476 to R478). -/

namespace Sys2Proof.Machine

open Host

/-- Sectors that exist (R212). -/
def sectorCount (s : State) : Nat := 256 * frameCount s

/-- The codewords that a mask names, ascending. -/
def cwsOf (m : BitVec 4) : List Nat := (List.range 4).filter fun j => m.getLsbD j

/-- LPDDR_READ: codewords of a sector are read and decoded with the reader's τ. -/
def execLpddrRead (sector : Nat) (tau : BitVec 2) (cws : BitVec 4) (flips : Flips) (s : State) : Out :=
  if sectorCount s ≤ sector then .fault .absentSector
  else .next (sectorRead sector tau.toNat flips s (cwsOf cws)).1

/-- Store codewords one after another. -/
def cwStoreAll (sector tau : Nat) (data : List Byte) (js : List Nat) (m : Memories) : Memories :=
  (js.zip (chunksOf 64 data)).foldl (fun m jd => cwStore sector jd.1 tau jd.2 m) m

/-- Zero the check bytes behind the stored form of a rate (R255). -/
def clearTail (sector rate : Nat) (m : Memories) : Memories :=
  { m with chk := tabClear m.chk (sector * 16 + baleL rate / 16) (16 - baleL rate / 16) }

/-- LPDDR_WRITE: whole codewords are written with their computed check bytes; a Bale write zeroes the check bytes of the
codewords that its rate does not store. -/
def execLpddrWrite (sector : Nat) (tau : BitVec 2) (cws : BitVec 4) (data : List Byte) (s : State) : Out :=
  if sectorCount s ≤ sector then .fault .absentSector
  else .next (if data.length ≠ 64 * (cwsOf cws).length then s
    else (cisPerfAdd (frameCis (sector / 256)) none 0x03 1 s).onMem fun m =>
      clearTail sector tau.toNat (cwStoreAll sector tau.toNat data (cwsOf cws) m))

/-! ### Scrub (R252) -/

/-- The attempts at codeword 0 with τ as an erasure: the rate found and how the read ended. -/
def scrubTry0 (m : Memories) (sector : Nat) (flips : Flips) : Nat → Nat → Option (Nat × CwOut)
  | fuel, i =>
    let dc := flipCw (flips.getD i []) sector 0 (cwData m sector 0) (cwChk m sector 0)
    match rsScrub0 dc.1 dc.2, fuel with
    | some (t, r), _ =>
      some (t, match r with
        | .dataErr p v => .corrected (listSet dc.1 p (dc.1.getD p 0 ^^^ BitVec.ofNat 8 v))
        | .checkErr _ _ => if i = 0 then .checkOnly dc.1 else .rereadOk dc.1
        | _ => if i = 0 then .clean dc.1 else .rereadOk dc.1)
    | none, 0 => none
    | none, n + 1 => scrubTry0 m sector flips n (i + 1)

/-- Codeword 0 as scrub reads it: a lost sector does not decode. -/
def scrubRead0 (s : State) (sector : Nat) (flips : Flips) : Option (Nat × CwOut) :=
  if s.mem.lost.contains sector then none else scrubTry0 s.mem sector flips s.dev.fault.lpRetry 0

/-- How scrub sees a sector: its rate and the codewords that the rate stores; none where codeword 0 does not decode. -/
def scrubReadAll (s : State) (sector : Nat) (flips : Flips) : Option (Nat × List CwOut) :=
  (scrubRead0 s sector flips).map fun r =>
    (r.1, r.2 :: ((List.range (baleL r.1 / 64)).tail.map fun j => cwRead s sector j 0 flips))

/-- What scrub does with one codeword: any single error is rewritten and counted, an uncorrectable one is recorded and
raised to the Almanac. -/
def scrubCw (sector rate : Nat) (s : State) (jr : Nat × CwOut) : State :=
  match jr.2 with
  | .clean _ => s
  | .corrected d => (countCe sector s).onMem (cwStore sector jr.1 rate d)
  | .checkOnly d => (countChk sector s).onMem (cwStore sector jr.1 rate d)
  | .rereadOk _ => countCe sector s
  | .rate => countUe sector jr.1 true s
  | .uncorr => countUe sector jr.1 true s

/-- The Almanac's code for a memory event (R252). -/
def evMemory : BitVec 8 := 2

/-- A scrubbed sector: its codewords, and the check-only correction that waited is done. -/
def scrubOne (sector : Nat) (flips : Flips) (s : State) : State :=
  match scrubReadAll s sector flips with
  | none => almEvent evMemory (countUe sector 0 true s)
  | some (rate, rs) =>
    let s1 := ((List.range 4).zip rs).foldl (scrubCw sector rate) s
    if rs.contains .uncorr then almEvent evMemory s1
    else s1.onMem fun m => { m with pendingChk := m.pendingChk.filter (· ≠ sector) }

/-- The last sector of a cistern ends a scrub pass. -/
def scrubPassEnd (sector : Nat) (s : State) : State :=
  if sectorCount s ≤ sector + 512 && sector % 256 = 255 then
    s.onCis (frameCis (sector / 256)) fun x => { x with mem := { x.mem with scrubPass := x.mem.scrubPass + 1 } }
  else s

/-- SCRUB_SECTOR: the periodic scrub reads, decodes and repairs one sector; it pauses in HOLD (R329). -/
def execScrubSector (sector : Nat) (flips : Flips) (s : State) : Out :=
  if sectorCount s ≤ sector then .fault .absentSector
  else .next (if holdActive s then s else scrubPassEnd sector (scrubOne sector flips s))

/-! ### Refresh and training (R243) -/

/-- Change one channel of a cistern. -/
def onChan (c : CisIx) (ch : Fin 64) (f : Chan → Chan) (s : State) : State :=
  s.onCis c fun x => { x with chans := x.chans.set ch.val (f x.chans[ch]) ch.isLt }

/-- BANK_REFRESH: a per-bank refresh is performed. -/
def execBankRefresh (c : CisIx) (ch : Fin 64) (rank : Fin 2) (bank : Fin 16) (s : State) : Out :=
  .next (cisPerfAdd c none 0x05 1 (onChan c ch (fun x => { x with refreshed := some (rank, bank) }) s))

/-- A retraining of one channel: consecutive failures are counted. -/
def retrained (bad : Bool) (x : Chan) : Chan :=
  if x.state = 3 then x else { x with trainFails := if bad then x.trainFails + 1 else 0 }

/-- PERIODIC_RETRAIN: ZQ calibration and training of every channel of a cistern. -/
def execPeriodicRetrain (c : CisIx) (failed : BitVec 64) (s : State) : Out :=
  .next (s.onCis c fun x => { x with chans := Vector.ofFn fun i => retrained (failed.getLsbD i.val) x.chans[i] })

/-! ### Pruning a channel (R476 to R478) -/

/-- The threshold that a channel has crossed, with its count. -/
def chanCrossed (s : State) (c : CisIx) (ch : Fin 64) (cause : PruneCause) : Option Nat :=
  let x := (s.cistern c).chans[ch]
  match cause with
  | .ceRate => if s.dev.fault.lpCeHr ≤ x.hourCe then some x.hourCe else none
  | .uncorr => if s.dev.fault.lpUeDay ≤ x.dayUe then some x.dayUe else none
  | .training => if s.dev.fault.lpTrain ≤ x.trainFails then some x.trainFails else none
  | _ => none

/-- The partition of a key of the translation tables. -/
def keyPart (k : Nat) : PartIx := Fin.ofNat 16 (k / 2 ^ 24)

/-- Change translation entries and drop every cached copy of them (R215). -/
def remapEntries (p : Nat × Word → Bool) (f : Word → Word) (s : State) : State :=
  let keys := (s.mem.xlt.filter p).map (·.1)
  let s1 := s.onMem fun m => { m with xlt := tabMap 0 (fun e => if p e then f e.2 else e.2) m.xlt }
  forAll [0, 1] (fun s c => s.onCis c fun x =>
    { x with xltCache := x.xltCache.filter fun e => !keys.contains (xltKey e.1 e.2.1.toNat) }) s1

/-- Whether a translation entry maps a frame of parity c whose index within the parity lies in [lo, hi). -/
def mapsRange (c : CisIx) (lo hi : Nat) (e : Word) : Bool :=
  let f := bitsOf e.toNat 23 0
  e.getLsbD 24 && f % 2 == c.val && lo ≤ f / 2 && f / 2 < hi

/-- The donor range that one more pruned channel takes, as indices within the parity. -/
def newDonors (s : State) (c : CisIx) : Nat × Nat :=
  let m := (prunedChans s c).length
  (donorStart s (m + 1), donorStart s m)

/-- CHANNEL_PRUNE: a channel crosses a threshold; the frames of its donor range are put under MOVING entries. -/
def execChannelPrune (c : CisIx) (ch : Fin 64) (cause : PruneCause) (s : State) : Out :=
  .next (if holdActive s || s.mem.relocating.isSome || (s.cistern c).chans[ch].state = 3 then s
    else match chanCrossed s c ch cause with
      | none => s
      | some _ =>
        let (lo, hi) := newDonors s c
        (remapEntries (fun e => mapsRange c lo hi e.2) (fun w => w ||| 0x4000000) s).onMem fun m =>
          { m with relocating := some (c, ch, cause) })

/-- Frames of the system area in one parity (R215). -/
def systemFrames (s : State) : Nat := if s.image.order512 then 256 else 512

/-- Physical frames that entries map in a range of a parity, ascending. -/
def usedFrames (s : State) (c : CisIx) (lo hi : Nat) : List Nat :=
  ((s.mem.xlt.filter fun e => mapsRange c lo hi e.2).map fun e => bitsOf e.2.toNat 23 0).mergeSort

/-- Free physical frames of a parity below an index, ascending: neither the system area nor mapped. -/
def freeFrames (s : State) (c : CisIx) (hi : Nat) : List Nat :=
  let used := usedFrames s c 0 hi
  (((List.range hi).drop (systemFrames s)).map fun i => 2 * i + c.val).filter fun f => !used.contains f

/-- Copy a frame's data and check bytes to another frame; sectors that are lost stay lost. -/
def copyFrame (f g : Nat) (m : Memories) : Memories :=
  { m with
    t3 := tabWrite 0 m.t3 (g * pageBytes) (tabRead 0 m.t3 (f * pageBytes) pageBytes)
    chk := tabWrite 0 m.chk (g * 4096) (tabRead 0 m.chk (f * 4096) 4096)
    lost := m.lost.filter (· / 256 ≠ g) ++ (m.lost.filter (· / 256 = f)).map fun k => 256 * g + k % 256
    pendingChk := m.pendingChk.filter fun k => k / 256 ≠ f && k / 256 ≠ g }

/-- One frame moves: its bytes and its entry. -/
def moveFrame (s : State) (fg : Nat × Nat) : State :=
  remapEntries (fun e => e.2.getLsbD 24 && bitsOf e.2.toNat 23 0 == fg.1)
    (fun w => BitVec.ofNat 32 (setBits (setBits w.toNat 23 0 fg.2) 26 26 0)) (s.onMem (copyFrame fg.1 fg.2))

/-- One frame finds no free frame: it is withdrawn, and its partition counts it. -/
def withdrawFrame (s : State) (f : Nat) : State :=
  let hit (e : Nat × Word) : Bool := e.2.getLsbD 24 && bitsOf e.2.toNat 23 0 == f
  let owners := (s.mem.xlt.filter hit).map fun e => keyPart e.1
  forAll owners (fun s q => s.onPart q fun x => { x with withdrawn := x.withdrawn + 1 })
    (remapEntries hit (fun w => BitVec.ofNat 32 (setBits (setBits w.toNat 24 24 0) 26 26 0)) s)

/-- Contiguous runs of moved frames: first old frame, first new frame, count. -/
def moveRuns : List (Nat × Nat) → List (Nat × Nat × Nat)
  | [] => []
  | (f, g) :: t =>
    match moveRuns t with
    | (f1, g1, n) :: rest =>
      if f1 = f + 2 && g1 = g + 2 && n < 65535 then (f, g, n + 1) :: rest else (f, g, 1) :: (f1, g1, n) :: rest
    | [] => [(f, g, 1)]

/-- The RELOCATE records of the moves (R361). -/
def relocateLogs (moves : List (Nat × Nat)) (s : State) : State :=
  (moveRuns moves).foldl (fun s r => queueLog 3 10 (r.1 + r.2.1 * 2 ^ 32 + r.2.2 * 2 ^ 64) s) s

/-- Sectors of a channel whose stored codewords can no longer be read. -/
def unreadableOn (s : State) (c : CisIx) (ch : Fin 64) : List Nat :=
  let listed := (s.mem.t3.map (fun (e : Nat × Byte) => e.1 / 256) ++ s.mem.chk.map (fun (e : Nat × Byte) => e.1 / 16)).dedup
  (listed.filter fun k => frameCis (k / 256) == c && servingChan s k == ch).filter fun k =>
    match scrubReadAll s k [] with
    | none => true
    | some (_, rs) => rs.contains .uncorr

/-- The channel leaves service: redirection rebuilt, unreadable data lost, the record queued, CAPACITY at every partition
that uses T3. -/
def chanPruned (c : CisIx) (ch : Fin 64) (cause : PruneCause) (s : State) : State :=
  let n := (chanCrossed s c ch cause).getD 0
  let gone := unreadableOn s c ch
  let s1 := (onChan c ch (fun x => { x with state := 3 }) s).onMem fun m =>
    { m with lost := m.lost ++ gone.filter (fun k => !m.lost.contains k), relocating := none }
  let s2 := recordPrune 1 (64 * c.val + ch.val) 0 cause n (s.cistern c).chans[ch].returns s1
  forAll ((List.finRange 16).filter fun q => (s.part q).defined && (s.part q).img.t3Gib ≠ 0) (fun s q => raiseCapacity q s) s2

/-- RELOCATION_COMPLETE: the frames of the donor range have moved, those without a free frame are withdrawn, and the
channel is pruned. It waits until no mirror copy of a donor frame is held. -/
def execRelocationComplete (c : CisIx) (ch : Fin 64) (s : State) : Out :=
  .next (match s.mem.relocating with
    | none => s
    | some (c', ch', cause) =>
      if c' ≠ c || ch' ≠ ch || holdActive s then s
      else
        let (lo, hi) := newDonors s c
        let from_ := usedFrames s c lo hi
        if from_.any fun f => dirEntry s f ≠ .unheld then s
        else
          let moves := from_.zip (freeFrames s c lo)
          let s1 := moves.foldl moveFrame s
          let s2 := (from_.drop moves.length).foldl withdrawFrame s1
          chanPruned c ch cause (relocateLogs moves s2))

end Sys2Proof.Machine
end

