-- ==== Sys2Proof/Machine/Queue.lean ====
section
/-! DEFINITION. Submission and completion queues: entries, doorbells, fetching, completions with their journal, attaching
and detaching (R374 to R383). -/

namespace Sys2Proof.Machine

open Host

/-! ### Submission entries (R375, R376) -/

/-- OPC. -/
def seOpc (e : BitVec 1024) : Nat := fld e 0x00 7 0
/-- CMD_TAG. -/
def seTag (e : BitVec 1024) : Nat := fld e 0x00 31 16
/-- SSN. -/
def seSsn (e : BitVec 1024) : Word := BitVec.ofNat 32 (fld e 0x04 31 0)
/-- PARTITION. -/
def sePart (e : BitVec 1024) : PartIx := Fin.ofNat 16 (fld e 0x08 3 0)
/-- JOB_ID. -/
def seJob (e : BitVec 1024) : Word := BitVec.ofNat 32 (fld e 0x0C 31 0)
/-- ADDR. -/
def seAddr (e : BitVec 1024) : Nat := fld e 0x10 63 0
/-- LEN. -/
def seLen (e : BitVec 1024) : Nat := fld e 0x18 63 0
/-- ARG0. -/
def seArg (e : BitVec 1024) : Nat := fld e 0x20 31 0

/-- A reserved field of a submission is non-zero; a VF leaves PARTITION 0. -/
def seReserved (f : FnIx) (e : BitVec 1024) : Bool :=
  fld e 0x00 15 8 != 0 || fld e 0x08 31 4 != 0 || e.toNat >>> 288 != 0 || (f.val != 0 && fld e 0x08 3 0 != 0)

/-- Whether a function may issue an opcode. -/
def opcAllowed (f : FnIx) (opc : Nat) : Bool :=
  if f.val = 0 then [0x02, 0x03, 0x04, 0x05, 0x10, 0x11, 0x20, 0x21].contains opc
  else [0x01, 0x02, 0x03, 0x04, 0x05, 0x10, 0x11].contains opc

/-- The partition that a submission of a function acts on. -/
def subPart (f : FnIx) (e : BitVec 1024) : PartIx := (fnPart f).getD (sePart e)

/-- A submission refused with state 0x3E as it is accepted; REPLANT names no partition. -/
def refusedEntry (s : State) (f : FnIx) (e : BitVec 1024) : Bool :=
  seReserved f e || !opcAllowed f (seOpc e) || seOpc e ≠ 0x20 && !(s.part (subPart f e)).defined

/-! ### Completion entries (R377) -/

/-- What a completion entry says beside CSN and TIME. -/
structure CqFields where
  ty : Nat
  opc : Nat
  status : Nat
  state : Nat
  ssn : Nat
  tag : Nat
  reason : Nat
  kind : Nat
  job : Nat
  index : Nat
  earliest : Nat
  r0 : Nat
  r1 : Nat
deriving DecidableEq, Repr

/-- A completion entry before it is issued: CSN and TIME are 0. -/
def cqEntry (c : CqFields) : CqEntry :=
  BitVec.ofNat 1024 (c.ty + c.opc * 2 ^ 8 + c.status * 2 ^ 16 + c.state * 2 ^ 24 + c.ssn * 2 ^ 64 + c.tag * 2 ^ 96 +
    c.reason * 2 ^ 112 + c.kind * 2 ^ 120 + c.job * 2 ^ 128 + c.index * 2 ^ 160 + c.earliest * 2 ^ 192 +
    c.r0 * 2 ^ 320 + c.r1 * 2 ^ 384)

/-- An entry as it is issued, with its CSN and the time counter. -/
def cqIssue (e : CqEntry) (csn : Word) (time : DWord) : CqEntry :=
  e ||| BitVec.ofNat 1024 (csn.toNat * 2 ^ 32 + time.toNat * 2 ^ 256)

/-- All ones: an EARLIEST of never. -/
def never : Nat := 2 ^ 64 - 1

/-- What a command answers. -/
structure Answer where
  status : Nat
  state : Nat
  reason : Nat
  earliest : Nat
  r0 : Nat
  r1 : Nat
deriving DecidableEq, Repr

/-- DONE with its results. -/
def ansDone (r0 r1 : Nat) : Answer := { status := 0x00, state := 0, reason := 0, earliest := 0, r0 := r0, r1 := r1 }
/-- STATE_REJECT with a state code. -/
def ansState (st : Nat) : Answer := { status := 0x10, state := st, reason := 0, earliest := 0, r0 := 0, r1 := 0 }
/-- QUOTA_REJECT with a reason. -/
def ansQuota (reason earliest : Nat) : Answer :=
  { status := 0x11, state := 0, reason := reason, earliest := earliest, r0 := 0, r1 := 0 }
/-- DEADLINE_REJECT with a reason. -/
def ansDeadline (reason earliest : Nat) : Answer :=
  { status := 0x12, state := 0, reason := reason, earliest := earliest, r0 := 0, r1 := 0 }
/-- ENERGY_REJECT with a reason. -/
def ansEnergy (reason earliest : Nat) : Answer :=
  { status := 0x13, state := 0, reason := reason, earliest := earliest, r0 := 0, r1 := 0 }
/-- IMAGE_INVALID. -/
def ansImage : Answer := { status := 0x31, state := 0, reason := 0, earliest := 0, r0 := 0, r1 := 0 }

/-- The RESPONSE to a submission. -/
def response (e : BitVec 1024) (a : Answer) : CqEntry :=
  cqEntry
    { ty := 0, opc := seOpc e, status := a.status, state := a.state, ssn := (seSsn e).toNat, tag := seTag e,
      reason := a.reason, kind := 0, job := (seJob e).toNat, index := 0, earliest := a.earliest, r0 := a.r0, r1 := a.r1 }

/-! ### Queue pairs -/

/-- Queue pair i of a function. -/
def qpOf (s : State) (f : FnIx) (i : QpIx) : Qp := (s.func f).qps[i]

/-- Change a queue pair. -/
def onQp (f : FnIx) (i : QpIx) (g : Qp → Qp) (s : State) : State :=
  s.onFunc f fun x => { x with qps := x.qps.set i.val (g x.qps[i]) i.isLt }

/-- W of R379. -/
def cqWindow (x : Qp) : Nat := min (2 ^ x.cqLog.toNat) 256

/-- Completions issued and not yet consumed. -/
def outstanding (x : Qp) : Nat := (x.lastCsn - x.consumed).toNat

/-- The leading submissions that have their response, in SSN order, and the rest. -/
def splitAnswered : List Accepted → List CqEntry × List Accepted
  | [] => ([], [])
  | a :: t =>
    match a.resp with
    | some r =>
      let (rs, rest) := splitAnswered t
      (r :: rs, rest)
    | none => ([], a :: t)

/-- Responses are issued in SSN order: those at the head become ready. -/
def promote (x : Qp) : Qp :=
  let (rs, rest) := splitAnswered x.accepted
  { x with ready := x.ready ++ rs, accepted := rest }

/-- The next submission of a pair that no command has taken up. -/
def nextSubmission (s : State) (f : FnIx) (i : QpIx) : Option (BitVec 1024) :=
  ((qpOf s f i).accepted.find? fun a => !a.taken).map (·.entry)

/-- Change the first accepted submission that satisfies `p`. -/
def updateFirst (p : Accepted → Bool) (g : Accepted → Accepted) : List Accepted → List Accepted
  | [] => []
  | a :: t => if p a then g a :: t else a :: updateFirst p g t

/-- The Almanac takes up a submission and answers it at once. -/
def answerNow (f : FnIx) (i : QpIx) (a : Answer) (s : State) : State :=
  onQp f i (fun x => promote { x with
    accepted := updateFirst (fun e => !e.taken) (fun e => { e with taken := true, resp := some (response e.entry a) }) x.accepted }) s

/-- The Almanac takes up a submission whose answer comes later. -/
def takeUp (f : FnIx) (i : QpIx) (s : State) : State :=
  onQp f i (fun x => { x with accepted := updateFirst (fun e => !e.taken) (fun e => { e with taken := true }) x.accepted }) s

/-- Answer every submission of any pair that was taken up, waits for its answer and satisfies `p`. -/
def answerWaiting (p : FnIx → BitVec 1024 → Bool) (a : Answer) (s : State) : State :=
  forAll (List.finRange 17) (fun s f => forAll (List.finRange 4) (fun s i =>
    onQp f i (fun x => promote { x with
      accepted := x.accepted.map fun e =>
        if e.taken && e.resp.isNone && p f e.entry then { e with resp := some (response e.entry a) } else e }) s) s) s

/-- Give a pair a JOB_END or NOTICE entry to issue; a pair that does not exist gets none. -/
def giveEntry (f : FnIx) (i : QpIx) (e : CqEntry) (s : State) : State :=
  onQp f i (fun x => if x.state = 0 then x else { x with ready := x.ready ++ [e] }) s

/-! ### Doorbells (R381) -/

/-- SQ_DOORBELL: a new LIMIT is accepted, or a stall retried, or the value dropped and counted. -/
def execSqDoorbell (f : FnIx) (i : QpIx) (v : Word) (s : State) : Out :=
  .next (onQp f i (fun x =>
    let n := (v - x.nextSsn).toNat
    if x.state ≠ 1 then { x with dbDrop := satAdd x.dbDrop 1 }
    else if 1 ≤ n && n ≤ 2 ^ x.sqLog.toNat && (v - x.limit).toNat ≤ 0x7FFFFFFF then { x with limit := v, stall := false }
    else if v = x.limit then { x with stall := false }
    else { x with dbDrop := satAdd x.dbDrop 1 }) s)

/-- CQ_DOORBELL: CONSUMED advances and the journal entries up to it are released. -/
def execCqDoorbell (f : FnIx) (i : QpIx) (v : Word) (s : State) : Out :=
  .next (onQp f i (fun x =>
    if x.state = 1 && (v - x.consumed).toNat ≤ outstanding x then
      { x with consumed := v, journal := x.journal.drop (v - x.consumed).toNat }
    else { x with dbDrop := satAdd x.dbDrop 1 }) s)

/-! ### Fetching (R379, R373) -/

/-- AER code of a failed read: completion timeout or error completion (R373). -/
def aerFetch : BitVec 16 := 1
/-- AER code of an Unsupported Request (R373). -/
def aerUnsupported : BitVec 16 := 2

/-- Log an error of a function through AER. -/
def logAer (f : FnIx) (code : BitVec 16) (s : State) : State := s.onFunc f fun x => { x with aer := x.aer ++ [code] }

/-- A pair that may fetch: ACTIVE, announced entries left, no stall, room in the completion window. -/
def mayFetch (x : Qp) : Bool := x.state == 1 && x.nextSsn != x.limit && !x.stall && outstanding x != cqWindow x

/-- The entry in the SQ slot of an SSN. -/
def sqEntry (s : State) (x : Qp) : BitVec 1024 :=
  BitVec.ofNat 1024 (natOf (hostRead s (x.sqBase.toNat + 128 * (x.nextSsn.toNat % 2 ^ x.sqLog.toNat)) 128))

/-- SUBMISSION_FETCH: a fetched entry is accepted when its SSN is the one expected; a failed fetch puts the pair in
ERROR. -/
def execSubmissionFetch (f : FnIx) (i : QpIx) (dmaOk : Bool) (s : State) : Out :=
  let x := qpOf s f i
  .next (if !mayFetch x then s
    else if !dmaOk then onQp f i (fun x => { x with state := 3, err := 1, detaching := false }) (logAer f aerFetch s)
    else
      let e := sqEntry s x
      if seSsn e ≠ x.nextSsn then onQp f i (fun x => { x with stall := true }) s
      else
        let a : Accepted := if refusedEntry s f e then { entry := e, taken := true, resp := some (response e (ansState 0x3E)) }
          else { entry := e, taken := false, resp := none }
        onQp f i (fun x => promote { x with nextSsn := x.nextSsn + 1, accepted := x.accepted ++ [a] }) s)

/-! ### Completions (R377, R379, R380) -/

/-- Write an issued entry into the CQ slot of its CSN. -/
def writeCq (x : Qp) (csn : Word) (e : CqEntry) (s : State) : State :=
  hostWrite (x.cqBase.toNat + 128 * (csn.toNat % 2 ^ x.cqLog.toNat)) (bytesOf 128 e.toNat) s

/-- The cause of a queue pair: its vector. -/
def qpVec (i : QpIx) : VecIx := ⟨i.val, by omega⟩

/-- COMPLETION_WRITE: the oldest ready entry takes the next CSN, is written to the CQ and kept in the journal. -/
def execCompletionWrite (f : FnIx) (i : QpIx) (s : State) : Out :=
  let x := qpOf s f i
  .next (match x.ready with
    | [] => s
    | e :: rest =>
      if x.state ≠ 1 || cqWindow x ≤ outstanding x then s
      else
        let csn := x.lastCsn + 1
        let e1 := cqIssue e csn s.time
        raiseEvent f (qpVec i) (onQp f i (fun x => { x with ready := rest, lastCsn := csn, journal := x.journal ++ [e1] })
          (writeCq x csn e1 s)))

/-! ### Attaching and detaching (R382) -/

/-- A function takes queues: PF0 once start-up is over and outside recovery mode, or a VF that exists with a partition whose last reset is done (R302, R314). -/
def takesQueues (s : State) (f : FnIx) : Bool :=
  match fnPart f with
  | none => (s.image.boot = .done || s.image.replant.isSome) && !s.image.recovery
  | some q => (s.part q).defined && (s.part q).resetDone && s.pf0.vfEnable && q.val < s.pf0.numVfs.toNat

/-- The base and size registers allow an attach. -/
def qpSizesOk (x : Qp) : Bool :=
  6 ≤ x.sqLog.toNat && x.sqLog.toNat ≤ 16 && 6 ≤ x.cqLog.toNat && x.cqLog.toNat ≤ 16 && x.sqBase.toNat % 4096 == 0 &&
    x.cqBase.toNat % 4096 == 0

/-- QP_ATTACH: a write of HST_QP_CTL with EN = 1 and RESUME_SEQ = 0 starts the pair fresh: completions that wait for jobs
are discarded, responses are not. A pair that is ACTIVE keeps its state. -/
def execQpAttach (f : FnIx) (i : QpIx) (s : State) : Out :=
  .next (onQp f i (fun x =>
    if x.state = 1 then x
    else if !takesQueues s f then { x with err := 2 }
    else if !qpSizesOk x then { x with err := 3 }
    else
      { x with
        state := 1
        detaching := false
        en := true
        resumeSeq := false
        stall := false
        err := 0
        nextSsn := x.ssnInit
        limit := x.ssnInit
        lastCsn := x.csnInit - 1
        consumed := x.csnInit - 1
        ready := x.ready.filter fun e => fld e 0x00 3 0 = 0
        journal := [] }) s)

/-- Rewrite the journal into the slots of the new CQ, in CSN order. -/
def replayJournal (x : Qp) (s : State) : State :=
  ((List.range x.journal.length).zip x.journal).foldl
    (fun s ke => writeCq x (x.consumed + 1 + BitVec.ofNat 32 ke.1) ke.2 s) s

/-- QP_RESUME_ATTACH: the pair goes on from DETACHED or ERROR with its sequence state; unconsumed completions are
rewritten before any new one, and the vector is raised once. -/
def execQpResumeAttach (f : FnIx) (i : QpIx) (s : State) : Out :=
  let x := qpOf s f i
  .next (if x.state = 1 then s
    else if !takesQueues s f || x.state = 0 then onQp f i (fun x => { x with err := 2 }) s
    else if !qpSizesOk x || 2 ^ x.cqLog.toNat < outstanding x then onQp f i (fun x => { x with err := 3 }) s
    else raiseEvent f (qpVec i) (replayJournal x (onQp f i (fun x =>
      { x with
        state := 1
        detaching := false
        en := true
        resumeSeq := true
        stall := false
        err := 0
        limit := x.nextSsn }) s)))

/-- QP_DETACH: a write of HST_QP_CTL with EN = 0 lets an ACTIVE pair finish what it is doing. -/
def execQpDetach (f : FnIx) (i : QpIx) (s : State) : Out :=
  .next (onQp f i (fun x => { x with en := false, detaching := x.detaching || x.state == 1 }) s)

/-- DETACH_COMPLETE: fetch and completion write in progress are done, and the pair is DETACHED. -/
def execDetachComplete (f : FnIx) (i : QpIx) (s : State) : Out :=
  .next (onQp f i (fun x => if x.detaching && x.state = 1 then { x with state := 2, detaching := false } else x) s)

/-- The queues of a function, with their sequence state, cease to exist (R313, R384). The registers that only a new
attach uses keep their values. -/
def dropQueues (f : FnIx) (s : State) : State :=
  forAll (List.finRange 4) (fun s i => onQp f i (fun x =>
    { Qp.reset with
      sqBase := x.sqBase
      cqBase := x.cqBase
      sqLog := x.sqLog
      cqLog := x.cqLog
      ssnInit := x.ssnInit
      csnInit := x.csnInit
      dbDrop := x.dbDrop }) s) s

end Sys2Proof.Machine
end

