-- ==== Sys2Proof/Machine/Plan.lean ====
section
/-! DEFINITION. Planning: job descriptors, cost tables, plan time and energy, reserves, the worst-case finish of jobs and
the energy check (R126, R188, R258 to R265, R285, R289, R295, R405, R417, R419, R424, R425). Times are in ns. -/

namespace Sys2Proof.Machine

open Host

/-! ### Job descriptors (R258) -/

/-- KIND: 0 GENERATE, 1 TRANSCODE, 2 TRAIN. -/
def jdKind (d : BitVec 1024) : Nat := fld d 0x04 1 0
/-- CLASS. -/
def jdClass (d : BitVec 1024) : Nat := fld d 0x04 3 2
/-- ENTRY. -/
def jdEntry (d : BitVec 1024) : Bool := flag d 0x04 4
/-- DEGRADE_OK. -/
def jdDegrade (d : BitVec 1024) : Bool := flag d 0x04 5
/-- EXHAUST_ACTION: true is WIDE. -/
def jdWide (d : BitVec 1024) : Bool := flag d 0x04 6
/-- DEADLINE. -/
def jdDeadline (d : BitVec 1024) : Nat := fld d 0x08 63 0
/-- MODEL. -/
def jdModel (d : BitVec 1024) : Nat := fld d 0x10 31 0
/-- FALLBACK. -/
def jdFallback (d : BitVec 1024) : Nat := fld d 0x14 31 0
/-- PASSES. -/
def jdPasses (d : BitVec 1024) : Nat := fld d 0x18 15 0
/-- FB_PASSES. -/
def jdFbPasses (d : BitVec 1024) : Nat := fld d 0x18 31 16
/-- WIDTH. -/
def jdWidth (d : BitVec 1024) : Nat := fld d 0x1C 15 0
/-- HEIGHT. -/
def jdHeight (d : BitVec 1024) : Nat := fld d 0x1C 31 16
/-- FRAMES. -/
def jdFrames (d : BitVec 1024) : Nat := fld d 0x20 31 0
/-- SLACK_THR. -/
def jdSlack (d : BitVec 1024) : Nat := fld d 0x24 31 0
/-- JOB_KEY. -/
def jdKey (d : BitVec 1024) : Nat := fld d 0x28 127 0
/-- IN_LEN. -/
def jdInLen (d : BitVec 1024) : Nat := fld d 0x48 63 0
/-- OUT_LEN. -/
def jdOutLen (d : BitVec 1024) : Nat := fld d 0x50 63 0
/-- CODEC_PARAMS. -/
def jdCodec (d : BitVec 1024) : Nat := fld d 0x58 63 0

/-- A fallback is effective when it is named and DEGRADE_OK is set. -/
def jdEffective (d : BitVec 1024) : Bool := jdFallback d ≠ 0 && jdDegrade d

/-! ### Cost records (R260) -/

/-- OPER_ID. -/
def ceOper (r : BitVec 256) : Nat := fld r 0x00 15 0
/-- STAGE. -/
def ceStage (r : BitVec 256) : Nat := fld r 0x00 18 16
/-- RUNG. -/
def ceRung (r : BitVec 256) : Nat := fld r 0x00 20 19
/-- WATCH. -/
def ceWatch (r : BitVec 256) : Bool := flag r 0x00 21
/-- PATTERN: true is random sectors. -/
def ceRandom (r : BitVec 256) : Bool := flag r 0x00 22
/-- PLAN: true is the striped plan. -/
def ceStriped (r : BitVec 256) : Bool := flag r 0x00 23
/-- UNIT. -/
def ceUnit (r : BitVec 256) : Nat := fld r 0x00 25 24

/-- Latent tokens of a clip in a model's geometry: the first latent frame is causal (R26, R128). -/
def tokensOf (m : ModelDesc) (d : BitVec 1024) : Nat :=
  cdiv (jdWidth d) (max 1 m.spaceDiv) * cdiv (jdHeight d) (max 1 m.spaceDiv) *
    (1 + cdiv (jdFrames d - 1) (max 1 m.timeDiv))

/-- Units of an operator in one run of its stage. -/
def unitsOf (m : ModelDesc) (d : BitVec 1024) (e : CostEntry) : Nat :=
  match ceUnit e.record with
  | 0 => tokensOf m d
  | 1 => jdFrames d
  | _ => e.count

/-- Plot cycles of an operator in one run of its stage. -/
def opCycles (m : ModelDesc) (d : BitVec 1024) (e : CostEntry) : Rat :=
  (e.count * fld e.record 0x04 31 0 : Nat) + ((unitsOf m d e * fld e.record 0x08 31 0 : Nat) : Rat) / 256

/-- T3 bytes of an operator. -/
def opBytes (m : ModelDesc) (d : BitVec 1024) (e : CostEntry) : Rat := ((unitsOf m d e * fld e.record 0x0C 31 0 : Nat) : Rat) / 256

/-- Walker descriptors of an operator. -/
def opDescs (m : ModelDesc) (d : BitVec 1024) (e : CostEntry) : Rat :=
  ((unitsOf m d e * fld e.record 0x10 31 0 : Nat) : Rat) / 65536

/-- Energy of an operator at step 24, in 8 nJ units. -/
def opEnergy (m : ModelDesc) (d : BitVec 1024) (e : CostEntry) : Rat :=
  (e.count * fld e.record 0x18 31 0 : Nat) + ((unitsOf m d e * fld e.record 0x14 31 0 : Nat) : Rat) / 65536

/-! ### The partition's resources as planned -/

/-- Beds of a partition with no pruned plot (R263, R276); a plot with a retired bank counts as pruned (R481). -/
def bedsNow (s : State) (q : PartIx) : Nat :=
  ((bedsOf s q).filter fun b => (List.finRange 8).all fun i =>
    (s.plot (plotOf b i)).mode != .pruned && (s.plot (plotOf b i)).banks = 0).length

/-- Plots of a partition that can take job work. -/
def usablePlots (s : State) (q : PartIx) : Nat :=
  ((plotsOf s q).filter fun p => (s.plot p).mode != .pruned && (s.plot p).banks = 0).length

/-- P: the plots planned for a job, the T0 quota as far as plots are left (R261, R473). -/
def planPlots (s : State) (q : PartIx) : Nat := min (s.part q).img.t0Plots.toNat (usablePlots s q)

/-- The partition's LPDDR share of both cisterns' traffic, with pruned channels taken off (R234, R236, R477). -/
def lpddrShare (s : State) (q : PartIx) : Rat :=
  let one (c : CisIx) : Rat := (((s.cistern c).parts[q]).lpddr.toNat : Rat) / 256 * ((64 - (prunedChans s c).length : Nat) : Rat) / 64
  min (one 0) (one 1)

/-- Clock of a step in cycles per ns. -/
def stepGhz (step : Nat) : Rat := ((12 + step : Nat) : Rat) / 20

/-- Ports that are up at full or half rate, in eighths of the eight ports. -/
def portsUp (s : State) : Rat :=
  ((List.finRange 8).map fun i =>
    let st := s.bvl.ports[i].state.toNat
    if st = 2 then (1 : Rat) else if st = 3 then 1 / 2 else 0).sum / 8

/-- R of R419: bytes per ns over the fabric. -/
def fabricRate (s : State) (q : PartIx) : Rat := 800 * ((s.part q).img.bvlShare : Rat) / 256 * portsUp s

/-- Plan time: a number of ns, or never where a share that the work needs is 0. -/
abbrev PlanT := Option Rat

/-- Work divided by a rate. -/
def divRate (work rate : Rat) : PlanT := if work = 0 then some 0 else if rate ≤ 0 then none else some (work / rate)

/-- The larger of two plan times. -/
def maxT (a b : PlanT) : PlanT := do
  let x ← a
  let y ← b
  pure (max x y)

/-- The sum of plan times. -/
def sumT (l : List PlanT) : PlanT := l.foldl (fun a b => do
  let x ← a
  let y ← b
  pure (x + y)) (some 0)

/-- A plan time `n` times over. -/
def timesT (n : Nat) (a : PlanT) : PlanT := if n = 0 then some 0 else a.map (· * n)

/-- What TRACE_EN adds per unit (R458). -/
def traceCost (s : State) (n : Nat) : Nat := if s.dev.traceEn then n else 0

/-- The planned time of one run of an operator at a clock step (R261), with what tracing adds to it (R458). -/
def opTime (s : State) (q : PartIx) (m : ModelDesc) (d : BitVec 1024) (step : Nat) (e : CostEntry) : PlanT :=
  let bw : Rat := lpddrShare s q * (if ceRandom e.record then 730 else 1853) * (if e.oneParity then 1 / 2 else 1)
  maxT (divRate (opCycles m d e + traceCost s (8 * e.count)) (planPlots s q * stepGhz step))
    (maxT (divRate (opBytes m d e + traceCost s (64 * e.count)) bw)
      (divRate (opDescs m d e) (96 / 1000 * ((s.part q).scaledShare.toNat : Rat) / 32)))

/-! ### Models, stages and passes -/

/-- The package and model that a handle names in a partition (R294, R376). -/
def findModel (s : State) (q : PartIx) (h : Nat) : Option (Resident × ModelDesc) :=
  (s.part q).models.findSome? fun r =>
    if r.handle.toNat ≤ h then (r.pkg.models[h - r.handle.toNat]?).map fun m => (r, m) else none

/-- The plan chosen for a convolution layer: on chip when both maps fit in T1 and the free part of T0 (R188). -/
def onChipFits (s : State) (q : PartIx) (m : ModelDesc) (maps : Nat) : Bool :=
  let t1 := ((bedsOf s q).map fun b => (32 - (s.bed b).share.toNat) * mib).sum
  maps ≤ t1 + ((s.part q).img.t0Plots.toNat - m.foot.headD 0) * t0Size

/-- The cost records that a job runs: of a convolution layer, the ones of its chosen plan. -/
def opsOf (s : State) (q : PartIx) (m : ModelDesc) : List CostEntry :=
  m.costs.filter fun e => e.maps = 0 || ceStriped e.record != onChipFits s q m e.maps

/-- How often the plots run a stage in `passes` passes: in TRAIN every stage of 2 to 4 in each step, otherwise stage 3 in
each pass and stages 2 and 4 once, stage 2 only behind a bitstream (R26). -/
def stageRuns (d : BitVec 1024) (first : Bool) (passes stage : Nat) : Nat :=
  match jdKind d, stage with
  | 2, 2 => passes
  | 2, 3 => passes
  | 2, 4 => passes
  | 0, 2 => if first && !jdEntry d then 1 else 0
  | 0, 3 => passes
  | 0, 4 => 1
  | _, _ => 0

/-- T of R419 for one collective. -/
def collTime (s : State) (q : PartIx) (c : CollPlan) : PlanT :=
  let h := if c.fanin ≤ 1 then c.members - 1
    else (((List.range 13).find? fun h => c.members ≤ (c.fanin ^ (h + 1) - 1) / (c.fanin - 1)).getD 12)
  (divRate ((max 1 c.fanin * c.bytes : Nat) : Rat) (fabricRate s q)).map fun t =>
    6000 + ((if c.var then 2 * h else h) * 2400 + traceCost s 1000 : Nat) + t

/-- Bytes of a boundary vote among N members (R417). -/
def voteBytes (n : Nat) : Nat := 256 * cdiv ((2 + n) * 4) 256

/-- Fabric time of one pass: collectives, point-to-point writes, and the boundary vote of a cut model. -/
def passFabric (s : State) (q : PartIx) (r : Resident) (m : ModelDesc) : PlanT :=
  let vote : CollPlan := { bytes := voteBytes r.pkg.members, fanin := r.pkg.voteFanin, members := r.pkg.members, var := false }
  sumT ((m.colls.map (collTime s q)) ++ (m.writes.map fun b => (divRate (b : Rat) (fabricRate s q)).map (· + 4000)) ++
    (if 2 ≤ r.pkg.members then [collTime s q vote, collTime s q vote] else []))

/-- t_swap of R295 for a package in compatibility mode with more than one package resident; a TRAIN job's dirty staging
pages are counted when they are written. -/
def swapTime (s : State) (q : PartIx) (r : Resident) (step : Nat) : PlanT :=
  if !(s.part q).img.compat || (s.part q).models.length < 2 then some 0
  else
    let loads := ((s.dev.sfuSets.filter fun e => e.1.getLsbD q.val).map fun e => 32 + cdiv e.2.2.length 64).sum
    (divRate (r.pkg.resident : Rat) (lpddrShare s q * 1853)).map fun t => 30000 + t + (loads : Rat) / stepGhz step

/-- Plot part of W for `passes` passes of a model. -/
def plotTime (s : State) (q : PartIx) (r : Resident) (m : ModelDesc) (d : BitVec 1024) (first : Bool) (passes step : Nat) : PlanT :=
  sumT (((opsOf s q m).map fun e => timesT (stageRuns d first passes (ceStage e.record)) (opTime s q m d step e)) ++
    (if jdKind d = 1 then [] else [timesT passes (passFabric s q r m), timesT passes (swapTime s q r step)]))

/-! ### Codec stages (R424, R425, R310) -/

/-- A picture needs a pair of pipes. -/
def needsPair (w h : Nat) : Bool := 4096 < w || 2304 < h || 9437184 < w * h

/-- Time of one picture on a pipe or a pair. -/
def picTime (w h : Nat) : Nat :=
  let cols := cdiv w 64
  300000 + (if needsPair w h then cdiv cols 2 else cols) * cdiv h 64 * 8000

/-- One codec stage of a job: its pictures over the partition's pipes, and one frame time for a pipe out on loan. -/
def codecStage (pipes : Nat) (d : BitVec 1024) (pic : Rat) : PlanT :=
  let lanes := if needsPair (jdWidth d) (jdHeight d) then pipes / 2 else pipes
  (divRate (jdFrames d * pic) lanes).map (· + pic)

/-- Codec part of W: stage 1 for a bitstream input, stage 5 for an encoded output. -/
def codecTime (s : State) (q : PartIx) (d : BitVec 1024) : PlanT :=
  let pic : Rat := picTime (jdWidth d) (jdHeight d) + traceCost s 2000
  let dec : Rat := max pic (((jdInLen d * 8 : Nat) : Rat) / (48 / 100) / max 1 (jdFrames d : Rat) + traceCost s 2000)
  if jdKind d = 2 then some 0
  else sumT [if jdKind d = 0 && jdEntry d then some 0 else codecStage (s.part q).img.decPipes d dec,
    codecStage (s.part q).img.encPipes d pic]

/-! ### Reserves (R126, R128, R262) -/

/-- Relative tile span of a rung (R79, R114). -/
def rungSpan (r : Nat) : Nat := if r = 0 then 1 else if r = 1 then 2 else if r = 2 then 6 else 12

/-- Whether an operator counts as low-precision tile time. -/
def lowOp (e : CostEntry) : Bool := ceWatch e.record && ceRung e.record ≤ 1

/-- Spans of every rung above an operator's own up to its top, relative to its own. -/
def escSpans (e : CostEntry) : Rat :=
  (((List.range 4).map fun r => if ceRung e.record < r && r ≤ e.top.val then rungSpan r else 0).sum : Nat) /
    (rungSpan (ceRung e.record) : Rat)

/-- Cycles of the low-precision work in `passes` passes, each operator weighted. -/
def lowCycles (s : State) (q : PartIx) (m : ModelDesc) (d : BitVec 1024) (passes : Nat) (weight : CostEntry → Rat) : Rat :=
  (((opsOf s q m).filter lowOp).map fun e => stageRuns d true passes (ceStage e.record) * opCycles m d e * weight e).sum

/-- Cycles of the re-run margin: a fraction of the low-precision tile time, or the worst-case escalation of R128. -/
def marginCycles (s : State) (q : PartIx) (m : ModelDesc) (d : BitVec 1024) (passes : Nat) : Rat :=
  if jdWide d && !jdEffective d || !jdWide d && !jdEffective d then lowCycles s q m d passes escSpans
  else lowCycles s q m d passes fun _ => ((s.part q).img.rerun.toNat : Rat) / 256

/-- The widest rung that the operators of a model permit. -/
def widestRung (m : ModelDesc) : Nat := (m.costs.map fun e => if lowOp e then e.top.val else ceRung e.record).foldl max 0

/-- The highest energy per cycle among records of the widest rung, or of all where none stands at it. -/
def widestEnergy (m : ModelDesc) (d : BitVec 1024) : Rat :=
  let w := m.costs.filter fun e => ceRung e.record = widestRung m
  ((if w.isEmpty then m.costs else w).map fun e => if opCycles m d e = 0 then 0 else opEnergy m d e / opCycles m d e).foldl max 0

/-- The reserves of a job in ns, with their energy at step 24 in 8 nJ units. -/
structure Reserves where
  margin : Nat
  retry : Nat
  capacity : Nat
  exposure : Nat
  energy : Nat
deriving DecidableEq, Repr

/-- Round a plan time up to whole ns. -/
def ceilNs (r : Rat) : Nat := (Rat.ceil r).toNat

/-- IMG_EXPOSURE of a class. -/
def exposureOf (x : PartImage) (c : Nat) : Nat :=
  if c = 1 then x.exp1.toNat else if c = 2 then x.exp2.toNat else if c = 3 then x.exp3.toNat else 0

/-- Energy at step 24 of `passes` passes, with the PERF_EN factor (R458). -/
def workEnergy (s : State) (q : PartIx) (m : ModelDesc) (d : BitVec 1024) (first : Bool) (passes : Nat) : Rat :=
  ((opsOf s q m).map fun e => stageRuns d first passes (ceStage e.record) * opEnergy m d e).sum *
    (if s.dev.perfEn then 1015 / 1000 else 1)

/-- The reserves of a job whose plan time is w, with plot part pt (R262). -/
def reservesOf (s : State) (q : PartIx) (m : ModelDesc) (d : BitVec 1024) (step : Nat) (w pt : Rat) : Reserves :=
  let x := (s.part q).img
  let beds := (bedsOf s q).length
  let mc := marginCycles s q m d (jdPasses d)
  let retry : Rat := (x.retry.toNat : Rat) / 256
  { margin := ceilNs (mc / max 1 (planPlots s q * stepGhz step))
    retry := ceilNs (w * retry)
    capacity := if beds ≤ x.faultBeds.toNat then 0 else ceilNs (pt * x.faultBeds.toNat / ((beds - x.faultBeds.toNat : Nat) : Rat))
    exposure := ceilNs (w * exposureOf x (jdClass d) / 256)
    energy := ceilNs (mc * widestEnergy m d + workEnergy s q m d true (jdPasses d) * retry) }

/-! ### Jobs in plan order -/

/-- The job's model as it runs now: its fallback once it has switched. -/
def onFallback (j : Job) : Bool :=
  match j.life with
  | .runningFb => true
  | .tainted fb => fb
  | _ => false

/-- A job in no final status. -/
def jobLive (j : Job) : Bool :=
  match j.life with
  | .adm | .running | .runningFb | .tainted _ => true
  | _ => false

/-- A job that has joined a batch. -/
def jobRunning (j : Job) : Bool :=
  match j.life with
  | .running | .runningFb | .tainted _ => true
  | _ => false

/-- Handle of the model that a job runs now. -/
def activeModel (j : Job) : Nat := if onFallback j then jdFallback j.desc else jdModel j.desc

/-- Accepted jobs in non-final states, in plan order. -/
def liveJobs (s : State) (q : PartIx) : List Job := (s.part q).jobs.filter jobLive

/-- Plot and codec time of the work of a job not yet committed. -/
def jobTimes (s : State) (q : PartIx) (j : Job) (step : Nat) : PlanT × PlanT :=
  match findModel s q (activeModel j) with
  | none => (some 0, codecTime s q j.desc)
  | some (r, m) => (plotTime s q r m j.desc (j.mainPasses + j.fbPasses = 0) j.toGo step, codecTime s q j.desc)

/-- Unspent reserves of a job. -/
def reservesLeft (j : Job) : Nat := j.marginLeft.toNat + j.retryLeft.toNat + j.capacity + j.exposure

/-- The remaining need of an accepted job at a clock step. -/
def needLeft (s : State) (q : PartIx) (step : Nat) (j : Job) : Nat :=
  let (a, b) := jobTimes s q j step
  ceilNs ((a.getD 0) + (b.getD 0)) + reservesLeft j

/-- Most live bytes of a model's tasks: the largest entry of the live map on every plot (R286). -/
def liveMost (s : State) (q : PartIx) (j : Job) : Nat :=
  match findModel s q (activeModel j) with
  | none => 0
  | some (_, m) => planPlots s q * ((m.live.map fun e => (e.regions.map (·.2)).sum).foldl max 0)

/-- Spill bandwidth in bytes per ns (R289). -/
def spillRate (s : State) (q : PartIx) : Rat := min (lpddrShare s q * 1853) (256 * stepGhz (s.part q).fPlan.toNat * planPlots s q)

/-- c_pre for L live bytes (R285, R289). -/
def preemptCost (s : State) (q : PartIx) (live : Nat) : Nat :=
  let t := ceilNs ((divRate (live : Rat) (spillRate s q)).getD 0)
  20000 + 2 * (20000 + t) + 40000

/-- What a running job's worst-case finish holds for its own preemption (R285); a member of a cut job is never heeled in
(R416). -/
def preHeld (s : State) (q : PartIx) (j : Job) : Nat :=
  match findModel s q (jdModel j.desc) with
  | some (r, _) => if jobRunning j && r.pkg.members < 2 then preemptCost s q (liveMost s q j) else 0
  | none => 0

/-- Worst-case finishes of jobs in plan order, from a time on. -/
def finishes (s : State) (q : PartIx) (step : Nat) : Nat → List Job → List (Job × Nat)
  | _, [] => []
  | t, j :: js =>
    let n := needLeft s q step j
    (j, t + n + j.extra + preHeld s q j) :: finishes s q step (t + n) js

/-- wc(k) of every accepted job of a partition, recomputed now at a step. -/
def planFinishes (s : State) (q : PartIx) (step : Nat) : List (Job × Nat) := finishes s q step s.time.toNat (liveJobs s q)

/-! ### Energy (R264) -/

/-- Energy of work in µJ at a step. -/
def energyAt (e : Rat) (step : Nat) : Nat := ceilNs (e * kStep step / 1024 / 125)

/-- Planned energy of an accepted job's remaining work with its reserves, in µJ. -/
def jobEnergy (s : State) (q : PartIx) (step : Nat) (j : Job) : Nat :=
  match findModel s q (activeModel j) with
  | none => 0
  | some (_, m) => energyAt (workEnergy s q m j.desc (j.mainPasses + j.fbPasses = 0) j.toGo + j.energy) step

/-- energy_fits over (wc, energy) pairs: at each finish, the energy of all jobs that finish by then is covered. -/
def energyFits (s : State) (q : PartIx) (l : List (Nat × Nat)) : Bool :=
  l.all fun k =>
    ((((l.filter fun x => x.1 ≤ k.1).map (·.2)).sum : Nat) : Int) ≤
      (s.part q).bal + ((shareW s q * (k.1 - s.time.toNat) / 1000 : Nat) : Int)

/-- Mean power of a job's work at step 24 in W. -/
def jobPower (s : State) (q : PartIx) (d : BitVec 1024) (h : Nat) : Rat :=
  match findModel s q h with
  | none => 0
  | some (r, m) =>
    match plotTime s q r m d true (jdPasses d) 24 with
    | some t => if t = 0 then 0 else 8 * workEnergy s q m d true (jdPasses d) / t
    | none => 0

/-- f_cap: the highest step at which every job's planned power stays within the share (R263, R326). -/
def fCap (s : State) (q : PartIx) (powers : List Rat) : Nat :=
  (((List.range 25).reverse).find? fun st =>
    powers.all fun p => p * kStep st / 1024 * ((12 + st : Nat) : Rat) / 36 ≤ shareW s q).getD 0

/-- Powers of the accepted jobs. -/
def jobPowers (s : State) (q : PartIx) : List Rat := (liveJobs s q).map fun j => jobPower s q j.desc (activeModel j)

/-- f_plan lowered to the lowest step at which every accepted job still meets its deadline and energy_fits holds (R264);
with no job it is step 0, and where no lower step holds it stays. -/
def lowerPlan (q : PartIx) (s : State) : State :=
  let ok (st : Nat) : Bool :=
    let l := planFinishes s q st
    (l.all fun k => k.2 ≤ jdDeadline k.1.desc) && energyFits s q (l.map fun k => (k.2, jobEnergy s q st k.1))
  let f := (s.part q).fPlan.toNat
  s.onPart q fun x => { x with fPlan := BitVec.ofNat 5 (((List.range f).find? ok).getD f) }

/-- Record the recomputed worst-case finishes. -/
def storeFinishes (q : PartIx) (s : State) : State :=
  let l := planFinishes s q (s.part q).fPlan.toNat
  let upd (j : Job) : Job :=
    match l.find? fun k => k.1.id == j.id && jobLive j with
    | some k => { j with wc := k.2 }
    | none => j
  s.onPart q fun x => { x with jobs := x.jobs.map upd }

end Sys2Proof.Machine
end

