-- ==== Sys2Proof/Machine/Issue.lean ====
section
/-! DEFINITION. Submission to the lanes, and ZERO, SYNC, TEST and unknown opcodes (R64, R67, R74, R461). -/

namespace Sys2Proof.Machine

open Host

/-! ### Submission (R64) -/

/-- A command enters a lane queue: the plot wakes from clock gating (R80). -/
def enterLane (p : PlotIx) (l : Lane) (d : BitVec 1024) (s : State) : State :=
  s.onPlot p fun x => laneSet { x with clkGated := false } l { laneGet x l with queue := (laneGet x l).queue ++ [d] }

/-- A descriptor is submitted: a full lane, or one with submissions held before it, holds it back. -/
def submitTo (p : PlotIx) (d : BitVec 1024) (s : State) : State :=
  let l := laneFor d
  let y := laneGet (s.plot p) l
  if y.queue.length < 32 && y.held.isEmpty then enterLane p l d s
  else s.onPlot p fun x => laneSet x l { laneGet x l with held := (laneGet x l).held ++ [d] }

/-- PLOT_COMMAND_SUBMIT: a gardener core submits a descriptor. -/
def execPlotCommandSubmit (p : PlotIx) (d : BitVec 1024) (s : State) : Out := .next (submitTo p d s)

/-- BACKPRESSURE_ENTRY: the oldest submission held back enters its lane once there is room. -/
def execBackpressureEntry (p : PlotIx) (lane : Lane) (s : State) : Out :=
  let y := laneGet (s.plot p) lane
  .next (match y.held with
    | [] => s
    | d :: ds =>
      if 32 ≤ y.queue.length then s
      else enterLane p lane d (s.onPlot p fun x => laneSet x lane { laneGet x lane with held := ds }))

/-! ### ZERO -/

/-- The byte count of a ZERO. -/
def zCount (d : BitVec 1024) : Nat := w32 d 0x24

/-- The region of bytes lo .. lo + n - 1 of a ZERO. -/
def zeroExts (d : BitVec 1024) (lo n : Nat) : List Ext := [extFlat (w32 d 0x20 + lo) n]

/-- One unit of ZERO: the pattern repeated. -/
def zeroUnit (p : PlotIx) (d : BitVec 1024) (lo n : Nat) (s : State) : State :=
  let word := bytesOf 4 (w32 d 0x28)
  clearTags p (t0Write p (w32 d 0x20 + lo) ((List.replicate (n / 4) word).flatten) s)

/-- Steps 6 and 7 for ZERO. -/
def checkZero (p : PlotIx) (d : BitVec 1024) (s : State) : Option (Nat × Nat) :=
  checkAll
    [ (bytesSet d 0x2C 0x80, stIllegal),
      (zCount d = 0, stDim),
      (off64 (w32 d 0x20) || off64 (zCount d), stAlign) ]
    (extsFault (s.plot p) (zeroExts d 0 (zCount d)))

/-- ZERO: the command leaves its waits and starts. -/
def execZero (p : PlotIx) (s : State) : Out :=
  .next (leaveWaits p .compute (· = 0x0A) (fun d => checkZero p d)
    (fun d => beginRun p .compute d (zCount d) (8 + cdiv (zCount d) 4096)) s)

/-! ### SYNC -/

/-- A run whose cycles reduced mode does not multiply. -/
def beginFlat (p : PlotIx) (d : BitVec 1024) (cycles : Nat) (s : State) : State :=
  onRun p .compute (fun r => { r with cycles := cycles + (if s.dev.traceEn then 8 else 0) }) (beginRun p .compute d 0 0 s)

/-- SYNC: only the header flags and semaphores act. -/
def execSync (p : PlotIx) (s : State) : Out :=
  .next (leaveWaits p .compute (· = 0x0B) (fun d _ => if bytesSet d 0x20 0x80 then some (stIllegal, 0) else none)
    (fun d => beginFlat p d 4) s)

/-! ### TEST (R74, R461) -/

/-- The pattern of a TEST. -/
def testPattern (d : BitVec 1024) : Nat := fld d 0x20 7 0

/-- Cycles of a test pattern, in reduced mode. -/
def testCycles (n : Nat) : Nat :=
  if n = 1 then 50331648 else if n = 2 then 12582912 else if n = 5 then 71303168 else 4194304

/-- Steps 6 and 7 for TEST. -/
def checkTest (p : PlotIx) (d : BitVec 1024) (s : State) : Option (Nat × Nat) :=
  checkAll [ (fld d 0x20 31 8 != 0 || bytesSet d 0x24 0x80 || !(s.plot p).reduced || testPattern d = 0 || testPattern d > 5, stIllegal) ] none

/-- The scratchpad of a plot holds undefined bytes: free values. -/
def t0Free (p : PlotIx) (s : State) : State :=
  clearTags p (t0Write p 0 ((List.range t0Size).map fun i => Config.freeByte (s.fresh + i)) { s with fresh := s.fresh + t0Size })

/-- What a test pattern leaves in the units it drives: an undefined scratchpad, and invalid table slots. -/
def testLeaves (p : PlotIx) (n : Nat) (s : State) : State :=
  let s1 := if n = 2 || n = 5 then t0Free p s else s
  if n = 4 || n = 5 then s1.onPlot p slotsInvalid else s1

/-- TEST: the command leaves its waits and starts; `fail` is the unit and bank that fails, if one does. -/
def execTest (p : PlotIx) (fail : Option (BitVec 4 × BitVec 6)) (s : State) : Out :=
  .next (leaveWaits p .compute (· = 0x0C) (fun d => checkTest p d)
    (fun d s => onRun p .compute (fun r =>
        match fail with
        | some (u, b) => { r with status := BitVec.ofNat 8 stTest, faultAddr := BitVec.ofNat 32 (u.toNat * 2 ^ 28 + b.toNat) }
        | none => r) (beginFlat p d (testCycles (testPattern d)) s)) s)

/-! ### Unknown opcodes -/

/-- The opcodes of R67. -/
def knownOp (o : Nat) : Bool := 1 ≤ o && o ≤ 0x0C

/-- UNKNOWN_OPCODE: the command fails at step 6. -/
def execUnknownOpcode (p : PlotIx) (s : State) : Out :=
  .next (leaveWaits p .compute (fun o => !knownOp o) (fun _ _ => some (stIllegal, 0)) (fun _ s => s) s)

end Sys2Proof.Machine
end

