-- ==== Sys2Proof/Machine/Units.lean ====
section
/-! DEFINITION. The units of R488 and the completion of commands (R75, R76, R488). -/

namespace Sys2Proof.Machine

open Host

/-- Units of a stop point: elements, rows or bytes; none for the commands without such units. -/
def unitSize (d : BitVec 1024) : Option Nat :=
  match hOp d with
  | 0x03 => some 65536
  | 0x04 => some 256
  | 0x05 => if uOp d = 0 then some 65536 else none
  | 0x07 => some (if rDist d = 4 then 256 else 65536)
  | 0x0A => some 65536
  | _ => none

/-- The regions of n elements, rows or bytes from lo on. -/
def unitExts (d : BitVec 1024) (lo n : Nat) : List Ext :=
  match hOp d with
  | 0x03 => vecExts d lo n
  | 0x04 => statExts d lo n
  | 0x05 => evalExts d lo n
  | 0x07 => randExts d lo n
  | _ => zeroExts d lo n

/-- The effect of n elements, rows or bytes from lo on. -/
def unitRun (p : PlotIx) (d : BitVec 1024) (lo n : Nat) (s : State) : State :=
  match hOp d with
  | 0x03 => vecUnit p d lo n s
  | 0x04 => statUnit p d lo n s
  | 0x05 => evalUnit p d lo n s
  | 0x07 => randUnit p d lo n s
  | _ => zeroUnit p d lo n s

/-- n elements, rows or bytes of the running command: errors of the table memory and the scratchpad first (ZERO reads nothing), then the
retired banks, then the work. -/
def unitStep (p : PlotIx) (r : Run) (n : Nat) (errs : ReadErrs) (terrs : TableErrs) (s : State) : State :=
  let d := r.desc
  let (s0, dead) := if hOp d = 0x05 then applyTableErrs p (uSlot d) terrs s else (s, false)
  if dead then endRun p .compute r stSpUncorr 0 s0
  else match applyErrs p (if hOp d = 0x0A then { ce := [], ue := none } else errs) s0 with
    | (s1, some o) => endRun p .compute r stSpUncorr o s1
    | (s1, none) =>
      match extsFault (s1.plot p) (unitExts d r.done n) with
      | some (st, fa) => endRun p .compute r st fa s1
      | none => onRun p .compute (fun x => { x with done := x.done + n }) (unitRun p d r.done n s1)

/-- UNIT_COMPLETE: the running command finishes a whole unit; a flush stops it there. -/
def execUnitComplete (p : PlotIx) (errs : ReadErrs) (terrs : TableErrs) (s : State) : Out :=
  .next (match (s.plot p).compute.run with
    | none => s
    | some r =>
      match unitSize r.desc with
      | none => s
      | some n =>
        if holdActive s || r.total < r.done + n then s
        else
          let s1 := unitStep p r n errs terrs s
          match (s1.plot p).compute.run with
          | none => s1
          | some r1 => if (s1.plot p).flushing && r1.done < r1.total then endRun p .compute r1 stFlushed 0 s1 else s1)

/-- The running compute command has finished its last unit: it ends OK. -/
def endOk (p : PlotIx) (l : Lane) (s : State) : State :=
  match (laneGet (s.plot p) l).run with
  | none => s
  | some r => endRun p l r stOk 0 s

/-- The end of a compute command whose tiles or units are at most one unit short. -/
def completeCompute (p : PlotIx) (r : Run) (errs : ReadErrs) (terrs : TableErrs) (s : State) : State :=
  let d := r.desc
  match unitSize d with
  | some n =>
    if r.done + n < r.total then s
    else if r.done = r.total then endOk p .compute s
    else endOk p .compute (unitStep p r (r.total - r.done) errs terrs s)
  | none =>
    match hOp d with
    | 0x01 => if r.done < r.total then s else endOk p .compute s
    | 0x02 => if r.done < r.total then s else endOk p .compute (publishHalo p d s)
    | 0x08 => if r.done < r.total then s else endOk p .compute (finishAttn p r s)
    | 0x06 => endCommand p .compute d (endedRun r stOk (Config.rotProgress s.fresh) 0) { s with fresh := s.fresh + 1 }
    | 0x0C => endRun p .compute r r.status.toNat r.faultAddr.toNat (testLeaves p (testPattern d) s)
    | _ => endOk p .compute s

/-- COMMAND_COMPLETE: the running command of a lane finishes: its last rows, elements or bytes, its writes, its record and
its post. -/
def execCommandComplete (p : PlotIx) (lane : Lane) (errs : ReadErrs) (terrs : TableErrs) (flips : Flips) (s : State) : Out :=
  .next (match (laneGet (s.plot p) lane).run with
    | none => s
    | some r =>
      if holdActive s then s
      else match lane with
        | .compute => completeCompute p r errs terrs s
        | .move =>
          if r.done = r.total then endOk p .move s
          else if r.done + 1 < r.total then s
          else match moveRow p errs flips r s with
            | none => s
            | some s1 => endOk p .move s1)

end Sys2Proof.Machine
end

