-- ==== Sys2Proof/Machine/PlotCtl.lean ====
section
/-! DEFINITION. Plot control: flush, resume, plot reset, reduced mode, clock and power gating, generator and layer state
(R78, R80 to R86, R92, R198, R200, R209, R298, R487). -/

namespace Sys2Proof.Machine

open Host

/-- The fields REDUCED, PG_REQ and CG_DIS of a PLT_CTL write; a 0 for REDUCED is ignored while a bank is retired (R86). -/
def ctlFields (p : PlotIx) (rw : BitVec 3) (s : State) : State :=
  s.onPlot p fun x => { x with
    reducedReq := if !rw.getLsbD 0 && x.banks ≠ 0 then x.reducedReq else some (rw.getLsbD 0)
    pgReq := rw.getLsbD 1
    cgDis := rw.getLsbD 2 }

/-! ### Flush -/

/-- A queued command is discarded: its FLUSHED record, PLT_LAST and its trace end record (R78, R93, R462). -/
def discardOne (p : PlotIx) (l : Lane) (s : State) (d : BitVec 1024) : State :=
  step10 p l d (endedEarly stFlushed (startTile d) 0) s

/-- The count that step 3 took for the head of a lane is returned (R78). -/
def returnSem (p : PlotIx) (l : Lane) (s : State) : State :=
  let y := laneGet (s.plot p) l
  match y.queue with
  | d :: _ =>
    if y.stage ≠ .queued && hSemWait d then
      s.onBed (bedOf p) fun b => { b with sems := b.sems.set (hWaitSem d).val (satAdd b.sems[hWaitSem d] 1) (hWaitSem d).isLt }
    else s
  | [] => s

/-- Every queued command of a lane is discarded. -/
def discardLane (p : PlotIx) (l : Lane) (s : State) : State :=
  let q := (laneGet (s.plot p) l).queue
  let s1 := (returnSem p l s).onPlot p fun x => laneSet x l { laneGet x l with queue := [], stage := .queued }
  q.foldl (discardOne p l) s1

/-- Whether a flush stops the running compute command at once: no tile begun, an ATTN that waits for its pages, or a TEST
(R56, R488). -/
def stopsNow (x : Plot) (r : Run) : Bool :=
  match hOp r.desc with
  | 0x01 => r.done = 0
  | 0x02 => r.done = 0
  | 0x08 => r.done = 0 || r.done < r.total && !tileReady x r.desc
  | 0x0C => true
  | _ => false

/-- The running compute command stops at once where it can; a TEST leaves undefined units. -/
def stopCompute (p : PlotIx) (s : State) : State :=
  match (s.plot p).compute.run with
  | some r =>
    if stopsNow (s.plot p) r then
      endRun p .compute r stFlushed 0 (if hOp r.desc = 0x0C then testLeaves p (testPattern r.desc) s else s)
    else s
  | none => s

/-- A flush, with the resume that the same write asks for. -/
def flushPlot (p : PlotIx) (resume : Bool) (s : State) : State :=
  let x := s.plot p
  let any := !x.compute.queue.isEmpty || !x.move.queue.isEmpty
  let s1 := s.onPlot p fun x => { x with flushing := true, flushRec := x.flushRec || any, resumeAfter := x.resumeAfter || resume }
  let s2 := stopCompute p (discardLane p .move (discardLane p .compute s1))
  s2.onPlot p flushDone

/-- PLOT_FLUSH: a write of PLT_CTL with FLUSH set. -/
def execPlotFlush (p : PlotIx) (resume : Bool) (rw : BitVec 3) (s : State) : Out :=
  .next (flushPlot p resume (ctlFields p rw s))

/-- A RESUME leaves the halted state. -/
def resumePlot (x : Plot) : Plot :=
  if x.mode = .halted then
    { x with mode := if x.compute.run.isSome || x.move.run.isSome then .run else .idle, haltCause := 0 }
  else x

/-- PLOT_RESUME: a write of PLT_CTL with RESUME set. -/
def execPlotResume (p : PlotIx) (rw : BitVec 3) (s : State) : Out := .next ((ctlFields p rw s).onPlot p resumePlot)

/-! ### Plot reset -/

/-- A running command aborted by a reset: its FLUSHED record, which halts nothing (R77, R92). -/
def abortRun (p : PlotIx) (l : Lane) (s : State) : State :=
  match (laneGet (s.plot p) l).run with
  | some r =>
    let rot := hOp r.desc = 0x06
    let e := endedShort s r stFlushed (if rot then Config.rotProgress s.fresh else startTile r.desc + r.done) 0
    let s1 := s.onPlot p fun x => laneSet x l { laneGet x l with run := none, stage := .queued }
    step10 p l r.desc e { s1 with fresh := s1.fresh + 1 }
  | none => s

/-- What leaving the old era clears: the layer state, the table slots and the ring tags (R119, R131, R166). -/
def clearEra (x : Plot) : Plot :=
  { slotsInvalid x with
    era := x.era + 1
    ring := PageRing.reset
    walk := Walk.reset
    watch := { x.watch with layer := { Layer.reset with id := x.watch.layer.id } } }

/-- A plot reset begins: both lanes discarded, the era advanced, REDUCED set. -/
def resetPlot (p : PlotIx) (s : State) : State :=
  let s1 := discardLane p .move (discardLane p .compute (abortRun p .move (abortRun p .compute s)))
  (failPassOn p s1).onPlot p fun x =>
    { clearEra x with
      mode := .reset
      clkGated := false
      reduced := true
      reducedReq := none
      haltCause := 0
      flushing := false
      flushRec := false
      resumeAfter := false
      rng := { Rng.reset with draws := x.rng.draws }
      capture := none }

/-- A reset of the plot, or of its partition, is under way (R312). -/
def resetUnderWay (s : State) (p : PlotIx) : Bool :=
  (s.plot p).mode = .reset ||
    match plotPart (s.plot p) with
    | some q => (s.part q).resetStep ≠ .none
    | none => false

/-- A reset absorbed by one of equal or wider scope is counted in its partition (R312). -/
def absorbReset (p : PlotIx) (s : State) : State :=
  match plotPart (s.plot p) with
  | some q => s.onPart q fun x => { x with absorbed := satAdd x.absorbed 1 }
  | none => s

/-- A plot with power and in service. -/
def powered (x : Plot) : Bool := x.mode != .off && x.mode != .gating && x.mode != .pruned

/-- PLOT_RESET: a write of PLT_CTL with PLOT_RESET set. -/
def execPlotReset (p : PlotIx) (rw : BitVec 3) (s : State) : Out :=
  let s1 := s.onPlot p fun x => { x with pgReq := rw.getLsbD 1, cgDis := rw.getLsbD 2 }
  .next (if resetUnderWay s p then absorbReset p s1 else if powered (s.plot p) then resetPlot p s1 else s1)

/-- PLOT_RESET_DONE: the scratchpad is zero, and the plot is idle in reduced mode; the default tables are loaded again
(R84, R131). -/
def execPlotResetDone (p : PlotIx) (s : State) : Out :=
  .next (if (s.plot p).mode = .reset && s.image.boot = .done then
    reloadDefaults p ((t0Zero p s).onPlot p fun x => { x with mode := .idle })
  else s)

/-! ### Reduced mode -/

/-- REDUCED_REQUEST: a write of PLT_CTL without a trigger bit. -/
def execReducedRequest (p : PlotIx) (rw : BitVec 3) (s : State) : Out := .next (ctlFields p rw s)

/-- REDUCED_APPLY: the request takes effect at an idle point. -/
def execReducedApply (p : PlotIx) (s : State) : Out :=
  let x := s.plot p
  .next (match x.reducedReq with
    | some v => if idlePoint x then s.setPlot p { x with reduced := v || x.banks ≠ 0, reducedReq := none } else s
    | none => s)

/-! ### Gating -/

/-- CLOCK_GATE: 64 cycles without work, and CG_DIS clear (R80). -/
def execClockGate (p : PlotIx) (s : State) : Out :=
  let x := s.plot p
  .next (if idlePoint x && !x.cgDis then s.setPlot p { x with clkGated := true } else s)

/-- Every other plot of the bed is power-gated or entering power gating. -/
def lastPowered (s : State) (p : PlotIx) : Bool :=
  (List.finRange 8).all fun i =>
    let n := plotOf (bedOf p) i
    n == p || (s.plot n).mode == .off || (s.plot n).mode == .gating

/-- POWER_GATE_ENTRY: an idle plot with PG_REQ set advances its era and begins to lose power; the bed's last plot gives the
mirror copies up (R81, R487). -/
def execPowerGateEntry (p : PlotIx) (s : State) : Out :=
  let x := s.plot p
  .next (if x.pgReq && x.mode = .idle && plotEmpty x && x.compute.held.isEmpty && x.move.held.isEmpty then
    let s1 := if lastPowered s p then giveUpMirror (bedOf p) s else s
    s1.onPlot p fun x => { clearEra x with mode := .gating, clkGated := false }
  else s)

/-- POWER_GATE_COMPLETE: power is gone; the scratchpad holds nothing that can be relied on. -/
def execPowerGateComplete (p : PlotIx) (s : State) : Out :=
  .next (if (s.plot p).mode = .gating then (t0Free p s).onPlot p fun x => { x with mode := .off } else s)

/-- POWER_GATE_WAKE: a command has reached a power-gated plot: it wakes and PG_REQ clears. -/
def execPowerGateWake (p : PlotIx) (s : State) : Out :=
  let x := s.plot p
  .next (if x.mode = .off && !(x.compute.queue.isEmpty && x.move.queue.isEmpty) then
    s.setPlot p { x with mode := .waking, pgReq := false }
  else s)

/-- Four words requested as the generator state, to be loaded at the next idle point (R209). -/
def requestState (ws : List Nat) (g : Rng) : Rng :=
  { g with
    staged0 := some (BitVec.ofNat 32 (ws.getD 0 0))
    staged1 := some (BitVec.ofNat 32 (ws.getD 1 0))
    staged2 := some (BitVec.ofNat 32 (ws.getD 2 0))
    load := some (BitVec.ofNat 32 (ws.getD 3 0)) }

/-- Before a job's first command on a plot the Almanac loads the state drawn from the job's key and the plot's index within
the job (R200). -/
def seedPlot (p : PlotIx) (key index : Nat) (s : State) : State :=
  s.onPlot p fun x => { x with rng := requestState (genG key (BitVec.ofNat 32 index) 0 0 0x200) x.rng }

/-- The seeding that a plot bound while it had no power still waits for. -/
def seedWoken (p : PlotIx) (s : State) : State :=
  match plotJob s p with
  | some (_, j) =>
    if j.away = .none then seedPlot p (fld j.desc 0x28 127 0) (((j.tasks.find? fun t => t.2 == p).map (·.1)).getD 0) s else s
  | none => s

/-- WAKE_COMPLETE: the scratchpad is zero and the generator holds (1, 0, 0, 0); writes staged meanwhile are gone
(R81, R200, R209). -/
def execWakeComplete (p : PlotIx) (s : State) : Out :=
  .next (if (s.plot p).mode = .waking then
    seedWoken p (reloadDefaults p
      ((t0Zero p s).onPlot p fun x => { x with mode := .idle, rng := { Rng.reset with draws := x.rng.draws } }))
  else s)

/-! ### Generator and layer state -/

/-- RNG_STATE_LOAD: a write to PLT_RNG_S3 requests the load of all four words. -/
def execRngStateLoad (p : PlotIx) (s3 : Word) (s : State) : Out :=
  .next (s.onPlot p fun x => { x with rng := { x.rng with load := some s3 } })

/-- The generator with the staged words loaded; four zero words set s0 to 1 (R198). -/
def rngLoaded (g : Rng) (w3 : Word) : Rng :=
  let w0 := g.staged0.getD g.s0
  let w1 := g.staged1.getD g.s1
  let w2 := g.staged2.getD g.s2
  { g with
    s0 := if w0 = 0 && w1 = 0 && w2 = 0 && w3 = 0 then 1 else w0
    s1 := w1
    s2 := w2
    s3 := w3
    staged0 := none
    staged1 := none
    staged2 := none
    load := none }

/-- RNG_STATE_APPLY: the staged state is loaded at an idle point. -/
def execRngStateApply (p : PlotIx) (s : State) : Out :=
  let x := s.plot p
  .next (match x.rng.load with
    | some w => if idlePoint x then s.setPlot p { x with rng := rngLoaded x.rng w } else s
    | none => s)

/-- LAYER_STATE_LOAD: a write of BED_CTX_LAYER; with LOAD set it is kept for the selected plot. -/
def execLayerStateLoad (b : BedIx) (w : Word) (s : State) : Out :=
  .next (if w.getLsbD 27 then s.onPlot (plotOf b (s.bed b).ctxSel.toFin) fun x => { x with layerLoad := some w } else s)

/-- The layer state that a BED_CTX_LAYER word names. -/
def layerOf (w : Word) : Layer :=
  { id := BitVec.ofNat 16 (bitsOf w.toNat 15 0), count := BitVec.ofNat 8 (bitsOf w.toNat 23 16),
    rung := BitVec.ofNat 2 (bitsOf w.toNat 25 24), wide := w.getLsbD 26 }

/-- LAYER_STATE_INSTALL: the layer state is installed at an idle point. -/
def execLayerStateInstall (p : PlotIx) (s : State) : Out :=
  let x := s.plot p
  .next (match x.layerLoad with
    | some w => if idlePoint x then s.setPlot p { x with layerLoad := none, watch := { x.watch with layer := layerOf w } } else s
    | none => s)

end Sys2Proof.Machine
end

