-- ==== Sys2Proof/Machine/JobOps.lean ====
section
/-! DEFINITION. Operations over accepted jobs: life states, epoch slots, binding of tasks, batches, ending a job, notices
and charges (R268, R272, R278 to R283, R377). -/

namespace Sys2Proof.Machine

open Host

/-! ### Finding and changing jobs -/

/-- The job of a partition that a JOB_ID names. -/
def jobById (s : State) (q : PartIx) (id : Word) : Option Job := (s.part q).jobs.find? fun j => j.id == id

/-- Change the job that a JOB_ID names. -/
def onJob (q : PartIx) (id : Word) (f : Job → Job) (s : State) : State :=
  s.onPart q fun x => { x with jobs := updateWhere (fun j => j.id == id) f x.jobs }

/-- Change every job of a partition that satisfies `p`. -/
def onJobs (q : PartIx) (p : Job → Bool) (f : Job → Job) (s : State) : State :=
  s.onPart q fun x => { x with jobs := updateWhere p f x.jobs }

/-- Add 1 to a counter of ALM_JOBS (R277). -/
def countJob (q : PartIx) (i : Fin 8) (s : State) : State :=
  s.onPart q fun x => { x with counts := x.counts.set i.val (satAdd x.counts[i] 1) i.isLt }

/-- Add to a counter of ALM_EXEC (R299). -/
def countExec (q : PartIx) (i : Fin 4) (n : Nat) (s : State) : State :=
  s.onPart q fun x => { x with execs := x.execs.set i.val (satAdd x.execs[i] n) i.isLt }

/-- Suspended by SUSPEND. -/
def suspended (j : Job) : Bool :=
  match j.away with
  | .stopping b _ => b
  | .heeling b _ => b
  | .out b _ _ => b
  | _ => false

/-- Job state code of R292. -/
def stateCode (j : Job) : Nat :=
  let sus := if suspended j then 4 else 0
  match j.life with
  | .adm => 0x10 + sus
  | .running => 0x11 + sus
  | .runningFb => 0x12 + sus
  | .tainted _ => 0x13 + sus
  | _ => 0x18

/-- The package of the job's model declares a cut: the job is a member of a cut job (R405). -/
def cutMember (s : State) (q : PartIx) (j : Job) : Bool :=
  match findModel s q (jdModel j.desc) with
  | some (r, _) => decide (2 ≤ r.pkg.members)
  | none => false

/-- The job's slack now: d - wc, recomputed at f_plan. -/
def slackOf (s : State) (q : PartIx) (id : Word) : Int :=
  match (planFinishes s q (s.part q).fPlan.toNat).find? fun k => k.1.id == id with
  | some k => (jdDeadline k.1.desc : Int) - k.2
  | none => 0

/-- SLACK_THR in ns (R258, R275). -/
def slackThr (s : State) (q : PartIx) (j : Job) : Int :=
  1000 * ((if jdSlack j.desc = 0 then (s.part q).img.slackDef.toNat else jdSlack j.desc : Nat) : Int)

/-! ### Epoch slots (R281 to R283) -/

/-- The EPOCH word of a job. -/
def jobEpoch (j : Job) : Nat := j.slot.toNat * 2 ^ 24 + j.epoch.toNat

/-- The COUNT that follows one: it wraps from 0xFF_FFFE to 0. -/
def nextCount (c : BitVec 24) : BitVec 24 := if c = 0xFFFFFE then 0 else c + 1

/-- Write the entry of a slot in both cisterns and in every bed controller of a partition. -/
def writeSlot (q : PartIx) (slot : BitVec 8) (e : BitVec 25) (s : State) : State :=
  let s1 := forAll [0, 1] (fun s c => s.onCis c fun x =>
    { x with epochs := tabSet 0 x.epochs (256 * q.val + slot.toNat) e }) s
  forAll (bedsOf s q) (fun s b => s.onBed b fun x => { x with epochs := tabSet 0 x.epochs slot.toNat e }) s1

/-- An entry with COUNT and VALID. -/
def slotEntry (valid : Bool) (c : BitVec 24) : BitVec 25 := BitVec.ofNat 25 (c.toNat + valid.toNat * 2 ^ 24)

/-! ### Cuttings of a job (R467) -/

/-- The armed and capturing cuttings of a job become MISSED. -/
def missCuts (q : PartIx) (id : Word) (s : State) : State :=
  s.onPart q fun x => { x with
    cuts := x.cuts.map fun c => if c.job = id && (c.state = 1 || c.state = 2) then { c with state := 4 } else c }

/-- The pass fails and runs again: a capture under way starts over. -/
def rewindCuts (q : PartIx) (id : Word) (s : State) : State :=
  s.onPart q fun x => { x with
    cuts := x.cuts.map fun c => if c.job = id && c.state = 2 then { c with wptr := 0, pieces := 0, trunc := false } else c }

/-- The pass commits: a capturing cutting is READY and raises DEBUG. -/
def readyCuts (q : PartIx) (id : Word) (s : State) : State :=
  let hit := (s.part q).cuts.toList.any fun c => c.job == id && c.state == 2
  let s1 := s.onPart q fun x => { x with
    cuts := x.cuts.map fun c => if c.job = id && c.state = 2 then { c with state := 3 } else c }
  if hit then raiseDebug q s1 else s1

/-! ### Notices and JOB_END entries (R377) -/

/-- A NOTICE entry. -/
def noticeEntry (j : Job) (kind r0 : Nat) : CqEntry :=
  cqEntry
    { ty := 2, opc := 0, status := 0, state := 0, ssn := 0, tag := 0, reason := 0, kind := kind, job := j.id.toNat,
      index := 0, earliest := 0, r0 := r0, r1 := 0 }

/-- Post a notice to the pair that carried the job, with the NOTICE cause (R304). -/
def giveNotice (q : PartIx) (j : Job) (kind r0 : Nat) (s : State) : State :=
  raiseNotice q (giveEntry j.fn j.qp (noticeEntry j kind r0) s)

/-- STATUS of a final status. -/
def endStatus : Life → Nat
  | .ok => 0x20
  | .degraded => 0x21
  | .late => 0x22
  | .cancelled => 0x23
  | _ => 0x24

/-- The counter of a final status (R277). -/
def endCounter : Life → Fin 8
  | .ok => 2
  | .degraded => 3
  | .late => 4
  | .cancelled => 5
  | _ => 6

/-- A JOB_END entry. -/
def endEntry (j : Job) (l : Life) (bytes index : Nat) : CqEntry :=
  cqEntry
    { ty := 1, opc := 0, status := endStatus l, state := 0, ssn := 0, tag := 0, reason := 0, kind := 0,
      job := j.id.toNat, index := index, earliest := 0, r0 := bytes, r1 := min 65535 j.mainPasses + min 65535 j.fbPasses * 2 ^ 16 }

/-- A submission that waits for its answer and names a job of a partition. -/
def waitsOn (q : PartIx) (id : Word) (opcs : List Nat) (f : FnIx) (e : BitVec 1024) : Bool :=
  opcs.contains (seOpc e) && subPart f e == q && seJob e == id

/-- A job as its final status leaves it. -/
def jobEnded (l : Life) (j : Job) : Job :=
  { j with
    life := l
    away := .none
    inPass := false
    stopped := false
    advanced := false
    voting := false
    voteRes := none
    cancelReq := false
    switchNext := false
    passFailed := false
    tasks := []
    ctx := []
    flushed := []
    lates := []
    settled := [] }

/-- A job ends: it is counted, its slot is no longer valid, its cuttings are MISSED, its JOB_END is posted unless a reset
ended it, and a SUSPEND or RESUME of it that waits is answered (R272, R281, R313, R376). -/
def endJob (q : PartIx) (id : Word) (l : Life) (bytes index : Nat) (post : Bool) (s : State) : State :=
  match jobById s q id with
  | none => s
  | some j =>
    let s1 := writeSlot q j.slot (slotEntry false j.epoch) (onJob q id (jobEnded l) (countJob q (endCounter l) s))
    let s2 := if post then giveEntry j.fn j.qp (endEntry j l bytes index) (missCuts q id s1) else missCuts q id s1
    answerWaiting (waitsOn q id [0x03, 0x04]) (ansState 0x18) s2

/-! ### Binding tasks to plots (R278 to R280) -/

/-- A plot that takes no work any more. -/
def plotOutOf (s : State) (p : PlotIx) : Bool := (s.plot p).mode == .pruned || (s.plot p).banks != 0

/-- Free plots of a partition for jobs that satisfy `own`, ascending. -/
def freePlotsFor (s : State) (q : PartIx) (own : Job → Bool) : List PlotIx :=
  (plotsOf s q).filter fun p => !plotOutOf s p && !(s.part q).jobs.any fun j => !own j && j.tasks.any fun t => t.2 == p

/-- A plot takes a task: it is never power-gated while bound, wakes when it has no power, and leaves a halt that an earlier
stop left. -/
def takePlot (p : PlotIx) (s : State) : State :=
  s.onPlot p fun x => resumePlot { x with pgReq := false, mode := if x.mode = .off then .waking else x.mode }

/-- The binding of n tasks to the lowest plots of a list. -/
def bindingOn (n : Nat) (l : List PlotIx) : List (Nat × PlotIx) := (List.range n).zip l

/-- How many tasks of a binding stand on other plots than before. -/
def moved (old new : List (Nat × PlotIx)) : Nat :=
  (new.filter fun t => old.any fun u => u.1 == t.1 && u.2 != t.2).length

/-- PLT_WATCH_CYC of the plots of a binding. -/
def watchNow (s : State) (l : List (Nat × PlotIx)) : List (PlotIx × Nat) := l.map fun t => (t.2, (s.plot t.2).watch.cyc.toNat)

/-- Jobs that do plot work in passes still to come, in plan order, but for those suspended. -/
def plotWork (s : State) (q : PartIx) : List Job :=
  (liveJobs s q).filter fun j => jdKind j.desc ≠ 1 && 0 < j.toGo && !suspended j

/-- The jobs that the next batch holds: the longest run of jobs from the head of plan order with the same model at the same
pass configuration, none of them off its plots (R268). -/
def nextBatch (s : State) (q : PartIx) : List Job :=
  match plotWork s q with
  | [] => []
  | h :: t =>
    if h.away ≠ .none then []
    else h :: t.takeWhile fun j => j.away = .none && activeModel j = activeModel h && jdKind j.desc = jdKind h.desc

/-- A job as it joins the batch (R268, R272). -/
def jobJoins (time : DWord) (tasks : List (Nat × PlotIx)) (watch : List (PlotIx × Nat)) (shift : Bool) (j : Job) : Job :=
  let waited : Int := match j.waitFrom with
    | some t => (time - t).toNat
    | none => 0
  { j with
    life := if j.life = .adm then .running else j.life
    inPass := true
    tasks := tasks
    watchAt := watch
    passAt := time
    settled := []
    stopped := j.stopped || shift
    retryLeft := j.retryLeft - waited
    waitFrom := none }

/-- Seed every plot of a binding that the job did not hold before. -/
def seedNew (key : Nat) (old new : List (Nat × PlotIx)) (s : State) : State :=
  forAll (new.filter fun t => !old.contains t) (fun s t => if powered (s.plot t.2) && (s.plot t.2).mode != .waking then seedPlot t.2 key t.1 s else s) s

/-- The package whose models the next pass runs becomes resident on chip in compatibility mode (R295). -/
def swapPackage (q : PartIx) (handle : Nat) (s : State) : State :=
  match findModel s q handle with
  | none => s
  | some (r, _) =>
    if !(s.part q).img.compat || r.onChip then s
    else
      let s1 := s.onPart q fun x => { x with models := x.models.map fun m => { m with onChip := m.handle == r.handle } }
      countExec q 2 1 (forAll (plotsOf s q) (fun s p => reloadDefaults p s) s1)

/-- Every bed of a partition is asked for the plan clock (R325). -/
def planTargets (q : PartIx) (s : State) : State := forAll (bedsOf s q) (fun s b => setTarget b (s.part q).fPlan s) s

/-- The next pass of a partition is issued: its batch is formed and bound, its clock is written, and transcoding jobs begin. A
batch whose plots changed first advances its epochs (R278, R290, R325). -/
def startPass (q : PartIx) (s : State) : State :=
  let ms := nextBatch s q
  let s0 := onJobs q (fun j => jdKind j.desc = 1 && j.life = .adm) (fun j => { j with life := .running }) s
  match ms with
  | [] => s0
  | h :: _ =>
    let ids := ms.map (·.id)
    let old := (ms.find? fun j => !j.tasks.isEmpty).map (·.tasks) |>.getD []
    let keep := old.length == planPlots s q && old.all fun t => !plotOutOf s t.2
    let new := if keep then old else bindingOn (planPlots s q) (freePlotsFor s q fun j => ids.contains j.id)
    let n := moved old new
    let s1 := swapPackage q (activeModel h) s0
    let s2 := forAll (new.map (·.2)) (fun s p => takePlot p s) s1
    let s3 := seedNew (jdKey h.desc) old new s2
    let s4 := onJobs q (fun j => ids.contains j.id) (fun j => jobJoins s.time new (watchNow s new) (n ≠ 0 && !j.tasks.isEmpty) j) s3
    planTargets q (countExec q 1 n s4)

/-- No batch runs, and no job is on its way off or back onto its plots. -/
def plotsIdle (s : State) (q : PartIx) : Bool :=
  (liveJobs s q).all fun j => !j.inPass && (match j.away with
    | .none => true
    | .out _ _ _ => true
    | _ => false)

/-- Dispatch on a partition whose plots no job holds. -/
def dispatch (q : PartIx) (s : State) : State := if plotsIdle s q then startPass q s else s

/-! ### Stopping (R283, R286) -/

/-- FLUSH is written to the plots of some bindings. -/
def flushTasks (ts : List (Nat × PlotIx)) (s : State) : State :=
  forAll (ts.map (·.2)) (fun s p => if powered (s.plot p) then flushPlot p false s else s) s

/-- Every member of the running batch is stopped and will be heeled in. -/
def stopBatch (q : PartIx) (bySuspend : Bool) (maxUs : Word) (s : State) : State :=
  let ms := (s.part q).jobs.filter (·.inPass)
  let s1 := flushTasks (ms.flatMap (·.tasks)).dedup s
  onJobs q (·.inPass) (fun j => { j with
    away := .stopping bySuspend maxUs
    inPass := false
    stopped := true
    advanced := false
    flushed := [] }) s1

/-- The fallback's passes that replace R remaining main passes (R128, R269). -/
def fbPassesFor (j : Job) : Nat := cdiv (j.toGo * jdFbPasses j.desc) (max 1 (jdPasses j.desc))

/-- A job switches to its fallback model. -/
def jobSwitched (j : Job) : Job :=
  { j with
    life := if j.life = .running then .runningFb else j.life
    toGo := fbPassesFor j
    switchNext := false }

/-- A switch with its notice. -/
def switchJob (q : PartIx) (id : Word) (s : State) : State :=
  match jobById s q id with
  | none => s
  | some j =>
    if j.life = .running && jdEffective j.desc && 0 < j.toGo then
      giveNotice q j 2 0 (missCuts q id (onJob q id jobSwitched s))
    else onJob q id (fun j => { j with switchNext := false }) s

end Sys2Proof.Machine
end

