-- ==== Sys2Proof/Machine/Admit.lean ====
section
/-! DEFINITION. Admission: SUBMIT_JOB, and the commands that name jobs: CANCEL, SUSPEND, RESUME and QUERY_JOBS
(R217, R259, R263 to R265, R273, R285, R292, R293, R378, R428). -/

namespace Sys2Proof.Machine

open Host

/-! ### The descriptor (R258, R259, R428) -/

/-- A reserved field of the job descriptor is non-zero. -/
def jdReserved (d : BitVec 1024) : Bool := fld d 0x04 31 7 != 0 || d.toNat >>> (8 * 0x6C) != 0

/-- The clip exceeds the limits of a model. -/
def beyondLimits (m : ModelDesc) (d : BitVec 1024) : Bool :=
  m.maxWidth < jdWidth d || m.maxHeight < jdHeight d || m.maxFrames < jdFrames d

/-- The output of the job is encoded, or its input decoded, by the codec die. -/
def usesCodec (d : BitVec 1024) : Bool := jdKind d ≠ 2

/-- A field of the codec parameter block is out of range (R428). -/
def codecBad (c : BitVec 512) : Bool :=
  fld c 0x00 31 11 != 0 || fld c 0x04 31 24 != 0 || fld c 0x14 31 16 != 0 || c.toNat >>> (8 * 0x2C) != 0 ||
    fld c 0x00 6 5 == 3 || (fld c 0x00 0 0 == 1 && fld c 0x00 6 5 == 0 && 51 < fld c 0x04 23 16) ||
    fld c 0x10 15 0 < 50 || 10000 < fld c 0x10 15 0 || fld c 0x10 31 16 == 1 || 1024 < fld c 0x10 31 16 ||
    fld c 0x20 63 0 % 16 != 0 || fld c 0x28 31 0 % 16 != 0

/-- A descriptor that R259 refuses, whatever model is resident. -/
def descriptorBad (d : BitVec 1024) : Bool :=
  jdReserved d || jdKind d == 3 || jdPasses d == 0 || 4096 < jdPasses d || jdFrames d == 0 || jdWidth d == 0 ||
    jdHeight d == 0 || (jdFallback d != 0 && (jdFbPasses d == 0 || 4096 < jdFbPasses d)) ||
    (jdFallback d != 0 && jdKind d == 2) || (jdEntry d && jdKind d != 0)

/-! ### Quotas (R217) -/

/-- The larger footprint of a job's model and effective fallback in a tier. -/
def footOf (s : State) (q : PartIx) (d : BitVec 1024) (tier : Nat) : Nat :=
  let one (h : Nat) : Nat := ((findModel s q h).map fun rm => rm.2.foot.getD tier 0).getD 0
  max (one (jdModel d)) (if jdEffective d then one (jdFallback d) else 0)

/-- Bytes of a partition's hold buffers. -/
def t1Quota (s : State) (q : PartIx) : Nat := ((bedsOf s q).map fun b => (32 - (s.bed b).share.toNat) * mib).sum

/-- Bytes of a partition's T2 extents. -/
def t2Quota (s : State) (q : PartIx) : Nat := ((List.finRange 2).map fun c => ((s.cistern c).parts[q]).t2Size.toNat * mib).sum

/-- Bytes of T3 that traces and cuttings hold (R464, R465). -/
def debugT3 (s : State) (q : PartIx) : Nat :=
  (if (s.part q).trace.on then (s.part q).trace.pages.toNat * pageBytes else 0) +
    ((s.part q).cuts.toList.map fun c => if c.state = 0 then 0 else c.size).sum

/-- T3 quota that neither the spill area, nor traces and cuttings, nor the planned footprints of accepted jobs take. -/
def t3Free (s : State) (q : PartIx) : Nat :=
  t3Quota s q - ((s.part q).img.spillGib * 0x40000000 + debugT3 s q + ((liveJobs s q).map fun j => footOf s q j.desc 3).sum)

/-- The first tier whose quota a job does not fit. -/
def quotaShort (s : State) (q : PartIx) (d : BitVec 1024) : Option Nat :=
  if (s.part q).img.t0Plots.toNat < footOf s q d 0 then some 0x10
  else if t1Quota s q < footOf s q d 1 then some 0x11
  else if t2Quota s q < footOf s q d 2 then some 0x12
  else if t3Free s q < footOf s q d 3 then some 0x13
  else none

/-! ### The decision (R263 to R265) -/

/-- What admission works out for a newcomer at one clock step. -/
structure Plan where
  wc : Option Nat
  ranked : Nat
  lower : Nat
  plots : Option Nat
  codec : Option Nat
  need : Nat
  absorbers : List Word
  place : Nat
  reserves : Reserves
deriving DecidableEq, Repr

/-- j runs after k. -/
def ranksAhead (k : Job) (c d : Nat) : Bool := jdClass k.desc < c || (jdClass k.desc == c && jdDeadline k.desc ≤ d)

/-- Time and energy of the cuttings armed for a job before its submission (R458, R465). -/
def cutCosts (s : State) (q : PartIx) (d : BitVec 1024) : Nat × Nat :=
  let l := (s.part q).cuts.toList.filter fun c => c.state = 1 && c.job.toNat = fld d 0x00 31 0
  ((l.map (·.cost)).sum, (l.map (·.energy)).sum)

/-- The newcomer's reserves and the plot and codec parts of its W at a step. -/
def workOf (s : State) (q : PartIx) (d : BitVec 1024) (step : Nat) : PlanT × PlanT × Reserves :=
  match findModel s q (jdModel d) with
  | none => (none, none, { margin := 0, retry := 0, capacity := 0, exposure := 0, energy := 0 })
  | some (r, m) =>
    let cuts := cutCosts s q d
    let pt : PlanT := (plotTime s q r m d true (jdPasses d) step).map fun t => t + (cuts.1 : Rat)
    let ct := codecTime s q d
    let rs := reservesOf s q m d step (pt.getD 0 + ct.getD 0) (pt.getD 0)
    (pt, ct, { rs with energy := rs.energy + cuts.2 })

/-- One turn of the loop of R263 with deadline `dl`. -/
def planAt (s : State) (q : PartIx) (d : BitVec 1024) (dl step : Nat) : Plan :=
  let (pt, ct, rs) := workOf s q d step
  let res := rs.margin + rs.retry + rs.capacity + rs.exposure
  let need := ceilNs (pt.getD 0 + ct.getD 0) + res
  let fins := planFinishes s q step
  let walk (a : Nat × Nat × List Word × Nat × Nat) (k : Job × Nat) : Nat × Nat × List Word × Nat × Nat :=
    let (ranked, lower, abs, place, i) := a
    let n := needLeft s q step k.1
    if ranksAhead k.1 (jdClass d) dl then (ranked + n, lower, abs, i + 1, i + 1)
    else if k.2 + need ≤ jdDeadline k.1.desc then (ranked, lower, abs ++ [k.1.id], place, i + 1)
    else (ranked, lower + n, abs, i + 1, i + 1)
  let (ranked, lower, abs, place, _) := fins.foldl walk (0, 0, [], 0, 0)
  let ok := pt.isSome && ct.isSome
  { wc := if ok then some (s.time.toNat + ranked + lower + need) else none
    ranked := ranked
    lower := lower
    plots := pt.map fun t => ceilNs t + res
    codec := ct.map ceilNs
    need := need
    absorbers := abs
    place := place
    reserves := rs }

/-- Energy of the newcomer with its reserves at a step. -/
def newEnergy (s : State) (q : PartIx) (d : BitVec 1024) (step : Nat) (p : Plan) : Nat :=
  match findModel s q (jdModel d) with
  | none => 0
  | some (_, m) => energyAt (workEnergy s q m d true (jdPasses d) + p.reserves.energy) step

/-- Finishes and energies of all jobs with the newcomer's plan in force. -/
def energyList (s : State) (q : PartIx) (d : BitVec 1024) (step wc : Nat) (p : Plan) : List (Nat × Nat) :=
  (wc, newEnergy s q d step p) :: (planFinishes s q step).map fun k =>
    (k.2 + (if p.absorbers.contains k.1.id then p.need else 0), jobEnergy s q step k.1)

/-- Whether the newcomer is accepted at a step. -/
def acceptsAt (s : State) (q : PartIx) (d : BitVec 1024) (step : Nat) : Option (Nat × Plan × Nat) :=
  let p := planAt s q d (jdDeadline d) step
  match p.wc with
  | none => none
  | some w => if w ≤ jdDeadline d && energyFits s q (energyList s q d step w p) then some (step, p, w) else none

/-- The least deadline, from one on, by which the newcomer would finish at a step. -/
def earliestFrom (s : State) (q : PartIx) (d : BitVec 1024) (step : Nat) : Nat → Nat → Nat
  | 0, dl => dl
  | n + 1, dl =>
    match (planAt s q d dl step).wc with
    | none => never
    | some w => if w ≤ dl then dl else earliestFrom s q d step n w

/-- The least finish of the newcomer at which energy_fits holds. -/
def earliestEnergy (s : State) (q : PartIx) (d : BitVec 1024) (step w : Nat) (p : Plan) : Nat :=
  let l := energyList s q d step w p
  let starts := w :: (l.map (·.1)).filter (w < ·)
  let e := newEnergy s q d step p
  let at_ (b : Nat) : Nat :=
    let used : Int := (e + (((l.drop 1).filter fun k => k.1 ≤ b).map (·.2)).sum : Nat)
    let short := used - (s.part q).bal
    if short ≤ 0 then b
    else if shareW s q = 0 then never
    else max b (s.time.toNat + cdiv (short.toNat * 1000) (shareW s q))
  let good := (starts.map at_).filter fun t => t < never && energyFits s q ((t, e) :: l.drop 1)
  good.foldl min never

/-- The refusal of R265 for a newcomer that no step up to f_cap accepts. -/
def refusalOf (s : State) (q : PartIx) (d : BitVec 1024) (cap : Nat) : Answer :=
  let dl := jdDeadline d
  let p := planAt s q d dl cap
  let now := s.time.toNat
  match p.plots, p.codec with
  | none, _ => ansDeadline 0x01 never
  | some a, none => if now + p.ranked + a ≤ dl then ansDeadline 0x02 never else ansDeadline 0x01 never
  | some a, some c =>
    let e := earliestFrom s q d cap 257 dl
    if dl < now + p.ranked + a then ansDeadline 0x01 e
    else if dl < now + p.ranked + a + c then ansDeadline 0x02 e
    else if dl < now + p.ranked + a + c + p.lower then ansDeadline 0x03 e
    else match p.wc with
      | some w => ansEnergy 0x04 (earliestEnergy s q d cap w p)
      | none => ansDeadline 0x01 e

/-- The lowest job slot that no job holds. -/
def freeJobSlot (s : State) (q : PartIx) : BitVec 8 :=
  BitVec.ofNat 8 (((List.range 256).find? fun k => !(liveJobs s q).any fun j => j.slot.toNat == k).getD 0)

/-- Insert before the n-th live job, after everything ahead of it. -/
def insertLive (j : Job) : Nat → List Job → List Job
  | _, [] => [j]
  | 0, l => j :: l
  | n + 1, k :: t => k :: insertLive j (if jobLive k then n else n + 1) t

/-- The new job as it is accepted. -/
def newJob (s : State) (f : FnIx) (i : QpIx) (e d : BitVec 1024) (codec : BitVec 512) (q : PartIx) (p : Plan) (wc : Nat) : Job :=
  { id := seJob e
    desc := d
    codec := codec
    fn := f
    qp := i
    ssn := seSsn e
    slot := freeJobSlot s q
    epoch := 0
    life := .adm
    away := .none
    mainPasses := 0
    fbPasses := 0
    toGo := if jdKind d = 1 then 0 else jdPasses d
    wc := wc
    marginLeft := p.reserves.margin
    retryLeft := p.reserves.retry
    exposure := p.reserves.exposure
    capacity := p.reserves.capacity
    energy := p.reserves.energy
    watchAt := []
    holdUs := 0
    retries := 0
    cancelReq := false
    switchNext := false
    passFailed := false
    inPass := false
    stopped := false
    advanced := false
    voting := false
    voteRes := none
    passAt := s.time
    waitFrom := none
    tasks := []
    ctx := []
    flushed := []
    lates := []
    settled := []
    extra := 0 }

/-- The JOB_ID of the descriptor, the job's name (R258). -/
def jobName (d : BitVec 1024) : Word := BitVec.ofNat 32 (fld d 0x00 31 0)

/-- The job enters the plan. -/
def acceptJob (f : FnIx) (i : QpIx) (e d : BitVec 1024) (codec : BitVec 512) (q : PartIx) (step : Nat) (p : Plan) (wc : Nat) (s : State) : State :=
  let j := { newJob s f i e d codec q p wc with id := jobName d, extra := (cutCosts s q d).1 }
  let fins := planFinishes s q step
  let grown (k : Job) : Job :=
    if jobLive k && p.absorbers.contains k.id then
      { k with wc := ((fins.find? fun x => x.1.id == k.id).map fun x => x.2 + p.need).getD k.wc }
    else k
  let s1 := s.onPart q fun x =>
    { x with
      jobs := insertLive j p.place ((x.jobs.filter fun k => k.id ≠ j.id || jobLive k).map grown)
      fPlan := BitVec.ofNat 5 step }
  countJob q 0 (writeSlot q j.slot (slotEntry true 0) s1)

/-! ### Preemption at dispatch (R285, R287) -/

/-- Bytes of contexts already heeled in, and of those on their way. -/
def ctxBytes (j : Job) : Nat := ((j.ctx.flatMap (·.regions)).map fun r => roundUp r.2.2 64).sum

/-- Spill area of a partition in bytes. -/
def spillBytes (s : State) (q : PartIx) : Nat := (s.part q).img.spillGib * 0x40000000

/-- T2 bytes that no package's footprint takes. -/
def t2Free (s : State) (q : PartIx) : Nat :=
  t2Quota s q - (((liveJobs s q).map fun j => footOf s q j.desc 2).foldl max 0)

/-- Bytes of contexts that lie in T3. -/
def spillUsed (s : State) (q : PartIx) : Nat :=
  (((s.part q).jobs.filter fun j => j.ctx.any fun c => c.regions.any fun r => t3Base ≤ r.2.1.toNat).map ctxBytes).sum

/-- Bytes of contexts that lie in T2. -/
def t2Used (s : State) (q : PartIx) : Nat :=
  (((s.part q).jobs.filter fun j => j.ctx.any fun c => c.regions.any fun r => r.2.1.toNat < t3Base).map ctxBytes).sum

/-- Room for a context of the largest size a job's tasks can have. -/
def roomFor (s : State) (q : PartIx) (j : Job) : Bool :=
  liveMost s q j + t2Used s q ≤ t2Free s q || liveMost s q j + spillUsed s q ≤ spillBytes s q

/-- A victim passes both tests of R285; a member of a cut job never does (R416). -/
def mayPreempt (s : State) (q : PartIx) (j : Job) : Bool :=
  !cutMember s q j && decide ((preHeld s q j : Int) ≤ slackOf s q j.id) && roomFor s q j

/-- The newcomer is dispatched: on free plots at once, or by preempting the batch when it ranks ahead of all of it. -/
def dispatchNew (q : PartIx) (id : Word) (s : State) : State :=
  if plotsIdle s q then startPass q s
  else
    let ms := (s.part q).jobs.filter (·.inPass)
    let first := (plotWork s q).head?.map (·.id) == some id
    if !first || ms.isEmpty then s
    else if ms.all (mayPreempt s q) then countExec q 0 ms.length (stopBatch q false 0 s)
    else onJob q id (fun j => { j with waitFrom := some s.time }) s

/-! ### SUBMIT_JOB -/

/-- The answer to a SUBMIT_JOB, or the plan on which it is accepted. -/
def decideJob (s : State) (q : PartIx) (e d : BitVec 1024) (codec : BitVec 512) (dmaOk : Bool) : Except Answer (Nat × Plan × Nat) :=
  let x := s.part q
  let m := findModel s q (jdModel d)
  let fb := if jdEffective d then findModel s q (jdFallback d) else none
  if x.adm ≠ 0 then .error (ansState x.adm.toNat)
  else if (x.jobs.any fun j => jobLive j && (j.id == seJob e || dmaOk && j.id == jobName d)) then .error (ansState 0x1A)
  else if !dmaOk || descriptorBad d || (usesCodec d && codecBad codec) then .error (ansDeadline 0x06 never)
  else if m.isNone || (jdEffective d && fb.isNone) then .error (ansState 4)
  else if (m.map fun r => beyondLimits r.2 d).getD false || (fb.map fun r => beyondLimits r.2 d).getD false then
    .error (ansDeadline 0x06 never)
  else match quotaShort s q d with
    | some r => .error (ansQuota r never)
    | none =>
      if (liveJobs s q).length = 256 then .error (ansQuota 0x14 (((liveJobs s q).map (·.wc)).foldl min never))
      else if bedsNow s q < x.img.faultBeds.toNat + 1 || 0 < x.withdrawn then .error (ansDeadline 0x05 never)
      else
        let own := jobPower s q d (jdModel d)
        let cap := fCap s q (own :: jobPowers s q)
        let steps := (List.range (cap + 1)).drop x.fPlan.toNat
        match steps.findSome? (acceptsAt s q d) with
        | some r => .ok r
        | none => .error (refusalOf s q d cap)

/-- SUBMIT_JOB: the next submission of a pair is admitted or refused. -/
def execSubmitJob (f : FnIx) (i : QpIx) (dmaOk : Bool) (s : State) : Out :=
  .next (match nextSubmission s f i, fnPart f with
    | some e, some q =>
      if seOpc e ≠ 0x01 then s
      else
        let d := BitVec.ofNat 1024 (natOf (hostRead s (seAddr e) 128))
        let codec := BitVec.ofNat 512 (natOf (hostRead s (jdCodec d) 64))
        match decideJob s q e d codec dmaOk with
        | .error a => answerNow f i a (countJob q 1 s)
        | .ok (step, p, w) =>
          dispatchNew q (jobName d) (answerNow f i (ansDone 0 0) (acceptJob f i e d codec q step p w s))
    | _, _ => s)

/-! ### CANCEL (R273) -/

/-- A running job that shares its batch with others. -/
def inCompany (s : State) (q : PartIx) (j : Job) : Bool := ((s.part q).jobs.filter (·.inPass)).length ≥ 2 && j.inPass

/-- The effect of an accepted CANCEL: an ADMITTED or displaced job ends at once, a job alone in its batch has its plots
flushed, and any other ends at the next boundary. -/
def cancelJob (q : PartIx) (j : Job) (s : State) : State :=
  if j.life = .adm || j.away ≠ .none then dispatch q (endJob q j.id .cancelled 0 0 true s)
  else if inCompany s q j || !j.inPass then onJob q j.id (fun j => { j with cancelReq := true }) s
  else onJob q j.id (fun j => { j with cancelReq := true, stopped := true }) (flushTasks j.tasks s)

/-- CANCEL: the next submission of a pair names a job. -/
def execCancel (f : FnIx) (i : QpIx) (s : State) : Out :=
  .next (match nextSubmission s f i with
    | some e =>
      if seOpc e ≠ 0x02 then s
      else
        let q := subPart f e
        match jobById s q (seJob e) with
        | none => answerNow f i (ansState 0x19) s
        | some j =>
          if !jobLive j then answerNow f i (ansState 0x18) s
          else cancelJob q j (answerNow f i (ansDone 0 0) s)
    | none => s)

/-! ### SUSPEND and RESUME (R287, R292, R293, R416) -/

/-- The effect of an accepted SUSPEND of MAX_US: the job is heeled in as a victim; a job that is already off its plots stays
there; one that shares its batch leaves it at the next boundary, where it holds no live T0 data. -/
def suspendJob (q : PartIx) (j : Job) (maxUs : Word) (s : State) : State :=
  let s1 := onJob q j.id (fun j => { j with extra := j.extra + maxUs.toNat * 1000 + preHeld s q j }) s
  match j.away with
  | .stopping _ _ => onJob q j.id (fun j => { j with away := .stopping true maxUs }) s1
  | .heeling _ _ => onJob q j.id (fun j => { j with away := .heeling true maxUs }) s1
  | .out _ _ _ =>
    answerWaiting (waitsOn q j.id [0x03]) (ansDone 0 0) (onJob q j.id (fun j => { j with away := .out true s.time maxUs }) s1)
  | .restoring =>
    answerWaiting (waitsOn q j.id [0x03]) (ansDone 0 0)
      (onJob q j.id (fun j => { j with away := .out true s.time maxUs, tasks := [], stopped := false, advanced := false }) s1)
  | .none =>
    if inCompany s q j || !j.inPass then
      onJob q j.id (fun j => { j with away := .stopping true maxUs }) s1
    else stopBatch q true maxUs s1

/-- SUSPEND: the next submission of a pair; an accepted one is answered once the job is heeled in. -/
def execSuspend (f : FnIx) (i : QpIx) (s : State) : Out :=
  .next (match nextSubmission s f i with
    | some e =>
      if seOpc e ≠ 0x03 then s
      else
        let q := subPart f e
        match jobById s q (seJob e) with
        | none => answerNow f i (ansState 0x19) s
        | some j =>
          let maxUs := BitVec.ofNat 32 (seArg e)
          let cost := maxUs.toNat * 1000 + preHeld s q j
          if j.life = .adm || !jobLive j || suspended j then answerNow f i (ansState (stateCode j)) s
          else if cutMember s q j then answerNow f i (ansState 0x1B) s
          else if slackOf s q j.id < cost then
            answerNow f i (ansDeadline 0x01 (((jdDeadline j.desc : Int) - slackOf s q j.id).toNat + cost)) s
          else if !roomFor s q j then answerNow f i (ansQuota 0x13 never) s
          else suspendJob q j maxUs (takeUp f i s)
    | none => s)

/-- A suspended job counts as a plain victim from here on. -/
def unsuspend (j : Job) : Job :=
  { j with
    away := match j.away with
      | .stopping _ m => .stopping false m
      | .heeling _ m => .heeling false m
      | .out _ t m => .out false t m
      | a => a }

/-- RESUME: the next submission of a pair; it is answered once the job is bound again. A SUSPEND that still waits for the
heel-in is answered with it. -/
def execResume (f : FnIx) (i : QpIx) (s : State) : Out :=
  .next (match nextSubmission s f i with
    | some e =>
      if seOpc e ≠ 0x04 then s
      else
        let q := subPart f e
        match jobById s q (seJob e) with
        | none => answerNow f i (ansState 0x19) s
        | some j =>
          if !suspended j then answerNow f i (ansState (stateCode j)) s
          else onJob q j.id unsuspend (takeUp f i s)
    | none => s)

/-- SUSPEND_EXPIRE: MAX_US has passed since the job was heeled in. -/
def execSuspendExpire (q : PartIx) (job : Word) (s : State) : Out :=
  .next (match jobById s q job with
    | some j =>
      match j.away with
      | .out true t m => if m.toNat * 1000 ≤ (s.time - t).toNat then onJob q job unsuspend s else s
      | _ => s
    | none => s)

/-! ### QUERY_JOBS (R378) -/

/-- A 16-byte record of a job. -/
def queryRecord (j : Job) : Nat :=
  j.id.toNat + stateCode j * 2 ^ 32 + j.qp.val * 2 ^ 40 + j.ssn.toNat * 2 ^ 64 + (j.mainPasses + j.fbPasses) % 65536 * 2 ^ 96

/-- QUERY_JOBS: records of the non-final jobs in ascending SSN, as many as the buffer holds. -/
def execQueryJobs (f : FnIx) (i : QpIx) (dmaOk : Bool) (s : State) : Out :=
  .next (match nextSubmission s f i with
    | some e =>
      if seOpc e ≠ 0x05 then s
      else if !dmaOk then answerNow f i (ansState 0x3C) s
      else
        let js := (liveJobs s (subPart f e)).mergeSort fun a b => a.ssn.toNat ≤ b.ssn.toNat
        let out := js.take (seLen e / 16)
        answerNow f i (ansDone out.length js.length) (hostWrite (seAddr e) (out.flatMap fun j => bytesOf 16 (queryRecord j)) s)
    | none => s)

end Sys2Proof.Machine
end

