-- ==== Sys2Proof/Machine/PruneLog.lean ====
section
/-! DEFINITION. The flash devices and the prune log: slots, records, appends and rotation (R346, R347, R360 to R365). -/

namespace Sys2Proof.Machine

open Host

/-! ### Flash (R346, R347) -/

/-- Where the prune-log sector of a device begins. -/
def sectorBase : Nat := 0x3F80000

/-- Bytes of a device's image range. -/
def imageRange : Nat := 0x3F80000

/-- Bytes of a flash device. Erased cells read 0xFF. -/
def flashRead (s : State) (d : Fin 2) (a n : Nat) : List Byte := tabRead 0xFF s.image.flash[d] a n

/-- Change the cells of a flash device. -/
def onFlash (d : Fin 2) (f : Tab Byte → Tab Byte) (s : State) : State :=
  { s with image := { s.image with flash := s.image.flash.set d.val (f s.image.flash[d]) d.isLt } }

/-- Programming clears bits and never sets one. -/
def flashProgram (d : Fin 2) (a : Nat) (bs : List Byte) (s : State) : State :=
  onFlash d (fun t => tabWrite 0xFF t a ((tabRead 0xFF t a bs.length).zipWith (· &&& ·) bs)) s

/-- Erase a range. -/
def flashErase (d : Fin 2) (a n : Nat) (s : State) : State := onFlash d (fun t => tabClear t a n) s

/-! ### Slots (R360, R363) -/

/-- The device that holds prune-log sector S0 or S1. -/
def logDev (sector : Bool) : Fin 2 := if sector then 1 else 0

/-- Slot n of a sector. -/
def logSlot (s : State) (sector : Bool) (n : Nat) : BitVec 512 :=
  BitVec.ofNat 512 (natOf (flashRead s (logDev sector) (sectorBase + 64 * n) 64))

/-- STATE of a slot. -/
def slState (r : BitVec 512) : Nat := fld r 0x00 7 0
/-- TYPE of a slot. -/
def slType (r : BitVec 512) : Nat := fld r 0x01 7 0
/-- SEQ of a record, generation of a header. -/
def slSeq (r : BitVec 512) : Nat := fld r 0x04 31 0
/-- Payload of a record. -/
def slPayload (r : BitVec 512) : Nat := bitsOf r.toNat (128 + 319) 128
/-- CRC of a slot. -/
def slCrc (r : BitVec 512) : Nat := fld r 0x38 31 0

/-- The CRC that belongs to a slot's bytes 0x01 to 0x37. -/
def slotCrc (r : BitVec 512) : Nat := crc32c ((bytesOf 56 r.toNat).drop 1)

/-- A free slot: all ones. -/
def slotFree (r : BitVec 512) : Bool := r == BitVec.allOnes 512

/-- A header is intact when its CRC matches. -/
def slotIntact (r : BitVec 512) : Bool := slotCrc r == slCrc r

/-- A complete or valid record: bit 0 of STATE clear and a CRC that matches. -/
def slotGood (r : BitVec 512) : Bool := !r.getLsbD 0 && slotIntact r && slType r != 0x7F

/-- The number of slots up to the highest one that is not free. -/
def slotsUsed (s : State) (sector : Bool) : Nat :=
  (((List.range 4096).reverse.find? fun n => !slotFree (logSlot s sector n)).map (· + 1)).getD 0

/-- Free slots of the active sector (R367). -/
def slotsFree (s : State) : Nat := ((List.range 4096).filter fun n => slotFree (logSlot s s.image.sector n)).length

/-- The good records of a sector, in slot order; one that is DEAD is none. -/
def logRecords (s : State) (sector : Bool) : List (BitVec 512) :=
  (((List.range (slotsUsed s sector)).drop 1).map (logSlot s sector)).filter fun r => slotGood r && slState r != 0x00

/-- A record with SEQ, STATE and CRC as its last step leaves it. -/
def sealed (r : BitVec 512) (seq : Word) (st : Nat) : BitVec 512 :=
  let v := setBits (setBits r.toNat 63 32 seq.toNat) 7 0 st
  BitVec.ofNat 512 (setBits v 479 448 (slotCrc (BitVec.ofNat 512 v)))

/-! ### Append (R362) -/

/-- The log has an active sector that the Almanac may write (R357). -/
def logOpen (s : State) : Bool := 5 ≤ s.image.stage.toNat && !s.image.recovery

/-- One step of the append of the oldest record that waits: bytes 0x00 to 0x0F with STATE WRITING, the payload, the CRC,
STATE VALID. -/
def appendOne (step : Nat) (r : BitVec 512) (rest : List (BitVec 512)) (s : State) : State :=
  let sec := s.image.sector
  let used := slotsUsed s sec
  let at_ := sectorBase + 64 * (if step = 0 then used else used - 1)
  let seq := s.image.seq + 1
  let bs := bytesOf 64 (sealed r seq 0xFE).toNat
  let prog (o n : Nat) (s : State) : State := flashProgram (logDev sec) (at_ + o) ((bs.drop o).take n) s
  let next (n : Nat) (s : State) : State := { s with image := { s.image with appendStep := n } }
  match step with
  | 0 => if 4096 ≤ used then s else next 1 (prog 0x00 16 s)
  | 1 => next 2 (prog 0x10 40 s)
  | 2 => next 3 (prog 0x38 4 s)
  | _ =>
    let s1 := flashProgram (logDev sec) at_ [0xF0] s
    { s1 with image := { s1.image with appendStep := 0, seq := seq, pendingLog := rest } }

/-- PRUNE_LOG_APPEND. -/
def execPruneLogAppend (step : Fin 4) (s : State) : Out :=
  .next (match s.image.pendingLog with
    | [] => s
    | r :: rest => if logOpen s && s.image.appendStep = step.val then appendOne step.val r rest s else s)

/-! ### What is in force (R363) -/

/-- The resource of a PRUNE or RETURN payload: kind, index and sub-index. -/
def slResource (r : BitVec 512) : Nat := slPayload r % 2 ^ 40

/-- Records after a given one, in SEQ order, that satisfy a test. -/
def anyLater (test : BitVec 512 → Bool) (r : BitVec 512) (l : List (BitVec 512)) : Bool :=
  l.any fun k => serialGt 32 (slSeq k) (slSeq r) && test k

/-- A PRUNE that no later RETURN of its resource cancels. -/
def pruneInForce (l : List (BitVec 512)) (r : BitVec 512) : Bool :=
  slType r == 1 && !anyLater (fun k => slType k == 2 && slResource k == slResource r) r l

/-- A RELOCATE that no later one for its first frame replaces. -/
def relocateInForce (l : List (BitVec 512)) (r : BitVec 512) : Bool :=
  slType r == 3 && !anyLater (fun k => slType k == 3 && slPayload k % 2 ^ 32 == slPayload r % 2 ^ 32) r l

/-- The latest PRUNE record of a resource, in the log or waiting for it. -/
def latestPrune (s : State) (kind index sub : Nat) : Option (BitVec 512) :=
  (logRecords s s.image.sector ++ s.image.pendingLog).reverse.find? fun r =>
    slType r == 1 && slResource r == kind + index * 2 ^ 8 + sub * 2 ^ 24

/-- RETURNS of the latest PRUNE record of a resource (R475). -/
def returnsOf (s : State) (kind index sub : Nat) : Nat :=
  ((latestPrune s kind index sub).map fun r => bitsOf (slPayload r) 87 80).getD 0

/-- A resource has returned as often as RET_MAX allows: it stays pruned and is not tested (R484). -/
def returnsSpent (s : State) (kind index sub : Nat) : Bool := s.dev.fault.retMax ≤ returnsOf s kind index sub

/-- A resource that passed its test returns: its RETURN record, with the errors seen in the test (R475, R484). -/
def recordReturn (kind index sub errs : Nat) (s : State) : State :=
  match latestPrune s kind index sub with
  | none => s
  | some r => queueLog 2 11 (setBits (setBits (slPayload r) 79 48 errs) 87 80 (returnsOf s kind index sub + 1)) s

/-! ### Rotation (R364) -/

/-- A sector header with a generation and a STATE. -/
def headerSlot (s : State) (gen st : Nat) : BitVec 512 := sealed (logRecord s 0x7F 0 0) (BitVec.ofNat 32 gen) st

/-- Records of the active sector from a slot on that a rotation copies: PRUNE and RELOCATE records in force, and the latest
1,024 others. -/
def rotationSet (s : State) (from_ : Nat) : List (BitVec 512) :=
  let sec := s.image.sector
  let all := logRecords s sec
  let others := all.filter fun r => !pruneInForce all r && !relocateInForce all r && slType r != 1 && slType r != 3
  let keep := others.drop (others.length - 1024)
  let fresh := (((List.range (slotsUsed s sec)).drop (max 1 from_)).map (logSlot s sec)).filter fun r => all.contains r
  fresh.filter fun r => pruneInForce all r || relocateInForce all r || keep.contains r

/-- Copy records behind those of the other sector, with their original SEQ, BOOT and UPTIME_MS. -/
def copyRecords (sec : Bool) : List (BitVec 512) → State → State
  | [], s => s
  | r :: rest, s =>
    copyRecords sec rest
      (flashProgram (logDev sec) (sectorBase + 64 * slotsUsed s sec)
        (bytesOf 64 (sealed r (BitVec.ofNat 32 (slSeq r)) 0xF0).toNat) s)

/-- Record how far the rotation has come. -/
def rotated (step copied : Nat) (s : State) : State := { s with image := { s.image with rotStep := step, rotCopied := copied } }

/-- The steps of a rotation: erase, open, copy, activate, retire. -/
def rotateStep (step : Nat) (s : State) : State :=
  let old := s.image.sector
  let new := !old
  let gen := (slSeq (logSlot s old 0) + 1) % 2 ^ 32
  let copyDone := s.image.appendStep = 0 && s.image.rotCopied = slotsUsed s old
  match step with
  | 0 => rotated 1 0 (flashErase (logDev new) sectorBase 0x40000 s)
  | 1 => rotated 2 1 (flashProgram (logDev new) sectorBase (bytesOf 64 (headerSlot s gen 0xFE).toNat) s)
  | 2 => if s.image.appendStep = 0 then rotated 3 (slotsUsed s old) (copyRecords new (rotationSet s s.image.rotCopied) s) else s
  | 3 =>
    if copyDone then
      let s1 := flashProgram (logDev new) sectorBase [0xF0] s
      rotated 4 0 { s1 with image := { s1.image with sector := new } }
    else s
  | _ =>
    let s1 := flashProgram (logDev new) sectorBase [0x00] s
    rotated 0 0 { s1 with image := { s1.image with rotating := false } }

/-- LOG_ROTATION: it begins when fewer than 64 slots are free, or when start-up asks for it; the copy is taken up again when
records have been appended since. -/
def execLogRotation (step : Fin 5) (s : State) : Out :=
  .next (if !logOpen s then s
    else if s.image.rotating then
      if s.image.rotStep = step.val || (s.image.rotStep = 3 && step = 2) then rotateStep step.val s else s
    else if step = 0 && slotsFree s < 64 then rotateStep 0 { s with image := { s.image with rotating := true, rotStep := 0 } }
    else s)

end Sys2Proof.Machine
end

