-- ==== Sys2Proof/Machine/ImageFmt.lean ====
section
/-! DEFINITION. The Wilne image: its format, the checks that make a copy valid, the choice of a copy, and what its sections
put in force (R348 to R356, R301, R403, R474). -/

namespace Sys2Proof.Machine

open Host

/-! ### Format (R348, R349) -/

/-- Bits [hi:lo] of the little-endian field at a byte offset. -/
def bFld (b : List Byte) (off hi lo : Nat) : Nat := bitsOf (natOf ((b.drop off).take 8)) hi lo

/-- Bytes [off, off + n). -/
def bSub (b : List Byte) (off n : Nat) : List Byte := (b.drop off).take n

/-- A section-table entry. -/
structure Sec where
  ty : Nat
  req : Bool
  resv : Nat
  off : Nat
  len : Nat
  crc : Nat
deriving DecidableEq, Repr

/-- IMAGE_LEN of a copy's header. -/
def imgLen (s : State) (d : Fin 2) : Nat := natOf (flashRead s d 0x0C 4)

/-- GENERATION of a copy's header. -/
def imgGen (s : State) (d : Fin 2) : Nat := natOf (flashRead s d 0x08 4)

/-- The bytes of a copy; a copy whose IMAGE_LEN lies beyond its range is not read behind its header. -/
def imageBytes (s : State) (d : Fin 2) : List Byte := flashRead s d 0 (if imageRange < imgLen s d then 64 else imgLen s d)

/-- SECTION_COUNT. -/
def secCount (b : List Byte) : Nat := bFld b 0x04 31 16

/-- Entry k of the section table. -/
def secEntry (b : List Byte) (k : Nat) : Sec :=
  let o := 64 + 16 * k
  { ty := bFld b o 15 0, req := bFld b o 16 16 == 1, resv := bFld b o 31 17, off := bFld b (o + 4) 31 0,
    len := bFld b (o + 8) 31 0, crc := bFld b (o + 12) 31 0 }

/-- The section table. -/
def secTable (b : List Byte) : List Sec := (List.range (secCount b)).map (secEntry b)

/-- The bytes of a section. -/
def secBytes (b : List Byte) (x : Sec) : List Byte := bSub b x.off x.len

/-- The sections of one type, in table order. -/
def secsOf (b : List Byte) (ty : Nat) : List (List Byte) := ((secTable b).filter fun x => x.ty = ty).map (secBytes b)

/-- The only section of a type. -/
def secOf (b : List Byte) (ty : Nat) : List Byte := (secsOf b ty).getD 0 []

/-- A section type that the device knows. -/
def knownType (ty : Nat) : Bool := [1, 2, 3, 4, 5, 0x10, 0x11].contains ty

/-- The length that a section type has, where the manual fixes it. -/
def fixedLen (ty : Nat) : Option Nat :=
  match ty with
  | 1 => some 64
  | 2 => some 128
  | 4 => some 32
  | 5 => some 32
  | _ => none

/-- Every bit outside the fields listed is 0. -/
def onlyFields (b : List Byte) (fields : List (Nat × Nat × Nat)) : Bool :=
  fields.foldl (fun v f => setBits v (8 * f.1 + f.2.1) (8 * f.1 + f.2.2) 0) (natOf b) == 0

/-- Reserved bits of the sections with a fixed layout are zero (R350, R351, R352, R403, R474). -/
def reservedOk (x : Sec) (b : List Byte) : Bool :=
  match x.ty with
  | 1 => onlyFields b ([(0, 27, 0), (4, 27, 0), (8, 23, 0), (0xC, 14, 0), (0x10, 15, 0), (0x14, 31, 0), (0x18, 2, 0), (0x1C, 24, 0),
      (0x20, 4, 0)] ++ (List.range 16).map fun i => (0x24 + i, 4, 0))
  | 2 => onlyFields b [(0, 31, 0), (4, 16, 0), (8, 16, 0), (0xC, 19, 0), (0x10, 23, 0), (0x14, 23, 0), (0x18, 15, 0), (0x1C, 11, 0),
      (0x20, 22, 0), (0x24, 21, 0), (0x28, 23, 0), (0x2C, 31, 0), (0x30, 7, 0)]
  | 3 => (List.range (bFld b 0 31 0)).all fun k => bFld b (4 + 8 * k) 31 19 == 0
  | 4 => onlyFields b [(0, 13, 0), (0, 31, 16), (4, 23, 0), (8, 20, 0), (0xC, 6, 0), (0x10, 10, 0)]
  | 5 => onlyFields b [(0, 31, 0), (4, 31, 0), (8, 27, 0)]
  | _ => true

/-- Where the signature block begins. -/
def sigAt (b : List Byte) : Nat := b.length - 512

/-- Check 1: header, section table, extents and reserved fields. -/
def shapeOk (b : List Byte) : Bool :=
  let len := bFld b 0x0C 31 0
  let n := secCount b
  bFld b 0 31 0 == 0x574C4E45 && bFld b 4 15 0 == 1 && 1 ≤ n && n ≤ 64 &&
    len % 256 == 0 && len ≤ imageRange && 64 + 16 * n + 512 ≤ len &&
    bFld b 0x10 31 5 == 0 && (bSub b 0x20 32).all (· == 0) &&
    ((secTable b).all fun x => x.resv == 0 && x.off % 256 == 0 && x.off + x.len ≤ len &&
      (match fixedLen x.ty with
       | some l => x.len == l
       | none => true) && reservedOk x (secBytes b x)) &&
    (bSub b (sigAt b + 0x61) 7).all (· == 0) && (bSub b (sigAt b + 0xF8) (512 - 0xF8)).all (· == 0)

/-- KEY_INDEX. -/
def keyIndex (b : List Byte) : Fin 4 := Fin.ofNat 4 (bFld b 0x10 4 3)

/-- PUBKEY. -/
def pubKey (b : List Byte) : List Byte := bSub b (sigAt b) 97

/-- DIGEST. -/
def digestOf (b : List Byte) : List Byte := bSub b (sigAt b + 0x68) 48

/-- SHA-384 of the message. -/
def messageHash (b : List Byte) : List Byte := sha384 (b.take (sigAt b))

/-- Check 5: the signature. -/
def signatureOk (b : List Byte) : Bool :=
  let k := pubKey b
  k.headD 0 == 0x04 &&
    ecdsaOk (natBe (bSub k 1 48), natBe (bSub k 49 48)) (natBe (messageHash b)) (natBe (bSub b (sigAt b + 0x98) 48))
      (natBe (bSub b (sigAt b + 0xC8) 48))

/-- PART_COUNT. -/
def partCount (b : List Byte) : Nat := bFld (secOf b 1) 0x20 4 0

/-- Check 6: section CRCs, required types, section counts. -/
def sectionsOk (b : List Byte) : Bool :=
  (secTable b).all (fun x => crc32c (secBytes b x) == x.crc && (!x.req || knownType x.ty)) &&
    [1, 3, 4, 5, 0x10, 0x11].all (fun t => (secsOf b t).length == 1) && (secsOf b 2).length == partCount b

/-! ### The rules of check 7 -/

/-- The partitions' sections, by index. -/
def partSecs (b : List Byte) : List (List Byte) := secsOf b 2

/-- Sum of a field over the partitions. -/
def partSum (b : List Byte) (off hi lo : Nat) : Nat := ((partSecs b).map fun p => bFld p off hi lo).sum

/-- Beds that a partition's mask names. -/
def bedCount (p : List Byte) : Nat := ((List.range 16).filter fun i => (bFld p 0 15 0).testBit i).length

/-- No two ranges (base, size) of a list overlap; empty ranges overlap nothing. -/
def disjointRanges : List (Nat × Nat) → Bool
  | [] => true
  | (a, n) :: t => t.all (fun r => n = 0 || r.2 = 0 || a + n ≤ r.1 || r.1 + r.2 ≤ a) && disjointRanges t

/-- No two masks of a list share a bit. -/
def disjointMasks : List Nat → Bool
  | [] => true
  | m :: t => t.all (fun k => m &&& k == 0) && disjointMasks t

/-- Ranges of one partition's own fields (R301, R275, R138, R225, R287). -/
def partRangesOk (p : List Byte) : Bool :=
  let beds := bedCount p
  let plots := bFld p 0 23 16
  let gt := bFld p 0 31 24
  let rate := bFld p 0x20 12 0
  let mode := bFld p 0x30 2 1
  1 ≤ beds && 1 ≤ plots && plots ≤ 8 * beds && 1 ≤ gt && gt ≤ 224 &&
    bFld p 4 7 0 + bFld p 4 16 8 ≤ 256 && bFld p 8 7 0 + bFld p 8 16 8 ≤ 256 && bFld p 0xC 19 10 ≤ bFld p 0xC 9 0 &&
    bFld p 0x18 8 0 ≤ 256 && bFld p 0x18 11 9 ≤ 4 && bFld p 0x18 14 12 ≤ 4 &&
    1 ≤ rate && rate ≤ 4096 && bFld p 0x20 22 13 ≤ 1000 &&
    bFld p 0x24 7 0 ≤ 128 && bFld p 0x24 15 8 ≤ 64 && bFld p 0x24 19 16 < beds && (mode == 1 || mode == 2)

/-- Sums over the partitions, and extents that must not meet (R217, R218, R234, R301). -/
def partSumsOk (order512 : Bool) (b : List Byte) : Bool :=
  let spare := bFld (secOf b 1) 0xC 6 0
  let scale := if order512 then 2 else 1
  let ext (off : Nat) := (partSecs b).map fun p => (bFld p off 7 0, bFld p off 16 8)
  disjointMasks ((partSecs b).map fun p => bFld p 0 15 0) && disjointRanges (ext 4) && disjointRanges (ext 8) &&
    8 ≤ spare * scale && spare * scale ≤ 120 && partSum b 0xC 9 0 + spare ≤ (if order512 then 479 else 959) &&
    [(0x10, 7, 0), (0x10, 15, 8), (0x10, 23, 16), (0x14, 7, 0), (0x14, 15, 8), (0x14, 23, 16), (0x18, 8, 0)].all
      (fun f => partSum b f.1 f.2.1 f.2.2 ≤ 256) &&
    partSum b 0x18 11 9 ≤ 4 && partSum b 0x18 14 12 ≤ 4 && partSum b 0 31 24 ≤ 224

/-- The Fence's limits (R322, R341). -/
def fenceOk (b : List Byte) : Bool :=
  let v := secOf b 1
  let cap := bFld v 0 11 0
  let thr := bFld v 4 7 0
  let trip := bFld v 4 15 8
  let hyst := bFld v 4 19 16
  let wdog := bFld v 8 22 13
  300 ≤ cap && cap ≤ 1600 && bFld v 0 27 16 + partSum b 0x1C 11 0 ≤ cap && 85 ≤ thr && thr ≤ 105 && thr + 5 ≤ trip && trip ≤ 115 &&
    1 ≤ hyst && bFld v 8 4 0 ≤ 24 && 5 ≤ wdog && wdog ≤ 1000

/-- One entry of SFU_TABLES: partition mask, slot, offset (R352). -/
def sfuEntries (b : List Byte) : List (Nat × Nat × Nat) :=
  let t := secOf b 3
  (List.range (bFld t 0 31 0)).map fun k => (bFld t (4 + 8 * k) 15 0, bFld t (4 + 8 * k) 18 16, bFld t (8 + 8 * k) 31 0)

/-- No two entries name one slot for one partition. -/
def sfuOk (b : List Byte) : Bool := (List.range 8).all fun k => disjointMasks (((sfuEntries b).filter fun e => e.2.1 = k).map (·.1))

/-- Debug enables, pin functions, mirror shares, partition count and the replay window (R350, R445, R225, R301, R403). -/
def deviceOk (b : List Byte) : Bool :=
  let v := secOf b 1
  let n := partCount b
  let ms := bFld (secOf b 4) 0xC 6 0
  (bFld v 0x18 2 0 == 0 || bFld b 0x10 2 2 == 1) && bFld v 0x1C 7 0 ≤ 7 && bFld v 0x1C 15 8 ≤ 7 && bFld v 0x1C 23 16 ≤ 7 &&
    1 ≤ n && n ≤ 16 && ((List.range 16).all fun i => bFld v (0x24 + i) 4 0 ≤ 24) && 1 ≤ ms && ms ≤ 64

/-- Check 7. -/
def rulesOk (order512 : Bool) (b : List Byte) : Bool :=
  deviceOk b && fenceOk b && sfuOk b && (partSecs b).all partRangesOk && partSumsOk order512 b

/-! ### Validity and choice (R353 to R355) -/

/-- The reason code of a copy: 0 when every check passes. -/
def imageReason (s : State) (d : Fin 2) (flashErr : BitVec 2) : Nat :=
  let b := imageBytes s d
  if !shapeOk b then 1
  else if !(bFld b 0x10 1 0).testBit s.image.order512.toNat then 2
  else if natBe (sha384 (pubKey b)) ≠ s.image.keyHash[keyIndex b].toNat || s.image.revoked.getLsbD (keyIndex b).val then 3
  else if messageHash b ≠ digestOf b then 4
  else if !signatureOk b then 5
  else if !sectionsOk b then 6
  else if !rulesOk s.image.order512 b then 7
  else if flashErr.getLsbD d.val then 8
  else 0

/-- What the choice of a copy found. -/
structure Choice where
  copy : Option (Fin 2)
  a : Nat
  b : Nat
  forced : Bool
  conflict : Bool
deriving DecidableEq, Repr

/-- The choice when one copy is verified first and the other only when it fails. -/
def chooseFirst (first : Fin 2) (r : Fin 2 → Nat) : Choice :=
  let other : Fin 2 := if first = 0 then 1 else 0
  let r1 := r first
  let r2 := if r1 = 0 then 0 else r other
  let copy := if r1 = 0 then some first else if r2 = 0 then some other else none
  { copy := copy, a := if first = 0 then r1 else r2, b := if first = 0 then r2 else r1, forced := false, conflict := false }

/-- The choice when the generations are equal: both copies are verified. -/
def chooseEqual (ra rb : Nat) (sameDigest : Bool) : Choice :=
  { copy := if ra = 0 && (rb ≠ 0 || sameDigest) then some 0 else if ra ≠ 0 && rb = 0 then some 1 else none
    a := ra
    b := rb
    forced := false
    conflict := ra = 0 && rb = 0 && !sameDigest }

/-- The choice of a copy under the latched straps. -/
def chooseCopy (s : State) (flashErr : BitVec 2) : Choice :=
  let r (d : Fin 2) : Nat := imageReason s d flashErr
  let force (d : Fin 2) : Choice :=
    { copy := if r d = 0 then some d else none
      a := if d = 0 then r d else 0
      b := if d = 0 then 0 else r d
      forced := true
      conflict := false }
  match bitsOf s.pins.straps.toNat 1 0 with
  | 2 => force 0
  | 1 => force 1
  | _ =>
    if imgGen s 0 = imgGen s 1 then chooseEqual (r 0) (r 1) (digestOf (imageBytes s 0) == digestOf (imageBytes s 1))
    else chooseFirst (if imgGen s 1 < imgGen s 0 then 0 else 1) r

/-! ### What an image puts in force (R350 to R352, R403, R474) -/

/-- The FAULT section. -/
def faultOf (b : List Byte) : FaultImage :=
  let f := secOf b 5
  { lpCeHr := bFld f 0 15 0, lpUeDay := bFld f 0 23 16, lpRetry := bFld f 0 27 24, lpTrain := bFld f 0 31 28,
    bvlSerExp := bFld f 4 7 0, trReplay := bFld f 4 15 8, trLaneSec := bFld f 4 31 16, spCeHr := bFld f 8 7 0,
    bankMax := bFld f 8 11 8, resMisHr := bFld f 8 19 12, resFaultDay := bFld f 8 23 20, retMax := bFld f 8 27 24 }

/-- The BVL section. -/
def bvlOf (b : List Byte) : BvlImage :=
  let f := secOf b 4
  { devId := BitVec.ofNat 12 (bFld f 0 11 0), eligible := bFld f 0 12 12 == 1, vlanEn := bFld f 0 13 13 == 1,
    etherType := BitVec.ofNat 16 (bFld f 0 31 16), macPrefix := BitVec.ofNat 24 (bFld f 4 23 0),
    vlanId := BitVec.ofNat 12 (bFld f 8 11 0), pcps := BitVec.ofNat 9 (bFld f 8 20 12), replayMs := bFld f 0xC 6 0,
    window := bFld f 0x10 10 0 }

/-- The SFU default sets: mask, slot and table bytes. -/
def sfuSetsOf (b : List Byte) : List (BitVec 16 × BitVec 3 × List Byte) :=
  (sfuEntries b).map fun e =>
    (BitVec.ofNat 16 e.1, BitVec.ofNat 3 e.2.1, bSub (secOf b 3) e.2.2 (64 + bFld (secOf b 3) (e.2.2 + 8) 31 0))

/-- The DEVICE section. -/
def deviceOf (b : List Byte) : DeviceImage :=
  let v := secOf b 1
  { spareGib := bFld v 0xC 6 0
    scrubPeriod := BitVec.ofNat 8 (bFld v 0xC 14 7)
    haloLimit := BitVec.ofNat 16 (bFld v 0x10 15 0)
    pgIdle := BitVec.ofNat 32 (bFld v 0x14 31 0)
    traceEn := bFld v 0x18 0 0 == 1
    cuttingEn := bFld v 0x18 1 1 == 1
    perfEn := bFld v 0x18 2 2 == 1
    stkFn := Vector.ofFn fun (i : Fin 3) => BitVec.ofNat 8 (bFld v (0x1C + i.val) 7 0)
    syncEn := bFld v 0x1C 24 24 == 1
    partCount := bFld v 0x20 4 0
    mirror := Vector.ofFn fun (i : Fin 16) => BitVec.ofNat 5 (bFld v (0x24 + i.val) 4 0)
    fault := faultOf b
    bvl := bvlOf b
    sfuSets := sfuSetsOf b
    codecFw := Config.codecVersion (crc32c (secOf b 0x11)) }

/-- A PARTITION section. -/
def partOf (p : List Byte) : PartImage :=
  { beds := BitVec.ofNat 16 (bFld p 0 15 0)
    t0Plots := BitVec.ofNat 8 (bFld p 0 23 16)
    gtShare := BitVec.ofNat 8 (bFld p 0 31 24)
    t3Gib := bFld p 0xC 9 0
    spillGib := bFld p 0xC 19 10
    bvlShare := bFld p 0x18 8 0
    encPipes := bFld p 0x18 11 9
    decPipes := bFld p 0x18 14 12
    resetZero := bFld p 0x18 15 15 == 1
    shareW := bFld p 0x1C 11 0
    irqRate := bFld p 0x20 12 0
    irqMinUs := bFld p 0x20 22 13
    rerun := BitVec.ofNat 8 (bFld p 0x24 7 0)
    retry := BitVec.ofNat 8 (bFld p 0x24 15 8)
    faultBeds := BitVec.ofNat 4 (bFld p 0x24 19 16)
    passRetry := BitVec.ofNat 2 (bFld p 0x24 21 20)
    exp1 := BitVec.ofNat 8 (bFld p 0x28 7 0)
    exp2 := BitVec.ofNat 8 (bFld p 0x28 15 8)
    exp3 := BitVec.ofNat 8 (bFld p 0x28 23 16)
    slackDef := BitVec.ofNat 32 (bFld p 0x2C 31 0)
    compat := bFld p 0x30 0 0 == 1
    sfuMode := BitVec.ofNat 2 (bFld p 0x30 2 1)
    sfuOverride := bFld p 0x30 3 3 == 1
    rngClass := BitVec.ofNat 4 (bFld p 0x30 7 4) }

/-- The Fence's limits of an image, stored three times. -/
def fenceRegsOf (b : List Byte) : FenceRegs :=
  let v := secOf b 1
  let tri (n off hi lo : Nat) : Tri n := Tri.of (BitVec.ofNat n (bFld v off hi lo))
  { cap := tri 16 0 15 0
    base := tri 12 0 27 16
    share := Vector.ofFn fun (i : Fin 16) => Tri.of (BitVec.ofNat 12 (bFld ((partSecs b).getD i.val []) 0x1C 11 0))
    therm := tri 28 4 27 0
    pinStep := tri 5 8 4 0
    linkEn := tri 8 8 12 5
    wdog := tri 11 8 23 13 }

/-- A partition's ranges and shares in cistern c. -/
def cisPartOf (p : List Byte) (c : CisIx) (x : CisPart) : CisPart :=
  let e := 4 + 4 * c.val
  let w := 0x10 + 4 * c.val
  { x with
    t2Base := BitVec.ofNat 8 (bFld p e 7 0)
    t2Size := BitVec.ofNat 9 (bFld p e 16 8)
    quota := BitVec.ofNat 10 (bFld p 0xC 9 0)
    lpddr := BitVec.ofNat 9 (bFld p w 7 0)
    t2 := BitVec.ofNat 9 (bFld p w 15 8)
    carrier := BitVec.ofNat 9 (bFld p w 23 16) }

/-- The owner of codec pipe i: pipes of each direction go to the partitions in ascending index (R310). -/
def pipeOwner (b : List Byte) (i : Fin 8) : Option Nat :=
  let hi := if i.val < 4 then 11 else 14
  let lo := if i.val < 4 then 9 else 12
  (((partSecs b).zipIdx).flatMap fun p => List.replicate (bFld p.1 0x18 hi lo) p.2)[i.val % 4]?

/-- Registers of the partitions, cisterns, beds, plots and pipes that come from the image; every partition is STOPPED. -/
def loadConfig (b : List Byte) (s : State) : State :=
  let ps := partSecs b
  let owner (n : PlotIx) : Option Nat := (ps.zipIdx.find? fun p => (bFld p.1 0 15 0).testBit (bedOf n).val).map (·.2)
  let d := deviceOf b
  { s with
    dev := d
    parts := Vector.ofFn fun i => match ps[i.val]? with
      | some p => { s.parts[i] with defined := true, img := partOf p, scaledShare := (partOf p).gtShare }
      | none => { s.parts[i] with defined := false, img := PartImage.reset }
    cis := Vector.ofFn fun c =>
      { s.cis[c] with parts := Vector.ofFn fun i => match ps[i.val]? with
          | some p => cisPartOf p c s.cis[c].parts[i]
          | none => { CisPart.reset with drop := s.cis[c].parts[i].drop, gate := s.cis[c].parts[i].gate } }
    beds := Vector.ofFn fun i => { s.beds[i] with share := d.mirror[i] }
    plots := Vector.ofFn fun n => match owner n with
      | some q =>
        let p := partOf (ps.getD q [])
        { s.plots[n] with
          part := BitVec.ofNat 4 q
          unassigned := false
          sfuDefault := p.sfuMode
          sfuOverride := p.sfuOverride
          rngClass := p.rngClass }
      | none => { s.plots[n] with part := 0, unassigned := true }
    codec := { s.codec with
      fw := d.codecFw
      pipes := Vector.ofFn fun i => match pipeOwner b i with
        | some q => { s.codec.pipes[i] with owner := BitVec.ofNat 4 q, owned := true }
        | none => { s.codec.pipes[i] with owner := 0, owned := false } } }

/-- The image registers of a choice (R367). -/
def chosen (c : Choice) (b : List Byte) (s : State) : State :=
  { s with image := { s.image with
      copy := match c.copy with
        | some d => BitVec.ofNat 2 d.val
        | none => 2
      debugOn := c.copy.isSome && bFld b 0x10 2 2 == 1
      forced := c.forced
      gen := BitVec.ofNat 32 (bFld b 0x08 31 0)
      digest := BitVec.ofNat 64 (natOf ((digestOf b).take 8))
      aReason := BitVec.ofNat 8 c.a
      bReason := BitVec.ofNat 8 c.b } }

/-- IMAGE records of the copies that a choice found invalid (R362). -/
def imageRecords (c : Choice) (s : State) : State :=
  let one (copy r : Nat) (s : State) : State := if r = 0 then s else queueLog 6 2 (copy + r * 2 ^ 8) s
  one 1 c.b (one 0 c.a s)

end Sys2Proof.Machine
end

