-- ==== Sys2Proof/Machine/Carrier.lean ====
section
/-! DEFINITION. The carriers (R219 to R223) and the translation caches (R215, R216, R239). -/

namespace Sys2Proof.Machine

open Host

/-! ### Descriptors (R220) -/

/-- COP. -/
def caOp (d : BitVec 512) : Nat := fld d 0x00 3 0
/-- BALE. -/
def caBale (d : BitVec 512) : Nat := fld d 0x00 6 5
/-- FENCE. -/
def caFence (d : BitVec 512) : Bool := flag d 0x00 7
/-- PARTITION. -/
def caPart (d : BitVec 512) : PartIx := Fin.ofNat 16 (fld d 0x00 11 8)
/-- TAG. -/
def caTag (d : BitVec 512) : Nat := fld d 0x00 31 16
/-- EPOCH. -/
def caEpoch (d : BitVec 512) : Nat := fld d 0x04 31 0
/-- PAGES. -/
def caPages (d : BitVec 512) : Nat := fld d 0x18 31 0
/-- PATTERN. -/
def caPattern (d : BitVec 512) : Nat := fld d 0x1C 31 0
/-- Source address of page j. -/
def caSrc (d : BitVec 512) (j : Nat) : Nat := fld d 0x08 63 0 + j * fld d 0x20 31 0
/-- Destination address of page j. -/
def caDst (d : BitVec 512) (j : Nat) : Nat := fld d 0x10 63 0 + j * fld d 0x24 31 0
/-- Whether the operation reads a source: COPY and WRITEBACK. -/
def caReads (d : BitVec 512) : Bool := caOp d == 0 || caOp d == 1

/-- Post a descriptor to both carriers. -/
def postCarrier (d : BitVec 512) (s : State) : State :=
  s.onPart (caPart d) fun x =>
    { x with carrier := x.carrier ++ [{ desc := d, started := false, pages := [], status := 0 }] }

/-- CARRIER_COPY: a COPY descriptor is posted; one with an undefined COP is posted too and fails when it starts. -/
def execCarrierCopy (d : BitVec 512) (s : State) : Out := .next (if caOp d = 0 || 4 ≤ caOp d then postCarrier d s else s)
/-- CARRIER_WRITEBACK: a WRITEBACK descriptor is posted. -/
def execCarrierWriteback (d : BitVec 512) (s : State) : Out := .next (if caOp d = 1 then postCarrier d s else s)
/-- CARRIER_FILL: a FILL descriptor is posted. -/
def execCarrierFill (d : BitVec 512) (s : State) : Out := .next (if caOp d = 2 then postCarrier d s else s)
/-- CARRIER_FLUSH: a FLUSH descriptor is posted. -/
def execCarrierFlush (d : BitVec 512) (s : State) : Out := .next (if caOp d = 3 then postCarrier d s else s)

/-! ### Checks (R222) -/

/-- A tier that a carrier may name, with the page in the partition's ranges. -/
def caPageOk (s : State) (q : PartIx) (a : Nat) : Bool :=
  (tierOf s a == .t1 || tierOf s a == .t2 || tierOf s a == .t3) && rangeOk s q a pageBytes

/-- Off the 64 KiB grid. -/
def offPage (a : Nat) : Bool := a % pageBytes != 0

/-- The status of a breach of R222, found before any page moves. -/
def checkCarrier (d : BitVec 512) (s : State) : Option Nat :=
  let q := caPart d
  let reads := caReads d
  let srcT3 := reads && tierOf s (caSrc d 0) == .t3
  let dstT3 := tierOf s (caDst d 0) == .t3
  firstBreach
    [ (4 ≤ caOp d || caPages d = 0 || 16384 < caPages d || fld d 0x00 15 12 ≠ 0 || d.toNat >>> 320 ≠ 0, stIllegal),
      (caBale d ≠ 0 && !srcT3 && !dstT3, stIllegal),
      (caOp d = 1 && srcT3, stIllegal),
      (reads && (offPage (caSrc d 0) || offPage (fld d 0x20 31 0)) || offPage (caDst d 0) || offPage (fld d 0x24 31 0), stAlign),
      (caOp d = 3 && !dstT3, stAddrFault),
      ((List.range (caPages d)).any fun j => reads && !caPageOk s q (caSrc d j) || !caPageOk s q (caDst d j), stAddrFault) ]

/-- Descriptors in flight in each carrier: both receive every descriptor. -/
def carrierInFlight (s : State) : Nat := ((List.finRange 16).map fun q => (s.part q).carrier.countP (·.started)).sum

/-- Change descriptor n of a partition. -/
def onCarrier (q : PartIx) (n : Nat) (f : CarrierOp → CarrierOp) (s : State) : State :=
  s.onPart q fun x =>
    match x.carrier[n]? with
    | some o => { x with carrier := listSet x.carrier n (f o) }
    | none => x

/-- CARRIER_DESCRIPTOR_START: descriptor n of a partition starts, in posting order, at most 16 in flight, with FENCE only
when every earlier one has completed. -/
def execCarrierDescriptorStart (q : PartIx) (n : Nat) (s : State) : Out :=
  .next (match (s.part q).carrier[n]? with
    | none => s
    | some o =>
      if o.started || holdActive s || 16 ≤ carrierInFlight s || (((s.part q).carrier.take n).any fun e => !e.started) ||
          caFence o.desc && n ≠ 0 then s
      else onCarrier q n (fun e => { e with started := true, status := BitVec.ofNat 8 ((checkCarrier o.desc s).getD 0) }) s)

/-! ### Pages (R219, R221) -/

/-- Whether the check point of a destination would accept a write now. -/
def dstAccepts (s : State) (q : PartIx) (a epoch : Nat) : Bool :=
  match tierOf s a with
  | .t1 => epochCheck (bedEpoch s (Fin.ofNat 16 ((a - t1Base) / bedStride))) epoch == .accept
  | .t2 => epochCheck (cisEpoch s (Fin.ofNat 2 ((a - t2Base) / 0x10000000)) q) epoch == .accept
  | .t3 => epochCheck (cisEpoch s (frameCis ((a - t3Base) / pageBytes)) q) epoch == .accept
  | _ => true

/-- The dirty mask of a T1 or T2 page. -/
def dirtyMask (s : State) (a : Nat) : BitVec 16 := tabGet 0 s.mem.dirty (a / pageBytes)

/-- Set the dirty mask of a T1 or T2 page. -/
def setDirty (a : Nat) (m : BitVec 16) (s : State) : State :=
  s.onMem fun x => { x with dirty := tabSet 0 x.dirty (a / pageBytes) m }

/-- Write a whole page and clear the mask of a T1 or T2 page that took it (R219). -/
def carrierWrite (q : PartIx) (d : BitVec 512) (b : Nat) (bs : List Byte) (s : State) : State × Option Nat :=
  let took := dstAccepts s q b (caEpoch d)
  let (s1, e) := devWrite q b (if tierOf s b = .t3 then caBale d else 0) (caEpoch d) bs s
  (if took && tierOf s b != .t3 then setDirty b 0 s1 else s1, e)

/-- One sector read in stored form as scrub reads it, with the effects of R250: its rate and stored bytes. -/
def storedRead (sector : Nat) (flips : Flips) (s : State) : State × Except Nat (Nat × List Byte) :=
  match scrubReadAll s sector flips with
  | none => (countUe sector 0 false s, .error stMemUncorr)
  | some (rate, rs) =>
    let step (a : State × Except Nat (List Byte)) (jr : Nat × CwOut) : State × Except Nat (List Byte) :=
      match a.2 with
      | .error e => (a.1, .error e)
      | .ok bs =>
        match jr.2 with
        | .clean d => (a.1, .ok (bs ++ d))
        | .corrected d => ((countCe sector a.1).onMem (cwStore sector jr.1 rate d), .ok (bs ++ d))
        | .checkOnly d => (countChk sector a.1, .ok (bs ++ d))
        | .rereadOk d => (countCe sector a.1, .ok (bs ++ d))
        | .rate => (countUe sector jr.1 false a.1, .error stMemUncorr)
        | .uncorr => (countUe sector jr.1 false a.1, .error stMemUncorr)
    let r := ((List.range 4).zip rs).foldl step (s, .ok [])
    (r.1, r.2.map fun bs => (rate, bs))

/-- Copy the sectors of a page from frame to frame in stored form (R255). -/
def storedCopy (f g : Nat) (flips : Flips) (s : State) : List Nat → State × Option Nat
  | [] => (s, none)
  | k :: ks =>
    match storedRead (256 * f + k) flips s with
    | (s1, .error e) => (s1, some e)
    | (s1, .ok (rate, bs)) =>
      storedCopy f g flips (s1.onMem fun m =>
        clearTail (256 * g + k) rate (cwStoreAll (256 * g + k) rate bs (List.range (baleL rate / 64)) m)) ks

/-- A page copy with both ends in T3: sectors move in stored form, under the epoch check of the destination. -/
def copyT3 (q : PartIx) (d : BitVec 512) (a b : Nat) (flips : Flips) (s : State) : State × Option Nat :=
  match translate q a s with
  | (s1, none) => (s1, some stAddrFault)
  | (s1, some f) =>
    match cisCheck (frameCis ((b - t3Base) / pageBytes)) q (caEpoch d) pageBytes s1 with
    | (s2, false) => (s2, none)
    | (s2, true) =>
      match translate q b s2 with
      | (s3, none) => (s3, some stAddrFault)
      | (s3, some g) =>
        storedCopy (f / pageBytes) (g / pageBytes) flips
          (cisPerfAdd (frameCis ((b - t3Base) / pageBytes)) (some q) 0x03 256 s3) (List.range 256)

/-- COPY of one page. -/
def pageCopy (q : PartIx) (d : BitVec 512) (a b : Nat) (flips : Flips) (s : State) : State × Option Nat :=
  if tierOf s a = .t3 && tierOf s b = .t3 then copyT3 q d a b flips s
  else match devRead q a pageBytes (if tierOf s a = .t3 then caBale d else 0) flips s with
    | (s1, .error e) => (s1, some e)
    | (s1, .ok bs) => carrierWrite q d b bs s1

/-- WRITEBACK of the dirty sub-pages of one page; each bit clears as its sub-page begins to be read. -/
def pageWriteback (q : PartIx) (d : BitVec 512) (a b : Nat) (s : State) : List Nat → State × Option Nat
  | [] => (s, none)
  | i :: is =>
    if (dirtyMask s a).getLsbD i then
      let s1 := setDirty a (dirtyMask s a &&& ~~~(BitVec.ofNat 16 (2 ^ i))) s
      match devWrite q (b + 4096 * i) (if tierOf s b = .t3 then caBale d else 0) (caEpoch d) (ramRead s1 (a + 4096 * i) 4096) s1 with
      | (s2, some e) => (s2, some e)
      | (s2, none) => pageWriteback q d a b s2 is
    else pageWriteback q d a b s is

/-- The bytes of a page filled with a word. -/
def fillBytes (w : Nat) : List Byte := (List.replicate (pageBytes / 4) (bytesOf 4 w)).flatten

/-- FLUSH of one page: its mirror copies have ended, or it has none. -/
def pageFlush (q : PartIx) (b : Nat) (s : State) : State × Option Nat :=
  match translate q b s with
  | (s1, none) => (s1, some stAddrFault)
  | (s1, some _) => (s1, none)

/-- Whether a page action may go on now: accesses as an external agent, and a FLUSH when no copy is held any more. -/
def pageReady (s : State) (q : PartIx) (d : BitVec 512) (j : Nat) : Bool :=
  let v := (caDst d j - t3Base) / pageBytes
  match caOp d with
  | 3 => !xltOk (xltEntry s q v) v || !xltMirror s q (caDst d j) ||
      dirEntry s (bitsOf (xltEntry s q v).toNat 23 0) == .unheld
  | 2 => accessReady s q none (caDst d j) pageBytes true
  | _ => accessReady s q none (caSrc d j) pageBytes false && accessReady s q none (caDst d j) pageBytes true

/-- The action of page j. -/
def pageAction (q : PartIx) (d : BitVec 512) (j : Nat) (flips : Flips) (s : State) : State × Option Nat :=
  match caOp d with
  | 0 => pageCopy q d (caSrc d j) (caDst d j) flips s
  | 1 => pageWriteback q d (caSrc d j) (caDst d j) s (List.range 16)
  | 2 => carrierWrite q d (caDst d j) (fillBytes (caPattern d)) s
  | _ => pageFlush q (caDst d j) s

/-- The cistern whose carrier moves page j: the one that holds its T3 or T2 end, or by the page number between T1 ends. -/
def pageCis (s : State) (d : BitVec 512) (j : Nat) : CisIx :=
  let cisOf (a : Nat) : Option CisIx :=
    match tierOf s a with
    | .t2 => some (Fin.ofNat 2 ((a - t2Base) / 0x10000000))
    | .t3 => some (frameCis ((a - t3Base) / pageBytes))
    | _ => none
  match cisOf (caDst d j), (if caReads d then cisOf (caSrc d j) else none) with
  | some c, _ => c
  | none, some c => c
  | none, none => Fin.ofNat 2 j

/-- CARRIER_PAGE_COMPLETE: page j of descriptor n is done, or fails the descriptor. -/
def execCarrierPageComplete (q : PartIx) (n : Nat) (page : Nat) (flips : Flips) (s : State) : Out :=
  .next (match (s.part q).carrier[n]? with
    | none => s
    | some o =>
      let d := o.desc
      if !o.started || o.status ≠ 0 || caPages d ≤ page || o.pages.contains page || !pageReady s q d page then s
      else match pageAction q d page flips s with
        | (s1, some e) => onCarrier q n (fun x => { x with status := BitVec.ofNat 8 e }) s1
        | (s1, none) =>
          onCarrier q n (fun x => { x with pages := page :: x.pages }) (cisPerfAdd (pageCis s d page) (some q) 0x0A 1 s1))

/-! ### Completion (R223) -/

/-- The 16-byte completion record of a descriptor. -/
def carrierRecord (o : CarrierOp) (time : Nat) : BitVec 128 :=
  BitVec.ofNat 128 (caTag o.desc + o.status.toNat * 2 ^ 16 + (caPart o.desc).val * 2 ^ 24 + o.pages.length * 2 ^ 32 +
    time * 2 ^ 64)

/-- Both carriers have finished a descriptor. -/
def carrierDone (o : CarrierOp) : Bool := o.started && (o.status ≠ 0 || o.pages.length = caPages o.desc)

/-- CARRIER_COMPLETE: the completion record of descriptor n is written to the partition's ring. -/
def execCarrierComplete (q : PartIx) (n : Nat) (s : State) : Out :=
  .next (match (s.part q).carrier[n]? with
    | none => s
    | some o =>
      if carrierDone o then s.onPart q fun x =>
        { x with
          carrier := x.carrier.eraseIdx n
          carrierRing := x.carrierRing ++ [(carrierRecord o s.time.toNat, BitVec.ofNat 32 (caEpoch o.desc))] }
      else s)

/-- A partition reset stops every descriptor of the partition with FLUSHED (R222). -/
def stopCarriers (q : PartIx) (s : State) : State :=
  s.onPart q fun x =>
    { x with
      carrierRing := x.carrierRing ++ x.carrier.map fun o =>
        (carrierRecord (if o.status = 0 then { o with status := BitVec.ofNat 8 stFlushed } else o) s.time.toNat,
          BitVec.ofNat 32 (caEpoch o.desc))
      carrier := [] }

/-! ### Translation caches (R215, R216, R239) -/

/-- XLT_INVALIDATE: a write of CIS_XLT_INV starts an invalidation; one that finds BUSY is dropped and counted. -/
def execXltInvalidate (c : CisIx) (w : Word) (s : State) : Out :=
  .next (s.onCis c fun x =>
    if x.xltBusy.isSome then { x with xltDropped := satAdd x.xltDropped 1 } else { x with xltBusy := some w })

/-- A cached entry that an invalidation names: its virtual frame, or every one of the partition. -/
def invHits (w : Word) (e : PartIx × BitVec 24 × Word) : Bool :=
  e.1.val = bitsOf w.toNat 27 24 && (w.getLsbD 28 || e.2.1.toNat = bitsOf w.toNat 23 0)

/-- XLT_INVALIDATE_DONE: the entries are gone and BUSY reads 0. -/
def execXltInvalidateDone (c : CisIx) (s : State) : Out :=
  .next (s.onCis c fun x =>
    match x.xltBusy with
    | none => x
    | some w => { x with xltBusy := none, xltCache := x.xltCache.filter fun e => !invHits w e })

/-- XLT_MISS_FILL: the entry that missed arrives from the system area and is cached; an entry already cached missed
nothing. -/
def execXltMissFill (c : CisIx) (q : PartIx) (v : BitVec 24) (s : State) : Out :=
  .next (if frameCis v.toNat ≠ c || t3Quota s q / pageBytes ≤ v.toNat ||
      (s.cistern c).xltCache.any (fun e => e.1 == q && e.2.1 == v) then s
    else xltTouch q v.toNat s)

end Sys2Proof.Machine
end

