-- ==== Sys2Proof/Machine/PartReset.lean ====
section
/-! DEFINITION. The partition reset: its triggers, the steps of R313, and what each leaves (R302, R311 to R314). -/

namespace Sys2Proof.Machine

open Host

/-- A VF of a partition exists (R302). -/
def vfExists (s : State) (q : PartIx) : Bool := s.pf0.vfEnable && q.val < s.pf0.numVfs.toNat

/-- The admission state of a partition that nothing resets: OPEN, HOLD or STOPPED (R265, R329,
R339, R355, R357). -/
def openAdmit (s : State) : BitVec 3 :=
  if s.fence.safe || s.image.safeBoot || s.image.recovery || s.image.replant.isSome || s.image.boot ≠ .done then 2
  else if holdActive s then 1 else 0

/-- burst_p in µJ (R322). -/
def burstOf (s : State) (q : PartIx) : Int :=
  ((200 * shareW s q * burstMs s : Nat) : Int)

/-- The gate opens; the time it was closed is counted (R414, R421). -/
def openGate (q : PartIx) (s : State) : State :=
  match (s.part q).gateSince with
  | none => s
  | some t =>
    let us := (s.time - t).toNat / 1000
    (forAll [0, 1] (fun s c => s.onCis c fun x =>
      let y := x.parts[q]
      { x with parts := x.parts.set q.val { y with gate := satAdd y.gate us } q.isLt }) s).onPart q fun x =>
        { x with gateSince := none }

/-- The streams of a partition: contexts freed, pipes released (R435). -/
def freeStreams (q : PartIx) (s : State) : State :=
  let mine (c : Fin 32) : Bool := match s.codec.ctxs[c] with
    | some x => x.sp.part == q
    | none => false
  { s with codec := { s.codec with
      ctxs := Vector.ofFn fun c => bif mine c then none else s.codec.ctxs[c]
      pipes := s.codec.pipes.map fun p =>
        if mine p.ctx.toFin && p.frame.isSome then
          { p with state := 0, lent := false, paired := false, frame := none, ueOnce := false, lastCtx := none }
        else p } }

/-- Every slot of a partition is no longer valid at its check points (step 4). -/
def dropSlots (q : PartIx) (s : State) : State :=
  let clear (e : Nat × BitVec 25) : Nat × BitVec 25 := (e.1, e.2 &&& 0xFFFFFF)
  let keep (e : Nat × BitVec 25) : Bool := e.2 ≠ 0
  let s1 := forAll [0, 1] (fun s c => s.onCis c fun x =>
    { x with epochs := (x.epochs.map fun e => if e.1 / 256 = q.val then clear e else e).filter keep }) s
  forAll (bedsOf s q) (fun s b => s.onBed b fun x => { x with epochs := (x.epochs.map clear).filter keep }) s1

/-- Every non-final job ends CANCELLED, without a JOB_END (steps 1 and 2). -/
def cancelAll (q : PartIx) (s : State) : State :=
  ((liveJobs s q).map (·.id)).foldl (fun s id => endJob q id .cancelled 0 0 false s) s

/-- Step 3: plots flushed, carriers stopped, fabric transfers, collectives and streams abandoned. -/
def stopPartition (q : PartIx) (s : State) : State :=
  let s1 := forAll (plotsOf s q) (fun s p => if powered (s.plot p) then flushPlot p false s else s) s
  freeStreams q ((openGate q (stopCarriers q s1)).onPart q fun x => { x with fabric := [], fabricOld := [], colls := [], readies := [], wrote := [] })

/-- A partition reset begins (R313): in HOLD its steps 1, 2 and 4, otherwise 1 to 4 (R314). One under way, start-up and a
replant absorb it (R312). -/
def beginReset (q : PartIx) (s : State) : State :=
  if !(s.part q).defined then s
  else if (s.part q).resetStep ≠ .none || s.image.replant.isSome || s.image.boot ≠ .done then
    s.onPart q fun x => { x with absorbed := satAdd x.absorbed 1 }
  else
    let hold := holdActive s
    let s1 := s.onPart q fun x => { x with resetStep := if hold then .waitResume else .draining, resetDone := false, adm := 3 }
    let s2 := dropSlots q (cancelAll q (dropQueues (vfOf q) s1))
    if hold then s2 else stopPartition q s2

/-- A partition reset that began in HOLD goes on with step 3 after the resume (R314). -/
def continueReset (q : PartIx) (s : State) : State :=
  if (s.part q).resetStep = .waitResume then
    stopPartition q (s.onPart q fun x => { x with resetStep := .draining })
  else s

/-- Every command of the partition's plots has stopped. -/
def plotsStopped (s : State) (q : PartIx) : Bool :=
  (plotsOf s q).all fun p => (s.plot p).compute.run.isNone && (s.plot p).move.run.isNone

/-- Halo tags of a partition return to 0 (R190). -/
def clearHaloTags (q : PartIx) (s : State) : State :=
  s.onCis 0 fun x => { x with halo := { x.halo with tags := x.halo.tags.filter fun e => e.1 / 512 ≠ q.val } }

/-- The energy accounts of a partition as at replant (R322, R323). -/
def resetEnergy (q : PartIx) (s : State) : State :=
  forAll (bedsOf s q) (fun s b => s.onBed b fun x => { x with energy := 0, cap := 0, debited := 0 })
    (s.onPart q fun x => { x with bal := burstOf s q })

/-- Step 5: plots reset, mirror entries Unheld, tables, tags and models gone, energy accounts as at replant; traces and
cuttings end (R464, R467). -/
def clearPartition (q : PartIx) (s : State) : State :=
  let s1 := forAll (plotsOf s q) (fun s p => if powered (s.plot p) then resetPlot p s else s) s
  let s2 := forAll (bedsOf s q) (fun s b => discardMirror b s) s1
  let s3 := resetEnergy q (clearHaloTags q s2)
  s3.onPart q fun x => { x with
    resetStep := .zeroing
    zeroing := x.img.resetZero
    models := []
    gens := []
    trace := Trace.reset
    cuts := Vector.replicate 16 Cutting.reset }

/-- The acknowledgements of step 4 have come and the plots have stopped: step 5 follows. -/
def resetAcknowledged (q : PartIx) (s : State) : State :=
  if (s.part q).resetStep = .draining && plotsStopped s q && !holdActive s then clearPartition q s else s

/-- Zero a range of T1 or T2, with clean dirty masks as a carrier FILL leaves them. -/
def zeroRange (a n : Nat) (s : State) : State :=
  s.onMem fun m => { m with ram := tabClear m.ram a n, dirty := tabClear m.dirty (a / pageBytes) (n / pageBytes) }

/-- Zero one physical frame: stored bytes 0 with valid check bytes, which are 0 for a codeword of zeros with τ = 0. -/
def zeroFrame (f : Nat) (s : State) : State :=
  s.onMem fun m => { m with
    t3 := tabClear m.t3 (f * pageBytes) pageBytes
    chk := tabClear m.chk (f * 4096) 4096
    pendingChk := m.pendingChk.filter fun k => k / 256 ≠ f
    lost := m.lost.filter fun k => k / 256 ≠ f }

/-- Zero the frames that the partition's entries map. -/
def zeroT3 (q : PartIx) (s : State) : State :=
  ((s.mem.xlt.filter fun e => keyPart e.1 == q && e.2.getLsbD 24).map fun e => bitsOf e.2.toNat 23 0).foldl
    (fun s f => zeroFrame f s) s

/-- Step 6: hold buffers and T2 extents are zero, and T3 as well when that is asked for. -/
def zeroPartition (q : PartIx) (t3 : Bool) (s : State) : State :=
  let s1 := forAll (bedsOf s q) (fun s b => zeroRange (t1Addr b 0) bedStride s) s
  let s2 := forAll (List.finRange 2) (fun (s : State) c =>
    let x := (s.cistern c).parts[q]
    zeroRange (t2Base + c.val * 0x10000000 + x.t2Base.toNat * mib) (x.t2Size.toNat * mib) s) s1
  if t3 then zeroT3 q s2 else s2

/-- The plots of a partition leave reduced mode as after start-up's self-test; one with a retired bank stays (R85, R86). -/
def clearReduced (q : PartIx) (s : State) : State :=
  forAll (plotsOf s q) (fun s p => s.onPlot p fun x =>
    if x.mode = .idle then { x with reduced := x.banks ≠ 0, reducedReq := none } else x) s

/-- Step 7: RESET_DONE, ADMIT open again, vectors released, STATE, PF0's cause, and the answer to RESET_PARTITION. -/
def finishReset (q : PartIx) (s : State) : State :=
  let s1 := s.onPart q fun x => { x with resetStep := .none, resetDone := true, zeroing := false, resets := satAdd x.resets 1 }
  let s2 := setAdmit q (openAdmit s1) (raiseState q (clearReduced q s1))
  let s3 := raiseEvent pf0Fn 5 { s2 with pf0 := { s2.pf0 with lastPart := BitVec.ofNat 4 q.val } }
  answerWaiting (fun f e => seOpc e == 0x21 && subPart f e == q) (ansDone 0 0) s3

/-- Step 6 is over and every plot has finished its own reset: the partition's reset ends. A replant zeroes T3 whatever
IMG_RESET_ZERO says (R359). -/
def zeroingOver (s : State) (q : PartIx) : Bool :=
  (s.part q).resetStep = .zeroing && (plotsOf s q).all (fun p => (s.plot p).mode ≠ .reset) && !holdActive s

/-- PARTITION_RESET: a partition reset by any of its triggers. -/
def execPartitionReset (q : PartIx) (why : ResetTrigger) (s : State) : Out :=
  .next (match why with
    | .flr => if vfExists s q then beginReset q s else s
    | _ => beginReset q s)

/-- PF0's registers and queue pairs as after power-on; what it has sent in the millisecond and its logs stay. -/
def freshFn (x : Fn) : Fn := { Fn.reset with budget := x.budget, aer := x.aer, atsDone := x.atsDone }

/-- FLR: of a VF it resets its partition; of PF0 it resets PF0's own registers and queues. -/
def execFlr (f : FnIx) (s : State) : Out :=
  .next (match fnPart f with
    | some q => if vfExists s q then beginReset q s else s
    | none => { s.onFunc f freshFn with pf0 := { s.pf0 with winBlock := 0, winPage := 0 } })

/-- RESET_PARTITION: PF0's next submission; it is answered at RESET_DONE. -/
def execResetPartition (f : FnIx) (i : QpIx) (s : State) : Out :=
  .next (match nextSubmission s f i with
    | some e => if seOpc e = 0x21 then beginReset (subPart f e) (takeUp f i s) else s
    | none => s)

/-- VF_ENABLE_CHANGE: VFs that cease to exist reset their partitions (R302). -/
def execVfEnableChange (enable : Bool) (numVfs : BitVec 16) (s : State) : Out :=
  let gone := (List.finRange 16).filter fun q => vfExists s q && !(enable && q.val < numVfs.toNat)
  let s1 := { s with pf0 := { s.pf0 with vfEnable := enable, numVfs := numVfs } }
  .next (forAll gone (fun s q => beginReset q s) s1)

end Sys2Proof.Machine
end

