-- ==== Sys2Proof/Machine/Preempt.lean ====
section
/-! DEFINITION. Epoch advances, heeling in and restoring, completion rings, and the checked writes of placement epochs
(R279, R282 to R291). -/

namespace Sys2Proof.Machine

open Host

/-! ### Epoch advance (R283) -/

/-- The live job that holds a slot. -/
def jobInSlot (s : State) (q : PartIx) (slot : Nat) : Option Job := (liveJobs s q).find? fun j => j.slot.toNat == slot

/-- Every task of a job has stopped. -/
def tasksStopped (s : State) (j : Job) : Bool :=
  j.tasks.all fun t => (s.plot t.2).mode == .pruned || plotEmpty (s.plot t.2)

/-- No completion record of the slot is left in the rings of the partition's beds. -/
def recordsDrained (s : State) (q : PartIx) (slot : Nat) : Bool :=
  (bedsOf s q).all fun b => (s.bed b).ring.all fun e => e.2.toNat = 0xFFFFFFFF || e.2.toNat / 2 ^ 24 ≠ slot

/-- EPOCH_ADVANCE: the stopped job's new COUNT is written to both cisterns and every bed of its partition. -/
def execEpochAdvance (q : PartIx) (slot : BitVec 8) (s : State) : Out :=
  .next (match jobInSlot s q slot.toNat with
    | some j =>
      if j.stopped && !j.advanced && tasksStopped s j && recordsDrained s q slot.toNat then
        let c := nextCount j.epoch
        writeSlot q slot (slotEntry true c) (onJob q j.id (fun j => { j with epoch := c, advanced := true }) s)
      else s
    | none => s)

/-- A pass that runs again takes plots that are still usable; a task that lands elsewhere is a migration (R290). -/
def rebindPass (q : PartIx) (s : State) : State :=
  match (s.part q).jobs.find? (·.inPass) with
  | none => s
  | some h =>
    if h.tasks.all fun t => !plotOutOf s t.2 then
      forAll (h.tasks.map (·.2)) (fun s p => takePlot p s) s
    else
      let new := bindingOn (planPlots s q) (freePlotsFor s q (·.inPass))
      let s1 := forAll (new.map (·.2)) (fun s p => takePlot p s) s
      let s2 := seedNew (jdKey h.desc) h.tasks new s1
      countExec q 1 (moved h.tasks new) (onJobs q (·.inPass) (fun j => { j with tasks := new, watchAt := watchNow s new }) s2)

/-- The job may start again under its new epoch. A job in a pass goes on with it; one on its way off its plots waits for its
heel-in. -/
def epochDone (q : PartIx) (id : Word) (s : State) : State :=
  let s1 := onJob q id (fun j => { j with stopped := false, advanced := false }) s
  let mine := (liveJobs s q).any fun j => j.id == id && j.inPass
  if mine && (liveJobs s1 q).all fun j => !(j.inPass && j.stopped) then rebindPass q s1 else s1

/-- EPOCH_ACKNOWLEDGED: every check point has acknowledged, for a job's advance or for step 4 of a partition reset. -/
def execEpochAcknowledged (q : PartIx) (slot : BitVec 8) (s : State) : Out :=
  .next (if (s.part q).resetStep = .draining then resetAcknowledged q s
    else match jobInSlot s q slot.toNat with
      | some j => if j.advanced then epochDone q j.id s else s
      | none => s)

/-! ### Heeling in (R286, R287) -/

/-- OPER_ID of a completion record. -/
def recOper (r : BitVec 256) : Nat := bitsOf r.toNat 95 80
/-- PLOT of a completion record. -/
def recPlot (r : BitVec 256) : Nat := bitsOf r.toNat 38 32
/-- STATUS of a completion record. -/
def recStatus (r : BitVec 256) : Nat := bitsOf r.toNat 31 24

/-- The live regions of a task: those the live map lists for the operators whose commands the plot stopped. -/
def liveRegions (s : State) (q : PartIx) (j : Job) (p : PlotIx) : List (Nat × Nat) :=
  match findModel s q (activeModel j) with
  | none => []
  | some (_, m) =>
    let opers := (j.flushed.filter fun r => recPlot r = p.val).map recOper
    ((m.live.filter fun e => opers.contains e.oper.toNat).flatMap (·.regions)).dedup

/-- A contiguous range of n bytes of [0, size) that meets no used interval, the lowest such. -/
def firstFit (size n : Nat) (used : List (Nat × Nat)) : Option Nat :=
  let starts := (0 :: used.map fun u => u.1 + u.2).filter fun a => a + n ≤ size
  let good := starts.filter fun a => used.all fun u => a + n ≤ u.1 || u.1 + u.2 ≤ a
  match good with
  | [] => none
  | a :: t => some (t.foldl min a)

/-- Free ranges of a partition's T2 extents for contexts, at the top of each: base address and length. -/
def ctxT2 (s : State) (q : PartIx) : List (Nat × Nat) :=
  (List.finRange 2).map fun c =>
    let x := (s.cistern c).parts[q]
    let size := x.t2Size.toNat * mib
    let free := min size (t2Free s q / 2)
    (t2Base + c.val * 0x10000000 + x.t2Base.toNat * mib + (size - free), free)

/-- The spill area of a partition. -/
def ctxSpill (s : State) (q : PartIx) : Nat × Nat := (t3Base + t3Quota s q - spillBytes s q, spillBytes s q)

/-- Regions of all contexts that lie in a range, as offsets in it. -/
def ctxUsed (s : State) (q : PartIx) (r : Nat × Nat) : List (Nat × Nat) :=
  (((s.part q).jobs.flatMap (·.ctx)).flatMap (·.regions)).filterMap fun g =>
    if r.1 ≤ g.2.1.toNat && g.2.1.toNat < r.1 + r.2 then some (g.2.1.toNat - r.1, roundUp g.2.2 64) else none

/-- Place the regions of a whole context in one range, each at a multiple of 64 bytes. -/
def placeIn (r : Nat × Nat) (used : List (Nat × Nat)) : List (Nat × Nat) → Option (List (Nat × DWord × Nat))
  | [] => some []
  | (o, n) :: t =>
    match firstFit r.2 (roundUp n 64) used with
    | none => none
    | some a => (placeIn r ((a, roundUp n 64) :: used) t).map fun l => (o, BitVec.ofNat 64 (r.1 + a), n) :: l

/-- Where a context goes: a free part of T2 that takes all of it, otherwise the spill area. -/
def placeContext (s : State) (q : PartIx) (rs : List (Nat × Nat)) : Option (List (Nat × DWord × Nat)) :=
  (ctxT2 s q ++ [ctxSpill s q]).findSome? fun r => placeIn r (ctxUsed s q r) rs

/-- Copy the regions of one plot out of T0 under the job's epoch. -/
def copyOut (q : PartIx) (p : PlotIx) (epoch : Nat) (rs : List (Nat × DWord × Nat)) (s : State) : State :=
  rs.foldl (fun s r => (devWrite q r.2.1.toNat 0 epoch (t0Read s p r.1 r.2.2) s).1) s

/-- The contexts of a job's tasks before their plot state is saved, cut from a placement of all regions in task order. -/
def cutContexts (s : State) (q : PartIx) (j : Job) : List (Nat × PlotIx) → List (Nat × DWord × Nat) → List TaskCtx
  | [], _ => []
  | (k, p) :: t, placed =>
    let n := (liveRegions s q j p).length
    { task := k, plot := p, rng := #v[0, 0, 0, 0], layer := Layer.reset, sems := [], regions := placed.take n } ::
      cutContexts s q j t (placed.drop n)

/-- HEEL_IN: the live regions of every task are copied out of T0; without room the pass fails. -/
def execHeelIn (q : PartIx) (job : Word) (s : State) : Out :=
  .next (match jobById s q job with
    | some j =>
      match j.away with
      | .stopping b m =>
        if j.stopped || j.inPass then s
        else match placeContext s q (j.tasks.flatMap fun t => liveRegions s q j t.2) with
          | none => onJob q job (fun j => { j with away := .heeling b m, passFailed := true }) s
          | some placed =>
            let ctx := cutContexts s q j j.tasks placed
            (ctx.foldl (fun s c => copyOut q c.plot (jobEpoch j) c.regions s)
              (onJob q job (fun j => { j with away := .heeling b m, ctx := ctx }) s))
      | _ => s
    | none => s)

/-- Nonzero semaphore counts of a bed. -/
def semCounts (x : Bed) : List (BitVec 6 × BitVec 16) :=
  ((List.finRange 64).filter fun k => x.sems[k] ≠ 0).map fun k => (BitVec.ofNat 6 k.val, x.sems[k])

/-- The plot state saved with a task's regions (R286). -/
def saveTask (s : State) (c : TaskCtx) : TaskCtx :=
  let x := s.plot c.plot
  { c with
    rng := #v[x.rng.s0, x.rng.s1, x.rng.s2, x.rng.s3]
    layer := x.watch.layer
    sems := semCounts (s.bed (bedOf c.plot)) }

/-- HEEL_IN_COMPLETE: the plot state is saved, the plots are free, a SUSPEND that waits is answered, and the newcomer's tasks
are bound once no victim holds plots. -/
def execHeelInComplete (q : PartIx) (job : Word) (s : State) : Out :=
  .next (match jobById s q job with
    | some j =>
      match j.away with
      | .heeling b m =>
        let s1 := onJob q job (fun j => { j with away := .out b s.time m, tasks := [], ctx := j.ctx.map (saveTask s) }) s
        dispatch q (answerWaiting (waitsOn q job [0x03]) (ansDone 0 0) s1)
      | _ => s
    | none => s)

/-! ### Resuming (R288) -/

/-- No job ahead in plan order still has plot work to do. -/
def firstInPlan (s : State) (q : PartIx) (id : Word) : Bool := (plotWork s q).head?.map (·.id) == some id

/-- Jobs that resume together: those off their plots that ran as one batch. -/
def resumeGroup (s : State) (q : PartIx) (h : Job) : List Job :=
  (plotWork s q).filter fun j => (match j.away with
    | .out false _ _ => true
    | _ => false) && activeModel j == activeModel h

/-- The tasks that the contexts of a group name, or a full binding where there is none. -/
def groupTasks (s : State) (q : PartIx) (g : List Job) : Nat :=
  let n := ((g.flatMap (·.ctx)).map fun c => c.task + 1).foldl max 0
  if n = 0 then planPlots s q else n

/-- VICTIM_RESUME: the first job of the plan, off its plots and not suspended, is bound again; a RESUME that waits is
answered. Tasks that land on other plots are migrations and advance the epoch. -/
def execVictimResume (q : PartIx) (job : Word) (s : State) : Out :=
  .next (match jobById s q job with
    | some j =>
      match j.away with
      | .out false _ _ =>
        let g := resumeGroup s q j
        let n := groupTasks s q g
        let new := bindingOn n (freePlotsFor s q fun k => g.any fun x => x.id == k.id)
        if !firstInPlan s q job || !plotsIdle s q || new.length < n then s
        else
          let old := (g.flatMap (·.ctx)).map fun c => (c.task, c.plot)
          let k := moved old new
          let s1 := forAll (new.map (·.2)) (fun s p => takePlot p s) (swapPackage q (activeModel j) s)
          let s2 := countExec q 1 k (onJobs q (fun x => g.any fun y => y.id == x.id)
            (fun x => { x with away := .restoring, tasks := new, stopped := k ≠ 0, advanced := false }) s1)
          g.foldl (fun s x => answerWaiting (waitsOn q x.id [0x04]) (ansDone 0 0) s) s2
      | _ => s
    | none => s)

/-- Read the regions of a context back into a plot; false when one cannot be read. -/
def copyIn (q : PartIx) (p : PlotIx) : List (Nat × DWord × Nat) → State → State × Bool
  | [], s => (s, true)
  | (o, a, n) :: t, s =>
    match devRead q a.toNat (roundUp n 64) 0 [] s with
    | (s1, .ok bs) => copyIn q p t (t0Write p o (bs.take n) s1)
    | (s1, .error _) => (s1, false)

/-- Restore one task: regions, then the generator, the layer state and the semaphores. -/
def restoreTask (new : List (Nat × PlotIx)) (q : PartIx) (a : State × Bool) (c : TaskCtx) : State × Bool :=
  match (new.find? fun t => t.1 == c.task) with
  | none => a
  | some (_, p) =>
    let (s1, ok) := copyIn q p c.regions a.1
    let s2 := s1.onPlot p fun x =>
      { x with
        ring := PageRing.reset
        rng := { x.rng with s0 := c.rng[0], s1 := c.rng[1], s2 := c.rng[2], s3 := c.rng[3] }
        watch := { x.watch with layer := c.layer } }
    let s3 := s2.onBed (bedOf p) fun x =>
      { x with sems := c.sems.foldl (fun v e => v.set e.1.toNat e.2 (by omega)) x.sems }
    (s3, a.2 && ok)

/-- RESTORE_COMPLETE: every context of the jobs bound with this one is back in place, and the pass goes on with the flushed
commands from their PROGRESS. A context that cannot be read fails the pass. -/
def execRestoreComplete (q : PartIx) (job : Word) (s : State) : Out :=
  .next (match jobById s q job with
    | some j =>
      let g := (liveJobs s q).filter fun x => x.away = .restoring && x.tasks = j.tasks
      if j.away ≠ .restoring || (g.any (·.stopped)) || (j.tasks.any fun t => (s.plot t.2).mode ≠ .idle) then s
      else
        let (s1, ok) := (g.flatMap (·.ctx)).foldl (restoreTask j.tasks q) (s, true)
        onJobs q (fun x => g.any fun y => y.id == x.id) (fun x => { x with
          away := .none
          inPass := true
          passFailed := x.passFailed || !ok
          ctx := []
          flushed := []
          watchAt := watchNow s1 j.tasks }) s1
    | none => s)

/-! ### Completion rings (R284, R291) -/

/-- Statuses that fail the pass and run it again (R270, R418). -/
def retryable (st : Nat) : Bool := [stResidue, stSpUncorr, stMemUncorr, 0x10, 0x11].contains st

/-- The batch of a job that ends FAILED by a command's status: a batch's commands serve every member. -/
def failMembers (q : PartIx) (j : Job) (s : State) : State :=
  let ids := if j.inPass then ((s.part q).jobs.filter (·.inPass)).map (·.id) else [j.id]
  let s1 := flushTasks j.tasks s
  dispatch q (ids.foldl (fun s id => endJob q id .failed 0 0 true s) s1)

/-- What the Almanac does with a record of the current epoch of a job. -/
def takeRecord (q : PartIx) (j : Job) (st : Nat) (r : Option (BitVec 256)) (s : State) : State :=
  if st = stOk then s
  else if st = stFlushed then
    match r with
    | some x => if j.stopped then onJob q j.id (fun j => { j with flushed := j.flushed ++ [x] }) s else s
    | none => s
  else if retryable st || (st = stStale && j.ctx.isEmpty) then onJobs q (fun k => k.id == j.id || (k.inPass && j.inPass)) (fun k => { k with passFailed := true }) s
  else if st = stStale then s
  else failMembers q j s

/-- Whether a record's epoch is the current one of a live job. -/
def recordJob (s : State) (q : PartIx) (epoch : Word) : Option Job :=
  (jobInSlot s q (epoch.toNat / 2 ^ 24)).filter fun j => j.epoch.toNat == epoch.toNat % 2 ^ 24

/-- A record of partition-level traffic: a vote whose collective failed has the pass run again (R417, R418). -/
def takeOwnRecord (q : PartIx) (st : Nat) (s : State) : State :=
  if st = stOk || st = stFlushed then s
  else onJobs q (·.voting) (fun j => { j with voting := false, voteRes := some (false, true) }) s

/-- A record leaves a ring: discarded and counted when its epoch is stale. -/
def drainOne (q : PartIx) (epoch : Word) (st : Nat) (r : Option (BitVec 256)) (s : State) : State :=
  if epoch = 0xFFFFFFFF then takeOwnRecord q st s
  else match recordJob s q epoch with
    | none => countExec q 3 1 s
    | some j => takeRecord q j st r s

/-- STATUS of a 16-byte record (R223). -/
def recStatus16 (r : BitVec 128) : Nat := bitsOf r.toNat 23 16

/-- COMPLETION_RING_DRAIN: the oldest record of a ring is taken. -/
def execCompletionRingDrain (r : Ring) (s : State) : Out :=
  .next (match r with
    | .bed b =>
      match (s.bed b).ring with
      | [] => s
      | e :: rest =>
        let s1 := s.onBed b fun x => { x with ring := rest }
        match bedPart s b with
        | some q => drainOne q e.2 (recStatus e.1) (some e.1) s1
        | none => s1
    | .carrier q =>
      match (s.part q).carrierRing with
      | [] => s
      | e :: rest => drainOne q e.2 (recStatus16 e.1) none (s.onPart q fun x => { x with carrierRing := rest })
    | .fabric q =>
      match (s.part q).fabricRing with
      | [] => s
      | e :: rest => drainOne q e.2 (recStatus16 e.1) none (s.onPart q fun x => { x with fabricRing := rest }))

/-! ### Idle plots (R279) -/

/-- PG_IDLE_TIMEOUT: a free plot that has been idle for IMG_PG_IDLE is to be power-gated. -/
def execPgIdleTimeout (p : PlotIx) (s : State) : Out :=
  .next (if (plotJob s p).isNone && (s.plot p).mode = .idle && plotEmpty (s.plot p) then
    s.onPlot p fun x => { x with pgReq := true }
  else s)

/-! ### Writes at a check point (R282, R297) -/

/-- The check point that a device address lies behind. -/
def pointOf (s : State) (a : Nat) : Option CheckPoint :=
  match tierOf s a with
  | .t1 => some (.bed (Fin.ofNat 16 ((a - t1Base) / bedStride)))
  | .t2 => some (.cistern (Fin.ofNat 2 ((a - t2Base) / 0x10000000)))
  | .t3 => some (.cistern (frameCis ((a - t3Base) / pageBytes)))
  | _ => none

/-- EPOCH_CHECKED_WRITE: a write within one page of the partition's ranges reaches its check point. -/
def execEpochCheckedWrite (at_ : CheckPoint) (q : PartIx) (epoch : Word) (addr : DWord) (data : List Byte) (s : State) : Out :=
  let a := addr.toNat
  .next (if pointOf s a = some at_ && a / pageBytes = (a + data.length - 1) / pageBytes && rangeOk s q a data.length &&
      (tierOf s a ≠ .t3 || a % 64 = 0 && data.length % 64 = 0) then
    (devWritePiece q a 0 epoch.toNat data s).1
  else s)

end Sys2Proof.Machine
end

