-- ==== Sys2Proof/Machine/Flow.lean ====
section
/-! DEFINITION. Broelavel Link: frames, headers, flows, ports, and the gate of a partition (R391 to R395, R414). -/

namespace Sys2Proof.Machine

open Host

/-! ### Frames (R392, R393) -/

/-- The fields of a header. -/
structure Hdr where
  ty : Nat
  last : Bool
  lc : Bool
  restart : Bool
  hold : Bool
  srcDev : BitVec 12
  srcPart : Nat
  dstDev : BitVec 12
  dstPart : Nat
  psn : Word
  dstEpoch : Word
  xfer : Word
  addr : DWord
  aux : Word
deriving DecidableEq, Repr

/-- The 40-byte header of a frame with a payload. -/
def mkHeader (h : Hdr) (payload : List Byte) : BitVec 320 :=
  BitVec.ofNat 320 (1 + h.ty * 2 ^ 4 + h.last.toNat * 2 ^ 8 + h.lc.toNat * 2 ^ 9 + h.restart.toNat * 2 ^ 10 +
    h.hold.toNat * 2 ^ 11 + h.srcDev.toNat * 2 ^ 16 + h.srcPart * 2 ^ 28 + h.dstDev.toNat * 2 ^ 32 + h.dstPart * 2 ^ 44 +
    h.psn.toNat * 2 ^ 64 + h.dstEpoch.toNat * 2 ^ 96 + h.xfer.toNat * 2 ^ 128 + payload.length * 2 ^ 160 +
    h.addr.toNat * 2 ^ 192 + crc32c payload * 2 ^ 256 + h.aux.toNat * 2 ^ 288)

/-- TYPE. -/
def fTy (f : Frame) : Nat := fld f.header 0x00 7 4
/-- LAST. -/
def fLast (f : Frame) : Bool := flag f.header 0x00 8
/-- CLASS: latency-critical. -/
def fLc (f : Frame) : Bool := flag f.header 0x00 9
/-- RESTART. -/
def fRestart (f : Frame) : Bool := flag f.header 0x00 10
/-- HOLD. -/
def fHold (f : Frame) : Bool := flag f.header 0x00 11
/-- SRC_DEV. -/
def fSrcDev (f : Frame) : BitVec 12 := BitVec.ofNat 12 (fld f.header 0x00 27 16)
/-- SRC_PART. -/
def fSrcPart (f : Frame) : PartIx := Fin.ofNat 16 (fld f.header 0x00 31 28)
/-- DST_PART. -/
def fDstPart (f : Frame) : PartIx := Fin.ofNat 16 (fld f.header 0x04 15 12)
/-- PSN. -/
def fPsn (f : Frame) : Word := BitVec.ofNat 32 (fld f.header 0x08 31 0)
/-- DST_EPOCH. -/
def fDstEpoch (f : Frame) : Word := BitVec.ofNat 32 (fld f.header 0x0C 31 0)
/-- XFER_SEQ. -/
def fXfer (f : Frame) : Word := BitVec.ofNat 32 (fld f.header 0x10 31 0)
/-- ADDR. -/
def fAddr (f : Frame) : DWord := BitVec.ofNat 64 (fld f.header 0x18 63 0)
/-- CHUNK_CRC. -/
def fCrc (f : Frame) : Nat := fld f.header 0x20 31 0
/-- AUX. -/
def fAux (f : Frame) : Word := BitVec.ofNat 32 (fld f.header 0x24 31 0)

/-- The MAC address of port i of device d, first octet in the low byte. -/
def macOf (s : State) (d : BitVec 12) (i : Nat) : BitVec 48 :=
  BitVec.ofNat 48 (s.dev.bvl.macPrefix.toNat + d.toNat / 256 * 2 ^ 24 + d.toNat % 256 * 2 ^ 32 + i * 2 ^ 40)

/-- A reserved header field is non-zero, VER is not 1, or TYPE is not one of the nine. -/
def headerBad (f : Frame) : Bool :=
  fld f.header 0x00 3 0 != 1 || 9 ≤ fTy f || fld f.header 0x00 15 12 != 0 || fld f.header 0x04 31 16 != 0 ||
    fld f.header 0x14 31 16 != 0

/-- The Ethernet layer or the header drops the frame. -/
def frameBad (s : State) (p : PortIx) (f : Frame) : Bool :=
  !f.fcsOk || f.etherType != s.dev.bvl.etherType || f.dstMac != macOf s s.dev.bvl.devId p.val || headerBad f

/-- The cistern of a port. -/
def portCis (p : PortIx) : CisIx := Fin.ofNat 2 (p.val / 4)

/-- Whether a port is up. -/
def portUp (s : State) (p : PortIx) : Bool := s.bvl.ports[p].state = 2 || s.bvl.ports[p].state = 3

/-- Change the link registers of a port's cistern. -/
def onLink (p : PortIx) (f : LinkRegs → LinkRegs) (s : State) : State := s.onCis (portCis p) fun x => { x with link := f x.link }

/-- Change a port. -/
def onPort (p : PortIx) (f : Port → Port) (s : State) : State :=
  { s with bvl := { s.bvl with ports := s.bvl.ports.set p.val (f s.bvl.ports[p]) p.isLt } }

/-! ### Flows (R395) -/

/-- A flow as it starts: nothing sent, the receiver expecting `psn`. -/
def newFlow (p : PortIx) (d : BitVec 12) (lc : Bool) (psn : Word) : Flow :=
  { port := p, dev := d, lc := lc, next := 0, unacked := [], timeouts := 0, timeoutUs := 20, expected := psn,
    sinceAck := 0, nakAt := none, stalled := none, held := none }

/-- Whether a flow is the one of a port, device and class. -/
def isFlow (p : PortIx) (d : BitVec 12) (lc : Bool) (x : Flow) : Bool := x.port == p && x.dev == d && x.lc == lc

/-- The flow of a port, device and class, if its context exists. -/
def flowOf (s : State) (p : PortIx) (d : BitVec 12) (lc : Bool) : Option Flow := s.bvl.flows.find? (isFlow p d lc)

/-- Change a flow, which comes into being with expected PSN `psn`. -/
def onFlow (p : PortIx) (d : BitVec 12) (lc : Bool) (psn : Word) (g : Flow → Flow) (s : State) : State :=
  let fs := s.bvl.flows
  let new := if fs.any (isFlow p d lc) then updateWhere (isFlow p d lc) g fs else fs ++ [g (newFlow p d lc psn)]
  { s with bvl := { s.bvl with flows := new } }

/-- The tag of a frame, where the image asks for one: VLAN_ID and the priority of its class. Frames out of sequence (ACK, NAK and
TIME) are control frames (R391, R403). -/
def frameTag (s : State) (ty : Nat) (lc : Bool) : Option (BitVec 16) :=
  let class_ := if ty = 3 || ty = 4 || ty = 8 then 2 else lc.toNat
  if s.dev.bvl.vlanEn then some (BitVec.ofNat 16 (s.dev.bvl.vlanId.toNat + s.dev.bvl.pcps.toNat / 8 ^ class_ % 8 * 2 ^ 13)) else none

/-- A frame of this device to a port of another one (R392). -/
def ownFrame (s : State) (p : PortIx) (d : BitVec 12) (h : Hdr) (payload : List Byte) : Frame :=
  { fcsOk := true
    dstMac := macOf s d p.val
    srcMac := macOf s s.dev.bvl.devId p.val
    tag := frameTag s h.ty h.lc
    etherType := s.dev.bvl.etherType
    header := mkHeader h payload
    payload := payload }

/-- A frame leaves through a port. -/
def emitFrame (p : PortIx) (d : BitVec 12) (h : Hdr) (payload : List Byte) (s : State) : State :=
  { s with bvl := { s.bvl with wire := s.bvl.wire ++ [(p, ownFrame s p d h payload)] } }

/-- A header of this device's own. -/
def ownHdr (s : State) (ty : Nat) (d : BitVec 12) (lc : Bool) : Hdr :=
  { ty := ty, last := false, lc := lc, restart := false, hold := holdActive s, srcDev := s.dev.bvl.devId, srcPart := 0,
    dstDev := d, dstPart := 0, psn := 0, dstEpoch := 0, xfer := 0, addr := 0, aux := 0 }

/-- Send a frame in sequence on a flow: it stays unacknowledged. -/
def sendOn (p : PortIx) (d : BitVec 12) (lc : Bool) (h : Hdr) (payload : List Byte) (s : State) : State :=
  let psn := ((flowOf s p d lc).map (·.next)).getD 0
  let h1 := { h with psn := psn, lc := lc, hold := false }
  let f := ownFrame s p d h1 payload
  emitFrame p d h1 payload (onFlow p d lc 0 (fun x => { x with next := x.next + 1, unacked := x.unacked ++ [f] }) s)

/-- A cumulative ACK of a flow. -/
def sendAck (p : PortIx) (d : BitVec 12) (lc : Bool) (s : State) : State :=
  match flowOf s p d lc with
  | none => s
  | some x =>
    emitFrame p d { (ownHdr s 3 d lc) with aux := x.expected - 1 } [] (onFlow p d lc 0 (fun x => { x with sinceAck := 0 }) s)

/-- Frames of unacknowledged flows are sent again from a PSN on, each counted. -/
def resendFrom (p : PortIx) (d : BitVec 12) (lc : Bool) (psn : Word) (s : State) : State :=
  match flowOf s p d lc with
  | none => s
  | some x =>
    let again := x.unacked.filter fun f => (fPsn f - psn).toNat < 2 ^ 31
    onPort p (fun y => { y with resent := satAdd y.resent again.length })
      { s with bvl := { s.bvl with wire := s.bvl.wire ++ again.map fun f => (p, f) } }

/-- What the receiving end of a flow says of a sequenced frame. -/
def receiveSeq (p : PortIx) (f : Frame) (s : State) : State × Bool :=
  let d := fSrcDev f
  let lc := fLc f
  let x := (flowOf s p d lc).getD (newFlow p d lc (fPsn f))
  let exp := if fRestart f then fPsn f else x.expected
  if fPsn f = exp && crc32c f.payload = fCrc f && f.payload.length = fld f.header 0x14 15 0 then
    let s1 := onFlow p d lc (fPsn f) (fun x => { x with expected := exp + 1, sinceAck := x.sinceAck + 1 }) s
    (if 8 ≤ x.sinceAck + 1 then sendAck p d lc s1 else s1, true)
  else
    let due := match x.nakAt with
      | some t => decide (4000 ≤ (s.time - t).toNat)
      | none => true
    let s1 := onFlow p d lc (fPsn f) (fun x => { x with nakAt := if due then some s.time else x.nakAt }) s
    (if due then emitFrame p d { (ownHdr s 4 d lc) with aux := exp } [] s1 else s1, false)

/-- A frame of a type reaches a port: bad frames are counted, sequenced ones checked. In HOLD a port takes no data. -/
def receiveFrame (p : PortIx) (ty : Nat) (f : Frame) (take : State → State) (s : State) : State :=
  if !portUp s p then s
  else if frameBad s p f then onLink p (fun x => { x with badFrame := satAdd x.badFrame 1 }) s
  else if fTy f ≠ ty then s
  else if [3, 4, 8].contains ty then take s
  else if holdActive s then sendAck p (fSrcDev f) (fLc f) s
  else match receiveSeq p f s with
    | (s1, true) => take s1
    | (s1, false) => s1

/-! ### Ends and ports of a transfer (R394) -/

/-- A local end in T1, T2 or T3 within the partition's ranges. -/
def fabricEnd (s : State) (q : PartIx) (a n : Nat) : Bool := tierOf s a != .t0 && rangeOk s q a n

/-- Ports of a cistern that are up, ascending. -/
def upPorts (s : State) (c : CisIx) : List PortIx := (List.finRange 8).filter fun p => portCis p == c && portUp s p

/-- The port that sends page k of a transfer from a local address to a device: of the cistern that holds the page, or of the
other one where it has no port up. -/
def portFor (s : State) (a k : Nat) (d : BitVec 12) : Option PortIx :=
  let c : CisIx := match tierOf s a with
    | .t2 => Fin.ofNat 2 ((a - t2Base) / 0x10000000)
    | .t3 => frameCis ((a - t3Base) / pageBytes)
    | _ => Fin.ofNat 2 k
  let ps := if (upPorts s c).isEmpty then upPorts s (1 - c) else upPorts s c
  ps[(k / 2 + d.toNat) % max 1 ps.length]?

/-- Room for one more frame in a flow. -/
def windowOpen (s : State) (p : PortIx) (d : BitVec 12) (lc : Bool) : Bool :=
  ((flowOf s p d lc).map fun x => x.unacked.length).getD 0 < s.dev.bvl.window

/-! ### The gate (R414) -/

/-- The gate closes at a posting (R414). -/
def closeGate (q : PartIx) (s : State) : State :=
  s.onPart q fun x => { x with gateSince := if x.gateSince.isNone then some s.time else x.gateSince }

/-- Collectives of a partition other than its boundary vote, which carries the partition epoch (R417). -/
def gateColls (x : Part) : List CollOp := x.colls.filter fun c => fld c.desc 0x04 31 0 ≠ 0xFFFFFFFF

/-- The gate opens when no WRITE and no collective is left. -/
def settleGate (q : PartIx) (s : State) : State :=
  let x := s.part q
  if (gateColls x).isEmpty && !x.fabric.any fun o => !o.isRead then openGate q s else s

end Sys2Proof.Machine
end

