-- ==== Sys2Proof/Machine/Coll.lean ====
section
/-! DEFINITION. Collectives: group records, descriptors, trees, ready writes, credits, counts, the fixed order of addition, and
time-outs (R405 to R414, R418, R421). -/

namespace Sys2Proof.Machine

open Host

/-! ### Descriptors (R408) -/

/-- COP. -/
def cdOp (d : BitVec 512) : Nat := fld d 0x00 3 0
/-- PRIO. -/
def cdLc (d : BitVec 512) : Bool := flag d 0x00 4
/-- VAR. -/
def cdVar (d : BitVec 512) : Bool := flag d 0x00 5
/-- SAT. -/
def cdSat (d : BitVec 512) : Bool := flag d 0x00 6
/-- FENCE. -/
def cdFence (d : BitVec 512) : Bool := flag d 0x00 7
/-- PARTITION. -/
def cdPart (d : BitVec 512) : PartIx := Fin.ofNat 16 (fld d 0x00 11 8)
/-- TAG. -/
def cdTag (d : BitVec 512) : Nat := fld d 0x00 31 16
/-- EPOCH. -/
def cdEpoch (d : BitVec 512) : Nat := fld d 0x04 31 0
/-- SRC. -/
def cdSrc (d : BitVec 512) : Nat := fld d 0x08 63 0
/-- DST. -/
def cdDst (d : BitVec 512) : Nat := fld d 0x10 63 0
/-- BYTES. -/
def cdBytes (d : BitVec 512) : Nat := fld d 0x18 31 0
/-- BYTES_MAX. -/
def cdMax (d : BitVec 512) : Nat := fld d 0x1C 31 0
/-- GROUP. -/
def cdGroup (d : BitVec 512) : Nat := fld d 0x20 63 0
/-- ROOT. -/
def cdRoot (d : BitVec 512) : Nat := fld d 0x28 11 0
/-- FANIN. -/
def cdFanin (d : BitVec 512) : Nat := fld d 0x28 15 12
/-- DFMT. -/
def cdFmt (d : BitVec 512) : Nat := fld d 0x28 19 16
/-- COLL_SEQ. -/
def cdSeq (d : BitVec 512) : Word := BitVec.ofNat 32 (fld d 0x2C 31 0)
/-- STAGE. -/
def cdStage (d : BitVec 512) : Nat := fld d 0x30 63 0
/-- TIMEOUT_US. -/
def cdTimeout (d : BitVec 512) : Nat := fld d 0x38 31 0

/-- COLL_TIMEOUT. -/
def stCollTimeout : Nat := 0x11

/-- The largest count that a member may carry. -/
def cdLimit (d : BitVec 512) : Nat := if cdVar d then cdMax d else cdBytes d

/-- Bytes of the staging area. -/
def stageBytes (d : BitVec 512) : Nat := cdFanin d * 131072 + 4096

/-! ### Group records (R406) -/

/-- A word of a group record. -/
def groupWord (s : State) (d : BitVec 512) (o : Nat) : Nat := natOf (ramRead s (cdGroup d + o) 4)

/-- N of a group record. -/
def groupN (s : State) (d : BitVec 512) : Nat := bitsOf (groupWord s d 0) 27 16

/-- DEV and PART of member i. -/
def groupMember (s : State) (d : BitVec 512) (i : Nat) : BitVec 12 × Nat :=
  let w := groupWord s d (0x10 + 16 * i)
  (BitVec.ofNat 12 w, bitsOf w 15 12)

/-- EPOCH of member i. -/
def groupEpoch (s : State) (d : BitVec 512) (i : Nat) : Nat := groupWord s d (0x14 + 16 * i)

/-- The indices that name this device and the issuing partition. -/
def ownIndices (s : State) (d : BitVec 512) : List Nat :=
  (List.range (groupN s d)).filter fun i => groupMember s d i == (s.dev.bvl.devId, (cdPart d).val)

/-! ### Trees (R409) -/

/-- The parent of rank r > 0. -/
def treeParent (f r : Nat) : Nat := if f = 1 then r - 1 else (r - 1) / f

/-- The children of rank r among n ranks, ascending. -/
def treeChildren (f n r : Nat) : List Nat :=
  (if f = 1 then [r + 1] else (List.range f).map fun i => f * r + 1 + i).filter (· < n)

/-- The place of rank r > 0 among its parent's children. -/
def treePlace (f r : Nat) : Nat := if f = 1 then 0 else (r - 1) % f

/-- The rank of an index. -/
def rankOf (d : BitVec 512) (n i : Nat) : Nat := (i + n - cdRoot d) % n

/-- The index of a rank. -/
def indexOf (d : BitVec 512) (n r : Nat) : Nat := (r + cdRoot d) % n

/-- The member's own rank. -/
def ownRank (c : CollOp) : Nat := rankOf c.desc c.members c.index

/-- The member's children. -/
def ownChildren (c : CollOp) : List Nat := treeChildren (cdFanin c.desc) c.members (ownRank c)

/-- Neighbours that the member receives from: children in REDUCE, the parent in BROADCAST. -/
def sendersTo (c : CollOp) : List Nat :=
  if c.isReduce then ownChildren c else if ownRank c = 0 then [] else [treeParent (cdFanin c.desc) (ownRank c)]

/-- Neighbours that receive from the member. -/
def receiversFrom (c : CollOp) : List Nat :=
  if !c.isReduce then ownChildren c else if ownRank c = 0 then [] else [treeParent (cdFanin c.desc) (ownRank c)]

/-! ### The check of a descriptor (R408) -/

/-- The data ends that the member uses: SRC of a contribution or of the root's data, DST where it is written. -/
def collEnds (d : BitVec 512) (isReduce root : Bool) : List Nat :=
  if isReduce then (if root then [cdSrc d, cdDst d] else [cdSrc d]) else if root then [cdSrc d] else [cdDst d]

/-- The breaches of a collective descriptor. -/
def checkColl (d : BitVec 512) (s : State) : Option Nat :=
  let q := cdPart d
  let n := groupN s d
  let own := ownIndices s d
  let root := own.head? == some (cdRoot d)
  let ends := collEnds d (cdOp d == 1) root
  firstBreach [
    (2 ≤ cdOp d || fld d 0x00 15 12 != 0 || fld d 0x28 31 20 != 0 || fld d 0x3C 31 0 != 0 || cdBytes d < 256 ||
      2 ^ 30 < cdBytes d || (!cdVar d && cdMax d != 0), stIllegal),
    (!([0x3, 0x4, 0x5, 0x6, 0x7, 0xD].contains (cdFmt d)), stFormat),
    (bitsOf (groupWord s d 0) 15 0 != 0x9A71 || n < 2 || 4096 < n || n ≤ cdRoot d || cdFanin d == 0 || 8 < cdFanin d ||
      (cdVar d && cdMax d < cdBytes d) || tierOf s (cdStage d) != .t2 || own.length != 1 || cdTimeout d < 100 ||
      10000000 < cdTimeout d, stDim),
    (cdBytes d % 256 != 0 || cdMax d % 256 != 0 || cdStage d % pageBytes != 0 || ends.any (fun a => a % 256 != 0), stAlign),
    (tierOf s (cdGroup d) != .t2 || !rangeOk s q (cdGroup d) (16 + 16 * n) || !rangeOk s q (cdStage d) (stageBytes d) ||
      ends.any (fun a => !fabricEnd s q a (cdLimit d)), stAddrFault)]

/-! ### Changing a collective -/

/-- Change collective n of a partition. -/
def onColl (q : PartIx) (n : Nat) (f : CollOp → CollOp) (s : State) : State :=
  s.onPart q fun x => { x with colls := (List.range x.colls.length).zip x.colls |>.map fun io => if io.1 = n then f io.2 else io.2 }

/-- Where the collective of a sequence number stands. -/
def collOf (s : State) (q : PartIx) (seq : Word) : Option Nat := (s.part q).colls.findIdx? fun c => cdSeq c.desc == seq

/-- Change the collective counters of both cisterns, whose sluices run every collective. -/
def onLinks (f : LinkRegs → LinkRegs) (s : State) : State :=
  forAll [0, 1] (fun s c => s.onCis c fun x => { x with link := f x.link }) s

/-- A collective fails with a status. -/
def failColl (q : PartIx) (n st : Nat) (s : State) : State := onColl q n (fun c => { c with status := BitVec.ofNat 8 st }) s

/-! ### Counts (R413) -/

/-- The count of a child, once it is known. -/
def childCount (c : CollOp) (r : Nat) : Option Nat := if cdVar c.desc then c.counts.lookup r else some (cdBytes c.desc)

/-- The count of what the member handles: the largest of its own and its children's in REDUCE, the root's in BROADCAST. -/
def collCount (c : CollOp) : Option Nat :=
  if !cdVar c.desc then some (cdBytes c.desc)
  else if c.isReduce then
    if (ownChildren c).all fun r => (c.counts.lookup r).isSome then
      some ((ownChildren c).foldl (fun m r => max m ((c.counts.lookup r).getD 0)) (cdBytes c.desc))
    else none
  else if ownRank c = 0 then some (cdBytes c.desc)
  else c.counts.lookup (treeParent (cdFanin c.desc) (ownRank c))

/-- Pages of 64 KiB that a count covers. -/
def pagesOf (count : Nat) : Nat := cdiv count pageBytes

/-- Bytes of page k of a count. -/
def pageLen (count k : Nat) : Nat := min pageBytes (count - pageBytes * k)

/-! ### Sending (R412) -/

/-- The cistern that a local page belongs to. -/
def collCis (s : State) (a k : Nat) : CisIx :=
  match tierOf s a with
  | .t2 => Fin.ofNat 2 ((a - t2Base) / 0x10000000)
  | .t3 => frameCis ((a - t3Base) / pageBytes)
  | _ => Fin.ofNat 2 k

/-- The chunks of a write to a remote address: every 4 KiB boundary cuts it. -/
def remoteChunks (a n : Nat) : List (Nat × Nat) := pieces 4096 a n

/-- Room in a flow for n more frames. -/
def roomIn (s : State) (p : PortIx) (d : BitVec 12) (lc : Bool) (n : Nat) : Bool :=
  ((flowOf s p d lc).map fun x => x.unacked.length).getD 0 + n ≤ s.dev.bvl.window

/-- Send bytes to a member as WRITE chunks; none where no port is up or the flow has no room. -/
def collSend (q : PartIx) (c : CollOp) (rank localAddr k remote : Nat) (bs : List Byte) (s : State) : Option State :=
  let d := c.desc
  let i := indexOf d c.members rank
  let (dev, part) := groupMember s d i
  let cs := remoteChunks remote bs.length
  match portFor s localAddr k dev with
  | none => none
  | some p =>
    if !roomIn s p dev (cdLc d) cs.length then none
    else
      let hdr (a : Nat) (last : Bool) : Hdr :=
        { (ownHdr s 0 dev (cdLc d)) with
          last := last
          srcPart := q.val
          dstPart := part
          dstEpoch := BitVec.ofNat 32 (groupEpoch s d i)
          xfer := cdSeq d
          addr := BitVec.ofNat 64 a
          aux := BitVec.ofNat 32 (cdEpoch d) }
      some (cs.foldl (fun s e =>
        sendOn p dev (cdLc d) (hdr e.1 (e.1 + e.2 == remote + bs.length)) ((bs.drop (e.1 - remote)).take e.2) s) s)

/-- Send the same bytes to several members, or to none of them. -/
def collSendAll (q : PartIx) (c : CollOp) (localAddr k remote : Nat) (bs : List Byte) : List Nat → State → Option State
  | [], s => some s
  | r :: rest, s => (collSend q c r localAddr k remote bs s).bind (collSendAll q c localAddr k remote bs rest)

/-- The control area of STAGE: ready writes at its start, credits and counts behind them. -/
def ctlArea (d : BitVec 512) (i : Nat) : Nat := cdStage d + cdFanin d * 131072 + 256 * i

/-- A 256-byte control write of some words. -/
def ctlBytes (ws : List Nat) : List Byte :=
  let bs := ws.flatMap (bytesOf 4)
  bs ++ List.replicate (256 - bs.length) 0

/-- What a ready write carries. -/
def readyWords (c : CollOp) : List Nat :=
  [(cdSeq c.desc).toNat, cdOp c.desc, cdFmt c.desc, cdFanin c.desc, cdRoot c.desc, c.members, cdMax c.desc]

/-- A ready write agrees with the member's own descriptor (R412). -/
def readyAgrees (c : CollOp) (d : BitVec 512) (n : Nat) : Bool :=
  cdOp d == cdOp c.desc && cdFmt d == cdFmt c.desc && cdFanin d == cdFanin c.desc && cdRoot d == cdRoot c.desc &&
    n == c.members && cdMax d == cdMax c.desc

/-- A ready write of a neighbour that receives from the member: it is noted, or it disagrees and fails the collective. -/
def takeReady (q : PartIx) (n : Nat) (src : Nat) (d : BitVec 512) (cnt : Nat) (s : State) : State :=
  match (s.part q).colls[n]? with
  | none => s
  | some c =>
    let r := rankOf c.desc c.members src
    if c.status ≠ 0 || !(receiversFrom c).contains r then s
    else if readyAgrees c d cnt then
      onColl q n (fun c => { c with ready := if c.ready.contains r then c.ready else r :: c.ready, since := s.time }) s
    else failColl q n stDim (onLinks (fun x => { x with collMismatch := satAdd x.collMismatch 1 }) s)

/-- Every neighbour that receives from the member has sent its ready write. -/
def allReady (c : CollOp) : Bool := (receiversFrom c).all fun r => c.ready.contains r

/-- A collective starts: its ready writes leave, and those that came before it are looked at. -/
def startColl (q : PartIx) (n : Nat) (c : CollOp) (s : State) : Option State :=
  (collSendAll q c (ctlArea c.desc 0) 0 (ctlArea c.desc 0) (ctlBytes (readyWords c)) (sendersTo c) s).map fun s1 =>
    let s2 := onColl q n (fun c => { c with started := true, since := s.time }) s1
    let mine := (s2.part q).readies.filter fun e => e.1 == cdSeq c.desc
    let s3 := mine.foldl (fun s e => takeReady q n e.2.1 e.2.2.1 e.2.2.2 s) s2
    s3.onPart q fun x => { x with readies := x.readies.filter fun e => e.1 != cdSeq c.desc }

/-! ### The order of addition (R410) -/

/-- Bytes of an element. -/
def cdElem (fmt : Nat) : Nat := if fmt = 0x7 then 8 else fmtBits fmt / 8

/-- The pair of two FP32 words. -/
def pairOf (c : Nat) : Pair := { h := decFloat fmtFP32 (c % 2 ^ 32), c := decFloat fmtFP32 (c / 2 ^ 32) }

/-- The exact value v of two pairs' sum as a pair: h = rne32(v), c = rne32(v - h), +0 where h is not finite (R62). -/
def pairRnd (v : XVal) : Pair :=
  let h := rne32 v
  { h := h, c := if xisNan h || xisInf h then xzero else rne32 (xadd v (xneg h)) }

/-- h + c of a pair read as one value. -/
def pairWhole (p : Pair) : XVal := xadd p.h p.c

/-- One element added to another in a format: the exact sum, rounded once. -/
def addElem (fmt : Nat) (sat : Bool) (a b : Nat) : Nat :=
  if fmt = 0x7 then (storePair (pairRnd (xadd (pairWhole (pairOf a)) (pairWhole (pairOf b))))).code
  else (convTo fmt sat .rne (xadd (decElem fmt a) (decElem fmt b))).code

/-- A page added to another; an absent element leaves the other operand unchanged (R413). -/
def addPage (fmt : Nat) (sat : Bool) : List Nat → List Nat → List Nat
  | [], b => b
  | a, [] => a
  | x :: xs, y :: ys => addElem fmt sat x y :: addPage fmt sat xs ys

/-- Two pages as bytes. -/
def addBytes (fmt : Nat) (sat : Bool) (a b : List Byte) : List Byte :=
  let w := 8 * cdElem fmt
  (addPage fmt sat (codesOf w a) (codesOf w b)).flatMap (bytesOf (cdElem fmt))

/-- Bytes of a page that children have contributed so far, and how many of them. -/
def pageAdded (c : CollOp) (k : Nat) : Nat := (c.added.lookup k).getD 0

/-- The member's own contribution to page k. -/
def ownPage (q : PartIx) (c : CollOp) (k : Nat) (s : State) : State × Except Nat (List Byte) :=
  let n := pageLen (cdBytes c.desc) k
  if n = 0 then (s, .ok []) else routedRead q none (cdSrc c.desc + pageBytes * k) n 0 [] s

/-- A key of an association list set. -/
def setKey {α : Type} (k : Nat) (v : α) (l : List (Nat × α)) : List (Nat × α) := (k, v) :: l.filter fun e => e.1 != k

/-- The next child of page k is added, when its page is here or it has none; a credit goes back to it. -/
def addNext (q : PartIx) (n : Nat) (c : CollOp) (k : Nat) (s : State) : Option State :=
  let a := pageAdded c k
  match (ownChildren c)[a]? with
  | none => none
  | some r =>
    match childCount c r with
    | none => none
    | some cnt =>
      if pageLen cnt k = 0 then some (onColl q n (fun c => { c with added := setKey k (a + 1) c.added }) s)
      else match (c.early.find? fun e => e.1 == r && e.2.1 == k) with
        | none => none
        | some e =>
          let credit := collSend q c r (ctlArea c.desc 1) 0 (ctlArea c.desc 1) (ctlBytes [(cdSeq c.desc).toNat]) s
          match credit with
          | none => none
          | some s1 =>
            let got := match c.acc.lookup k with
              | some bs => (s1, Except.ok bs)
              | none => ownPage q c k s1
            match got with
            | (s2, .error st) => some (failColl q n st s2)
            | (s2, .ok own) =>
              let sum := addBytes (cdFmt c.desc) (cdSat c.desc) own e.2.2
              let cis := collCis s2 (cdSrc c.desc + pageBytes * k) k
              let s3 := s2.onCis cis fun x => { x with link := { x.link with collBytes := satAdd x.link.collBytes e.2.2.length } }
              some (onColl q n (fun c =>
                { c with
                  acc := setKey k sum c.acc
                  added := setKey k (a + 1) c.added
                  early := c.early.filter fun x => !(x.1 == r && x.2.1 == k)
                  since := s.time }) s3)

/-- The sum of page k, once every child has been added. -/
def pageSum (q : PartIx) (c : CollOp) (k : Nat) (s : State) : Option (State × Except Nat (List Byte)) :=
  if pageAdded c k < (ownChildren c).length then none
  else match c.acc.lookup k with
    | some bs => some (s, .ok bs)
    | none => some (ownPage q c k s)

/-- A page has been sent or written. -/
def pageSent (q : PartIx) (n k : Nat) (credit : Nat) (s : State) : State :=
  onColl q n (fun c =>
    { c with
      sentPages := k + 1
      credits := c.credits - credit
      acc := c.acc.filter fun e => e.1 != k
      since := s.time }) s

/-- REDUCE: the next page goes to the parent's slot k mod 2 for a credit, or is written to DST at the root. -/
def sendSum (q : PartIx) (n : Nat) (c : CollOp) (s : State) : Option State :=
  let k := c.sentPages
  match pageSum q c k s with
  | none => none
  | some (s1, .error st) => some (failColl q n st s1)
  | some (s1, .ok bs) =>
    if ownRank c = 0 then
      match routedWrite q none (cdDst c.desc + pageBytes * k) 0 (cdEpoch c.desc) bs s1 with
      | (s2, some st) => some (failColl q n st s2)
      | (s2, none) => some (pageSent q n k 0 s2)
    else if c.credits = 0 then none
    else
      let slot := cdStage c.desc + treePlace (cdFanin c.desc) (ownRank c) * 131072 + k % 2 * pageBytes
      (collSend q c (treeParent (cdFanin c.desc) (ownRank c)) (cdSrc c.desc + pageBytes * k) k slot bs s1).map (pageSent q n k 1)

/-- BROADCAST: the next page goes to every child's DST, from SRC at the root and from the member's own DST elsewhere. -/
def sendCopy (q : PartIx) (n : Nat) (c : CollOp) (s : State) : Option State :=
  let k := c.sentPages
  let root := ownRank c = 0
  if !root && !c.got.contains k then none
  else
    let base := (if root then cdSrc c.desc else cdDst c.desc) + pageBytes * k
    let len := pageLen ((collCount c).getD 0) k
    if (ownChildren c).isEmpty then some (pageSent q n k 0 s)
    else match routedRead q none base len 0 [] s with
      | (s1, .error st) => some (failColl q n st s1)
      | (s1, .ok bs) =>
        (collSendAll q c base k (cdDst c.desc + pageBytes * k) bs (ownChildren c) s1).map (pageSent q n k 0)

/-- The count exchange: a member's count goes on once it is known (R413). -/
def sendCount (q : PartIx) (n : Nat) (c : CollOp) (count : Nat) (s : State) : Option State :=
  (collSendAll q c (ctlArea c.desc 2) 0 (ctlArea c.desc 2) (ctlBytes [(cdSeq c.desc).toNat, count]) (receiversFrom c) s).map
    (onColl q n fun c => { c with countSent := true, since := s.time })

/-- A collective that FENCE holds back: an earlier descriptor of the partition has not completed. -/
def collFenced (s : State) (q : PartIx) (n : Nat) (c : CollOp) : Bool :=
  cdFence c.desc && (n ≠ 0 || (s.part q).fabric.any fun o => !o.isRead || o.sent != 0 || o.status == 0)

/-- One thing that collective n can do now. -/
def collTry (q : PartIx) (n : Nat) (s : State) : Option State :=
  match (s.part q).colls[n]? with
  | none => none
  | some c =>
    if c.status ≠ 0 || holdActive s then none
    else if !c.started then (if collFenced s q n c then none else startColl q n c s)
    else
      let adds := if c.isReduce then ((c.sentPages :: c.early.map (·.2.1)).dedup.findSome? fun k => addNext q n c k s) else none
      match adds with
      | some s1 => some s1
      | none =>
        match collCount c with
        | none => none
        | some count =>
          if !allReady c then none
          else if cdVar c.desc && !c.countSent then sendCount q n c count s
          else if pagesOf count ≤ c.sentPages then none
          else if c.isReduce then sendSum q n c s
          else sendCopy q n c s

/-- Collective n goes on as far as it can. -/
def collRun (q : PartIx) (n : Nat) : Nat → State → State
  | 0, s => s
  | fuel + 1, s =>
    match collTry q n s with
    | some s1 => collRun q n fuel s1
    | none => s

/-! ### Completion (R408, R413) -/

/-- A frame of a collective. -/
def frameOfColl (q : PartIx) (c : CollOp) (f : Frame) : Bool :=
  fTy f == 0 && fSrcPart f == q && fXfer f == cdSeq c.desc && (fAux f).toNat == cdEpoch c.desc

/-- Everything has been received, sent and acknowledged. -/
def collDone (s : State) (q : PartIx) (c : CollOp) : Bool :=
  c.started && (match collCount c with
    | some n => decide (pagesOf n ≤ c.sentPages)
    | none => false) && !s.bvl.flows.any fun x => x.unacked.any (frameOfColl q c)

/-- A collective is over. -/
def collOver (s : State) (q : PartIx) (c : CollOp) : Bool := c.status ≠ 0 || collDone s q c

/-- BYTES_DONE of a collective. -/
def collBytesDone (c : CollOp) : Nat :=
  let all := (collCount c).getD 0
  if c.status ≠ 0 then min all (pageBytes * c.sentPages)
  else if c.isReduce && ownRank c ≠ 0 then cdBytes c.desc else all

/-- Its completion record. -/
def collRecord (c : CollOp) (time : Nat) : BitVec 128 :=
  BitVec.ofNat 128 (cdTag c.desc + c.status.toNat * 2 ^ 16 + (cdPart c.desc).val * 2 ^ 24 + collBytesDone c * 2 ^ 32 + time * 2 ^ 64)

/-- A sluice's trace record of a collective (R462). It is shown on the first engine of the destination's cistern. -/
def traceColl (d : BitVec 512) (isEnd : Bool) (st : Nat) (s : State) : State :=
  let c := collCis s (cdDst d) 0
  let o := (Config.collOperator d.toNat).toNat
  traceEmit (.cis c) (cdPart d)
    (traceRecord s.time.toNat (o % 65536) (o / 65536) (128 + 4 * c.val) isEnd 0 (cdOp d) st (cdTag d) (cdEpoch d) 0) s

/-- Collectives that are over write their records; the gate opens when nothing is left. -/
def finishColls (q : PartIx) (s : State) : State :=
  let ended := (s.part q).colls.filter (collOver s q)
  if ended.isEmpty then s
  else
    let ok := (ended.filter fun c => c.status = 0).length
    let s0 := forAll ended (fun s c => traceColl c.desc true c.status.toNat s) s
    let s1 := onLinks (fun x => { x with collDone := satAdd x.collDone ok }) s0
    let recs := ended.map fun c => (collRecord c s.time.toNat, BitVec.ofNat 32 (cdEpoch c.desc))
    let dests := ended.flatMap fun c => (receiversFrom c).map fun r =>
      (BitVec.ofNat 32 (cdEpoch c.desc), (groupMember s c.desc (indexOf c.desc c.members r)).1)
    settleGate q (s1.onPart q fun x =>
      { x with
        wrote := (x.wrote ++ dests).dedup
        colls := x.colls.filter fun c => !collOver s q c
        fabricRing := x.fabricRing ++ recs })

/-- Steps that the collectives of a partition can take at once: for each page its children and its own sending. -/
def collFuel (x : Part) : Nat := (x.colls.map fun c => 16 + (c.early.length + 2) * 12 + 2 * pagesOf (cdLimit c.desc)).sum

/-- The collectives of a partition go on as far as they can. -/
def pumpColls (q : PartIx) (s : State) : State :=
  let run (s : State) : State := (List.range (s.part q).colls.length).foldl (fun s n => collRun q n (collFuel (s.part q)) s) s
  finishColls q (run (finishColls q (run s)))

/-! ### Commands -/

/-- Post a collective descriptor: a breach completes it at once; a job's collective closes the gate. -/
def postColl (d : BitVec 512) (s : State) : State :=
  let q := cdPart d
  if (s.part q).resetStep ≠ .none || !(s.part q).defined then s
  else
    let c : CollOp :=
      { desc := d, isReduce := cdOp d == 1, index := (ownIndices s d).headD 0, members := groupN s d, started := false,
        since := s.time, ready := [], credits := 2, counts := [], countSent := false, early := [], added := [], acc := [], got := [],
        sentPages := 0, frames := [], status := BitVec.ofNat 8 ((checkColl d s).getD 0) }
    let s1 := (traceColl d false 0 s).onPart q fun x => { x with colls := x.colls ++ [c] }
    pumpColls q (if cdEpoch d = 0xFFFFFFFF then s1 else closeGate q s1)

/-- BROADCAST: a descriptor that is not a REDUCE is posted. -/
def execBroadcast (d : BitVec 512) (s : State) : Out := .next (if cdOp d ≠ 1 then postColl d s else s)
/-- REDUCE: a REDUCE descriptor is posted. -/
def execReduce (d : BitVec 512) (s : State) : Out := .next (if cdOp d = 1 then postColl d s else s)

/-- READY_WRITE: a neighbour's ready write; one that comes before the collective is posted waits in STAGE. -/
def execReadyWrite (q : PartIx) (seq : Word) (src : Nat) (d : BitVec 512) (n : Nat) (s : State) : Out :=
  .next (if !(s.part q).defined || (s.part q).resetStep ≠ .none then s
    else match collOf s q seq with
      | some k => pumpColls q (takeReady q k src d n s)
      | none => s.onPart q fun x => { x with readies := x.readies ++ [(seq, src, d, n)] })

/-- CREDIT_WRITE: the parent has freed a page slot. -/
def execCreditWrite (q : PartIx) (seq : Word) (s : State) : Out :=
  .next (match collOf s q seq with
    | none => s
    | some k => pumpColls q (onColl q k (fun c =>
        if c.isReduce && c.started then { c with credits := min 2 (c.credits + 1), since := s.time } else c) s))

/-- COUNT_ARRIVAL: a neighbour's count; one above BYTES_MAX fails a broadcast. -/
def execCountArrival (q : PartIx) (seq : Word) (src : Nat) (count : Word) (s : State) : Out :=
  .next (match collOf s q seq with
    | none => s
    | some k =>
      match (s.part q).colls[k]? with
      | none => s
      | some c =>
        let r := rankOf c.desc c.members src
        if !cdVar c.desc || !c.started || c.status ≠ 0 || !(sendersTo c).contains r || (c.counts.lookup r).isSome then s
        else if !c.isReduce && cdMax c.desc < count.toNat then pumpColls q (failColl q k stDim s)
        else pumpColls q (onColl q k (fun c => { c with counts := (r, count.toNat) :: c.counts, since := s.time }) s))

/-- Where an arriving page stands in this member's memory: a child's slot in STAGE, or DST. -/
def pagePlace (c : CollOp) (r k : Nat) : Nat :=
  if c.isReduce then cdStage c.desc + treePlace (cdFanin c.desc) r * 131072 + k % 2 * pageBytes else cdDst c.desc + pageBytes * k

/-- The count that an arriving page belongs to. -/
def senderCount (c : CollOp) (r : Nat) : Option Nat := if c.isReduce then childCount c r else collCount c

/-- PAGE_ARRIVAL: a page of a neighbour has been written here; it waits to be added, or is forwarded. -/
def execPageArrival (q : PartIx) (seq : Word) (src : Nat) (page : Nat) (data : List Byte) (s : State) : Out :=
  .next (match collOf s q seq with
    | none => s
    | some n =>
      match (s.part q).colls[n]? with
      | none => s
      | some c =>
        let r := rankOf c.desc c.members src
        let known := (c.early.any fun e => e.1 == r && e.2.1 == page) || c.got.contains page
        let len := ((senderCount c r).map fun x => pageLen x page).getD 0
        if !c.started || c.status ≠ 0 || !(sendersTo c).contains r || known || len = 0 || data.length ≠ len then s
        else match routedWrite q none (pagePlace c r page) 0 (cdEpoch c.desc) data s with
          | (s1, some st) => pumpColls q (failColl q n st s1)
          | (s1, none) =>
            pumpColls q (onColl q n (fun c =>
              { c with
                early := if c.isReduce then c.early ++ [(r, page, data)] else c.early
                got := if c.isReduce then c.got else page :: c.got
                since := s.time }) s1))

/-! ### Waiting (R418) -/

/-- The devices of the member's tree neighbours. -/
def neighbourDevs (s : State) (c : CollOp) : List (BitVec 12) :=
  (sendersTo c ++ receiversFrom c).map fun r => (groupMember s c.desc (indexOf c.desc c.members r)).1

/-- A neighbour's frames carry HOLD. -/
def neighbourHeld (s : State) (c : CollOp) : Bool :=
  s.bvl.flows.any fun x => x.held.isSome && (neighbourDevs s c).contains x.dev

/-- The far device's frames carry HOLD or no longer do: a wait that ends lengthens the time-outs of the collectives with that
device by the time it stood still. -/
def noteHeld (hit : Flow → Bool) (dev : BitVec 12) (hold : Bool) (s : State) : State :=
  let since := s.bvl.flows.findSome? fun x => if hit x && x.dev == dev then x.held else none
  let fs := updateWhere (fun x => hit x && x.dev == dev)
    (fun x => { x with held := if !hold then none else if x.held.isSome then x.held else some s.time }) s.bvl.flows
  let s1 := { s with bvl := { s.bvl with flows := fs } }
  match since with
  | some t =>
    if hold then s1
    else
      let late (c : CollOp) : CollOp := if (neighbourDevs s c).contains dev then { c with since := c.since + (s.time - t) } else c
      forAll (List.finRange 16) (fun s q => s.onPart q fun x => { x with colls := x.colls.map late }) s1
  | none => s1

/-- The member waits for a ready write, a credit, a count or a page. -/
def collWaiting (c : CollOp) : Bool :=
  c.started && c.status = 0 && (match collCount c with
    | some n => decide (c.sentPages < pagesOf n)
    | none => true)

/-- COLL_TIMEOUT: the member has waited longer than TIMEOUT_US. -/
def execCollTimeout (q : PartIx) (seq : Word) (s : State) : Out :=
  .next (match collOf s q seq with
    | none => s
    | some n =>
      match (s.part q).colls[n]? with
      | none => s
      | some c =>
        if !collWaiting c || holdActive s || neighbourHeld s c || (s.time - c.since).toNat ≤ 1000 * cdTimeout c.desc then s
        else pumpColls q (failColl q n stCollTimeout (onLinks (fun x => { x with collTimeout := satAdd x.collTimeout 1 }) s)))

end Sys2Proof.Machine
end

