-- ==== Sys2Proof/Machine/Fabric.lean ====
section
/-! DEFINITION. Fabric transfers: descriptors, chunks, acknowledgement and retry, chunks entering memory, late errors and
settlement (R394 to R400). -/

namespace Sys2Proof.Machine

open Host

/-! ### Fabric descriptors (R394) -/

/-- FOP. -/
def fdOp (d : BitVec 512) : Nat := fld d 0x00 3 0
/-- PRIO. -/
def fdLc (d : BitVec 512) : Bool := flag d 0x00 4
/-- FENCE. -/
def fdFence (d : BitVec 512) : Bool := flag d 0x00 7
/-- PARTITION. -/
def fdPart (d : BitVec 512) : PartIx := Fin.ofNat 16 (fld d 0x00 11 8)
/-- DST_PART. -/
def fdDstPart (d : BitVec 512) : Nat := fld d 0x00 15 12
/-- TAG. -/
def fdTag (d : BitVec 512) : Nat := fld d 0x00 31 16
/-- EPOCH. -/
def fdEpoch (d : BitVec 512) : Nat := fld d 0x04 31 0
/-- LOCAL. -/
def fdLocal (d : BitVec 512) : Nat := fld d 0x08 63 0
/-- REMOTE. -/
def fdRemote (d : BitVec 512) : Nat := fld d 0x10 63 0
/-- BYTES. -/
def fdBytes (d : BitVec 512) : Nat := fld d 0x18 31 0
/-- DST_DEV. -/
def fdDev (d : BitVec 512) : BitVec 12 := BitVec.ofNat 12 (fld d 0x1C 11 0)
/-- DST_EPOCH. -/
def fdDstEpoch (d : BitVec 512) : Nat := fld d 0x20 31 0
/-- XFER_SEQ. -/
def fdXfer (d : BitVec 512) : Nat := fld d 0x24 31 0

/-- FABRIC_FAIL. -/
def stFabricFail : Nat := 0x10

/-- The check of a fabric descriptor. -/
def checkFabric (d : BitVec 512) (s : State) : Option Nat :=
  let n := fdBytes d
  firstBreach [
    (2 ≤ fdOp d || fld d 0x00 6 5 != 0 || fld d 0x1C 31 12 != 0 || d.toNat >>> (8 * 0x28) != 0 || n < 256 || 2 ^ 30 < n ||
      fdDev d == s.dev.bvl.devId, stIllegal),
    (fdLocal d % 256 != 0 || fdRemote d % 256 != 0 || n % 256 != 0, stAlign),
    (!fabricEnd s (fdPart d) (fdLocal d) n || tierOf s (fdRemote d) == .t0 || tierOf s (fdRemote d) == .hole, stAddrFault)]

/-- Chunks of a transfer. -/
def chunkCount (d : BitVec 512) : Nat := (fdRemote d + fdBytes d - 1) / 4096 - fdRemote d / 4096 + 1

/-- Offset of chunk i in its transfer, and its length. -/
def chunkAt (d : BitVec 512) (i : Nat) : Nat × Nat :=
  let r := fdRemote d
  let lo := if i = 0 then 0 else (r / 4096 + i) * 4096 - r
  let hi := min (fdBytes d) ((r / 4096 + i + 1) * 4096 - r)
  (lo, hi - lo)

/-- The status byte of a transfer set. -/
def failFabric (q : PartIx) (n st : Nat) (s : State) : State :=
  s.onPart q fun x => { x with fabric := (List.range x.fabric.length).zip x.fabric |>.map fun io =>
    if io.1 = n then { io.2 with status := BitVec.ofNat 8 st } else io.2 }

/-- Change transfer n of a partition. -/
def onFabric (q : PartIx) (n : Nat) (f : FabricOp → FabricOp) (s : State) : State :=
  s.onPart q fun x => { x with fabric := (List.range x.fabric.length).zip x.fabric |>.map fun io => if io.1 = n then f io.2 else io.2 }

/-- Bytes of the chunks that a transfer has finished. -/
def bytesDone (o : FabricOp) : Nat :=
  ((if o.isRead then o.received else o.acked.map (·.1)).map fun i => (chunkAt o.desc i).2).sum

/-- The completion record of a transfer (R223, R394). -/
def fabricRecord (o : FabricOp) (time : Nat) : BitVec 128 :=
  BitVec.ofNat 128 (fdTag o.desc + o.status.toNat * 2 ^ 16 + (fdPart o.desc).val * 2 ^ 24 + bytesDone o * 2 ^ 32 + time * 2 ^ 64)

/-- A transfer is over. -/
def fabricDone (o : FabricOp) : Bool :=
  o.status ≠ 0 || (if o.isRead then o.received.length else o.acked.length) = chunkCount o.desc

/-- Transfers that are over write their records; completed WRITEs are kept for replays. -/
def finishFabric (q : PartIx) (s : State) : State :=
  let ended := (s.part q).fabric.filter fabricDone
  if ended.isEmpty then s
  else
    let s1 := s.onPart q fun x => { x with
      fabric := x.fabric.filter fun o => !fabricDone o
      fabricOld := x.fabricOld ++ ended.filter fun o => !o.isRead
      fabricRing := x.fabricRing ++ ended.map fun o => (fabricRecord o s.time.toNat, BitVec.ofNat 32 (fdEpoch o.desc)) }
    settleGate q s1

/-- The header of chunk i of a transfer. -/
def chunkHdr (s : State) (o : FabricOp) (i : Nat) : Hdr :=
  { ownHdr s (if o.isRead then 1 else 0) (fdDev o.desc) (fdLc o.desc) with
    last := i + 1 = chunkCount o.desc
    srcPart := (fdPart o.desc).val
    dstPart := fdDstPart o.desc
    dstEpoch := BitVec.ofNat 32 (fdDstEpoch o.desc)
    xfer := BitVec.ofNat 32 (fdXfer o.desc)
    addr := BitVec.ofNat 64 (fdRemote o.desc + (chunkAt o.desc i).1)
    aux := BitVec.ofNat 32 (fdEpoch o.desc) }

/-- What a READ_REQ carries: the local address of the chunk and its length. -/
def readReqPayload (d : BitVec 512) (i : Nat) : List Byte :=
  bytesOf 8 (fdLocal d + (chunkAt d i).1) ++ bytesOf 4 (chunkAt d i).2

/-- Send the next chunk of transfer n, or none where it has to wait. A source that cannot be read fails the transfer. -/
def sendChunk (q : PartIx) (n : Nat) (s : State) : Option State :=
  match (s.part q).fabric[n]? with
  | none => none
  | some o =>
    let d := o.desc
    let (lo, len) := chunkAt d o.sent
    let a := fdLocal d + lo
    if o.status ≠ 0 || chunkCount d ≤ o.sent || holdActive s || (fdFence d && n ≠ 0) then none
    else match portFor s a (a / pageBytes - fdLocal d / pageBytes) (fdDev d) with
      | none => none
      | some p =>
        if !windowOpen s p (fdDev d) (fdLc d) then none
        else if o.isRead then
          some (onFabric q n (fun o => { o with sent := o.sent + 1 })
            (sendOn p (fdDev d) (fdLc d) (chunkHdr s o o.sent) (readReqPayload d o.sent) s))
        else if !accessReady s q none a len false then none
        else match routedRead q none a len 0 [] s with
          | (s1, .error e) => some (failFabric q n e s1)
          | (s1, .ok bs) =>
            some (onFabric q n (fun o => { o with sent := o.sent + 1 }) (sendOn p (fdDev d) (fdLc d) (chunkHdr s o o.sent) bs s1))

/-- Send chunks of the transfers of a partition in order, while any may go. -/
def pumpFabric (q : PartIx) : Nat → Nat → State → State
  | 0, _, s => s
  | fuel + 1, n, s =>
    if (s.part q).fabric.length ≤ n then s
    else match sendChunk q n s with
      | some s1 => pumpFabric q fuel n s1
      | none => pumpFabric q fuel (n + 1) s

/-- Frames that all flows of the eight ports can hold, plus a turn for each transfer. -/
def pumpFuel (s : State) (q : PartIx) : Nat := 16 * s.dev.bvl.window + (s.part q).fabric.length + 1

/-- The traffic of every partition goes on as far as it can. -/
def pump (s : State) : State :=
  let busy := (List.finRange 16).filter fun q => !(s.part q).fabric.isEmpty || !(s.part q).colls.isEmpty
  forAll busy (fun s q => pumpColls q (finishFabric q (pumpFabric q (pumpFuel s q) 0 s))) s

/-- Post a fabric descriptor: a breach completes it at once, a WRITE closes the gate. -/
def postFabric (d : BitVec 512) (s : State) : State :=
  let q := fdPart d
  if (s.part q).resetStep ≠ .none || !(s.part q).defined then s
  else
    let o : FabricOp :=
      { desc := d, isRead := fdOp d = 1, sent := 0, acked := [], received := [],
        status := BitVec.ofNat 8 ((checkFabric d s).getD 0) }
    let s1 := s.onPart q fun x => { x with fabric := x.fabric ++ [o] }
    pump (finishFabric q (if fdOp d = 0 then closeGate q s1 else s1))

/-- FABRIC_WRITE: a descriptor that is not a READ is posted. -/
def execFabricWrite (d : BitVec 512) (s : State) : Out := .next (if fdOp d ≠ 1 then postFabric d s else s)
/-- FABRIC_READ: a READ descriptor is posted. -/
def execFabricRead (d : BitVec 512) (s : State) : Out := .next (if fdOp d = 1 then postFabric d s else s)

/-! ### Received chunks (R396, R398) -/

/-- The cistern that takes a chunk to an address. -/
def chunkCis (s : State) (p : PortIx) (a : Nat) : CisIx :=
  match tierOf s a with
  | .t2 => Fin.ofNat 2 ((a - t2Base) / 0x10000000)
  | .t3 => frameCis ((a - t3Base) / pageBytes)
  | _ => portCis p

/-- An accepted chunk waits to enter memory. -/
def keepChunk (p : PortIx) (f : Frame) (s : State) : State :=
  s.onCis (chunkCis s p (fAddr f).toNat) fun x => { x with chunks := x.chunks ++ [{ port := p, frame := f }] }

/-- WRITE_FRAME. -/
def execWriteFrame (port : PortIx) (fr : Frame) (s : State) : Out := .next (receiveFrame port 0 fr (keepChunk port fr) s)

/-- Serve a READ_REQ: the chunk's bytes, or the status in AUX of a frame without payload. -/
def serveRead (p : PortIx) (f : Frame) (s : State) : State :=
  let q := fDstPart f
  let a := (fAddr f).toNat
  let len := natOf ((f.payload.drop 8).take 4)
  let h := { ownHdr s 2 (fSrcDev f) (fLc f) with
    last := fLast f
    srcPart := q.val
    dstPart := (fSrcPart f).val
    xfer := fXfer f
    addr := BitVec.ofNat 64 (natOf (f.payload.take 8))
    aux := fAux f }
  if !fabricEnd s q a len || 4096 < len then sendOn p (fSrcDev f) (fLc f) { h with aux := BitVec.ofNat 32 stAddrFault } [] s
  else match routedRead q none a len 0 [] s with
    | (s1, .error e) => sendOn p (fSrcDev f) (fLc f) { h with aux := BitVec.ofNat 32 e } [] s1
    | (s1, .ok bs) => sendOn p (fSrcDev f) (fLc f) h bs s1

/-- READ_REQ. -/
def execReadReq (port : PortIx) (fr : Frame) (s : State) : Out := .next (receiveFrame port 1 fr (serveRead port fr) s)

/-- The READ of a partition that a READ_DATA frame answers. -/
def readFor (s : State) (f : Frame) : Option Nat :=
  (s.part (fDstPart f)).fabric.findIdx? fun o => o.isRead && fdXfer o.desc = (fXfer f).toNat && fdDev o.desc = fSrcDev f

/-- READ_DATA: an empty frame fails its READ with the status reported; any other chunk waits to enter memory. -/
def execReadData (port : PortIx) (fr : Frame) (s : State) : Out :=
  .next (receiveFrame port 2 fr (fun s =>
    match readFor s fr with
    | none => s
    | some n =>
      if fr.payload.isEmpty then finishFabric (fDstPart fr) (failFabric (fDstPart fr) n ((fAux fr).toNat % 256) s)
      else keepChunk port fr s) s)

/-- Send a LATE_ERR for a chunk (R398). -/
def sendLate (c : Chunk) (cause : Nat) (s : State) : State :=
  let f := c.frame
  let payload := bytesOf 4 (fAux f).toNat ++ bytesOf 4 (fXfer f).toNat ++ bytesOf 8 (fAddr f).toNat ++ bytesOf 4 cause ++
    bytesOf 4 (fDstEpoch f).toNat ++ bytesOf 8 s.time.toNat ++ bytesOf 8 0
  let h := { ownHdr s 5 (fSrcDev f) (fLc f) with srcPart := (fDstPart f).val, dstPart := (fSrcPart f).val }
  onLink c.port (fun x => { x with lateSent := satAdd x.lateSent 1 }) (sendOn c.port (fSrcDev f) (fLc f) h payload s)

/-- Bytes that a chunk leaves behind when it did not enter memory whole: the manual gives them no value. -/
def freeBytes (s : State) (n : Nat) : State × List Byte :=
  ({ s with fresh := s.fresh + n }, (List.range n).map fun i => Config.freeByte (s.fresh + i))

/-- The epoch check of a chunk's destination, with its count. -/
def chunkCheck (q : PartIx) (a epoch n : Nat) (s : State) : State × EpochAns :=
  match tierOf s a with
  | .t1 =>
    let b : BedIx := Fin.ofNat 16 ((a - t1Base) / bedStride)
    ((bedCheck b epoch n s).1, epochCheck (bedEpoch s b) epoch)
  | .t2 =>
    let c : CisIx := Fin.ofNat 2 ((a - t2Base) / 0x10000000)
    ((cisCheck c q epoch n s).1, epochCheck (cisEpoch s c q) epoch)
  | _ =>
    let c := frameCis ((a - t3Base) / pageBytes)
    ((cisCheck c q epoch n s).1, epochCheck (cisEpoch s c q) epoch)

/-- The frames of a T3 range have valid entries. -/
def mapped (s : State) (q : PartIx) (a n : Nat) : Bool :=
  tierOf s a != .t3 || (pieces pageBytes a n).all fun p =>
    let v := (p.1 - t3Base) / pageBytes
    xltOk (xltEntry s q v) v

/-- A WRITE chunk enters memory. -/
def writeChunk (c : Chunk) (crcOk memOk : Bool) (s : State) : State :=
  let f := c.frame
  let q := fDstPart f
  let a := (fAddr f).toNat
  let n := f.payload.length
  if !fabricEnd s q a n || !mapped s q a n then sendLate c 1 s
  else match chunkCheck q a (fDstEpoch f).toNat n s with
    | (s1, .stale) => s1
    | (s1, .foreign) => sendLate c 2 s1
    | (s1, .accept) =>
      if crcOk && memOk then (routedWrite q none a 0 0xFFFFFFFF f.payload s1).1
      else
        let (s2, bs) := freeBytes s1 n
        sendLate c (if crcOk then 4 else 3) (routedWrite q none a 0 0xFFFFFFFF bs s2).1

/-- The chunk of a READ that a local address belongs to. -/
def chunkOfLocal (d : BitVec 512) (a : Nat) : Nat := (a - fdLocal d + fdRemote d) / 4096 - fdRemote d / 4096

/-- A READ chunk is written locally under the descriptor's epoch; one that fails its check is fetched again. -/
def readChunk (c : Chunk) (crcOk : Bool) (s : State) : State :=
  let f := c.frame
  let q := fDstPart f
  match readFor s f with
  | none => s
  | some n =>
    match (s.part q).fabric[n]? with
    | none => s
    | some o =>
      let i := chunkOfLocal o.desc (fAddr f).toNat
      if !crcOk then
        sendOn c.port (fdDev o.desc) (fdLc o.desc) (chunkHdr s o i) (readReqPayload o.desc i) s
      else match routedWrite q none (fAddr f).toNat 0 (fdEpoch o.desc) f.payload s with
        | (s1, some e) => finishFabric q (failFabric q n e s1)
        | (s1, none) =>
          finishFabric q (onFabric q n (fun o => { o with received := if o.received.contains i then o.received else i :: o.received }) s1)

/-- CHUNK_MEMORY_ENTRY: the oldest accepted chunk of a cistern enters memory, where its check value is compared again. -/
def execChunkMemoryEntry (c : CisIx) (crcOk : Bool) (memOk : Bool) (s : State) : Out :=
  .next (match (s.cistern c).chunks with
    | [] => s
    | k :: rest =>
      if holdActive s || !accessReady s (fDstPart k.frame) none (fAddr k.frame).toNat (max 1 k.frame.payload.length) true then s
      else
        let s1 := s.onCis c fun x => { x with chunks := rest }
        pump (if fTy k.frame = 2 then readChunk k crcOk s1 else writeChunk k crcOk memOk s1))

/-! ### Acknowledgement (R395) -/

/-- Whether a PSN is covered by a cumulative ACK. -/
def ackCovers (hi psn : Word) : Bool := (hi - psn).toNat < 2 ^ 31

/-- A late error of a chunk is resolved by its replay's acknowledgement; without any left the job leaves TAINTED (R399). -/
def resolveLate (xfer : Word) (addr : DWord) (j : Job) : Job :=
  let rest := j.lates.filter fun l => !(l.xfer == xfer && l.addr == addr && l.replaying)
  { j with
    lates := rest
    life := match j.life with
      | .tainted fb => if rest.isEmpty && !j.lates.isEmpty then (if fb then .runningFb else .running) else j.life
      | l => l }

/-- An acknowledged WRITE frame: its chunk is acknowledged, the first time counting, and a replay is resolved. -/
def ackWrite (f : Frame) (s : State) : State :=
  if fTy f ≠ 0 then s
  else s.onPart (fSrcPart f) fun x =>
    let mark (o : FabricOp) : FabricOp :=
      if !o.isRead && fdXfer o.desc = (fXfer f).toNat && fdDev o.desc = BitVec.ofNat 12 (fld f.header 0x04 11 0) &&
          fdRemote o.desc ≤ (fAddr f).toNat then
        let i := (fAddr f).toNat / 4096 - fdRemote o.desc / 4096
        if o.acked.any fun k => k.1 == i then o else { o with acked := (i, s.time) :: o.acked }
      else o
    { x with
      fabric := x.fabric.map mark
      colls := x.colls.map fun c =>
        if frameOfColl (fSrcPart f) c f && !c.frames.any (fun e => fAddr e.1 == fAddr f) then
          { c with frames := (f, s.time) :: c.frames }
        else c
      jobs := updateWhere (fun j => j.lates.any fun l => l.xfer == fXfer f && l.addr == fAddr f) (resolveLate (fXfer f) (fAddr f)) x.jobs }

/-- ACK: frames up to the PSN named are released. -/
def execAck (port : PortIx) (fr : Frame) (s : State) : Out :=
  .next (receiveFrame port 3 fr (fun s =>
    let d := fSrcDev fr
    let lc := fLc fr
    match flowOf s port d lc with
    | none => s
    | some x =>
      let gone := x.unacked.filter fun f => ackCovers (fAux fr) (fPsn f)
      let s1 := onFlow port d lc 0 (fun x =>
        { x with
          unacked := x.unacked.filter fun f => !ackCovers (fAux fr) (fPsn f)
          timeouts := if gone.isEmpty then x.timeouts else 0
          timeoutUs := if gone.isEmpty then x.timeoutUs else 20
          stalled := if gone.isEmpty then x.stalled else none }) (noteHeld (isFlow port d lc) d (fHold fr) s)
      let s2 := gone.foldl (fun s f => ackWrite f s) s1
      pump (forAll ((List.finRange 16).filter fun q => !(s2.part q).fabric.isEmpty) (fun s q => finishFabric q s) s2)) s)

/-- NAK: the flow is sent again from the PSN named. -/
def execNak (port : PortIx) (fr : Frame) (s : State) : Out :=
  .next (receiveFrame port 4 fr (resendFrom port (fSrcDev fr) (fLc fr) (fAux fr)) s)

/-- ACK_TIMER: 2 µs after an unacknowledged frame. -/
def execAckTimer (port : PortIx) (dev : BitVec 12) (lc : Bool) (s : State) : Out :=
  .next (match flowOf s port dev lc with
    | some x => if 0 < x.sinceAck then sendAck port dev lc s else s
    | none => s)

/-- The next port of the same cistern that is up. -/
def nextPort (s : State) (p : PortIx) : Option PortIx :=
  let ps := (upPorts s (portCis p)).filter (· ≠ p)
  ((ps.filter fun x => p.val < x.val) ++ ps).head?

/-- A frame as it moves to another flow: its new PSN and ports, RESTART on the first. -/
def movedFrame (s : State) (p : PortIx) (d : BitVec 12) (psn : Word) (first : Bool) (f : Frame) : Frame :=
  { f with
    dstMac := macOf s d p.val
    srcMac := macOf s s.dev.bvl.devId p.val
    header := BitVec.ofNat 320 (setBits (setBits f.header.toNat 10 10 first.toNat) 95 64 psn.toNat) }

/-- The unacknowledged frames of a flow move to the next port. -/
def moveFlow (p : PortIx) (d : BitVec 12) (lc : Bool) (s : State) : State :=
  match flowOf s p d lc, nextPort s p with
  | some x, some n =>
    let start := ((flowOf s n d lc).map (·.next)).getD 0
    let fs := ((List.range x.unacked.length).zip x.unacked).map fun k => movedFrame s n d (start + BitVec.ofNat 32 k.1) (k.1 == 0) k.2
    let s1 := onFlow p d lc 0 (fun x => { x with unacked := [], timeouts := 0, timeoutUs := 20, stalled := none }) s
    let s2 := onFlow n d lc 0 (fun y =>
      { y with
        next := start + BitVec.ofNat 32 fs.length
        unacked := y.unacked ++ fs
        stalled := if y.stalled.isSome then y.stalled else x.stalled }) s1
    { s2 with bvl := { s2.bvl with wire := s2.bvl.wire ++ fs.map fun f => (n, f) } }
  | _, _ => s

/-- RETRANSMIT_TIMEOUT: no ACK came; the flow is sent again, and leaves its port at the eighth time. The timer stands while
the far device is in HOLD. -/
def execRetransmitTimeout (port : PortIx) (dev : BitVec 12) (lc : Bool) (s : State) : Out :=
  .next (match flowOf s port dev lc with
    | some x =>
      match x.unacked with
      | [] => s
      | f :: _ =>
        if x.held.isSome then s
        else
          let s1 := onPort port (fun y => { y with timeouts := satAdd y.timeouts 1 })
            (onFlow port dev lc 0 (fun x => { x with
              timeouts := x.timeouts + 1
              timeoutUs := min 160 (2 * x.timeoutUs)
              stalled := if x.stalled.isSome then x.stalled else some s.time }) s)
          if 8 ≤ x.timeouts + 1 then moveFlow port dev lc s1 else resendFrom port dev lc (fPsn f) s1
    | none => s)

/-- FABRIC_UNREACHABLE: for 1 ms no port has reached the device; every transfer to it fails, and its unacknowledged frames
are given up. -/
def execFabricUnreachable (dev : BitVec 12) (s : State) : Out :=
  let stuck := s.bvl.flows.any fun x => x.dev == dev && (match x.stalled with
    | some t => 1000000 ≤ (s.time - t).toNat
    | none => false)
  .next (if !stuck then s
    else
      let hit (o : FabricOp) : Bool := fdDev o.desc == dev && o.status == 0
      let fail (s : State) (q : PartIx) : State :=
        let n := ((s.part q).fabric.filter hit).length
        let s1 := s.onPart q fun x => { x with fabric := updateWhere hit (fun o => { o with status := BitVec.ofNat 8 stFabricFail }) x.fabric }
        let far (c : CollOp) : Bool := (neighbourDevs s c).contains dev && c.status == 0
        let s2 := s1.onPart q fun x => { x with colls := updateWhere far (fun c => { c with status := BitVec.ofNat 8 stFabricFail }) x.colls }
        finishFabric q (s2.onCis 0 fun x => { x with link := { x.link with unreach := satAdd x.link.unreach n } })
      let give (x : Flow) : Flow := { x with unacked := [], timeouts := 0, timeoutUs := 20, stalled := none }
      let fs := updateWhere (fun x => x.dev == dev) give s.bvl.flows
      let s1 := { s with bvl := { s.bvl with flows := fs } }
      let waiting (j : Job) : Bool := j.settled.any fun e => e.1 == dev && !e.2.2
      pump (forAll (List.finRange 16) (fun s q => onJobs q waiting (fun j => { j with passFailed := true }) (fail s q)) s1))

/-! ### Late errors (R399) -/

/-- The WRITE and the time of its first acknowledgement for a chunk address. -/
def ackedChunk (s : State) (q : PartIx) (xfer : Word) (addr : DWord) : Option (FabricOp × Nat × DWord) :=
  ((s.part q).fabric ++ (s.part q).fabricOld).findSome? fun o =>
    let i := addr.toNat / 4096 - fdRemote o.desc / 4096
    if o.isRead || fdXfer o.desc ≠ xfer.toNat || addr.toNat < fdRemote o.desc then none
    else (o.acked.find? fun k => k.1 == i).map fun k => (o, i, k.2)

/-- The acknowledged chunk of a collective in progress, and the time of its acknowledgement. -/
def ackedColl (s : State) (q : PartIx) (xfer : Word) (addr : DWord) : Option (Frame × DWord) :=
  (s.part q).colls.findSome? fun c => if cdSeq c.desc == xfer then c.frames.find? fun e => fAddr e.1 == addr else none

/-- Send a collective's chunk again under the job's current epoch. -/
def replayColl (q : PartIx) (j : Job) (f : Frame) (s : State) : State :=
  let d := BitVec.ofNat 12 (fld f.header 0x04 11 0)
  match portFor s (fAddr f).toNat 0 d with
  | none => onJob q j.id (fun j => { j with passFailed := true }) s
  | some p =>
    let h := { (ownHdr s 0 d (fLc f)) with
      last := fLast f
      srcPart := q.val
      dstPart := (fDstPart f).val
      dstEpoch := fDstEpoch f
      xfer := fXfer f
      addr := fAddr f
      aux := BitVec.ofNat 32 (jobEpoch j) }
    onLink p (fun x => { x with lateReplayed := satAdd x.lateReplayed 1 }) (sendOn p d (fLc f) h f.payload s)

/-- Send a chunk again under the job's current epoch. -/
def replayChunk (q : PartIx) (j : Job) (o : FabricOp) (i : Nat) (s : State) : State :=
  let d := o.desc
  let (lo, len) := chunkAt d i
  let a := fdLocal d + lo
  match portFor s a (a / pageBytes - fdLocal d / pageBytes) (fdDev d) with
  | none => s
  | some p =>
    match routedRead q none a len 0 [] s with
    | (s1, .error _) => onJob q j.id (fun j => { j with passFailed := true }) s1
    | (s1, .ok bs) =>
      onLink p (fun x => { x with lateReplayed := satAdd x.lateReplayed 1 })
        (sendOn p (fdDev d) (fdLc d) { (chunkHdr s o i) with aux := BitVec.ofNat 32 (jobEpoch j) } bs s1)

/-- A job becomes TAINTED with a late error held. -/
def jobTainted (xfer : Word) (addr : DWord) (replaying : Bool) (j : Job) : Job :=
  { j with
    life := match j.life with
      | .running => .tainted false
      | .runningFb => .tainted true
      | l => l
    lates := { xfer := xfer, addr := addr, replaying := replaying } :: j.lates.filter fun l => !(l.xfer == xfer && l.addr == addr) }

/-- What R399 does with a late error of a running job. -/
def taintJob (q : PartIx) (j : Job) (xfer : Word) (addr : DWord) (cause : Nat) (s : State) : State :=
  let s1 := giveNotice q j 3 0 (countJob q 7 s)
  if j.lates.any fun l => l.xfer == xfer && l.addr == addr && l.replaying then s1
  else
    let window := (s.dev.bvl.replayMs * 1000000 : Nat)
    let lost (s : State) : State := onJob q j.id (fun j => { (jobTainted xfer addr false j) with passFailed := true }) s
    let inTime (t : DWord) : Bool := (s.time - t).toNat ≤ window
    if cause ≠ 3 && cause ≠ 4 then lost s1
    else match ackedChunk s q xfer addr, ackedColl s q xfer addr with
      | some (o, i, t), _ => if inTime t then replayChunk q j o i (onJob q j.id (jobTainted xfer addr true) s1) else lost s1
      | none, some (f, t) => if inTime t then replayColl q j f (onJob q j.id (jobTainted xfer addr true) s1) else lost s1
      | none, none => lost s1

/-- LATE_ERR: a late error reaches the initiator. -/
def execLateErr (port : PortIx) (fr : Frame) (s : State) : Out :=
  .next (receiveFrame port 5 fr (fun s =>
    let q := fDstPart fr
    let epoch := natOf (fr.payload.take 4)
    let xfer := BitVec.ofNat 32 (natOf ((fr.payload.drop 4).take 4))
    let addr := BitVec.ofNat 64 (natOf ((fr.payload.drop 8).take 8))
    let cause := natOf ((fr.payload.drop 16).take 1)
    let s1 := onLink port (fun x => { x with lateReceived := satAdd x.lateReceived 1 }) s
    let same (j : Job) : Bool := j.slot.toNat == epoch / 2 ^ 24 && j.epoch.toNat == epoch % 2 ^ 24
    match (liveJobs s q).find? same with
    | some j => taintJob q j xfer addr cause s1
    | none =>
      if (s.part q).jobs.any fun j => !jobLive j && same j then countJob q 7 s1
      else onLink port (fun x => { x with lateIgnored := satAdd x.lateIgnored 1 }) s1) s)

/-! ### Settlement (R400) -/

/-- SETTLE: the destination is asked to confirm the job's chunks. -/
def execSettle (port : PortIx) (fr : Frame) (s : State) : Out :=
  .next (receiveFrame port 6 fr (fun s => s.onCis (portCis port) fun x => { x with settles := x.settles ++ [(port, fr)] }) s)

/-- A chunk of the job that a SETTLE names. -/
def chunkOfJob (f : Frame) (c : Chunk) : Bool :=
  fTy c.frame == 0 && fSrcDev c.frame == fSrcDev f && fSrcPart c.frame == fSrcPart f && fAux c.frame == fAux f

/-- SETTLE_DONE_SEND: no chunk of the job that was accepted before the SETTLE is still on its way to memory. -/
def execSettleDoneSend (port : PortIx) (dev : BitVec 12) (s : State) : Out :=
  let c := portCis port
  .next (match (s.cistern c).settles.find? fun e => e.1 == port && fSrcDev e.2 == dev with
    | none => s
    | some (_, f) =>
      if holdActive s || ((List.finRange 2).any fun k => (s.cistern k).chunks.any (chunkOfJob f)) then s
      else
        let s1 := s.onCis c fun x => { x with settles := x.settles.erase (port, f) }
        sendOn port dev (fLc f)
          { (ownHdr s 7 dev (fLc f)) with srcPart := (fDstPart f).val, dstPart := (fSrcPart f).val, aux := fAux f } [] s1)

/-- SETTLE_DONE: one device of the pass is settled. -/
def execSettleDone (port : PortIx) (fr : Frame) (s : State) : Out :=
  .next (receiveFrame port 7 fr (fun s =>
    onJobs (fDstPart fr) (fun j => jobLive j && jobEpoch j == (fAux fr).toNat)
      (fun j => { j with settled := j.settled.map fun e => if e.1 == fSrcDev fr then (e.1, e.2.1, true) else e }) s) s)

/-- SETTLE_TIMEOUT: a SETTLE has gone unanswered for 1 ms; the pass fails. -/
def execSettleTimeout (q : PartIx) (dev : BitVec 12) (s : State) : Out :=
  .next (onJobs q (fun j => jobLive j && j.settled.any fun e => e.1 == dev && !e.2.2 && 1000000 ≤ (s.time - e.2.1).toNat)
    (fun j => { j with passFailed := true }) s)

/-- Devices to which a job posted WRITEs in its pass, those of its collectives among them. -/
def writtenDevs (s : State) (q : PartIx) (j : Job) : List (BitVec 12) :=
  (((((s.part q).fabric ++ (s.part q).fabricOld).filter fun o => !o.isRead && fdEpoch o.desc / 2 ^ 24 = j.slot.toNat).map
    fun o => fdDev o.desc) ++
    ((s.part q).wrote.filter fun e => e.1 ≠ 0xFFFFFFFF && e.1.toNat / 2 ^ 24 = j.slot.toNat).map (·.2)).dedup

/-- Send SETTLE to the devices that have had none in the pass. -/
def sendSettles (q : PartIx) (j : Job) (s : State) : State :=
  ((writtenDevs s q j).filter fun d => !j.settled.any fun e => e.1 == d).foldl (fun s d =>
    let s1 := onJob q j.id (fun j => { j with settled := j.settled ++ [(d, s.time, false)] }) s
    match portFor s t1Base 0 d with
    | none => s1
    | some p => sendOn p d false { (ownHdr s 6 d false) with srcPart := q.val, aux := BitVec.ofNat 32 (jobEpoch j) } [] s1) s

/-- Every device that the job wrote to in the pass is settled, and no late error is left. -/
def passSettled (s : State) (q : PartIx) (j : Job) : Bool :=
  j.lates.isEmpty && (writtenDevs s q j).all fun d => j.settled.any fun e => e.1 == d && e.2.2

end Sys2Proof.Machine
end

