-- ==== Sys2Proof/Machine/Link.lean ====
section
/-! DEFINITION. Broelavel Link ports and time: faulty lanes, narrowing, pruning and training of ports, TIME frames and the shared
time counter (R397, R401, R479, R484). -/

namespace Sys2Proof.Machine

open Host

/-! ### Lanes and ports (R397, R479) -/

/-- CAPACITY at every partition with a BVL share. -/
def linkCapacity (s : State) : State :=
  forAll ((List.finRange 16).filter fun q => (s.part q).defined && (s.part q).img.bvlShare ≠ 0) (fun s q => raiseCapacity q s) s

/-- Every flow of a port moves to the next port (R395). -/
def moveFlows (p : PortIx) (s : State) : State :=
  ((s.bvl.flows.filter fun x => x.port == p && !x.unacked.isEmpty).map fun x => (x.dev, x.lc)).foldl
    (fun s k => moveFlow p k.1 k.2 s) s

/-- FNC_LINK_EN of a port: the Fence writes all three copies (R337, R338). -/
def setLinkEn (p : PortIx) (on : Bool) (s : State) : State :=
  let v := linkPorts s
  { s with fence := { s.fence with regs := { s.fence.regs with linkEn := Tri.of (BitVec.ofNat 8 (setBits v p.val p.val on.toNat)) } } }

/-- A port is pruned: its bit of FNC_LINK_EN is cleared and its record queued. -/
def prunePort (p : PortIx) (c : PruneCause) (count : Nat) (s : State) : State :=
  let x := s.bvl.ports[p]
  let s1 := setLinkEn p false (onPort p (fun x => { x with state := 4, narrow := false, testing := false }) s)
  moveFlows p (linkCapacity (if x.testing then s1 else recordPrune 3 p.val 0 c count x.returns s1))

/-- The half of a port's lanes that a lane belongs to. -/
def laneHalf (lane : Nat) : Nat := lane / 4

/-- A half of a port holds no lane declared faulty. -/
def halfGood (x : Port) (h : Nat) : Bool := bitsOf x.laneBad.toNat (4 * h + 3) (4 * h) = 0

/-- A lane is declared faulty: its record is queued; the port retrains on the half without a faulty lane, or is pruned when
there is none. -/
def laneFaulty (p : PortIx) (lane : Fin 8) (count : Nat) (s : State) : State :=
  let x := s.bvl.ports[p]
  let y := { x with laneBad := BitVec.ofNat 8 (setBits x.laneBad.toNat lane.val lane.val 1) }
  let s1 := recordPrune 2 p.val lane.val .laneErrors count x.laneReturns[lane] (onPort p (fun _ => y) s)
  let other := 1 - laneHalf lane.val
  if halfGood y other then
    if (x.narrow || x.state = 3) && x.half.toNat = other then s1
    else linkCapacity (moveFlows p (onPort p (fun z => { z with state := 1, narrow := true, half := other == 1 }) s1))
  else prunePort p .laneErrors count s1

/-- A training of a port has failed on a lane: the lane is faulty at its second failure in a row, and the port is pruned at its
third. A port that trains for its return has failed its test. -/
def trainingFailed (p : PortIx) (lane : Fin 8) (s : State) : State :=
  let x := s.bvl.ports[p]
  if x.testing then prunePort p .training x.fails s
  else if 3 ≤ x.fails then prunePort p .training x.fails s
  else if 2 ≤ x.laneFails[lane] && !x.laneBad.getLsbD lane.val then laneFaulty p lane x.laneFails[lane] s
  else s

/-- LANE_FAULT: a lane exceeds its error threshold, or fails a training. Failures are counted at once and acted on outside
HOLD (R473); a lane already faulty adds to counters only. -/
def execLaneFault (port : PortIx) (lane : Fin 8) (training : Bool) (s : State) : Out :=
  let x := s.bvl.ports[port]
  .next (if x.state = 0 || x.state = 4 then s
    else if training then
      if x.state ≠ 1 then s
      else
        let s1 := onPort port (fun x =>
          { x with
            trainFail := satAdd x.trainFail 1
            fails := x.fails + 1
            laneFails := x.laneFails.set lane.val (x.laneFails[lane] + 1) lane.isLt }) s
        if holdActive s then s1 else trainingFailed port lane s1
    else if holdActive s || x.laneBad.getLsbD lane.val then s
    else laneFaulty port lane 1 s)

/-- A port trained at full width: its faulty lanes and itself, where it was pruned, have passed their test and return. -/
def portReturns (p : PortIx) (s : State) : State :=
  let x := s.bvl.ports[p]
  let bad := (List.finRange 8).filter fun l => x.laneBad.getLsbD l.val
  let s1 := bad.foldl (fun s l => recordReturn 2 p.val l.val 0 s) s
  let s2 := if x.testing then recordReturn 3 p.val 0 0 s1 else s1
  onPort p (fun x =>
    { x with
      laneBad := 0
      testing := false
      returns := if x.testing then x.returns + 1 else x.returns
      laneReturns := Vector.ofFn fun l => bif bad.contains l then x.laneReturns[l] + 1 else x.laneReturns[l] }) s2

/-- PORT_TRAINED: a port comes up at 8 lanes or, narrowed, at 4. A partner that refuses 400 Gb/s prunes a narrowed port; a
port that trains for its return and reaches 4 lanes only stays pruned. -/
def execPortTrained (port : PortIx) (lanes8 : Bool) (s : State) : Out :=
  let x := s.bvl.ports[port]
  .next (if x.state ≠ 1 || holdActive s then s
    else if x.narrow && lanes8 || x.testing && !lanes8 then prunePort port .laneErrors 1 s
    else
      let s1 := if lanes8 then portReturns port s else s
      onPort port (fun x =>
        { x with state := if lanes8 then 2 else 3, narrow := false, fails := 0, laneFails := Vector.replicate 8 0 }) s1)

/-! ### Time (R401) -/

/-- TIME_FRAME: a follower's TIME frame comes from the master; HOLD of the sender stops the timers of the flows to it. -/
def execTimeFrame (port : PortIx) (fr : Frame) (s : State) : Out :=
  .next (receiveFrame port 8 fr (fun s =>
    let s1 := noteHeld (fun _ => true) (fSrcDev fr) (fHold fr) s
    { s1 with bvl := { s1.bvl with master := if s.bvl.isMaster then s.bvl.master else fSrcDev fr } }) s)

/-- The lowest-numbered port that is up. -/
def lowestPort (s : State) : Option PortIx := (List.finRange 8).find? fun p => portUp s p

/-- TIME_EXCHANGE: a follower's TIME frame leaves for the master, and an exchange that succeeds gives its offset and round
trip. The last eight are kept. -/
def execTimeExchange (t1 t2 t3 t4 : DWord) (ok : Bool) (s : State) : Out :=
  .next (match lowestPort s with
    | none => s
    | some p =>
      if s.bvl.isMaster then s
      else
        let s1 := emitFrame p s.bvl.master (ownHdr s 8 s.bvl.master false) [] s
        if !ok then s1
        else
          let diff (a b : DWord) : Int := (a - b).toInt
          let e : Exchange := { offset := (diff t2 t1 - diff t4 t3) / 2, trip := diff t4 t1 - diff t3 t2 }
          let es := (s.bvl.exchanges ++ [e]).drop (s.bvl.exchanges.length + 1 - 8)
          { s1 with bvl := { s1.bvl with exchanges := es, offset := BitVec.ofInt 32 e.offset, lastOk := s.time, holdover := false } })

/-- The exchange with the least round trip, the earliest of several. -/
def bestExchange : List Exchange → Option Exchange
  | [] => none
  | e :: t => match bestExchange t with
    | none => some e
    | some b => some (if b.trip < e.trip then b else e)

/-- The counter is stepped; the instants from which intervals are counted move with it. -/
def stepTime (d : Int) (s : State) : State :=
  let k := BitVec.ofInt 64 d
  { s with
    time := s.time + k
    image := { s.image with bootAt := s.image.bootAt + k }
    bvl := { s.bvl with lastOk := s.bvl.lastOk + k }
    pins := { s.pins with
      pinAt := s.pins.pinAt.map (· + k)
      beatAt := s.pins.beatAt + k
      syncAt := s.pins.syncAt.map (· + k) }
    alm := { s.alm with hourAt := s.alm.hourAt + k, dayAt := s.alm.dayAt + k }
    fence := { s.fence with
      holdAt := s.fence.holdAt + k
      supplyAt := s.fence.supplyAt + k
      pinLift := s.fence.pinLift.map (· + k)
      alertAt := s.fence.alertAt.map (· + k)
      foreignAt := s.fence.foreignAt.map (· + k)
      lockstepAt := s.fence.lockstepAt.map (· + k) }
    cores := s.cores.map fun c => { c with seenAt := c.seenAt + k, expiries := c.expiries.map (· + k) } }

/-- One nanosecond with no command waiting: the counter advances, by one more or not at all where a slew is due, 50 times in a ms,
and the trace buffers drain (R401, R464). -/
def idleTick (s : State) : State :=
  let due := s.time.toNat % 20000 = 0 && !s.bvl.slewHeld
  traceDrain (if due && 0 < s.bvl.slew then { s with time := s.time + 2, bvl := { s.bvl with slew := s.bvl.slew - 1 } }
    else if due && s.bvl.slew < 0 then { s with bvl := { s.bvl with slew := s.bvl.slew + 1, slewHeld := true } }
    else { s with time := s.time + 1, bvl := { s.bvl with slewHeld := false } })

/-- A device carries no synchronised time for 2 ms after its reset. -/
def listenOver (s : State) : Bool := 2000000 ≤ (s.time - s.image.bootAt).toNat

/-- TIME_ADJUST: each ms a follower steps its counter before the first partition is OPEN, and slews it by at most 50 ns in the
ms afterwards. -/
def execTimeAdjust (s : State) : Out :=
  .next (if s.bvl.isMaster || s.bvl.holdover || !listenOver s then s
    else match bestExchange s.bvl.exchanges with
      | none => s
      | some e =>
        let s1 := { s with bvl := { s.bvl with synced := true } }
        if !s.bvl.slewOnly then stepTime e.offset s1
        else { s1 with bvl := { s1.bvl with slew := max (-50) (min 50 e.offset) } })

/-- HOLDOVER_ENTRY: no exchange has succeeded for 100 ms; the counter runs free. -/
def execHoldoverEntry (s : State) : Out :=
  .next (if s.bvl.isMaster || s.bvl.holdover || (s.time - s.bvl.lastOk).toNat < 100000000 then s
    else { s with bvl := { s.bvl with holdover := true, slew := 0 } })

/-- MASTER_CLAIM: after its listen an eligible device claims the role when no device is synchronised, or when the synchronised
master has a higher DEV_ID than its own. -/
def execMasterClaim (s : State) : Out :=
  .next (if !s.dev.bvl.eligible || !listenOver s || s.bvl.isMaster then s
    else if s.bvl.synced && !s.bvl.holdover && s.bvl.master.toNat < s.dev.bvl.devId.toNat then s
    else { s with bvl := { s.bvl with
      isMaster := true, master := s.dev.bvl.devId, synced := true, holdover := false, slew := 0 } })

end Sys2Proof.Machine
end

