-- ==== Sys2Proof/Machine/Fence.lean ====
section
/-! DEFINITION. What the Fence does beside its ledgers: ALERT_N, safe hold, the pin limit, foreign writes, lockstep (R334, R335,
R339, R343). -/

namespace Sys2Proof.Machine

open Host

/-! ### ALERT_N (R334) -/

/-- A limit of some bed is below 24. -/
def limited (s : State) : Bool :=
  pinActive s && pinStep s < 24 || s.fence.ceils.any fun c => c.therm ≠ 24 || c.cap ≠ 24

/-- A foreign write within the last 1 ms. -/
def foreignRecent (s : State) : Bool :=
  match s.fence.foreignAt with
  | some t => (s.time - t).toNat < 1000000
  | none => false

/-- A condition that holds ALERT_N low. -/
def alertCause (s : State) : Bool := holdActive s || limited s || s.fence.bal < 0 || s.fence.safe || foreignRecent s

/-- ALERT_N is low: a condition holds, or its minimum runs. -/
def alertOn (s : State) : Bool := alertCause s || s.fence.alertMin

/-- ALERT_N after a change of its conditions: when it goes low its minimum begins. -/
def noteAlert (before after : State) : State :=
  if alertCause after && !alertOn before then
    { after with fence := { after.fence with alertAt := some after.time, alertMin := true } }
  else after

/-- ALERT_MINIMUM_EXPIRE. -/
def execAlertMinimumExpire (s : State) : Out :=
  .next (match s.fence.alertAt with
    | some t =>
      if s.fence.alertMin && 1000000 ≤ (s.time - t).toNat then { s with fence := { s.fence with alertMin := false, alertAt := none } } else s
    | none => s)

/-! ### Safe hold (R339) -/

/-- The Almanac's code for a Fence event (R335). -/
def evFence : BitVec 8 := 3

/-- A Fence event to the Almanac and to PF0. -/
def fenceEvent (s : State) : State := almEvent evFence (raiseFence s)

/-- Partitions in a state go to another admission state. -/
def admitAll (from_ : BitVec 3 → Bool) (a : BitVec 3) (s : State) : State :=
  forAll ((List.finRange 16).filter fun q => (s.part q).defined && from_ (s.part q).adm) (fun s q => setAdmit q a s) s

/-- Safe hold is entered; the first cause stands. HOLD and RESUMING show over it in MODE. -/
def safeHold (cause : BitVec 4) (s : State) : State :=
  if s.fence.safe then s
  else
    let s1 := { s with fence := { s.fence with safe := true, safeCause := cause, mode := if holdActive s then s.fence.mode else 4 } }
    noteAlert s (fenceEvent (admitAll (fun a => a = 0 || a = 1) 2 s1))

/-! ### THROTTLE_N (R334) -/

/-- The pin limit is applied. -/
def throttleLow (s : State) : State :=
  noteAlert s (kickClocks { s with fence := { s.fence with throttleLow := true, pinLift := none } })

/-- The level that the board gives a stake pin. -/
def setLevel (pin : Nat) (high : Bool) (s : State) : State :=
  { s with pins := { s.pins with levels := BitVec.ofNat 8 (setBits s.pins.levels.toNat pin pin high.toNat) } }

/-- STK3 serves as THROTTLE_N: it is in run and past its blanking (R446). -/
def throttleServes (s : State) : Bool := s.pins.phase = 3 && s.pins.pins[(3 : Fin 8)] = .run

/-- THROTTLE_N_ASSERT. -/
def execThrottleNAssert (s : State) : Out :=
  .next (let s1 := setLevel 3 false s
    if throttleServes s && !s.fence.throttleLow then throttleLow s1 else s1)

/-- THROTTLE_N_RELEASE: the limit stays for 1 ms. -/
def execThrottleNRelease (s : State) : Out :=
  .next (let s1 := setLevel 3 true s
    if s.fence.throttleLow then { s1 with fence := { s1.fence with throttleLow := false, pinLift := some s.time } } else s1)

/-- PIN_LIMIT_LIFT: 1 ms after THROTTLE_N went high. -/
def execPinLimitLift (s : State) : Out :=
  .next (match s.fence.pinLift with
    | some t => if 1000000 ≤ (s.time - t).toNat then kickClocks { s with fence := { s.fence with pinLift := none } } else s
    | none => s)

/-! ### Foreign writes (R335, R372, R373) -/

/-- SOURCE of a foreign write: the management SPI counts as the host (R450). -/
def foreignCode : FenceSource → BitVec 4
  | .host _ => 0
  | .gardener => 1
  | .monitor => 2
  | .otherDie => 3

/-- An access dropped under R372 counts in the log of the function that made it. -/
def logAccess (f : FnIx) (kind bar : BitVec 2) (offset : BitVec 16) (s : State) : State :=
  s.onFunc f fun x => { x with accCount := satAdd x.accCount 1, accKind := kind, accBar := bar, accOffset := offset }

/-- A write to a Fence register by any other agent is dropped, counted and reported; one of the host is an Unsupported Request
as well. -/
def foreignWrite (code : BitVec 4) (offset : BitVec 16) (s : State) : State :=
  noteAlert s (fenceEvent { s with fence := { s.fence with
    foreign := satAdd s.fence.foreign 1
    foreignSrc := code
    foreignAddr := BitVec.ofNat 32 offset.toNat
    foreignAt := some s.time } })

/-- FOREIGN_WRITE. -/
def execForeignWrite (src : FenceSource) (offset : BitVec 16) (_data : Word) (s : State) : Out :=
  .next (let s1 := foreignWrite (foreignCode src) offset s
    match src with
    | .host f => logAer f aerUnsupported (logAccess f 3 2 offset s1)
    | _ => s1)

/-! ### Lockstep (R335, R342, R343) -/

/-- A lockstep restart within the last second. -/
def lockstepRecent (s : State) : Bool :=
  match s.fence.lockstepAt with
  | some t => (s.time - t).toNat < 1000000000
  | none => false

/-- LOCKSTEP_MISMATCH: the cores restart; a second mismatch within 1 s enters safe hold. -/
def execLockstepMismatch (s : State) : Out :=
  .next (let s1 := fenceEvent { s with fence := { s.fence with
      lockstep := satAdd s.fence.lockstep 1
      lockstepAt := some s.time
      restarting := true } }
    if lockstepRecent s then safeHold 3 s1 else s1)

/-- LOCKSTEP_RESTART_DONE. -/
def execLockstepRestartDone (s : State) : Out := .next { s with fence := { s.fence with restarting := false } }

end Sys2Proof.Machine
end

