-- ==== Sys2Proof/Machine/Energy.lean ====
section
/-! DEFINITION. The gauge interval: votes, ledgers, credits, the cap limit and heartbeats; and the thermal sample (R320 to R323,
R326, R333, R336, R338). -/

namespace Sys2Proof.Machine

open Host

/-! ### Votes (R338) -/

/-- One copy of a register after an upset. -/
def upsetCopy {n : Nat} (u : CopyUpset) (t : Tri n) : Tri n :=
  let x : BitVec n := BitVec.ofNat n u.flip.toNat
  match u.copy with
  | 0 => { t with a := t.a ^^^ x, okA := t.okA && u.intact }
  | 1 => { t with b := t.b ^^^ x, okB := t.okB && u.intact }
  | _ => { t with c := t.c ^^^ x, okC := t.okC && u.intact }

/-- An upset of the register at its offset (R340). -/
def upsetReg (r : FenceRegs) (u : CopyUpset) : FenceRegs :=
  match u.reg with
  | 0x004 => { r with cap := upsetCopy u r.cap }
  | 0x008 => { r with base := upsetCopy u r.base }
  | 0x050 => { r with therm := upsetCopy u r.therm }
  | 0x054 => { r with wdog := upsetCopy u r.wdog }
  | 0x058 => { r with linkEn := upsetCopy u r.linkEn }
  | 0x0A0 => { r with pinStep := upsetCopy u r.pinStep }
  | o => { r with share := Vector.ofFn fun i => if o = 0x010 + 4 * i.val then upsetCopy u r.share[i] else r.share[i] }

/-- A register after its vote: a failed copy or the odd one out is rewritten. -/
def triRepair {n : Nat} (t : Tri n) : Tri n :=
  match triVote t with
  | some (v, _) => Tri.of v
  | none => t

/-- Copies that the vote rewrites, or none when it fails. -/
def triFixes {n : Nat} (t : Tri n) : Option Nat := (triVote t).map (·.2)

/-- What the vote over every register does: copies rewritten in all, or none when some vote fails. -/
def voteAll (r : FenceRegs) : List (Option Nat) :=
  [triFixes r.cap, triFixes r.base, triFixes r.therm, triFixes r.wdog, triFixes r.linkEn, triFixes r.pinStep] ++
    r.share.toList.map triFixes

/-- Every register after the vote. -/
def repairAll (r : FenceRegs) : FenceRegs :=
  { cap := triRepair r.cap, base := triRepair r.base, share := r.share.map triRepair, therm := triRepair r.therm,
    pinStep := triRepair r.pinStep, linkEn := triRepair r.linkEn, wdog := triRepair r.wdog }

/-- The interval's vote: repairs are counted, and a vote that fails enters safe hold. -/
def voteInterval (upsets : List CopyUpset) (s : State) : State :=
  let r := upsets.foldl upsetReg s.fence.regs
  let vs := voteAll r
  let n := (vs.map fun v => v.getD 0).sum
  let s1 := { s with fence := { s.fence with regs := repairAll r, repaired := satAdd s.fence.repaired n } }
  if vs.contains none then safeHold 1 s1 else s1

/-! ### Ledgers (R321, R322) -/

/-- The Fence holds the 600 W cap of safe hold, in recovery mode as well (R339, R355). -/
def capHeld (s : State) : Bool := s.fence.safe || s.image.recovery

/-- P_cap in W. -/
def pCap (s : State) : Nat := if capHeld s then 600 else capW s

/-- D_max in µJ. -/
def dMax (s : State) : Int := if capHeld s then 0 else ((200 * capW s * burstMs s : Nat) : Int)

/-- Energy debited by a partition's beds in the interval. -/
def debitedBy (s : State) (q : PartIx) : Nat := ((bedsOf s q).map fun b => (s.bed b).debited).sum

/-- Partitions of the image. -/
def definedParts (s : State) : List PartIx := (List.finRange 16).filter fun q => (s.part q).defined

/-- Cores in service. -/
def coresIn (s : State) : Nat := ((List.finRange 8).filter fun c => !(s.core c).held).length

/-- The partitions' gardener shares scaled to what the cores in service give. -/
def scaleShares (s : State) : State :=
  let room := 32 * coresIn s - 32
  let total := ((definedParts s).map fun q => (s.part q).img.gtShare.toNat).sum
  forAll (definedParts s) (fun s q => s.onPart q fun x =>
    { x with scaledShare := if total ≤ room then x.img.gtShare else BitVec.ofNat 8 (x.img.gtShare.toNat * room / total) }) s

/-- A_p: the part of the energy beyond the base that a partition's debits attribute to it, in µJ, rounded down. -/
def attributed (s : State) (e : Nat) (q : PartIx) : Int :=
  let total := ((definedParts s).map fun p => debitedBy s p).sum
  if total = 0 then 0 else ((e : Int) - 1000 * baseW s) * debitedBy s q / total

/-- B_p before its cap. -/
def rawBalance (s : State) (e : Nat) (q : PartIx) : Int := (s.part q).bal + 1000 * shareW s q - attributed s e q

/-- Credit that the partitions at their burst cannot keep. -/
def lendPool (s : State) (e : Nat) : Int := ((definedParts s).map fun q => max 0 (rawBalance s e q - burstOf s q)).sum

/-- Partitions whose ledger is negative: they borrow. -/
def borrowers (s : State) (e : Nat) : List PartIx := (definedParts s).filter fun q => rawBalance s e q < 0

/-- Lent credit of a borrower: by the shares, equally when no borrower has a share. -/
def lentTo (s : State) (e : Nat) (q : PartIx) : Int :=
  let bs := borrowers s e
  let total := (bs.map fun p => shareW s p).sum
  if !bs.contains q then 0
  else if total = 0 then lendPool s e / bs.length
  else lendPool s e * shareW s q / total

/-- A bed is powered while some plot of it is not OFF (R487). -/
def bedPowered (s : State) (b : BedIx) : Bool := (List.finRange 8).any fun i => (s.plot (plotOf b i)).mode ≠ .off

/-- Powered beds of a partition. -/
def poweredBeds (s : State) (q : PartIx) : List BedIx := (bedsOf s q).filter (bedPowered s)

/-- A credit to an account in 8 nJ units: it sets the cap at twice the credit (R323). -/
def creditBed (amount : Int) (b : Bed) : Bed :=
  if amount ≤ 0 then b else { b with cap := 2 * amount, energy := min (b.energy + amount) (2 * amount) }

/-- One partition's settlement from the state at the interval's end. -/
def settlePart (old : State) (e : Nat) (s : State) (q : PartIx) : State :=
  let lent := lentTo old e q
  let bal := min (rawBalance old e q) (burstOf old q) + lent
  let beds := poweredBeds old q
  let amount := (125000 * (shareW old q : Int) + 125 * lent) / beds.length
  let s1 := s.onPart q fun x => { x with bal := bal, mw := BitVec.ofInt 32 (attributed old e q) }
  if bal < 0 then s1 else forAll beds (fun s b => s.onBed b (creditBed amount)) s1

/-- The settlement of every partition; the debits of the next interval start at 0. -/
def settleAll (e : Nat) (s : State) : State :=
  let s1 := (definedParts s).foldl (settlePart s e) s
  { s1 with beds := s1.beds.map fun b => { b with debited := 0 } }

/-! ### The cap limit (R326) -/

/-- Every bed's cap limit after an interval with measured energy e. -/
def capStep (s : State) (e : Nat) (lim : Nat) : Nat :=
  if s.fence.bal < 0 then lim - (if 1200 * pCap s < e then 4 else 1)
  else if dMax s / 2 ≤ s.fence.bal then min 24 (lim + 1)
  else lim

/-- The cap limits after an interval. -/
def capInterval (e : Nat) (s : State) : State :=
  kickClocks { s with fence := { s.fence with
    ceils := s.fence.ceils.map fun c => { c with cap := BitVec.ofNat 5 (capStep s e c.cap.toNat) } } }

/-! ### Heartbeats (R336) -/

/-- The Fence reads the counters. -/
def heartbeats (s : State) : State :=
  { s with cores := s.cores.map fun c => if c.beat ≠ c.seen then { c with seen := c.beat, seenAt := s.time } else c }

/-- GAUGE_INTERVAL: the end of a 1 ms interval with its measured energy in µJ. -/
def execGaugeInterval (microJ : BitVec 32) (upsets : List CopyUpset) (s : State) : Out :=
  let e := microJ.toNat
  let s1 := voteInterval upsets s
  let s2 := { s1 with fence := { s1.fence with
    energy := s1.fence.energy + BitVec.ofNat 64 e
    power := microJ
    bal := min (s1.fence.bal + 1000 * pCap s1 - e) (dMax s1) } }
  .next (if s.fence.supply = .off then s else noteAlert s (heartbeats (capInterval e (settleAll e s2))))

/-! ### Temperature (R333) -/

/-- Sensors of the dies that have no clock of their own, and of the board, with their limits. -/
def sharedSensors (s : State) (t : Temps) : List (Nat × Nat) :=
  [(t.cisterns[(0 : Fin 2)].toNat, throttleC s), (t.cisterns[(1 : Fin 2)].toNat, throttleC s), (t.shed.toNat, throttleC s),
   (t.codec.toNat, throttleC s), (t.lpddr.toNat, 105), (t.coolant.toNat, coolantC s)]

/-- The thermal limit of a bed after a sample: down one step when a sensor is at its limit, up one step once its sensors have
been below their release for ten samples. -/
def thermStep (s : State) (t : Temps) (b : BedIx) (c : Ceil) : Ceil :=
  let sensors := (t.beds[b].toNat, throttleC s) :: sharedSensors s t
  if sensors.any fun x => x.2 ≤ x.1 then { c with therm := BitVec.ofNat 5 (c.therm.toNat - 1), coolMs := 0 }
  else if sensors.all (fun x => x.1 + hystC s < x.2) && c.therm.toNat < 24 then
    if c.coolMs + 1 = 10 then { c with therm := c.therm + 1, coolMs := 0 } else { c with coolMs := c.coolMs + 1 }
  else { c with coolMs := 0 }

/-- The junctions in the order of `GAU_TEMP`.SENSOR. -/
def junctions (t : Temps) : List (BitVec 8) := t.beds.toList ++ t.cisterns.toList ++ [t.shed, t.codec]

/-- The hottest junction, the first of several, with its sensor. -/
def hottest (l : List (BitVec 8)) : BitVec 8 × Nat :=
  l.zipIdx.foldl (fun m x => if m.1.toNat < x.1.toNat then x else m) (l.headD 0, 0)

/-- Junctions at or above TRIP_C, one bit each. -/
def tripBits (s : State) (t : Temps) : Nat :=
  ((junctions t).zipIdx.map fun x => if tripC s ≤ x.1.toNat then 2 ^ x.2 else 0).sum

end Sys2Proof.Machine
end

