-- ==== Sys2Proof/Machine/Reset.lean ====
section
/-! DEFINITION. Device resets, the supply, the thermal sample and PCIe warm reset (R311, R328 to R333, R357, R384, R443). -/

namespace Sys2Proof.Machine

open Host

/-! ### Device resets (R311) -/

/-- Some partition is OPEN or HOLD: its jobs are lost with the reset (R384). -/
def jobsLost (s : State) : Bool := (definedParts s).any fun q => (s.part q).adm = 0 || (s.part q).adm = 1

/-- The supply as a device reset leaves it: off where the rails fell, and otherwise no longer in HOLD. -/
def supplyAfter (s : State) (railsFell : Bool) : Supply :=
  if railsFell then .off else if s.fence.supply = .resuming then .good else s.fence.supply

/-- A device reset: everything returns to its reset value but the flash devices, the fuses, the host's memory and what the
commands bring from outside. The reset report says why, and keeps a JOBS_LOST that the driver has not seen. -/
def deviceReset (cause : BitVec 4) (railsFell : Bool) (s : State) : State :=
  { State.reset with
    image := { Image.reset with
      flash := s.image.flash
      keyHash := s.image.keyHash
      revoked := s.image.revoked
      order512 := s.image.order512 }
    mem := { Memories.reset with host := s.mem.host }
    fence := { Fence.reset with resetCause := cause, supply := supplyAfter s railsFell, supplyAt := s.fence.supplyAt }
    pf0 := { Pf0.reset with reportCause := cause, jobsLost := s.pf0.jobsLost || jobsLost s }
    fresh := s.fresh
    pending := s.pending }

/-- POWER_ON: the supply ramps up and every die is reset. -/
def execPowerOn (s : State) : Out := .next (deviceReset 0 true s)

/-- MODULE_RESET: MRST_N has been low for 500 samples. Further low samples change nothing. -/
def execModuleReset (s : State) : Out :=
  .next (if s.pins.mrstLow then s
    else let s1 := deviceReset 1 false s
      { s1 with pins := { s1.pins with mrstLow := true } })

/-- SUPPLY_RESET: a crossing of the reset threshold. -/
def execSupplyReset (_e : SupplyEvent) (s : State) : Out := .next (deviceReset 2 true s)

/-- OVER_VOLTAGE: the Fence turns every regulator but its own off, and the rails fall through the reset threshold. -/
def execOverVoltage (_e : SupplyEvent) (s : State) : Out := .next (deviceReset 4 true s)

/-- RESET_RELEASE: MRST_N is high and the supply is qualified; start-up begins. The time counter runs from here. -/
def execResetRelease (s : State) : Out :=
  .next (if s.image.boot = .off && s.fence.supply = .good then
    { s with
      image := { s.image with boot := .released, bootAt := s.time }
      pins := { s.pins with mrstLow := false, phase := 1, beatAt := s.time }
      bvl := { s.bvl with lastOk := s.time }
      alm := { s.alm with hourAt := s.time, dayAt := s.time }
      cores := s.cores.map fun c => { c with seenAt := s.time } }
  else s)

/-! ### Temperature (R333) -/

/-- THERMAL_SAMPLE: limits move by a step; a junction at TRIP_C in two samples running trips the module through the supply. -/
def execThermalSample (t : Temps) (s : State) : Out :=
  let now := tripBits s t
  let h := hottest (junctions t)
  .next (if s.fence.supply = .off then s
    else if s.fence.tripSeen.toNat &&& now ≠ 0 then deviceReset 3 true s
    else
      let s1 := { s with fence := { s.fence with
        ceils := Vector.ofFn fun b => thermStep s t b s.fence.ceils[b]
        tempMax := h.1
        tempSensor := BitVec.ofNat 8 h.2
        tripSeen := BitVec.ofNat 20 now } }
      noteAlert s (kickClocks s1))

/-! ### HOLD (R329 to R331) -/

/-- Codec pipes in one state go to another: a running pipe stops at its superblock in HOLD and goes on afterwards (R435). -/
def holdPipes (from_ to_ : BitVec 2) (s : State) : State :=
  { s with codec := { s.codec with pipes := s.codec.pipes.map fun x => if x.state = from_ then { x with state := to_ } else x } }

/-- HOLD is entered: counted, admission in HOLD, codec pipes held, DEVICE raised. -/
def enterHold (s : State) : State :=
  let s1 := { s with fence := { s.fence with
    mode := 2
    hold := satAdd s.fence.hold 1
    holdAt := s.time
    longDone := false
    supply := .warned } }
  noteAlert s (raiseDevice (admitAll (fun a => a = 0) 1 (holdPipes 1 2 s1)))

/-- SUPPLY_WARNING: HOLD; one that falls in RESUMING or during qualification returns the supply to HOLD. -/
def execSupplyWarning (_e : SupplyEvent) (s : State) : Out :=
  .next (match s.fence.supply with
    | .good => if s.image.boot = .off then { s with fence := { s.fence with supply := .warned } } else enterHold s
    | .off => s
    | _ => { s with fence := { s.fence with
        supply := .warned
        mode := if holdActive s then 2 else s.fence.mode } })

/-- SUPPLY_RECOVERY: input and rails are above recovery; qualification starts. -/
def execSupplyRecovery (s : State) : Out :=
  .next (if s.fence.supply = .warned || s.fence.supply = .off then
    { s with fence := { s.fence with supply := .qualifying, supplyAt := s.time } }
  else s)

/-- SUPPLY_DIP: a return below recovery during qualification; the next recovery starts it again. -/
def execSupplyDip (s : State) : Out :=
  .next (if s.fence.supply = .qualifying then { s with fence := { s.fence with supply := .warned } } else s)

/-- SUPPLY_QUALIFIED: 20 µs above recovery without a break: RESUMING, or, in reset, a qualified supply. -/
def execSupplyQualified (s : State) : Out :=
  .next (if s.fence.supply = .qualifying && 20000 ≤ (s.time - s.fence.supplyAt).toNat then
    { s with fence := if holdActive s then { s.fence with supply := .resuming, supplyAt := s.time, mode := 3 }
      else { s.fence with supply := .good } }
  else s)

/-- MODE outside HOLD. -/
def plainMode (s : State) : BitVec 3 := if s.fence.safe then 4 else if s.image.boot = .done && !s.image.recovery then 1 else 0

/-- The HOLD's length goes to the gauge and to every running job (R331). -/
def chargeHold (us : Nat) (s : State) : State :=
  let s1 := { s with fence := { s.fence with holdUs := satAdd s.fence.holdUs us } }
  { s1 with parts := s1.parts.map fun x => { x with
      jobs := updateWhere jobRunning (fun j => { j with holdUs := j.holdUs + us }) x.jobs } }

/-- HOLD_RESUME: after 50 µs of RESUMING everything carries on, and partition resets begun in HOLD go on. -/
def execHoldResume (s : State) : Out :=
  .next (if s.fence.mode = 3 && 50000 ≤ (s.time - s.fence.supplyAt).toNat then
    let us := (s.time - s.fence.holdAt).toNat / 1000
    let s1 := chargeHold us { s with fence := { s.fence with mode := plainMode s, supply := .good } }
    let s2 := raiseDevice (admitAll (fun a => a = 1) (openAdmit s1) (holdPipes 2 1 s1))
    noteAlert s (forAll (List.finRange 16) (fun s q => continueReset q s) s2)
  else s)

/-! ### PCIe warm reset (R311, R384) -/

/-- A partition reset under way is superseded: it goes on as part of the wider reset (R312). -/
def resetAnew (s : State) (q : PartIx) : State := if (s.part q).resetStep = .none then beginReset q s else s

/-- PCIE_WARM_RESET: the endpoint and every function start as after power-on, and every partition is reset. Start-up absorbs
it; it supersedes a replant whose partition resets still run, and behind them start-up's rows go on (R312, R357). -/
def execPcieWarmReset (s : State) : Out :=
  .next (if s.image.boot ≠ .done && s.image.replant.isNone then s
    else
      let lost := s.pf0.jobsLost || jobsLost s
      let s0 := { s with image := { s.image with replant := none } }
      let s1 := if s.image.boot = .done then (definedParts s0).foldl resetAnew s0 else s
      let s2 := { s1 with fns := s1.fns.map freshFn }
      { s2 with pf0 := { Pf0.reset with reportCause := 6, jobsLost := lost } })

end Sys2Proof.Machine
end

