-- ==== Sys2Proof/Machine/Boot.lean ====
section
/-! DEFINITION. Start-up and replant: straps, verification, the prune log applied, tests and tables, and the end of a partition
reset (R313, R354 to R359, R363, R365, R444, R446, R484). -/

namespace Sys2Proof.Machine

open Host

/-! ### Straps and stake pins (R354, R444, R446) -/

/-- The functions of STK5 to STK7 and SYNC_EN that a copy selects. -/
def pinFunctions (b : List Byte) : Vector (BitVec 8) 3 × Bool := ((deviceOf b).stkFn, (deviceOf b).syncEn)

/-- STRAP_LATCH: 1 ms after reset release. The pins park, and STK4 to STK7 take the functions of the copy that is chosen. -/
def execStrapLatch (levels : BitVec 8) (s : State) : Out :=
  .next (if s.image.boot ≠ .released || (s.time - s.image.bootAt).toNat < 1000000 || holdActive s then s
    else
      let s1 := { s with
        image := { s.image with
          monitorStrap := !levels.getLsbD 2
          safeBoot := !levels.getLsbD 3
          stage := 1
          boot := .strapped }
        pins := { s.pins with
          straps := BitVec.ofNat 4 levels.toNat
          levels := levels
          phase := 2
          pins := Vector.replicate 8 .park
          pinAt := Vector.replicate 8 s.time } }
      match (chooseCopy s1 0).copy with
      | some d =>
        let f := pinFunctions (imageBytes s1 d)
        { s1 with pins := { s1.pins with fns := f.1, syncOn := f.2 } }
      | none => s1)

/-! ### The active sector (R365) -/

/-- How a sector header reads. -/
inductive Header where
  | bad
  | opening
  | active
  | retired
deriving DecidableEq, Repr

/-- The header of a sector. -/
def headerOf (s : State) (sector : Bool) : Header :=
  let h := logSlot s sector 0
  if !slotIntact h || slType h ≠ 0x7F then .bad
  else if slState h = 0xF0 then .active
  else if slState h = 0x00 then .retired
  else .opening

/-- The serially greatest SEQ of the good records of a sector (R7); 0 with none. -/
def lastSeq (s : State) (sector : Bool) : Nat :=
  match (logRecords s sector).map slSeq with
  | [] => 0
  | x :: t => t.foldl (fun a b => if serialGt 32 b a then b else a) x

/-- The two sectors hold the same slots. -/
def sameSectors (s : State) : Bool := (List.range 4096).all fun n => logSlot s false n == logSlot s true n

/-- Program a sector's header RETIRED. -/
def retire (sector : Bool) (s : State) : State := flashProgram (logDev sector) sectorBase [0x00] s

/-- Make a sector the active one; a rotation restarts at its first step when asked for. -/
def activate (sector rotate : Bool) (s : State) : State :=
  { s with image := { s.image with sector := sector, rotating := rotate, rotStep := 0, rotCopied := 0 } }

/-- The header of the other sector once one is active: an older intact one is retired, anything else restarts the rotation. -/
def activateOne (sector : Bool) (s : State) : State :=
  let other := !sector
  let older := serialGt 32 (slSeq (logSlot s sector 0)) (slSeq (logSlot s other 0))
  if headerOf s other = .retired then activate sector false s
  else if headerOf s other ≠ .bad && older then activate sector false (retire other s)
  else activate sector true s

/-- Neither header is intact and ACTIVE: S0 is erased and opened at generation 1. -/
def openLog (s : State) : State :=
  let s1 := flashErase 0 sectorBase 0x40000 s
  queueLog 4 1 3 (activate false false (flashProgram 0 sectorBase (bytesOf 64 (headerSlot s1 1 0xF0).toNat) s1))

/-- Both headers are ACTIVE with one generation but different contents. -/
def logConflict (s : State) : State :=
  let sec := serialGt 32 (lastSeq s true) (lastSeq s false)
  let s1 := { s with image := { s.image with conflict := satAdd s.image.conflict 1 } }
  queueLog 4 1 2 (activate sec true s1)

/-- The active sector from the two headers. -/
def pickSector (s : State) : State :=
  match headerOf s false, headerOf s true with
  | .active, .active =>
    let g0 := slSeq (logSlot s false 0)
    let g1 := slSeq (logSlot s true 0)
    if g0 = g1 then (if sameSectors s then activate false false s else logConflict s)
    else if serialGt 32 g1 g0 then activate true false (retire false s)
    else activate false false (retire true s)
  | .active, _ => activateOne false s
  | _, .active => activateOne true s
  | _, _ => openLog s

/-! ### Records (R363) -/

/-- One slot of the active sector at start-up: a torn one is programmed DEAD and counted, a complete one VALID. -/
def settleSlot (s : State) (n : Nat) : State :=
  let r := logSlot s s.image.sector n
  let at_ := sectorBase + 64 * n
  if slotFree r || slState r = 0x00 then s
  else if slotGood r then (if slState r = 0xF0 then s else flashProgram (logDev s.image.sector) at_ [0xF0] s)
  else
    let s1 := flashProgram (logDev s.image.sector) at_ [0x00] s
    { s1 with image := { s1.image with torn := satAdd s1.image.torn 1 } }

/-- Insert a record behind those with a serially smaller SEQ. -/
def insertSeq (r : BitVec 512) : List (BitVec 512) → List (BitVec 512)
  | [] => [r]
  | k :: t => if serialGt 32 (slSeq k) (slSeq r) then r :: k :: t else k :: insertSeq r t

/-- The good records of the active sector in SEQ order. -/
def orderedLog (s : State) : List (BitVec 512) := (logRecords s s.image.sector).foldl (fun l r => insertSeq r l) []

/-- RETURNS of a payload. -/
def slReturns (r : BitVec 512) : Nat := bitsOf (slPayload r) 87 80

/-- Kind, index and sub-index of a PRUNE or RETURN record. -/
def slKind (r : BitVec 512) : Nat × Nat × Nat :=
  (bitsOf (slPayload r) 7 0, bitsOf (slPayload r) 23 8, bitsOf (slPayload r) 39 24)

/-- How often a resource has returned, from its latest PRUNE or RETURN record. -/
def countReturns (s : State) (r : BitVec 512) : State :=
  let n := slReturns r
  match slKind r with
  | (1, i, _) => s.onCis (Fin.ofNat 2 (i / 64)) fun x =>
      { x with chans := x.chans.set (i % 64) { x.chans[Fin.ofNat 64 i] with returns := n } (Nat.mod_lt _ (by decide)) }
  | (2, i, k) => onPort (Fin.ofNat 8 i) (fun x =>
      { x with laneReturns := x.laneReturns.set (k % 8) n (Nat.mod_lt _ (by decide)) }) s
  | (3, i, _) => onPort (Fin.ofNat 8 i) (fun x => { x with returns := n }) s
  | (6, i, k) => s.onPlot (Fin.ofNat 128 i) fun x => { x with win := { x.win with bankReturns := tabSet 0 x.win.bankReturns k n } }
  | (7, i, _) => s.onPlot (Fin.ofNat 128 i) fun x => { x with win := { x.win with returns := n } }
  | (8, i, _) => s.onCore (Fin.ofNat 8 i) fun x => { x with returns := n }
  | _ => { s with trellis := { s.trellis with returns := tabSet 0 s.trellis.returns (slResource r) n } }

/-- A module of a link by its sub-index. -/
def moduleOf (s : State) (link sub : Nat) : TrModule :=
  let dir := decide (32768 ≤ sub)
  let ix := sub % 32768 / 128
  (s.trellis.modules.find? fun m => m.link == link && m.dir == dir && m.index == ix).getD
    { link := link, dir := dir, index := ix, faults := [], width := 64, upper := false }

/-- Replace a module of a link. -/
def setModule (m : TrModule) (s : State) : State :=
  { s with trellis := { s.trellis with
      modules := m :: s.trellis.modules.filter fun k => !(k.link == m.link && k.dir == m.dir && k.index == m.index) } }

/-- A PRUNE record in force takes its resource out of service. -/
def applyPrune (s : State) (r : BitVec 512) : State :=
  match slKind r with
  | (1, i, _) => s.onCis (Fin.ofNat 2 (i / 64)) fun x =>
      { x with chans := x.chans.set (i % 64) { x.chans[Fin.ofNat 64 i] with state := 3 } (Nat.mod_lt _ (by decide)) }
  | (2, i, k) => onPort (Fin.ofNat 8 i) (fun x => { x with laneBad := x.laneBad ||| BitVec.ofNat 8 (2 ^ (k % 8)) }) s
  | (3, i, _) => onPort (Fin.ofNat 8 i) (fun x => { x with state := 4 }) s
  | (4, i, k) =>
    let m := moduleOf s i k
    setModule { m with faults := m.faults ++ [k % 128] } s
  | (5, i, k) =>
    let m := moduleOf s i k
    setModule { m with width := if m.width = 64 then 32 else 0 } s
  | (6, i, k) => s.onPlot (Fin.ofNat 128 i) fun x => { x with banks := x.banks ||| BitVec.ofNat 64 (2 ^ (k % 64)), reduced := true }
  | (7, i, _) => s.onPlot (Fin.ofNat 128 i) fun x => { x with mode := .pruned }
  | (8, i, _) => s.onCore (Fin.ofNat 8 i) fun x => { x with held := true }
  | _ => s

/-- Count of the next boot: one more than the largest BOOT of the log's records. -/
def nextBoot (l : List (BitVec 512)) : Word := BitVec.ofNat 32 ((l.map fun r => fld r 0x08 31 0).foldl max 0 + 1)

/-- Every slot behind the sector's header, settled in turn. -/
def settleSlots (s : State) : State := (List.range 4095).foldl (fun s n => settleSlot s (n + 1)) s

/-- The prune log is read and applied. -/
def applyLog (s : State) : State :=
  let s1 := pickSector s
  let s2 := settleSlots s1
  let l := orderedLog s2
  let s3 := { s2 with image := { s2.image with seq := BitVec.ofNat 32 (lastSeq s2 s2.image.sector), boots := nextBoot l } }
  let s4 := (l.filter fun r => slType r = 1 || slType r = 2).foldl countReturns s3
  (l.filter (pruneInForce l)).foldl applyPrune s4

/-! ### Ports (R337, R355, R484) -/

/-- Some faulty lane of a port may not be tested again. -/
def laneStays (s : State) (p : PortIx) (x : Port) : Bool :=
  (List.finRange 8).any fun l => x.laneBad.getLsbD l.val && returnsSpent s 2 p.val l.val

/-- A port as an image enables it: training, for its return where it was pruned; a port that may not return stays pruned. -/
def enablePort (s : State) (p : PortIx) : State :=
  let x := s.bvl.ports[p]
  if s.image.safeBoot || !(linkPorts s).testBit p.val then
    setLinkEn p false (onPort p (fun x => { x with state := if x.state = 4 then 4 else 0 }) s)
  else if x.state = 2 || x.state = 3 then s
  else if x.state = 4 && returnsSpent s 3 p.val 0 then setLinkEn p false s
  else
    let stays := laneStays s p x
    onPort p (fun x =>
      { x with
        state := 1
        testing := x.state == 4
        narrow := stays
        half := bitsOf x.laneBad.toNat 3 0 ≠ 0
        fails := 0
        laneFails := Vector.replicate 8 0 }) s

/-- Every port as the image enables it. -/
def enablePorts (s : State) : State := (List.finRange 8).foldl enablePort s

/-! ### Verification (R355, R357) -/

/-- The Fence takes its limits from an image: registers, and ledgers at their tops. -/
def loadFence (b : List Byte) (s : State) : State :=
  let s1 := { s with fence := { s.fence with regs := fenceRegsOf b, loaded := true } }
  { s1 with fence := { s1.fence with bal := dMax s1 } }

/-- Every bed's TARGET at step 24 for the tests. -/
def testClocks (s : State) : State := forAll (List.finRange 16) (fun s b => setTarget b 24 s) s

/-- Recovery mode. -/
def enterRecovery (c : Choice) (s : State) : State :=
  let s1 := { s with
    image := { s.image with recovery := true, boot := .done }
    fence := { s.fence with safeCause := if c.forced then 0 else 2 } }
  if c.conflict then safeHold 2 s1 else s1

/-- IMAGE_VERIFIED: a copy is chosen, and the Fence's limits, the firmware and the prune log are loaded. -/
def execImageVerified (flashErr : BitVec 2) (s : State) : Out :=
  .next (if s.image.boot ≠ .strapped || holdActive s then s
    else
      let c := chooseCopy s flashErr
      match c.copy with
      | none => enterRecovery c (chosen c [] s)
      | some d =>
        let b := imageBytes s d
        let s1 := loadConfig b (loadFence b (chosen c b s))
        let s2 := forAll (definedParts s1) (fun s q => s.onPart q fun x => { x with bal := burstOf s q }) s1
        let s3 := { s2 with image := { s2.image with stage := 5, boot := .verified } }
        testClocks (enablePorts (imageRecords c (applyLog s3))))

/-! ### Tests and returns (R357, R484) -/

/-- A channel after its training and tests. -/
def testChan (r : InitReport) (first : Bool) (s : State) (i : Nat) : State :=
  let c : CisIx := Fin.ofNat 2 (i / 64)
  let ch : Fin 64 := Fin.ofNat 64 i
  let x := (s.cistern c).chans[ch]
  let bad := r.chanFail.getLsbD i
  if x.state = 3 then
    if bad || returnsSpent s 1 i 0 then s
    else recordReturn 1 i 0 (tabGet 0 r.chanErrs i) (onChan c ch (fun x =>
      { x with state := 1, hourCe := 0, dayUe := 0, trainFails := 0, returns := x.returns + 1 }) s)
  else if bad && first then recordPrune 1 i 0 .training s.dev.fault.lpTrain x.returns (onChan c ch (fun x => { x with state := 3 }) s)
  else onChan c ch (fun x => { x with state := 1 }) s

/-- Retired banks of a plot that may return. -/
def banksBack (s : State) (p : PlotIx) : List Nat :=
  (List.range 64).filter fun k => (s.plot p).banks.getLsbD k && !returnsSpent s 6 p.val k

/-- A plot that passed returns with its banks. -/
def returnPlot (p : PlotIx) (s : State) : State :=
  let x := s.plot p
  let back := banksBack s p
  let s1 := back.foldl (fun s k => recordReturn 6 p.val k 0 s) s
  let s2 := if x.mode = .pruned then recordReturn 7 p.val 0 0 s1 else s1
  s2.onPlot p fun x =>
    { x with
      banks := back.foldl (fun m k => m &&& ~~~(BitVec.ofNat 64 (2 ^ k))) x.banks
      win := { x.win with
        returns := if x.mode = .pruned then x.win.returns + 1 else x.win.returns
        bankReturns := back.foldl (fun t k => tabSet 0 t k (tabGet 0 t k + 1)) x.win.bankReturns } }

/-- A plot with no bank left retired is in service, in normal mode; a plot of no partition is held power-gated (R300). -/
def openPlot (p : PlotIx) (s : State) : State :=
  reloadDefaults p (s.onPlot p fun x =>
    { x with
      mode := if x.unassigned then .off else .idle
      reduced := x.banks ≠ 0
      reducedReq := none })

/-- A plot after TEST pattern 0x05. -/
def testPlot (r : InitReport) (s : State) (p : PlotIx) : State :=
  let x := s.plot p
  let bad := r.plotFail.getLsbD p.val
  if x.mode = .pruned then
    if bad || returnsSpent s 7 p.val 0 then s else openPlot p (returnPlot p s)
  else if bad then prunePlot p .test 1 s
  else openPlot p (returnPlot p s)

/-- A pruned gardener core after its restart. -/
def testCore (r : InitReport) (s : State) (c : CoreIx) : State :=
  if (s.core c).held && !r.coreFail.getLsbD c.val && !returnsSpent s 8 c.val 0 then
    recordReturn 8 c.val 0 0 (s.onCore c fun x => { x with held := false, returns := x.returns + 1 })
  else s

/-- A Trellis lane or module that link training brings back. -/
def trReturn (kind : Nat) (s : State) (m : TrModule) (sub : Nat) : State :=
  let key := kind + m.link * 2 ^ 8 + sub * 2 ^ 24
  let s1 := recordReturn kind m.link sub 0 s
  { s1 with trellis := { s1.trellis with returns := tabSet 0 s1.trellis.returns key (tabGet 0 s1.trellis.returns key + 1) } }

/-- A Trellis module after link training with lane repair. -/
def testModule (r : InitReport) (s : State) (m : TrModule) : State :=
  let base := m.dir.toNat * 32768 + m.index * 128
  let stays (kind sub : Nat) : Bool := r.trFail.contains (m.link, sub) || returnsSpent s kind m.link sub
  let back := m.faults.filter fun l => !stays 4 (base + l)
  let wide := m.width ≠ 64 && !stays 5 base
  let s1 := back.foldl (fun s l => trReturn 4 s m (base + l)) s
  let s2 := if wide then trReturn 5 s1 m base else s1
  setModule { m with faults := m.faults.filter (fun l => !back.contains l), width := if wide then 64 else m.width } s2

/-- Channels and plots are tested; gardener cores and Trellis links return at power-on and module reset only. -/
def runTests (r : InitReport) (first : Bool) (s : State) : State :=
  let s1 := (List.range 128).foldl (testChan r first) s
  let s2 := (List.finRange 128).foldl (testPlot r) s1
  if first then s2.trellis.modules.foldl (testModule r) ((List.finRange 8).foldl (testCore r) s2) else s2

/-! ### Translation tables (R215, R245) -/

/-- Frames of one parity that the quotas of the partitions below q take. -/
def framesBelow (s : State) (q : PartIx) : Nat :=
  (((List.finRange 16).filter fun p => p < q && (s.part p).defined).map fun p => (s.part p).img.t3Gib * 8192).sum

/-- The physical frame after the relocations in force. -/
def relocated (l : List (BitVec 512)) (f : Nat) : Nat :=
  (l.filter (relocateInForce l)).foldl (fun f r =>
    let old := bitsOf (slPayload r) 31 0
    let new := bitsOf (slPayload r) 63 32
    let n := bitsOf (slPayload r) 79 64
    if old ≤ f && f < old + 2 * n && f % 2 = old % 2 then new + (f - old) else f) f

/-- The entry of a partition's virtual frame: quotas follow the system area in partition order; a frame among the donors of
pruned channels is withdrawn. -/
def buildEntry (s : State) (l : List (BitVec 512)) (q : PartIx) (v : Nat) : Word :=
  let c := frameCis v
  let f := relocated l (2 * (systemFrames s + framesBelow s q + v / 2) + v % 2)
  let share := (bedsOf s q).any fun b => (s.bed b).share ≠ 0
  if donorStart s (prunedChans s c).length ≤ f / 2 then 0
  else BitVec.ofNat 32 (f + 2 ^ 24 + (share && Config.mirrorEntry q.val v).toNat * 2 ^ 25)

/-- Virtual frames of a partition's quota. -/
def quotaFrames (s : State) (q : PartIx) : Nat := (s.part q).img.t3Gib * 16384

/-- The translation tables of every partition, and the frames of each quota that are withdrawn. -/
def buildTables (s : State) : State :=
  let l := orderedLog s
  let es (q : PartIx) : List Word := (List.range (quotaFrames s q)).map (buildEntry s l q)
  let ps := definedParts s
  let s1 := s.onMem fun m => { m with xlt := ps.foldl (fun t q => tabWrite 0 t (xltKey q 0) (es q)) [] }
  forAll ps (fun s q => s.onPart q fun x => { x with withdrawn := ((es q).filter (· = 0)).length }) s1

/-! ### The end of start-up (R357, R361) -/

/-- The boot record: copy, forced, generation, reset cause. -/
def bootRecord (s : State) : State :=
  let i := s.image
  queueLog 5 9 (i.copy.toNat % 2 + i.forced.toNat * 2 + i.gen.toNat * 2 ^ 32 + s.fence.resetCause.toNat * 2 ^ 64) s

/-- Partitions open, and RESET_DONE is set for each. -/
def openParts (s : State) : State :=
  forAll (definedParts s) (fun s q => setAdmit q (openAdmit s) (s.onPart q fun x => { x with resetDone := true })) s

/-- MEMORY_INIT_COMPLETE: training, zeroing and tests are over; tables and default sets are in place, and partitions open. At a
replant it answers REPLANT. -/
def execMemoryInitComplete (r : InitReport) (s : State) : Out :=
  .next (if s.image.boot ≠ .verified || holdActive s then s
    else
      let s1 := bootRecord (buildTables (scaleShares (runTests r s.image.replant.isNone s)))
      let s2 := { s1 with image := { s1.image with boot := .done, stage := 7, replant := none } }
      let s3 := { s2 with fence := { s2.fence with mode := plainMode s2 } }
      let s4 := forAll (List.finRange 16) (fun s b => setTarget b (((bedPart s b).map fun q => (s.part q).fPlan).getD 0) s) s3
      answerWaiting (fun _ e => seOpc e == 0x20) (ansDone 0 0) (openParts s4))

/-! ### Replant (R292, R359) -/

/-- A partition as a new image finds it: nothing of the old one but its admission state. -/
def freshPart (x : Part) : Part := { Part.reset with adm := x.adm }

/-- A pin whose function changes is parked; one whose function stays keeps running (R446). -/
def changePins (b : List Byte) (s : State) : State :=
  let f := pinFunctions b
  let moved (i : Fin 8) : Bool :=
    if i.val < 4 then false else if h : 5 ≤ i.val then f.1[i.val - 5] ≠ s.pins.fns[i.val - 5] else f.2 ≠ s.pins.syncOn
  { s with pins := { s.pins with
      fns := f.1
      syncOn := f.2
      pins := Vector.ofFn fun i => bif moved i then .park else s.pins.pins[i]
      pinAt := Vector.ofFn fun i => bif moved i then s.time else s.pins.pinAt[i] } }

/-- Every memory, share, table and count that a replant clears (R190, R228, R299, R311, R316, R335, R473). -/
def replantClear (s : State) : State :=
  { s with
    mem := { Memories.reset with host := s.mem.host }
    parts := s.parts.map freshPart
    fns := s.fns.map fun x => { x with sent := 0, throttled := 0 }
    beds := s.beds.map fun x => { x with mirror := [], epochs := [], drop := EpochDrop.reset, energy := 0, cap := 0, debited := 0 }
    cis := s.cis.map fun x =>
      { x with
        xltCache := []
        xltBusy := none
        dir := { x.dir with entries := [], queue := [] }
        halo := Halo.reset
        epochs := []
        chans := x.chans.map fun k => { k with hourCe := 0, dayUe := 0 } }
    plots := s.plots.map fun x =>
      let y := slotsInvalid x
      { y with
        mode := if x.mode = .pruned then .pruned else .reset
        reduced := true
        win := { x.win with bankCe := [], mismatch := 0, fault := 0, ueBanks := 0 } }
    fence := { s.fence with
      safe := false
      safeCause := 0
      resetCause := 5
      repaired := 0
      lockstep := 0
      foreign := 0
      hold := 0
      holdLong := 0
      holdUs := 0 } }

/-- The new image is loaded, safe hold is left, and start-up's rows from the firmware load onwards begin. -/
def replantLoad (d : Fin 2) (s : State) : State :=
  let b := imageBytes s d
  let c : Choice := { copy := some d, a := s.image.aReason.toNat, b := s.image.bReason.toNat, forced := s.image.forced, conflict := false }
  let s1 := changePins b (loadConfig b (loadFence b (chosen c b (replantClear s))))
  let s2 := forAll (definedParts s1) (fun s q => s.onPart q fun x => { x with bal := burstOf s q }) s1
  let s3 := { s2 with
    image := { s2.image with stage := 5, boot := .verified }
    fence := { s2.fence with mode := 0 } }
  testClocks (enablePorts s3)

/-- The last partition reset of a replant has ended. -/
def replantGoesOn (s : State) : State :=
  match s.image.replant with
  | some d => if s.image.boot = .done && (definedParts s).all (fun q => (s.part q).resetStep = .none) then replantLoad d s else s
  | none => s

/-- PARTITION_ZEROING_DONE: a replant zeroes T3 whatever IMG_RESET_ZERO says. -/
def execPartitionZeroingDone (q : PartIx) (s : State) : Out :=
  .next (if zeroingOver s q then
    replantGoesOn (finishReset q (zeroPartition q ((s.part q).zeroing || s.image.replant.isSome) s))
  else s)

/-- A replant begins: every partition STOPPED, then reset. -/
def beginReplant (c : Choice) (d : Fin 2) (s : State) : State :=
  let s1 := imageRecords c { s with image := { s.image with
    forced := c.forced, aReason := BitVec.ofNat 8 c.a, bReason := BitVec.ofNat 8 c.b } }
  let s2 := (definedParts s1).foldl resetAnew (admitAll (fun _ => true) 2 s1)
  replantGoesOn { s2 with image := { s2.image with replant := some d } }

/-- REPLANT: accepted when no partition holds a non-final job, and at any time in safe hold. One that arrives during a replant
is absorbed and answered with it (R312). -/
def execReplant (f : FnIx) (i : QpIx) (flashErr : BitVec 2) (s : State) : Out :=
  .next (match nextSubmission s f i with
    | none => s
    | some e =>
      if seOpc e ≠ 0x20 then s
      else if s.image.replant.isSome then takeUp f i s
      else if s.image.boot ≠ .done || s.image.recovery then s
      else if !s.fence.safe && (definedParts s).any (fun q => !(liveJobs s q).isEmpty) then answerNow f i (ansState 0x30) s
      else
        let c := chooseCopy s flashErr
        match c.copy with
        | none => answerNow f i ansImage s
        | some d => beginReplant c d (takeUp f i s))

end Sys2Proof.Machine
end

