-- ==== Sys2Proof/Machine/Boundary.lean ====
section
/-! DEFINITION. Pass boundaries: completion, charges, the deadline monitor, boundary votes, failed passes and the long-hold decision
(R127, R128, R262, R267 to R273, R284, R331, R400, R417). -/

namespace Sys2Proof.Machine

open Host

/-! ### Charges (R127, R262) -/

/-- Time in ns of plot cycles at a bed's clock. -/
def cyclesNs (s : State) (b : BedIx) (n : Nat) : Nat := cdiv (n * 1000) (600 + 50 * (s.bed b).current.toNat)

/-- The re-run time of a pass: the largest over the job's plots of what PLT_WATCH_CYC has grown by. -/
def rerunCharge (s : State) (j : Job) : Nat :=
  (j.watchAt.map fun w => cyclesNs s (bedOf w.1) ((s.plot w.1).watch.cyc.toNat - w.2)).foldl max 0

/-- Step 3 for one job: re-run time against the re-run margin, HOLD time against the fault retry margin. -/
def jobCharged (s : State) (j : Job) : Job :=
  { j with
    marginLeft := j.marginLeft - rerunCharge s j
    retryLeft := j.retryLeft - 1000 * j.holdUs
    holdUs := 0
    watchAt := watchNow s j.tasks }

/-- The margin is exhausted and the job's declared action is the fallback (R128). -/
def marginSwitches (j : Job) : Bool := decide (j.marginLeft < 0) && !jdWide j.desc && jdEffective j.desc && j.life = .running && 0 < j.toGo

/-- The deadline monitor would switch the job, or a long HOLD has decided so (R269, R270). -/
def monitorSwitches (s : State) (q : PartIx) (j : Job) : Bool :=
  jdEffective j.desc && j.life = .running && 0 < j.toGo && (j.switchNext || decide (slackOf s q j.id < slackThr s q j))

/-- The at-risk notice of a running job whose slack is negative. -/
def atRisk (q : PartIx) (s : State) (id : Word) : State :=
  match jobById s q id with
  | none => s
  | some j =>
    let slack := slackOf s q id
    if jobRunning j && decide (slack < 0) then giveNotice q j 1 (unsigned 64 slack) s else s

/-! ### Commit and the steps of a boundary (R267, R284) -/

/-- A member's pass commits. -/
def jobCommitted (j : Job) : Job :=
  { j with
    mainPasses := if onFallback j then j.mainPasses else j.mainPasses + 1
    fbPasses := if onFallback j then j.fbPasses + 1 else j.fbPasses
    toGo := j.toGo - 1
    retries := 0
    settled := [] }

/-- The pass of the batch commits. -/
def commitPass (q : PartIx) (s : State) : State :=
  let ms := (s.part q).jobs.filter fun j => j.inPass && !j.cancelReq
  let s1 := onJobs q (fun j => j.inPass && !j.cancelReq) jobCommitted s
  let s2 := ms.foldl (fun s j => readyCuts q j.id s) s1
  s2.onPart q fun x => { x with fabricOld := [], wrote := [] }

/-- Step 1: jobs whose output is complete end. -/
def completeJobs (q : PartIx) (outs : List JobOut) (s : State) : State :=
  outs.foldl (fun s o =>
    match jobById s q o.job with
    | some j =>
      if !jobRunning j || j.toGo ≠ 0 || !j.lates.isEmpty then s
      else
        let l := if jdDeadline j.desc < o.time.toNat then Life.late else if onFallback j then Life.degraded else Life.ok
        endJob q j.id l o.bytes.toNat o.index.toNat true s
    | none => s) s

/-- Step 2: jobs whose CANCEL has come end. -/
def cancelJobs (q : PartIx) (s : State) : State :=
  (((liveJobs s q).filter (·.cancelReq)).map (·.id)).foldl (fun s id => endJob q id .cancelled 0 0 true s) s

/-- Step 3: charges, and the switches of exhausted margins. -/
def chargeJobs (q : PartIx) (s : State) : State :=
  let s1 := onJobs q (fun j => jobRunning j && j.away = .none) (jobCharged s) s
  (((liveJobs s1 q).filter marginSwitches).map (·.id)).foldl (fun s id => switchJob q id s) s1

/-- Step 4: the deadline monitor. -/
def monitorJobs (q : PartIx) (s : State) : State :=
  let ids := (liveJobs s q).map (·.id)
  let s1 := ids.foldl (fun s id =>
    match jobById s q id with
    | some j => if monitorSwitches s q j then switchJob q id s else s
    | none => s) s
  onJobs q (fun _ => true) (fun j => { j with switchNext := false }) (ids.foldl (atRisk q) s1)

/-- A member that was suspended in company leaves the batch with no live T0 data. -/
def leavesBatch (time : DWord) (j : Job) : Job :=
  match j.away with
  | .stopping b m =>
    if j.stopped then j else { j with away := .out b time m, inPass := false, tasks := [] }
  | _ => j

/-- Steps 5 to 7: members leave, the plan is recomputed, and the next pass is issued. -/
def nextPass (q : PartIx) (s : State) : State :=
  let gone := (liveJobs s q).filter fun j => (match j.away with
    | .stopping _ _ => !j.stopped
    | _ => false)
  let s1 := onJobs q (fun _ => true) (leavesBatch s.time) s
  let s2 := gone.foldl (fun s j => answerWaiting (waitsOn q j.id [0x03]) (ansDone 0 0) s) s1
  let s3 := onJobs q (·.inPass) (fun j => { j with inPass := false, voteRes := none }) s2
  let ids := (nextBatch s3 q).map (·.id)
  let s4 := onJobs q (fun j => j.away = .none && !ids.contains j.id) (fun j => { j with tasks := [] }) s3
  dispatch q (storeFinishes q (lowerPlan q s4))

/-! ### Boundary votes (R417) -/

/-- Sequence numbers of a vote's two collectives: the same at every member, and apart from those of the package. -/
def voteSeq (j : Job) (k : Nat) : Nat := 2 ^ 31 + (8 * (j.mainPasses + j.fbPasses) + 2 * j.retries + k) % 2 ^ 31

/-- The descriptor of a vote's collective. -/
def voteDesc (q : PartIx) (pkg : ModelPkg) (j : Job) (cop src dst : Nat) : BitVec 512 :=
  let bytes := roundUp ((2 + pkg.members) * 4) 256
  BitVec.ofNat 512 (cop + (1 - cop) * 2 ^ 7 + q.val * 2 ^ 8 + 0xFFFFFFFF * 2 ^ 32 + src * 2 ^ 64 + dst * 2 ^ 128 +
    bytes * 2 ^ 192 + (pkg.groups.headD 0).toNat * 2 ^ 256 + pkg.voteFanin % 16 * 2 ^ 332 + 0xD * 2 ^ 336 +
    voteSeq j (1 - cop) * 2 ^ 352 + pkg.voteStage.toNat * 2 ^ 384 + 2000 * 2 ^ 448)

/-- The vector that a member contributes. -/
def voteVector (members index epoch : Nat) (switch failed : Bool) : List Byte :=
  let ws := [switch.toNat, failed.toNat] ++ (List.range members).map fun i => if i = index then epoch else 0
  let bs := ws.flatMap (bytesOf 4)
  bs ++ List.replicate (roundUp bs.length 256 - bs.length) 0

/-- A member posts its vote: the contribution is written, then the REDUCE and the BROADCAST are posted. -/
def postVote (q : PartIx) (j : Job) (s : State) : State :=
  match findModel s q (jdModel j.desc) with
  | none => s
  | some (r, _) =>
    let red := voteDesc q r.pkg j 1 r.pkg.voteSrc.toNat r.pkg.voteDst.toNat
    let bro := voteDesc q r.pkg j 0 r.pkg.voteDst.toNat r.pkg.voteDst.toNat
    let i := (ownIndices s red).headD 0
    let v := voteVector r.pkg.members i (jobEpoch j) (marginSwitches j || monitorSwitches s q j) j.passFailed
    let s1 := (routedWrite q none r.pkg.voteSrc.toNat 0 0xFFFFFFFF v s).1
    postColl bro (postColl red (onJob q j.id (fun j => { j with voting := true }) s1))

/-- The epochs that a vote gathered are copied into the group records. -/
def storeEpochs (q : PartIx) (pkg : ModelPkg) (s : State) : State :=
  pkg.groups.foldl (fun s g =>
    (List.range pkg.members).foldl (fun s i =>
      (routedWrite q none (g.toNat + 0x14 + 16 * i) 0 0xFFFFFFFF (ramRead s (pkg.voteDst.toNat + 8 + 4 * i) 4) s).1) s) s

/-- No collective of the partition epoch is under way, and no record of one waits. -/
def voteOver (x : Part) : Bool :=
  !(x.colls.any fun c => cdEpoch c.desc == 0xFFFFFFFF) && !(x.fabricRing.any fun e => e.2 == 0xFFFFFFFF)

/-- A member runs its pass again, or has failed it too often (R270). -/
def passAgain (s : State) (j : Job) : Job :=
  { j with
    life := match j.life with
      | .tainted fb => if fb then .runningFb else .running
      | l => l
    retries := j.retries + 1
    retryLeft := j.retryLeft - (s.time - j.passAt).toNat
    passAt := s.time
    passFailed := false
    stopped := true
    advanced := false
    lates := []
    settled := []
    flushed := []
    voteRes := none
    watchAt := watchNow s j.tasks }

/-- Members that have failed the same pass more than IMG_PASS_RETRY times end FAILED. -/
def endWorn (q : PartIx) (ids : List Word) (s : State) : State :=
  ids.foldl (fun s id =>
    match jobById s q id with
    | some j => if (s.part q).img.passRetry.toNat < j.retries then endJob q id .failed 0 0 true s else s
    | none => s) s

/-- Members that no longer run what the first of the batch runs leave it; without any member the next batch is formed. -/
def regroup (q : PartIx) (s : State) : State :=
  match (liveJobs s q).find? (·.inPass) with
  | none => dispatch q s
  | some h =>
    onJobs q (fun j => j.inPass && activeModel j ≠ activeModel h)
      (fun j => { j with inPass := false, tasks := [] }) s

/-- The switches that a vote orders: a member whose fallback is not effective ends FAILED. -/
def voteSwitch (q : PartIx) (s : State) (j : Job) : State :=
  match j.voteRes, jobById s q j.id with
  | some (true, _), some k =>
    if k.life ≠ .running || k.toGo = 0 then s
    else if jdEffective k.desc then switchJob q k.id s
    else endJob q k.id .failed 0 0 true s
  | _, _ => s

/-- The boundary of a cut batch after its votes: the pass runs again for all, or commits; then the switches, and what follows
step 4. -/
def finishVotes (q : PartIx) (outs : List JobOut) (s : State) : State :=
  let ms := (s.part q).jobs.filter (·.inPass)
  let again := ms.any fun j => (match j.voteRes with
    | some (_, b) => b
    | none => false)
  if again then
    let s1 := ms.foldl (fun s j => rewindCuts q j.id s) (flushTasks (ms.flatMap (·.tasks)).dedup s)
    let s2 := onJobs q (·.inPass) (passAgain s) s1
    let s3 := ms.foldl (voteSwitch q) s2
    regroup q (endWorn q (ms.map (·.id)) s3)
  else
    let s1 := completeJobs q outs (commitPass q s)
    let s2 := ms.foldl (voteSwitch q) (cancelJobs q s1)
    nextPass q (((liveJobs s2 q).map (·.id)).foldl (atRisk q) s2)

/-! ### PASS_BOUNDARY and VOTE_RESULT -/

/-- Every command of the batch's pass has completed and its records have been drained. -/
def passOver (s : State) (q : PartIx) : Bool :=
  ((s.part q).jobs.filter (·.inPass)).all fun j => tasksStopped s j && recordsDrained s q j.slot.toNat

/-- The batch's members that have more than a CANCEL outstanding: stopped, or with a failed pass. -/
def passBlocked (s : State) (q : PartIx) : Bool :=
  ((s.part q).jobs.filter (·.inPass)).any fun j => !j.cancelReq && (j.stopped || (j.passFailed && !cutMember s q j))

/-- PASS_BOUNDARY: the steps of R267 in their order. Before them, every device written to is settled; a cut batch votes. -/
def execPassBoundary (q : PartIx) (outs : List JobOut) (s : State) : Out :=
  let ms := (s.part q).jobs.filter (·.inPass)
  let keep := ms.filter fun j => !j.cancelReq
  .next (if holdActive s || (s.part q).resetStep ≠ .none || !passOver s q || passBlocked s q || ms.any (·.voting) then s
    else if keep.any fun j => !j.passFailed && !passSettled s q j then
      keep.foldl (fun s j => sendSettles q j s) s
    else if keep.any (cutMember s q) then
      let s1 := if keep.all fun j => j.voteRes.isNone then
          onJobs q (fun j => jobRunning j && j.away = .none) (jobCharged s) s
        else s
      match (s1.part q).jobs.find? fun j => j.inPass && !j.cancelReq && j.voteRes.isNone with
      | some j => postVote q j s1
      | none => finishVotes q outs s1
    else
      let s1 := cancelJobs q (completeJobs q outs (commitPass q s))
      nextPass q (monitorJobs q (chargeJobs q s1)))

/-- VOTE_RESULT: the vote's broadcast has completed; its epochs are stored and its words kept for the boundary. -/
def execVoteResult (q : PartIx) (job : Word) (s : State) : Out :=
  .next (match jobById s q job with
    | some j =>
      if !j.voting || !voteOver (s.part q) then s
      else match findModel s q (jdModel j.desc) with
        | none => s
        | some (r, _) =>
          let w (i : Nat) : Bool := natOf (ramRead s (r.pkg.voteDst.toNat + 4 * i) 4) ≠ 0
          storeEpochs q r.pkg (onJob q job (fun j => { j with voting := false, voteRes := some (w 0, w 1) }) s)
    | none => s)

/-! ### Failed passes and long HOLDs (R270) -/

/-- The pass may be treated as failed: a member's pass has been marked so, or the Almanac knows of a lost producer. -/
def mayFail (s : State) (q : PartIx) (why : PassFail) : Bool :=
  why = .haloProducer || ((s.part q).jobs.filter (·.inPass)).any (·.passFailed)

/-- The fallback decision of a member whose pass runs again: main model while its slack allows, else an effective fallback. -/
def failedSwitch (q : PartIx) (s : State) (id : Word) : State :=
  match jobById s q id with
  | some j => if monitorSwitches s q j then switchJob q id s else s
  | none => s

/-- FAILED_PASS: the batch's pass is flushed and runs again; jobs whose data is lost, or that a command failed otherwise, end
FAILED. A cut member votes on it first. -/
def execFailedPass (q : PartIx) (why : PassFail) (jobs : List Word) (s : State) : Out :=
  let ms := (s.part q).jobs.filter (·.inPass)
  let ids := ms.map (·.id)
  .next (if (s.part q).resetStep ≠ .none then s
    else if why = .dataLost || why = .otherStatus then
      let hit := (liveJobs s q).filter fun j => jobs.contains j.id && jobRunning j
      let s1 := flushTasks ((hit.filter fun j => !ms.any fun k => k.inPass && k.id != j.id && !jobs.contains k.id).flatMap (·.tasks)).dedup s
      dispatch q (hit.foldl (fun s j => endJob q j.id .failed 0 0 true s) s1)
    else if ms.isEmpty || !mayFail s q why || ms.any (fun j => j.stopped || j.voting) then s
    else
      let s1 := flushTasks (ms.flatMap (·.tasks)).dedup s
      if ms.any (cutMember s q) then onJobs q (·.inPass) (fun j => { j with passFailed := true }) s1
      else
        let s2 := ids.foldl (fun s id => rewindCuts q id s) s1
        let s3 := endWorn q ids (onJobs q (·.inPass) (passAgain s) s2)
        regroup q (ids.foldl (failedSwitch q) s3))

/-- The slack of a job after a HOLD of so many ns, resume included. -/
def slackAfterHold (s : State) (q : PartIx) (id : Word) (held : Nat) : Int :=
  let s1 := onJobs q jobRunning (fun j => { j with retryLeft := j.retryLeft - held }) { s with time := s.time + 50000 }
  slackOf s1 q id

/-- LONG_HOLD_DECISION: HOLD has lasted 2 ms. It is counted and logged, and jobs left without slack switch at their next
boundary. -/
def execLongHoldDecision (s : State) : Out :=
  let held := (s.time - s.fence.holdAt).toNat
  .next (if !holdActive s || held < 2000000 || s.fence.longDone then s
    else
      let s1 := { s with fence := { s.fence with longDone := true, holdLong := satAdd s.fence.holdLong 1 } }
      let s2 := queueLog 4 5 (1 + held / 1000 * 2 ^ 8) s1
      forAll (List.finRange 16) (fun s q =>
        let ids := ((liveJobs s q).filter fun j => j.life = .running && jdEffective j.desc &&
          decide (slackAfterHold s q j.id (held + 50000) ≤ 0)).map (·.id)
        onJobs q (fun j => ids.contains j.id) (fun j => { j with switchNext := true }) s) s2)

end Sys2Proof.Machine
end

