-- ==== Sys2Proof/Machine/Faults.lean ====
section
/-! DEFINITION. Scratchpad banks, Trellis links, gardener cores and the fault windows (R336, R473, R480 to R483). -/

namespace Sys2Proof.Machine

open Host

/-! ### Banks (R481, R482) -/

/-- Errors of a bank that call for its retirement, with their count (R481). -/
def bankCalls (s : State) (p : PlotIx) (bank : Fin 64) (cause : PruneCause) : Option Nat :=
  let w := (s.plot p).win
  match cause with
  | .uncorr => if w.ueBanks.getLsbD bank.val then some 1 else none
  | .ceRate =>
    let n := tabGet 0 w.bankCe bank.val
    if s.dev.fault.spCeHr ≤ n then some n else none
  | _ => none

/-- Retired banks of a plot. -/
def bankCount (x : Plot) : Nat := ((List.range 64).filter fun k => x.banks.getLsbD k).length

/-- The tasks of a plot with a retired bank migrate: their batch is stopped and heeled in (R290). -/
def migrateFrom (p : PlotIx) (s : State) : State :=
  match plotJob s p with
  | some (q, j) => if j.inPass then stopBatch q false 0 s else s
  | none => s

/-- A bank is retired: its bit, reduced mode at the next idle point, record, CAPACITY, and the plot's place in the quota. -/
def retireBank (p : PlotIx) (bank : Fin 64) (cause : PruneCause) (n : Nat) (s : State) : State :=
  let ret := tabGet 0 (s.plot p).win.bankReturns bank.val
  let bit : BitVec 64 := BitVec.ofNat 64 (2 ^ bank.val)
  let s1 := s.onPlot p fun x =>
    { x with banks := x.banks ||| bit, reducedReq := some true, win := { x.win with ueBanks := x.win.ueBanks &&& ~~~bit } }
  let s2 := recordPrune 6 p.val bank.val cause n ret s1
  match plotPart (s.plot p) with
  | some q => drawReserve q (raiseCapacity q s2)
  | none => s2

/-- What follows a retirement: the plot is pruned at BANK_MAX; otherwise its task migrates, and after an uncorrectable error the
pass fails. -/
def afterRetire (p : PlotIx) (cause : PruneCause) (s : State) : State :=
  let n := bankCount (s.plot p)
  if s.dev.fault.bankMax ≤ n then prunePlot p .banks n s
  else if cause = .uncorr then failPassOn p s
  else migrateFrom p s

/-- BANK_RETIRE: for corrected errors the plot is first flushed, and the bank is retired once the plot has stopped. -/
def execBankRetire (p : PlotIx) (bank : Fin 64) (cause : PruneCause) (s : State) : Out :=
  .next (if holdActive s || !powered (s.plot p) || (s.plot p).banks.getLsbD bank.val then s
    else match bankCalls s p bank cause with
      | none => s
      | some n =>
        if cause = .ceRate && !plotEmpty (s.plot p) then flushPlot p false s
        else afterRetire p cause (retireBank p bank cause n s))

/-! ### Trellis (R480) -/

/-- The sub-index of a lane (R475). -/
def laneCodeOf (dir : Bool) (module_ lane : Nat) : Nat := dir.toNat * 32768 + 128 * module_ + lane

/-- Failures of a lane in the current second. -/
def laneCount (s : State) (link code : Nat) : Nat :=
  ((s.trellis.laneFails.find? fun e => e.1 = link && e.2.1 = code).map (·.2.2)).getD 0

/-- The lane with the most failures on a flit, the first of several. -/
def worstLane (ls : List Nat) : Nat :=
  ls.foldl (fun m l => if ls.count m < ls.count l then l else m) (ls.headD 0)

/-- A lane is faulty and waits for its repair. -/
def laneDue (link code : Nat) (s : State) : State :=
  if s.trellis.due.contains (link, code) then s else { s with trellis := { s.trellis with due := s.trellis.due ++ [(link, code)] } }

/-- A failure counted in its second. -/
def countLane (link code : Nat) (s : State) : State :=
  let sec := s.time.toNat / 1000000000
  let old := if s.trellis.sec = sec then s.trellis.laneFails else []
  let n := ((old.find? fun e => e.1 = link && e.2.1 = code).map (·.2.2)).getD 0
  { s with trellis := { s.trellis with
      sec := sec
      laneFails := (link, code, n + 1) :: old.filter fun e => !(e.1 = link && e.2.1 = code) } }

/-- FLIT_REPLAY: a flit check fails on a lane, on the flit's first transmission or, with `again`, on a replay. A lane is faulty
with TR_LANE_SEC failures in the second, or with the most failures on a flit whose replays are used up. -/
def execFlitReplay (link : Nat) (lane : Nat) (again : Bool) (s : State) : Out :=
  let old := (s.trellis.flits.find? fun e => e.1 = link).getD (link, 0, [])
  let flit : Nat × Nat × List Nat := if again then (link, old.2.1 + 1, old.2.2 ++ [lane]) else (link, 0, [lane])
  let spent := s.dev.fault.trReplay ≤ flit.2.1
  let s1 := countLane link lane s
  let rest := s1.trellis.flits.filter fun e => e.1 ≠ link
  let s2 := { s1 with trellis := { s1.trellis with flits := if spent then rest else flit :: rest } }
  let s3 := if s.dev.fault.trLaneSec ≤ laneCount s2 link lane then laneDue link lane s2 else s2
  .next (if 53 ≤ link || s.trellis.lost.contains link then s
    else if spent then laneDue link (worstLane flit.2.2) s3 else s3)

/-- Redundant lanes of a module (UCIe 1.1, advanced package). PRESUMED. -/
def spareLanes : Nat := 4

/-- The bed of a bed link. -/
def linkBed (link : Nat) : BedIx := Fin.ofNat 16 link

/-- Partitions that use a link. -/
def linkUsers (s : State) (link : Nat) : List PartIx :=
  if link < 32 then (bedPart s (linkBed link)).toList
  else if link < 48 then ((bedPart s (linkBed link)).toList ++ (bedPart s (Fin.ofNat 16 (link + 1))).toList).dedup
  else definedParts s

/-- A lost bed link: the bed's mirror copies go without write-back, passes that depended on dirty ones fail, and its plots are
pruned. -/
def bedLinkLost (b : BedIx) (s : State) : State :=
  let dirty := (s.bed b).mirror.any fun c => c.owned && c.dirty ≠ 0
  let s1 := discardMirror b s
  let s2 := match bedPart s b with
    | some q => if dirty then onJobs q (·.inPass) (fun j => { j with passFailed := true }) s1 else s1
    | none => s1
  forAll (List.finRange 8) (fun s i => prunePlot (plotOf b i) .linkLost 1 s) s2

/-- A link with every module of a direction off is lost. -/
def linkLost (link : Nat) (s : State) : State :=
  let s1 := { s with trellis := { s.trellis with lost := s.trellis.lost ++ [link] } }
  if link < 32 then bedLinkLost (linkBed link) s1 else if link < 48 then s1 else safeHold 4 s1

/-- A pruning of a lane (kind 4) or module (kind 5), with CAPACITY at the link's users. -/
def trPrune (kind link sub count : Nat) (s : State) : State :=
  let ret := tabGet 0 s.trellis.returns (kind + link * 2 ^ 8 + sub * 2 ^ 24)
  forAll (linkUsers s link) (fun s q => raiseCapacity q s) (recordPrune kind link sub .laneErrors count ret s)

/-- A faulty lane of a module: repaired while redundant lanes last; then the module runs on the other half; a faulty lane of that
half switches it off. -/
def laneFails (m : TrModule) (lane count : Nat) (s : State) : State :=
  let base := laneCodeOf m.dir m.index 0
  let y := { m with faults := m.faults ++ [lane] }
  if m.width = 64 then
    if y.faults.length ≤ spareLanes then trPrune 4 m.link (base + lane) count (setModule y s)
    else trPrune 5 m.link base count (setModule { y with width := 32, upper := lane < 32 } s)
  else if m.width = 32 && decide (32 ≤ lane) = m.upper then
    let s1 := trPrune 5 m.link base count (setModule { y with width := 0 } s)
    let off := (List.range 4).all fun i => (moduleOf s1 m.link (laneCodeOf m.dir i 0)).width = 0
    if off then linkLost m.link s1 else s1
  else s

/-- TRELLIS_LANE_FAULT: a faulty lane is acted on outside HOLD; one of a link already lost, or already faulty, adds nothing. -/
def execTrellisLaneFault (link : Nat) (dir : Bool) (module_ : Nat) (lane : Nat) (s : State) : Out :=
  let code := laneCodeOf dir module_ lane
  let s1 := { s with trellis := { s.trellis with due := s.trellis.due.filter (· ≠ (link, code)) } }
  let m := moduleOf s link code
  .next (if holdActive s || !s.trellis.due.contains (link, code) then s
    else if s.trellis.lost.contains link || m.faults.contains lane || 64 ≤ lane || 4 ≤ module_ then s1
    else laneFails m lane (laneCount s link code) s1)

/-! ### Gardener cores (R336, R483) -/

/-- Three expiries within 1 s: the core is held in reset and pruned. -/
def holdCore (c : CoreIx) (s : State) : State :=
  let s1 := s.onCore c fun x => { x with held := true, restarting := false }
  let s2 := recordPrune 8 c.val 0 .watchdog 3 (s.core c).returns s1
  scaleShares (forAll (definedParts s) (fun s q => raiseCapacity q s) s2)

/-- WATCHDOG_EXPIRY: a counter that has not changed for the timeout resets its core alone. -/
def execWatchdogExpiry (c : CoreIx) (s : State) : Out :=
  let x := s.core c
  let recent := (x.expiries.filter fun t => (s.time - t).toNat < 1000000000) ++ [s.time]
  let s1 := s.onCore c fun x => { x with restarting := true, expiries := recent }
  .next (if !wdogOn s || x.held || x.restarting || s.image.boot ≠ .done || (s.time - x.seenAt).toNat < 1000000 * wdogMs s then s
    else if 3 ≤ recent.length then holdCore c s1 else s1)

/-- CORE_RESTART_DONE: the core runs again from shed SRAM, and its timeout starts anew. -/
def execCoreRestartDone (c : CoreIx) (s : State) : Out :=
  .next (if (s.core c).restarting then s.onCore c fun x => { x with restarting := false, seen := x.beat, seenAt := s.time } else s)

/-! ### Fault windows (R473) -/

/-- Nanoseconds of an hour. -/
def hourNs : Nat := 3600000000000

/-- FAULT_WINDOW_ROLLOVER: an hour, or with `day` a day, of the time counter since reset release has ended. -/
def execFaultWindowRollover (day : Bool) (s : State) : Out :=
  .next (if day then
      if (s.time - s.alm.dayAt).toNat < 24 * hourNs then s
      else { s with
        alm := { s.alm with dayAt := s.alm.dayAt + BitVec.ofNat 64 (24 * hourNs) }
        plots := s.plots.map fun x => { x with win := { x.win with fault := 0 } }
        cis := s.cis.map fun x => { x with chans := x.chans.map fun k => { k with dayUe := 0 } } }
    else if (s.time - s.alm.hourAt).toNat < hourNs then s
    else { s with
      alm := { s.alm with hourAt := s.alm.hourAt + BitVec.ofNat 64 hourNs }
      plots := s.plots.map fun x => { x with win := { x.win with bankCe := [], mismatch := 0 } }
      cis := s.cis.map fun x => { x with chans := x.chans.map fun k => { k with hourCe := 0 } } })

end Sys2Proof.Machine
end

