-- ==== Sys2Proof/Machine/Irq.lean ====
section
/-! DEFINITION. MSI-X messages: the five conditions, the budget of a partition, masks, and the clearing of causes (R304 to R306,
R317, R369). -/

namespace Sys2Proof.Machine

open Host

/-- IMG_IRQ_MIN_US of a function; PF0 has no spacing of its own. -/
def irqMinNs (s : State) (f : FnIx) : Nat :=
  match fnPart f with
  | some q => 1000 * (s.part q).img.irqMinUs
  | none => 0

/-- Condition 1: a cause bit is set, and enough events or enough time since the first of them. -/
def irqDue (s : State) (f : FnIx) (v : VecIx) : Bool :=
  let e := (s.func f).vecs[v]
  (s.func f).cause.getLsbD v.val && 0 < e.events &&
    (max 1 e.modCount.toNat ≤ e.events || 1000 * e.modTime.toNat ≤ (s.time - e.firstAt).toNat)

/-- Condition 2: the spacing since the vector's last message. -/
def irqSpaced (s : State) (f : FnIx) (v : VecIx) : Bool :=
  match ((s.func f).vecs[v]).lastAt with
  | some t => decide (irqMinNs s f ≤ (s.time - t).toNat)
  | none => true

/-- Condition 3: the budget; PF0 is outside every partition's budget. -/
def irqBudget (s : State) (f : FnIx) : Bool := (fnPart f).isNone || 0 < (s.func f).budget

/-- Condition 4: neither the vector's mask bit nor the Function Mask is set. -/
def irqOpen (s : State) (f : FnIx) (v : VecIx) : Bool := !((s.func f).vecs[v]).mask && !(s.func f).fnMask

/-- All conditions but the budget. -/
def irqReady (s : State) (f : FnIx) (v : VecIx) : Bool :=
  irqDue s f v && irqSpaced s f v && irqOpen s f v && !causesHeld s f

/-- The Pending Bit of a vector: a message is held by a mask alone. -/
def irqPending (s : State) (f : FnIx) (v : VecIx) : Bool :=
  irqDue s f v && irqSpaced s f v && irqBudget s f && !irqOpen s f v && !causesHeld s f

/-- A message leaves: a posted write of the vector's data to its address. -/
def sendMsix (f : FnIx) (v : VecIx) (s : State) : State :=
  let e := (s.func f).vecs[v]
  let s1 := hostWrite e.addr.toNat (bytesOf 4 e.data.toNat) s
  s1.onFunc f fun x =>
    { x with
      sent := satAdd x.sent 1
      budget := x.budget - 1
      vecs := x.vecs.set v.val { e with events := 0, lastAt := some s.time, late := false } v.isLt }

/-- A vector that is ready sends, or is delayed by the budget, which is counted once. -/
def tryMsix (f : FnIx) (v : VecIx) (s : State) : State :=
  if !irqReady s f v then s
  else if irqBudget s f then sendMsix f v s
  else
    let e := (s.func f).vecs[v]
    if e.late then s
    else s.onFunc f fun x =>
      { x with throttled := satAdd x.throttled 1, vecs := x.vecs.set v.val { e with late := true } v.isLt }

/-- The vectors of a function in ascending order. -/
def tryAll (f : FnIx) (s : State) : State := forAll (List.finRange 8) (fun s v => tryMsix f v s) s

/-- MSIX_MESSAGE. -/
def execMsixMessage (f : FnIx) (v : VecIx) (s : State) : Out := .next (tryMsix f v s)

/-- IRQ_MODERATION_TIMEOUT: TIME or the spacing of a vector has run out; the message that waited for it is sent. -/
def execIrqModerationTimeout (f : FnIx) (v : VecIx) (s : State) : Out := .next (tryMsix f v s)

/-- IRQ_BUDGET_REFILL: at each ms of the time counter the budget is IMG_IRQ_RATE, and delayed messages go in ascending order. -/
def execIrqBudgetRefill (f : FnIx) (s : State) : Out :=
  .next (match fnPart f with
    | some q =>
      if s.time.toNat % 1000000 ≠ 0 then s
      else
        let s1 := s.onFunc f fun x => { x with budget := (s.part q).img.irqRate }
        forAll ((List.finRange 8).filter fun v => ((s.func f).vecs[v]).late) (fun s v => tryMsix f v s) s1
    | none => s)

/-- IRQ_CAUSE_CLEAR: ones written clear cause bits; the upper bits are reserved. -/
def execIrqCauseClear (f : FnIx) (w : Word) (s : State) : Out :=
  .next (s.onFunc f fun x => { x with cause := x.cause &&& ~~~(BitVec.ofNat 8 w.toNat) })

/-- FUNCTION_MASK_WRITE: clearing the mask releases the messages that it held. -/
def execFunctionMaskWrite (f : FnIx) (mask : Bool) (s : State) : Out :=
  let s1 := s.onFunc f fun x => { x with fnMask := mask }
  .next (if mask then s1 else tryAll f s1)

end Sys2Proof.Machine
end

