-- ==== Sys2Proof/Machine/Regs.lean ====
section
/-! DEFINITION. What the register blocks read as (R87 to R94, R122 to R125, R147 to R149, R173, R195, R209, R237 to R241, R257,
R274 to R277, R296 to R299, R316 to R319, R340 to R345, R367, R369 to R372, R387 to R390, R404, R421, R437, R456, R457, R472). -/

namespace Sys2Proof.Machine

open Host

/-! ### Layout -/

/-- A register word from its fields, width and value, lowest first. -/
def pack : List (Nat × Nat) → Nat
  | [] => 0
  | (w, v) :: t => v % 2 ^ w + 2 ^ w * pack t

/-- The index of an offset in an array of n registers from base on. -/
def arr (n base stride off : Nat) : Option (Fin n) :=
  if h : base ≤ off ∧ (off - base) % stride = 0 ∧ (off - base) / stride < n then some ⟨(off - base) / stride, h.2.2⟩ else none

/-- The first register of a list of arrays that holds the offset; offsets not listed read 0. -/
def firstReg (l : List (Option Nat)) : Nat := (l.findSome? id).getD 0

/-- The word of a 64-bit value at offset 0 or 4. -/
def half64 (v off : Nat) : Nat := bitsOf v (8 * off + 31) (8 * off)

/-- A 48-bit performance counter as its pair reads (R472). -/
def perfPair (c : Perf) : Nat := pack [(48, c.count.toNat), (15, 0), (1, c.ovf.toNat)]

/-! ### Plot block -/

/-- `PLT_STATUS`.STATE (R89). -/
def modeCode : PlotMode → Nat
  | .off => 0
  | .waking => 1
  | .idle => 2
  | .run => 3
  | .halted => 4
  | .reset => 5
  | .gating => 6
  | .pruned => 7

/-- A layer state as `PLT_WATCH_LAYER` and `BED_CTX_LAYER` read (R124, R298). -/
def layerWord (l : Layer) : Nat := pack [(16, l.id.toNat), (8, l.count.toNat), (2, l.rung.toNat), (1, l.wide.toNat)]

/-- The plot's own registers, R88 to R94. -/
def plotOwn (x : Plot) (p : PlotIx) (off : Nat) : Nat :=
  match off with
  | 0x000 => pack [(8, p.val), (4, p.val / 8), (3, p.val % 8)]
  | 0x004 => pack [(3, modeCode x.mode), (1, x.clkGated.toNat), (4, x.reduced.toNat), (8, x.haltCause.toNat)]
  | 0x008 => half64 x.era.toNat 0
  | 0x00C => half64 x.era.toNat 4
  | 0x010 => pack [(4, x.part.toNat), (1, x.unassigned.toNat)]
  | 0x014 => pack [(3, 0), (1, (x.reducedReq.getD x.reduced).toNat), (1, x.pgReq.toNat), (1, x.cgDis.toNat)]
  | 0x018 => pack [(16, x.lastTag.toNat), (8, x.lastOp.toNat), (8, x.lastStatus.toNat)]
  | 0x01C => x.faultAddr.toNat
  | 0x020 => half64 x.banks.toNat 0
  | 0x024 => half64 x.banks.toNat 4
  | 0x028 => pack [(16, x.err.ce.toNat), (16, x.err.ue.toNat)]
  | 0x02C => pack [(6, x.err.lastBank.toNat), (13, x.err.lastRow.toNat), (1, x.err.lastUe.toNat)]
  | 0x030 => pack [(16, x.err.mismatch.toNat), (16, x.err.fault.toNat)]
  | 0x034 => pack [(8, x.compute.queue.length), (6, x.move.queue.length)]
  | _ => 0

/-- Generator and table registers (R148, R149, R209). -/
def plotUnits (x : Plot) (off : Nat) : Nat :=
  match off with
  | 0x100 => x.rng.s0.toNat
  | 0x104 => x.rng.s1.toNat
  | 0x108 => x.rng.s2.toNat
  | 0x10C => x.rng.s3.toNat
  | 0x110 => x.rngClass.toNat
  | 0x118 => half64 x.rng.draws.toNat 0
  | 0x11C => half64 x.rng.draws.toNat 4
  | 0x240 => pack [(2, x.sfuDefault.toNat), (1, x.sfuOverride.toNat)]
  | 0x244 => pack [(16, x.err.sfuCe.toNat), (16, x.err.sfuUe.toNat)]
  | _ => firstReg
    [(arr 8 0x200 8 off).map fun i =>
      let t := x.sfu[i]
      pack [(1, t.valid.toNat), (2, t.kind.toNat), (4, t.inFmt.toNat), (4, t.outFmt.toNat), (9, t.nseg.toNat)],
     (arr 8 0x204 8 off).map fun i => (x.sfu[i]).func.toNat]

/-- Watch registers (R122 to R125). -/
def plotWatch (w : WatchRegs) (off : Nat) : Nat :=
  match off with
  | 0x300 => w.sat.toNat
  | 0x304 => w.range.toNat
  | 0x308 => w.nan.toNat
  | 0x30C => pack [(16, w.escalated.toNat), (16, w.unresolved.toNat)]
  | 0x310 => layerWord w.layer
  | 0x314 => pack [(3, w.exceeded.toNat), (2, w.fromRung.toNat), (2, w.toRung.toNat), (1, w.lastUnres.toNat), (24, w.tile.toNat)]
  | 0x318 => w.tile.toNat
  | 0x320 => half64 w.cyc.toNat 0
  | 0x324 => half64 w.cyc.toNat 4
  | _ => 0

/-- Performance counters, which read 0 while PERF_EN is 0 (R458, R472). -/
def plotPerf (x : Plot) (off : Nat) : Nat :=
  if off = 0x400 then pack ((List.finRange 4).map fun i => (8, (x.perfSel[i]).toNat))
  else firstReg
    [(arr 4 0x410 8 off).map fun i => half64 (perfPair x.perf[i]) 0,
     (arr 4 0x414 8 off).map fun i => half64 (perfPair x.perf[i]) 4]

/-- A plot's block (R87). -/
def plotReg (s : State) (p : PlotIx) (off : Nat) : Nat :=
  let x := s.plot p
  if off < 0x100 then plotOwn x p off
  else if off < 0x300 then plotUnits x off
  else if off < 0x400 then plotWatch x.watch off
  else if s.dev.perfEn then plotPerf x off
  else 0

/-! ### Bed block -/

/-- A drop counter as it reads (R297). -/
def dropWord (d : EpochDrop) : Nat := pack [(24, d.stale.toNat), (8, d.foreign.toNat)]

/-- A bed controller's block (R241, R296 to R298, R345). -/
def bedReg (s : State) (b : BedIx) (off : Nat) : Nat :=
  let x := s.bed b
  match off with
  | 0x040 => pack [(8, x.share.toNat), (9, x.mirror.length)]
  | 0x044 => dropWord x.drop
  | 0x048 => x.ctxSel.toNat
  | 0x04C => layerWord (s.plot (plotOf b x.ctxSel.toFin)).watch.layer
  | 0x050 => pack [(8, x.target.toNat), (8, x.current.toNat), (5, bedCeil s b)]
  | 0x054 => unsigned 32 x.energy
  | _ => firstReg [(arr 256 0x1000 4 off).map fun k => (bedEpoch s b k.val).toNat]

/-! ### Cistern block -/

/-- Partition ranges, shares, translation and directory (R238 to R240). -/
def cisMap (s : State) (x : Cistern) (off : Nat) : Nat :=
  match off with
  | 0x180 => if x.xltBusy.isSome then 2 ^ 31 else 0
  | 0x184 => pack [(16, x.xltMiss.toNat), (8, x.xltFault.toNat), (8, x.xltDropped.toNat)]
  | 0x300 => x.dir.ptr.toNat
  | 0x304 => pack [(16, x.dir.entries.length), (9, x.dir.queue.length)]
  | 0x308 => x.dir.reads.toNat
  | 0x30C => x.dir.owns.toNat
  | 0x310 => x.dir.recalls.toNat
  | 0x314 => pack [(16, x.dir.ties.toNat), (16, x.dir.external.toNat)]
  | 0x400 => pack [(16, x.mem.ce.toNat), (16, x.mem.chk.toNat)]
  | 0x404 => pack [(16, x.mem.ue.toNat), (16, x.mem.rate.toNat)]
  | 0x408 => half64 (pack [(40, x.mem.lastSector.toNat), (2, x.mem.lastCw.toNat), (1, x.mem.lastScrub.toNat), (1, x.mem.lastValid.toNat)]) 0
  | 0x40C => half64 (pack [(40, x.mem.lastSector.toNat), (2, x.mem.lastCw.toNat), (1, x.mem.lastScrub.toNat), (1, x.mem.lastValid.toNat)]) 4
  | 0x410 => pack [(8, s.dev.scrubPeriod.toNat), (8, x.mem.scrubPass.toNat)]
  | _ => firstReg
    [(arr 16 0x100 4 off).map fun q => pack [(8, (x.parts[q]).t2Base.toNat), (9, (x.parts[q]).t2Size.toNat)],
     (arr 16 0x140 4 off).map fun q => (x.parts[q]).quota.toNat,
     (arr 16 0x200 4 off).map fun q =>
       pack [(8, (x.parts[q]).lpddr.toNat), (8, (x.parts[q]).t2.toNat), (8, (x.parts[q]).carrier.toNat)],
     (arr 64 0x500 4 off).map fun k =>
       let y := x.chans[k]
       pack [(2, y.state.toNat), (8, y.linkCe.toNat), (8, y.ce.toNat), (8, y.ue.toNat)]]

/-- `CIS_HALO_LONG` as its pair reads (R195). -/
def haloLongPair (h : Halo) : Nat :=
  pack [(9, h.longTag.toNat), (4, h.longPart.toNat), (7, h.longPlot.toNat), (12, h.longValid.toNat), (16, h.longNeed.toNat),
    (16, h.longCurrent.toNat)]

/-- Halo registers, which C0 alone has (R195). -/
def cisHalo (h : Halo) (off : Nat) : Nat :=
  match off with
  | 0x880 => half64 (haloLongPair h) 0
  | 0x884 => half64 (haloLongPair h) 4
  | 0x890 => h.regress.toNat
  | _ => firstReg
    [(arr 16 0x800 8 off).map fun q => (h.stall[q]).toNat,
     (arr 16 0x804 8 off).map fun q => (h.time[q]).toNat,
     (arr 8192 0x8000 4 off).map fun i => (tabGet 0 h.tags i.val).toNat]

/-- Port j of a cistern (R391). -/
def cisPort (c : CisIx) (j : Fin 4) : PortIx := ⟨4 * c.val + j.val, by omega⟩

/-- BVL, time and collective registers (R404, R421). -/
def cisLink (s : State) (c : CisIx) (x : Cistern) (off : Nat) : Nat :=
  match off with
  | 0xA00 => pack [(16, s.dev.bvl.devId.toNat), (16, s.dev.bvl.etherType.toNat)]
  | 0xA04 => pack [(8, x.link.lateSent.toNat), (8, x.link.lateReceived.toNat), (8, x.link.lateReplayed.toNat), (8, x.link.lateIgnored.toNat)]
  | 0xA08 => pack [(16, x.link.unreach.toNat), (16, x.link.badFrame.toNat)]
  | 0xA10 => pack [(12, s.bvl.master.toNat), (1, s.bvl.synced.toNat), (1, s.bvl.holdover.toNat), (1, s.bvl.isMaster.toNat)]
  | 0xA14 => s.bvl.offset.toNat
  | 0xB00 =>
    let act := ((List.finRange 16).flatMap fun q => (s.part q).colls).filter fun o => o.started && collCis s (cdDst o.desc) 0 = c
    pack [(16, act.length), (16, x.link.collDone.toNat)]
  | 0xB04 => pack [(16, x.link.collTimeout.toNat), (16, x.link.collMismatch.toNat)]
  | 0xB08 => half64 x.link.collBytes.toNat 0
  | 0xB0C => half64 x.link.collBytes.toNat 4
  | _ => firstReg
    [(arr 4 0x2000 0x40 off).map fun j =>
       let y := s.bvl.ports[cisPort c j]
       pack [(3, y.state.toNat), (1, y.half.toNat), (8, y.laneBad.toNat), (4, y.trainFail.toNat)],
     (arr 4 0x2004 0x40 off).map fun j => pack [(16, (s.bvl.ports[cisPort c j]).fecCorr.toNat), (16, (s.bvl.ports[cisPort c j]).fecUncorr.toNat)],
     (arr 4 0x2008 0x40 off).map fun j => pack [(16, (s.bvl.ports[cisPort c j]).resent.toNat), (16, (s.bvl.ports[cisPort c j]).timeouts.toNat)],
     (arr 16 0xB40 4 off).map fun q => (x.parts[q]).gate.toNat]

/-- Performance counters of a cistern (R472). -/
def cisPerf (x : Cistern) (off : Nat) : Nat := firstReg
  [(arr 8 0xC00 4 off).map fun i => pack [(8, (x.perfSel[i]).event.toNat), (4, (x.perfSel[i]).part.toNat), (1, (x.perfSel[i]).all.toNat)],
   (arr 8 0xC40 8 off).map fun i => half64 (perfPair x.perf[i]) 0,
   (arr 8 0xC44 8 off).map fun i => half64 (perfPair x.perf[i]) 4]

/-- A cistern's block. -/
def cisReg (s : State) (c : CisIx) (off : Nat) : Nat :=
  let x := s.cistern c
  if off < 0x800 then cisMap s x off
  else if off < 0x900 || (0x8000 ≤ off && off < 0x10000) then (if c = 0 then cisHalo x.halo off else 0)
  else if off < 0xA00 then firstReg [(arr 16 0x900 4 off).map fun q => dropWord (x.parts[q]).drop]
  else if off < 0xC00 || (0x2000 ≤ off && off < 0x2100) then cisLink s c x off
  else if off < 0x1000 then (if s.dev.perfEn then cisPerf x off else 0)
  else firstReg [(arr 4096 0x10000 4 off).map fun i => (tabGet 0 x.epochs i.val).toNat]

/-! ### Almanac block -/

/-- `ALM_PLAN_CFG` (R275). -/
def planCfgWord (x : Part) : Nat :=
  pack [(8, x.img.rerun.toNat), (8, x.img.retry.toNat), (4, x.img.faultBeds.toNat), (2, x.img.passRetry.toNat)]
/-- `ALM_PLAN_EXP` (R275). -/
def planExpWord (x : Part) : Nat := pack [(8, x.img.exp1.toNat), (8, x.img.exp2.toNat), (8, x.img.exp3.toNat)]
/-- `ALM_PART_STAT` (R276). -/
def partStatWord (s : State) (q : PartIx) : Nat :=
  let x := s.part q
  pack [(3, x.adm.toNat), (5, x.fPlan.toNat), (9, (liveJobs s q).length), (5, bedsNow s q), (1, x.reserveUsed.toNat)]
/-- `ALM_PART_CFG` (R319). -/
def partCfgWord (x : Part) : Nat := pack [(16, x.img.beds.toNat), (8, x.img.t0Plots.toNat), (8, x.img.gtShare.toNat)]
/-- `ALM_PART_SHR` (R319). -/
def partShrWord (x : Part) : Nat :=
  pack [(3, x.img.encPipes), (3, x.img.decPipes), (8, min 255 x.img.bvlShare), (1, x.img.resetZero.toNat)]
/-- `ALM_PART_IRQ` (R319). -/
def partIrqWord (x : Part) : Nat := pack [(13, x.img.irqRate), (10, x.img.irqMinUs)]
/-- `ALM_RESETS` (R319). -/
def resetsWord (x : Part) : Nat := pack [(16, x.resets.toNat), (16, x.absorbed.toNat)]

/-- Walkers, admission, partitions, heartbeats and execution counters (R173, R274 to R277, R299, R316, R345). -/
def almParts (s : State) (off : Nat) : Nat :=
  match off with
  | 0x400 => half64 s.alm.walkDesc.toNat 0
  | 0x404 => half64 s.alm.walkDesc.toNat 4
  | 0x408 => s.alm.walkHole.toNat
  | 0x40C => pack [(16, s.alm.walkFault.toNat), (16, s.alm.walkWait.toNat)]
  | _ => firstReg
    [(arr 16 0x500 8 off).map fun q => planCfgWord (s.part q),
     (arr 16 0x504 8 off).map fun q => planExpWord (s.part q),
     (arr 16 0x580 4 off).map fun q => partStatWord s q,
     (arr 16 0x5C0 4 off).map fun q => (s.part q).img.slackDef.toNat,
     (arr 128 0x600 4 off).map fun i => ((s.part (Fin.ofNat 16 (i.val / 8))).counts[Fin.ofNat 8 i.val]).toNat,
     (arr 16 0x800 8 off).map fun q => partCfgWord (s.part q),
     (arr 16 0x804 8 off).map fun q => partShrWord (s.part q),
     (arr 16 0x880 4 off).map fun q => partIrqWord (s.part q),
     (arr 16 0x8C0 4 off).map fun q => resetsWord (s.part q),
     (arr 8 0x900 4 off).map fun c => (s.core c).beat.toNat,
     (arr 64 0xD00 4 off).map fun i => ((s.part (Fin.ofNat 16 (i.val / 4))).execs[Fin.ofNat 4 i.val]).toNat]

/-- Shadows of the codec die (R437). -/
def almCodec (x : Codec) (off : Nat) : Nat :=
  match off with
  | 0xA40 => pack [(8, x.ce.toNat), (8, x.ue.toNat), (8, x.bitstream.toNat), (8, x.unsupported.toNat)]
  | 0xA44 => pack [(16, x.recode.toNat), (16, x.viol.toNat)]
  | 0xA48 => x.clamp.toNat
  | 0xA4C => x.fw.toNat
  | _ => firstReg
    [(arr 8 0xA00 4 off).map fun i =>
       let y := x.pipes[i]
       pack [(2, y.state.toNat), (4, y.owner.toNat), (4, y.user.toNat), (1, y.lent.toNat), (1, y.paired.toNat), (5, y.ctx.toNat)],
     (arr 8 0xA20 4 off).map fun i => (x.pipes[i]).count.toNat]

/-- The level that the module gives a stake pin in its run function; none where it only listens or is at park level (R444,
R445). -/
def pinDrive (s : State) (i : Fin 8) : Option Bool :=
  if s.pins.pins[i] = .park then none
  else match i.val with
    | 0 => some true
    | 2 => if alertOn s then some false else none
    | 4 => some (match s.pins.syncAt with
      | some t => s.pins.syncOn && decide ((s.time - t).toNat < 1000)
      | none => false)
    | _ =>
      if h : 5 ≤ i.val then
        match (s.pins.fns[i.val - 5]).toNat with
        | 1 => some ((definedParts s).all fun q => (s.part q).adm = 0)
        | 2 => some (!holdActive s)
        | 3 => some (!(s.fence.safe || s.image.recovery))
        | 4 => some (s.fence.ceils.all fun c => c.therm = 24)
        | 5 => some (s.pins.gpioOut.getLsbD (i.val - 5))
        | 7 => some s.pins.beat
        | _ => none
      else none

/-- The level of a stake pin: the module's where it drives, else the board's. -/
def pinLevel (s : State) (i : Fin 8) : Bool := (pinDrive s i).getD (s.pins.levels.getLsbD i.val)

/-- `MGT` and `STK` registers from their base on (R456, R457). -/
def mgtReg (s : State) (off : Nat) : Nat :=
  let x := s.pins
  match off with
  | 0x04 => pack [(16, x.spiPartial.toNat), (8, x.spiOverrun.toNat), (8, x.spiRefused.toNat)]
  | 0x08 => pack [(16, x.spiResult.toNat), (16, x.spiFrames.toNat)]
  | 0x20 => pack [(2, x.phase.toNat), (4, x.straps.toNat)]
  | 0x24 => pack [(8, (x.fns[0]).toNat), (8, (x.fns[1]).toNat), (8, (x.fns[2]).toNat), (1, x.syncOn.toNat)]
  | 0x28 => pack ((8, x.gpioOut.toNat) :: (List.finRange 8).map fun i => (1, (pinLevel s i).toNat))
  | 0x2C => pack [(16, x.div.toNat), (8, x.framing.toNat), (8, x.overflow.toNat)]
  | _ => 0

/-- Trace control of a partition at an offset from its base (R472). -/
def traceReg (t : Trace) (off : Nat) : Nat :=
  match off with
  | 0x00 => pack [(1, t.on.toNat), (1, t.wrap.toNat), (1, t.full.toNat), (1, t.half.toNat)]
  | 0x04 => t.pages.toNat
  | 0x08 => half64 (t.base.toNat / 65536 * 65536) 0
  | 0x0C => half64 t.base.toNat 4
  | 0x10 => t.wptr.toNat
  | 0x14 => t.lost.toNat
  | 0x18 => t.seq.toNat
  | _ => 0

/-- `TRC_CUT` (R472). -/
def cutWord (c : Cutting) : Nat := pack [(3, c.state.toNat), (1, c.trunc.toNat), (16, c.pieces.toNat)]

/-- The Almanac's block. -/
def almReg (s : State) (off : Nat) : Nat :=
  if off < 0xA00 then almParts s off
  else if off < 0xB00 then almCodec s.codec off
  else if 0xC00 ≤ off && off < 0xD00 then mgtReg s (off - 0xC00)
  else if off < 0x1000 then almParts s off
  else if off < 0x1200 then (if s.dev.traceEn then traceReg (s.part (Fin.ofNat 16 ((off - 0x1000) / 0x20))).trace (off % 0x20) else 0)
  else if s.dev.cuttingEn then
    firstReg [(arr 256 0x1200 4 off).map fun i => cutWord (s.part (Fin.ofNat 16 (i.val / 16))).cuts[Fin.ofNat 16 i.val]]
  else 0

/-! ### Image block and Fence block -/

/-- The image registers (R367). -/
def imgReg (s : State) (off : Nat) : Nat :=
  let x := s.image
  match off with
  | 0x000 => pack [(2, x.copy.toNat), (1, x.debugOn.toNat), (1, x.forced.toNat), (1, x.monitorStrap.toNat), (1, x.safeBoot.toNat), (3, x.stage.toNat)]
  | 0x004 => x.gen.toNat
  | 0x008 => half64 x.digest.toNat 0
  | 0x00C => half64 x.digest.toNat 4
  | 0x010 => pack [(8, x.aReason.toNat), (8, x.bReason.toNat)]
  | 0x014 => pack [(1, x.sector.toNat), (12, if logOpen s then slotsFree s else 0), (1, x.rotating.toNat)]
  | 0x018 => x.seq.toNat
  | 0x01C => pack [(16, x.torn.toNat), (16, x.conflict.toNat)]
  | _ => 0

/-- `FNC_STATUS` (R342). -/
def fncStatus (s : State) : Nat :=
  let x := s.fence
  pack [(3, x.mode.toNat), (1, (x.ceils.any fun c => c.therm ≠ 24).toNat), (1, (x.ceils.any fun c => c.cap ≠ 24).toNat),
    (1, (pinActive s && pinStep s < 24).toNat), (1, (alertOn s).toNat), (1, (lockstepRecent s).toNat), (4, x.safeCause.toNat)]

/-- `FNC_CEIL` of a bed (R342). -/
def ceilWord (s : State) (b : BedIx) : Nat :=
  let c := s.fence.ceils[b]
  pack [(5, bedCeil s b), (5, c.therm.toNat), (5, c.cap.toNat), (1, (pinActive s).toNat), (1, s.fence.safe.toNat)]

/-- The Fence block (R340 to R344). -/
def fenceReg (s : State) (off : Nat) : Nat :=
  let x := s.fence
  match off with
  | 0x000 => fncStatus s
  | 0x004 => triVal x.regs.cap
  | 0x008 => triVal x.regs.base
  | 0x050 => triVal x.regs.therm
  | 0x054 => pack ((11, triVal x.regs.wdog) :: (List.finRange 8).map fun c => (1, (s.core c).held.toNat))
  | 0x058 => triVal x.regs.linkEn
  | 0x0A0 => triVal x.regs.pinStep
  | 0x0A4 => pack [(16, x.repaired.toNat), (16, x.lockstep.toNat)]
  | 0x0A8 => pack [(16, x.foreign.toNat), (4, x.foreignSrc.toNat)]
  | 0x0AC => x.foreignAddr.toNat
  | 0x0B0 => x.resetCause.toNat
  | 0x100 => half64 x.energy.toNat 0
  | 0x104 => half64 x.energy.toNat 4
  | 0x108 => x.power.toNat
  | 0x10C => unsigned 32 x.bal
  | 0x190 => pack [(16, x.hold.toNat), (16, x.holdLong.toNat)]
  | 0x194 => x.holdUs.toNat
  | 0x198 => pack [(8, x.tempMax.toNat), (8, x.tempSensor.toNat)]
  | _ => firstReg
    [(arr 16 0x010 4 off).map fun q => shareW s q,
     (arr 16 0x060 4 off).map fun b => ceilWord s b,
     (arr 16 0x110 8 off).map fun q => unsigned 32 (s.part q).bal,
     (arr 16 0x114 8 off).map fun q => (s.part q).mw.toNat]

/-! ### BAR0 of a function -/

/-- The partition view of a VF from 0x4000 on (R371). -/
def viewReg (s : State) (q : PartIx) (off : Nat) : Nat :=
  let x := s.part q
  match off with
  | 0x000 => partStatWord s q
  | 0x004 => planCfgWord x
  | 0x008 => planExpWord x
  | 0x00C => x.img.slackDef.toNat
  | 0x010 => partCfgWord x
  | 0x014 => partShrWord x
  | 0x018 => partIrqWord x
  | 0x01C => resetsWord x
  | 0x050 => unsigned 32 x.bal
  | 0x054 => x.mw.toNat
  | 0x058 => shareW s q
  | 0x05C => fncStatus s
  | 0x060 => s.fence.power.toNat
  | _ => firstReg
    [(arr 8 0x020 4 off).map fun i => (x.counts[i]).toNat,
     (arr 4 0x040 4 off).map fun i => (x.execs[i]).toNat]

/-- Registers of a queue pair at an offset from its base (R389). -/
def qpReg (x : Qp) (off : Nat) : Nat :=
  match off with
  | 0x00 => half64 (x.sqBase.toNat / 4096 * 4096) 0
  | 0x04 => half64 x.sqBase.toNat 4
  | 0x08 => half64 (x.cqBase.toNat / 4096 * 4096) 0
  | 0x0C => half64 x.cqBase.toNat 4
  | 0x10 => pack [(8, x.sqLog.toNat), (5, x.cqLog.toNat)]
  | 0x14 => pack [(1, x.en.toNat), (1, x.resumeSeq.toNat)]
  | 0x18 => x.ssnInit.toNat
  | 0x1C => x.csnInit.toNat
  | 0x20 => x.nextSsn.toNat
  | 0x24 => x.lastCsn.toNat
  | 0x28 => x.consumed.toNat
  | 0x2C => pack [(2, x.state.toNat), (1, x.stall.toNat), (13, x.err.toNat), (16, x.dbDrop.toNat)]
  | _ => 0

/-- A word of an MSI-X table entry (R369): address, data, and the mask bit of the vector control. -/
def msixWord (v : Vec) (off : Nat) : Nat :=
  match off with
  | 0x0 => half64 v.addr.toNat 0
  | 0x4 => half64 v.addr.toNat 4
  | 0x8 => v.data.toNat
  | 0xC => v.mask.toNat
  | _ => 0

/-- Identification, log and interrupt registers (R317, R318, R387). -/
def fnOwn (s : State) (f : FnIx) (off : Nat) : Nat :=
  let x := s.func f
  match off with
  | 0x0000 => pack [(8, f.val), (8, Config.revision.toNat), (2, s.image.order512.toNat)]
  | 0x0008 => half64 s.time.toNat 0
  | 0x000C => half64 s.time.toNat 4
  | 0x0010 => pack [(16, x.accCount.toNat), (2, x.accKind.toNat), (2, x.accBar.toNat)]
  | 0x0014 => x.accOffset.toNat
  | 0x0400 => x.cause.toNat
  | 0x0440 =>
    match fnPart f with
    | some q => pack [(3, (s.part q).adm.toNat), (1, (s.part q).resetDone.toNat), (1, (s.part q).zeroing.toNat), (4, q.val)]
    | none => 0
  | 0x0444 => pack [(16, x.sent.toNat), (16, x.throttled.toNat)]
  | 0x3800 => pack ((List.finRange 8).map fun v => (1, (irqPending s f v).toNat))
  | _ => firstReg [(arr 8 0x0410 4 off).map fun v => pack [(8, (x.vecs[v]).modCount.toNat), (16, (x.vecs[v]).modTime.toNat)]]

/-- PF0's device registers (R388). -/
def pf0Own (s : State) (off : Nat) : Nat :=
  match off with
  | 0x0020 => pack [(3, s.fence.mode.toNat), (1, s.image.recovery.toNat), (4, s.pf0.lastPart.toNat), (5, s.dev.partCount)]
  | 0x0024 => pack [(4, s.pf0.reportCause.toNat), (1, s.pf0.jobsLost.toNat)]
  | 0x0028 => s.image.boots.toNat
  | 0x0030 => pack [(8, s.pf0.winBlock.toNat), (2, s.pf0.winPage.toNat)]
  | _ => 0

/-- BAR0 of a function below the block window (R369). -/
def fnReg (s : State) (f : FnIx) (off : Nat) : Nat :=
  if 0x0020 ≤ off && off < 0x0040 then (if (fnPart f).isNone then pf0Own s off else 0)
  else if 0x1000 ≤ off && off < 0x1100 then qpReg (qpOf s f (Fin.ofNat 4 ((off - 0x1000) / 0x40))) (off % 0x40)
  else if 0x3000 ≤ off && off < 0x3080 then msixWord ((s.func f).vecs[Fin.ofNat 8 ((off - 0x3000) / 16)]) (off % 16)
  else if 0x4000 ≤ off && off < 0x4100 then
    match fnPart f with
    | some q => viewReg s q (off - 0x4000)
    | none => 0
  else fnOwn s f off

/-! ### Blocks -/

/-- What the 32-bit register at an offset of a block holds. The mailbox registers lie above the Fence block (R390). -/
def regRead (s : State) (b : Block) (off : Nat) : Nat :=
  match b with
  | .plot p => plotReg s p off
  | .bed x => bedReg s x off
  | .cistern c => cisReg s c off
  | .almanac => almReg s off
  | .image => imgReg s off
  | .vf q => fnReg s (vfOf q) off
  | .pf0 => fnReg s pf0Fn off
  | .fence => fenceReg s off

/-- The mailbox registers and its buffer at an offset of BAR4 (R390). -/
def mbxReg (s : State) (off : Nat) : Nat :=
  if off = 0x1004 then s.pf0.mbxArg.toNat
  else if off = 0x1008 then pack [(4, s.pf0.mbxBusy.toNat), (12, s.pf0.mbxResult.toNat), (16, s.pf0.mbxLen.toNat)]
  else if 0x2000 ≤ off && off < 0x3000 then natOf (tabRead 0 s.pf0.mbxData (off - 0x2000) 4)
  else 0

/-! ### 64-bit registers and latches (R372) -/

/-- The low halves of the 64-bit registers of a block. -/
def isWide (b : Block) (off : Nat) : Bool :=
  match b with
  | .plot _ => [0x008, 0x020, 0x118, 0x320, 0x410, 0x418, 0x420, 0x428].contains off
  | .bed _ => false
  | .cistern c => off == 0x408 || off == 0xB08 || (c == 0 && off == 0x880) || (arr 8 0xC40 8 off).isSome
  | .almanac => off == 0x400 || (arr 16 0x1008 0x20 off).isSome
  | .image => off == 0x008
  | .vf _ => off == 0x0008 || (arr 4 0x1000 0x40 off).isSome || (arr 4 0x1008 0x40 off).isSome
  | .pf0 => off == 0x0008 || (arr 4 0x1000 0x40 off).isSome || (arr 4 0x1008 0x40 off).isSome
  | .fence => off == 0x100

/-- A key for each register of each block. -/
def latchKey (b : Block) (off : Nat) : Nat :=
  off + 0x100000 * (match b with
    | .plot p => p.val
    | .bed x => 128 + x.val
    | .cistern c => 144 + c.val
    | .almanac => 146
    | .image => 147
    | .vf q => 148 + q.val
    | .pf0 => 164
    | .fence => 165)

/-- The latches after a read of bytes in [off, off + n): a low half among them latches its high half. -/
def latchRead (s : State) (b : Block) (off : Nat) (t : Tab Word) : Tab Word :=
  let lo := off / 4 * 4
  if isWide b lo then tabSet 0 t (latchKey b lo) (BitVec.ofNat 32 (regRead s b (lo + 4))) else t

/-- What a reader with these latches reads: the high half of a 64-bit register comes from its latch. -/
def latchedRead (s : State) (t : Tab Word) (b : Block) (off : Nat) : Nat :=
  if 4 ≤ off && isWide b (off - 4) then (tabGet 0 t (latchKey b (off - 4))).toNat else regRead s b off

/-- An access that R372 drops: misaligned (1) or oversize (2). -/
def badAccess (off len : Nat) : Option (BitVec 2) :=
  if 8 < len then some 2
  else if 8 < off % 8 + len || (len == 2 && off % 2 == 1) then some 1
  else none

/-- A function exists: PF0, or a VF that SR-IOV enables (R302). -/
def fnExists (s : State) (f : FnIx) : Bool :=
  match fnPart f with
  | some q => vfExists s q
  | none => true

/-- Where a function reaches a block: BAR and offset. PF0 sees the block that HST_WIN selects through its window, on the selected
page, and the Fence block through BAR4 (R370). -/
def hostPlace (s : State) (f : FnIx) (b : Block) (off : Nat) : Option (BitVec 2 × BitVec 16) :=
  let own := if off < 0x10000 then some ((0 : BitVec 2), BitVec.ofNat 16 off) else none
  let win (code x : Nat) : Option (BitVec 2 × BitVec 16) :=
    if f = pf0Fn && s.pf0.winBlock.toNat = code && s.pf0.winPage.toNat = x / 0x8000 then some (0, BitVec.ofNat 16 (0x8000 + x % 0x8000))
    else none
  match b with
  | .plot p => if off < 0x1000 then win (p.val / 8) (0x1000 * (p.val % 8) + off) else none
  | .bed x => if off < 0x8000 then win (0x10 + x.val) off else none
  | .cistern c => if off < 0x18000 then win (0x20 + c.val) off else none
  | .almanac => if off < 0x8000 then win 0x30 off else none
  | .image => if off < 0x8000 then win 0x31 off else none
  | .vf q => if f = vfOf q then own else if off < 0x10000 then win (0x40 + q.val) off else none
  | .pf0 => if f = pf0Fn then own else none
  | .fence => if f = pf0Fn && off < 0x1000 then some (2, BitVec.ofNat 16 off) else none

/-- LOW_HALF_READ: a read of bytes in the low half of a 64-bit register latches its high half for the reader. A misaligned or
oversize read of a function is dropped and logged. -/
def execLowHalfRead (r : RegReader) (b : Block) (offset len : Nat) (s : State) : Out :=
  .next (match r with
    | .core =>
      if (badAccess offset len).isSome then s
      else { s with alm := { s.alm with latch := latchRead s b offset s.alm.latch } }
    | .host f =>
      match hostPlace s f b offset with
      | none => s
      | some (bar, o) =>
        if !fnExists s f then s
        else match badAccess offset len with
          | some k => logAccess f k bar o s
          | none => s.onFunc f fun x => { x with latch := latchRead s b offset x.latch })

/-- WINDOW_SELECT: a write of HST_WIN. -/
def execWindowSelect (block : BitVec 8) (page : BitVec 2) (s : State) : Out :=
  .next { s with pf0 := { s.pf0 with winBlock := block, winPage := page } }

/-- ATS_INVALIDATION: every DMA of the function to the range is over, because each command's DMA ends within the command. A
function that does not exist has none. -/
def execAtsInvalidation (f : FnIx) (_addr _len : DWord) (s : State) : Out :=
  .next (if fnExists s f then s.onFunc f fun x => { x with atsDone := x.atsDone + 1 } else s)

end Sys2Proof.Machine
end

