-- ==== Sys2Proof/Machine/Lamtoad.lean ====
section
/-! DEFINITION. The Lamtoad monitor's lines: their syntax, the replies, and the order in which lines from the mailbox and the UART
are served (R448, R459, R460). The wording of a reply, but for its last line, is the model's own. -/

namespace Sys2Proof.Machine

open Host

/-! ### Text -/

/-- The characters of a text. -/
def txt (x : String) : List Byte := x.toList.map fun c => BitVec.ofNat 8 c.toNat

/-- A letter in upper case. -/
def upper (b : Byte) : Byte := if 0x61 ≤ b.toNat ∧ b.toNat ≤ 0x7A then b - 32 else b

/-- The words of a line, in upper case, behind a word begun. -/
def wordsFrom : List Byte → List Byte → List (List Byte)
  | [], cur => if cur.isEmpty then [] else [cur]
  | b :: t, cur => if b = 32 then (if cur.isEmpty then wordsFrom t [] else cur :: wordsFrom t []) else wordsFrom t (cur ++ [upper b])

/-- The value of a digit. -/
def digitOf (base : Nat) (b : Byte) : Option Nat :=
  let n := b.toNat
  let v := if 48 ≤ n ∧ n ≤ 57 then n - 48 else if 65 ≤ n ∧ n ≤ 70 then n - 55 else 16
  if v < base then some v else none

/-- The value of digits behind a value. -/
def digitsFrom (base : Nat) : List Byte → Nat → Option Nat
  | [], a => some a
  | b :: t, a => (digitOf base b).bind fun v => digitsFrom base t (a * base + v)

/-- A number: decimal, or hexadecimal behind 0x. -/
def number : List Byte → Option Nat
  | [] => none
  | [b] => digitsFrom 10 [b] 0
  | [a, b] => digitsFrom 10 [a, b] 0
  | a :: b :: t => if a = 0x30 && b = 0x58 then digitsFrom 16 t 0 else digitsFrom 10 (a :: b :: t) 0

/-- Words that are all numbers. -/
def numbers (l : List (List Byte)) : Option (List Nat) := l.mapM number

/-- A digit of a reply. -/
def hexChar (n : Nat) : Byte := BitVec.ofNat 8 (if n < 10 then 48 + n else 55 + n)

/-- The last n hexadecimal digits of a value. -/
def hexN : Nat → Nat → List Byte
  | 0, _ => []
  | n + 1, v => hexN n (v / 16) ++ [hexChar (v % 16)]

/-- A value in a reply. -/
def hexWord (n v : Nat) : List Byte := txt " 0x" ++ hexN n v

/-! ### Lines (R459, R460) -/

/-- Names behind ERR. -/
inductive MonErr where
  | badLine | range | access | busy | disabled | quota | deadline | state
deriving DecidableEq, Repr

/-- The name of an error. -/
def errName : MonErr → List Byte
  | .badLine => txt "SYNTAX"
  | .range => txt "RANGE"
  | .access => txt "ACCESS"
  | .busy => txt "BUSY"
  | .disabled => txt "DISABLED"
  | .quota => txt "QUOTA"
  | .deadline => txt "DEADLINE"
  | .state => txt "STATE"

/-- A command of a partition. -/
def forPart (n : Nat) (f : PartIx → Instr) : Except MonErr Instr := if h : n < 16 then .ok (f ⟨n, h⟩) else .error .range

/-- TRACE p START base size [WRAP]; p STOP; p STATUS. -/
def parseTrace (p : Nat) (sub : List Byte) (rest : List (List Byte)) : Except MonErr Instr :=
  if sub = txt "STOP" && rest.isEmpty then forPart p .traceStop
  else if sub = txt "STATUS" && rest.isEmpty then forPart p .traceStatus
  else if sub = txt "START" then
    let wrap := rest.getLast? = some (txt "WRAP")
    match numbers (if wrap then rest.dropLast else rest) with
    | some [base, size] => if base < 2 ^ 64 then forPart p fun q => .traceStart q (BitVec.ofNat 64 base) size wrap else .error .range
    | _ => .error .badLine
  else .error .badLine

/-- CUT p ARM job layer oper pass base size; p LIST; p GET c offset len; p DROP c. What a capture costs comes with the command. -/
def parseCut (p : Nat) (sub : List Byte) (rest : List (List Byte)) : Except MonErr Instr :=
  if sub = txt "ARM" then
    match numbers rest with
    | some [job, layer, oper, pass, base, size] =>
      if job < 2 ^ 32 && layer < 65536 && oper < 65536 && base < 2 ^ 64 then
        forPart p fun q =>
          .cutArm q (BitVec.ofNat 32 job) (BitVec.ofNat 16 layer) (BitVec.ofNat 16 oper) pass (BitVec.ofNat 64 base) size 0 0
      else .error .range
    | _ => .error .badLine
  else if sub = txt "LIST" then (if rest.isEmpty then forPart p .cutList else .error .badLine)
  else if sub = txt "GET" then
    match numbers rest with
    | some [c, off, len] => forPart p fun q => .cutGet q c off len
    | _ => .error .badLine
  else if sub = txt "DROP" then
    match numbers rest with
    | some [c] => forPart p fun q => .cutDrop q c
    | _ => .error .badLine
  else .error .badLine

/-- PERF unit counter event [p]; PERF CLEAR unit. -/
def parsePerf (args : List (List Byte)) : Except MonErr Instr :=
  if args.head? = some (txt "CLEAR") then
    match numbers args.tail with
    | some [u] => .ok (.perfClear u)
    | _ => .error .badLine
  else match numbers args with
    | some [u, c, e] => if e < 256 then .ok (.perfSelect u c (BitVec.ofNat 8 e) none) else .error .range
    | some [u, c, e, p] => if e < 256 then forPart p fun q => .perfSelect u c (BitVec.ofNat 8 e) (some q) else .error .range
    | _ => .error .badLine

/-- The commands with numbers alone. -/
def parsePlain (k : List Byte) (args : List Nat) : Except MonErr Instr :=
  if k = txt "HELP" && args.isEmpty then .ok .monitorHelp
  else if k = txt "STATUS" && args.isEmpty then .ok .monitorStatus
  else if k = txt "TIME" && args.isEmpty then .ok .monitorTime
  else if k = txt "GAUGE" && args.isEmpty then .ok .monitorGauge
  else if k = txt "LOG" then
    match args with
    | [] => .ok (.monitorLog 16)
    | [n] => .ok (.monitorLog n)
    | _ => .error .badLine
  else if k = txt "RD" then
    match args with
    | [b, o] => .ok (.monitorRd b o 1)
    | [b, o, n] => .ok (.monitorRd b o n)
    | _ => .error .badLine
  else if k = txt "WR" then
    match args with
    | [b, o, v] => if v < 2 ^ 32 then .ok (.monitorWr b o (BitVec.ofNat 32 v)) else .error .range
    | _ => .error .badLine
  else if k = txt "TEST" then
    match args with
    | [p, t] => if t < 256 then .ok (.monitorTest p (BitVec.ofNat 8 t) none) else .error .range
    | _ => .error .badLine
  else if k = txt "BAUD" then
    match args with
    | [d] => .ok (.monitorBaud d)
    | _ => .error .badLine
  else .error .badLine

/-- The command that a line names. A line runs to its CR or LF and has at most 255 characters. -/
def parseLine (l : List Byte) : Except MonErr Instr :=
  let body := l.takeWhile fun b => b != 13 && b != 10
  if 255 < body.length then .error .badLine
  else match wordsFrom body [] with
    | [] => .error .badLine
    | k :: args =>
      if k = txt "PERF" then parsePerf args
      else if k = txt "TRACE" || k = txt "CUT" then
        match args with
        | p :: sub :: rest =>
          match number p with
          | some n => if k = txt "CUT" then parseCut n sub rest else parseTrace n sub rest
          | none => .error .badLine
        | _ => .error .badLine
      else match numbers args with
        | some ns => parsePlain k ns
        | none => .error .badLine

/-! ### Replies -/

/-- Lines that fit, whole, into so many characters. -/
def fitLines (room : Nat) : List (List Byte) → List (List Byte)
  | [] => []
  | l :: t => if l.length ≤ room then l :: fitLines (room - l.length) t else []

/-- The lines of a reply, each with its CR LF and the last line behind them. -/
def replyLines (body : List (List Byte)) (e : Option MonErr) : List (List Byte) :=
  (body ++ [match e with
    | none => txt "OK"
    | some x => txt "ERR " ++ errName x]).map fun l => l ++ [13, 10]

/-- A mailbox reply beyond 4,096 bytes is cut at the last whole line that fits, and ends with ERR RANGE. -/
def mailboxReply (ls : List (List Byte)) : List Byte :=
  if ls.flatten.length ≤ 4096 then ls.flatten else (fitLines (4096 - 11) ls).flatten ++ txt "ERR RANGE" ++ [13, 10]

/-- The reply goes back the way the line came; a new rate of the UART holds from its end on. -/
def sendReply (mbx : Bool) (body : List (List Byte)) (e : Option MonErr) (s : State) : State :=
  let ls := replyLines body e
  let s1 := if mbx then
      let bs := mailboxReply ls
      { s with pf0 := { s.pf0 with mbxData := tabWrite 0 s.pf0.mbxData 0 bs, mbxLen := BitVec.ofNat 16 bs.length } }
    else { s with pins := { s.pins with uartOut := s.pins.uartOut ++ ls.flatten } }
  match s1.pins.divNext with
  | some d => { s1 with pins := { s1.pins with div := d, divNext := none } }
  | none => s1

/-! ### The order of service -/

/-- A character reaches the monitor: it is echoed, and CR or LF ends the line. -/
def takeChar (ch : Byte) (s : State) : State :=
  let s1 := { s with pins := { s.pins with uartOut := s.pins.uartOut ++ [ch] } }
  if ch = 13 || ch = 10 then
    if s.pins.uartLine.isEmpty then s1
    else { s1 with
      pins := { s1.pins with uartLine := [] }
      monitor := { s1.monitor with lines := s1.monitor.lines ++ [(false, s.pins.uartLine)] } }
  else { s1 with pins := { s1.pins with uartLine := (s.pins.uartLine ++ [ch]).take 256 } }

/-- The monitor goes on until a line that names a command is at the front: it answers lines that name none, and takes waiting
characters. -/
def monitorTurn : Nat → State → State
  | 0, s => s
  | n + 1, s =>
    match s.monitor.lines, s.pins.fifo with
    | (mbx, l) :: rest, _ =>
      match parseLine l with
      | .ok _ => s
      | .error e => monitorTurn n (sendReply mbx [] (some e) { s with monitor := { s.monitor with lines := rest } })
    | [], c :: t => monitorTurn n (takeChar c { s with pins := { s.pins with fifo := t } })
    | [], [] => s

/-- Turns that the waiting lines and characters can take. -/
def turns (s : State) : Nat := s.monitor.lines.length + 2 * s.pins.fifo.length + 1

/-- The monitor looks at what waits. -/
def monitorGoes (s : State) : State := monitorTurn (turns s) s

/-- What a command answers: its lines and, where it fails, the name of the error. -/
abbrev Reply := List (List Byte) × Option MonErr

/-- The line at the front names the command: it runs, its reply is sent, and the next line comes to the front. -/
def serve (c : Instr) (act : State → State × Reply) (s : State) : State :=
  match s.monitor.lines with
  | (mbx, l) :: rest =>
    match parseLine l with
    | .ok i =>
      if i = c then
        let (s1, r) := act { s with monitor := { s.monitor with lines := rest } }
        monitorGoes (sendReply mbx r.1 r.2 s1)
      else s
    | .error _ => s
  | [] => s

end Sys2Proof.Machine
end

