-- ==== Sys2Proof/Machine/Mailbox.lean ====
section
/-! DEFINITION. The PF0 mailbox (R356, R385, R390). -/

namespace Sys2Proof.Machine

open Host

/-- A write of HST_MBX_CMD starts a command; while one runs it is dropped and logged. -/
def startMailbox (op : MbxOp) (s : State) : State :=
  if s.pf0.mbxBusy then logAccess pf0Fn 0 2 0x1000 s else { s with pf0 := { s.pf0 with mbxBusy := true, mbxOp := op } }

/-- A write to a copy is refused: it is the copy in use, or the device is in recovery mode after a boot that chose a copy
(R356). -/
def copyRefused (s : State) (c : Fin 2) : Bool := s.image.copy.toNat = c.val || (s.image.recovery && s.image.copy ≠ 2)

/-- An image operation of any kind is refused in recovery mode after a boot that chose a copy (R385). -/
def checkRefused (s : State) : Bool := s.image.recovery && s.image.copy ≠ 2

/-- A line of `len` bytes of the buffer goes to the monitor. -/
def giveLine (len : Nat) (s : State) : State :=
  monitorGoes { s with monitor := { s.monitor with lines := s.monitor.lines ++ [(true, tabRead 0 s.pf0.mbxData 0 (min len 4096))] } }

/-- Length and offset of an IMAGE_WRITE: multiples of 256, at most 4,096 bytes, inside the image range (R347, R385). -/
def imageWriteBad (off len : Nat) : Bool := len % 256 ≠ 0 || off % 256 ≠ 0 || 4096 < len || imageRange < off + len

/-- MAILBOX_MONITOR: OP 1. -/
def execMailboxMonitor (len : BitVec 16) (s : State) : Out :=
  .next (if s.pf0.mbxBusy then startMailbox .monitor s else giveLine len.toNat (startMailbox .monitor s))

/-- IMAGE_ERASE: OP 2. The range is erased from the start on; an interrupted erase leaves no valid copy. -/
def execImageErase (copy : Fin 2) (s : State) : Out :=
  .next (let refused := copyRefused s copy
    let s1 := startMailbox (.erase copy refused) s
    if s.pf0.mbxBusy || refused then s1 else flashErase copy 0 imageRange s1)

/-- IMAGE_WRITE: OP 3, programs bytes of the buffer at HST_MBX_ARG. -/
def execImageWrite (copy : Fin 2) (len : BitVec 16) (s : State) : Out :=
  .next (let off := s.pf0.mbxArg.toNat
    let result : BitVec 4 := if copyRefused s copy then 1 else if imageWriteBad off len.toNat then 3 else 0
    let s1 := startMailbox (.write copy off len.toNat result) s
    if s.pf0.mbxBusy || result ≠ 0 then s1 else flashProgram copy off (tabRead 0 s.pf0.mbxData 0 len.toNat) s1)

/-- IMAGE_CHECK: OP 4. -/
def execImageCheck (copy : Fin 2) (s : State) : Out := .next (startMailbox (.check copy (checkRefused s)) s)

/-- The running command ends: BUSY clears, RESULT and RESP_LEN stand, and PF0 vector 7 is raised. -/
def endMailbox (result : BitVec 4) (len : Nat) (s : State) : State :=
  raiseEvent pf0Fn 7 { s with pf0 := { s.pf0 with mbxBusy := false, mbxOp := .none, mbxResult := result, mbxLen := BitVec.ofNat 16 len } }

/-- A failed erase or program leaves bytes that nothing names. -/
def flashUnknown (d : Fin 2) (a n : Nat) (s : State) : State :=
  let s1 := onFlash d (fun t => tabWrite 0xFF t a ((List.range n).map fun i => Config.freeByte (s.fresh + i))) s
  { s1 with fresh := s1.fresh + n }

/-- MAILBOX_COMPLETE. A MONITOR command ends once its line has been served; the reply stands in the buffer. A flash error of
IMAGE_CHECK is a failed read of the copy, code 8. -/
def execMailboxComplete (flashErr : Bool) (s : State) : Out :=
  .next (match s.pf0.mbxOp with
    | .none => s
    | .monitor => if s.monitor.lines.any (·.1) then s else endMailbox 0 s.pf0.mbxLen.toNat s
    | .erase c refused =>
      if refused then endMailbox 1 0 s
      else if flashErr then endMailbox 2 0 (flashUnknown c 0 imageRange s)
      else endMailbox 0 0 s
    | .write c off len result =>
      if result ≠ 0 then endMailbox result 0 s
      else if flashErr then endMailbox 2 0 (flashUnknown c off len s)
      else endMailbox 0 0 s
    | .check c refused =>
      if refused then endMailbox 1 0 s
      else endMailbox 0 (imageReason s c (if flashErr then BitVec.ofNat 2 (2 ^ c.val) else 0)) s)

end Sys2Proof.Machine
end

