-- ==== Sys2Proof/Machine/RegWrite.lean ====
section
/-! DEFINITION. Register writes by gardener cores and through the BARs: byte enables, access codes, triggers and dropped accesses
(R9, R87, R92, R335, R372, R381, R389, R390). -/

namespace Sys2Proof.Machine

open Host

/-- The state that a command leaves. -/
def after (o : Out) (s : State) : State :=
  match o with
  | .next t => t
  | _ => s

/-! ### Byte enables (R9, R372) -/

/-- The words that an access of `len` bytes at `off` writes: offset, byte enables and data, in ascending order. -/
def wordsOf (off len data : Nat) : List (Nat × Nat × Nat) :=
  let en := (2 ^ len - 1) * 2 ^ (off % 8)
  let v := data * 2 ^ (8 * (off % 8))
  [(off / 8 * 8, en % 16, v % 2 ^ 32), (off / 8 * 8 + 4, en / 16 % 16, v / 2 ^ 32 % 2 ^ 32)].filter fun w => w.2.1 ≠ 0

/-- A register's value with the enabled bytes replaced. -/
def mergeWord (old be d : Nat) : Nat :=
  natOf ((List.range 4).map fun i => BitVec.ofNat 8 ((if be.testBit i then d else old) / 256 ^ i))

/-- A register of RW fields with the enabled bytes replaced. -/
def mergeBits {w : Nat} (old : BitVec w) (be d : Nat) : BitVec w := BitVec.ofNat w (mergeWord old.toNat be d)

/-- One half of a 64-bit RW register with the enabled bytes replaced. -/
def mergeHalf (old : DWord) (hi : Bool) (be d : Nat) : DWord :=
  if hi then BitVec.ofNat 64 (mergeWord (old.toNat / 2 ^ 32) be d * 2 ^ 32 + old.toNat % 2 ^ 32)
  else BitVec.ofNat 64 (old.toNat / 2 ^ 32 * 2 ^ 32 + mergeWord (old.toNat % 2 ^ 32) be d)

/-- An RSC field [hi:lo] of a register: cleared when one of its bytes is enabled. -/
def wipe {w : Nat} (be hi lo : Nat) (x : BitVec w) : BitVec w := if bitsOf be (hi / 8) (lo / 8) = 0 then x else 0

/-- A one written to a W1C bit in an enabled byte. -/
def oneAt (be d bit : Nat) : Bool := be.testBit (bit / 8) && d.testBit bit

/-! ### Plot block -/

/-- A write of `PLT_CTL`: a plot reset goes before a flush, a flush before a resume (R92). -/
def writeCtl (p : PlotIx) (d : Nat) (s : State) : State :=
  let rw := BitVec.ofNat 3 (d / 8)
  if d.testBit 2 then after (execPlotReset p rw s) s
  else if d.testBit 0 then after (execPlotFlush p (d.testBit 1) rw s) s
  else if d.testBit 1 then after (execPlotResume p rw s) s
  else after (execReducedRequest p rw s) s

/-- A select field names an event of R470; undefined codes read back as 0. -/
def eventCode (top v : Nat) : BitVec 8 := BitVec.ofNat 8 (if v ≤ top then v else 0)

/-- A write of `PLT_PERF_SEL`: each enabled byte selects an event and clears its counter (R469). -/
def writePerfSel (be d : Nat) (x : Plot) : Plot :=
  let hit (i : Fin 4) : Bool := be.testBit i.val
  { x with
    perfSel := Vector.ofFn fun i => bif hit i then eventCode 8 (d / 256 ^ i.val % 256) else x.perfSel[i]
    perf := Vector.ofFn fun i => bif hit i then Perf.reset else x.perf[i] }

/-- A write to the high half of a performance counter clears its bits [47:32]. -/
def wipeHigh (be : Nat) (c : Perf) : Perf := if bitsOf be 1 0 = 0 then c else { c with count := BitVec.ofNat 48 (c.count.toNat % 2 ^ 32) }

/-- A change of one performance counter of a plot. -/
def onPerf (i : Fin 4) (f : Perf → Perf) (x : Plot) : Plot := { x with perf := x.perf.set i.val (f x.perf[i]) i.isLt }

/-- Writes to the plot's performance counters, ignored while PERF_EN is 0. -/
def writePlotPerf (off be d : Nat) (x : Plot) : Plot :=
  if off = 0x400 then writePerfSel be d x
  else match arr 4 0x410 8 off, arr 4 0x414 8 off with
    | some i, _ => onPerf i (fun _ => Perf.reset) x
    | none, some i => onPerf i (wipeHigh be) x
    | none, none => x

/-- Error counters, generator and Watch counters of a plot. -/
def writePlotReg (off be d : Nat) (x : Plot) : Plot :=
  match off with
  | 0x028 => { x with err := { x.err with ce := wipe be 15 0 x.err.ce, ue := wipe be 31 16 x.err.ue } }
  | 0x030 => { x with err := { x.err with mismatch := wipe be 15 0 x.err.mismatch, fault := wipe be 31 16 x.err.fault } }
  | 0x100 => { x with rng := { x.rng with staged0 := some (mergeBits (x.rng.staged0.getD x.rng.s0) be d) } }
  | 0x104 => { x with rng := { x.rng with staged1 := some (mergeBits (x.rng.staged1.getD x.rng.s1) be d) } }
  | 0x108 => { x with rng := { x.rng with staged2 := some (mergeBits (x.rng.staged2.getD x.rng.s2) be d) } }
  | 0x10C => { x with rng := { x.rng with load := some (mergeBits (x.rng.load.getD x.rng.s3) be d) } }
  | 0x118 => { x with rng := { x.rng with draws := 0 } }
  | 0x11C => { x with rng := { x.rng with draws := 0 } }
  | 0x244 => { x with err := { x.err with sfuCe := wipe be 15 0 x.err.sfuCe, sfuUe := wipe be 31 16 x.err.sfuUe } }
  | 0x300 => { x with watch := { x.watch with sat := 0 } }
  | 0x304 => { x with watch := { x.watch with range := 0 } }
  | 0x308 => { x with watch := { x.watch with nan := 0 } }
  | 0x30C => { x with watch := { x.watch with
      escalated := wipe be 15 0 x.watch.escalated
      unresolved := wipe be 31 16 x.watch.unresolved } }
  | 0x320 => { x with watch := { x.watch with cyc := 0 } }
  | 0x324 => { x with watch := { x.watch with cyc := 0 } }
  | _ => x

/-- A gardener core's write to a plot's block. A narrow write of `PLT_CTL` is dropped. -/
def writePlot (p : PlotIx) (off be d : Nat) (s : State) : State :=
  if off = 0x014 then (if be = 15 then writeCtl p d s else s)
  else if off < 0x400 then s.onPlot p (writePlotReg off be d)
  else if s.dev.perfEn then s.onPlot p (writePlotPerf off be d)
  else s

/-! ### Bed and cistern blocks -/

/-- A drop counter after a write. -/
def wipeDrop (be : Nat) (d : EpochDrop) : EpochDrop := { stale := wipe be 23 0 d.stale, foreign := wipe be 31 24 d.foreign }

/-- A gardener core's write to a bed controller. A narrow write of `BED_CTX_LAYER` is dropped. -/
def writeBed (b : BedIx) (off be d : Nat) (s : State) : State :=
  match off with
  | 0x044 => s.onBed b fun x => { x with drop := wipeDrop be x.drop }
  | 0x048 => s.onBed b fun x => { x with ctxSel := mergeBits x.ctxSel be d }
  | 0x04C => if be = 15 then after (execLayerStateLoad b (BitVec.ofNat 32 d) s) s else s
  | 0x050 => if be.testBit 0 then setTarget b (BitVec.ofNat 5 d) s else s
  | _ =>
    match arr 256 0x1000 4 off with
    | some k => s.onBed b fun x => { x with epochs := tabSet 0 x.epochs k.val (mergeBits (tabGet 0 x.epochs k.val) be d) }
    | none => s

/-- Memory-error registers, translation status and directory counters after a write. -/
def writeCisMap (off be d : Nat) (x : Cistern) : Cistern :=
  match off with
  | 0x184 => { x with
      xltMiss := wipe be 15 0 x.xltMiss
      xltFault := wipe be 23 16 x.xltFault
      xltDropped := wipe be 31 24 x.xltDropped }
  | 0x308 => { x with dir := { x.dir with reads := 0 } }
  | 0x30C => { x with dir := { x.dir with owns := 0 } }
  | 0x310 => { x with dir := { x.dir with recalls := 0 } }
  | 0x314 => { x with dir := { x.dir with ties := wipe be 15 0 x.dir.ties, external := wipe be 31 16 x.dir.external } }
  | 0x400 => { x with mem := { x.mem with ce := wipe be 15 0 x.mem.ce, chk := wipe be 31 16 x.mem.chk } }
  | 0x404 => { x with mem := { x.mem with ue := wipe be 15 0 x.mem.ue, rate := wipe be 31 16 x.mem.rate } }
  | 0x40C => { x with mem := { x.mem with lastValid := x.mem.lastValid && !oneAt be d 11 } }
  | _ =>
    match arr 64 0x500 4 off with
    | some k =>
      let y := x.chans[k]
      let z := { y with linkCe := wipe be 9 2 y.linkCe, ce := wipe be 17 10 y.ce, ue := wipe be 25 18 y.ue }
      { x with chans := x.chans.set k.val z k.isLt }
    | none => x

/-- Halo registers of C0 after a write. -/
def writeHalo (off be d : Nat) (h : Halo) : Halo :=
  match off with
  | 0x880 => { h with longValid := h.longValid && !oneAt be d 20 }
  | 0x890 => { h with regress := 0 }
  | _ =>
    match arr 16 0x800 8 off, arr 16 0x804 8 off, arr 8192 0x8000 4 off with
    | some q, _, _ => { h with stall := h.stall.set q.val 0 q.isLt }
    | _, some q, _ => { h with time := h.time.set q.val 0 q.isLt }
    | _, _, some i => { h with tags := tabSet 0 h.tags i.val (mergeBits (tabGet 0 h.tags i.val) be d) }
    | _, _, _ => h

/-- Counters of the BVL and of the collectives in a cistern after a write. -/
def writeCisLink (off be : Nat) (x : Cistern) : Cistern :=
  match off with
  | 0xA04 => { x with link := { x.link with
      lateSent := wipe be 7 0 x.link.lateSent
      lateReceived := wipe be 15 8 x.link.lateReceived
      lateReplayed := wipe be 23 16 x.link.lateReplayed
      lateIgnored := wipe be 31 24 x.link.lateIgnored } }
  | 0xA08 => { x with link := { x.link with unreach := wipe be 15 0 x.link.unreach, badFrame := wipe be 31 16 x.link.badFrame } }
  | 0xB00 => { x with link := { x.link with collDone := wipe be 31 16 x.link.collDone } }
  | 0xB04 => { x with link := { x.link with
      collTimeout := wipe be 15 0 x.link.collTimeout
      collMismatch := wipe be 31 16 x.link.collMismatch } }
  | 0xB08 => { x with link := { x.link with collBytes := 0 } }
  | 0xB0C => { x with link := { x.link with collBytes := 0 } }
  | _ =>
    match arr 16 0xB40 4 off with
    | some q => { x with parts := x.parts.set q.val { x.parts[q] with gate := 0 } q.isLt }
    | none => x

/-- Counters of a port at an offset from its base after a write. -/
def writePort (off be : Nat) (x : Port) : Port :=
  match off with
  | 0x0 => { x with trainFail := wipe be 15 12 x.trainFail }
  | 0x4 => { x with fecCorr := wipe be 15 0 x.fecCorr, fecUncorr := wipe be 31 16 x.fecUncorr }
  | 0x8 => { x with resent := wipe be 15 0 x.resent, timeouts := wipe be 31 16 x.timeouts }
  | _ => x

/-- A cistern's performance registers after a write; a write of a select field clears its counter. -/
def writeCisPerf (off be d : Nat) (x : Cistern) : Cistern :=
  match arr 8 0xC00 4 off, arr 8 0xC40 8 off, arr 8 0xC44 8 off with
  | some i, _, _ =>
    let e := x.perfSel[i]
    let w := mergeWord (pack [(8, e.event.toNat), (4, e.part.toNat), (1, e.all.toNat)]) be d
    { x with
      perfSel := x.perfSel.set i.val { event := eventCode 0xA (w % 256), part := BitVec.ofNat 4 (w / 256), all := w.testBit 12 } i.isLt
      perf := x.perf.set i.val Perf.reset i.isLt }
  | _, some i, _ => { x with perf := x.perf.set i.val Perf.reset i.isLt }
  | _, _, some i => { x with perf := x.perf.set i.val (wipeHigh be x.perf[i]) i.isLt }
  | _, _, _ => x

/-- A gardener core's write to a cistern. A narrow write of `CIS_XLT_INV` is dropped. -/
def writeCis (c : CisIx) (off be d : Nat) (s : State) : State :=
  if off = 0x180 then (if be = 15 then after (execXltInvalidate c (BitVec.ofNat 32 d) s) s else s)
  else if off < 0x800 then s.onCis c (writeCisMap off be d)
  else if off < 0x900 || (0x8000 ≤ off && off < 0x10000) then
    (if c = 0 then s.onCis c fun x => { x with halo := writeHalo off be d x.halo } else s)
  else if off < 0xA00 then
    match arr 16 0x900 4 off with
    | some q => s.onCis c fun x => { x with parts := x.parts.set q.val { x.parts[q] with drop := wipeDrop be (x.parts[q]).drop } q.isLt }
    | none => s
  else if off < 0xC00 then s.onCis c (writeCisLink off be)
  else if off < 0x1000 then (if s.dev.perfEn then s.onCis c (writeCisPerf off be d) else s)
  else if off < 0x2100 then
    (if 0x2000 ≤ off then onPort (cisPort c (Fin.ofNat 4 ((off - 0x2000) / 0x40))) (writePort (off % 0x40) be) s else s)
  else
    match arr 4096 0x10000 4 off with
    | some i => s.onCis c fun x => { x with epochs := tabSet 0 x.epochs i.val (mergeBits (tabGet 0 x.epochs i.val) be d) }
    | none => s

/-! ### Almanac and image blocks -/

/-- Trace control after a write (R472). -/
def writeTrace (off be d : Nat) (t : Trace) : Trace :=
  match off with
  | 0x00 =>
    { t with
      on := if be.testBit 0 then d.testBit 0 else t.on
      wrap := if be.testBit 0 then d.testBit 1 else t.wrap
      half := t.half && !oneAt be d 3 }
  | 0x04 => { t with pages := mergeBits t.pages be d }
  | 0x08 => { t with base := mergeHalf t.base false be d }
  | 0x0C => { t with base := mergeHalf t.base true be d }
  | 0x14 => { t with lost := 0 }
  | _ => t

/-- Codec counters after a write (R437). -/
def writeCodec (off be : Nat) (x : Codec) : Codec :=
  match off with
  | 0xA40 => { x with
      ce := wipe be 7 0 x.ce
      ue := wipe be 15 8 x.ue
      bitstream := wipe be 23 16 x.bitstream
      unsupported := wipe be 31 24 x.unsupported }
  | 0xA44 => { x with recode := wipe be 15 0 x.recode, viol := wipe be 31 16 x.viol }
  | 0xA48 => { x with clamp := 0 }
  | _ =>
    match arr 8 0xA20 4 off with
    | some i => { x with pipes := x.pipes.set i.val { x.pipes[i] with count := 0 } i.isLt }
    | none => x

/-- Counters of the partitions, walkers and heartbeats after a write. -/
def writeAlmParts (off be d : Nat) (s : State) : State :=
  match off with
  | 0x400 => { s with alm := { s.alm with walkDesc := 0 } }
  | 0x404 => { s with alm := { s.alm with walkDesc := 0 } }
  | 0x408 => { s with alm := { s.alm with walkHole := 0 } }
  | 0x40C => { s with alm := { s.alm with walkFault := wipe be 15 0 s.alm.walkFault, walkWait := wipe be 31 16 s.alm.walkWait } }
  | _ =>
    match arr 128 0x600 4 off, arr 16 0x8C0 4 off, arr 8 0x900 4 off, arr 64 0xD00 4 off with
    | some i, _, _, _ =>
      let k : Fin 8 := Fin.ofNat 8 i.val
      s.onPart (Fin.ofNat 16 (i.val / 8)) fun x => { x with counts := x.counts.set k.val 0 k.isLt }
    | _, some q, _, _ => s.onPart q fun x => { x with resets := wipe be 15 0 x.resets, absorbed := wipe be 31 16 x.absorbed }
    | _, _, some c, _ => s.onCore c fun x => { x with beat := mergeBits x.beat be d }
    | _, _, _, some i =>
      let k : Fin 4 := Fin.ofNat 4 i.val
      s.onPart (Fin.ofNat 16 (i.val / 4)) fun x => { x with execs := x.execs.set k.val 0 k.isLt }
    | _, _, _, _ => s

/-- The stake-pin registers after a gardener core's write (R457). -/
def writeStk (off be d : Nat) (x : Pins) : Pins :=
  match off with
  | 0xC28 => { x with gpioOut := mergeBits x.gpioOut be d }
  | 0xC2C => { x with framing := wipe be 23 16 x.framing, overflow := wipe be 31 24 x.overflow }
  | _ => x

/-- A gardener core's write to the Almanac. -/
def writeAlm (off be d : Nat) (s : State) : State :=
  if 0xA00 ≤ off && off < 0xB00 then { s with codec := writeCodec off be s.codec }
  else if 0xC00 ≤ off && off < 0xD00 then { s with pins := writeStk off be d s.pins }
  else if off < 0x1000 then writeAlmParts off be d s
  else if off < 0x1200 && s.dev.traceEn then
    s.onPart (Fin.ofNat 16 ((off - 0x1000) / 0x20)) fun x => { x with trace := writeTrace (off % 0x20) be d x.trace }
  else s

/-- A gardener core's write to the image block (R367). -/
def writeImg (off be : Nat) (s : State) : State :=
  if off = 0x01C then
    { s with image := { s.image with torn := wipe be 15 0 s.image.torn, conflict := wipe be 31 16 s.image.conflict } }
  else s

/-- A gardener core writes one word of a block. The HST registers are written by their functions alone. -/
def writeWord (b : Block) (s : State) (w : Nat × Nat × Nat) : State :=
  match b with
  | .plot p => writePlot p w.1 w.2.1 w.2.2 s
  | .bed x => writeBed x w.1 w.2.1 w.2.2 s
  | .cistern c => writeCis c w.1 w.2.1 w.2.2 s
  | .almanac => writeAlm w.1 w.2.1 w.2.2 s
  | .image => writeImg w.1 w.2.1 s
  | .vf _ => s
  | .pf0 => s
  | .fence => s

/-- A gardener core's write: to the Fence block a foreign write, and elsewhere by the access codes. -/
def coreWrite (b : Block) (off len : Nat) (data : DWord) (s : State) : State :=
  if b = .fence then foreignWrite 1 (BitVec.ofNat 16 off) s
  else if (badAccess off len).isSome then s
  else (wordsOf off len data.toNat).foldl (writeWord b) s

/-! ### Through the BARs (R372) -/

/-- A write of `HST_QP_CTL` (R382). -/
def writeQpCtl (f : FnIx) (i : QpIx) (d : Nat) (s : State) : State :=
  if !d.testBit 0 then after (execQpDetach f i s) s
  else if d.testBit 1 then after (execQpResumeAttach f i s) s
  else after (execQpAttach f i s) s

/-- The base, size and INIT registers of a pair that is not ACTIVE, and its drop counter. -/
def writeQpReg (off be d : Nat) (x : Qp) : Qp :=
  if off = 0x2C then { x with dbDrop := wipe be 31 16 x.dbDrop }
  else if x.state = 1 then x
  else match off with
    | 0x00 => { x with sqBase := mergeHalf x.sqBase false be d }
    | 0x04 => { x with sqBase := mergeHalf x.sqBase true be d }
    | 0x08 => { x with cqBase := mergeHalf x.cqBase false be d }
    | 0x0C => { x with cqBase := mergeHalf x.cqBase true be d }
    | 0x10 => { x with sqLog := mergeBits x.sqLog be d, cqLog := if be.testBit 1 then BitVec.ofNat 5 (d / 256) else x.cqLog }
    | 0x18 => { x with ssnInit := mergeBits x.ssnInit be d }
    | 0x1C => { x with csnInit := mergeBits x.csnInit be d }
    | _ => x

/-- A write to a word of an MSI-X table entry. -/
def writeMsix (off be d : Nat) (v : Vec) : Vec :=
  match off with
  | 0x0 => { v with addr := mergeHalf v.addr false be d }
  | 0x4 => { v with addr := mergeHalf v.addr true be d }
  | 0x8 => { v with data := mergeBits v.data be d }
  | 0xC => if be.testBit 0 then { v with mask := d.testBit 0 } else v
  | _ => v

/-- PF0's own registers (R388). -/
def writePf0 (off be d : Nat) (s : State) : State :=
  match off with
  | 0x0024 => { s with pf0 := { s.pf0 with jobsLost := s.pf0.jobsLost && !oneAt be d 4 } }
  | 0x0030 => { s with pf0 := { s.pf0 with
      winBlock := mergeBits s.pf0.winBlock be d
      winPage := if be.testBit 1 then BitVec.ofNat 2 (d / 256) else s.pf0.winPage } }
  | _ => s

/-- Log, interrupt and moderation registers of a function (R317, R387). -/
def writeFnOwn (f : FnIx) (off be d : Nat) (s : State) : State :=
  match off with
  | 0x0010 => s.onFunc f fun x => { x with accCount := wipe be 15 0 x.accCount }
  | 0x0444 => s.onFunc f fun x => { x with sent := wipe be 15 0 x.sent, throttled := wipe be 31 16 x.throttled }
  | _ =>
    match arr 8 0x0410 4 off with
    | some v => s.onFunc f fun x =>
      let e := x.vecs[v]
      let w := mergeWord (pack [(8, e.modCount.toNat), (16, e.modTime.toNat)]) be d
      { x with vecs := x.vecs.set v.val { e with modCount := BitVec.ofNat 8 w, modTime := BitVec.ofNat 16 (w / 256) } v.isLt }
    | none => s

/-- A function's write of a word of its BAR0. Narrow writes of triggers are dropped and logged; the block window and the partition
view ignore writes. -/
def writeBar0 (f : FnIx) (s : State) (w : Nat × Nat × Nat) : State :=
  let off := w.1
  let be := w.2.1
  let d := w.2.2
  if off = 0x0400 then
    (if be = 15 then after (execIrqCauseClear f (BitVec.ofNat 32 d) s) s else logAccess f 0 0 (BitVec.ofNat 16 off) s)
  else if 0x0020 ≤ off && off < 0x0040 then (if (fnPart f).isNone then writePf0 off be d s else s)
  else if 0x1000 ≤ off && off < 0x1100 then
    let i : QpIx := Fin.ofNat 4 ((off - 0x1000) / 0x40)
    if off % 0x40 = 0x14 then (if be = 15 then writeQpCtl f i d s else logAccess f 0 0 (BitVec.ofNat 16 off) s)
    else onQp f i (writeQpReg (off % 0x40) be d) s
  else if 0x3000 ≤ off && off < 0x3080 then
    let v : VecIx := Fin.ofNat 8 ((off - 0x3000) / 16)
    tryMsix f v (s.onFunc f fun x => { x with vecs := x.vecs.set v.val (writeMsix (off % 16) be d x.vecs[v]) v.isLt })
  else writeFnOwn f off be d s

/-- A function's write of a word of its doorbells (R381). -/
def writeBar2 (f : FnIx) (s : State) (w : Nat × Nat × Nat) : State :=
  if 0x20 ≤ w.1 then s
  else if w.2.1 ≠ 15 then logAccess f 0 1 (BitVec.ofNat 16 w.1) s
  else
    let i : QpIx := Fin.ofNat 4 (w.1 / 8)
    if w.1 % 8 = 0 then after (execSqDoorbell f i (BitVec.ofNat 32 w.2.2) s) s
    else after (execCqDoorbell f i (BitVec.ofNat 32 w.2.2) s) s

/-- A write of `HST_MBX_CMD` (R390); an OP that R385 does not name starts nothing. -/
def writeMbxCmd (d : Nat) (s : State) : State :=
  let c : Fin 2 := Fin.ofNat 2 (d / 256)
  let len := BitVec.ofNat 16 (d / 65536)
  match d % 256 with
  | 1 => after (execMailboxMonitor len s) s
  | 2 => after (execImageErase c s) s
  | 3 => after (execImageWrite c len s) s
  | 4 => after (execImageCheck c s) s
  | _ => if s.pf0.mbxBusy then logAccess pf0Fn 0 2 0x1000 s else s

/-- PF0's write of a word of BAR4 above the Fence block. -/
def writeBar4 (s : State) (w : Nat × Nat × Nat) : State :=
  if w.1 = 0x1000 then (if w.2.1 = 15 then writeMbxCmd w.2.2 s else logAccess pf0Fn 0 2 0x1000 s)
  else if w.1 = 0x1004 then { s with pf0 := { s.pf0 with mbxArg := mergeBits s.pf0.mbxArg w.2.1 w.2.2 } }
  else if 0x2000 ≤ w.1 && w.1 < 0x3000 then
    let old := natOf (tabRead 0 s.pf0.mbxData (w.1 - 0x2000) 4)
    { s with pf0 := { s.pf0 with mbxData := tabWrite 0 s.pf0.mbxData (w.1 - 0x2000) (bytesOf 4 (mergeWord old w.2.1 w.2.2)) } }
  else s

/-- A write of a function through one of its BARs. Every write below 0x1000 of BAR4 is a foreign write and logged. -/
def busWrite (w : BusWrite) (s : State) : State :=
  let off := w.offset.toNat
  let bar := BitVec.ofNat 2 w.bar.val
  if !fnExists s w.fn || (w.bar = 2 && w.fn ≠ pf0Fn) then s
  else if w.bar = 2 && off < 0x1000 then after (execForeignWrite (.host w.fn) w.offset (BitVec.ofNat 32 w.data.toNat) s) s
  else match badAccess off w.len with
    | some k => logAccess w.fn k bar w.offset s
    | none =>
      let l := wordsOf off w.len w.data.toNat
      match w.bar with
      | 0 => l.foldl (writeBar0 w.fn) s
      | 1 => l.foldl (writeBar2 w.fn) s
      | 2 => l.foldl writeBar4 s

/-- REGISTER_WRITE. -/
def execRegisterWrite (w : RegWrite) (s : State) : Out :=
  .next (match w with
    | .core b off len data => coreWrite b off len data s
    | .bus x => busWrite x s)

end Sys2Proof.Machine
end

