-- ==== Sys2Proof/Machine/Media.lean ====
section
/-! DEFINITION. The codec die: streams, pipes and loans, the pixel converter, the refresh index, and the outcomes of a FRAME (R310,
R373, R422 to R437, R462). What the standards' own coding makes of a picture comes with the command. -/

namespace Sys2Proof.Machine

open Host

/-! ### Parameters (R428) -/

/-- A field of a stream's parameter block. -/
def spFld (x : StreamParams) (off hi lo : Nat) : Nat := fld x.params off hi lo
/-- Bits of a sample of the output. -/
def spDepth (x : StreamParams) : Nat := if spFld x 0 2 2 = 1 then 10 else 8
/-- GIR_FRAMES. -/
def spGir (x : StreamParams) : Nat := spFld x 0x10 31 16
/-- KEY_PERIOD. -/
def spKey (x : StreamParams) : Nat := spFld x 0x14 15 0
/-- INDEX_ADDR. -/
def spIndexAddr (x : StreamParams) : Nat := spFld x 0x20 63 0
/-- INDEX_LEN. -/
def spIndexLen (x : StreamParams) : Nat := spFld x 0x28 31 0
/-- The stream needs a pair of pipes (R425). -/
def spPair (x : StreamParams) : Bool := needsPair x.width x.height

/-- The stream lies beyond R422, R424 or R425. -/
def spBeyond (x : StreamParams) : Bool :=
  x.width = 0 || x.height = 0 || 8192 < x.width || 4320 < x.height || (x.encode && (x.width % 8 ≠ 0 || x.height % 8 ≠ 0)) ||
    (spPair x && !x.encode && x.tileCols < 2)

/-! ### The pixel converter (R433, R434) -/

/-- K_R and K_B. -/
def lumaCoef (bt2020 : Bool) : Rat × Rat := if bt2020 then (2627 / 10000, 593 / 10000) else (2126 / 10000, 722 / 10000)

/-- Y', C'b and C'r of a pixel. -/
def toYcc (bt2020 : Bool) (r g b : Rat) : Rat × Rat × Rat :=
  let (kr, kb) := lumaCoef bt2020
  let y := kr * r + (1 - kr - kb) * g + kb * b
  (y, (b - y) / (2 * (1 - kb)), (r - y) / (2 * (1 - kr)))

/-- R', G' and B' of a pixel. -/
def toRgb (bt2020 : Bool) (y cb cr : Rat) : Rat × Rat × Rat :=
  let (kr, kb) := lumaCoef bt2020
  let r := y + 2 * (1 - kr) * cr
  let b := y + 2 * (1 - kb) * cb
  (r, (y - kr * r - kb * b) / (1 - kr - kb), b)

/-- Scale and offset of luma and of chroma samples at a depth. -/
def quantScale (full : Bool) (n : Nat) : (Rat × Rat) × (Rat × Rat) :=
  let k : Rat := ((2 ^ (n - 8) : Nat) : Rat)
  let mid : Rat := ((2 ^ (n - 1) : Nat) : Rat)
  let top : Rat := ((2 ^ n - 1 : Nat) : Rat)
  if full then ((top, 0), (top, mid)) else ((219 * k, 16 * k), (224 * k, mid))

/-- Whether a quantised value is clamped: rounded to nearest even it leaves [0, 2^n - 1]. -/
def clamps (n : Nat) (v : Rat) : Bool := if v < 0 then 0 < roundNat (-v) .rne else 2 ^ n - 1 < roundNat v .rne

/-- A position of a row or column, clamped to the picture's edge. -/
def edge (n : Nat) (i : Int) : Nat := min (n - 1) i.toNat

/-- Chroma at a 4:2:0 position of a picture: co-sited horizontally, between the rows vertically. -/
def downChroma (w h : Nat) (c : Nat → Nat → Rat) (x y : Nat) : Rat :=
  let at_ (i : Int) (j : Nat) : Rat := c (edge w (2 * (x : Int) + i)) (edge h (2 * (y : Int) + j))
  (at_ (-1) 0 + 2 * at_ 0 0 + at_ 1 0 + at_ (-1) 1 + 2 * at_ 0 1 + at_ 1 1) / 8

/-- Chroma of a picture's pixel from 4:2:0 samples, rows first. -/
def upChroma (cw ch : Nat) (c : Nat → Nat → Rat) (x y : Nat) : Rat :=
  let row (i : Nat) : Rat :=
    let near := c (edge cw i) (edge ch (y / 2 : Nat))
    let far := c (edge cw i) (edge ch (if y % 2 = 0 then (y / 2 : Nat) - 1 else (y / 2 : Nat) + 1))
    3 / 4 * near + 1 / 4 * far
  if x % 2 = 0 then row (x / 2) else (row (x / 2) + row (x / 2 + 1)) / 2

/-- Element i of a list of values as a row-major plane. -/
def planeAt (w : Nat) (l : List Rat) (x y : Nat) : Rat := l.getD (y * w + x) 0

/-- The clamps of one encoded picture, from its three planes of BF16 values. -/
def clampCount (x : StreamParams) (r g b : List Rat) : Nat :=
  let bt := spFld x 0 3 3 = 1
  let n := spDepth x
  let q := quantScale (spFld x 0 4 4 = 1) n
  let ycc (i j : Nat) := toYcc bt (planeAt x.width r i j) (planeAt x.width g i j) (planeAt x.width b i j)
  let luma := (List.range (x.width * x.height)).countP fun k => clamps n ((ycc (k % x.width) (k / x.width)).1 * q.1.1 + q.1.2)
  let cw := x.width / 2
  let chroma := ((List.range (cw * (x.height / 2))).map fun k =>
    let cb := downChroma x.width x.height (fun i j => (ycc i j).2.1) (k % cw) (k / cw)
    let cr := downChroma x.width x.height (fun i j => (ycc i j).2.2) (k % cw) (k / cw)
    (clamps n (cb * q.2.1 + q.2.2)).toNat + (clamps n (cr * q.2.1 + q.2.2)).toNat).sum
  luma + chroma

/-- The BF16 code of a converted value. -/
def bf16Code (v : Rat) : Nat := (convTo 0x5 false .rne (xofRat v)).code

/-- Row y of plane k of a decoded picture as bytes. -/
def decodedRow (x : StreamParams) (r : CodecResult) (k y : Nat) : List Byte :=
  let n := if r.deep then 10 else 8
  let q := quantScale r.full n
  let cw := cdiv x.width 2
  let ch := cdiv x.height 2
  let chroma (l : List Nat) (i j : Nat) : Rat := if r.mono then 0 else (((l.getD (j * cw + i) 0 : Nat) : Rat) - q.2.2) / q.2.1
  (List.range x.width).flatMap fun i =>
    let luma := (((r.luma.getD (y * x.width + i) 0 : Nat) : Rat) - q.1.2) / q.1.1
    let p := toRgb r.bt2020 luma (upChroma cw ch (chroma r.cb) i y) (upChroma cw ch (chroma r.cr) i y)
    bytesOf 2 (bf16Code (if k = 0 then p.1 else if k = 1 then p.2.1 else p.2.2))

/-! ### Pipes (R310, R424 to R426) -/

/-- Change one pipe. -/
def onPipe (i : PipeIx) (f : Pipe → Pipe) (s : State) : State :=
  { s with codec := { s.codec with pipes := s.codec.pipes.set i.val (f s.codec.pipes[i]) i.isLt } }

/-- The pipes that code a frame: one, or the pair 2k and 2k + 1. -/
def pipesFor (pair : Bool) (i : PipeIx) : List PipeIx := if pair then [⟨i.val / 2 * 2, by omega⟩, ⟨i.val / 2 * 2 + 1, by omega⟩] else [i]

/-- A pipe may take a frame of partition q: it is idle, and owned by q or, outside a pair, lent by an owner that leaves it
idle. -/
def pipeFree (s : State) (q : PartIx) (pair : Bool) (i : PipeIx) : Bool :=
  let x := s.codec.pipes[i]
  x.state = 0 && x.frame.isNone && x.owned && (x.owner.toNat = q.val || !pair)

/-- A pipe's trace record (R462): stage 1 decodes, stage 5 encodes. -/
def tracePipe (q : PartIx) (encode isEnd : Bool) (st : Nat) (epoch : Word) (i : PipeIx) (s : State) : State :=
  traceEmit .codec q (traceRecord s.time.toNat 0xFFFF (if encode then 5 else 1) (136 + i.val) isEnd 0 0 st 0 epoch.toNat 0) s

/-- STREAM_OPEN: a free context takes the stream. -/
def execStreamOpen (ctx : Fin 32) (sp : StreamParams) (s : State) : Out :=
  .next (match s.codec.ctxs[ctx] with
    | some _ => s
    | none =>
      if (s.part sp.part).resetStep ≠ .none then s
      else { s with codec := { s.codec with
        ctxs := s.codec.ctxs.set ctx.val (some { sp := sp, frames := 0, outBytes := 0, index := 0 }) ctx.isLt } })

/-- STREAM_FRAME: a pipe of the stream's direction, or a pair, takes one picture. -/
def execStreamFrame (ctx : Fin 32) (pipe : PipeIx) (fc : FrameCmd) (s : State) : Out :=
  .next (match s.codec.ctxs[ctx] with
    | none => s
    | some x =>
      let q := x.sp.part
      let pair := spPair x.sp
      let ps := pipesFor pair pipe
      if holdActive s || (x.sp.encode != decide (pipe.val < 4)) || !ps.all (pipeFree s q pair) then s
      else forAll ps (fun s i => tracePipe q x.sp.encode false 0 fc.epoch i (onPipe i (fun y =>
        { y with
          state := 1
          user := BitVec.ofNat 4 q.val
          lent := y.owner.toNat ≠ q.val
          paired := pair
          ctx := BitVec.ofNat 5 ctx.val
          lastCtx := some ctx
          frame := some fc
          ueOnce := false }) s)) s)

/-- STREAM_CLOSE: the context is free once no pipe codes a frame of it. -/
def execStreamClose (ctx : Fin 32) (s : State) : Out :=
  .next (if s.codec.pipes.any fun y => y.frame.isSome && y.ctx.toNat = ctx.val then s
    else { s with codec := { s.codec with ctxs := s.codec.ctxs.set ctx.val none ctx.isLt } })

/-! ### The end of a FRAME (R431, R435) -/

/-- The job that a frame works for: the one whose epoch slot the frame's EPOCH names. -/
def frameJob (s : State) (q : PartIx) (fc : FrameCmd) : Option Job :=
  (s.part q).jobs.find? fun j => jobLive j && j.slot.toNat = fc.epoch.toNat / 2 ^ 24

/-- The pipes of a frame are idle again, a lent one with its owner; a frame that completed is counted. -/
def releasePipes (ps : List PipeIx) (done : Bool) (s : State) : State :=
  forAll ps (fun s i => onPipe i (fun y =>
    { y with
      state := 0
      lent := false
      paired := false
      frame := none
      ueOnce := false
      count := satAdd y.count done.toNat }) s) s

/-- A frame's completion with a status: trace records, pipes released, the completion given to the Almanac. -/
def endFrame (q : PartIx) (ctx : Fin 32) (encode : Bool) (fc : FrameCmd) (ps : List PipeIx) (st : BitVec 8) (s : State) : State :=
  let s1 := releasePipes ps (st = 0) (forAll ps (fun s i => tracePipe q encode true st.toNat fc.epoch i s) s)
  { s1 with codec := { s1.codec with done := s1.codec.done ++ [(ctx, st)] } }

/-- The stream's job ends FAILED with the bytes and index entries written. -/
def failStream (q : PartIx) (fc : FrameCmd) (x : Stream) (s : State) : State :=
  match frameJob s q fc with
  | none => s
  | some j =>
    let alone := j.inPass && (s.part q).jobs.all fun k => !k.inPass || k.id = j.id
    let s1 := if alone then flushTasks (j.tasks).dedup s else s
    dispatch q (endJob q j.id .failed x.outBytes x.index true s1)

/-- Whether frame f of a stream is a random-access point, and whether a key picture (R429, R430). -/
def accessPoint (x : StreamParams) (f : Nat) : Option Bool :=
  if f = 0 then some true
  else if spGir x ≠ 0 then (if (f - 1) % spGir x = 0 then some false else none)
  else if spKey x ≠ 0 && f % spKey x = 0 then some true
  else none

/-- The refresh-index entry of a frame, while there is room for it. -/
def writeIndex (x : Stream) (s : State) : State × Nat :=
  match accessPoint x.sp x.frames with
  | some key =>
    if spIndexAddr x.sp = 0 || spIndexLen x.sp < 16 * (x.index + 1) then (s, x.index)
    else
      (hostWrite (spIndexAddr x.sp + 16 * x.index) (bytesOf 16 (pack [(64, x.outBytes), (32, x.frames), (32, key.toNat)])) s, x.index + 1)
  | none => (s, x.index)

/-- The stream's context after a frame. -/
def setStream (ctx : Fin 32) (x : Stream) (s : State) : State :=
  { s with codec := { s.codec with ctxs := s.codec.ctxs.set ctx.val (some x) ctx.isLt } }

/-- The rows of a frame's planes: plane, row and address. -/
def frameRows (x : StreamParams) (fc : FrameCmd) : List (Nat × Nat × Nat) :=
  (List.range 3).flatMap fun k => (List.range x.height).map fun y =>
    (k, y, fc.planes.toNat + k * fc.planeStride.toNat + y * fc.rowStride.toNat)

/-- Read the BF16 rows of a frame, stopping at the first failure. -/
def readRows (q : PartIx) (n : Nat) : List (Nat × Nat × Nat) → State → State × Except Nat (List XVal)
  | [], s => (s, .ok [])
  | (_, _, a) :: t, s =>
    match routedRead q none a n 0 [] s with
    | (s1, .error e) => (s1, .error e)
    | (s1, .ok bs) =>
      match readRows q n t s1 with
      | (s2, .error e) => (s2, .error e)
      | (s2, .ok vs) => (s2, .ok ((chunksOf 2 bs).map (fun b => decFloat fmtBF16 (natOf b)) ++ vs))

/-- Write the BF16 rows of a decoded frame, stopping at the first failure. -/
def writeRows (q : PartIx) (x : StreamParams) (r : CodecResult) (epoch : Nat) : List (Nat × Nat × Nat) → State → State × Option Nat
  | [], s => (s, none)
  | (k, y, a) :: t, s =>
    match routedWrite q none a 0 epoch (decodedRow x r k y) s with
    | (s1, some e) => (s1, some e)
    | (s1, none) => writeRows q x r epoch t s1

/-- The clamps that a picture's samples give; samples that are not finite leave the count open. -/
def pictureClamps (x : StreamParams) (vs : List XVal) (s : State) : State × Nat :=
  if vs.any fun v => xisNan v || xisInf v then ({ s with fresh := s.fresh + 1 }, Config.freeClamps s.fresh)
  else
    let l := vs.map xrat
    let n := x.width * x.height
    (s, clampCount x (l.take n) ((l.drop n).take n) (l.drop (2 * n)))

/-- The coded bytes of a frame: coded again at the maximum QP when it would overflow the decoder buffer. -/
def rateControl (x : StreamParams) (r : CodecResult) (s : State) : State × List Byte :=
  if spFld x 0 6 5 ≠ 0 && r.overflow then
    ({ s with codec := { s.codec with
        recode := satAdd s.codec.recode 1
        viol := satAdd s.codec.viol r.overflowMax.toNat } }, r.recoded)
  else (s, r.coded)

/-- The frame's epoch is no longer its slot's: its writes are dropped and it will be issued again. -/
def frameStale (s : State) (q : PartIx) (fc : FrameCmd) : Bool := epochCheck (cisEpoch s 0 q) fc.epoch.toNat != .accept

/-- A coded frame goes to the host, and its index entry after it. A full output buffer ends the job FAILED. -/
def putCoded (q : PartIx) (ctx : Fin 32) (fc : FrameCmd) (x : Stream) (bs : List Byte) (s : State) : State :=
  if frameStale s q fc then s
  else
    let room := match frameJob s q fc with
      | some j => jdOutLen j.desc - x.outBytes
      | none => bs.length
    let s1 := hostWrite fc.coded.toNat (bs.take room) s
    if room < bs.length then failStream q fc { x with outBytes := x.outBytes + room } s1
    else
      let (s2, i) := writeIndex x s1
      setStream ctx { x with frames := x.frames + 1, outBytes := x.outBytes + bs.length, index := i } s2

/-- The end of an encoded frame. -/
def encodeDone (q : PartIx) (ctx : Fin 32) (fc : FrameCmd) (x : Stream) (ps : List PipeIx) (r : CodecResult) (s : State) : State :=
  match readRows q (2 * x.sp.width) (frameRows x.sp fc) s with
  | (s1, .error e) => failStream q fc x (endFrame q ctx true fc ps (BitVec.ofNat 8 e) s1)
  | (s1, .ok vs) =>
    let (s2, n) := pictureClamps x.sp vs s1
    let s3 := { s2 with codec := { s2.codec with clamp := satAdd s2.codec.clamp n } }
    let (s4, bs) := rateControl x.sp r s3
    putCoded q ctx fc x bs (endFrame q ctx true fc ps 0 s4)

/-- The end of a decoded frame. -/
def decodeDone (q : PartIx) (ctx : Fin 32) (fc : FrameCmd) (x : Stream) (ps : List PipeIx) (r : CodecResult) (s : State) : State :=
  match writeRows q x.sp r fc.epoch.toNat (frameRows x.sp fc) s with
  | (s1, some e) => failStream q fc x (endFrame q ctx false fc ps (BitVec.ofNat 8 e) s1)
  | (s1, none) =>
    let s2 := endFrame q ctx false fc ps 0 s1
    if frameStale s q fc then s2 else setStream ctx { x with frames := x.frames + 1 } s2

/-- A failure to which the manual gives no status. -/
def failOpen (q : PartIx) (ctx : Fin 32) (fc : FrameCmd) (x : Stream) (ps : List PipeIx) (s : State) : State :=
  failStream q fc x (endFrame q ctx x.sp.encode fc ps (Config.freeByte s.fresh) { s with fresh := s.fresh + 1 })

/-- A read of job input that failed is reported through AER of the job's function (R373). -/
def inputError (q : PartIx) (fc : FrameCmd) (s : State) : State :=
  match frameJob s q fc with
  | some j => logAer j.fn aerFetch s
  | none => s

/-- The outcome of a frame without an SRAM failure. -/
def frameOutcome (q : PartIx) (ctx : Fin 32) (fc : FrameCmd) (x : Stream) (ps : List PipeIx) (r : CodecResult) (s : State) : State :=
  if !r.dmaOk then failOpen q ctx fc x ps (inputError q fc s)
  else if r.unsupported || spBeyond x.sp then
    failStream q fc x (endFrame q ctx x.sp.encode fc ps 0x13 { s with codec := { s.codec with unsupported := satAdd s.codec.unsupported 1 } })
  else if r.bitstreamErr && !x.sp.encode then
    failStream q fc x (endFrame q ctx false fc ps 0x12 { s with codec := { s.codec with bitstream := satAdd s.codec.bitstream 1 } })
  else if x.sp.encode then encodeDone q ctx fc x ps r s
  else decodeDone q ctx fc x ps r s

/-- FRAME_COMPLETE: a pipe ends its picture once its output can be visible. The first uncorrectable SRAM error codes the picture
again; the second ends the job FAILED. -/
def execFrameComplete (pipe : PipeIx) (r : CodecResult) (s : State) : Out :=
  let y := s.codec.pipes[pipe]
  let ctx := y.ctx.toFin
  .next (match y.frame, s.codec.ctxs[ctx] with
    | some fc, some x =>
      let q := x.sp.part
      let ready := (frameRows x.sp fc).all fun a => accessReady s q none a.2.2 (2 * x.sp.width) (!x.sp.encode)
      if y.state ≠ 1 || holdActive s || !ready then s
      else
        let ps := pipesFor y.paired pipe
        let s1 := { s with codec := { s.codec with ce := satAdd s.codec.ce r.sramCe, ue := satAdd s.codec.ue r.sramUe } }
        if r.sramUe = 0 then frameOutcome q ctx fc x ps r s1
        else if r.sramUe = 1 && !y.ueOnce then forAll ps (fun s i => onPipe i (fun z => { z with ueOnce := true }) s) s1
        else failOpen q ctx fc x ps s1
    | _, _ => s)

end Sys2Proof.Machine
end

