-- ==== Sys2Proof/Machine/Models.lean ====
section
/-! DEFINITION. Model packages: load checks, LOAD_MODEL and UNLOAD_MODEL (R96 to R98, R260, R292, R294, R376, R405). -/

namespace Sys2Proof.Machine

open Host

/-! ### Load checks -/

/-- OPER_ID of a tile plan record. -/
def tpOper (r : BitVec 320) : Nat := fld r 0x00 31 16

/-- A tile plan record, with the reduction extent K of its operator, that refuses the load (R96 to R98). -/
def tileBad (t : BitVec 320 × Nat) : Bool :=
  let r := t.1
  let bufs (lo : Nat) : Bool := fld r 0x00 (lo + 1) lo == 0 || fld r 0x00 (lo + 1) lo == 3
  6 ≤ fld r 0x00 2 0 || 6 ≤ fld r 0x00 5 3 || bufs 8 || bufs 10 || bufs 12 ||
    (fld r 0x00 7 6 == 0 && (fld r 0x0C 31 0 < t.2 || fld r 0x14 31 0 < t.2))

/-- A cost record with UNIT = 3 (R260). -/
def costBad (e : CostEntry) : Bool := ceUnit e.record == 3

/-- A cost table lacks a record for an operator of the tile plan. -/
def lacksCost (p : ModelPkg) : Bool :=
  p.tiles.any fun t => !p.models.any fun m => m.costs.any fun e => ceOper e.record == tpOper t.1

/-- The package fails a load check: also one of no model, of more than four (R294), or with more than 4,096 members
(R405). -/
def loadBad (p : ModelPkg) : Bool :=
  p.models.isEmpty || 4 < p.models.length || p.tiles.any tileBad || (p.models.any fun m => m.costs.any costBad) ||
    lacksCost p || 4096 < p.members

/-- The first tier of the partition's quotas that some model of the package does not fit. -/
def loadShort (s : State) (q : PartIx) (p : ModelPkg) : Option Nat :=
  let most (tier : Nat) : Nat := (p.models.map fun m => m.foot.getD tier 0).foldl max 0
  if (s.part q).img.t0Plots.toNat < most 0 then some 0x10
  else if t1Quota s q < most 1 then some 0x11
  else if t2Quota s q < most 2 then some 0x12
  else if t3Quota s q - (s.part q).img.spillGib * 0x40000000 < most 3 then some 0x13
  else none

/-- No room for one more package (R292, R294). -/
def residencyFull (s : State) (q : PartIx) : Bool :=
  if (s.part q).img.compat then 16 ≤ (s.part q).models.length else !(s.part q).models.isEmpty

/-- The package becomes resident; the first one of a partition is on chip. -/
def makeResident (q : PartIx) (p : ModelPkg) (s : State) : State :=
  s.onPart q fun x => { x with
    models := x.models ++ [{ handle := x.nextHandle, pkg := p, onChip := x.models.isEmpty }]
    nextHandle := x.nextHandle + BitVec.ofNat 32 p.models.length }

/-- LOAD_MODEL: the next submission of a pair with the package that its buffer holds, none where the read failed or the
bytes are no package. -/
def execLoadModel (f : FnIx) (i : QpIx) (pkg : Option ModelPkg) (s : State) : Out :=
  .next (match nextSubmission s f i with
    | some e =>
      if seOpc e ≠ 0x10 then s
      else
        let q := subPart f e
        if residencyFull s q then answerNow f i (ansState 0x20) s
        else match pkg with
          | none => answerNow f i (ansState 0x3C) s
          | some p =>
            if loadBad p then answerNow f i (ansState 0x3C) s
            else match loadShort s q p with
              | some r => answerNow f i (ansQuota r never) s
              | none => answerNow f i (ansDone (s.part q).nextHandle.toNat 0) (makeResident q p s)
    | none => s)

/-- A non-final job names a model of the package. -/
def packageUsed (s : State) (q : PartIx) (r : Resident) : Bool :=
  let inside (h : Nat) : Bool := r.handle.toNat ≤ h && h < r.handle.toNat + r.pkg.models.length
  (liveJobs s q).any fun j => inside (jdModel j.desc) || (jdEffective j.desc && inside (jdFallback j.desc))

/-- UNLOAD_MODEL: the next submission of a pair names any model of a package. -/
def execUnloadModel (f : FnIx) (i : QpIx) (s : State) : Out :=
  .next (match nextSubmission s f i with
    | some e =>
      if seOpc e ≠ 0x11 then s
      else
        let q := subPart f e
        match findModel s q (seArg e) with
        | none => answerNow f i (ansState 4) s
        | some (r, _) =>
          if packageUsed s q r then answerNow f i (ansState 0x21) s
          else answerNow f i (ansDone 0 0) (s.onPart q fun x => { x with models := x.models.filter fun m => m.handle ≠ r.handle })
    | none => s)

end Sys2Proof.Machine
end

