-- ==== Sys2Proof/Machine/Monitor.lean ====
section
/-! DEFINITION. The commands of the Lamtoad monitor, trace control, cuttings with their captures, and performance counters (R448,
R458 to R472). A command has an effect when the line at the monitor's front names it. -/

namespace Sys2Proof.Machine

open Host

/-- A reply without an error. -/
def fine (l : List (List Byte)) : Reply := (l, none)
/-- A reply of an error alone. -/
def failing (e : MonErr) : Reply := ([], some e)

/-- A command that only reports. -/
def report (c : Instr) (l : State → List (List Byte)) (s : State) : Out := .next (serve c (fun s => (s, fine (l s))) s)

/-- The name of a register with its value. -/
def shown (name : String) (digits v : Nat) : List Byte := txt name ++ hexWord digits v

/-! ### HELP, STATUS, TIME, GAUGE, LOG, BAUD -/

/-- HELP: the command list. -/
def execMonitorHelp (s : State) : Out :=
  report .monitorHelp (fun _ => [txt "HELP", txt "STATUS", txt "RD block offset [n]", txt "WR block offset value", txt "LOG [n]",
    txt "TEST plot pattern", txt "TRACE p START base size [WRAP]", txt "TRACE p STOP", txt "TRACE p STATUS",
    txt "CUT p ARM job layer oper pass base size", txt "CUT p LIST", txt "CUT p GET c offset len", txt "CUT p DROP c",
    txt "PERF unit counter event [p]", txt "PERF CLEAR unit", txt "TIME", txt "GAUGE", txt "BAUD div"]) s

/-- STATUS of a partition: ADMIT, ACCEPTED and BEDS_NOW. -/
def partLine (s : State) (q : PartIx) : List Byte :=
  shown "P" 1 q.val ++ hexWord 1 (s.part q).adm.toNat ++ hexWord 3 (liveJobs s q).length ++ hexWord 2 (bedsNow s q)

/-- STATUS. -/
def execMonitorStatus (s : State) : Out :=
  report .monitorStatus (fun s =>
    [shown "MODE" 1 s.fence.mode.toNat,
      shown "COPY" 1 s.image.copy.toNat ++ shown " GEN" 8 s.image.gen.toNat ++ shown " DIGEST" 16 s.image.digest.toNat] ++
      (definedParts s).map (partLine s)) s

/-- TIME. -/
def execMonitorTime (s : State) : Out :=
  report .monitorTime (fun s =>
    [shown "TIME" 16 s.time.toNat, shown "STAT" 8 (cisLink s 0 (s.cistern 0) 0xA10), shown "OFS" 8 (cisLink s 0 (s.cistern 0) 0xA14)]) s

/-- GAUGE. -/
def execMonitorGauge (s : State) : Out :=
  report .monitorGauge (fun s =>
    [shown "ENERGY" 16 s.fence.energy.toNat, shown "POWER" 8 s.fence.power.toNat, shown "BALANCE" 8 (fenceReg s 0x10C)] ++
      (List.finRange 16).map fun q => shown "P" 1 q.val ++ hexWord 8 (fenceReg s (0x110 + 8 * q.val))) s

/-- A prune-log record in a reply: SEQ, TYPE and its payload. -/
def logLine (r : BitVec 512) : List Byte := shown "SEQ" 8 (slSeq r) ++ hexWord 2 (slType r) ++ hexWord 80 (slPayload r)

/-- LOG: the last n records in SEQ order. -/
def execMonitorLog (n : Nat) (s : State) : Out :=
  .next (serve (.monitorLog n) (fun s =>
    if n = 0 || 256 < n then (s, failing .range)
    else
      let l := orderedLog s
      (s, fine ((l.drop (l.length - n)).map logLine))) s)

/-- BAUD: the new rate waits for the end of the reply. -/
def execMonitorBaud (div : Nat) (s : State) : Out :=
  .next (serve (.monitorBaud div) (fun s =>
    if div < 25 || 65535 < div then (s, failing .range)
    else ({ s with pins := { s.pins with divNext := some (BitVec.ofNat 16 div) } }, fine [])) s)

/-! ### RD and WR -/

/-- The block and offset that a BLOCK code of R370, or 0x50, and an offset name. -/
def monBlock (code off : Nat) : Option (Block × Nat) :=
  if code < 16 then (if off < 0x8000 then some (.plot (Fin.ofNat 128 (8 * code + off / 0x1000)), off % 0x1000) else none)
  else if code < 32 then (if off < 0x8000 then some (.bed (Fin.ofNat 16 code), off) else none)
  else if code = 0x20 || code = 0x21 then (if off < 0x18000 then some (.cistern (Fin.ofNat 2 code), off) else none)
  else if code = 0x30 then (if off < 0x8000 then some (.almanac, off) else none)
  else if code = 0x31 then (if off < 0x8000 then some (.image, off) else none)
  else if 0x40 ≤ code && code < 0x50 then (if off < 0x10000 then some (.vf (Fin.ofNat 16 code), off) else none)
  else if code = 0x50 then (if off < 0x4000 then some (.fence, off) else none)
  else none

/-- One word that RD reads; a low half latches its high half. -/
def readShadow (code off : Nat) (s : State) : State × Nat :=
  match monBlock code off with
  | some (b, o) => ({ s with alm := { s.alm with latch := latchRead s b o s.alm.latch } }, latchedRead s s.alm.latch b o)
  | none => (s, 0)

/-- Words in ascending order. -/
def readWords (code : Nat) : Nat → Nat → State → State × List Nat
  | 0, _, s => (s, [])
  | n + 1, off, s =>
    let (s1, w) := readShadow code off s
    let (s2, ws) := readWords code n (off + 4) s1
    (s2, w :: ws)

/-- RD. -/
def execMonitorRd (block offset n : Nat) (s : State) : Out :=
  .next (serve (.monitorRd block offset n) (fun s =>
    if n = 0 || 64 < n || offset % 4 ≠ 0 || (monBlock block offset).isNone then (s, failing .range)
    else
      let (s1, ws) := readWords block n offset s
      (s1, fine (ws.map fun w => hexN 8 w))) s)

/-- WR: a debug image alone; a write to the Fence block is a foreign write. -/
def execMonitorWr (block offset : Nat) (value : Word) (s : State) : Out :=
  .next (serve (.monitorWr block offset value) (fun s =>
    if !s.image.debugOn then (s, failing .disabled)
    else match monBlock block offset with
      | none => (s, failing .range)
      | some (b, o) =>
        if b = .fence then (foreignWrite 2 (BitVec.ofNat 16 o) s, failing .access)
        else if offset % 4 ≠ 0 then (s, failing .range)
        else (coreWrite b o 4 (BitVec.ofNat 64 value.toNat) s, fine [])) s)

/-! ### TEST (R461) -/

/-- A plot that R278 calls free. -/
def freeForTest (s : State) (p : PlotIx) : Bool :=
  let x := s.plot p
  (plotPart x).isSome && x.mode != .pruned && x.banks = 0 && (plotJob s p).isNone

/-- A plot that can take the monitor's command now. -/
def readyForTest (s : State) (p : PlotIx) : Bool :=
  let x := s.plot p
  x.mode = .pruned || ((x.mode = .off || idlePoint x) && !holdActive s)

/-- A plot that was power-gated wakes for the test. -/
def wakeForTest (p : PlotIx) (s : State) : State :=
  if (s.plot p).mode = .off then
    (t0Zero p s).onPlot p fun x => { x with mode := .idle, pgReq := false, rng := { Rng.reset with draws := x.rng.draws } }
  else s.onPlot p resumePlot

/-- The Almanac's TEST command: a tag of its own, a free value. -/
def testDesc (s : State) (pattern : Byte) : BitVec 1024 :=
  BitVec.ofNat 1024 (0x0C + (Config.freeByte s.fresh).toNat * 2 ^ 16 + (Config.freeByte (s.fresh + 1)).toNat * 2 ^ 24 +
    pattern.toNat * 2 ^ 256)

/-- How the command ends. -/
def testEnd (pattern : Byte) (fail : Option (BitVec 4 × BitVec 6)) : Ended :=
  if pattern = 0 || 5 < pattern.toNat then endedEarly stIllegal 0 0
  else match fail with
    | some (u, b) => { endedEarly stTest 0 (u.toNat * 2 ^ 28 + b.toNat) with cycles := testCycles pattern.toNat }
    | none => { endedEarly stOk 0 0 with cycles := testCycles pattern.toNat }

/-- The plot after the command: PLT_LAST, an empty scratchpad and no SFU slot; a pruned plot stays pruned. -/
def testedPlot (p : PlotIx) (pattern : Byte) (e : Ended) (s : State) : State :=
  let d := testDesc s pattern
  let s1 := traceCommand p .compute d false 0 0 { s with fresh := s.fresh + 2 }
  let s2 := traceCommand p .compute d true e.status e.cycles (s1.onPlot p fun x => noteLast d e (slotsInvalid x))
  clearTags p (t0Zero p s2)

/-- PASS, or FAIL with the unit and bank of PLT_FAULT_ADDR. -/
def testLine (e : Ended) : List Byte :=
  if e.status = stOk then txt "PASS" else shown "FAIL" 1 (e.fault / 2 ^ 28) ++ hexWord 2 (e.fault % 64)

/-- TEST. It waits while the plot cannot take a command. -/
def execMonitorTest (plot : Nat) (pattern : Byte) (fail : Option (BitVec 4 × BitVec 6)) (s : State) : Out :=
  let p : PlotIx := Fin.ofNat 128 plot
  let open_ := plot < 128 && ((s.plot p).mode = .pruned || freeForTest s p)
  .next (if open_ && !readyForTest s p then s
    else serve (.monitorTest plot pattern none) (fun s =>
      if 128 ≤ plot then (s, failing .range)
      else if !open_ then (s, failing .busy)
      else
        let e := testEnd pattern fail
        (testedPlot p pattern e (if (s.plot p).mode = .pruned then s else wakeForTest p s), fine [testLine e])) s)

/-! ### Ranges of T3 for traces and cuttings (R464, R465) -/

/-- A base and size that R464 does not allow. -/
def rangeBad (base : DWord) (size : Nat) : Bool :=
  base.toNat % pageBytes ≠ 0 || base.toNat < t3Base || size % pageBytes ≠ 0 || size < mib || 4096 * mib < size

/-- The ranges that are taken: traces, cuttings, and the spill area at the top of the quota. -/
def takenRanges (s : State) (q : PartIx) : List (Nat × Nat) :=
  let x := s.part q
  let spill := x.img.spillGib * 0x40000000
  (if x.trace.on then [(x.trace.base.toNat, x.trace.pages.toNat * pageBytes)] else []) ++
    (x.cuts.toList.filter (·.state ≠ 0)).map (fun c => (c.base.toNat, c.size)) ++ [(t3Base + t3Quota s q - spill, spill)]

/-- A range of a partition's T3 that nothing holds. -/
def rangeFree (s : State) (q : PartIx) (base : DWord) (size : Nat) : Bool :=
  let a := base.toNat
  decide (a + size ≤ t3Base + t3Quota s q) && decide (size ≤ t3Free s q) &&
    (takenRanges s q).all fun r => decide (r.2 = 0) || decide (a + size ≤ r.1) || decide (r.1 + r.2 ≤ a)

/-! ### TRACE (R464) -/

/-- TRACE p START. -/
def execTraceStart (q : PartIx) (base : DWord) (size : Nat) (wrap : Bool) (s : State) : Out :=
  .next (serve (.traceStart q base size wrap) (fun s =>
    if !s.dev.traceEn then (s, failing .disabled)
    else if !(s.part q).defined || rangeBad base size then (s, failing .range)
    else if (s.part q).trace.on then (s, failing .busy)
    else if !rangeFree s q base size then (s, failing .quota)
    else (s.onPart q fun x => { x with trace := { x.trace with
        on := true
        wrap := wrap
        full := false
        half := false
        pages := BitVec.ofNat 17 (size / pageBytes)
        base := base
        wptr := 0
        seq := 0
        count := 0
        stopping := false } }, fine [])) s)

/-- TRACE p STOP: it takes effect once the buffers have drained. -/
def execTraceStop (q : PartIx) (s : State) : Out :=
  .next (serve (.traceStop q) (fun s =>
    if !s.dev.traceEn then (s, failing .disabled)
    else if !(s.part q).trace.on then (s, failing .state)
    else (s.onPart q fun x => { x with trace := { x.trace with stopping := true } }, fine [])) s)

/-- A buffer holds a record of a partition. -/
def holdsRecord (q : PartIx) (l : List (BitVec 256)) : Bool := l.any fun e => bitsOf e.toNat 147 144 = q.val

/-- Some buffer still holds a record of a partition. -/
def traceBuffered (s : State) (q : PartIx) : Bool :=
  s.beds.any (fun b => holdsRecord q b.trace) || s.cis.any (fun c => holdsRecord q c.trace) || holdsRecord q s.codec.trace

/-- TRACE_DRAINED: the stop takes effect, and the range is free again. -/
def execTraceDrained (q : PartIx) (s : State) : Out :=
  .next (if (s.part q).trace.stopping && !traceBuffered s q then
    s.onPart q fun x => { x with trace := { x.trace with on := false, stopping := false } }
  else s)

/-- TRACE p STATUS. -/
def execTraceStatus (q : PartIx) (s : State) : Out :=
  .next (serve (.traceStatus q) (fun s =>
    if !s.dev.traceEn then (s, failing .disabled)
    else
      let t := (s.part q).trace
      (s, fine [shown "CTL" 8 (traceReg t 0x00), shown "SIZE" 8 (traceReg t 0x04), shown "BASE" 16 t.base.toNat,
        shown "WPTR" 8 t.wptr.toNat, shown "LOST" 8 t.lost.toNat, shown "SEQ" 8 t.seq.toNat])) s)

/-! ### CUT (R465 to R468) -/

/-- A cutting of a partition changed. -/
def onCut (q : PartIx) (c : Fin 16) (f : Cutting → Cutting) (s : State) : State :=
  s.onPart q fun x => { x with cuts := x.cuts.set c.val (f x.cuts[c]) c.isLt }

/-- Why a job that has been submitted takes no cutting at a pass. -/
def armRefused (s : State) (q : PartIx) (j : Job) (pass cost : Nat) : Option MonErr :=
  if jdPasses j.desc < pass then some .range
  else if pass ≤ j.mainPasses || j.life = .runningFb then some .state
  else if slackOf s q j.id < (cost : Int) then some .deadline
  else none

/-- CUT p ARM. A job submitted before pays the capture with its slack (R293). -/
def execCutArm (q : PartIx) (job : Word) (layer oper : BitVec 16) (pass : Nat) (base : DWord) (size cost energy : Nat) (s : State) : Out :=
  .next (serve (.cutArm q job layer oper pass base size 0 0) (fun s =>
    let x := s.part q
    let live := x.jobs.find? fun j => j.id = job && jobLive j
    match (List.finRange 16).find? fun c => (x.cuts[c]).state = 0 with
    | none => (s, failing (if s.dev.cuttingEn then .range else .disabled))
    | some c =>
      if !s.dev.cuttingEn then (s, failing .disabled)
      else if !x.defined || rangeBad base size || pass = 0 || 4096 < pass then (s, failing .range)
      else if !rangeFree s q base size then (s, failing .quota)
      else match live.bind fun j => armRefused s q j pass cost with
        | some e => (s, failing e)
        | none =>
          let k : Cutting :=
            { state := 1, trunc := false, pieces := 0, job := job, layer := layer, oper := oper, pass := pass, base := base,
              size := size, wptr := 0, cost := cost, energy := energy, dropAfter := false }
          let s1 := onCut q c (fun _ => k) s
          (if live.isSome then
            onJob q job (fun j => { j with extra := j.extra + cost, wc := j.wc + cost, energy := j.energy + energy }) s1
          else s1, fine [shown "CUT" 1 c.val])) s)

/-- One line of CUT LIST: number, state, TRUNC, pieces and bytes used. -/
def cutLine (x : Part) (c : Fin 16) : List Byte :=
  let k := x.cuts[c]
  shown "CUT" 1 c.val ++ hexWord 1 k.state.toNat ++ hexWord 1 k.trunc.toNat ++ hexWord 4 k.pieces.toNat ++ hexWord 9 k.wptr

/-- CUT p LIST. -/
def execCutList (q : PartIx) (s : State) : Out :=
  .next (serve (.cutList q) (fun s =>
    if !s.dev.cuttingEn then (s, failing .disabled)
    else (s, fine ((List.finRange 16).map (cutLine (s.part q))))) s)

/-- Lines of 32 bytes in hexadecimal. -/
def hexLines (bs : List Byte) : List (List Byte) := (chunksOf 32 bs).map fun l => l.flatMap fun b => hexN 2 b.toNat

/-- CUT p GET: bytes of a cutting's range. -/
def execCutGet (q : PartIx) (c offset len : Nat) (s : State) : Out :=
  .next (serve (.cutGet q c offset len) (fun s =>
    let k := (s.part q).cuts[Fin.ofNat 16 c]
    if !s.dev.cuttingEn then (s, failing .disabled)
    else if 16 ≤ c || len = 0 || 1024 < len then (s, failing .range)
    else if k.state = 0 then (s, failing .state)
    else if k.size < offset + len then (s, failing .range)
    else match devRead q (k.base.toNat + offset) len 0 [] s with
      | (s1, .ok bs) => (s1, fine (hexLines bs))
      | (s1, .error _) => (s1, failing .access)) s)

/-- A capture MOVE of a cutting is in progress. -/
def captureRuns (s : State) (q : PartIx) (c : Nat) : Bool :=
  s.plots.any fun x => match x.capture with
    | some k => k.part = q && k.cuts.any fun i => i.val = c
    | none => false

/-- CUT p DROP: at once, or when the capture MOVE in progress completes. -/
def execCutDrop (q : PartIx) (c : Nat) (s : State) : Out :=
  .next (serve (.cutDrop q c) (fun s =>
    let i : Fin 16 := Fin.ofNat 16 c
    if !s.dev.cuttingEn then (s, failing .disabled)
    else if 16 ≤ c then (s, failing .range)
    else if ((s.part q).cuts[i]).state = 0 then (s, failing .state)
    else (onCut q i (fun k => if captureRuns s q c then { k with dropAfter := true } else Cutting.reset) s, fine [])) s)

/-! ### Captures (R466) -/

/-- A piece of a capture: whether it holds scales, the format, and the rows of its region as (address, bytes), with their stride. -/
structure Piece where
  scales : Bool
  fmt : Nat
  rows : List (Nat × Nat)
  stride : Nat
deriving DecidableEq, Repr

/-- Rows of n bytes at a scratchpad offset. -/
def t0Rows (p : PlotIx) (off rows n stride : Nat) : List (Nat × Nat) := (List.range rows).map fun i => (t0Addr p (off + i * stride), n)

/-- The piece of a result and, in a block format, that of its scales. -/
def piecesOf (p : PlotIx) (fmt off rows cols stride scOff : Nat) : List Piece :=
  { scales := false, fmt := fmt, rows := t0Rows p off rows (rowBytes (fmtBits fmt) cols) stride, stride := stride } ::
    (if isBlockFmt fmt then
      let n := cdiv cols (fmtBlock fmt)
      [{ scales := true, fmt := fmt, rows := t0Rows p scOff rows n n, stride := n }]
    else [])

/-- The pieces of a GEMM: one for every fold. -/
def gemmPieces (p : PlotIx) (d : BitVec 1024) : List Piece :=
  (List.range (gF d)).flatMap fun q =>
    piecesOf p (gCF d) (w32 d 0x28 + 64 * q * gCFold d) (gM d) (gN d) (w32 d 0x44) (w32 d 0x50 + 64 * q * gCFold d / scaleRatio (gCF d))

/-- The piece of a CONV: the rows of Y, or the spectra of a WEIGHTS command. -/
def convPieces (p : PlotIx) (d : BitVec 1024) : List Piece :=
  if cCop d = 2 then
    let n := cOut d * cIn d * 132096
    [{ scales := false, fmt := 0x6, rows := [(t0Addr p (w32 d 0x24), n)], stride := n }]
  else
    let rs := yRows d
    [{ scales := false, fmt := cYF d, rows := rs, stride := (rs.getD 1 (cY d, 0)).1 - (rs.getD 0 (cY d, 0)).1 }]

/-- The result region of a command: C, D, Y or O. -/
def resultPieces (p : PlotIx) (d : BitVec 1024) : List Piece :=
  match hOp d with
  | 0x01 => gemmPieces p d
  | 0x02 => convPieces p d
  | 0x03 => piecesOf p (vFD d) (w32 d 0x2C) 1 (vCount d) (rowBytes (fmtBits (vFD d)) (vCount d)) (w32 d 0x48)
  | 0x04 =>
    if sOp d < 4 then piecesOf p 0x6 (w32 d 0x24) 1 (sRows d) (4 * sRows d) 0
    else piecesOf p (sDFmt d) (w32 d 0x24) (sRows d) (sCols d) (w32 d 0x3C) 0
  | 0x05 => if uOp d = 1 then [] else piecesOf p (uDF d) (w32 d 0x24) 1 (uCount d) (rowBytes (fmtBits (uDF d)) (uCount d)) 0
  | 0x06 => piecesOf p (tDF d) (w32 d 0x24) (tRows d) (tLen d) (w32 d 0x34) (w32 d 0x50)
  | 0x07 => piecesOf p (rDF d) (w32 d 0x20) 1 (rTotal d) (rowBytes (fmtBits (rDF d)) (rTotal d)) 0
  | 0x08 =>
    let n := rowBytes (fmtBits (aOF d)) (aDim d)
    piecesOf p (aOF d) (w32 d 0x24) (if aMode d = 2 then 512 else 256) (aDim d) n 0
  | _ => []

/-- The 64-byte header of a piece. -/
def pieceHeader (s : State) (p : PlotIx) (k : Capture) (job : Word) (x : Piece) : List Byte :=
  let d := k.desc
  let r := x.rows.headD (0, 0)
  bytesOf 64 (pack [(32, job.toNat), (16, hLayer d), (16, hOper d), (16, k.pass), (7, p.val), (1, x.scales.toNat), (8, hOp d),
    (4, x.fmt), (28, 0), (64, r.1), (32, x.rows.length), (32, r.2), (32, x.stride), (32, startTile d), (64, s.time.toNat),
    (32, hEpoch d)])

/-- The dense data of a piece, padded to 64 bytes. -/
def pieceData (s : State) (q : PartIx) (x : Piece) : State × List Byte :=
  let (s1, bs) := x.rows.foldl (fun (a : State × List (List Byte)) r =>
    match routedRead q none r.1 r.2 0 [] a.1 with
    | (t, .ok b) => (t, a.2 ++ [b])
    | (t, .error _) => ({ t with fresh := t.fresh + r.2 }, a.2 ++ [(List.range r.2).map fun i => Config.freeByte (t.fresh + i)])) (s, [])
  let flat := bs.flatten
  (s1, flat ++ List.replicate (roundUp flat.length 64 - flat.length) 0)

/-- A piece is appended to its cutting's range under the command's epoch; one that does not fit is skipped and sets TRUNC. -/
def putPiece (p : PlotIx) (k : Capture) (c : Fin 16) (s : State) (x : Piece) : State :=
  let cut := (s.part k.part).cuts[c]
  let n := 64 + roundUp (x.rows.map (·.2)).sum 64
  if cut.size < cut.wptr + n then onCut k.part c (fun y => { y with trunc := true }) s
  else
    let head := pieceHeader s p k cut.job x
    let (s1, data) := pieceData s k.part x
    let s2 := (routedWrite k.part (some (bedOf p)) (cut.base.toNat + cut.wptr) 0 (hEpoch k.desc) (head ++ data) s1).1
    onCut k.part c (fun y => { y with wptr := y.wptr + n, pieces := satAdd y.pieces 1 }) s2

/-- CAPTURE_COMPLETE: the pieces are in the range, and the post and the next command proceed. -/
def execCaptureComplete (p : PlotIx) (s : State) : Out :=
  .next (match (s.plot p).capture with
    | none => s
    | some k =>
      if holdActive s || (s.plot p).move.run.isSome then s
      else
        let s1 := forAll k.cuts (fun s c => (resultPieces p k.desc).foldl (putPiece p k c) s) s
        let s2 := forAll k.cuts (fun s c => onCut k.part c (fun y => if y.dropAfter then Cutting.reset else y) s)
          (s1.onPlot p fun x => { x with capture := none })
        let e : Ended :=
          { status := stOk, esc := k.esc, retries := k.retries, cycles := k.cycles, progress := k.progress, fault := 0 }
        step11 p .compute k.desc e s2)

/-! ### PERF (R469, R470) -/

/-- A unit of PERF: plots, then the two cisterns. -/
def perfUnit (unit : Nat) : Option (PlotIx ⊕ CisIx) :=
  if unit < 128 then some (.inl (Fin.ofNat 128 unit))
  else if unit < 130 then some (.inr (Fin.ofNat 2 unit))
  else none

/-- PERF unit counter event [p]: the select field is written, and its counter cleared. -/
def execPerfSelect (unit counter : Nat) (event : Byte) (q : Option PartIx) (s : State) : Out :=
  .next (serve (.perfSelect unit counter event q) (fun s =>
    if !s.dev.perfEn then (s, failing .disabled)
    else match perfUnit unit with
      | none => (s, failing .range)
      | some (.inl p) =>
        if 4 ≤ counter then (s, failing .range)
        else (s.onPlot p (writePerfSel (2 ^ counter) (event.toNat * 256 ^ counter)), fine [])
      | some (.inr c) =>
        if 8 ≤ counter then (s, failing .range)
        else
          let w := pack [(8, event.toNat), (4, (q.map (·.val)).getD 0), (1, q.isNone.toNat)]
          (s.onCis c (writeCisPerf (0xC00 + 4 * counter) 15 w), fine [])) s)

/-- PERF CLEAR unit. -/
def execPerfClear (unit : Nat) (s : State) : Out :=
  .next (serve (.perfClear unit) (fun s =>
    if !s.dev.perfEn then (s, failing .disabled)
    else match perfUnit unit with
      | none => (s, failing .range)
      | some (.inl p) => (s.onPlot p fun x => { x with perf := Vector.replicate 4 Perf.reset }, fine [])
      | some (.inr c) => (s.onCis c fun x => { x with perf := Vector.replicate 8 Perf.reset }, fine [])) s)

end Sys2Proof.Machine
end

