-- ==== Sys2Proof/Machine/PinEvents.lean ====
section
/-! DEFINITION. Stake pins in their phases, the UART receiver and the management SPI target (R401, R444 to R454, R459). -/

namespace Sys2Proof.Machine

open Host

/-! ### Stake pins (R444 to R446) -/

/-- Change one pin's phase, and note when. -/
def setPhase (pin : Fin 8) (ph : PinPhase) (s : State) : State :=
  { s with pins := { s.pins with
      pins := s.pins.pins.set pin.val ph pin.isLt
      pinAt := s.pins.pinAt.set pin.val s.time pin.isLt } }

/-- The pin's run function is an input: UART_RX, THROTTLE_N or GPIO_IN. -/
def pinListens (s : State) (pin : Fin 8) : Bool :=
  pin.val == 1 || pin.val == 3 || (if h : 5 ≤ pin.val then (s.pins.fns[pin.val - 5]).toNat == 6 else false)

/-- A pin has been in its phase for so many ns. -/
def pinFor (s : State) (pin : Fin 8) (ns : Nat) : Bool := decide (ns ≤ (s.time - s.pins.pinAt[pin]).toNat)

/-- PARK_END: after 2 µs at park level the new function takes the pin; the run phase begins once no pin is parked. -/
def execParkEnd (pin : Fin 8) (s : State) : Out :=
  .next (if s.pins.phase.toNat < 2 || s.pins.pins[pin] ≠ .park || !pinFor s pin 2000 then s
    else
      let s1 := setPhase pin (if pinListens s pin then .blank else .run) s
      if s1.pins.pins.all (· ≠ .park) then { s1 with pins := { s1.pins with phase := 3 } } else s1)

/-- INPUT_BLANKING_END: 1 µs later an input samples its pin for the first time; a low THROTTLE_N throttles at once. -/
def execInputBlankingEnd (pin : Fin 8) (high : Bool) (s : State) : Out :=
  .next (if s.pins.pins[pin] ≠ .blank || !pinFor s pin 1000 then s
    else
      let s1 := setLevel pin.val high (setPhase pin .run s)
      if pin.val = 3 && !high then throttleLow s1 else s1)

/-- SYNC_PULSE: at every multiple of 1,000,000 of the counter SYNC goes high for 1 µs. -/
def execSyncPulse (s : State) : Out :=
  .next (if s.pins.syncOn && s.pins.pins[(4 : Fin 8)] = .run && s.time.toNat % 1000000 = 0 then
    { s with pins := { s.pins with syncAt := some s.time } }
  else s)

/-- BEAT_TOGGLE: every 500 ms while no gardener core is held. -/
def execBeatToggle (s : State) : Out :=
  .next (if s.cores.all (fun c => !c.held) && 500000000 ≤ (s.time - s.pins.beatAt).toNat then
    { s with pins := { s.pins with beat := !s.pins.beat, beatAt := s.time } }
  else s)

/-! ### UART (R448, R459) -/

/-- The monitor serves the UART: STK2 latched 0, a debug image, or recovery mode. -/
def uartServes (s : State) : Bool :=
  (s.image.monitorStrap || s.image.debugOn || s.image.recovery) && s.pins.pins[(1 : Fin 8)] = .run

/-- UART_CHARACTER: while a line is being served characters wait in the FIFO of 256. -/
def execUartCharacter (ch : Byte) (stopOk : Bool) (s : State) : Out :=
  .next (if !uartServes s then s
    else if !stopOk then { s with pins := { s.pins with framing := satAdd s.pins.framing 1 } }
    else if !s.monitor.lines.isEmpty && 256 ≤ s.pins.fifo.length then { s with pins := { s.pins with overflow := satAdd s.pins.overflow 1 } }
    else monitorGoes { s with pins := { s.pins with fifo := s.pins.fifo ++ [ch] } })

/-! ### Management SPI (R449 to R454) -/

/-- The target answers from 0.2 ms after reset release. -/
def spiAwake (s : State) : Bool := s.image.boot ≠ .off && 200000 ≤ (s.time - s.image.bootAt).toNat

/-- Words that a command word transfers. -/
def spiCount (cmd : Word) : Nat := bitsOf cmd.toNat 30 24 + 1
/-- Byte address of the first word. -/
def spiAddr (cmd : Word) : Nat := bitsOf cmd.toNat 23 2 * 4
/-- The low bits that must be 0. -/
def spiBad (cmd : Word) : Bool := bitsOf cmd.toNat 1 0 ≠ 0

/-- RESULT codes of R451. -/
def spiPartialRes : Nat := 1
/-- The frame ran long. -/
def spiOverrunRes : Nat := 2
/-- A word was refused. -/
def spiAccess : Nat := 3
/-- The command word is bad. -/
def spiBadCmd : Nat := 4
/-- The Fence has not loaded its registers. -/
def spiNotReady : Nat := 5

/-- What a frame's length says: PARTIAL, OVERRUN or neither. -/
def spiLength (expected : Nat) (e : SpiEnd) : Option Nat :=
  if e.words < expected then some spiPartialRes
  else if expected < e.words || e.partialWord then some spiOverrunRes
  else none

/-- The status word of the previous frame (R451). -/
def spiStatus (s : State) : Word := BitVec.ofNat 32 (pack [(16, s.pins.spiFrames.toNat), (4, 0), (4, s.pins.spiResult.toNat), (8, 0xA5)])

/-- A frame ends: its results in the order of R451, the counters, and what MISO sent. -/
def spiEnd (results : List Nat) (miso : List Word) (s : State) : State :=
  let r := results.foldl (fun a b => if a = 0 || b < a && b ≠ 0 then b else a) 0
  { s with pins := { s.pins with
      spiResult := BitVec.ofNat 4 r
      spiFrames := s.pins.spiFrames + 1
      spiPartial := satAdd s.pins.spiPartial (if r = spiPartialRes then 1 else 0)
      spiOverrun := satAdd s.pins.spiOverrun (if r = spiOverrunRes then 1 else 0)
      spiRefused := satAdd s.pins.spiRefused (if r = spiAccess || r = spiBadCmd then 1 else 0)
      spiMiso := miso } }

/-- The management address map (R450): the block and the offset in it; none for the MGT and STK registers. -/
def spiPlace (a : Nat) : Option (Option Block × Nat) :=
  if a < 0x4000 then some (some .fence, a)
  else if 0x100000 ≤ a && a < 0x101000 then some (some .image, a - 0x100000)
  else if 0x200000 ≤ a && a < 0x210000 then some (some .almanac, a - 0x200000)
  else if 0x300000 ≤ a && a < 0x300100 then some (none, a - 0x300000)
  else none

/-- The Fence and image blocks are not read before the Fence has loaded its registers. -/
def spiUnready (s : State) (a : Nat) : Bool :=
  !s.fence.loaded && (match spiPlace a with
    | some (some .fence, _) => true
    | some (some .image, _) => true
    | _ => false)

/-- One word of a read frame; a low half latches its high half. -/
def spiRead (a : Nat) (s : State) : State × Word :=
  if spiUnready s a then (s, 0)
  else match spiPlace a with
    | some (some b, off) =>
      ({ s with alm := { s.alm with latch := latchRead s b off s.alm.latch } }, BitVec.ofNat 32 (latchedRead s s.alm.latch b off))
    | some (none, off) => (s, BitVec.ofNat 32 (mgtReg s off))
    | none => (s, 0)

/-- The words of a read frame in ascending order. -/
def spiReads : Nat → Nat → State → State × List Word
  | 0, _, s => (s, [])
  | n + 1, a, s =>
    let (s1, w) := spiRead a s
    let (s2, ws) := spiReads n (a + 4) s1
    (s2, w :: ws)

/-- MGT_READ_FRAME. -/
def execMgtReadFrame (cmd : Word) (e : SpiEnd) (s : State) : Out :=
  .next (if !spiAwake s || cmd.getLsbD 31 then s
    else
      let n := spiCount cmd
      let len := (spiLength (n + 1) e).toList
      if spiBad cmd then spiEnd (len ++ [spiBadCmd]) [spiStatus s] s
      else
        let k := min n (e.words - 1)
        let (s1, ws) := spiReads k (spiAddr cmd) s
        let late := (List.range k).any fun i => spiUnready s (spiAddr cmd + 4 * i)
        spiEnd (len ++ if late then [spiNotReady] else []) (spiStatus s :: 0 :: ws) s1)

/-- A write of `MGT_PART_RESET`: partition resets of the partitions that the image defines. -/
def mgtPartReset (w : Word) (s : State) : State :=
  forAll ((definedParts s).filter fun q => w.getLsbD q.val) (fun s q => beginReset q s) s

/-- MGT_PART_RESET. -/
def execMgtPartReset (w : Word) (s : State) : Out := .next (if spiAwake s then mgtPartReset w s else s)

/-- One word of a write frame, and whether it was refused. -/
def spiWrite (a : Nat) (w : Word) (s : State) : State × Bool :=
  match spiPlace a with
  | some (some .fence, off) => (foreignWrite 0 (BitVec.ofNat 16 off) s, true)
  | some (none, 0x00) => (mgtPartReset w s, false)
  | some (none, 0x04) => ({ s with pins := { s.pins with spiPartial := 0, spiOverrun := 0, spiRefused := 0 } }, false)
  | some (none, _) => (s, false)
  | _ => (s, true)

/-- The words of a write frame, each in effect when it arrives. -/
def spiWrites : List Word → Nat → State → State × Bool
  | [], _, s => (s, false)
  | w :: ws, a, s =>
    let (s1, x) := spiWrite a w s
    let (s2, y) := spiWrites ws (a + 4) s1
    (s2, x || y)

/-- MGT_WRITE_FRAME. -/
def execMgtWriteFrame (cmd : Word) (data : List Word) (e : SpiEnd) (s : State) : Out :=
  .next (if !spiAwake s || !cmd.getLsbD 31 then s
    else
      let n := spiCount cmd
      let len := (spiLength n e).toList
      if spiBad cmd then spiEnd (len ++ [spiBadCmd]) [spiStatus s] s
      else
        let (s1, refused) := spiWrites (data.take (min n e.words)) (spiAddr cmd) s
        spiEnd (len ++ if refused then [spiAccess] else []) [spiStatus s] s1)

end Sys2Proof.Machine
end

