-- ==== Sys2Proof/Machine/Dispatch.lean ====
section
/-! DEFINITION. One arm for every command of the table: the meaning it calls. -/

namespace Sys2Proof.Machine

open Host

/-- The effect of a command on everything but the queue. -/
def exec (i : Instr) (s : State) : Host.Outcome State Fault Refusal :=
  match i with
  | .plotCommandSubmit p d => Sys2Proof.Machine.execPlotCommandSubmit p d s
  | .backpressureEntry p lane => Sys2Proof.Machine.execBackpressureEntry p lane s
  | .gemm p => Sys2Proof.Machine.execGemm p s
  | .conv p => Sys2Proof.Machine.execConv p s
  | .vec p => Sys2Proof.Machine.execVec p s
  | .stat p => Sys2Proof.Machine.execStat p s
  | .sfuEval p => Sys2Proof.Machine.execSfuEval p s
  | .sfuLoad p errs => Sys2Proof.Machine.execSfuLoad p errs s
  | .rot p errs => Sys2Proof.Machine.execRot p errs s
  | .rand p => Sys2Proof.Machine.execRand p s
  | .attn p => Sys2Proof.Machine.execAttn p s
  | .move p => Sys2Proof.Machine.execMove p s
  | .zero p => Sys2Proof.Machine.execZero p s
  | .sync p => Sys2Proof.Machine.execSync p s
  | .test p fail => Sys2Proof.Machine.execTest p fail s
  | .unknownOpcode p => Sys2Proof.Machine.execUnknownOpcode p s
  | .outputTileComplete p runs errs => Sys2Proof.Machine.execOutputTileComplete p runs errs s
  | .stripeTileComplete p runs errs => Sys2Proof.Machine.execStripeTileComplete p runs errs s
  | .keyTileComplete p runs errs => Sys2Proof.Machine.execKeyTileComplete p runs errs s
  | .commandComplete p lane errs terrs flips => Sys2Proof.Machine.execCommandComplete p lane errs terrs flips s
  | .plotFlush p resume rw => Sys2Proof.Machine.execPlotFlush p resume rw s
  | .plotResume p rw => Sys2Proof.Machine.execPlotResume p rw s
  | .plotReset p rw => Sys2Proof.Machine.execPlotReset p rw s
  | .plotResetDone p => Sys2Proof.Machine.execPlotResetDone p s
  | .reducedRequest p rw => Sys2Proof.Machine.execReducedRequest p rw s
  | .reducedApply p => Sys2Proof.Machine.execReducedApply p s
  | .clockGate p => Sys2Proof.Machine.execClockGate p s
  | .powerGateEntry p => Sys2Proof.Machine.execPowerGateEntry p s
  | .powerGateWake p => Sys2Proof.Machine.execPowerGateWake p s
  | .wakeComplete p => Sys2Proof.Machine.execWakeComplete p s
  | .bankRetire p bank cause => Sys2Proof.Machine.execBankRetire p bank cause s
  | .rngStateLoad p s3 => Sys2Proof.Machine.execRngStateLoad p s3 s
  | .rngStateApply p => Sys2Proof.Machine.execRngStateApply p s
  | .layerStateLoad b w => Sys2Proof.Machine.execLayerStateLoad b w s
  | .layerStateInstall p => Sys2Proof.Machine.execLayerStateInstall p s
  | .pageWalk p c => Sys2Proof.Machine.execPageWalk p c s
  | .leafFetchComplete p c => Sys2Proof.Machine.execLeafFetchComplete p c s
  | .writingEntryReread p => Sys2Proof.Machine.execWritingEntryReread p s
  | .missWaitExpire p => Sys2Proof.Machine.execMissWaitExpire p s
  | .descriptorEnqueue p => Sys2Proof.Machine.execDescriptorEnqueue p s
  | .pageFetchComplete p flips => Sys2Proof.Machine.execPageFetchComplete p flips s
  | .pageEntryWriting q entry frame => Sys2Proof.Machine.execPageEntryWriting q entry frame s
  | .pageEntryPresent q entry => Sys2Proof.Machine.execPageEntryPresent q entry s
  | .sequenceRelease q root => Sys2Proof.Machine.execSequenceRelease q root s
  | .haloWaitRelease p => Sys2Proof.Machine.execHaloWaitRelease p s
  | .haloLongWait p => Sys2Proof.Machine.execHaloLongWait p s
  | .carrierCopy d => Sys2Proof.Machine.execCarrierCopy d s
  | .carrierWriteback d => Sys2Proof.Machine.execCarrierWriteback d s
  | .carrierFill d => Sys2Proof.Machine.execCarrierFill d s
  | .carrierFlush d => Sys2Proof.Machine.execCarrierFlush d s
  | .carrierDescriptorStart q n => Sys2Proof.Machine.execCarrierDescriptorStart q n s
  | .carrierPageComplete q n page flips => Sys2Proof.Machine.execCarrierPageComplete q n page flips s
  | .carrierComplete q n => Sys2Proof.Machine.execCarrierComplete q n s
  | .directoryRead f b same => Sys2Proof.Machine.execDirectoryRead f b same s
  | .directoryOwn f b withData same => Sys2Proof.Machine.execDirectoryOwn f b withData same s
  | .directoryDrop f b => Sys2Proof.Machine.execDirectoryDrop f b s
  | .directoryEviction f b => Sys2Proof.Machine.execDirectoryEviction f b s
  | .directoryExternal f r => Sys2Proof.Machine.execDirectoryExternal f r s
  | .tenureEnd f b => Sys2Proof.Machine.execTenureEnd f b s
  | .writebackDone f => Sys2Proof.Machine.execWritebackDone f s
  | .mirrorFillArrival f b => Sys2Proof.Machine.execMirrorFillArrival f b s
  | .xltInvalidate c w => Sys2Proof.Machine.execXltInvalidate c w s
  | .xltInvalidateDone c => Sys2Proof.Machine.execXltInvalidateDone c s
  | .xltMissFill c q v => Sys2Proof.Machine.execXltMissFill c q v s
  | .epochCheckedWrite at_ q epoch addr data => Sys2Proof.Machine.execEpochCheckedWrite at_ q epoch addr data s
  | .lpddrRead sector tau cws flips => Sys2Proof.Machine.execLpddrRead sector tau cws flips s
  | .lpddrWrite sector tau cws data => Sys2Proof.Machine.execLpddrWrite sector tau cws data s
  | .scrubSector sector flips => Sys2Proof.Machine.execScrubSector sector flips s
  | .bankRefresh c ch rank bank => Sys2Proof.Machine.execBankRefresh c ch rank bank s
  | .periodicRetrain c failed => Sys2Proof.Machine.execPeriodicRetrain c failed s
  | .channelPrune c ch cause => Sys2Proof.Machine.execChannelPrune c ch cause s
  | .relocationComplete c ch => Sys2Proof.Machine.execRelocationComplete c ch s
  | .submitJob f qp dmaOk => Sys2Proof.Machine.execSubmitJob f qp dmaOk s
  | .cancel f qp => Sys2Proof.Machine.execCancel f qp s
  | .suspend f qp => Sys2Proof.Machine.execSuspend f qp s
  | .resume f qp => Sys2Proof.Machine.execResume f qp s
  | .suspendExpire q job => Sys2Proof.Machine.execSuspendExpire q job s
  | .queryJobs f qp dmaOk => Sys2Proof.Machine.execQueryJobs f qp dmaOk s
  | .loadModel f qp pkg => Sys2Proof.Machine.execLoadModel f qp pkg s
  | .unloadModel f qp => Sys2Proof.Machine.execUnloadModel f qp s
  | .replant f qp flashErr => Sys2Proof.Machine.execReplant f qp flashErr s
  | .resetPartition f qp => Sys2Proof.Machine.execResetPartition f qp s
  | .passBoundary q outs => Sys2Proof.Machine.execPassBoundary q outs s
  | .voteResult q job => Sys2Proof.Machine.execVoteResult q job s
  | .failedPass q why jobs => Sys2Proof.Machine.execFailedPass q why jobs s
  | .longHoldDecision => Sys2Proof.Machine.execLongHoldDecision s
  | .completionRingDrain r => Sys2Proof.Machine.execCompletionRingDrain r s
  | .pgIdleTimeout p => Sys2Proof.Machine.execPgIdleTimeout p s
  | .epochAdvance q slot => Sys2Proof.Machine.execEpochAdvance q slot s
  | .epochAcknowledged q slot => Sys2Proof.Machine.execEpochAcknowledged q slot s
  | .heelIn q job => Sys2Proof.Machine.execHeelIn q job s
  | .heelInComplete q job => Sys2Proof.Machine.execHeelInComplete q job s
  | .victimResume q job => Sys2Proof.Machine.execVictimResume q job s
  | .restoreComplete q job => Sys2Proof.Machine.execRestoreComplete q job s
  | .msixMessage f v => Sys2Proof.Machine.execMsixMessage f v s
  | .irqModerationTimeout f v => Sys2Proof.Machine.execIrqModerationTimeout f v s
  | .irqBudgetRefill f => Sys2Proof.Machine.execIrqBudgetRefill f s
  | .irqCauseClear f w => Sys2Proof.Machine.execIrqCauseClear f w s
  | .vfEnableChange enable numVfs => Sys2Proof.Machine.execVfEnableChange enable numVfs s
  | .flr f => Sys2Proof.Machine.execFlr f s
  | .partitionReset q why => Sys2Proof.Machine.execPartitionReset q why s
  | .partitionZeroingDone q => Sys2Proof.Machine.execPartitionZeroingDone q s
  | .pcieWarmReset => Sys2Proof.Machine.execPcieWarmReset s
  | .gaugeInterval microJ upsets => Sys2Proof.Machine.execGaugeInterval microJ upsets s
  | .bedClockTarget b step => Sys2Proof.Machine.execBedClockTarget b step s
  | .clockStepComplete b => Sys2Proof.Machine.execClockStepComplete b s
  | .thermalSample t => Sys2Proof.Machine.execThermalSample t s
  | .throttleNAssert => Sys2Proof.Machine.execThrottleNAssert s
  | .throttleNRelease => Sys2Proof.Machine.execThrottleNRelease s
  | .pinLimitLift => Sys2Proof.Machine.execPinLimitLift s
  | .alertMinimumExpire => Sys2Proof.Machine.execAlertMinimumExpire s
  | .supplyWarning e => Sys2Proof.Machine.execSupplyWarning e s
  | .supplyRecovery => Sys2Proof.Machine.execSupplyRecovery s
  | .supplyDip => Sys2Proof.Machine.execSupplyDip s
  | .supplyQualified => Sys2Proof.Machine.execSupplyQualified s
  | .holdResume => Sys2Proof.Machine.execHoldResume s
  | .supplyReset e => Sys2Proof.Machine.execSupplyReset e s
  | .overVoltage e => Sys2Proof.Machine.execOverVoltage e s
  | .watchdogExpiry c => Sys2Proof.Machine.execWatchdogExpiry c s
  | .coreRestartDone c => Sys2Proof.Machine.execCoreRestartDone c s
  | .lockstepMismatch => Sys2Proof.Machine.execLockstepMismatch s
  | .lockstepRestartDone => Sys2Proof.Machine.execLockstepRestartDone s
  | .foreignWrite src offset data => Sys2Proof.Machine.execForeignWrite src offset data s
  | .powerOn => Sys2Proof.Machine.execPowerOn s
  | .moduleReset => Sys2Proof.Machine.execModuleReset s
  | .resetRelease => Sys2Proof.Machine.execResetRelease s
  | .strapLatch levels => Sys2Proof.Machine.execStrapLatch levels s
  | .imageVerified flashErr => Sys2Proof.Machine.execImageVerified flashErr s
  | .memoryInitComplete r => Sys2Proof.Machine.execMemoryInitComplete r s
  | .pruneLogAppend step => Sys2Proof.Machine.execPruneLogAppend step s
  | .logRotation step => Sys2Proof.Machine.execLogRotation step s
  | .sqDoorbell f qp v => Sys2Proof.Machine.execSqDoorbell f qp v s
  | .cqDoorbell f qp v => Sys2Proof.Machine.execCqDoorbell f qp v s
  | .submissionFetch f qp dmaOk => Sys2Proof.Machine.execSubmissionFetch f qp dmaOk s
  | .completionWrite f qp => Sys2Proof.Machine.execCompletionWrite f qp s
  | .qpAttach f qp => Sys2Proof.Machine.execQpAttach f qp s
  | .qpResumeAttach f qp => Sys2Proof.Machine.execQpResumeAttach f qp s
  | .qpDetach f qp => Sys2Proof.Machine.execQpDetach f qp s
  | .detachComplete f qp => Sys2Proof.Machine.execDetachComplete f qp s
  | .windowSelect block page => Sys2Proof.Machine.execWindowSelect block page s
  | .lowHalfRead r b offset len => Sys2Proof.Machine.execLowHalfRead r b offset len s
  | .registerWrite w => Sys2Proof.Machine.execRegisterWrite w s
  | .atsInvalidation f addr len => Sys2Proof.Machine.execAtsInvalidation f addr len s
  | .mailboxMonitor len => Sys2Proof.Machine.execMailboxMonitor len s
  | .imageErase copy => Sys2Proof.Machine.execImageErase copy s
  | .imageWrite copy len => Sys2Proof.Machine.execImageWrite copy len s
  | .imageCheck copy => Sys2Proof.Machine.execImageCheck copy s
  | .mailboxComplete flashErr => Sys2Proof.Machine.execMailboxComplete flashErr s
  | .fabricWrite d => Sys2Proof.Machine.execFabricWrite d s
  | .fabricRead d => Sys2Proof.Machine.execFabricRead d s
  | .writeFrame port fr => Sys2Proof.Machine.execWriteFrame port fr s
  | .readReq port fr => Sys2Proof.Machine.execReadReq port fr s
  | .readData port fr => Sys2Proof.Machine.execReadData port fr s
  | .ack port fr => Sys2Proof.Machine.execAck port fr s
  | .nak port fr => Sys2Proof.Machine.execNak port fr s
  | .lateErr port fr => Sys2Proof.Machine.execLateErr port fr s
  | .settle port fr => Sys2Proof.Machine.execSettle port fr s
  | .settleDoneSend port dev => Sys2Proof.Machine.execSettleDoneSend port dev s
  | .settleDone port fr => Sys2Proof.Machine.execSettleDone port fr s
  | .settleTimeout q dev => Sys2Proof.Machine.execSettleTimeout q dev s
  | .timeFrame port fr => Sys2Proof.Machine.execTimeFrame port fr s
  | .chunkMemoryEntry c crcOk memOk => Sys2Proof.Machine.execChunkMemoryEntry c crcOk memOk s
  | .ackTimer port dev lc => Sys2Proof.Machine.execAckTimer port dev lc s
  | .retransmitTimeout port dev lc => Sys2Proof.Machine.execRetransmitTimeout port dev lc s
  | .fabricUnreachable dev => Sys2Proof.Machine.execFabricUnreachable dev s
  | .laneFault port lane training => Sys2Proof.Machine.execLaneFault port lane training s
  | .portTrained port lanes8 => Sys2Proof.Machine.execPortTrained port lanes8 s
  | .timeExchange t1 t2 t3 t4 ok => Sys2Proof.Machine.execTimeExchange t1 t2 t3 t4 ok s
  | .timeAdjust => Sys2Proof.Machine.execTimeAdjust s
  | .holdoverEntry => Sys2Proof.Machine.execHoldoverEntry s
  | .masterClaim => Sys2Proof.Machine.execMasterClaim s
  | .syncPulse => Sys2Proof.Machine.execSyncPulse s
  | .broadcast d => Sys2Proof.Machine.execBroadcast d s
  | .reduce d => Sys2Proof.Machine.execReduce d s
  | .readyWrite q seq src d n => Sys2Proof.Machine.execReadyWrite q seq src d n s
  | .creditWrite q seq => Sys2Proof.Machine.execCreditWrite q seq s
  | .countArrival q seq src count => Sys2Proof.Machine.execCountArrival q seq src count s
  | .pageArrival q seq src page data => Sys2Proof.Machine.execPageArrival q seq src page data s
  | .collTimeout q seq => Sys2Proof.Machine.execCollTimeout q seq s
  | .streamOpen ctx sp => Sys2Proof.Machine.execStreamOpen ctx sp s
  | .streamFrame ctx pipe fc => Sys2Proof.Machine.execStreamFrame ctx pipe fc s
  | .streamClose ctx => Sys2Proof.Machine.execStreamClose ctx s
  | .frameComplete pipe r => Sys2Proof.Machine.execFrameComplete pipe r s
  | .parkEnd pin => Sys2Proof.Machine.execParkEnd pin s
  | .inputBlankingEnd pin high => Sys2Proof.Machine.execInputBlankingEnd pin high s
  | .uartCharacter ch stopOk => Sys2Proof.Machine.execUartCharacter ch stopOk s
  | .mgtReadFrame cmd e => Sys2Proof.Machine.execMgtReadFrame cmd e s
  | .mgtWriteFrame cmd data e => Sys2Proof.Machine.execMgtWriteFrame cmd data e s
  | .mgtPartReset w => Sys2Proof.Machine.execMgtPartReset w s
  | .beatToggle => Sys2Proof.Machine.execBeatToggle s
  | .monitorHelp => Sys2Proof.Machine.execMonitorHelp s
  | .monitorStatus => Sys2Proof.Machine.execMonitorStatus s
  | .monitorRd block offset n => Sys2Proof.Machine.execMonitorRd block offset n s
  | .monitorWr block offset value => Sys2Proof.Machine.execMonitorWr block offset value s
  | .monitorLog n => Sys2Proof.Machine.execMonitorLog n s
  | .monitorTest plot pattern fail => Sys2Proof.Machine.execMonitorTest plot pattern fail s
  | .traceStart q base size wrap => Sys2Proof.Machine.execTraceStart q base size wrap s
  | .traceStop q => Sys2Proof.Machine.execTraceStop q s
  | .traceDrained q => Sys2Proof.Machine.execTraceDrained q s
  | .traceStatus q => Sys2Proof.Machine.execTraceStatus q s
  | .cutArm q job layer oper pass base size cost energy => Sys2Proof.Machine.execCutArm q job layer oper pass base size cost energy s
  | .cutList q => Sys2Proof.Machine.execCutList q s
  | .cutGet q c offset len => Sys2Proof.Machine.execCutGet q c offset len s
  | .cutDrop q c => Sys2Proof.Machine.execCutDrop q c s
  | .captureComplete p => Sys2Proof.Machine.execCaptureComplete p s
  | .perfSelect unit counter event q => Sys2Proof.Machine.execPerfSelect unit counter event q s
  | .perfClear unit => Sys2Proof.Machine.execPerfClear unit s
  | .monitorTime => Sys2Proof.Machine.execMonitorTime s
  | .monitorGauge => Sys2Proof.Machine.execMonitorGauge s
  | .monitorBaud div => Sys2Proof.Machine.execMonitorBaud div s
  | .faultWindowRollover day => Sys2Proof.Machine.execFaultWindowRollover day s
  | .flitReplay link lane again => Sys2Proof.Machine.execFlitReplay link lane again s
  | .trellisLaneFault link dir module_ lane => Sys2Proof.Machine.execTrellisLaneFault link dir module_ lane s
  | .unitComplete p errs terrs => Sys2Proof.Machine.execUnitComplete p errs terrs s
  | .moveRowComplete p errs flips => Sys2Proof.Machine.execMoveRowComplete p errs flips s
  | .powerGateComplete p => Sys2Proof.Machine.execPowerGateComplete p s
  | .functionMaskWrite f mask => Sys2Proof.Machine.execFunctionMaskWrite f mask s

end Sys2Proof.Machine
end

