-- ==== Sys2Proof/Safety.lean ====
section
/-! DEFINITION. What the statements speak of: the invariant of the machine, the conditions under which commands leave their
waits and what they then find, and the registers and bytes that frames name. -/

namespace Sys2Proof.Machine

open Host

/-! ### The invariant -/

/-- A safe state: every memory is in its canonical form, so that equal memories are equal data. -/
def Safe (s : State) : Prop := Memory.wf s.mem = true

/-! ### A command that leaves its waits (R68) -/

/-- Steps 1 to 4 of R68 hold nothing back: the command `d` is the head of its lane and has taken no semaphore yet, nothing runs
in the lane, the other lane is empty under WAIT_ALL, its semaphore is not zero, and the bed's account covers its energy; the
plot is in service and not halted (R78), the device not in HOLD (R329), the partition's gate open (R414), no flush under way, and
no capture holds the compute lane (R466). -/
structure LeavesWaits (s : State) (p : PlotIx) (l : Lane) (d : BitVec 1024) : Prop where
  head : (laneGet (s.plot p) l).queue.head? = some d
  queued : (laneGet (s.plot p) l).stage = .queued
  free : (laneGet (s.plot p) l).run = none
  mode : (s.plot p).mode = .idle ∨ (s.plot p).mode = .run
  noHold : holdActive s = false
  gate : gateOpen s p = true
  noFlush : (s.plot p).flushing = false
  noCapture : l = .move ∨ (s.plot p).capture = none
  waitAll : hWaitAll d = true → laneEmpty (laneGet (s.plot p) (laneOther l)) = true
  sem : hSemWait d = true → (s.bed (bedOf p)).sems[hWaitSem d] ≠ 0
  energy : (energyNeed s (bedOf p) (hEnergy d) : Int) ≤ (s.bed (bedOf p)).energy

/-- Steps 5 and the header's part of step 6 find nothing: the ERA is the plot's, and no reserved header field is set. -/
structure Issues (s : State) (p : PlotIx) (l : Lane) (d : BitVec 1024) : Prop extends LeavesWaits s p l d where
  era : hEra d = (s.plot p).era.toNat
  header : headerReserved d = false

/-- The state after steps 1 to 4: the semaphore taken is one lower, the energy is debited, the command has left its queue, and
the plot runs with its clock on. Nothing else is changed. -/
def waited (p : PlotIx) (l : Lane) (d : BitVec 1024) (s : State) : State :=
  let n := energyNeed s (bedOf p) (hEnergy d)
  (s.onBed (bedOf p) fun b =>
    { b with
      sems := if hSemWait d then b.sems.set (hWaitSem d).val (b.sems[hWaitSem d] - 1) (hWaitSem d).isLt else b.sems
      energy := b.energy - (n : Int)
      debited := b.debited + n }).onPlot p fun x =>
    laneSet { x with mode := .run, clkGated := false } l
      { laneGet x l with queue := (laneGet x l).queue.tail, stage := .queued }

/-- The same with the begin of the command in the trace (R462). -/
def afterWaits (p : PlotIx) (l : Lane) (d : BitVec 1024) (s : State) : State := traceCommand p l d false 0 0 (waited p l d s)

/-- What steps 6 and 7 look at: the state after the waits. -/
def passes (check : PlotIx → BitVec 1024 → State → Option (Nat × Nat)) (p : PlotIx) (l : Lane) (d : BitVec 1024) (s : State) : Prop :=
  check p d (afterWaits p l d s) = none

/-- CYCLES that R79 plans: four times as many in reduced mode, and 8 more in an image with TRACE_EN (R458). -/
def plannedCycles (s : State) (p : PlotIx) (n : Nat) : Nat :=
  (if (s.plot p).reduced then 4 else 1) * n + (if s.dev.traceEn then 8 else 0)

/-- A run of which no unit is done. -/
def freshRun (d : BitVec 1024) (total cycles : Nat) : Run :=
  { desc := d, done := 0, total := total, status := 0, esc := 0, retries := 0, cycles := cycles, faultAddr := 0, misses := 0 }

/-- The state in which step 8 of a command begins: after the waits, with the layer state reset where the command names another
layer (R119), and a run of `total` units of which none is done. -/
def begun (p : PlotIx) (l : Lane) (d : BitVec 1024) (total cycles : Nat) (s : State) : State :=
  (afterWaits p l d s).onPlot p fun x =>
    let y := if l = .compute then layerStart d x else x
    laneSet y l { laneGet y l with run := some (freshRun d total cycles) }

/-- No error in any scratchpad read of a step. -/
def cleanReads : ReadErrs := { ce := [], ue := none }
/-- No error in the table memory. -/
def cleanTable : TableErrs := { ce := 0, ue := false }

/-- The Watch registers and the generator after an accepted run of a tile that exceeded no threshold. -/
def tileCounted (p : PlotIx) (t : TileRun) (s : State) : State :=
  (watchCount p t.ev s).onPlot p fun x => { x with rng := t.rng }

/-- One more unit of a lane's run is done. -/
def oneMore (p : PlotIx) (l : Lane) (n : Nat) (s : State) : State := onRun p l (fun r => { r with done := r.done + n }) s

/-- A byte of the scratchpads, the hold buffers or the T2 halves. -/
def ramByte (s : State) (a : Nat) : Byte := tabGet 0 s.mem.ram a
/-- A byte of host memory. -/
def hostByte (s : State) (a : Nat) : Byte := tabGet 0 s.mem.host a

/-- The residue counts of a plot stand below the thresholds of R482, at which the plot would be pruned. -/
def residueBelow (s : State) (p : PlotIx) : Prop :=
  (s.plot p).win.fault < s.dev.fault.resFaultDay ∧ (s.plot p).win.mismatch < s.dev.fault.resMisHr

/-! ### Resets (R313) -/

/-- Steps 1 to 4 of a partition reset are done: no job lives, nothing of the partition is under way outside its plots, its
function has no queue pair, and no slot of it is VALID at a cistern. -/
structure ResetBegun (q : PartIx) (t : State) : Prop where
  step : (t.part q).resetStep = .draining
  notDone : (t.part q).resetDone = false
  stopped : (t.part q).adm = 3
  jobs : ∀ j ∈ (t.part q).jobs, jobLive j = false
  carriers : (t.part q).carrier = []
  fabric : (t.part q).fabric = []
  collectives : (t.part q).colls = []
  queues : ∀ i : QpIx, (qpOf t (vfOf q) i).state = 0 ∧ (qpOf t (vfOf q) i).journal = []
  epochs : ∀ (c : CisIx) (k : Nat), k < 256 → (cisEpoch t c q k).getLsbD 24 = false

/-- What every device reset leaves: the state of power-on, but for the flash devices, the fuses and host memory. -/
structure DeviceWasReset (s t : State) : Prop where
  time : t.time = 0
  plots : t.plots = State.reset.plots
  beds : t.beds = State.reset.beds
  cisterns : t.cis = State.reset.cis
  parts : t.parts = State.reset.parts
  functions : t.fns = State.reset.fns
  cores : t.cores = State.reset.cores
  links : t.bvl = State.reset.bvl
  codec : t.codec = State.reset.codec
  mem : t.mem = { Memories.reset with host := s.mem.host }
  flash : t.image.flash = s.image.flash
  boot : t.image.boot = .off
  jobsLost : jobsLost s = true → t.pf0.jobsLost = true

/-! ### The fabric (R392 to R400) -/

/-- No transfer and no collective of any partition is in progress. -/
def FabricIdle (s : State) : Prop := ∀ q : PartIx, (s.part q).fabric = [] ∧ (s.part q).colls = []

/-- The only transfer in progress is `o` of partition q, and no collective is. -/
def OnlyTransfer (s : State) (q : PartIx) (o : FabricOp) : Prop :=
  (s.part q).fabric = [o] ∧ (∀ k : PartIx, k ≠ q → (s.part k).fabric = []) ∧ ∀ k : PartIx, (s.part k).colls = []

/-- A good frame of a type reaches a port that is up (R391, R392). -/
structure Arrives (s : State) (p : PortIx) (ty : Nat) (f : Frame) : Prop where
  up : portUp s p = true
  good : frameBad s p f = false
  type : fTy f = ty

/-- The PSN that the receiver expects of a frame: that of a RESTART is taken as it comes, and so is a new flow's first. -/
def expectedPsn (s : State) (p : PortIx) (f : Frame) : Word :=
  if fRestart f then fPsn f else ((flowOf s p (fSrcDev f) (fLc f)).map (·.expected)).getD (fPsn f)

/-- The frame is the next of its flow, with the check value and length of its payload (R395, R396). -/
def isNext (s : State) (p : PortIx) (f : Frame) : Prop :=
  fPsn f = expectedPsn s p f ∧ crc32c f.payload = fCrc f ∧ f.payload.length = fld f.header 0x14 15 0

/-- A sequenced frame is accepted: it arrives outside HOLD and is the next of its flow. -/
structure InOrder (s : State) (p : PortIx) (ty : Nat) (f : Frame) : Prop extends Arrives s p ty f where
  noHold : holdActive s = false
  next : isNext s p f

/-- The first n bytes of a range in T1 or T2 lie in one page and one tier. -/
def onePage (s : State) (a n : Nat) : Prop := 0 < n ∧ a / pageBytes = (a + n - 1) / pageBytes ∧ tierOf s a = .t2

/-- The last frame that left. -/
def lastFrame (s : State) : Option (PortIx × Frame) := s.bvl.wire.getLast?

/-! ### The monitor (R448, R459, R460) -/

/-- One line waits at the monitor, it names the command, and no character waits. -/
def Serving (s : State) (mbx : Bool) (c : Instr) : Prop :=
  s.pins.fifo = [] ∧ ∃ l, s.monitor.lines = [(mbx, l)] ∧ parseLine l = .ok c

/-- The line is answered with these lines and an OK or an error behind them, the way it came: into the mailbox buffer, or out of
the UART. Everything else is as in `s`, but that the line is gone and a new rate of the UART holds. -/
def Answered (s t : State) (mbx : Bool) (body : List (List Byte)) (e : Option MonErr) : Prop :=
  t = sendReply mbx body e { s with monitor := { s.monitor with lines := [] } }

/-! ### Collectives (R408 to R413) -/

/-- The only collective of partition q is `c`, in progress. -/
structure InCollective (s : State) (q : PartIx) (c : CollOp) : Prop where
  only : (s.part q).colls = [c]
  started : c.started = true
  status : c.status = 0
  noTrace : s.dev.traceEn = false

/-- A leaf of a REDUCE of at most one chunk without VAR has sent nothing yet; its contribution is in T2, and its parent is
reached through port p, with room for one frame. -/
structure LeafOfReduce (s : State) (q : PartIx) (c : CollOp) (p : PortIx) : Prop extends InCollective s q c where
  isReduce : c.isReduce = true
  fixed : cdVar c.desc = false
  leaf : ownChildren c = []
  notRoot : ownRank c ≠ 0
  nothing : c.sentPages = 0 ∧ c.early = [] ∧ c.acc = [] ∧ c.added = []
  small : 0 < cdBytes c.desc ∧ cdBytes c.desc ≤ 4096
  stage : tierOf s (cdStage c.desc) = .t2 ∧ cdStage c.desc % pageBytes = 0
  src : tierOf s (cdSrc c.desc) = .t2
  noHold : holdActive s = false
  port : portFor s (cdSrc c.desc) 0
    (groupMember s c.desc (indexOf c.desc c.members (treeParent (cdFanin c.desc) (ownRank c)))).1 = some p
  room : roomIn s p (groupMember s c.desc (indexOf c.desc c.members (treeParent (cdFanin c.desc) (ownRank c)))).1
    (cdLc c.desc) 1 = true

/-- Its contribution leaves in one WRITE to its first page slot in the parent's STAGE, under the collective's sequence number. -/
def LeafSends (s t : State) (c : CollOp) (p : PortIx) : Prop :=
  t.mem = s.mem ∧ ∃ g, t.bvl.wire = s.bvl.wire ++ [(p, g)] ∧ fTy g = 0 ∧ fXfer g = cdSeq c.desc ∧
    (fAddr g).toNat = cdStage c.desc + treePlace (cdFanin c.desc) (ownRank c) * 131072 ∧
    g.payload = ramRead s (cdSrc c.desc) (cdBytes c.desc)

/-- A completion record of a fabric or collective descriptor (R223): TAG, status, partition, BYTES_DONE and time. -/
def sluiceRecord (tag st part done time : Nat) : BitVec 128 :=
  BitVec.ofNat 128 (tag + st * 2 ^ 16 + part * 2 ^ 24 + done * 2 ^ 32 + time * 2 ^ 64)

end Sys2Proof.Machine
end

