-- ==== Sys2Proof/Certificates/Slice0/Obligations.lean ====
section
/-! DEFINITION. The statements about the machine: what each command does and leaves, and what holds of every step. -/

open Sys2Proof Sys2Proof.Machine Host

/-- The front command runs on the state without it; an empty queue is one tick (the model's choice, log entry 2). -/
def Obligations.StepRunsFrontCommand : Prop :=
  (∀ (c : Instr) (rest : List Instr) (s : State), s.pending = c :: rest → step s = exec c { s with pending := rest }) ∧
  ∀ s : State, s.pending = [] → s.bvl.slew = 0 → ∃ t, step s = .next t ∧ t.time = s.time + 1 ∧ t.pending = []

/-- No meaning touches the queue. -/
def Obligations.StepConsumesOneCommand : Prop := ∀ s t : State, step s = .next t → t.pending = s.pending.tail

/-- The only stop: a sector that the module does not have (R212). -/
def Obligations.OnlyAbsentSectorsStop : Prop :=
  ∀ (c : Instr) (s : State),
    let absent (sector : Nat) : Prop := 256 * (if s.image.order512 then 7864320 else 15728640) ≤ sector
    let stops : Prop :=
      match c with
      | .lpddrRead sector _ _ _ => absent sector
      | .lpddrWrite sector _ _ _ => absent sector
      | .scrubSector sector _ => absent sector
      | _ => False
    (stops → exec c s = .fault .absentSector) ∧ (¬ stops → ∃ t, exec c s = .next t)

/-- The invariant `Safe` is kept by every step, whatever command stands at the front. -/
def Obligations.StepKeepsMemoryCanonical : Prop := ∀ s t : State, Safe s → step s = .next t → Safe t

/-- 'They cannot be changed in the field' (R353). -/
def Obligations.FusesNeverChange : Prop :=
  ∀ s t : State, step s = .next t →
    t.image.keyHash = s.image.keyHash ∧ t.image.revoked = s.image.revoked ∧ t.image.order512 = s.image.order512

/-- The reset values that the register tables give, for every instance. -/
def Obligations.ResetState : Prop :=
  Safe State.reset ∧ State.reset.pending = [] ∧ State.reset.time = 0 ∧ State.reset.image.boot = .off ∧
  (∀ p : PlotIx, let x := State.reset.plot p
    x.mode = .reset ∧ x.reduced = true ∧ x.era = 0 ∧ x.banks = 0 ∧ x.haltCause = 0 ∧ laneEmpty x.compute = true ∧ laneEmpty x.move = true ∧
      x.rng.s0 = 1 ∧ x.rng.s1 = 0 ∧ x.rng.s2 = 0 ∧ x.rng.s3 = 0 ∧ x.rng.draws = 0) ∧
  (∀ (b : BedIx) (k : Fin 64), (State.reset.bed b).sems[k] = 0) ∧
  (∀ (f : FnIx) (i : QpIx), let x := (State.reset.func f).qps[i]; x.state = 0 ∧ x.journal = [] ∧ x.nextSsn = 0) ∧
  (∀ q : PartIx, (State.reset.part q).defined = false ∧ (State.reset.part q).jobs = []) ∧
  ∀ (c : CisIx) (k : Fin 64), (State.reset.cistern c).chans[k].state = 0

/-- Submission and back-pressure (R64). -/
def Obligations.SubmissionEntersLane : Prop :=
  ∀ (s : State) (p : PlotIx) (d : BitVec 1024),
    let l : Lane := if d.toNat % 256 = 9 then .move else .compute
    let y := laneGet (s.plot p) l
    (y.queue.length < 32 → y.held = [] → exec (.plotCommandSubmit p d) s =
      .next (s.setPlot p (laneSet { s.plot p with clkGated := false } l { y with queue := y.queue ++ [d] }))) ∧
    (32 ≤ y.queue.length ∨ y.held ≠ [] → exec (.plotCommandSubmit p d) s =
      .next (s.setPlot p (laneSet (s.plot p) l { y with held := y.held ++ [d] }))) ∧
    ∀ (k : Lane) (e : BitVec 1024) (rest : List (BitVec 1024)),
      let z := laneGet (s.plot p) k
      z.held = e :: rest → z.queue.length < 32 → exec (.backpressureEntry p k) s =
        .next (s.setPlot p (laneSet { s.plot p with clkGated := false } k { z with queue := z.queue ++ [e], held := rest }))

/-- Step 8 of the compute commands that work unit by unit begins. -/
def Obligations.ComputeCommandsBegin : Prop :=
  ∀ (s : State) (p : PlotIx) (d : BitVec 1024), Issues s p .compute d →
    (hOp d = 0x01 → passes checkGemm p .compute d s → exec (.gemm p) s =
      .next (begun p .compute d (gemmTiles d - startTile d) (plannedCycles s p (gemmCycles d)) s)) ∧
    (hOp d = 0x03 → passes checkVec p .compute d s → exec (.vec p) s =
      .next (begun p .compute d (vCount d) (plannedCycles s p (vecCycles d)) s)) ∧
    (hOp d = 0x04 → passes checkStat p .compute d s → exec (.stat p) s =
      .next (begun p .compute d (sRows d) (plannedCycles s p (statCycles d)) s)) ∧
    (hOp d = 0x07 → passes checkRand p .compute d s → exec (.rand p) s =
      .next (begun p .compute d (rTotal d) (plannedCycles s p (randCycles d)) s)) ∧
    (hOp d = 0x0A → passes checkZero p .compute d s → exec (.zero p) s =
      .next (begun p .compute d (zCount d) (plannedCycles s p (8 + cdiv (zCount d) 4096)) s)) ∧
    (hOp d = 0x0B → bytesSet d 0x20 0x80 = false → exec (.sync p) s =
      .next (begun p .compute d 0 (4 + if s.dev.traceEn then 8 else 0) s)) ∧
    (hOp d = 0x0C → passes checkTest p .compute d s → exec (.test p none) s =
      .next (begun p .compute d 0 (testCycles (testPattern d) + if s.dev.traceEn then 8 else 0) s)) ∧
    (hOp d = 0x05 → uOp d = 0 → Issues (reloadDefaults p s) p .compute d → passes checkEval p .compute d (reloadDefaults p s) →
      exec (.sfuEval p) s = .next (begun p .compute d (uCount d)
        (plannedCycles s p (evalCycles ((reloadDefaults p s).plot p) d)) (reloadDefaults p s)))

/-- Step 5 of R68 for every opcode, and step 6 for the unknown ones. -/
def Obligations.StaleAndUnknownFail : Prop :=
  ∀ (s : State) (p : PlotIx) (d : BitVec 1024),
    let failed (c : Instr) (l : Lane) (st : Nat) : Prop :=
      ∃ t, exec c s = .next t ∧ t.mem = s.mem ∧ (t.plot p).era = (s.plot p).era ∧ (laneGet (t.plot p) l).run = none ∧
        (laneGet (t.plot p) l).queue = (laneGet (s.plot p) l).queue.tail ∧
        (t.plot p).mode = .halted ∧ (t.plot p).haltCause = BitVec.ofNat 8 st ∧ (t.plot p).lastStatus = BitVec.ofNat 8 st ∧
        (t.bed (bedOf p)).ring = (s.bed (bedOf p)).ring ++
          [(completionRecord d st p.val (laneCode l) 0 0 0 s.time.toNat (startTile d) 0, BitVec.ofNat 32 (hEpoch d))]
    (residueBelow s p →
      (LeavesWaits s p .compute d → hEra d ≠ (s.plot p).era.toNat →
        ∀ e ∈ [(0x01, Instr.gemm p), (0x03, .vec p), (0x04, .stat p), (0x07, .rand p), (0x08, .attn p), (0x0A, .zero p), (0x0B, .sync p),
          (0x0C, .test p none)], hOp d = e.1 → failed e.2 .compute 0x06) ∧
      (LeavesWaits s p .move d → hEra d ≠ (s.plot p).era.toNat → hOp d = 0x09 → failed (.move p) .move 0x06) ∧
      (Issues s p .compute d → hOp d = 0 ∨ 0x0C < hOp d → failed (.unknownOpcode p) .compute 0x01))

/-- The two compute commands that work as a whole. -/
def Obligations.LoadsAndRotationsRun : Prop :=
  ∀ (s : State) (p : PlotIx) (d : BitVec 1024), Issues s p .compute d →
    (hOp d = 0x05 → uOp d = 1 → Issues (reloadDefaults p s) p .compute d → passes checkLoad p .compute d (reloadDefaults p s) →
      let u := reloadDefaults p s
      let tab := t0Read s p (w32 d 0x20) (uCount d)
      ∃ t, exec (.sfuLoad p cleanReads) s = .next t ∧ t.mem = s.mem ∧
        (∀ j : Fin 8, j ≠ uSlot d → (t.plot p).sfu[j] = (u.plot p).sfu[j]) ∧
        (tableOk (uSlot d).val (w32 d 0x30) tab = true → (t.plot p).sfu[uSlot d] = slotOf tab ∧
          (t.plot p).compute.run = some (freshRun d 0 (plannedCycles s p (32 + cdiv (uCount d) 64)))) ∧
        (tableOk (uSlot d).val (w32 d 0x30) tab = false → (t.plot p).sfu[uSlot d] = SfuSlot.reset ∧
          (t.plot p).compute.run = none ∧ (t.plot p).lastStatus = 0x02)) ∧
    (hOp d = 0x06 → passes checkRot p .compute d s →
      let draws := rndList (flag d 0x28 21) (tRows d * tLen d) (s.plot p).rng
      exec (.rot p cleanReads) s = .next (clearTags p ((List.range (tRows d)).foldl
        (fun u r => rotPut p d r ((draws.1.drop (r * tLen d)).take (tLen d)) u)
        ((begun p .compute d 0 (plannedCycles s p (32 + cdiv (tRows d * tLen d) 256 * cdiv (tLog d) 6)) s).onPlot p
          fun x => { x with rng := draws.2 }))))

/-- Step 8 of the commands that move data or wait on other units. -/
def Obligations.MoveAttnConvBegin : Prop :=
  ∀ (s : State) (p : PlotIx) (d : BitVec 1024),
    (Issues s p .move d → hOp d = 0x09 → passes checkMove p .move d s →
      let n := plannedCycles s p (40 + cdiv (mvBytes d * mvRows d) 256)
      ((ownT0 s p (mvSrc d) && ownT0 s p (mvDst d)) = true → exec (.move p) s = .next (begun p .move d (mvRows d) n s)) ∧
      ((ownT0 s p (mvSrc d) && ownT0 s p (mvDst d)) = false → exec (.move p) s =
        .next { begun p .move d (mvRows d) (n + Config.moveLatency s.fresh) s with fresh := s.fresh + 1 })) ∧
    (Issues s p .compute d → hOp d = 0x08 → passes checkAttn p .compute d s →
      ∃ t n, exec (.attn p) s = .next t ∧ n = attnTiles s p d - startTile d ∧
        (t.plot p).compute.run = some (freshRun d n (plannedCycles s p (600 + keyTileCycles d * n))) ∧
        (t.plot p).walk.pos = startTile d * aSlices d ∧ (t.plot p).walk.fetched = 0 ∧ (t.plot p).walk.wait = .none ∧
        ((s.plot p).ring.addr.toNat = w32 d 0x30 → (s.plot p).ring.pages = aRing d → (t.plot p).ring = (s.plot p).ring) ∧
        (aResume d = true → t.mem = s.mem) ∧ (t.plot p).move = (s.plot p).move) ∧
    (Issues s p .compute d → hOp d = 0x02 → cHalo d = false → passes checkConv p .compute d s →
      exec (.conv p) s = .next (begun p .compute d (convTiles d - startTile d) (plannedCycles s p (convCycles d)) s)) ∧
    ∀ (q : PartIx) (since : DWord), convHead s p = some d → (s.plot p).compute.stage = .halo since → plotPart (s.plot p) = some q →
      haloShort s q (haloDesc s p d) = none →
      exec (.haloWaitRelease p) s = .next (convGo p d
        ((s.onCis 0 fun c => { c with halo := { c.halo with
          time := c.halo.time.set q.val (satAdd c.halo.time[q] ((s.time - since).toNat / 1000)) q.isLt } }).onPlot p fun x =>
            { x with compute := { x.compute with stage := .haloDone } }))

/-- The halo wait (R191, R193). -/
def Obligations.HaloWaits : Prop :=
  ∀ (s : State) (p : PlotIx) (q : PartIx) (d : BitVec 1024), plotPart (s.plot p) = some q →
    (LeavesWaits s p .compute d → hOp d = 0x02 → cHalo d = true → (haloDesc s p d).ok = true → hSemWait d = false →
      (haloShort s q (haloDesc s p d)).isSome = true →
      ∃ t, exec (.conv p) s = .next t ∧ (t.plot p).compute.queue = (s.plot p).compute.queue ∧
        (t.plot p).compute.stage = .halo s.time ∧ (t.plot p).compute.run = none ∧ t.beds = s.beds ∧ t.mem = s.mem ∧
        (t.cistern 0).halo.stall[q] = satAdd (s.cistern 0).halo.stall[q] 1 ∧ (t.cistern 0).halo.time = (s.cistern 0).halo.time) ∧
    ∀ (since : DWord) (tag need : Nat), convHead s p = some d → (s.plot p).compute.stage = .halo since →
      haloShort s q (haloDesc s p d) = some (tag, need) → 1000 * s.dev.haloLimit.toNat < (s.time - since).toNat →
      ∃ t, exec (.haloLongWait p) s = .next t ∧ t.plots = s.plots ∧ t.mem = s.mem ∧ t.beds = s.beds ∧
        (let h := (t.cistern 0).halo
         h.longTag.toNat = tag % 512 ∧ h.longPart.toNat = q.val ∧ h.longPlot.toNat = p.val ∧ h.longValid = true ∧
          h.longNeed.toNat = need % 65536 ∧ h.longCurrent = haloTag s q tag ∧ h.stall = (s.cistern 0).halo.stall ∧
          h.tags = (s.cistern 0).halo.tags) ∧
        t.alm.events = s.alm.events ++ [evHaloStall]

/-- The clean end of a tile of each kind. -/
def Obligations.TilesComplete : Prop :=
  ∀ (s : State) (p : PlotIx) (r : Run), (s.plot p).compute.run = some r → r.done < r.total → holdActive s = false →
    (s.plot p).flushing = false →
    (hOp r.desc = 0x01 →
      let j := gemmJob p r s
      let u := j.run j.rung (s.plot p).rng
      startRung (s.plot p) r.desc j = j.rung → extsFault (s.plot p) (j.exts j.rung) = none →
      (hWatch r.desc = false ∨ exceededMask r.desc u.ev = 0) →
      (∃ t, exec (.outputTileComplete p [] cleanReads) s = .next t ∧ t = oneMore p .compute 1 (putWrites p u.writes (tileCounted p u s)) ∧
        (t.plot p).compute.run = some { r with done := r.done + 1 } ∧ (t.plot p).rng = u.rng ∧
        ∀ a, (∀ w ∈ u.writes, a < t0Addr p w.1 ∨ t0Addr p w.1 + w.2.length ≤ a) → ramByte t a = ramByte s a)) ∧
    (∀ q, hOp r.desc = 0x02 → plotPart (s.plot p) = some q → convReady s q r.desc (startTile r.desc + r.done) = true →
      let j := convJob p r s
      let u := j.run j.rung (s.plot p).rng
      let w := convPut p q r.desc (convFresh r (tileCounted p u s)) u.writes
      startRung (s.plot p) r.desc j = j.rung → extsFault (s.plot p) (j.exts j.rung) = none →
      (hWatch r.desc = false ∨ exceededMask r.desc u.ev = 0) → w.2 = none → (w.1.plot p).flushing = false →
      exec (.stripeTileComplete p [] cleanReads) s = .next (oneMore p .compute 1 w.1)) ∧
    (hOp r.desc = 0x08 → (aStatic r.desc = true → staticFault s p r.desc (startTile r.desc + r.done) = false) →
      tileReady (s.plot p) r.desc = true → extsFault (s.plot p) (attnRegions r.desc) = none →
      (∃ s1 stats, tileStats p r.desc (attnPattern s p r.desc) ((s.plot p).walk.queue.take (aSlices r.desc)) s = (s1, .ok stats)) →
      ∃ t k, exec (.keyTileComplete p [] cleanReads) s = .next t ∧
        (t.plot p).compute.run = some { r with done := r.done + 1, misses := r.misses + k } ∧
        (t.plot p).walk.queue = (s.plot p).walk.queue.drop (aSlices r.desc) ∧
        (t.plot p).walk.fetched = (s.plot p).walk.fetched - aSlices r.desc)

/-- Units and rows (R488, R78). -/
def Obligations.UnitsAndRowsComplete : Prop :=
  ∀ (s : State) (p : PlotIx), holdActive s = false → (s.plot p).flushing = false →
    (∀ (r : Run) (n : Nat), (s.plot p).compute.run = some r → unitSize r.desc = some n → r.done + n ≤ r.total →
      extsFault (s.plot p) (unitExts r.desc r.done n) = none →
      exec (.unitComplete p cleanReads cleanTable) s = .next (oneMore p .compute n (unitRun p r.desc r.done n s)) ∧
      (hOp r.desc = 0x0A → ∃ t, exec (.unitComplete p cleanReads cleanTable) s = .next t ∧
        (∀ i, i < n → ramByte t (t0Addr p (w32 r.desc 0x20 + r.done + i)) = BitVec.ofNat 8 (w32 r.desc 0x28 / 2 ^ (8 * (i % 4)))) ∧
        ∀ a, a < t0Addr p (w32 r.desc 0x20 + r.done) ∨ t0Addr p (w32 r.desc 0x20 + r.done) + n ≤ a → ramByte t a = ramByte s a)) ∧
    ∀ (r : Run) (q : PartIx), (s.plot p).move.run = some r → hOp r.desc = 0x09 → r.done < r.total → plotPart (s.plot p) = some q →
      let a := mvSrc r.desc + r.done * mvSrcLd r.desc
      let b := mvDst r.desc + r.done * mvDstLd r.desc
      let n := mvBytes r.desc
      tierOf s a = .t0 → tierOf s b = .t0 → b % bedStride + n ≤ t0Size → mvBale r.desc = 0 →
      rowRetired s a n = none → rowRetired s b n = none →
      ∃ t, exec (.moveRowComplete p cleanReads []) s = .next t ∧ (t.plot p).move.run = some { r with done := r.done + 1 } ∧
        (∀ i, i < n → ramByte t (b + i) = ramByte s (a + i)) ∧
        ∀ x, x < b ∨ b + n ≤ x → ramByte t x = ramByte s x

/-- Steps 9 to 11 of R68. -/
def Obligations.CommandsComplete : Prop :=
  ∀ (s : State) (p : PlotIx) (l : Lane) (r : Run), (laneGet (s.plot p) l).run = some r → holdActive s = false →
    (s.plot p).flushing = false → s.dev.cuttingEn = false → residueBelow s p →
    (hOp r.desc = 0x0B ∧ l = .compute ∨ hOp r.desc = 0x01 ∧ l = .compute ∧ r.done = r.total ∨ hOp r.desc = 0x09 ∧ l = .move ∧ r.done = r.total) →
    let b := bedOf p
    let k := hPostSem r.desc
    let record (st : Nat) := (completionRecord r.desc st p.val (laneCode l) r.esc r.retries r.cycles s.time.toNat (startTile r.desc + r.done) 0,
      BitVec.ofNat 32 (hEpoch r.desc))
    ∃ t, exec (.commandComplete p l cleanReads cleanTable []) s = .next t ∧ (laneGet (t.plot p) l).run = none ∧ t.mem = s.mem ∧
      (t.plot p).lastTag.toNat = hTag r.desc ∧ (t.plot p).lastOp.toNat = hOp r.desc ∧
      (hSemPost r.desc = false ∨ (s.bed b).sems[k] ≠ 0xFFFF → (t.plot p).lastStatus = 0 ∧
        (t.bed b).ring = (s.bed b).ring ++ (if hEvt r.desc then [record 0] else []) ∧
        (t.bed b).sems = if hSemPost r.desc then (s.bed b).sems.set k.val ((s.bed b).sems[k] + 1) k.isLt else (s.bed b).sems) ∧
      (hSemPost r.desc = true → (s.bed b).sems[k] = 0xFFFF → (t.bed b).sems = (s.bed b).sems ∧
        (t.bed b).ring = (s.bed b).ring ++ (if hEvt r.desc then [record 0] else []) ++ [record 0x0B] ∧
        ((s.plot p).mode = .run → (t.plot p).mode = .halted ∧ (t.plot p).haltCause = 0x0B))

/-- The end of a capture (R466). -/
def Obligations.CaptureReleases : Prop :=
  ∀ (s : State) (p : PlotIx) (k : Capture), (s.plot p).capture = some k → holdActive s = false → (s.plot p).move.run = none →
    let b := bedOf p
    let i := hPostSem k.desc
    ∃ t, exec (.captureComplete p) s = .next t ∧ (t.plot p).capture = none ∧
      (hSemPost k.desc = false → (t.bed b).sems = (s.bed b).sems) ∧
      (hSemPost k.desc = true → (s.bed b).sems[i] ≠ 0xFFFF →
        (t.bed b).sems = (s.bed b).sems.set i.val ((s.bed b).sems[i] + 1) i.isLt)

/-- R198. -/
def Obligations.GeneratorStepsAndLoads : Prop :=
  (∀ g : Rng, let t := g.s0 ^^^ (g.s0 <<< 11)
    let v := g.s3 ^^^ (g.s3 >>> 19) ^^^ t ^^^ (t >>> 8)
    (rngStep g).1 = v.toNat ∧ (rngStep g).2.s0 = g.s1 ∧ (rngStep g).2.s1 = g.s2 ∧ (rngStep g).2.s2 = g.s3 ∧ (rngStep g).2.s3 = v) ∧
  ∀ (s : State) (p : PlotIx) (w0 w1 w2 w3 : Word), idlePoint (s.plot p) = true →
    (s.plot p).rng.staged0 = some w0 → (s.plot p).rng.staged1 = some w1 → (s.plot p).rng.staged2 = some w2 → (s.plot p).rng.load = some w3 →
    ∃ t, exec (.rngStateApply p) s = .next t ∧ (t.plot p).rng.s1 = w1 ∧ (t.plot p).rng.s2 = w2 ∧ (t.plot p).rng.s3 = w3 ∧
      (t.plot p).rng.s0 = if w0 = 0 ∧ w1 = 0 ∧ w2 = 0 ∧ w3 = 0 then 1 else w0

/-- PLT_CTL.FLUSH and PLT_CTL.RESUME (R78). -/
def Obligations.FlushAndResume : Prop :=
  ∀ (s : State) (p : PlotIx) (rw : BitVec 3),
    let x := s.plot p
    let flushed (l : Lane) (d : BitVec 1024) : BitVec 256 × Word :=
      (completionRecord d 0x0D p.val (laneCode l) 0 0 0 s.time.toNat (startTile d) 0, BitVec.ofNat 32 (hEpoch d))
    (∀ resume : Bool, x.mode = .idle ∨ x.mode = .halted → x.compute.run = none → x.move.run = none → x.compute.stage = .queued →
      x.move.stage = .queued → x.flushing = false → x.flushRec = false → x.resumeAfter = false →
      ∃ t, exec (.plotFlush p resume rw) s = .next t ∧ t.mem = s.mem ∧ (t.bed (bedOf p)).sems = (s.bed (bedOf p)).sems ∧
        (t.plot p).compute = { x.compute with queue := [] } ∧ (t.plot p).move = { x.move with queue := [] } ∧
        (t.bed (bedOf p)).ring = (s.bed (bedOf p)).ring ++ x.compute.queue.map (flushed .compute) ++ x.move.queue.map (flushed .move) ∧
        (x.compute.queue = [] → x.move.queue = [] → resume = false → (t.plot p).mode = x.mode ∧ (t.plot p).haltCause = x.haltCause) ∧
        (resume = false → (x.compute.queue ≠ [] ∨ x.move.queue ≠ []) → (t.plot p).mode = .halted ∧ (t.plot p).haltCause = 0x0D) ∧
        (resume = true → (t.plot p).mode = .idle ∧ (t.plot p).haltCause = 0)) ∧
    let y : Plot := { x with
      reducedReq := if rw.getLsbD 0 = false ∧ x.banks ≠ 0 then x.reducedReq else some (rw.getLsbD 0)
      pgReq := rw.getLsbD 1
      cgDis := rw.getLsbD 2 }
    (x.mode = .halted → exec (.plotResume p rw) s = .next (s.setPlot p { y with
      mode := if x.compute.run.isSome ∨ x.move.run.isSome then .run else .idle, haltCause := 0 })) ∧
    (x.mode ≠ .halted → exec (.plotResume p rw) s = .next (s.setPlot p y)) ∧
    exec (.reducedRequest p rw) s = .next (s.setPlot p y)

/-- PLT_CTL.PLOT_RESET and its end (R92). -/
def Obligations.PlotResets : Prop :=
  ∀ (s : State) (p : PlotIx),
    (∀ rw : BitVec 3, (s.plot p).mode = .idle ∨ (s.plot p).mode = .halted → resetUnderWay s p = false →
      (s.plot p).compute.run = none → (s.plot p).move.run = none → (s.plot p).compute.stage = .queued → (s.plot p).move.stage = .queued →
      ∃ t, exec (.plotReset p rw) s = .next t ∧ t.mem = s.mem ∧ (t.plot p).mode = .reset ∧ (t.plot p).era = (s.plot p).era + 1 ∧
        (t.plot p).reduced = true ∧ (t.plot p).haltCause = 0 ∧ (t.plot p).compute = { (s.plot p).compute with queue := [] } ∧
        (t.plot p).move = { (s.plot p).move with queue := [] } ∧ (t.plot p).rng.s0 = 1 ∧ (t.plot p).rng.s1 = 0 ∧ (t.plot p).rng.s2 = 0 ∧
        (t.plot p).rng.s3 = 0 ∧ (∀ k : Fin 8, ((t.plot p).sfu[k]).valid = false) ∧
        (t.bed (bedOf p)).ring.length = (s.bed (bedOf p)).ring.length + (s.plot p).compute.queue.length + (s.plot p).move.queue.length) ∧
    (∀ (rw : BitVec 3) (q : PartIx), (s.plot p).mode = .reset → plotPart (s.plot p) = some q →
      ∃ t, exec (.plotReset p rw) s = .next t ∧ (t.plot p).era = (s.plot p).era ∧ (t.plot p).mode = .reset ∧
        (t.part q).absorbed = satAdd (s.part q).absorbed 1) ∧
    ((s.plot p).mode = .reset → s.image.boot = .done → Safe s → ∃ t, exec (.plotResetDone p) s = .next t ∧ (t.plot p).mode = .idle ∧
      (∀ a, t0Addr p 0 ≤ a → a < t0Addr p 0 + t0Size → ramByte t a = 0) ∧
      (∀ a, a < t0Addr p 0 ∨ t0Addr p 0 + t0Size ≤ a → ramByte t a = ramByte s a) ∧ (t.plot p).reduced = (s.plot p).reduced)

/-- R81, R82, R279. -/
def Obligations.PowerGating : Prop :=
  ∀ (s : State) (p : PlotIx),
    (plotJob s p = none → (s.plot p).mode = .idle → plotEmpty (s.plot p) = true →
      exec (.pgIdleTimeout p) s = .next (s.setPlot p { s.plot p with pgReq := true })) ∧
    ((s.plot p).pgReq = true → (s.plot p).mode = .idle → plotEmpty (s.plot p) = true → (s.plot p).compute.held = [] → (s.plot p).move.held = [] →
      lastPowered s p = false → ∃ t, exec (.powerGateEntry p) s = .next t ∧ (t.plot p).mode = .gating ∧ (t.plot p).era = (s.plot p).era + 1 ∧
        (∀ k : Fin 8, ((t.plot p).sfu[k]).valid = false) ∧ t.mem = s.mem ∧ t.beds = s.beds ∧ ∀ n, n ≠ p → t.plot n = s.plot n) ∧
    ((s.plot p).mode = .gating → ∃ t, exec (.powerGateComplete p) s = .next t ∧ (t.plot p).mode = .off ∧ (t.plot p).era = (s.plot p).era ∧
      ∀ a, a < t0Addr p 0 ∨ t0Addr p 0 + t0Size ≤ a → ramByte t a = ramByte s a) ∧
    ((s.plot p).mode = .off → (s.plot p).compute.queue ≠ [] ∨ (s.plot p).move.queue ≠ [] →
      exec (.powerGateWake p) s = .next (s.setPlot p { s.plot p with mode := .waking, pgReq := false })) ∧
    ((s.plot p).mode = .waking → Safe s → ∃ t, exec (.wakeComplete p) s = .next t ∧ (t.plot p).mode = .idle ∧
      (t.plot p).rng.s0 = 1 ∧ (t.plot p).rng.s1 = 0 ∧ (t.plot p).rng.s2 = 0 ∧ (t.plot p).rng.s3 = 0 ∧
      (∀ a, t0Addr p 0 ≤ a → a < t0Addr p 0 + t0Size → ramByte t a = 0) ∧
      ∀ a, a < t0Addr p 0 ∨ t0Addr p 0 + t0Size ≤ a → ramByte t a = ramByte s a)

/-- R80, R86, R209, R298. -/
def Obligations.IdlePointRequests : Prop :=
  (∀ (s : State) (p : PlotIx), idlePoint (s.plot p) = true →
    (∀ v : Bool, (s.plot p).reducedReq = some v → exec (.reducedApply p) s =
      .next (s.setPlot p { s.plot p with reduced := if (s.plot p).banks = 0 then v else true, reducedReq := none })) ∧
    ((s.plot p).cgDis = false → exec (.clockGate p) s = .next (s.setPlot p { s.plot p with clkGated := true }))) ∧
  ∀ s : State,
    (∀ (p : PlotIx) (w : Word), exec (.rngStateLoad p w) s =
      .next (s.setPlot p { s.plot p with rng := { (s.plot p).rng with load := some w } })) ∧
    (∀ (b : BedIx) (w : Word), let p := plotOf b (s.bed b).ctxSel.toFin
      (w.getLsbD 27 = true → exec (.layerStateLoad b w) s = .next (s.setPlot p { s.plot p with layerLoad := some w })) ∧
      (w.getLsbD 27 = false → exec (.layerStateLoad b w) s = .next s)) ∧
    ∀ (p : PlotIx) (w : Word), (s.plot p).layerLoad = some w → idlePoint (s.plot p) = true →
      ∃ t, exec (.layerStateInstall p) s = .next t ∧ { t with plots := s.plots } = s ∧ (∀ n, n ≠ p → t.plot n = s.plot n) ∧
        (t.plot p).watch.layer.id.toNat = w.toNat % 2 ^ 16 ∧ (t.plot p).watch.layer.count.toNat = w.toNat / 2 ^ 16 % 2 ^ 8 ∧
        (t.plot p).watch.layer.rung.toNat = w.toNat / 2 ^ 24 % 4 ∧ (t.plot p).watch.layer.wide = w.getLsbD 26 ∧
        { t.plot p with layerLoad := some w, watch := (s.plot p).watch } = s.plot p

/-- R481. -/
def Obligations.BankRetires : Prop :=
  ∀ (s : State) (p : PlotIx) (k : Fin 64) (c : PruneCause) (n : Nat), holdActive s = false → powered (s.plot p) = true →
    (s.plot p).banks.getLsbD k.val = false → bankCalls s p k c = some n → (c = .ceRate → plotEmpty (s.plot p) = true) →
    ((List.range 64).filter fun i => (s.plot p).banks.getLsbD i).length + 1 < s.dev.fault.bankMax → plotJob s p = none →
    ∃ t, exec (.bankRetire p k c) s = .next t ∧ (t.plot p).banks = (s.plot p).banks ||| BitVec.ofNat 64 (2 ^ k.val) ∧
      (t.plot p).reducedReq = some true ∧ t.mem = s.mem ∧ t.beds = s.beds ∧ (∀ m, m ≠ p → t.plot m = s.plot m) ∧
      t.image.pendingLog = s.image.pendingLog ++ [logRecord s 1 11
        (prunePayload 6 p.val k.val (causeCode c) n (tabGet 0 (s.plot p).win.bankReturns k.val))] ∧
      (t.func pf0Fn).cause.getLsbD 6 = true

/-- R161 to R165. -/
def Obligations.WalkerSteps : Prop :=
  (∀ (s : State) (p : PlotIx) (q : PartIx) (r : Run) (g : PageRef) (last : Bool) (e : Nat),
    walkedRun s p = some (q, r) → walkPage s p r = some (g, last, e) →
    let w := (s.plot p).walk
    let at_ := entryAt s q (aTable r.desc) e
    let v := tableEntry s q at_.entry
    let emitted (c : Instr) (hole : Bool) (frame gen : Nat) : Prop := ∃ t, exec c s = .next t ∧
      (t.plot p).walk = { w with wait := .room (pageDesc g frame hole last gen) } ∧ t.alm.walkDesc = satAdd s.alm.walkDesc 1 ∧
      t.alm.walkHole = (if pdHole (pageDesc g frame hole last gen) then satAdd s.alm.walkHole 1 else s.alm.walkHole) ∧ t.mem = s.mem ∧ t.beds = s.beds ∧
      ∀ n, n ≠ p → t.plot n = s.plot n
    let present (c : Instr) : Prop := emitted c false (v / 2 ^ 16 % 2 ^ 32 * 65536) (v / 2 ^ 48 % 2 ^ 16)
    (∀ c : CoreIx, coreServes s c = true → w.wait = .none → tableOkAt s q at_.root 8 = true →
      (at_.valid = true → tableOkAt s q at_.leaf 4096 = true →
        ((s.alm.leaves[c]).contains (leafKey q at_.leaf) = false →
          exec (.pageWalk p c) s = .next (s.onPlot p fun x => { x with walk := { x.walk with wait := .leaf at_.leaf } })) ∧
        ((s.alm.leaves[c]).contains (leafKey q at_.leaf) = true → v % 4 = 1 → present (.pageWalk p c))) ∧
      (at_.valid = false → aMiss r.desc = true → emitted (.pageWalk p c) true 0 0) ∧
      (at_.valid = false → aMiss r.desc = false → exec (.pageWalk p c) s = .next (endRun p .compute r 0x05 (0x80000000 + e)
        { s with alm := { s.alm with walkFault := satAdd s.alm.walkFault 1 } }))) ∧
    (∀ since : DWord, w.wait = .writing since →
      (1000 ≤ (s.time - since).toNat → at_.valid = true → v % 4 = 1 → present (.writingEntryReread p)) ∧
      (1000 ≤ (s.time - since).toNat → at_.valid = true → v % 4 = 2 → exec (.writingEntryReread p) s = .next s) ∧
      (1000 * aMissWait r.desc ≤ (s.time - since).toNat → aMiss r.desc = true → emitted (.missWaitExpire p) true 0 0))) ∧
  (∀ (s s1 : State) (p : PlotIx) (c : CoreIx) (q : PartIx) (r : Run) (a : Nat) (bs : List Byte), walkedRun s p = some (q, r) →
    (s.plot p).walk.wait = .leaf a → coreServes s c = true → accessReady s q none a 4096 false = true →
    routedRead q none a 4096 0 [] s = (s1, .ok bs) →
    ∃ t, exec (.leafFetchComplete p c) s = .next t ∧ (t.plot p).walk = { (s1.plot p).walk with wait := .none } ∧ t.mem = s1.mem ∧
      t.alm.leaves[c] = ((leafKey q a) :: (s1.alm.leaves[c]).filter (· ≠ leafKey q a)).take 32) ∧
  ∀ (s : State) (p : PlotIx) (d : BitVec 128), (s.plot p).walk.wait = .room d → (s.plot p).walk.queue.length < 256 →
    exec (.descriptorEnqueue p) s = .next (s.onPlot p fun x => { x with
      walk := { x.walk with queue := x.walk.queue ++ [d], pos := x.walk.pos + 1, wait := .none } })

/-- R166 to R168. -/
def Obligations.PagesAndEntries : Prop :=
  (∀ (s : State) (p : PlotIx) (q : PartIx) (r : Run) (d : BitVec 128) (flips : Flips), (s.plot p).compute.run = some r →
    plotPart (s.plot p) = some q → (s.plot p).walk.queue[(s.plot p).walk.fetched]? = some d → hOp r.desc = 0x08 → holdActive s = false →
    let one (x : Plot) : Walk := { x.walk with fetched := x.walk.fetched + 1 }
    let a := (pdFrame d).toNat
    let bed := mirrorBed s (bedOf p) 0
    (pdHole d = true → exec (.pageFetchComplete p flips) s = .next (s.onPlot p fun x => { x with walk := one x })) ∧
    (pdHole d = false → (s.plot p).ring.slots.contains (some (pdTag d)) = true →
      ∃ t, exec (.pageFetchComplete p flips) s = .next t ∧ t.mem = s.mem ∧ (t.plot p).walk = one (s.plot p) ∧
        (t.plot p).ring.slots = (s.plot p).ring.slots) ∧
    ∀ (k : Nat) (s1 : State) (bs : List Byte), pdHole d = false → (s.plot p).ring.slots.contains (some (pdTag d)) = false →
      ringVictim (s.plot p) = some k → a % 65536 = 0 → rangeOk s q a 65536 = true → accessReady s q bed a 65536 false = true →
      extFault (s.plot p) (extFlat (w32 r.desc 0x30 + k * 65536) 65536) = none → routedRead q bed a 65536 0 flips s = (s1, .ok bs) →
      ∃ t, exec (.pageFetchComplete p flips) s = .next t ∧ (t.plot p).walk = one (s1.plot p) ∧
        (t.plot p).ring.slots = (s1.plot p).ring.slots.set k (some (pdTag d)) ∧
        t.mem.ram = tabWrite 0 s1.mem.ram (t0Addr p (w32 r.desc 0x30 + k * 65536)) bs) ∧
  (∀ (s : State) (q : PartIx) (entry : DWord) (frame : Word), let a := entry.toNat
    a % 8 = 0 → tableOkAt s q a 8 = true → accessReady s q none a 8 true = true →
    let gen := (tabGet 0 (s.part q).gens frame.toNat + 1).toNat
    let fresh := 2 + frame.toNat * 2 ^ 16 + gen * 2 ^ 48
    let stored (c : Instr) (v : Nat) : Prop := ∃ t, exec c s = .next t ∧ t.plots = s.plots ∧ t.beds = s.beds ∧
      (tierOf s a = .t2 → t.mem.ram = tabWrite 0 s.mem.ram a (bytesOf 8 v) ∧ t.mem.t3 = s.mem.t3 ∧ (Safe s → tableEntry t q a = v)) ∧
      (tierOf s a = .t3 → let e := xltEntry s q ((a - t3Base) / 65536)
        xltOk e ((a - t3Base) / 65536) = true → t.mem = physWrite (e.toNat % 2 ^ 24 * 65536 + a % 65536) (bytesOf 8 v) s.mem)
    stored (.pageEntryWriting q entry frame) fresh ∧
    (∃ t, exec (.pageEntryWriting q entry frame) s = .next t ∧ tabGet 0 (t.part q).gens frame.toNat = tabGet 0 (s.part q).gens frame.toNat + 1) ∧
    (tableEntry s q a % 4 = 2 → stored (.pageEntryPresent q entry) (tableEntry s q a - 1))) ∧
  ∀ (s : State) (q : PartIx) (root : DWord), let r := root.toNat
    Safe s → tableInUse s q r = false → r % 8192 = 0 → tableOkAt s q r 8192 = true →
    let leafOf (i : Nat) : EntryAt := entryAt s q r (512 * i)
    (∀ i < 1024, (leafOf i).valid = true → tierOf s (leafOf i).leaf = .t2 ∧ tableOkAt s q (leafOf i).leaf 4096 = true ∧
      ((leafOf i).leaf + 4096 ≤ r ∨ r + 8192 ≤ (leafOf i).leaf)) →
    ∃ t, exec (.sequenceRelease q root) s = .next t ∧ t.plots = s.plots ∧ t.beds = s.beds ∧ t.mem.t3 = s.mem.t3 ∧
      (∀ i < 1024, (leafOf i).valid = true → ∀ k < 512, let v := tableEntry s q ((leafOf i).leaf + 8 * k)
        tableEntry t q ((leafOf i).leaf + 8 * k) = v - v % 4 + 3) ∧
      ∀ b, (∀ i < 1024, (leafOf i).valid = true → b < (leafOf i).leaf ∨ (leafOf i).leaf + 4096 ≤ b) → ramByte t b = ramByte s b

/-- R219 to R223. -/
def Obligations.CarriersMovePages : Prop :=
  (∀ (s : State) (d : BitVec 512),
    let posted := s.onPart (caPart d) fun x => { x with carrier := x.carrier ++ [{ desc := d, started := false, pages := [], status := 0 }] }
    (d.toNat % 16 = 0 → exec (.carrierCopy d) s = .next posted) ∧ (d.toNat % 16 = 1 → exec (.carrierWriteback d) s = .next posted) ∧
    (d.toNat % 16 = 2 → exec (.carrierFill d) s = .next posted) ∧ (d.toNat % 16 = 3 → exec (.carrierFlush d) s = .next posted)) ∧
  (∀ (s : State) (q : PartIx) (n : Nat) (o : CarrierOp), (s.part q).carrier[n]? = some o → o.started = false → holdActive s = false →
    carrierInFlight s < 16 → (∀ e ∈ (s.part q).carrier.take n, e.started = true) → (caFence o.desc = true → n = 0) →
    ∃ t, exec (.carrierDescriptorStart q n) s = .next t ∧ t.mem = s.mem ∧
      (t.part q).carrier[n]? = some { o with started := true, status := BitVec.ofNat 8 ((checkCarrier o.desc s).getD 0) } ∧
      ∀ k, k ≠ n → (t.part q).carrier[k]? = (s.part q).carrier[k]?) ∧
  (∀ (s : State) (q : PartIx) (n j : Nat) (o : CarrierOp) (flips : Flips), (s.part q).carrier[n]? = some o → o.started = true → o.status = 0 →
    j < caPages o.desc → o.pages.contains j = false → pageReady s q o.desc j = true →
    let d := o.desc
    let a := caSrc d j
    let b := caDst d j
    let near (x : Nat) : Prop := x % 65536 = 0 ∧ (tierOf s x = .t1 ∨ tierOf s x = .t2)
    (∀ s1 : State, pageAction q d j flips s = (s1, none) → exec (.carrierPageComplete q n j flips) s = .next
      (onCarrier q n (fun x => { x with pages := j :: x.pages }) (cisPerfAdd (pageCis s d j) (some q) 0x0A 1 s1))) ∧
    (Safe s → near b → dstAccepts s q b (caEpoch d) = true → (caOp d ≤ 1 → near a ∧ a ≠ b) → caOp d ≤ 2 →
      ∃ t, exec (.carrierPageComplete q n j flips) s = .next t ∧ (t.part q).carrier[n]? = some { o with pages := j :: o.pages } ∧
        t.mem.t3 = s.mem.t3 ∧ t.plots = s.plots ∧
        (∀ x, x < b ∨ b + 65536 ≤ x → ramByte t x = ramByte s x) ∧
        (caOp d = 0 → dirtyMask t b = 0 ∧ ∀ k < 65536, ramByte t (b + k) = ramByte s (a + k)) ∧
        (caOp d = 2 → dirtyMask t b = 0 ∧ ∀ k < 65536, ramByte t (b + k) = BitVec.ofNat 8 (caPattern d / 2 ^ (8 * (k % 4)))) ∧
        (caOp d = 1 → dirtyMask t a = 0 ∧ ∀ k < 65536,
          ramByte t (b + k) = if (dirtyMask s a).getLsbD (k / 4096) then ramByte s (a + k) else ramByte s (b + k)))) ∧
  ∀ (s : State) (q : PartIx) (n : Nat) (o : CarrierOp), (s.part q).carrier[n]? = some o → o.started = true →
    (o.status ≠ 0 ∨ o.pages.length = caPages o.desc) →
    exec (.carrierComplete q n) s = .next (s.onPart q fun x => { x with
      carrier := x.carrier.eraseIdx n
      carrierRing := x.carrierRing ++ [(BitVec.ofNat 128 (caTag o.desc + o.status.toNat * 2 ^ 16 + (caPart o.desc).val * 2 ^ 24 +
        o.pages.length * 2 ^ 32 + s.time.toNat * 2 ^ 64), BitVec.ofNat 32 (caEpoch o.desc))] })

/-- R215, R239. -/
def Obligations.TranslationCaches : Prop :=
  ∀ (s : State) (c : CisIx),
    (∀ w : Word, ((s.cistern c).xltBusy = none → exec (.xltInvalidate c w) s = .next (s.onCis c fun x => { x with xltBusy := some w })) ∧
      ((s.cistern c).xltBusy ≠ none → exec (.xltInvalidate c w) s =
        .next (s.onCis c fun x => { x with xltDropped := satAdd x.xltDropped 1 })) ∧
      ((s.cistern c).xltBusy = some w → ∃ t, exec (.xltInvalidateDone c) s = .next t ∧ t.mem = s.mem ∧ (t.cistern c).xltBusy = none ∧
        ∀ e, e ∈ (t.cistern c).xltCache ↔ e ∈ (s.cistern c).xltCache ∧
          ¬ (e.1.val = w.toNat / 2 ^ 24 % 16 ∧ (w.getLsbD 28 = true ∨ e.2.1.toNat = w.toNat % 2 ^ 24)))) ∧
    ∀ (q : PartIx) (v : BitVec 24), v.toNat % 2 = c.val → v.toNat < t3Quota s q / 65536 →
      (∀ e ∈ (s.cistern c).xltCache, ¬ (e.1 = q ∧ e.2.1 = v)) →
      ∃ t, exec (.xltMissFill c q v) s = .next t ∧ t.mem = s.mem ∧ (t.cistern c).xltMiss = satAdd (s.cistern c).xltMiss 1 ∧
        (t.cistern c).xltCache = ((q, v, tabGet 0 s.mem.xlt (xltKey q v.toNat)) :: (s.cistern c).xltCache).take 8192

/-- R225 to R231. -/
def Obligations.DirectoryAnswers : Prop :=
  ∀ (s : State) (f : BitVec 24) (b : BedIx), let n := f.toNat
    (s.cistern (frameCis n)).dir.queue.length < 256 → (∀ e ∈ (s.cistern (frameCis n)).dir.queue, e.1 ≠ f) →
    let copy (k : Nat) (own fill : Bool) : MirrorCopy :=
      { slot := k, frame := f, owned := own, dirty := 0, filling := fill, tenure := true, recalled := false }
    let others : List MirrorCopy := (s.bed b).mirror.filter fun c => c.frame ≠ f
    (∀ k : Nat, copyOf s b n = none → freeSlot s b = some k →
      (bedMayRequest s n (.read b) = true → dirEntry s n = .unheld → ∃ t, exec (.directoryRead f b []) s = .next t ∧
        dirEntry t n = .shared (BitVec.ofNat 16 (2 ^ b.val)) ∧ (t.bed b).mirror = copy k false true :: (s.bed b).mirror ∧ t.mem = s.mem) ∧
      ∀ wd : Bool, bedMayRequest s n (.own b wd) = true →
        (dirEntry s n = .unheld → ∃ t, exec (.directoryOwn f b wd []) s = .next t ∧ dirEntry t n = .owned b 0 ∧
          (t.bed b).mirror = copy k true wd :: (s.bed b).mirror ∧ t.mem = s.mem) ∧
        (∀ m, dirEntry s n = .shared m → ∃ t, exec (.directoryOwn f b wd []) s = .next t ∧ dirEntry t n = .owned b 0 ∧
          (t.bed b).mirror = copy k true wd :: (s.bed b).mirror ∧ t.mem = s.mem ∧
          ∀ o : BedIx, o ≠ b → m.getLsbD o.val = true → ∀ c ∈ (t.bed o).mirror, c.frame ≠ f)) ∧
    (∀ c : MirrorCopy, victimCopy s b = some c → c.frame = f →
      (∀ m, c.owned = false → dirEntry s n = .shared m → ∃ t, exec (.directoryDrop f b) s = .next t ∧ t.mem = s.mem ∧
        (t.bed b).mirror = others ∧ dirEntry t n = if m &&& ~~~(BitVec.ofNat 16 (2 ^ b.val)) = 0 then .unheld
          else .shared (m &&& ~~~(BitVec.ofNat 16 (2 ^ b.val)))) ∧
      (c.owned = true → copyOf s b n = some c → ∃ t, exec (.directoryEviction f b) s = .next t ∧ (t.bed b).mirror = others ∧
        t.mem = (writeBackCopy b n c s).mem ∧ dirEntry t n = if c.dirty = 0 then .unheld else .writingBack b)) ∧
    (∀ m, dirEntry s n = .shared m → ∃ t, exec (.directoryExternal f .write) s = .next t ∧
      dirEntry t n = .unheld ∧ t.mem = s.mem ∧ (∀ o : BedIx, m.getLsbD o.val = true → ∀ c ∈ (t.bed o).mirror, c.frame ≠ f) ∧
      (t.cistern (frameCis n)).dir.external = satAdd (s.cistern (frameCis n)).dir.external 1) ∧
    (∀ c : MirrorCopy, copyOf s b n = some c → c.tenure = true →
      (c.recalled = false → exec (.tenureEnd f b) s = .next (onCopy b n (fun c => { c with tenure := false }) s)) ∧
      (c.recalled = true → ∃ t, exec (.tenureEnd f b) s = .next t ∧ (t.bed b).mirror = others ∧
        dirEntry t n = if c.dirty = 0 then .unheld else .writingBack b)) ∧
    (∀ o, dirEntry s n = .writingBack o → ∃ t, exec (.writebackDone f) s = .next t ∧ dirEntry t n = .unheld ∧ t.mem = s.mem ∧ t.beds = s.beds) ∧
    ∀ (c : MirrorCopy) (s1 : State) (bs : List Byte), copyOf s b n = some c → c.filling = true →
      frameRead n s (List.range 256) = (s1, .ok bs) → ∃ t, exec (.mirrorFillArrival f b) s = .next t ∧
        copyOf t b n = (copyOf s1 b n).map (fun c => { c with filling := false }) ∧
        t.mem.ram = tabWrite 0 s1.mem.ram (copyAddr s1 b c) bs ∧ t.mem.t3 = s1.mem.t3

/-- R282. -/
def Obligations.EpochCheckedWrites : Prop :=
  ∀ (s : State) (at_ : CheckPoint) (q : PartIx) (epoch : Word) (addr : DWord) (data : List Byte), let a := addr.toNat
    tierOf s a = .t1 ∨ tierOf s a = .t2 → pointOf s a = some at_ → a / 65536 = (a + data.length - 1) / 65536 → rangeOk s q a data.length = true →
    let entry : BitVec 25 := match at_ with
      | .bed b => tabGet 0 (s.bed b).epochs (epoch.toNat / 2 ^ 24)
      | .cistern c => tabGet 0 (s.cistern c).epochs (256 * q.val + epoch.toNat / 2 ^ 24)
    ∃ t, exec (.epochCheckedWrite at_ q epoch addr data) s = .next t ∧ t.plots = s.plots ∧ t.mem.t3 = s.mem.t3 ∧
      (epoch = 0xFFFFFFFF ∨ entry.getLsbD 24 = true ∧ entry.toNat % 2 ^ 24 = epoch.toNat % 2 ^ 24 →
        t.mem.ram = tabWrite 0 s.mem.ram a data ∧ t.mem.dirty = markDirty s.mem.dirty a data.length ∧ t.beds = s.beds ∧ t.cis = s.cis) ∧
      (¬ (epoch = 0xFFFFFFFF ∨ entry.getLsbD 24 = true ∧ entry.toNat % 2 ^ 24 = epoch.toNat % 2 ^ 24) → t.mem = s.mem)

/-- R249 to R252. -/
def Obligations.SectorsReadWriteScrub : Prop :=
  ∀ (s : State) (sector : Nat), sector < 256 * frameCount s →
    (∀ (tau : BitVec 2) (cws : BitVec 4) (data : List Byte), data.length = 64 * (cwsOf cws).length → Safe s →
      ∃ t, exec (.lpddrWrite sector tau cws data) s = .next t ∧ t.mem.ram = s.mem.ram ∧
        (∀ i j, (cwsOf cws)[i]? = some j → cwData t.mem sector j = (data.drop (64 * i)).take 64) ∧
        (∀ x, x < 256 * sector ∨ 256 * sector + 256 ≤ x → tabGet 0 t.mem.t3 x = tabGet 0 s.mem.t3 x) ∧
        (cws ≠ 0 → sector ∉ t.mem.lost ∧ sector ∉ t.mem.pendingChk)) ∧
    (∀ (tau : BitVec 2) (cws : BitVec 4) (flips : Flips),
      ((∀ j ∈ cwsOf cws, ∃ d, cwRead s sector j tau.toNat flips = .clean d) → exec (.lpddrRead sector tau cws flips) s = .next s) ∧
      ∀ (j : Fin 4) (d : List Byte), cwsOf cws = [j.val] → cwRead s sector j.val tau.toNat flips = .corrected d → d.length = 64 → Safe s →
        ∃ t, exec (.lpddrRead sector tau cws flips) s = .next t ∧ cwData t.mem sector j.val = d ∧
          (t.cistern (frameCis (sector / 256))).mem.ce = satAdd (s.cistern (frameCis (sector / 256))).mem.ce 1 ∧
          ((t.cistern (frameCis (sector / 256))).chans[servingChan s sector]).ce =
            satAdd ((s.cistern (frameCis (sector / 256))).chans[servingChan s sector]).ce 1) ∧
    ∀ (flips : Flips) (rate : Nat) (rs : List CwOut), holdActive s = false → scrubReadAll s sector flips = some (rate, rs) →
      (∀ r ∈ rs, ∃ d, r = .clean d) → ∃ t, exec (.scrubSector sector flips) s = .next t ∧
        t.mem = { s.mem with pendingChk := s.mem.pendingChk.filter (· ≠ sector) } ∧ ∀ c : CisIx, (t.cistern c).mem.scrubPass =
          if (256 * frameCount s ≤ sector + 512 ∧ sector % 256 = 255) ∧ c.val = sector / 256 % 2 then (s.cistern c).mem.scrubPass + 1
          else (s.cistern c).mem.scrubPass

/-- R243, R476 to R478. -/
def Obligations.ChannelsRefreshTrainPrune : Prop :=
  ∀ (s : State) (c : CisIx),
    (∀ (ch : Fin 64) (rank : Fin 2) (bank : Fin 16), ∃ t, exec (.bankRefresh c ch rank bank) s = .next t ∧ t.mem = s.mem ∧
      ((t.cistern c).chans[ch]).refreshed = some (rank, bank) ∧ ∀ k : Fin 64, k ≠ ch → (t.cistern c).chans[k] = (s.cistern c).chans[k]) ∧
    (∀ failed : BitVec 64, ∃ t, exec (.periodicRetrain c failed) s = .next t ∧ t.mem = s.mem ∧ ∀ k : Fin 64,
      let x := (s.cistern c).chans[k]
      (t.cistern c).chans[k] = if x.state = 3 then x else { x with trainFails := if failed.getLsbD k.val then x.trainFails + 1 else 0 }) ∧
    ∀ (ch : Fin 64) (cause : PruneCause), holdActive s = false →
      (s.mem.relocating = none → ((s.cistern c).chans[ch]).state ≠ 3 → (chanCrossed s c ch cause).isSome = true →
        ∃ t, exec (.channelPrune c ch cause) s = .next t ∧ t.mem.relocating = some (c, ch, cause) ∧ t.mem.ram = s.mem.ram ∧ t.mem.t3 = s.mem.t3 ∧
          (t.cistern c).chans = (s.cistern c).chans ∧ (Safe s → ∀ k, tabGet 0 t.mem.xlt k =
            if mapsRange c (newDonors s c).1 (newDonors s c).2 (tabGet 0 s.mem.xlt k) then tabGet 0 s.mem.xlt k ||| 0x4000000
            else tabGet 0 s.mem.xlt k)) ∧
      (s.mem.relocating = some (c, ch, cause) →
        (∀ f ∈ usedFrames s c (newDonors s c).1 (newDonors s c).2, dirEntry s f = .unheld) →
        ∃ t, exec (.relocationComplete c ch) s = .next t ∧ t.mem.relocating = none ∧ t.mem.ram = s.mem.ram ∧
          ((t.cistern c).chans[ch]).state = 3 ∧ s.image.pendingLog.length < t.image.pendingLog.length)

/-- R379 to R381. -/
def Obligations.QueuesMove : Prop :=
  ∀ (s : State) (f : FnIx) (i : QpIx), let x := qpOf s f i
    let becomes (c : Instr) (y : Qp) : Prop := ∃ t, exec c s = .next t ∧ qpOf t f i = y ∧ t.mem = s.mem ∧ t.parts = s.parts ∧
      ∀ k : QpIx, k ≠ i → qpOf t f k = qpOf s f k
    (x.state = 1 →
      (∀ v : Word,
        (1 ≤ (v - x.nextSsn).toNat ∧ (v - x.nextSsn).toNat ≤ 2 ^ x.sqLog.toNat ∧ (v - x.limit).toNat < 2 ^ 31 →
          becomes (.sqDoorbell f i v) { x with limit := v, stall := false }) ∧
        (v = x.limit → becomes (.sqDoorbell f i v) { x with stall := false }) ∧
        (v ≠ x.limit → (v - x.nextSsn).toNat = 0 ∨ 2 ^ x.sqLog.toNat < (v - x.nextSsn).toNat ∨ 2 ^ 31 ≤ (v - x.limit).toNat →
          becomes (.sqDoorbell f i v) { x with dbDrop := satAdd x.dbDrop 1 }) ∧
        ((v - x.consumed).toNat ≤ (x.lastCsn - x.consumed).toNat →
          becomes (.cqDoorbell f i v) { x with consumed := v, journal := x.journal.drop (v - x.consumed).toNat }) ∧
        ((x.lastCsn - x.consumed).toNat < (v - x.consumed).toNat →
          becomes (.cqDoorbell f i v) { x with dbDrop := satAdd x.dbDrop 1 })) ∧
      (x.nextSsn ≠ x.limit → x.stall = false → (x.lastCsn - x.consumed).toNat ≠ min (2 ^ x.cqLog.toNat) 256 →
        let e := sqEntry s x
        (e.toNat / 2 ^ 32 % 2 ^ 32 = x.nextSsn.toNat → refusedEntry s f e = false → x.accepted = [] →
          becomes (.submissionFetch f i true)
            { x with nextSsn := x.nextSsn + 1, accepted := [{ entry := e, taken := false, resp := none }] }) ∧
        (e.toNat / 2 ^ 32 % 2 ^ 32 ≠ x.nextSsn.toNat → becomes (.submissionFetch f i true) { x with stall := true })) ∧
      (∀ e rest, x.ready = e :: rest → (x.lastCsn - x.consumed).toNat < min (2 ^ x.cqLog.toNat) 256 →
        let csn := x.lastCsn + 1
        let out := cqIssue e csn s.time
        ∃ t, exec (.completionWrite f i) s = .next t ∧
          qpOf t f i = { x with ready := rest, lastCsn := csn, journal := x.journal ++ [out] } ∧
          t.mem = { s.mem with host := tabWrite 0 s.mem.host (x.cqBase.toNat + 128 * (csn.toNat % 2 ^ x.cqLog.toNat)) (bytesOf 128 out.toNat) } ∧
          (causesHeld s f = false → (t.func f).cause.getLsbD i.val = true)) ∧
      (min (2 ^ x.cqLog.toNat) 256 ≤ (x.lastCsn - x.consumed).toNat → exec (.completionWrite f i) s = .next s)) ∧
    ∀ (e : BitVec 1024) (a : Answer), x.accepted = [{ entry := e, taken := false, resp := none }] →
      qpOf (answerNow f i a s) f i = { x with accepted := [], ready := x.ready ++ [response e a] }

/-- R382, R383. -/
def Obligations.QueuesAttachAndDetach : Prop :=
  ∀ (s : State) (f : FnIx) (i : QpIx), let x := qpOf s f i
    let becomes (c : Instr) (y : Qp) : Prop := ∃ t, exec c s = .next t ∧ qpOf t f i = y ∧ t.mem = s.mem ∧ t.parts = s.parts ∧
      ∀ k : QpIx, k ≠ i → qpOf t f k = qpOf s f k
    let sizes : Prop := 6 ≤ x.sqLog.toNat ∧ x.sqLog.toNat ≤ 16 ∧ 6 ≤ x.cqLog.toNat ∧ x.cqLog.toNat ≤ 16 ∧ x.sqBase.toNat % 4096 = 0 ∧
      x.cqBase.toNat % 4096 = 0
    (x.state ≠ 1 →
      (takesQueues s f = true → sizes → becomes (.qpAttach f i) { x with
          state := 1
          detaching := false
          en := true
          resumeSeq := false
          stall := false
          err := 0
          nextSsn := x.ssnInit
          limit := x.ssnInit
          lastCsn := x.csnInit - 1
          consumed := x.csnInit - 1
          ready := x.ready.filter fun e => e.toNat % 16 = 0
          journal := [] }) ∧
      (takesQueues s f = false → becomes (.qpAttach f i) { x with err := 2 }) ∧
      (takesQueues s f = true → ¬ sizes → becomes (.qpAttach f i) { x with err := 3 }) ∧
      (takesQueues s f = true → x.state ≠ 0 → sizes → (x.lastCsn - x.consumed).toNat ≤ 2 ^ x.cqLog.toNat →
        ∃ t, exec (.qpResumeAttach f i) s = .next t ∧
          qpOf t f i = { x with state := 1, detaching := false, en := true, resumeSeq := true, stall := false, err := 0, limit := x.nextSsn } ∧
          t.mem = (replayJournal x s).mem ∧ (causesHeld s f = false → (t.func f).cause.getLsbD i.val = true))) ∧
    (x.state = 1 → becomes (.qpDetach f i) { x with en := false, detaching := true }) ∧
    (x.state = 1 → x.detaching = true → becomes (.detachComplete f i) { x with state := 2, detaching := false })

/-- R325. -/
def Obligations.ClocksStep : Prop :=
  ∀ (s : State) (b : BedIx), let x := s.bed b
    let kicked (t : State) (c target : Nat) : Prop := (t.bed b).stepping =
      if c < min target (bedCeil s b) then some true else if min target (bedCeil s b) < c then some false else none
    (∀ step : BitVec 5, ∃ t, exec (.bedClockTarget b step) s = .next t ∧ (t.bed b).target.toNat = min 24 step.toNat ∧
      (t.bed b).current = x.current ∧ (x.stepping = none → kicked t x.current.toNat (min 24 step.toNat)) ∧
      (x.stepping ≠ none → (t.bed b).stepping = x.stepping) ∧ (∀ k : BedIx, k ≠ b → t.bed k = s.bed k) ∧ t.plots = s.plots ∧ t.mem = s.mem) ∧
    ∀ up : Bool, x.stepping = some up → (if up then x.current.toNat < 24 else 0 < x.current.toNat) →
      ∃ t, exec (.clockStepComplete b) s = .next t ∧ (t.bed b).current.toNat = (if up then x.current.toNat + 1 else x.current.toNat - 1) ∧
        (t.bed b).target = x.target ∧ kicked t (t.bed b).current.toNat x.target.toNat ∧ (∀ k : BedIx, k ≠ b → t.bed k = s.bed k) ∧
        t.plots = s.plots ∧ t.mem = s.mem

/-- R263 to R265. -/
def Obligations.JobsAreAdmitted : Prop :=
  ∀ (s : State) (f : FnIx) (i : QpIx) (dmaOk : Bool) (e : BitVec 1024) (q : PartIx),
    nextSubmission s f i = some e → fnPart f = some q → seOpc e = 0x01 →
    let d := BitVec.ofNat 1024 (natOf (hostRead s (seAddr e) 128))
    let codec := BitVec.ofNat 512 (natOf (hostRead s (jdCodec d) 64))
    (∀ step p w, decideJob s q e d codec dmaOk = .ok (step, p, w) →
      ∃ t, exec (.submitJob f i dmaOk) s = .next t ∧
        (∃ j ∈ (t.part q).jobs, j.id.toNat = d.toNat % 2 ^ 32 ∧ j.desc = d ∧ j.codec = codec ∧ j.wc = w ∧ j.fn = f ∧ j.qp = i ∧
          j.ssn = seSsn e ∧ j.slot = freeJobSlot s q ∧ j.epoch = 0 ∧ ∀ c : CisIx, cisEpoch t c q j.slot.toNat = slotEntry true 0) ∧
        (t.part q).fPlan = BitVec.ofNat 5 step ∧ (t.part q).counts[0] = satAdd (s.part q).counts[0] 1 ∧
        ∀ a, a = acceptJob f i e d codec q step p w s → plotsIdle a q = false → (plotWork a q).head?.map (·.id) ≠ some (jobName d) →
          t = answerNow f i (ansDone 0 0) a) ∧
    ∀ a, decideJob s q e d codec dmaOk = .error a → exec (.submitJob f i dmaOk) s = .next (answerNow f i a
      (s.onPart q fun x => { x with counts := x.counts.set 1 (satAdd x.counts[1] 1) }))

/-- R273, R292, R293. -/
def Obligations.JobsStopAndResume : Prop :=
  (∀ (s : State) (f : FnIx) (i : QpIx) (e : BitVec 1024), nextSubmission s f i = some e →
    let q := subPart f e
    (∀ cmd ∈ [(0x02, Instr.cancel f i), (0x03, .suspend f i), (0x04, .resume f i)], seOpc e = cmd.1 →
      (jobById s q (seJob e) = none → exec cmd.2 s = .next (answerNow f i (ansState 0x19) s)) ∧
      ∀ j, jobById s q (seJob e) = some j → jobLive j = false → suspended j = false →
        exec cmd.2 s = .next (answerNow f i (ansState 0x18) s)) ∧
    ∀ j, jobById s q (seJob e) = some j → jobLive j = true →
      (seOpc e = 0x02 →
        (j.life = .adm ∨ j.away ≠ .none → ∃ t, exec (.cancel f i) s = .next t ∧
          (∃ k ∈ (t.part q).jobs, k.id = j.id ∧ k.desc = j.desc ∧ k.life = .cancelled) ∧ (t.part q).counts[5] = satAdd (s.part q).counts[5] 1) ∧
        (j.life ≠ .adm → j.away = .none → (inCompany s q j = true ∨ j.inPass = false) →
          exec (.cancel f i) s = .next (onJob q j.id (fun k => { k with cancelReq := true }) (answerNow f i (ansDone 0 0) s))) ∧
        (j.life ≠ .adm → j.away = .none → inCompany s q j = false → j.inPass = true → ∃ t, exec (.cancel f i) s = .next t ∧
          ∃ k ∈ (t.part q).jobs, k.id = j.id ∧ k.cancelReq = true ∧ k.stopped = true)) ∧
      (seOpc e = 0x03 → j.life ≠ .adm → j.away = .none → cutMember s q j = false → roomFor s q j = true →
        (((seArg e * 1000 + preHeld s q j : Nat) : Int) ≤ slackOf s q j.id) →
        ∃ t, exec (.suspend f i) s = .next t ∧ ∃ k ∈ (t.part q).jobs, k.id = j.id ∧ k.away = .stopping true (BitVec.ofNat 32 (seArg e)) ∧
          k.extra = j.extra + seArg e * 1000 + preHeld (takeUp f i s) q j) ∧
      (seOpc e = 0x04 → suspended j = true → ∃ t, exec (.resume f i) s = .next t ∧ t.mem = s.mem ∧ t.plots = s.plots ∧
        ∃ k ∈ (t.part q).jobs, k = unsuspend j ∧ suspended k = false)) ∧
  ∀ (s : State) (q : PartIx) (job : Word) (j : Job) (since : DWord) (m : Word), jobById s q job = some j → j.away = .out true since m →
    m.toNat * 1000 ≤ (s.time - since).toNat → ∃ t, exec (.suspendExpire q job) s = .next t ∧ t.mem = s.mem ∧ t.plots = s.plots ∧
      ∃ k ∈ (t.part q).jobs, k = { j with away := .out false since m }

/-- R294, R378. -/
def Obligations.QueriesAndModels : Prop :=
  ∀ (s : State) (f : FnIx) (i : QpIx) (e : BitVec 1024), nextSubmission s f i = some e →
    let q := subPart f e
    (seOpc e = 0x05 → let js := (liveJobs s q).mergeSort fun a b => a.ssn.toNat ≤ b.ssn.toNat
      exec (.queryJobs f i true) s = .next (answerNow f i (ansDone (min (seLen e / 16) js.length) js.length)
        (hostWrite (seAddr e) ((js.take (seLen e / 16)).flatMap fun j => bytesOf 16 (queryRecord j)) s))) ∧
    (∀ pkg : ModelPkg, seOpc e = 0x10 → residencyFull s q = false → loadBad pkg = false → loadShort s q pkg = none →
      exec (.loadModel f i (some pkg)) s = .next (answerNow f i (ansDone (s.part q).nextHandle.toNat 0) (s.onPart q fun x => { x with
        models := x.models ++ [{ handle := x.nextHandle, pkg := pkg, onChip := x.models.isEmpty }]
        nextHandle := x.nextHandle + BitVec.ofNat 32 pkg.models.length }))) ∧
    ∀ r m, seOpc e = 0x11 → findModel s q (seArg e) = some (r, m) → packageUsed s q r = false →
      exec (.unloadModel f i) s = .next (answerNow f i (ansDone 0 0) (s.onPart q fun x => { x with
        models := x.models.filter fun k => k.handle ≠ r.handle }))

/-- R283, R284. -/
def Obligations.EpochsAndRecords : Prop :=
  (∀ (s : State) (q : PartIx) (slot : BitVec 8) (j : Job), jobInSlot s q slot.toNat = some j →
    (j.stopped = true → j.advanced = false → tasksStopped s j = true → recordsDrained s q slot.toNat = true →
      let c : BitVec 24 := if j.epoch = 0xFFFFFE then 0 else j.epoch + 1
      ∃ t, exec (.epochAdvance q slot) s = .next t ∧ t.mem = s.mem ∧ t.plots = s.plots ∧
        (∀ k : CisIx, (cisEpoch t k q slot.toNat).toNat = 2 ^ 24 + c.toNat) ∧
        (∀ b ∈ bedsOf s q, (bedEpoch t b slot.toNat).toNat = 2 ^ 24 + c.toNat) ∧
        ∃ k ∈ (t.part q).jobs, k = { j with epoch := c, advanced := true }) ∧
    (j.advanced = true → (s.part q).resetStep ≠ .draining → ∃ t, exec (.epochAcknowledged q slot) s = .next t ∧ t.mem = s.mem ∧
      ∃ k ∈ (t.part q).jobs, k.id = j.id ∧ k.desc = j.desc ∧ k.stopped = false ∧ k.advanced = false)) ∧
  ∀ (s : State) (q : PartIx) (epoch : Word), epoch ≠ 0xFFFFFFFF →
    let took (r : Ring) (st : Nat) (s1 : State) : Prop :=
      (recordJob s q epoch = none → exec (.completionRingDrain r) s = .next (s1.onPart q fun x => { x with
        execs := x.execs.set 3 (satAdd x.execs[3] 1) })) ∧
      ∀ j, recordJob s q epoch = some j → (st = 0 → exec (.completionRingDrain r) s = .next s1) ∧
        (st = 0x09 ∨ st = 0x0A ∨ st = 0x0E ∨ st = 0x10 ∨ st = 0x11 → ∃ t, exec (.completionRingDrain r) s = .next t ∧ t.mem = s.mem ∧
          ∃ k ∈ (t.part q).jobs, k = { j with passFailed := true })
    (∀ (b : BedIx) (rec_ : BitVec 256) rest, (s.bed b).ring = (rec_, epoch) :: rest → bedPart s b = some q →
      took (.bed b) (recStatus rec_) (s.onBed b fun x => { x with ring := rest }) ∧
      ∀ j, recordJob s q epoch = some j → recStatus rec_ = 0x0D → j.stopped = true → ∃ t, exec (.completionRingDrain (.bed b)) s = .next t ∧
        ∃ k ∈ (t.part q).jobs, k = { j with flushed := j.flushed ++ [rec_] }) ∧
    (∀ (rec_ : BitVec 128) rest, (s.part q).carrierRing = (rec_, epoch) :: rest →
      took (.carrier q) (recStatus16 rec_) (s.onPart q fun x => { x with carrierRing := rest })) ∧
    ∀ (rec_ : BitVec 128) rest, (s.part q).fabricRing = (rec_, epoch) :: rest →
      took (.fabric q) (recStatus16 rec_) (s.onPart q fun x => { x with fabricRing := rest })

/-- R286 to R288. -/
def Obligations.TasksLeaveAndReturn : Prop :=
  ∀ (s : State) (q : PartIx) (job : Word) (j : Job), jobById s q job = some j →
    (∀ b m placed, j.away = .stopping b m → j.stopped = false → j.inPass = false →
      placeContext s q (j.tasks.flatMap fun t => liveRegions s q j t.2) = some placed →
      ∃ t, exec (.heelIn q job) s = .next t ∧ t.plots = s.plots ∧ t.beds.map (·.epochs) = s.beds.map (·.epochs) ∧
        (∃ k ∈ (t.part q).jobs, k = { j with away := .heeling b m, ctx := cutContexts s q j j.tasks placed }) ∧
        ∀ (task : Nat) (p : PlotIx) (o : Nat) (a : DWord) (n : Nat), j.tasks = [(task, p)] → liveRegions s q j p = [(o, n)] →
          placed = [(o, a, n)] → (∀ k < n, tierOf s (a.toNat + k) = .t2) → Safe s →
          epochCheck (cisEpoch s (Fin.ofNat 2 ((a.toNat - t2Base) / 0x10000000)) q) (jobEpoch j) = .accept →
          (a.toNat - t2Base) / 0x10000000 = (a.toNat + n - 1 - t2Base) / 0x10000000 →
          ∀ k < n, ramByte t (a.toNat + k) = ramByte s (t0Addr p o + k)) ∧
    (∀ b m, j.away = .heeling b m → ∃ t, exec (.heelInComplete q job) s = .next t ∧
      ∃ k ∈ (t.part q).jobs, k.id = job ∧ k.away = .out b s.time m ∧ k.ctx = j.ctx.map fun c => { c with
        rng := #v[(s.plot c.plot).rng.s0, (s.plot c.plot).rng.s1, (s.plot c.plot).rng.s2, (s.plot c.plot).rng.s3]
        layer := (s.plot c.plot).watch.layer
        sems := semCounts (s.bed (bedOf c.plot)) }) ∧
    (∀ since m, j.away = .out false since m → firstInPlan s q job = true → plotsIdle s q = true → jobLive j = true →
      let n := groupTasks s q (resumeGroup s q j)
      let new := bindingOn n (freePlotsFor s q fun k => (resumeGroup s q j).any fun x => x.id == k.id)
      n ≤ new.length → j ∈ resumeGroup s q j → ∃ t, exec (.victimResume q job) s = .next t ∧
        ∃ k ∈ (t.part q).jobs, k.id = job ∧ k.desc = j.desc ∧ k.away = .restoring ∧ k.tasks = new ∧ k.ctx = j.ctx) ∧
    (j.away = .restoring → jobLive j = true → (∀ k ∈ (s.part q).jobs, k.away = .restoring → k.stopped = false) →
      (∀ t ∈ j.tasks, (s.plot t.2).mode = .idle) → ∃ t, exec (.restoreComplete q job) s = .next t ∧
        ∃ k ∈ (t.part q).jobs, k.id = job ∧ k.desc = j.desc ∧ k.away = .none ∧ k.inPass = true ∧ k.ctx = [] ∧ k.tasks = j.tasks)

/-- R267, R270, R417. -/
def Obligations.PassesEnd : Prop :=
  (∀ (s : State) (q : PartIx) (outs : List JobOut), let ms := (s.part q).jobs.filter (·.inPass)
    holdActive s = false → (s.part q).resetStep = .none → passOver s q = true → passBlocked s q = false → (∀ j ∈ ms, j.voting = false) →
    (∀ j ∈ ms, j.cancelReq = false → passSettled s q j = true ∧ cutMember s q j = false ∧ j.passFailed = false) →
    ∃ t, exec (.passBoundary q outs) s = .next t ∧ t.mem = s.mem ∧
      (∀ j ∈ ms, j.cancelReq = false → ∃ k ∈ (t.part q).jobs, k.id = j.id ∧ k.desc = j.desc ∧
        k.mainPasses = (if onFallback j then j.mainPasses else j.mainPasses + 1) ∧
        k.fbPasses = if onFallback j then j.fbPasses + 1 else j.fbPasses) ∧
      ∀ (j : Job) (o : JobOut), jobById s q o.job = some j → j ∈ ms → j.cancelReq = false → onFallback j = false → jobRunning j = true →
        j.toGo = 1 → j.lates = [] → outs = [o] → o.time.toNat ≤ jdDeadline j.desc →
        (∃ k ∈ (t.part q).jobs, k.id = j.id ∧ k.desc = j.desc ∧ k.life = .ok) ∧ (t.part q).counts[2] = satAdd (s.part q).counts[2] 1) ∧
  (∀ (s : State) (q : PartIx) (job : Word) (j : Job) (r : Resident) (m : ModelDesc), jobById s q job = some j → j.voting = true →
    voteOver (s.part q) = true → findModel s q (jdModel j.desc) = some (r, m) → ∃ t, exec (.voteResult q job) s = .next t ∧
      t.plots = s.plots ∧ ∃ k ∈ (t.part q).jobs, k = { j with
        voting := false
        voteRes := some (decide (natOf (ramRead s r.pkg.voteDst.toNat 4) ≠ 0), decide (natOf (ramRead s (r.pkg.voteDst.toNat + 4) 4) ≠ 0)) }) ∧
  (∀ (s : State) (q : PartIx) (why : PassFail) (jobs : List Word), (s.part q).resetStep = .none →
    let ms := (s.part q).jobs.filter (·.inPass)
    (why ≠ .dataLost → why ≠ .otherStatus → ms ≠ [] → (∀ j ∈ ms, j.stopped = false ∧ j.voting = false ∧ cutMember s q j = false) →
      (∃ j ∈ ms, j.passFailed = true) ∨ why = .haloProducer → ∃ t, exec (.failedPass q why jobs) s = .next t ∧
        ∀ j ∈ ms, ∃ k ∈ (t.part q).jobs, k.id = j.id ∧ k.desc = j.desc ∧ k.retries = j.retries + 1) ∧
    (why = .dataLost → ∀ (id : Word) (j : Job), id ∈ jobs → jobById s q id = some j → jobRunning j = true → jobLive j = true →
      ∃ t, exec (.failedPass q why jobs) s = .next t ∧ ∃ k ∈ (t.part q).jobs, k.id = id ∧ k.desc = j.desc ∧ k.life = .failed)) ∧
  ∀ s : State, holdActive s = true → s.fence.longDone = false → 2000000 ≤ (s.time - s.fence.holdAt).toNat →
    ∃ t, exec .longHoldDecision s = .next t ∧ t.mem = s.mem ∧
      t.fence = { s.fence with longDone := true, holdLong := satAdd s.fence.holdLong 1 } ∧
      t.image.pendingLog.length = s.image.pendingLog.length + 1

/-- R311 to R313. -/
def Obligations.PartitionsReset : Prop :=
  (∀ s : State, s.image.boot = .done → s.image.replant = none →
    (∀ q : PartIx, (s.part q).defined = true → (s.part q).resetStep = .none → holdActive s = false →
      (∀ why, why ≠ .flr → ∃ t, exec (.partitionReset q why) s = .next t ∧ ResetBegun q t) ∧
      (∀ f : FnIx, fnPart f = some q → vfExists s q = true → ∃ t, exec (.flr f) s = .next t ∧ ResetBegun q t) ∧
      (∀ f i e, nextSubmission s f i = some e → seOpc e = 0x21 → subPart f e = q → ∃ t, exec (.resetPartition f i) s = .next t ∧ ResetBegun q t) ∧
      ∀ en num, vfExists s q = true → (en = false ∨ num.toNat ≤ q.val) → ∃ t, exec (.vfEnableChange en num) s = .next t ∧ ResetBegun q t ∧
        t.pf0.vfEnable = en ∧ t.pf0.numVfs = num) ∧
    ∀ q : PartIx, (s.part q).defined = true → (s.part q).resetStep ≠ .none → ∀ why, why ≠ .flr → exec (.partitionReset q why) s =
      .next (s.onPart q fun x => { x with absorbed := satAdd x.absorbed 1 })) ∧
  (∀ (s : State) (q : PartIx) (slot : BitVec 8), (s.part q).resetStep = .draining → plotsStopped s q = true → holdActive s = false →
    ∃ t, exec (.epochAcknowledged q slot) s = .next t ∧ (t.part q).resetStep = .zeroing ∧ (t.part q).models = [] ∧ (t.part q).gens = [] ∧
      (t.part q).trace = Trace.reset ∧ (t.part q).cuts = Vector.replicate 16 Cutting.reset) ∧
  ∀ (s : State) (q : PartIx), zeroingOver s q = true → s.image.replant = none → Safe s →
    let bed (b : BedIx) (a : Nat) : Prop := t1Addr b 0 ≤ a ∧ a < t1Addr b 0 + bedStride
    let ext (c : CisIx) (a : Nat) : Prop := let x := (s.cistern c).parts[q]
      t2Base + c.val * 0x10000000 + x.t2Base.toNat * mib ≤ a ∧ a < t2Base + c.val * 0x10000000 + x.t2Base.toNat * mib + x.t2Size.toNat * mib
    ∃ t, exec (.partitionZeroingDone q) s = .next t ∧ (t.part q).resetStep = .none ∧ (t.part q).resetDone = true ∧
      (t.part q).resets = satAdd (s.part q).resets 1 ∧ t.pf0.lastPart.toNat = q.val ∧
      (∀ a, (∃ b ∈ bedsOf s q, bed b a) ∨ (∃ c, ext c a) → ramByte t a = 0) ∧
      ∀ a, (∀ b ∈ bedsOf s q, ¬ bed b a) → (∀ c, ¬ ext c a) → ramByte t a = ramByte s a

/-- R311, R384. -/
def Obligations.DeviceResets : Prop :=
  ∀ s : State,
    let reset (c : Instr) (cause : Nat) : Prop := ∃ t, exec c s = .next t ∧ DeviceWasReset s t ∧ t.fence.resetCause.toNat = cause ∧
      t.pf0.reportCause.toNat = cause
    reset .powerOn 0 ∧ (s.pins.mrstLow = false → reset .moduleReset 1) ∧ (∀ e, reset (.supplyReset e) 2) ∧ (∀ e, reset (.overVoltage e) 4) ∧
    (∀ temps : Temps, s.fence.supply ≠ .off → s.fence.tripSeen.toNat &&& tripBits s temps ≠ 0 → reset (.thermalSample temps) 3) ∧
    (s.image.boot = .done → s.image.replant = none → ∃ t, exec .pcieWarmReset s = .next t ∧ t.pf0.reportCause = 6 ∧
      (jobsLost s = true → t.pf0.jobsLost = true) ∧ (∀ (f : FnIx) (i : QpIx), (qpOf t f i).state = 0 ∧ (qpOf t f i).journal = []) ∧
      ∀ q : PartIx, (s.part q).defined = true → (s.part q).resetStep = .none → holdActive s = false → ResetBegun q t)

/-- R354 to R359. -/
def Obligations.StartUp : Prop :=
  ∀ s : State,
    (s.image.boot = .off → s.fence.supply = .good → ∃ t, exec .resetRelease s = .next t ∧ t.image.boot = .released ∧ t.image.bootAt = s.time ∧
      t.mem = s.mem ∧ t.plots = s.plots ∧ (∀ c : CoreIx, (t.core c).seenAt = s.time)) ∧
    (∀ levels : BitVec 8, s.image.boot = .released → 1000000 ≤ (s.time - s.image.bootAt).toNat → holdActive s = false →
      ∃ t, exec (.strapLatch levels) s = .next t ∧ t.image.boot = .strapped ∧ t.image.stage = 1 ∧ t.pins.straps.toNat = levels.toNat % 16 ∧
        t.image.monitorStrap = !levels.getLsbD 2 ∧ t.image.safeBoot = !levels.getLsbD 3 ∧ (∀ i : Fin 8, t.pins.pins[i] = .park) ∧ t.mem = s.mem) ∧
    (∀ fe : BitVec 2, s.image.boot = .strapped → holdActive s = false → let c := chooseCopy s fe
      (∀ d, c.copy = some d → ∃ t, exec (.imageVerified fe) s = .next t ∧ t.image.boot = .verified ∧ t.image.stage = 5 ∧
        t.image.copy.toNat = d.val ∧ t.fence.loaded = true ∧ (∀ b : BedIx, (t.bed b).target = 24) ∧ t.mem = s.mem) ∧
      (c.copy = none → ∃ t, exec (.imageVerified fe) s = .next t ∧ t.image.recovery = true ∧ t.image.boot = .done ∧ t.image.copy = 2 ∧
        t.mem = s.mem ∧ t.plots = s.plots)) ∧
    (∀ r : InitReport, s.image.boot = .verified → holdActive s = false → ∃ t, exec (.memoryInitComplete r) s = .next t ∧
      t.image.boot = .done ∧ t.image.stage = 7 ∧ t.image.replant = none ∧ t.mem.ram = s.mem.ram ∧
      (∀ p : PlotIx, (s.plot p).mode ≠ .pruned → r.plotFail.getLsbD p.val = false →
        (t.plot p).mode = (if (s.plot p).unassigned then .off else .idle) ∧ (t.plot p).reduced = decide ((t.plot p).banks ≠ 0)) ∧
      ∀ q : PartIx, (s.part q).defined = true → (t.part q).resetDone = true ∧
        (t.part q).adm = if s.fence.safe = true ∨ s.image.safeBoot = true ∨ s.image.recovery = true then 2 else 0) ∧
    ∀ (f : FnIx) (i : QpIx) (e : BitVec 1024) (fe : BitVec 2), nextSubmission s f i = some e → seOpc e = 0x20 → s.image.replant = none →
      s.image.boot = .done → s.image.recovery = false → (s.fence.safe = true ∨ ∀ q : PartIx, (s.part q).defined = true → liveJobs s q = []) →
      ((chooseCopy s fe).copy = none → exec (.replant f i fe) s = .next (answerNow f i ansImage s)) ∧
      ∀ d, (chooseCopy s fe).copy = some d → ∃ t, exec (.replant f i fe) s = .next t ∧ t.image.replant = some d ∧
        ∀ q : PartIx, (s.part q).defined = true → (s.part q).resetStep = .none → holdActive s = false → ResetBegun q t

/-- R362, R364. -/
def Obligations.PruneLogSteps : Prop :=
  (∀ (s : State) (step : Fin 4) (r : BitVec 512) (rest : List (BitVec 512)), s.image.pendingLog = r :: rest → logOpen s = true →
    s.image.appendStep = step.val → let sec := s.image.sector
    let used := slotsUsed s sec
    (step = 0 → used < 4096) → (step ≠ 0 → 0 < used) → (∀ d : Fin 2, tabWf 0xFF s.image.flash[d] = true) →
    let at_ := sectorBase + 64 * (if step = 0 then used else used - 1)
    let bytes := bytesOf 64 (sealed r (s.image.seq + 1) 0xFE).toNat
    let range : Nat × Nat := if step = 0 then (0, 16) else if step = 1 then (16, 40) else if step = 2 then (56, 4) else (0, 1)
    ∃ t, exec (.pruneLogAppend step) s = .next t ∧ t.mem = s.mem ∧ t.plots = s.plots ∧
      (step ≠ 3 → t.image.appendStep = step.val + 1 ∧ t.image.pendingLog = s.image.pendingLog ∧ t.image.seq = s.image.seq) ∧
      (step = 3 → t.image.appendStep = 0 ∧ t.image.pendingLog = rest ∧ t.image.seq = s.image.seq + 1) ∧
      ∀ (d : Fin 2) (a : Nat), tabGet 0xFF t.image.flash[d] a =
        if d = logDev sec ∧ at_ + range.1 ≤ a ∧ a < at_ + range.1 + range.2 then
          tabGet 0xFF s.image.flash[d] a &&& (if step = 3 then 0xF0 else bytes.getD (a - at_) 0)
        else tabGet 0xFF s.image.flash[d] a) ∧
  ∀ s : State, logOpen s = true → let sec := s.image.sector
    (s.image.rotating = false → slotsFree s < 64 → ∃ t, exec (.logRotation 0) s = .next t ∧ t.image.rotating = true ∧ t.image.rotStep = 1 ∧
      t.mem = s.mem ∧ t.image.sector = sec ∧ ∀ a, sectorBase ≤ a → a < sectorBase + 0x40000 → tabGet 0xFF t.image.flash[logDev (!sec)] a = 0xFF) ∧
    (s.image.rotating = true →
      (s.image.rotStep = 1 → ∃ t, exec (.logRotation 1) s = .next t ∧ t.image.rotStep = 2 ∧ t.image.rotating = true ∧ t.image.sector = sec) ∧
      (s.image.rotStep = 2 → s.image.appendStep = 0 → ∃ t, exec (.logRotation 2) s = .next t ∧ t.image.rotStep = 3 ∧ t.image.rotating = true ∧
        t.image.rotCopied = slotsUsed s sec ∧ t.image.sector = sec) ∧
      (s.image.rotStep = 3 → s.image.appendStep = 0 → s.image.rotCopied = slotsUsed s sec → ∃ t, exec (.logRotation 3) s = .next t ∧
        t.image.rotStep = 4 ∧ t.image.rotating = true ∧ t.image.sector = !sec) ∧
      (s.image.rotStep = 4 → ∃ t, exec (.logRotation 4) s = .next t ∧ t.image.rotStep = 0 ∧ t.image.rotating = false ∧ t.image.sector = sec))

/-- R320 to R326, R333, R338. -/
def Obligations.GaugeAndThermal : Prop :=
  ∀ s : State, s.fence.supply ≠ .off →
    (∀ microJ : BitVec 32, (∀ v ∈ voteAll s.fence.regs, v = some 0) → let e := microJ.toNat
      let d := min (s.fence.bal + 1000 * pCap s - e) (dMax s)
      ∃ t, exec (.gaugeInterval microJ []) s = .next t ∧ t.mem = s.mem ∧ t.plots = s.plots ∧ t.fence.bal = d ∧ t.fence.power = microJ ∧
        t.fence.energy = s.fence.energy + BitVec.ofNat 64 e ∧ (∀ b : BedIx, (t.bed b).debited = 0) ∧
        (∀ q : PartIx, (s.part q).defined = true → (t.part q).bal = min (rawBalance s e q) (burstOf s q) + lentTo s e q) ∧
        (∀ (q : PartIx) (b : BedIx), (s.part q).defined = true → b ∈ poweredBeds s q →
          (∀ k : PartIx, (s.part k).defined = true → b ∈ bedsOf s k → k = q) →
          let amount : Int := (125000 * (shareW s q : Int) + 125 * lentTo s e q) / (poweredBeds s q).length
          (t.bed b).energy = if 0 ≤ min (rawBalance s e q) (burstOf s q) + lentTo s e q ∧ 0 < amount then
            min ((s.bed b).energy + amount) (2 * amount) else (s.bed b).energy) ∧
        (∀ b : BedIx, let lim := (s.fence.ceils[b]).cap.toNat
          (t.fence.ceils[b]).cap.toNat = if d < 0 then lim - (if 1200 * pCap s < e then 4 else 1)
            else if dMax s / 2 ≤ d then min 24 (lim + 1) else lim) ∧
        ∀ c : CoreIx, (s.core c).beat ≠ (s.core c).seen → (t.core c).seen = (s.core c).beat ∧ (t.core c).seenAt = s.time) ∧
    (∀ (microJ : BitVec 32) (ups : List CopyUpset), none ∈ voteAll (ups.foldl upsetReg s.fence.regs) →
      ∃ t, exec (.gaugeInterval microJ ups) s = .next t ∧ t.fence.safe = true) ∧
    ∀ temps : Temps, s.fence.tripSeen.toNat &&& tripBits s temps = 0 → ∃ t, exec (.thermalSample temps) s = .next t ∧ t.mem = s.mem ∧
      t.plots = s.plots ∧ t.fence.tripSeen = BitVec.ofNat 20 (tripBits s temps) ∧ ∀ b : BedIx,
        let sensors := (temps.beds[b].toNat, throttleC s) :: sharedSensors s temps
        let c := s.fence.ceils[b]
        ((∃ x ∈ sensors, x.2 ≤ x.1) → t.fence.ceils[b] = { c with therm := BitVec.ofNat 5 (c.therm.toNat - 1), coolMs := 0 }) ∧
        ((∀ x ∈ sensors, x.1 + hystC s < x.2) → c.therm.toNat < 24 → t.fence.ceils[b] =
          if c.coolMs = 9 then { c with therm := c.therm + 1, coolMs := 0 } else { c with coolMs := c.coolMs + 1 }) ∧
        ((∀ x ∈ sensors, x.1 < x.2) → (∃ x ∈ sensors, x.2 ≤ x.1 + hystC s) → t.fence.ceils[b] = { c with coolMs := 0 })

/-- R328 to R331. -/
def Obligations.SupplyAndHold : Prop :=
  ∀ s : State,
    (∀ e, s.fence.supply = .good → s.image.boot ≠ .off → ∃ t, exec (.supplyWarning e) s = .next t ∧ t.fence.mode = 2 ∧ t.fence.supply = .warned ∧
      t.fence.holdAt = s.time ∧ t.fence.hold = satAdd s.fence.hold 1 ∧ t.mem = s.mem ∧ t.plots = s.plots ∧ t.beds = s.beds ∧
      ∀ q : PartIx, (t.part q).adm = if (s.part q).defined = true ∧ (s.part q).adm = 0 then 1 else (s.part q).adm) ∧
    (s.fence.supply = .warned ∨ s.fence.supply = .off → exec .supplyRecovery s =
      .next { s with fence := { s.fence with supply := .qualifying, supplyAt := s.time } }) ∧
    (s.fence.supply = .qualifying → exec .supplyDip s = .next { s with fence := { s.fence with supply := .warned } } ∧
      (20000 ≤ (s.time - s.fence.supplyAt).toNat → exec .supplyQualified s = .next { s with
        fence := if holdActive s then { s.fence with supply := .resuming, supplyAt := s.time, mode := 3 } else { s.fence with supply := .good } })) ∧
    (s.fence.mode = 3 → 50000 ≤ (s.time - s.fence.supplyAt).toNat → ∃ t, exec .holdResume s = .next t ∧ holdActive t = false ∧
      t.fence.supply = .good ∧ t.mem = s.mem ∧ t.fence.holdUs = satAdd s.fence.holdUs ((s.time - s.fence.holdAt).toNat / 1000) ∧
      ((∀ q : PartIx, (s.part q).resetStep = .none) → ∀ q : PartIx,
        (t.part q).jobs = (s.part q).jobs.map (fun j => if jobRunning j then { j with holdUs := j.holdUs + (s.time - s.fence.holdAt).toNat / 1000 } else j) ∧
        (t.part q).adm = if (s.part q).defined = true ∧ (s.part q).adm = 1 then openAdmit t else (s.part q).adm)) ∧
    (holdActive s = true → ∀ p : PlotIx,
      (∀ c ∈ [Instr.gemm p, .vec p, .stat p, .rand p, .attn p, .zero p, .sync p, .unknownOpcode p, .move p, .rot p cleanReads, .test p none],
        exec c s = .next s) ∧
      (∀ sector flips, sector < 256 * frameCount s → exec (.scrubSector sector flips) s = .next s) ∧
      (∀ q n, exec (.carrierDescriptorStart q n) s = .next s) ∧ ∀ k cause, exec (.bankRetire p k cause) s = .next s)

/-- R334 to R337, R343. -/
def Obligations.FenceEvents : Prop :=
  ∀ s : State,
    let keeps (c : Instr) (P : State → Prop) : Prop := ∃ t, exec c s = .next t ∧ t.mem = s.mem ∧ t.plots = s.plots ∧ t.fence.regs = s.fence.regs ∧ P t
    (throttleServes s = true → s.fence.throttleLow = false → keeps .throttleNAssert fun t => t.fence.throttleLow = true ∧ pinActive t = true ∧
      t.pins.levels.getLsbD 3 = false) ∧
    (s.fence.throttleLow = true → keeps .throttleNRelease fun t => t.fence.throttleLow = false ∧ t.fence.pinLift = some s.time ∧
      pinActive t = true ∧ t.pins.levels.getLsbD 3 = true) ∧
    (∀ since, s.fence.pinLift = some since → 1000000 ≤ (s.time - since).toNat → keeps .pinLimitLift fun t => t.fence.pinLift = none) ∧
    (∀ since, s.fence.alertAt = some since → s.fence.alertMin = true → 1000000 ≤ (s.time - since).toNat → exec .alertMinimumExpire s =
      .next { s with fence := { s.fence with alertMin := false, alertAt := none } }) ∧
    (∀ c : CoreIx, let x := s.core c
      let recent := (x.expiries.filter fun t => (s.time - t).toNat < 1000000000) ++ [s.time]
      (wdogOn s = true → x.held = false → x.restarting = false → s.image.boot = .done → 1000000 * wdogMs s ≤ (s.time - x.seenAt).toNat →
        (recent.length < 3 → exec (.watchdogExpiry c) s = .next (s.onCore c fun y => { y with restarting := true, expiries := recent })) ∧
        (3 ≤ recent.length → keeps (.watchdogExpiry c) fun t => (t.core c).held = true ∧ (t.core c).restarting = false ∧
          t.image.pendingLog = s.image.pendingLog ++ [logRecord s 1 11 (prunePayload 8 c.val 0 (causeCode .watchdog) 3 x.returns)])) ∧
      (x.restarting = true → exec (.coreRestartDone c) s = .next (s.onCore c fun y => { y with restarting := false, seen := y.beat, seenAt := s.time }))) ∧
    (keeps .lockstepMismatch fun t => t.fence.lockstep = satAdd s.fence.lockstep 1 ∧ t.fence.restarting = true ∧ t.fence.lockstepAt = some s.time ∧
      (lockstepRecent s = true → t.fence.safe = true) ∧ (lockstepRecent s = false → t.fence.safe = s.fence.safe)) ∧
    exec .lockstepRestartDone s = .next { s with fence := { s.fence with restarting := false } } ∧
    ∀ (offset : BitVec 16) (data : Word),
      let noted (t : State) (code : Nat) : Prop := t.fence.foreign = satAdd s.fence.foreign 1 ∧ t.fence.foreignSrc.toNat = code ∧
        t.fence.foreignAddr.toNat = offset.toNat ∧ t.fence.foreignAt = some s.time ∧ (t.func pf0Fn).cause.getLsbD 4 = true
      (∀ f, keeps (.foreignWrite (.host f) offset data) fun t => noted t 0 ∧ (t.func f).aer.length = (s.func f).aer.length + 1) ∧
      keeps (.foreignWrite .gardener offset data) (noted · 1) ∧ keeps (.foreignWrite .monitor offset data) (noted · 2) ∧
      keeps (.foreignWrite .otherDie offset data) (noted · 3)

/-- R304 to R306. -/
def Obligations.Interrupts : Prop :=
  ∀ (s : State) (f : FnIx),
    (∀ v : VecIx, let e := (s.func f).vecs[v]
      ∀ c ∈ [Instr.msixMessage f v, .irqModerationTimeout f v],
        (irqReady s f v = true → fnPart f = none ∨ 0 < (s.func f).budget → ∃ t, exec c s = .next t ∧
          t.mem = { s.mem with host := tabWrite 0 s.mem.host e.addr.toNat (bytesOf 4 e.data.toNat) } ∧ (t.func f).cause = (s.func f).cause ∧
          (t.func f).sent = satAdd (s.func f).sent 1 ∧ (t.func f).budget = (s.func f).budget - 1 ∧
          ((t.func f).vecs[v]) = { e with events := 0, lastAt := some s.time, late := false } ∧
          ∀ k : VecIx, k ≠ v → (t.func f).vecs[k] = (s.func f).vecs[k]) ∧
        (irqReady s f v = true → fnPart f ≠ none → (s.func f).budget = 0 → ∃ t, exec c s = .next t ∧ t.mem = s.mem ∧
          (t.func f).cause = (s.func f).cause ∧ (t.func f).vecs[v] = { e with late := true } ∧
          (t.func f).throttled = if e.late then (s.func f).throttled else satAdd (s.func f).throttled 1) ∧
        (irqReady s f v = false → exec c s = .next s)) ∧
    (∀ q, fnPart f = some q → s.time.toNat % 1000000 = 0 → (∀ v : VecIx, ((s.func f).vecs[v]).late = false) →
      exec (.irqBudgetRefill f) s = .next (s.onFunc f fun x => { x with budget := (s.part q).img.irqRate })) ∧
    (∀ w : Word, ∃ t, exec (.irqCauseClear f w) s = .next t ∧ t.mem = s.mem ∧ (t.func f).vecs = (s.func f).vecs ∧
      ∀ i, i < 8 → (t.func f).cause.getLsbD i = ((s.func f).cause.getLsbD i && !w.getLsbD i)) ∧
    exec (.functionMaskWrite f true) s = .next (s.onFunc f fun x => { x with fnMask := true }) ∧
    ((∀ v : VecIx, irqReady (s.onFunc f fun x => { x with fnMask := false }) f v = false) →
      exec (.functionMaskWrite f false) s = .next (s.onFunc f fun x => { x with fnMask := false }))

/-- R394, R396, R398. -/
def Obligations.FabricTransfers : Prop :=
  (∀ (s : State) (d : BitVec 512), let q := fdPart d
    let c : Instr := if fdOp d = 1 then .fabricRead d else .fabricWrite d
    let o : FabricOp := { desc := d, isRead := decide (fdOp d = 1), sent := 0, acked := [], received := [], status := 0 }
    (s.part q).resetStep = .none → (s.part q).defined = true → FabricIdle s →
    (∀ st, checkFabric d s = some st → ∃ t, exec c s = .next t ∧ t.mem = s.mem ∧ t.bvl = s.bvl ∧ (t.part q).fabric = [] ∧
      (t.part q).fabricRing = (s.part q).fabricRing ++
        [(fabricRecord { o with status := BitVec.ofNat 8 st } s.time.toNat, BitVec.ofNat 32 (fdEpoch d))]) ∧
    (checkFabric d s = none → holdActive s = true → ∃ t, exec c s = .next t ∧ t.mem = s.mem ∧ t.bvl = s.bvl ∧ (t.part q).fabric = [o] ∧
      (t.part q).fabricRing = (s.part q).fabricRing ∧ (fdOp d ≠ 1 → (t.part q).gateSince.isSome = true)) ∧
    (∀ p, checkFabric d s = none → holdActive s = false → chunkCount d = 1 → tierOf s (fdLocal d) = .t2 →
      portFor s (fdLocal d) 0 (fdDev d) = some p → windowOpen s p (fdDev d) (fdLc d) = true →
      ∃ t g, exec c s = .next t ∧ t.mem = s.mem ∧ (t.part q).fabric = [{ o with sent := 1 }] ∧ t.bvl.wire = s.bvl.wire ++ [(p, g)] ∧
        fTy g = fdOp d ∧ fLast g = true ∧ (fAddr g).toNat = fdRemote d ∧ (fXfer g).toNat = fdXfer d ∧ g.dstMac = macOf s (fdDev d) p.val ∧
        g.payload = if fdOp d = 1 then bytesOf 8 (fdLocal d) ++ bytesOf 4 (fdBytes d) else ramRead s (fdLocal d) (fdBytes d))) ∧
  (∀ (s : State) (p : PortIx) (f : Frame),
    (InOrder s p 0 f → ∃ t, exec (.writeFrame p f) s = .next t ∧ t.mem = s.mem ∧ t.parts = s.parts ∧
      let k := chunkCis s p (fAddr f).toNat
      (t.cistern k).chunks = (s.cistern k).chunks ++ [{ port := p, frame := f }]) ∧
    (InOrder s p 1 f → let len := natOf ((f.payload.drop 8).take 4)
      ∃ t g, exec (.readReq p f) s = .next t ∧ lastFrame t = some (p, g) ∧ fTy g = 2 ∧
        (fabricEnd s (fDstPart f) (fAddr f).toNat len = true → len ≤ 4096 → tierOf s (fAddr f).toNat = .t2 →
          t.mem = s.mem ∧ t.parts = s.parts ∧ g.payload = ramRead s (fAddr f).toNat len ∧ (fAddr g).toNat = natOf (f.payload.take 8)) ∧
        (fabricEnd s (fDstPart f) (fAddr f).toNat len = false → t.mem = s.mem ∧ t.parts = s.parts ∧ g.payload = [] ∧ fAux g = 5)) ∧
    (InOrder s p 2 f → (readFor s f = none → ∃ t, exec (.readData p f) s = .next t ∧ t.mem = s.mem ∧ t.cis = s.cis ∧ t.parts = s.parts) ∧
      (∀ n, readFor s f = some n → f.payload ≠ [] → ∃ t, exec (.readData p f) s = .next t ∧ t.mem = s.mem ∧ t.parts = s.parts ∧
        let k := chunkCis s p (fAddr f).toNat
        (t.cistern k).chunks = (s.cistern k).chunks ++ [{ port := p, frame := f }]) ∧
      ∀ o, OnlyTransfer s (fDstPart f) o → readFor s f = some 0 → f.payload = [] → (fAux f).toNat % 256 ≠ 0 →
        ∃ t, exec (.readData p f) s = .next t ∧ t.mem = s.mem ∧ (t.part (fDstPart f)).fabric = [] ∧
          (t.part (fDstPart f)).fabricRing = (s.part (fDstPart f)).fabricRing ++
            [(fabricRecord { o with status := BitVec.ofNat 8 ((fAux f).toNat % 256) } s.time.toNat, BitVec.ofNat 32 (fdEpoch o.desc))])) ∧
  ∀ (s : State) (c : CisIx) (k : Chunk) (rest : List Chunk) (crcOk memOk : Bool), (s.cistern c).chunks = k :: rest → holdActive s = false →
    let f := k.frame
    let q := fDstPart f
    let a := (fAddr f).toNat
    let bs := f.payload
    let h : CisIx := Fin.ofNat 2 ((a - t2Base) / 0x10000000)
    let written (t : State) : Prop := ∀ x, ramByte t x = if a ≤ x ∧ x < a + bs.length then bs.getD (x - a) 0 else ramByte s x
    onePage s a bs.length →
    (FabricIdle s → fTy f = 0 → ∃ t, exec (.chunkMemoryEntry c crcOk memOk) s = .next t ∧ (t.cistern c).chunks = rest ∧ t.parts = s.parts ∧
      let late (cause : Byte) : Prop := ∃ g, lastFrame t = some (k.port, g) ∧ fTy g = 5 ∧ (g.payload.drop 16).take 1 = [cause]
      (fabricEnd s q a bs.length = false → t.mem = s.mem ∧ late 1) ∧
      (fabricEnd s q a bs.length = true → let e := epochCheck (cisEpoch s h q) (fDstEpoch f).toNat
        (e = .stale → t.mem = s.mem ∧ t.bvl = s.bvl) ∧ (e = .foreign → t.mem = s.mem ∧ late 2) ∧
        (e = .accept → crcOk = true → memOk = true → written t ∧ t.bvl = s.bvl) ∧
        (e = .accept → (crcOk = false ∨ memOk = false) → late (if crcOk then 4 else 3) ∧
          ∀ x, x < a ∨ a + bs.length ≤ x → ramByte t x = ramByte s x))) ∧
    ∀ o, OnlyTransfer s q o → readFor s f = some 0 → fTy f = 2 → crcOk = true → chunkCount o.desc = 1 → o.received = [] → o.status = 0 →
      chunkOfLocal o.desc a = 0 → epochCheck (cisEpoch s h q) (fdEpoch o.desc) = .accept →
      ∃ t, exec (.chunkMemoryEntry c crcOk memOk) s = .next t ∧ (t.cistern c).chunks = rest ∧ written t ∧ (t.part q).fabric = [] ∧
        (t.part q).fabricRing = (s.part q).fabricRing ++
          [(fabricRecord { o with received := [0] } s.time.toNat, BitVec.ofNat 32 (fdEpoch o.desc))]

/-- R395. -/
def Obligations.FlowsKeepSequence : Prop :=
  (∀ (s : State) (p : PortIx) (f : Frame),
    (∀ c ∈ [Instr.writeFrame p f, .readReq p f, .readData p f, .ack p f, .nak p f, .lateErr p f, .settle p f, .settleDone p f, .timeFrame p f],
      (portUp s p = false → exec c s = .next s) ∧
      (portUp s p = true → frameBad s p f = true → exec c s = .next (onLink p (fun x => { x with badFrame := satAdd x.badFrame 1 }) s))) ∧
    (Arrives s p 0 f → (holdActive s = true → ∃ t, exec (.writeFrame p f) s = .next t ∧ t.mem = s.mem ∧ t.cis = s.cis ∧ t.parts = s.parts ∧
        ∀ x, flowOf s p (fSrcDev f) (fLc f) = some x → ∃ g, lastFrame t = some (p, g) ∧ fTy g = 3 ∧ fHold g = true) ∧
      (holdActive s = false → ¬ isNext s p f → ∃ t, exec (.writeFrame p f) s = .next t ∧ t.mem = s.mem ∧ t.cis = s.cis ∧ t.parts = s.parts ∧
        let waits := ∃ x at_, flowOf s p (fSrcDev f) (fLc f) = some x ∧ x.nakAt = some at_ ∧ (s.time - at_).toNat < 4000
        (waits → t.bvl.wire = s.bvl.wire) ∧
        (¬ waits → ∃ g, t.bvl.wire = s.bvl.wire ++ [(p, g)] ∧ fTy g = 4 ∧ fAux g = expectedPsn s p f)) ∧
      (InOrder s p 0 f → ∃ t x, exec (.writeFrame p f) s = .next t ∧ flowOf t p (fSrcDev f) (fLc f) = some x ∧ x.expected = fPsn f + 1 ∧
        let n := ((flowOf s p (fSrcDev f) (fLc f)).map (·.sinceAck)).getD 0
        (n < 7 → x.sinceAck = n + 1 ∧ t.bvl.wire = s.bvl.wire) ∧
        (7 ≤ n → x.sinceAck = 0 ∧ ∃ g, t.bvl.wire = s.bvl.wire ++ [(p, g)] ∧ fTy g = 3 ∧ fAux g = fPsn f)))) ∧
  (∀ (s : State) (p : PortIx) (f : Frame) (x : Flow), let d := fSrcDev f
    flowOf s p d (fLc f) = some x →
    (Arrives s p 3 f →
      (FabricIdle s → ∃ t y, exec (.ack p f) s = .next t ∧ t.mem = s.mem ∧ t.cis = s.cis ∧ flowOf t p d (fLc f) = some y ∧
        y.unacked = x.unacked.filter (fun g => !ackCovers (fAux f) (fPsn g)) ∧ y.held.isSome = fHold f ∧ y.next = x.next ∧
        ((∃ g ∈ x.unacked, ackCovers (fAux f) (fPsn g) = true) → y.timeouts = 0 ∧ y.timeoutUs = 20 ∧ y.stalled = none)) ∧
      ∀ q o g, OnlyTransfer s q o → o.isRead = false → o.acked = [] → o.status = 0 → chunkCount o.desc = 1 → x.unacked = [g] →
        ackCovers (fAux f) (fPsn g) = true → fTy g = 0 → fSrcPart g = q → (fXfer g).toNat = fdXfer o.desc →
        BitVec.ofNat 12 (fld g.header 0x04 11 0) = fdDev o.desc → (fAddr g).toNat = fdRemote o.desc →
        ∃ t, exec (.ack p f) s = .next t ∧ t.mem = s.mem ∧ (t.part q).fabric = [] ∧ (t.part q).fabricRing = (s.part q).fabricRing ++
          [(fabricRecord { o with acked := [(0, s.time)] } s.time.toNat, BitVec.ofNat 32 (fdEpoch o.desc))]) ∧
    (Arrives s p 4 f → let again := x.unacked.filter fun g => decide ((fPsn g - fAux f).toNat < 2 ^ 31)
      ∃ t, exec (.nak p f) s = .next t ∧ t.mem = s.mem ∧ t.parts = s.parts ∧ t.bvl.flows = s.bvl.flows ∧
        t.bvl.wire = s.bvl.wire ++ again.map (fun g => (p, g)) ∧ (t.bvl.ports[p]).resent = satAdd (s.bvl.ports[p]).resent again.length)) ∧
  ∀ (s : State) (p : PortIx) (d : BitVec 12) (lc : Bool),
    (∀ x, flowOf s p d lc = some x →
      (x.sinceAck = 0 → exec (.ackTimer p d lc) s = .next s) ∧
      (0 < x.sinceAck → ∃ t y g, exec (.ackTimer p d lc) s = .next t ∧ t.mem = s.mem ∧ t.parts = s.parts ∧ flowOf t p d lc = some y ∧
        y = { x with sinceAck := 0 } ∧ t.bvl.wire = s.bvl.wire ++ [(p, g)] ∧ fTy g = 3 ∧ fAux g = x.expected - 1) ∧
      (x.unacked = [] ∨ x.held.isSome = true → exec (.retransmitTimeout p d lc) s = .next s) ∧
      (∀ f rest, x.unacked = f :: rest → x.held = none →
        (x.timeouts < 7 → ∃ t y, exec (.retransmitTimeout p d lc) s = .next t ∧ t.mem = s.mem ∧ t.parts = s.parts ∧ flowOf t p d lc = some y ∧
          y.unacked = x.unacked ∧ y.timeouts = x.timeouts + 1 ∧ y.timeoutUs = min 160 (2 * x.timeoutUs) ∧ y.stalled.isSome = true ∧
          t.bvl.wire = s.bvl.wire ++ (x.unacked.filter fun g => decide ((fPsn g - fPsn f).toNat < 2 ^ 31)).map fun g => (p, g)) ∧
        (x.timeouts = 7 → ∀ n, nextPort s p = some n → n ≠ p → ∃ (t : State) (y : Flow) (fs : List Frame), exec (.retransmitTimeout p d lc) s = .next t ∧ t.mem = s.mem ∧
          flowOf t p d lc = some y ∧ y.unacked = [] ∧ t.bvl.wire = s.bvl.wire ++ fs.map (fun g => (n, g)) ∧ fs.length = x.unacked.length ∧
          fs.map (·.payload) = x.unacked.map (·.payload) ∧ ∀ g, fs.head? = some g → fRestart g = true))) ∧
    ((∀ x ∈ s.bvl.flows, x.dev = d → x.stalled = none) → exec (.fabricUnreachable d) s = .next s) ∧
    ∀ q o x at_, OnlyTransfer s q o → o.status = 0 → fdDev o.desc = d → x ∈ s.bvl.flows → x.dev = d → x.stalled = some at_ →
      1000000 ≤ (s.time - at_).toNat → ∃ t, exec (.fabricUnreachable d) s = .next t ∧ t.mem = s.mem ∧ (t.part q).fabric = [] ∧
        (∀ y ∈ t.bvl.flows, y.dev = d → y.unacked = []) ∧ (t.cistern 0).link.unreach = satAdd (s.cistern 0).link.unreach 1 ∧
        (t.part q).fabricRing = (s.part q).fabricRing ++
          [(fabricRecord { o with status := 0x10 } s.time.toNat, BitVec.ofNat 32 (fdEpoch o.desc))]

/-- R399, R400. -/
def Obligations.LateErrorsAndSettlement : Prop :=
  (∀ (s : State) (p : PortIx) (f : Frame), InOrder s p 5 f →
    let q := fDstPart f
    let epoch := natOf (f.payload.take 4)
    let xfer : Word := BitVec.ofNat 32 (natOf ((f.payload.drop 4).take 4))
    let addr : DWord := BitVec.ofNat 64 (natOf ((f.payload.drop 8).take 8))
    let cause := natOf ((f.payload.drop 16).take 1)
    let same (j : Job) : Bool := j.slot.toNat == epoch / 2 ^ 24 && j.epoch.toNat == epoch % 2 ^ 24
    let link (t : State) := (t.cistern (portCis p)).link
    let old := link s
    ((liveJobs s q).find? same = none → ∃ t, exec (.lateErr p f) s = .next t ∧ t.mem = s.mem ∧ (t.part q).jobs = (s.part q).jobs ∧
      (link t).lateReceived = satAdd old.lateReceived 1 ∧
      ((s.part q).jobs.any (fun j => !jobLive j && same j) = true → (t.part q).counts = (s.part q).counts.set 7 (satAdd (s.part q).counts[7] 1) ∧
        (link t).lateIgnored = old.lateIgnored) ∧
      ((s.part q).jobs.any (fun j => !jobLive j && same j) = false → t.parts = s.parts ∧ (link t).lateIgnored = satAdd old.lateIgnored 1)) ∧
    ∀ j, (liveJobs s q).find? same = some j → (j.lates.any fun l => l.xfer == xfer && l.addr == addr && l.replaying) = false →
      let tainted (b : Bool) (fails : Bool) : List Job := (s.part q).jobs.map fun k => if k.id = j.id then
        { jobTainted xfer addr b k with passFailed := fails || k.passFailed } else k
      let fails : Prop := ∃ t, exec (.lateErr p f) s = .next t ∧ (t.part q).jobs = tainted false true ∧ t.mem.ram = s.mem.ram ∧
        (t.part q).counts = (s.part q).counts.set 7 (satAdd (s.part q).counts[7] 1) ∧ (link t).lateReplayed = old.lateReplayed
      (cause ≠ 3 → cause ≠ 4 → fails) ∧ (ackedChunk s q xfer addr = none → ackedColl s q xfer addr = none → fails) ∧
      ∀ o i at_, ackedChunk s q xfer addr = some (o, i, at_) →
        (s.dev.bvl.replayMs * 1000000 < (s.time - at_).toNat → fails) ∧
        let a := fdLocal o.desc + (chunkAt o.desc i).1
        ∀ p2, (cause = 3 ∨ cause = 4) → (s.time - at_).toNat ≤ s.dev.bvl.replayMs * 1000000 → tierOf s a = .t2 →
          portFor s a (a / pageBytes - fdLocal o.desc / pageBytes) (fdDev o.desc) = some p2 →
          ∃ t g, exec (.lateErr p f) s = .next t ∧ (t.part q).jobs = tainted true false ∧ t.mem.ram = s.mem.ram ∧
            (t.part q).counts = (s.part q).counts.set 7 (satAdd (s.part q).counts[7] 1) ∧ lastFrame t = some (p2, g) ∧ fTy g = 0 ∧
            g.payload = ramRead s a (chunkAt o.desc i).2 ∧ (fXfer g).toNat = fdXfer o.desc) ∧
  (∀ (s : State) (p : PortIx) (f : Frame), let c := portCis p
    (InOrder s p 6 f → ∃ t, exec (.settle p f) s = .next t ∧ t.mem = s.mem ∧ t.parts = s.parts ∧
      (t.cistern c).settles = (s.cistern c).settles ++ [(p, f)] ∧ (t.cistern c).chunks = (s.cistern c).chunks) ∧
    (InOrder s p 7 f → ∃ t, exec (.settleDone p f) s = .next t ∧ t.mem = s.mem ∧ t.cis = s.cis ∧
      (t.part (fDstPart f)).jobs = (s.part (fDstPart f)).jobs.map fun j => if jobLive j = true ∧ jobEpoch j = (fAux f).toNat then
        { j with settled := j.settled.map fun e => if e.1 = fSrcDev f then (e.1, e.2.1, true) else e } else j)) ∧
  (∀ (s : State) (p : PortIx) (d : BitVec 12) (q : PortIx) (f : Frame),
    ((s.cistern (portCis p)).settles.find? fun e => e.1 == p && fSrcDev e.2 == d) = some (q, f) →
    let waits := ∃ c : CisIx, (s.cistern c).chunks.any (chunkOfJob f) = true
    (holdActive s = true ∨ waits → exec (.settleDoneSend p d) s = .next s) ∧
    (holdActive s = false → ¬ waits → ∃ t g, exec (.settleDoneSend p d) s = .next t ∧ t.mem = s.mem ∧ t.parts = s.parts ∧
      (t.cistern (portCis p)).settles = (s.cistern (portCis p)).settles.erase (p, f) ∧ t.bvl.wire = s.bvl.wire ++ [(p, g)] ∧
      fTy g = 7 ∧ fAux g = fAux f ∧ fDstPart g = fSrcPart f ∧ fLc g = fLc f)) ∧
  ∀ (s : State) (q : PartIx) (d : BitVec 12), ∃ t, exec (.settleTimeout q d) s = .next t ∧ t.mem = s.mem ∧ t.bvl = s.bvl ∧ t.plots = s.plots ∧
    (t.part q).jobs = (s.part q).jobs.map fun j =>
      if jobLive j = true ∧ ∃ e ∈ j.settled, e.1 = d ∧ e.2.2 = false ∧ 1000000 ≤ (s.time - e.2.1).toNat then { j with passFailed := true } else j

/-- R397, R401. -/
def Obligations.PortsAndTime : Prop :=
  (∀ (s : State) (p : PortIx) (lane : Fin 8), let x := s.bvl.ports[p]
    let h := laneHalf lane.val
    (holdActive s = true → exec (.laneFault p lane false) s = .next s) ∧
    (holdActive s = false → x.state = 2 → x.narrow = false → x.laneBad = 0 → ∃ t, exec (.laneFault p lane false) s = .next t ∧ t.mem = s.mem ∧ t.plots = s.plots ∧
      t.bvl.ports[p] = { x with laneBad := BitVec.ofNat 8 (2 ^ lane.val), state := 1, narrow := true, half := decide (h = 0) } ∧
      t.image.pendingLog = s.image.pendingLog ++ [logRecord s 1 11 (prunePayload 2 p.val lane.val 7 1 x.laneReturns[lane])]) ∧
    (holdActive s = false → x.state = 3 → x.laneBad.getLsbD lane.val = false → halfGood x (1 - h) = false → x.testing = false →
      ∃ t, exec (.laneFault p lane false) s = .next t ∧ t.mem = s.mem ∧ t.plots = s.plots ∧ (t.bvl.ports[p]).state = 4 ∧
        t.image.pendingLog = s.image.pendingLog ++ [logRecord s 1 11 (prunePayload 2 p.val lane.val 7 1 x.laneReturns[lane]),
          logRecord s 1 11 (prunePayload 3 p.val 0 7 1 x.returns)]) ∧
    (holdActive s = false → x.state = 1 → x.testing = false → x.fails = 2 → ∃ t, exec (.laneFault p lane true) s = .next t ∧
      (t.bvl.ports[p]).state = 4 ∧ (t.bvl.ports[p]).trainFail = satAdd x.trainFail 1 ∧
      t.image.pendingLog = s.image.pendingLog ++ [logRecord s 1 11 (prunePayload 3 p.val 0 3 3 x.returns)]) ∧
    (x.state = 1 → x.testing = false → x.fails = 0 → x.laneFails[lane] = 0 → exec (.laneFault p lane true) s = .next (onPort p (fun y =>
      { y with trainFail := satAdd y.trainFail 1, fails := 1, laneFails := y.laneFails.set lane.val 1 lane.isLt }) s)) ∧
    (holdActive s = false → x.state = 1 → x.testing = false → (x.narrow = false → x.laneBad = 0 → ∃ t, exec (.portTrained p true) s = .next t ∧
        (t.bvl.ports[p]).state = 2 ∧ (t.bvl.ports[p]).fails = 0 ∧ t.image = s.image ∧ t.mem = s.mem) ∧
      (∃ t, exec (.portTrained p false) s = .next t ∧ (t.bvl.ports[p]).state = 3 ∧ (t.bvl.ports[p]).fails = 0 ∧ t.image = s.image ∧ t.mem = s.mem) ∧
      (x.narrow = true → ∃ t, exec (.portTrained p true) s = .next t ∧ (t.bvl.ports[p]).state = 4 ∧ t.mem = s.mem))) ∧
  (∀ (s : State) (p : PortIx) (f : Frame), Arrives s p 8 f → ∃ t, exec (.timeFrame p f) s = .next t ∧ t.mem = s.mem ∧ t.plots = s.plots ∧
    t.time = s.time ∧ t.bvl.master = if s.bvl.isMaster then s.bvl.master else fSrcDev f) ∧
  (∀ l e, bestExchange l = some e → e ∈ l ∧ ∀ x ∈ l, e.trip ≤ x.trip) ∧
  ∀ s : State,
    let claims := s.dev.bvl.eligible = true ∧ 2000000 ≤ (s.time - s.image.bootAt).toNat ∧ s.bvl.isMaster = false ∧
      (s.bvl.synced = false ∨ s.bvl.holdover = true ∨ s.dev.bvl.devId.toNat ≤ s.bvl.master.toNat)
    let due := s.pins.syncOn = true ∧ s.pins.pins[(4 : Fin 8)] = .run ∧ s.time.toNat % 1000000 = 0
    (∀ (t1 t2 t3 t4 : DWord) (p : PortIx), s.bvl.isMaster = false → (∀ k : PortIx, k < p → portUp s k = false) → portUp s p = true →
      (∃ t g, exec (.timeExchange t1 t2 t3 t4 false) s = .next t ∧ t.bvl.wire = s.bvl.wire ++ [(p, g)] ∧ fTy g = 8 ∧
        t.bvl.exchanges = s.bvl.exchanges ∧ t.time = s.time) ∧
      (s.bvl.exchanges.length ≤ 8 → ∃ t g, exec (.timeExchange t1 t2 t3 t4 true) s = .next t ∧ t.bvl.wire = s.bvl.wire ++ [(p, g)] ∧
        t.bvl.exchanges.length ≤ 8 ∧ t.bvl.lastOk = s.time ∧ t.bvl.holdover = false ∧ t.time = s.time ∧ t.mem = s.mem ∧
        t.bvl.exchanges.getLast? = some { offset := ((t2 - t1).toInt - (t4 - t3).toInt) / 2, trip := (t4 - t1).toInt - (t3 - t2).toInt })) ∧
    (∀ e, s.bvl.isMaster = false → s.bvl.holdover = false → 2000000 ≤ (s.time - s.image.bootAt).toNat → bestExchange s.bvl.exchanges = some e →
      ∃ t, exec .timeAdjust s = .next t ∧ t.bvl.synced = true ∧ t.mem = s.mem ∧ t.plots = s.plots ∧
        (s.bvl.slewOnly = false → t.time = s.time + BitVec.ofInt 64 e.offset) ∧
        (s.bvl.slewOnly = true → t.time = s.time ∧ t.bvl.slew = max (-50) (min 50 e.offset))) ∧
    (s.bvl.isMaster = false → s.bvl.holdover = false → exec .holdoverEntry s = .next
      (if (s.time - s.bvl.lastOk).toNat < 100000000 then s else { s with bvl := { s.bvl with holdover := true, slew := 0 } })) ∧
    (claims → ∃ t, exec .masterClaim s = .next t ∧ t.bvl.isMaster = true ∧ t.bvl.master = s.dev.bvl.devId ∧ t.bvl.synced = true ∧ t.time = s.time) ∧
    (¬ claims → exec .masterClaim s = .next s) ∧
    (due → exec .syncPulse s = .next { s with pins := { s.pins with syncAt := some s.time } }) ∧ (¬ due → exec .syncPulse s = .next s) ∧
    (s.pending = [] → ∃ t, step s = .next t ∧ (t.time - s.time).toNat ≤ 2)

/-- R372. -/
def Obligations.RegisterAccesses : Prop :=
  ∀ s : State,
    (∀ block page, exec (.windowSelect block page) s = .next { s with pf0 := { s.pf0 with winBlock := block, winPage := page } }) ∧
    (∀ (b : Block) (lo len : Nat), lo % 4 = 0 → isWide b lo = true →
      (badAccess lo len = none → ∃ t, exec (.lowHalfRead .core b lo len) s = .next t ∧ t.mem = s.mem ∧ t.plots = s.plots ∧ t.fns = s.fns ∧
        ∀ u : State, latchedRead u t.alm.latch b (lo + 4) = regRead s b (lo + 4) % 2 ^ 32) ∧
      ∀ (f : FnIx) bar o, hostPlace s f b lo = some (bar, o) →
        (fnExists s f = false → exec (.lowHalfRead (.host f) b lo len) s = .next s) ∧
        (fnExists s f = true → (∀ k, badAccess lo len = some k → exec (.lowHalfRead (.host f) b lo len) s = .next (logAccess f k bar o s)) ∧
          (badAccess lo len = none → ∃ t, exec (.lowHalfRead (.host f) b lo len) s = .next t ∧ t.mem = s.mem ∧ t.alm = s.alm ∧
            (∀ k : FnIx, k ≠ f → t.func k = s.func k) ∧ ∀ u : State, latchedRead u (t.func f).latch b (lo + 4) = regRead s b (lo + 4) % 2 ^ 32))) ∧
    (∀ (d : Word),
      let core (b : Block) (off len : Nat) : Instr := .registerWrite (.core b off len (BitVec.ofNat 64 d.toNat))
      (∀ p : PlotIx, let rw := BitVec.ofNat 3 (d.toNat / 8)
        (d.getLsbD 2 = true → exec (core (.plot p) 0x14 4) s = exec (.plotReset p rw) s) ∧
        (d.getLsbD 2 = false → d.getLsbD 0 = true → exec (core (.plot p) 0x14 4) s = exec (.plotFlush p (d.getLsbD 1) rw) s) ∧
        (d.getLsbD 2 = false → d.getLsbD 0 = false → d.getLsbD 1 = true → exec (core (.plot p) 0x14 4) s = exec (.plotResume p rw) s) ∧
        ∀ n < 4, exec (core (.plot p) 0x14 n) s = .next s) ∧
      (∀ b : BedIx, exec (core (.bed b) 0x4C 4) s = exec (.layerStateLoad b d) s ∧
        exec (core (.bed b) 0x50 4) s = exec (.bedClockTarget b (BitVec.ofNat 5 d.toNat)) s ∧
        ∀ k < 256, ∃ t, exec (core (.bed b) (0x1000 + 4 * k) 4) s = .next t ∧ t.mem = s.mem ∧ t.plots = s.plots ∧
          ∀ (c : BedIx) (j : Nat), bedEpoch t c j = if c = b ∧ j = k then BitVec.ofNat 25 d.toNat else bedEpoch s c j) ∧
      (∀ c : CisIx, exec (core (.cistern c) 0x180 4) s = exec (.xltInvalidate c d) s ∧
        ∀ n, 0 < n → n ≤ 4 → exec (core (.cistern c) 0x308 n) s =
          .next (s.onCis c fun x => { x with dir := { x.dir with reads := 0 } })) ∧
      (∀ off len, exec (core .pf0 off len) s = .next s ∧ (∀ q, exec (core (.vf q) off len) s = .next s) ∧
        exec (core .fence off len) s = exec (.foreignWrite .gardener (BitVec.ofNat 16 off) d) s)) ∧
    (∀ (f : FnIx) (bar : Fin 3) (off : BitVec 16) (len : Nat) (d : Word),
      let bus : Instr := .registerWrite (.bus { fn := f, bar := bar, offset := off, len := len, data := BitVec.ofNat 64 d.toNat })
      (fnExists s f = false → exec bus s = .next s) ∧
      (fnExists s f = true →
        (bar = 2 → f = pf0Fn → off.toNat < 0x1000 → exec bus s = exec (.foreignWrite (.host f) off d) s) ∧
        (bar ≠ 2 → ∀ k, badAccess off.toNat len = some k → exec bus s = .next (logAccess f k (BitVec.ofNat 2 bar.val) off s)) ∧
        (bar = 0 → off = 0x400 → len = 4 → exec bus s = exec (.irqCauseClear f d) s) ∧
        (bar = 0 → off = 0x400 → 0 < len → len < 4 → badAccess 0x400 len = none → exec bus s = .next (logAccess f 0 0 off s)) ∧
        ∀ i : QpIx, bar = 1 → len = 4 → (off.toNat = 8 * i.val → exec bus s = exec (.sqDoorbell f i d) s) ∧
          (off.toNat = 8 * i.val + 4 → exec bus s = exec (.cqDoorbell f i d) s))) ∧
    ∀ (f : FnIx) (a n : DWord), exec (.atsInvalidation f a n) s =
      .next (if fnExists s f then s.onFunc f fun x => { x with atsDone := x.atsDone + 1 } else s)

/-- R385, R390. -/
def Obligations.MailboxCommands : Prop :=
  ∀ s : State,
    (∀ (k : Fin 2) (len : BitVec 16), s.pf0.mbxBusy = true →
      ∀ c ∈ [Instr.mailboxMonitor len, .imageErase k, .imageWrite k len, .imageCheck k], exec c s = .next (logAccess pf0Fn 0 2 0x1000 s)) ∧
    (s.pf0.mbxBusy = false →
      (∀ len : BitVec 16, s.monitor.lines = [] → s.pins.fifo = [] → let l := tabRead 0 s.pf0.mbxData 0 (min len.toNat 4096)
        (∀ c, parseLine l = .ok c → exec (.mailboxMonitor len) s = .next { s with
          pf0 := { s.pf0 with mbxBusy := true, mbxOp := .monitor }, monitor := { s.monitor with lines := [(true, l)] } }) ∧
        ∀ e, parseLine l = .error e → ∃ t, exec (.mailboxMonitor len) s = .next t ∧ t.pf0.mbxBusy = true ∧ t.monitor.lines = [] ∧
          t.pf0.mbxData = tabWrite 0 s.pf0.mbxData 0 (mailboxReply (replyLines [] (some e))) ∧ t.mem = s.mem ∧ t.image = s.image) ∧
      ∀ k : Fin 2,
        (copyRefused s k = true → exec (.imageErase k) s = .next { s with pf0 := { s.pf0 with mbxBusy := true, mbxOp := .erase k true } } ∧
          ∀ len, exec (.imageWrite k len) s = .next { s with
            pf0 := { s.pf0 with mbxBusy := true, mbxOp := .write k s.pf0.mbxArg.toNat len.toNat 1 } }) ∧
        (copyRefused s k = false →
          (∃ t, exec (.imageErase k) s = .next t ∧ t.mem = s.mem ∧ t.pf0 = { s.pf0 with mbxBusy := true, mbxOp := .erase k false } ∧
            ∀ (d : Fin 2) (a : Nat), tabGet 0xFF t.image.flash[d] a =
              if d = k ∧ a < 0x3F80000 then 0xFF else tabGet 0xFF s.image.flash[d] a) ∧
          ∀ len : BitVec 16, let at_ := s.pf0.mbxArg.toNat
            (imageWriteBad at_ len.toNat = true → exec (.imageWrite k len) s = .next { s with
              pf0 := { s.pf0 with mbxBusy := true, mbxOp := .write k at_ len.toNat 3 } }) ∧
            (imageWriteBad at_ len.toNat = false → tabWf 0xFF s.image.flash[k] = true → tabWf 0 s.pf0.mbxData = true →
              ∃ t, exec (.imageWrite k len) s = .next t ∧ t.mem = s.mem ∧
              t.pf0 = { s.pf0 with mbxBusy := true, mbxOp := .write k at_ len.toNat 0 } ∧
              ∀ (d : Fin 2) (a : Nat), tabGet 0xFF t.image.flash[d] a = if d = k ∧ at_ ≤ a ∧ a < at_ + len.toNat then
                tabGet 0xFF s.image.flash[d] a &&& tabGet 0 s.pf0.mbxData (a - at_) else tabGet 0xFF s.image.flash[d] a)) ∧
        exec (.imageCheck k) s = .next { s with pf0 := { s.pf0 with mbxBusy := true, mbxOp := .check k (checkRefused s) } }) ∧
    ∀ fe : Bool, let c := Instr.mailboxComplete fe
      let ends (result : BitVec 4) (len : Nat) (sameFlash : Bool) : Prop := ∃ t, exec c s = .next t ∧ t.pf0.mbxBusy = false ∧
        t.pf0.mbxOp = .none ∧ t.pf0.mbxResult = result ∧ t.pf0.mbxLen = BitVec.ofNat 16 len ∧ (t.func pf0Fn).cause.getLsbD 7 = true ∧
        t.mem = s.mem ∧ t.plots = s.plots ∧ (sameFlash = true → t.image = s.image)
      (s.pf0.mbxOp = .none → exec c s = .next s) ∧
      (s.pf0.mbxOp = .monitor → (s.monitor.lines.any (·.1) = true → exec c s = .next s) ∧
        (s.monitor.lines.any (·.1) = false → ends 0 s.pf0.mbxLen.toNat true)) ∧
      (∀ k refused, s.pf0.mbxOp = .erase k refused → (refused = true → ends 1 0 true) ∧
        (refused = false → ends (if fe then 2 else 0) 0 (!fe))) ∧
      (∀ k off len result, s.pf0.mbxOp = .write k off len result → (result ≠ 0 → ends result 0 true) ∧
        (result = 0 → ends (if fe then 2 else 0) 0 (!fe))) ∧
      ∀ k refused, s.pf0.mbxOp = .check k refused → (refused = true → ends 1 0 true) ∧
        (refused = false → ends 0 (imageReason s k (if fe then BitVec.ofNat 2 (2 ^ k.val) else 0)) true)

/-- R408 to R413, R418. -/
def Obligations.Collectives : Prop :=
  (∀ (s : State) (d : BitVec 512), let q := cdPart d
    let c : Instr := if cdOp d = 1 then .reduce d else .broadcast d
    let o : CollOp :=
      { desc := d, isReduce := cdOp d == 1, index := (ownIndices s d).headD 0, members := groupN s d, started := false, since := s.time,
        ready := [], credits := 2, counts := [], countSent := false, early := [], added := [], acc := [], got := [], sentPages := 0,
        frames := [], status := 0 }
    (s.part q).resetStep = .none → (s.part q).defined = true → FabricIdle s → s.dev.traceEn = false → (s.part q).readies = [] →
    (∀ st, checkColl d s = some st → ∃ t, exec c s = .next t ∧ t.mem = s.mem ∧ t.bvl = s.bvl ∧ (t.part q).colls = [] ∧
      (t.part q).fabricRing = (s.part q).fabricRing ++ [(sluiceRecord (cdTag d) st q.val 0 s.time.toNat, BitVec.ofNat 32 (cdEpoch d))]) ∧
    (checkColl d s = none → holdActive s = true → ∃ t, exec c s = .next t ∧ t.mem = s.mem ∧ t.bvl = s.bvl ∧ (t.part q).colls = [o] ∧
      (t.part q).fabricRing = (s.part q).fabricRing) ∧
    (checkColl d s = none → holdActive s = false → sendersTo o = [] → receiversFrom o ≠ [] → ∃ t, exec c s = .next t ∧ t.mem = s.mem ∧
      t.bvl = s.bvl ∧ (t.part q).colls = [{ o with started := true }] ∧ (t.part q).fabricRing = (s.part q).fabricRing)) ∧
  (∀ (s : State) (q : PartIx) (seq : Word) (src : Nat) (d : BitVec 512) (n : Nat), (s.part q).defined = true → (s.part q).resetStep = .none →
    collOf s q seq = none → exec (.readyWrite q seq src d n) s = .next (s.onPart q fun x => { x with readies := x.readies ++ [(seq, src, d, n)] }) ∧
      exec (.creditWrite q seq) s = .next s ∧ exec (.countArrival q seq src seq) s = .next s ∧
      (∀ page data, exec (.pageArrival q seq src page data) s = .next s) ∧ exec (.collTimeout q seq) s = .next s) ∧
  ∀ (s : State) (q : PartIx) (c : CollOp), (s.part q).defined = true → (s.part q).resetStep = .none → InCollective s q c →
    let seq := cdSeq c.desc
    let failed (t : State) (st : Nat) : Prop := (t.part q).colls = [] ∧ t.mem = s.mem ∧ t.bvl = s.bvl ∧ (t.part q).fabricRing =
      (s.part q).fabricRing ++ [(sluiceRecord (cdTag c.desc) st (cdPart c.desc).val (collBytesDone { c with status := BitVec.ofNat 8 st }) s.time.toNat,
        BitVec.ofNat 32 (cdEpoch c.desc))]
    (∀ (src : Nat) (d : BitVec 512) (n : Nat), let r := rankOf c.desc c.members src
      (receiversFrom c).contains r = true →
      (readyAgrees c d n = false → ∃ t, exec (.readyWrite q seq src d n) s = .next t ∧ failed t 3 ∧
        ∀ k : CisIx, (t.cistern k).link.collMismatch = satAdd (s.cistern k).link.collMismatch 1) ∧
      ∀ p, readyAgrees c d n = true → LeafOfReduce s q c p → c.ready = [] → 0 < c.credits →
        ∃ t, exec (.readyWrite q seq src d n) s = .next t ∧ LeafSends s t c p) ∧
    (∀ p, LeafOfReduce s q c p → allReady c = true → c.credits = 0 → ∃ t, exec (.creditWrite q seq) s = .next t ∧ LeafSends s t c p) ∧
    (∀ (src : Nat) (count : Word), let r := rankOf c.desc c.members src
      cdVar c.desc = true → (sendersTo c).contains r = true → c.counts.lookup r = none →
      (c.isReduce = false → cdMax c.desc < count.toNat → ∃ t, exec (.countArrival q seq src count) s = .next t ∧ failed t 3) ∧
      (holdActive s = true → collDone s q { c with counts := (r, count.toNat) :: c.counts } = false → c.isReduce = true →
        ∃ t, exec (.countArrival q seq src count) s = .next t ∧ t.mem = s.mem ∧ t.bvl = s.bvl ∧
          (t.part q).colls = [{ c with counts := (r, count.toNat) :: c.counts, since := s.time }])) ∧
    (∀ (src : Nat) (data : List Byte), c.isReduce = false → cdVar c.desc = false → ownChildren c = [] → ownRank c ≠ 0 → c.got = [] →
      c.early = [] → c.sentPages = 0 → (sendersTo c).contains (rankOf c.desc c.members src) = true → 0 < data.length → data.length ≤ pageBytes →
      cdBytes c.desc = data.length → onePage s (cdDst c.desc) data.length → holdActive s = false →
      epochCheck (cisEpoch s (Fin.ofNat 2 ((cdDst c.desc - t2Base) / 0x10000000)) q) (cdEpoch c.desc) = .accept →
      (∀ x ∈ s.bvl.flows, x.unacked = []) → ∃ t, exec (.pageArrival q seq src 0 data) s = .next t ∧ (t.part q).colls = [] ∧ t.bvl = s.bvl ∧
        (∀ x, ramByte t x = if cdDst c.desc ≤ x ∧ x < cdDst c.desc + data.length then data.getD (x - cdDst c.desc) 0 else ramByte s x) ∧
        (t.part q).fabricRing = (s.part q).fabricRing ++
          [(sluiceRecord (cdTag c.desc) 0 (cdPart c.desc).val data.length s.time.toNat, BitVec.ofNat 32 (cdEpoch c.desc))]) ∧
    ((collWaiting c = false ∨ holdActive s = true ∨ neighbourHeld s c = true ∨ (s.time - c.since).toNat ≤ 1000 * cdTimeout c.desc →
        exec (.collTimeout q seq) s = .next s) ∧
      (collWaiting c = true → holdActive s = false → neighbourHeld s c = false → 1000 * cdTimeout c.desc < (s.time - c.since).toNat →
        ∃ t, exec (.collTimeout q seq) s = .next t ∧ failed t 0x11 ∧
          ∀ k : CisIx, (t.cistern k).link.collTimeout = satAdd (s.cistern k).link.collTimeout 1))

/-- R426, R430, R431, R435. -/
def Obligations.CodecStreams : Prop :=
  (∀ (s : State) (ctx : Fin 32) (sp : StreamParams),
    let put (x : Option Stream) (t : State) : State :=
      { t with codec := { t.codec with ctxs := t.codec.ctxs.set ctx.val x ctx.isLt } }
    (s.codec.ctxs[ctx] = none → (s.part sp.part).resetStep = .none → exec (.streamOpen ctx sp) s =
      .next (put (some { sp := sp, frames := 0, outBytes := 0, index := 0 }) s)) ∧
    (∀ x, s.codec.ctxs[ctx] = some x → exec (.streamOpen ctx sp) s = .next s) ∧
    ((∀ i : PipeIx, (s.codec.pipes[i]).frame = none ∨ (s.codec.pipes[i]).ctx.toNat ≠ ctx.val) → exec (.streamClose ctx) s = .next (put none s)) ∧
    ((∃ i : PipeIx, (s.codec.pipes[i]).frame ≠ none ∧ (s.codec.pipes[i]).ctx.toNat = ctx.val) → exec (.streamClose ctx) s = .next s)) ∧
  (∀ (s : State) (ctx : Fin 32) (pipe : PipeIx) (fc : FrameCmd) (x : Stream), s.codec.ctxs[ctx] = some x → s.dev.traceEn = false →
    let q := x.sp.part
    let ps := pipesFor (spPair x.sp) pipe
    let taken := holdActive s = false ∧ x.sp.encode = decide (pipe.val < 4) ∧ ∀ i ∈ ps, pipeFree s q (spPair x.sp) i = true
    (¬ taken → exec (.streamFrame ctx pipe fc) s = .next s) ∧
    (taken → ∃ t, exec (.streamFrame ctx pipe fc) s = .next t ∧ t.mem = s.mem ∧ t.codec.ctxs = s.codec.ctxs ∧ t.plots = s.plots ∧
      ∀ i : PipeIx, t.codec.pipes[i] = if i ∈ ps then
        { s.codec.pipes[i] with state := 1, user := BitVec.ofNat 4 q.val, lent := decide ((s.codec.pipes[i]).owner.toNat ≠ q.val), paired := spPair x.sp,
                                ctx := BitVec.ofNat 5 ctx.val, lastCtx := some ctx, frame := some fc, ueOnce := false }
        else s.codec.pipes[i])) ∧
  ∀ (s : State) (pipe : PipeIx) (r : CodecResult) (fc : FrameCmd) (x : Stream), let y := s.codec.pipes[pipe]
    let ctx := y.ctx.toFin
    let ps := pipesFor y.paired pipe
    let rows := frameRows x.sp fc
    y.frame = some fc → s.codec.ctxs[ctx] = some x → y.state = 1 →
    (holdActive s = true → exec (.frameComplete pipe r) s = .next s) ∧
    let q := x.sp.part
    (holdActive s = false → (∀ a ∈ rows, accessReady s q none a.2.2 (2 * x.sp.width) (!x.sp.encode) = true) → s.dev.traceEn = false →
      frameJob s q fc = none →
      let over_ (t : State) (st : BitVec 8) : Prop := t.codec.done = s.codec.done ++ [(ctx, st)] ∧
        ∀ i : PipeIx, (t.codec.pipes[i]).frame = (if i ∈ ps then none else (s.codec.pipes[i]).frame) ∧
          (t.codec.pipes[i]).state = if i ∈ ps then 0 else (s.codec.pipes[i]).state
      (r.sramUe = 1 → y.ueOnce = false → ∃ t, exec (.frameComplete pipe r) s = .next t ∧ t.mem = s.mem ∧ t.codec.ctxs = s.codec.ctxs ∧
        t.codec.done = s.codec.done ∧ t.codec.ue = satAdd s.codec.ue 1 ∧ ∀ i ∈ ps, (t.codec.pipes[i]).frame = (s.codec.pipes[i]).frame ∧ (t.codec.pipes[i]).ueOnce = true) ∧
      (r.sramUe = 0 → r.dmaOk = true →
        ((r.unsupported = true ∨ spBeyond x.sp = true) → ∃ t, exec (.frameComplete pipe r) s = .next t ∧ t.mem = s.mem ∧ over_ t 0x13 ∧
          t.codec.unsupported = satAdd s.codec.unsupported 1) ∧
        (r.unsupported = false → spBeyond x.sp = false →
          (x.sp.encode = false → r.bitstreamErr = true → ∃ t, exec (.frameComplete pipe r) s = .next t ∧ t.mem = s.mem ∧ over_ t 0x12 ∧
            t.codec.bitstream = satAdd s.codec.bitstream 1) ∧
          (∀ u, x.sp.encode = false → r.bitstreamErr = false → r.sramCe = 0 → frameStale s q fc = false →
            writeRows q x.sp r fc.epoch.toNat rows s = (u, none) → u.codec = s.codec →
            ∃ t, exec (.frameComplete pipe r) s = .next t ∧ t.mem = u.mem ∧ over_ t 0 ∧ t.codec.ctxs[ctx] = some { x with frames := x.frames + 1 }) ∧
          (∀ vs, x.sp.encode = true → r.sramCe = 0 → r.overflow = false → readRows q (2 * x.sp.width) rows s = (s, .ok vs) →
            (∀ v ∈ vs, xisNan v = false ∧ xisInf v = false) →
            let n := x.sp.width * x.sp.height
            let l := vs.map xrat
            let entry := bytesOf 16 (x.outBytes + x.frames * 2 ^ 64 + (decide (accessPoint x.sp x.frames = some true)).toNat * 2 ^ 96)
            let ia := spIndexAddr x.sp + 16 * x.index
            let indexed := accessPoint x.sp x.frames ≠ none ∧ spIndexAddr x.sp ≠ 0 ∧ 16 * (x.index + 1) ≤ spIndexLen x.sp
            let ca := fc.coded.toNat
            ∃ t, exec (.frameComplete pipe r) s = .next t ∧ over_ t 0 ∧ t.mem.ram = s.mem.ram ∧
              t.codec.clamp = satAdd s.codec.clamp (clampCount x.sp (l.take n) ((l.drop n).take n) (l.drop (2 * n))) ∧
              (frameStale s q fc = true → t.mem = s.mem ∧ t.codec.ctxs = s.codec.ctxs) ∧
              (frameStale s q fc = false → x.outBytes < 2 ^ 64 → x.frames < 2 ^ 32 →
                (indexed → t.codec.ctxs[ctx] = some { x with frames := x.frames + 1, outBytes := x.outBytes + r.coded.length, index := x.index + 1 } ∧
                  (∀ i < 16, hostByte t (ia + i) = entry.getD i 0) ∧ ∀ a, (a < ia ∨ ia + 16 ≤ a) →
                    hostByte t a = if ca ≤ a ∧ a < ca + r.coded.length then r.coded.getD (a - ca) 0 else hostByte s a) ∧
                (¬ indexed → t.codec.ctxs[ctx] = some { x with frames := x.frames + 1, outBytes := x.outBytes + r.coded.length } ∧ ∀ a,
                  hostByte t a = if ca ≤ a ∧ a < ca + r.coded.length then r.coded.getD (a - ca) 0 else hostByte s a))))))

/-- R444 to R453. -/
def Obligations.PinsAndManagement : Prop :=
  ∀ s : State,
    let toggles := (∀ c : CoreIx, (s.core c).held = false) ∧ 500000000 ≤ (s.time - s.pins.beatAt).toNat
    (∀ pin : Fin 8, let since := (s.time - s.pins.pinAt[pin]).toNat
      (s.pins.pins[pin] = .park → 2 ≤ s.pins.phase.toNat → 2000 ≤ since → ∃ t, exec (.parkEnd pin) s = .next t ∧ t.mem = s.mem ∧ t.fence = s.fence ∧
        t.pins.pins = s.pins.pins.set pin.val (if pinListens s pin then .blank else .run) pin.isLt ∧
        t.pins.phase = if ∀ k : Fin 8, k ≠ pin → s.pins.pins[k] ≠ .park then 3 else s.pins.phase) ∧
      (s.pins.pins[pin] ≠ .park ∨ since < 2000 → exec (.parkEnd pin) s = .next s) ∧
      (∀ high, s.pins.pins[pin] = .blank → 1000 ≤ since → ∃ t, exec (.inputBlankingEnd pin high) s = .next t ∧ t.mem = s.mem ∧
        t.pins.pins = s.pins.pins.set pin.val .run pin.isLt ∧ t.pins.levels.getLsbD pin.val = high ∧
        (pin.val = 3 → high = false → t.fence.throttleLow = true) ∧ (pin.val ≠ 3 ∨ high = true → t.fence = s.fence))) ∧
    (toggles → exec .beatToggle s = .next { s with pins := { s.pins with beat := !s.pins.beat, beatAt := s.time } }) ∧
    (¬ toggles → exec .beatToggle s = .next s) ∧
    (∀ ch : Byte, (uartServes s = false → ∀ ok, exec (.uartCharacter ch ok) s = .next s) ∧
      (uartServes s = true →
        exec (.uartCharacter ch false) s = .next { s with pins := { s.pins with framing := satAdd s.pins.framing 1 } } ∧
        (∀ m l rest c, s.monitor.lines = (m, l) :: rest → parseLine l = .ok c →
          exec (.uartCharacter ch true) s = .next (if s.pins.fifo.length < 256 then { s with pins := { s.pins with fifo := s.pins.fifo ++ [ch] } }
            else { s with pins := { s.pins with overflow := satAdd s.pins.overflow 1 } })) ∧
        (s.monitor.lines = [] → s.pins.fifo = [] → (ch ≠ 13 → ch ≠ 10 → s.pins.uartLine.length < 256 → exec (.uartCharacter ch true) s = .next { s with
            pins := { s.pins with uartOut := s.pins.uartOut ++ [ch], uartLine := s.pins.uartLine ++ [ch] } }) ∧
          (ch = 13 → s.pins.uartLine ≠ [] → ∀ c, parseLine s.pins.uartLine = .ok c → exec (.uartCharacter ch true) s = .next { s with
            pins := { s.pins with uartOut := s.pins.uartOut ++ [ch], uartLine := [] }
            monitor := { s.monitor with lines := [(false, s.pins.uartLine)] } })))) ∧
    ∀ (cmd : Word) (e : SpiEnd), let a := spiAddr cmd
      (spiAwake s = false → exec (.mgtReadFrame cmd e) s = .next s ∧ ∀ data, exec (.mgtWriteFrame cmd data e) s = .next s) ∧
      (spiAwake s = true →
        let ends (t : State) (result : Nat) : Prop := t.pins.spiResult.toNat = result ∧ t.pins.spiFrames = s.pins.spiFrames + 1 ∧
          t.mem = s.mem ∧ t.plots = s.plots ∧ t.fence.regs = s.fence.regs ∧ t.parts = s.parts
        (cmd.getLsbD 31 = false →
          (cmd.toNat % 4 ≠ 0 → e.words = spiCount cmd + 1 → e.partialWord = false → ∃ t, exec (.mgtReadFrame cmd e) s = .next t ∧ ends t 4 ∧
            t.pins.spiMiso = [spiStatus s] ∧ t.pins.spiRefused = satAdd s.pins.spiRefused 1) ∧
          (cmd.toNat % 4 = 0 → (e.words < spiCount cmd + 1 → ∃ t, exec (.mgtReadFrame cmd e) s = .next t ∧ ends t 1 ∧
              t.pins.spiPartial = satAdd s.pins.spiPartial 1) ∧
            (spiCount cmd = 1 → e.words = 2 → e.partialWord = false →
              let answers (result : Nat) (w : State → Nat) : Prop := ∃ t, exec (.mgtReadFrame cmd e) s = .next t ∧ ends t result ∧
                t.pins.spiMiso = [spiStatus s, 0, BitVec.ofNat 32 (w t)]
              (spiUnready s a = true → answers 5 fun _ => 0) ∧
              (spiUnready s a = false →
                (∀ b off, spiPlace a = some (some b, off) → answers 0 fun _ => latchedRead s s.alm.latch b off) ∧
                (∀ off, spiPlace a = some (none, off) → answers 0 fun _ => mgtReg s off) ∧ (spiPlace a = none → answers 0 fun _ => 0))))) ∧
        (cmd.getLsbD 31 = true → cmd.toNat % 4 = 0 → spiCount cmd = 1 → ∀ w : Word,
          (e.words = 0 → ∃ t, exec (.mgtWriteFrame cmd [w] e) s = .next t ∧ ends t 1) ∧
          (e.words = 2 → spiPlace a = none → ∃ t, exec (.mgtWriteFrame cmd [w] e) s = .next t ∧ ends t 2) ∧
          (e.words = 1 → e.partialWord = false →
            (∀ off, spiPlace a = some (some .fence, off) → ∃ t, exec (.mgtWriteFrame cmd [w] e) s = .next t ∧ ends t 3 ∧
              t.fence.foreign = satAdd s.fence.foreign 1 ∧ t.fence.foreignSrc = 0 ∧ t.pins.spiRefused = satAdd s.pins.spiRefused 1) ∧
            (spiPlace a = some (some .image, a - 0x100000) ∨ spiPlace a = some (some .almanac, a - 0x200000) ∨ spiPlace a = none →
              ∃ t, exec (.mgtWriteFrame cmd [w] e) s = .next t ∧ ends t 3 ∧ t.fence = s.fence ∧ t.image = s.image ∧ t.alm = s.alm) ∧
            (spiPlace a = some (none, 0x04) → ∃ t, exec (.mgtWriteFrame cmd [w] e) s = .next t ∧ ends t 0 ∧ t.pins.spiPartial = 0 ∧
              t.pins.spiOverrun = 0 ∧ t.pins.spiRefused = 0))))

/-- R454. -/
def Obligations.ManagementPartitionReset : Prop :=
  ∀ (s : State) (w : Word), spiAwake s = true → s.image.boot = .done → s.image.replant = none →
    ∃ t, exec (.mgtPartReset w) s = .next t ∧ ∀ q : PartIx,
      ((s.part q).defined = true → w.getLsbD q.val = true → (s.part q).resetStep = .none →
        (t.part q).resetStep ≠ .none ∧ (t.part q).resetDone = false ∧ (t.part q).adm = 3 ∧ (holdActive s = false → ResetBegun q t)) ∧
      ((s.part q).defined = true → w.getLsbD q.val = true → (s.part q).resetStep ≠ .none →
        t.part q = { s.part q with absorbed := satAdd (s.part q).absorbed 1 }) ∧
      ((s.part q).defined = false ∨ w.getLsbD q.val = false → t.part q = s.part q)

/-- R448, R459 to R461. -/
def Obligations.MonitorReports : Prop :=
  (∀ s : State, s.monitor.lines = [] → ∀ (n m k i : Nat) (v : Word) (b : Byte) (q : PartIx) (d : DWord) (w x : BitVec 16) (wrap : Bool)
      (o : Option PartIx) (fail : Option (BitVec 4 × BitVec 6)),
    ∀ c ∈ [Instr.monitorHelp, .monitorStatus, .monitorTime, .monitorGauge, .monitorLog n, .monitorRd n m k, .monitorWr n m v, .monitorTest n b fail,
      .monitorBaud n, .traceStart q d n wrap, .traceStop q, .traceStatus q, .cutArm q v w x n d m k i, .cutList q, .cutGet q n m k, .cutDrop q n,
      .perfSelect n m b o, .perfClear n], exec c s = .next s) ∧
  ∀ (s : State) (mbx : Bool),
    let answers (c : Instr) (u : State) (body : List (List Byte)) (e : Option MonErr) : Prop := ∃ t, exec c s = .next t ∧ Answered u t mbx body e
    (∀ c ∈ [Instr.monitorHelp, .monitorStatus, .monitorTime, .monitorGauge], Serving s mbx c → ∃ body, answers c s body none) ∧
    (∀ n, let c := Instr.monitorLog n
      Serving s mbx c → (1 ≤ n → n ≤ 256 → ∃ body, answers c s body none ∧ body.length = min n (orderedLog s).length) ∧
        (n = 0 ∨ 256 < n → answers c s [] (some .range))) ∧
    (∀ block offset n, let c := Instr.monitorRd block offset n
      Serving s mbx c → (n = 0 ∨ 64 < n ∨ offset % 4 ≠ 0 ∨ monBlock block offset = none → answers c s [] (some .range)) ∧
        ∀ b o, monBlock block offset = some (b, o) → offset % 4 = 0 → n = 1 →
          answers c { s with alm := { s.alm with latch := latchRead s b o s.alm.latch } } [hexN 8 (latchedRead s s.alm.latch b o)] none) ∧
    (∀ block offset value, let c := Instr.monitorWr block offset value
      Serving s mbx c → (s.image.debugOn = false → answers c s [] (some .disabled)) ∧
        (s.image.debugOn = true → (monBlock block offset = none → answers c s [] (some .range)) ∧
          (∀ o, monBlock block offset = some (.fence, o) → answers c (foreignWrite 2 (BitVec.ofNat 16 o) s) [] (some .access)) ∧
          ∀ b : BedIx, block = 0x10 + b.val → offset = 0x48 →
            answers c (s.onBed b fun x => { x with ctxSel := BitVec.ofNat _ value.toNat }) [] none)) ∧
    (∀ (plot : Nat) (pattern : Byte) (fail : Option (BitVec 4 × BitVec 6)), let c := Instr.monitorTest plot pattern fail
      let p : PlotIx := Fin.ofNat 128 plot
      Serving s mbx (.monitorTest plot pattern none) → (128 ≤ plot → answers c s [] (some .range)) ∧
        (plot < 128 → (s.plot p).mode ≠ .pruned → freeForTest s p = false → answers c s [] (some .busy)) ∧
        (plot < 128 → (s.plot p).mode ≠ .pruned → freeForTest s p = true → readyForTest s p = false → exec c s = .next s) ∧
        (plot < 128 → (s.plot p).mode = .pruned → s.dev.traceEn = false → 1 ≤ pattern.toNat → pattern.toNat ≤ 5 →
          ∃ u, answers c u [match fail with
              | some (x, b) => shown "FAIL" 1 x.toNat ++ hexWord 2 b.toNat
              | none => txt "PASS"] none ∧
            (u.plot p).mode = .pruned ∧ (u.plot p).lastStatus = (if fail.isSome then 0x0C else 0x00) ∧ u.parts = s.parts ∧
            (∀ a, t0Addr p 0 ≤ a → a < t0Addr p 0 + t0Size → ramByte u a = 0) ∧
            ∀ a, a < t0Addr p 0 ∨ t0Addr p 0 + t0Size ≤ a → ramByte u a = ramByte s a)) ∧
    ∀ div, let c := Instr.monitorBaud div
      Serving s mbx c → (div < 25 ∨ 65535 < div → answers c s [] (some .range)) ∧
        (25 ≤ div → div ≤ 65535 → answers c { s with pins := { s.pins with divNext := some (BitVec.ofNat 16 div) } } [] none ∧
          ∃ t, exec c s = .next t ∧ t.pins.div = BitVec.ofNat 16 div)

/-- R464 to R472. -/
def Obligations.TracesCutsAndCounters : Prop :=
  (∀ (s : State) (mbx : Bool) (q : PartIx),
    let answers (c : Instr) (u : State) (body : List (List Byte)) (e : Option MonErr) : Prop := ∃ t, exec c s = .next t ∧ Answered u t mbx body e
    let x := s.part q
    (∀ base size wrap, let c := Instr.traceStart q base size wrap
      let started (k : Trace) : Trace :=
        { k with
          on := true
          wrap := wrap
          full := false
          half := false
          pages := BitVec.ofNat 17 (size / 65536)
          base := base
          wptr := 0
          seq := 0
          count := 0
          stopping := false }
      Serving s mbx c → (s.dev.traceEn = false → answers c s [] (some .disabled)) ∧
        (s.dev.traceEn = true → (x.defined = false ∨ rangeBad base size = true → answers c s [] (some .range)) ∧
          (x.defined = true → rangeBad base size = false → (x.trace.on = true → answers c s [] (some .busy)) ∧
            (x.trace.on = false → (rangeFree s q base size = false → answers c s [] (some .quota)) ∧
              (rangeFree s q base size = true → answers c (s.onPart q fun y => { y with trace := started y.trace }) [] none))))) ∧
    (∀ n m k : Nat, (s.dev.traceEn = false → ∀ c ∈ [Instr.traceStop q, .traceStatus q], Serving s mbx c → answers c s [] (some .disabled)) ∧
      (s.dev.cuttingEn = false → ∀ c ∈ [Instr.cutList q, .cutGet q n m k, .cutDrop q n], Serving s mbx c → answers c s [] (some .disabled)) ∧
      (s.dev.perfEn = false → Serving s mbx (.perfClear n) → answers (.perfClear n) s [] (some .disabled))) ∧
    (Serving s mbx (.traceStop q) → s.dev.traceEn = true → (x.trace.on = false → answers (.traceStop q) s [] (some .state)) ∧
      (x.trace.on = true → answers (.traceStop q) (s.onPart q fun y => { y with trace := { y.trace with stopping := true } }) [] none)) ∧
    (Serving s mbx (.traceStatus q) → s.dev.traceEn = true → ∃ body, answers (.traceStatus q) s body none ∧ body.length = 6) ∧
    (x.trace.stopping = true → traceBuffered s q = false → exec (.traceDrained q) s =
      .next (s.onPart q fun y => { y with trace := { y.trace with on := false, stopping := false } })) ∧
    (x.trace.stopping = false ∨ traceBuffered s q = true → exec (.traceDrained q) s = .next s) ∧
    (∀ job layer oper pass base size cost energy, let c := Instr.cutArm q job layer oper pass base size cost energy
      Serving s mbx (.cutArm q job layer oper pass base size 0 0) →
      (s.dev.cuttingEn = false → answers c s [] (some .disabled)) ∧
      ∀ k : Fin 16, s.dev.cuttingEn = true → (x.cuts[k]).state = 0 → (∀ i : Fin 16, i < k → (x.cuts[i]).state ≠ 0) →
        (x.defined = false ∨ rangeBad base size = true ∨ pass = 0 ∨ 4096 < pass → answers c s [] (some .range)) ∧
        (x.defined = true → rangeBad base size = false → 0 < pass → pass ≤ 4096 → (rangeFree s q base size = false → answers c s [] (some .quota)) ∧
          (rangeFree s q base size = true →
            let cut : Cutting :=
              { state := 1, trunc := false, pieces := 0, job := job, layer := layer, oper := oper, pass := pass, base := base,
                size := size, wptr := 0, cost := cost, energy := energy, dropAfter := false }
            let armed := onCut q k (fun _ => cut) s
            ((∀ j ∈ x.jobs, j.id = job → jobLive j = false) → answers c armed [shown "CUT" 1 k.val] none) ∧
            ∀ j, x.jobs.find? (fun j => j.id = job && jobLive j) = some j →
              (∀ e, armRefused s q j pass cost = some e → answers c s [] (some e)) ∧
              (armRefused s q j pass cost = none → answers c (onJob q job (fun j =>
                { j with extra := j.extra + cost, wc := j.wc + cost, energy := j.energy + energy }) armed) [shown "CUT" 1 k.val] none)))) ∧
    (Serving s mbx (.cutList q) → s.dev.cuttingEn = true → ∃ body, answers (.cutList q) s body none ∧ body.length = 16) ∧
    (∀ i off len, let c := Instr.cutGet q i off len
      Serving s mbx c → s.dev.cuttingEn = true → (16 ≤ i ∨ len = 0 ∨ 1024 < len → answers c s [] (some .range)) ∧
        ∀ k : Fin 16, k.val = i → 0 < len → len ≤ 1024 → ((x.cuts[k]).state = 0 → answers c s [] (some .state)) ∧
          ((x.cuts[k]).state ≠ 0 → ((x.cuts[k]).size < off + len → answers c s [] (some .range)) ∧
            (off + len ≤ (x.cuts[k]).size → ∀ u bs, devRead q ((x.cuts[k]).base.toNat + off) len 0 [] { s with monitor := { s.monitor with lines := [] } } =
              (u, .ok bs) → u.pins = s.pins → u.monitor.lines = [] → answers c u (hexLines bs) none))) ∧
    (∀ i, let c := Instr.cutDrop q i
      Serving s mbx c → s.dev.cuttingEn = true → (16 ≤ i → answers c s [] (some .range)) ∧
        ∀ k : Fin 16, k.val = i → ((x.cuts[k]).state = 0 → answers c s [] (some .state)) ∧
          ((x.cuts[k]).state ≠ 0 → (captureRuns s q i = false → answers c (onCut q k (fun _ => Cutting.reset) s) [] none) ∧
            (captureRuns s q i = true → answers c (onCut q k (fun y => { y with dropAfter := true }) s) [] none))) ∧
    (∀ unit counter event p, let c := Instr.perfSelect unit counter event p
      Serving s mbx c → (s.dev.perfEn = false → answers c s [] (some .disabled)) ∧
        (s.dev.perfEn = true → (130 ≤ unit ∨ (unit < 128 ∧ 4 ≤ counter) ∨ 8 ≤ counter → answers c s [] (some .range)) ∧
          (∀ (n : PlotIx) (i : Fin 4), unit = n.val → counter = i.val → ∃ u, answers c u [] none ∧ u.mem = s.mem ∧
            (u.plot n).perfSel = (s.plot n).perfSel.set i.val (eventCode 8 event.toNat) i.isLt ∧
            (u.plot n).perf = (s.plot n).perf.set i.val Perf.reset i.isLt ∧ ∀ m, m ≠ n → u.plot m = s.plot m) ∧
          ∀ (n : CisIx) (i : Fin 8), unit = 128 + n.val → counter = i.val → ∃ u, answers c u [] none ∧ u.mem = s.mem ∧ u.plots = s.plots ∧
            ((u.cistern n).perfSel[i]).event = eventCode 0xA event.toNat ∧ ((u.cistern n).perfSel[i]).all = p.isNone ∧
            ((u.cistern n).perfSel[i]).part.toNat = (p.map (·.val)).getD 0 ∧
            (u.cistern n).perf = (s.cistern n).perf.set i.val Perf.reset i.isLt)) ∧
    ∀ unit, let c := Instr.perfClear unit
      Serving s mbx c → s.dev.perfEn = true → (130 ≤ unit → answers c s [] (some .range)) ∧
        (∀ n : PlotIx, unit = n.val → answers c (s.onPlot n fun y => { y with perf := Vector.replicate 4 Perf.reset }) [] none) ∧
        ∀ n : CisIx, unit = 128 + n.val → answers c (s.onCis n fun y => { y with perf := Vector.replicate 8 Perf.reset }) [] none) ∧
  ∀ (s : State) (p : PlotIx), ((s.plot p).capture = none → exec (.captureComplete p) s = .next s) ∧
    ∀ k, (s.plot p).capture = some k → (holdActive s = true ∨ (s.plot p).move.run.isSome = true → exec (.captureComplete p) s = .next s) ∧
      (holdActive s = false → (s.plot p).move.run = none → ∃ t, exec (.captureComplete p) s = .next t ∧ (t.plot p).capture = none ∧
        ∀ c x, k.cuts = [c] → resultPieces p k.desc = [x] → ((s.part k.part).cuts[c]).dropAfter = false →
          let n := 64 + roundUp (x.rows.map (·.2)).sum 64
          let old := (s.part k.part).cuts[c]
          (old.wptr + n ≤ old.size → (t.part k.part).cuts[c] = { old with wptr := old.wptr + n, pieces := satAdd old.pieces 1 }) ∧
          (old.size < old.wptr + n → (t.part k.part).cuts[c] = { old with trunc := true }))

/-- R473, R480. -/
def Obligations.WindowsAndTrellis : Prop :=
  (∀ s : State,
    (24 * 3600000000000 ≤ (s.time - s.alm.dayAt).toNat → ∃ t, exec (.faultWindowRollover true) s = .next t ∧ t.mem = s.mem ∧ t.parts = s.parts ∧
      t.alm.dayAt = s.alm.dayAt + BitVec.ofNat 64 (24 * 3600000000000) ∧ t.alm.hourAt = s.alm.hourAt ∧
      (∀ p : PlotIx, t.plot p = { s.plot p with win := { (s.plot p).win with fault := 0 } }) ∧
      ∀ (c : CisIx) (k : Fin 64), (t.cistern c).chans[k] = { (s.cistern c).chans[k] with dayUe := 0 }) ∧
    ((s.time - s.alm.dayAt).toNat < 24 * 3600000000000 → exec (.faultWindowRollover true) s = .next s) ∧
    (3600000000000 ≤ (s.time - s.alm.hourAt).toNat → ∃ t, exec (.faultWindowRollover false) s = .next t ∧ t.mem = s.mem ∧ t.parts = s.parts ∧
      t.alm.hourAt = s.alm.hourAt + BitVec.ofNat 64 3600000000000 ∧ t.alm.dayAt = s.alm.dayAt ∧
      (∀ p : PlotIx, t.plot p = { s.plot p with win := { (s.plot p).win with bankCe := [], mismatch := 0 } }) ∧
      ∀ (c : CisIx) (k : Fin 64), (t.cistern c).chans[k] = { (s.cistern c).chans[k] with hourCe := 0 }) ∧
    ((s.time - s.alm.hourAt).toNat < 3600000000000 → exec (.faultWindowRollover false) s = .next s)) ∧
  (∀ (s : State) (link lane : Nat) (again : Bool), (53 ≤ link ∨ s.trellis.lost.contains link = true → exec (.flitReplay link lane again) s = .next s) ∧
    (link < 53 → s.trellis.lost.contains link = false →
      let sec := s.time.toNat / 1000000000
      let before := if s.trellis.sec = sec then laneCount s link lane else 0
      let replays := ((s.trellis.flits.find? fun e => e.1 = link).map (·.2.1)).getD 0
      ∃ t, exec (.flitReplay link lane again) s = .next t ∧ t.mem = s.mem ∧ t.plots = s.plots ∧ t.image = s.image ∧ t.trellis.sec = sec ∧
        laneCount t link lane = before + 1 ∧ t.trellis.modules = s.trellis.modules ∧ t.trellis.lost = s.trellis.lost ∧
        (∀ e ∈ s.trellis.due, e ∈ t.trellis.due) ∧ (s.dev.fault.trLaneSec ≤ before + 1 → (link, lane) ∈ t.trellis.due) ∧
        (again = true → s.dev.fault.trReplay ≤ replays + 1 → (∀ e ∈ t.trellis.flits, e.1 ≠ link) ∧ ∃ l, (link, l) ∈ t.trellis.due) ∧
        (again = true → replays + 1 < s.dev.fault.trReplay → ∃ ls, (link, replays + 1, ls) ∈ t.trellis.flits) ∧
        (again = false → 0 < s.dev.fault.trReplay → before + 1 < s.dev.fault.trLaneSec →
          (link, 0, [lane]) ∈ t.trellis.flits ∧ t.trellis.due = s.trellis.due))) ∧
  ∀ (s : State) (link : Nat) (dir : Bool) (module_ lane : Nat), let code := dir.toNat * 32768 + 128 * module_ + lane
    let c := Instr.trellisLaneFault link dir module_ lane
    let base := code - lane
    let m := moduleOf s link code
    let waits := (link, code) ∈ s.trellis.due
    (holdActive s = true ∨ ¬ waits → exec c s = .next s) ∧
    (holdActive s = false → waits → lane < 64 → module_ < 4 →
      (s.trellis.lost.contains link = true ∨ m.faults.contains lane = true → exec c s =
        .next { s with trellis := { s.trellis with due := s.trellis.due.filter (· ≠ (link, code)) } }) ∧
      (s.trellis.lost.contains link = false → m.faults.contains lane = false → m.link = link → m.dir = dir → m.index = module_ →
        let n := laneCount s link code
        let acted (kind sub width : Nat) (upper : Bool) : Prop := ∃ t, exec c s = .next t ∧ t.mem = s.mem ∧ t.plots = s.plots ∧
          moduleOf t link code = { m with faults := m.faults ++ [lane], width := width, upper := upper } ∧ (link, code) ∉ t.trellis.due ∧
          t.image.pendingLog = s.image.pendingLog ++
            [logRecord s 1 11 (prunePayload kind link sub 7 n (tabGet 0 s.trellis.returns (kind + link * 2 ^ 8 + sub * 2 ^ 24)))]
        (m.width = 64 → m.faults.length < 4 → acted 4 code 64 m.upper) ∧
        (m.width = 64 → 4 ≤ m.faults.length → acted 5 base 32 (decide (lane < 32))) ∧
        (m.width = 32 → decide (32 ≤ lane) = m.upper → 32 ≤ link → link < 48 → acted 5 base 0 m.upper)))
end

