-- ==== Sys2Proof/Laws/Tab.lean ====
section
/-! SUPPORT. The laws of the sparse tables that hold memories: every operation keeps the canonical form, a read after a
write gives what was written, and a write leaves every other key alone. -/

namespace Sys2Proof.Machine

variable {α : Type} [DecidableEq α] {d : α}

/-- The canonical form, said with quantifiers. -/
theorem tabWf_iff (t : Tab α) :
    tabWf d t = true ↔ t.Pairwise (fun x y => x.1 < y.1) ∧ ∀ e ∈ t, e.2 ≠ d := by
  induction t with
  | nil => simp [tabWf]
  | cons x t ih =>
    obtain ⟨k, v⟩ := x
    cases t with
    | nil => simp [tabWf]
    | cons y t =>
      obtain ⟨k', v'⟩ := y
      simp only [tabWf, Bool.and_eq_true, decide_eq_true_eq, ih]
      constructor
      · rintro ⟨⟨hv, hk⟩, hp, ha⟩
        refine ⟨List.pairwise_cons.2 ⟨?_, hp⟩, ?_⟩
        · intro e he
          rcases List.mem_cons.1 he with rfl | he
          · exact hk
          · exact lt_trans hk ((List.pairwise_cons.1 hp).1 e he)
        · intro e he
          rcases List.mem_cons.1 he with rfl | he
          · exact hv
          · exact ha e he
      · rintro ⟨hp, ha⟩
        have hp' := List.pairwise_cons.1 hp
        exact ⟨⟨ha (k, v) (by simp), hp'.1 (k', v') (by simp)⟩, hp'.2, fun e he => ha e (List.mem_cons_of_mem _ he)⟩

/-- Dropping entries keeps the form. -/
theorem tabWf_filter {t : Tab α} (p : Nat × α → Bool) (h : tabWf d t = true) : tabWf d (t.filter p) = true := by
  rw [tabWf_iff] at *
  exact ⟨h.1.filter p, fun e he => h.2 e (List.mem_filter.1 he).1⟩

/-- Entries of consecutive values have keys in their range and values other than the default. -/
theorem mem_tabEntries {a : Nat} {vs : List α} {e : Nat × α} (h : e ∈ tabEntries d a vs) :
    a ≤ e.1 ∧ e.1 < a + vs.length ∧ e.2 ≠ d := by
  induction vs generalizing a with
  | nil => simp [tabEntries] at h
  | cons v vs ih =>
    simp only [tabEntries] at h
    simp only [List.length_cons]
    split at h
    · have := ih h
      exact ⟨by omega, by omega, this.2.2⟩
    · rcases List.mem_cons.1 h with rfl | h
      · refine ⟨le_rfl, by simp, ‹_›⟩
      · have := ih h
        exact ⟨by omega, by omega, this.2.2⟩

/-- The entries of consecutive values are in the form. -/
theorem tabWf_entries (a : Nat) (vs : List α) : tabWf d (tabEntries d a vs) = true := by
  rw [tabWf_iff]
  refine ⟨?_, fun e he => (mem_tabEntries he).2.2⟩
  induction vs generalizing a with
  | nil => simp [tabEntries]
  | cons v vs ih =>
    simp only [tabEntries]
    split
    · exact ih _
    · refine List.pairwise_cons.2 ⟨fun e he => ?_, ih _⟩
      have := mem_tabEntries he
      show a < e.1
      omega

/-- A write keeps the form. -/
theorem tabWf_write {t : Tab α} (a : Nat) (vs : List α) (h : tabWf d t = true) : tabWf d (tabWrite d t a vs) = true := by
  have h1 := tabWf_filter (fun e => decide (e.1 < a)) h
  have h2 := tabWf_entries (d := d) a vs
  have h3 := tabWf_filter (fun e => decide (a + vs.length ≤ e.1)) h
  rw [tabWf_iff] at *
  have hk : ∀ e ∈ tabEntries d a vs, a ≤ e.1 ∧ e.1 < a + vs.length := fun e he =>
    ⟨(mem_tabEntries he).1, (mem_tabEntries he).2.1⟩
  refine ⟨?_, ?_⟩
  · unfold tabWrite
    refine List.pairwise_append.2 ⟨List.pairwise_append.2 ⟨h1.1, h2.1, ?_⟩, h3.1, ?_⟩
    · intro x hx y hy
      have := (List.mem_filter.1 hx).2
      have := hk y hy
      simp at *; omega
    · intro x hx y hy
      have hy' := (List.mem_filter.1 hy).2
      rcases List.mem_append.1 hx with hx | hx
      · have := (List.mem_filter.1 hx).2
        simp at *; omega
      · have := hk x hx
        simp at *; omega
  · intro e he
    simp only [tabWrite, List.mem_append] at he
    rcases he with (he | he) | he
    · exact h1.2 e he
    · exact h2.2 e he
    · exact h3.2 e he

/-- One value written keeps the form. -/
theorem tabWf_set {t : Tab α} (k : Nat) (v : α) (h : tabWf d t = true) : tabWf d (tabSet d t k v) = true :=
  tabWf_write k [v] h

/-- Clearing a range keeps the form. -/
theorem tabWf_clear {t : Tab α} (a n : Nat) (h : tabWf d t = true) : tabWf d (tabClear t a n) = true :=
  tabWf_filter _ h

/-- Changing every value keeps the form. -/
theorem tabWf_map {t : Tab α} (f : Nat × α → α) (h : tabWf d t = true) : tabWf d (tabMap d f t) = true := by
  rw [tabWf_iff] at *
  refine ⟨List.Pairwise.filter _ (List.pairwise_map.2 h.1), fun e he => ?_⟩
  simpa using (List.mem_filter.1 he).2

/-- Repeated changes that each keep the form keep it. -/
theorem tabWf_foldl {β : Type} (f : Tab α → β → Tab α) (hf : ∀ t b, tabWf d t = true → tabWf d (f t b) = true)
    (l : List β) {t : Tab α} (h : tabWf d t = true) : tabWf d (l.foldl f t) = true := by
  induction l generalizing t with
  | nil => exact h
  | cons b l ih => exact ih (hf t b h)

/-! ### Reading -/

omit [DecidableEq α] in
/-- Looking up in a table with an entry in front. -/
theorem lookup_front (e : Nat × α) (t : Tab α) (k : Nat) :
    List.lookup k (e :: t) = if k = e.1 then some e.2 else t.lookup k := by
  obtain ⟨k', v⟩ := e
  by_cases h : k = k'
  · simp [h]
  · have : (k == k') = false := by simp [h]
    simp [List.lookup, this, h]

omit [DecidableEq α] in
/-- A table restricted by a test of keys holds the default where the test fails. -/
theorem lookup_filter (t : Tab α) (p : Nat → Bool) (k : Nat) :
    (t.filter fun e => p e.1).lookup k = if p k then t.lookup k else none := by
  induction t with
  | nil => simp
  | cons e t ih =>
    rw [List.filter_cons]
    by_cases hp : p e.1
    · rw [if_pos hp, lookup_front, lookup_front, ih]
      by_cases hk : k = e.1
      · simp [hk, hp]
      · simp [hk]
    · rw [if_neg hp, ih, lookup_front]
      by_cases hk : k = e.1
      · simp [hk, hp]
      · simp [hk]

omit [DecidableEq α] in
/-- Looking up in two tables one after the other. -/
theorem lookup_append (t u : Tab α) (k : Nat) : (t ++ u).lookup k = (t.lookup k).or (u.lookup k) := by
  induction t with
  | nil => simp
  | cons e t ih =>
    rw [List.cons_append, lookup_front, lookup_front, ih]
    by_cases hk : k = e.1 <;> simp [hk]

/-- The entries of consecutive values, looked up. -/
theorem lookup_tabEntries (a : Nat) (vs : List α) (k : Nat) :
    ((tabEntries d a vs).lookup k).getD d = if a ≤ k then (vs[k - a]?).getD d else d := by
  induction vs generalizing a with
  | nil => simp [tabEntries]
  | cons v vs ih =>
    simp only [tabEntries]
    by_cases hk : k = a
    · subst hk
      split
      · rw [ih]; simp [*]
      · simp
    · have : (if a + 1 ≤ k then (vs[k - (a + 1)]?).getD d else d) =
          (if a ≤ k then ((v :: vs)[k - a]?).getD d else d) := by
        by_cases hle : a ≤ k
        · have h1 : a + 1 ≤ k := by omega
          have h2 : k - a = (k - (a + 1)) + 1 := by omega
          simp [hle, h1, h2]
        · have h1 : ¬ (a + 1 ≤ k) := by omega
          simp [hle, h1]
      split
      · rw [ih, this]
      · rw [lookup_front, if_neg hk, ih, this]

/-- READ AFTER WRITE: inside the range written stands what was written, and every other key is left alone. -/
theorem tabGet_write (t : Tab α) (a : Nat) (vs : List α) (k : Nat) :
    tabGet d (tabWrite d t a vs) k = if a ≤ k ∧ k < a + vs.length then (vs[k - a]?).getD d else tabGet d t k := by
  have h2 := lookup_tabEntries (d := d) a vs k
  have h1 := lookup_filter t (fun x => decide (x < a)) k
  have h3 := lookup_filter t (fun x => decide (a + vs.length ≤ x)) k
  simp only [tabGet, tabWrite, lookup_append, h1, h3]
  by_cases ha : k < a
  · have : ¬ (a + vs.length ≤ k) := by omega
    have hn : ¬ (a ≤ k) := by omega
    have he : (tabEntries d a vs).lookup k = none := by
      rw [List.lookup_eq_none_iff]
      intro e he
      have := (mem_tabEntries he).1
      simp; omega
    simp [ha, this, hn, he]
  · by_cases hb : a + vs.length ≤ k
    · have he : (tabEntries d a vs).lookup k = none := by
        rw [List.lookup_eq_none_iff]
        intro e he
        have := (mem_tabEntries he).2.1
        simp; omega
      have : ¬ (k < a + vs.length) := by omega
      simp [ha, hb, he, this]
    · have h : a ≤ k ∧ k < a + vs.length := by omega
      simp only [ha, hb, h, decide_false, Bool.false_eq_true, if_false, and_self, if_true, Option.none_or, Option.or_none]
      rw [h2, if_pos h.1]

/-- One value written, read back. -/
theorem tabGet_set (t : Tab α) (k k' : Nat) (v : α) :
    tabGet d (tabSet d t k v) k' = if k' = k then v else tabGet d t k' := by
  rw [tabSet, tabGet_write]
  by_cases h : k' = k
  · subst h; simp
  · have : ¬ (k ≤ k' ∧ k' < k + [v].length) := by simp; omega
    rw [if_neg this, if_neg h]

omit [DecidableEq α] in
/-- A range cleared holds the default, and every other key is left alone. -/
theorem tabGet_clear (t : Tab α) (a n k : Nat) :
    tabGet d (tabClear t a n) k = if a ≤ k ∧ k < a + n then d else tabGet d t k := by
  have h := lookup_filter t (fun x => decide (x < a) || decide (a + n ≤ x)) k
  unfold tabGet tabClear
  rw [h]
  by_cases hk : a ≤ k ∧ k < a + n
  · have h1 : ¬ (k < a) := by omega
    have h2 : ¬ (a + n ≤ k) := by omega
    simp [hk, h1, h2]
  · have : k < a ∨ a + n ≤ k := by omega
    rw [if_neg hk]
    rcases this with h1 | h1 <;> simp [h1]

omit [DecidableEq α] in
/-- Walking a table whose keys start at or after `a` reads it key by key. -/
theorem tabWalk_eq {t : Tab α} (n a : Nat) (hs : t.Pairwise (fun x y => x.1 < y.1)) (ha : ∀ e ∈ t, a ≤ e.1) :
    tabWalk d n a t = (List.range n).map fun i => tabGet d t (a + i) := by
  induction n generalizing a t with
  | zero => simp [tabWalk]
  | succ n ih =>
    rw [List.range_succ_eq_map, List.map_cons, List.map_map]
    cases t with
    | nil =>
      rw [tabWalk, ih _ (by simp) (by simp)]
      rfl
    | cons e t =>
      obtain ⟨k, v⟩ := e
      have hs' := List.pairwise_cons.1 hs
      have hk : a ≤ k := ha (k, v) (by simp)
      rw [tabWalk]
      by_cases h : k = a
      · subst h
        have hge : ∀ e ∈ t, k + 1 ≤ e.1 := fun e he => hs'.1 e he
        rw [if_pos rfl, ih (k + 1) hs'.2 hge]
        congr 1
        · simp [tabGet]
        · apply List.map_congr_left
          intro i _
          simp [tabGet, lookup_front, Nat.add_assoc, Nat.add_comm 1 i]
      · have hge : ∀ e ∈ (k, v) :: t, a + 1 ≤ e.1 := by
          intro e he
          rcases List.mem_cons.1 he with rfl | he
          · show a + 1 ≤ k
            omega
          · have := hs'.1 e he
            show a + 1 ≤ e.1
            simp at this; omega
        rw [if_neg h, ih (a + 1) hs hge]
        congr 1
        · have h0 : tabGet d ((k, v) :: t) (a + 0) = d := by
            have : ((k, v) :: t).lookup (a + 0) = none := by
              rw [List.lookup_eq_none_iff]
              intro e he
              have := hge e he
              simp; omega
            rw [tabGet, this]; rfl
          exact h0.symm
        · apply List.map_congr_left
          intro i _
          simp [Nat.add_assoc, Nat.add_comm 1 i]

/-- A read gives, key by key, what the table holds. -/
theorem tabRead_eq {t : Tab α} (a n : Nat) (h : tabWf d t = true) :
    tabRead d t a n = (List.range n).map fun i => tabGet d t (a + i) := by
  have hs := (tabWf_iff t).1 h
  rw [tabRead, tabWalk_eq n a (hs.1.filter _) (fun e he => by simpa using ((List.mem_filter.1 he).2 |> fun x => by simp at x; exact x.1))]
  apply List.map_congr_left
  intro i hi
  have hf := lookup_filter t (fun x => decide (a ≤ x) && decide (x < a + n)) (a + i)
  have hi' : i < n := List.mem_range.1 hi
  have h2 : (decide (a ≤ a + i) && decide (a + i < a + n)) = true := by simp; omega
  simp only [tabGet, hf, h2, if_true]

/-- Two tables in the form that hold the same everywhere are equal. -/
theorem tab_ext {t u : Tab α} (ht : tabWf d t = true) (hu : tabWf d u = true) (h : ∀ k, tabGet d t k = tabGet d u k) :
    t = u := by
  rw [tabWf_iff] at ht hu
  induction t generalizing u with
  | nil =>
    cases u with
    | nil => rfl
    | cons e u =>
      have := h e.1
      simp [tabGet, lookup_front] at this
      exact absurd this.symm (hu.2 e (by simp))
  | cons e t ih =>
    have key : ∀ {e : Nat × α} {t : Tab α}, (∀ x ∈ t, e.1 < x.1) → ∀ k, k ≤ e.1 →
        tabGet d (e :: t) k = if k = e.1 then e.2 else d := by
      intro e t hlt k hk
      by_cases hke : k = e.1
      · simp [tabGet, lookup_front, hke]
      · have : t.lookup k = none := by
          rw [List.lookup_eq_none_iff]
          intro x hx
          have := hlt x hx
          simp; omega
        simp [tabGet, lookup_front, this, hke]
    cases u with
    | nil =>
      have := h e.1
      simp [tabGet, lookup_front] at this
      exact absurd this (ht.2 e (by simp))
    | cons f u =>
      have h1 := List.pairwise_cons.1 ht.1
      have h2 := List.pairwise_cons.1 hu.1
      have hef : e = f := by
        rcases lt_trichotomy e.1 f.1 with hlt | heq | hgt
        · have a1 := key h1.1 e.1 le_rfl
          have a2 := key h2.1 e.1 hlt.le
          rw [h] at a1
          rw [a1] at a2
          simp [hlt.ne] at a2
          exact absurd a2 (ht.2 e (by simp))
        · have a1 := key h1.1 e.1 le_rfl
          have a2 := key h2.1 e.1 heq.le
          rw [h, a2] at a1
          simp [heq] at a1
          exact Prod.ext heq a1.symm
        · have a1 := key h1.1 f.1 hgt.le
          have a2 := key h2.1 f.1 le_rfl
          rw [h, a2] at a1
          simp [hgt.ne] at a1
          exact absurd a1 (hu.2 f (by simp))
      subst hef
      congr 1
      refine ih ⟨h1.2, fun x hx => ht.2 x (by simp [hx])⟩ ⟨h2.2, fun x hx => hu.2 x (by simp [hx])⟩ fun k => ?_
      by_cases hk : k ≤ e.1
      · have n1 : t.lookup k = none := by
          rw [List.lookup_eq_none_iff]; intro x hx; have := h1.1 x hx; simp; omega
        have n2 : u.lookup k = none := by
          rw [List.lookup_eq_none_iff]; intro x hx; have := h2.1 x hx; simp; omega
        simp [tabGet, n1, n2]
      · have hne : ¬ (k = e.1) := by omega
        have := h k
        simpa [tabGet, lookup_front, hne] using this

end Sys2Proof.Machine
end

