-- ==== Sys2Proof/Laws/Kept.lean ====
section
/-! SUPPORT. What every change of the state keeps: the queue of commands, the fuses, the order code, and the canonical form
of memory. -/

namespace Sys2Proof.Machine

open Host

/-- `t` has the queue, the fuses and the order code of `s`, and the canonical form of memory if `s` has it. -/
structure Kept (s t : State) : Prop where
  pending : t.pending = s.pending
  keyHash : t.image.keyHash = s.image.keyHash
  revoked : t.image.revoked = s.image.revoked
  order : t.image.order512 = s.image.order512
  mem : Memory.wf s.mem = true → Memory.wf t.mem = true

theorem Kept.refl (s : State) : Kept s s := ⟨rfl, rfl, rfl, rfl, id⟩

theorem Kept.trans {s t u : State} (h : Kept s t) (k : Kept t u) : Kept s u :=
  ⟨k.pending.trans h.pending, k.keyHash.trans h.keyHash, k.revoked.trans h.revoked, k.order.trans h.order, k.mem ∘ h.mem⟩

/-- A change of other fields. -/
theorem Kept.upd {s t u : State} (h : Kept s t) (h1 : u.pending = t.pending) (h5 : u.mem = t.mem)
    (h2 : u.image.keyHash = t.image.keyHash)
    (h3 : u.image.revoked = t.image.revoked) (h4 : u.image.order512 = t.image.order512) : Kept s u :=
  ⟨h1.trans h.pending, h2.trans h.keyHash, h3.trans h.revoked, h4.trans h.order, fun w => h5 ▸ h.mem w⟩

/-- A record update that leaves the memories and the queue, whatever its other fields. -/
theorem Kept.fields {s t : State} {time : DWord} {plots : Vector Plot 128} {beds : Vector Bed 16} {cis : Vector Cistern 2} {parts : Vector Part 16} {fns : Vector Fn 17} {cores : Vector Core 8} {fence : Fence} {image : Image} {dev : DeviceImage} {pf0 : Pf0} {pins : Pins} {monitor : Monitor} {codec : Codec} {bvl : Bvl} {trellis : Trellis} {alm : Almanac} {fresh : Nat} (h : Kept s t) (h2 : image.keyHash = t.image.keyHash)
    (h3 : image.revoked = t.image.revoked) (h4 : image.order512 = t.image.order512) :
    Kept s
      { time := time, plots := plots, beds := beds, cis := cis, parts := parts, fns := fns, cores := cores, fence := fence, image := image, dev := dev, pf0 := pf0, pins := pins, monitor := monitor, codec := codec, bvl := bvl, trellis := trellis, alm := alm, mem := t.mem, fresh := fresh, pending := t.pending } :=
  ⟨h.pending, h2.trans h.keyHash, h3.trans h.revoked, h4.trans h.order, h.mem⟩

/-- A change of memory that keeps the form. -/
theorem Kept.onMem {s t : State} (f : Memories → Memories) (hf : ∀ m, Memory.wf m = true → Memory.wf (f m) = true)
    (h : Kept s t) : Kept s (t.onMem f) :=
  ⟨h.pending, h.keyHash, h.revoked, h.order, fun w => hf _ (h.mem w)⟩

theorem Kept.of_pair {α : Type} {s t : State} {x : State × α} {a : α} (e : x = (t, a)) (h : Kept s x.1) : Kept s t := by
  rw [e] at h; exact h

/-- What `Kept` says of an optional state. -/
structure KeptOpt (s : State) (o : Option State) : Prop where
  of : ∀ t, o = some t → Kept s t

theorem Kept.of_some {s t : State} {o : Option State} (e : o = some t) (h : KeptOpt s o) : Kept s t := h.of t e
theorem KeptOpt.none (s : State) : KeptOpt s none := ⟨fun t h => by cases h⟩
theorem KeptOpt.some {s t : State} (h : Kept s t) : KeptOpt s (some t) := ⟨fun u e => by cases e; exact h⟩

theorem KeptOpt.bind {s : State} {o : Option State} {f : State → Option State}
    (hf : ∀ t, Kept s t → KeptOpt s (f t)) (h : KeptOpt s o) : KeptOpt s (o.bind f) := by
  cases o with
  | none => exact KeptOpt.none s
  | some t => exact hf t (h.of t rfl)

theorem KeptOpt.map {s : State} {o : Option State} {f : State → State} (hf : ∀ t, Kept s t → Kept s (f t))
    (h : KeptOpt s o) : KeptOpt s (o.map f) := by
  cases o with
  | none => exact KeptOpt.none s
  | some t => exact KeptOpt.some (hf t (h.of t rfl))

theorem KeptOpt.findSome {α : Type} {s : State} {f : α → Option State} (l : List α) (hf : ∀ a, KeptOpt s (f a)) :
    KeptOpt s (l.findSome? f) := by
  induction l with
  | nil => exact KeptOpt.none s
  | cons a l ih =>
    rw [List.findSome?_cons]
    cases e : f a with
    | none => exact ih
    | some t => exact KeptOpt.some ((hf a).of t e)

theorem Kept.getD {s t : State} {o : Option State} (h : KeptOpt s o) (ht : Kept s t) : Kept s (o.getD t) := by
  cases o with
  | none => exact ht
  | some u => exact h.of u rfl

/-- What `Kept` says of an outcome. -/
structure KeptOut (s : State) (o : Out) : Prop where
  of : ∀ t, o = .next t → Kept s t

theorem KeptOut.next {s t : State} (h : Kept s t) : KeptOut s (.next t) := ⟨fun u e => by cases e; exact h⟩
theorem KeptOut.fault {s : State} (f : Fault) : KeptOut s (.fault f) := ⟨fun u e => by cases e⟩

theorem Kept.foldl {α : Type} {s t : State} {f : State → α → State} (l : List α)
    (hf : ∀ u a, Kept s u → Kept s (f u a)) (h : Kept s t) : Kept s (l.foldl f t) := by
  induction l generalizing t with
  | nil => exact h
  | cons a l ih => exact ih (hf t a h)

theorem Kept.foldlPair {α β : Type} {s : State} {t : State × β} {f : State × β → α → State × β} (l : List α)
    (hf : ∀ u a, Kept s u.1 → Kept s (f u a).1) (h : Kept s t.1) : Kept s (l.foldl f t).1 := by
  induction l generalizing t with
  | nil => exact h
  | cons a l ih => exact ih (hf t a h)

theorem Kept.forAll {α : Type} {s t : State} {f : State → α → State} (l : List α)
    (hf : ∀ u a, Kept s u → Kept s (f u a)) (h : Kept s t) : Kept s (Machine.forAll l f t) := Kept.foldl l hf h

theorem Kept.setPlot {s t : State} (p : PlotIx) (x : Plot) (h : Kept s t) : Kept s (t.setPlot p x) := h.upd rfl rfl rfl rfl rfl
theorem Kept.setBed {s t : State} (p : BedIx) (x : Bed) (h : Kept s t) : Kept s (t.setBed p x) := h.upd rfl rfl rfl rfl rfl
theorem Kept.setCistern {s t : State} (p : CisIx) (x : Cistern) (h : Kept s t) : Kept s (t.setCistern p x) := h.upd rfl rfl rfl rfl rfl
theorem Kept.setPart {s t : State} (p : PartIx) (x : Part) (h : Kept s t) : Kept s (t.setPart p x) := h.upd rfl rfl rfl rfl rfl
theorem Kept.setFunc {s t : State} (p : FnIx) (x : Fn) (h : Kept s t) : Kept s (t.setFunc p x) := h.upd rfl rfl rfl rfl rfl
theorem Kept.setCore {s t : State} (p : CoreIx) (x : Core) (h : Kept s t) : Kept s (t.setCore p x) := h.upd rfl rfl rfl rfl rfl
theorem Kept.onPlot {s t : State} (p : PlotIx) (f : Plot → Plot) (h : Kept s t) : Kept s (t.onPlot p f) := h.upd rfl rfl rfl rfl rfl
theorem Kept.onBed {s t : State} (p : BedIx) (f : Bed → Bed) (h : Kept s t) : Kept s (t.onBed p f) := h.upd rfl rfl rfl rfl rfl
theorem Kept.onCis {s t : State} (p : CisIx) (f : Cistern → Cistern) (h : Kept s t) : Kept s (t.onCis p f) := h.upd rfl rfl rfl rfl rfl
theorem Kept.onPart {s t : State} (p : PartIx) (f : Part → Part) (h : Kept s t) : Kept s (t.onPart p f) := h.upd rfl rfl rfl rfl rfl
theorem Kept.onFunc {s t : State} (p : FnIx) (f : Fn → Fn) (h : Kept s t) : Kept s (t.onFunc p f) := h.upd rfl rfl rfl rfl rfl
theorem Kept.onCore {s t : State} (p : CoreIx) (f : Core → Core) (h : Kept s t) : Kept s (t.onCore p f) := h.upd rfl rfl rfl rfl rfl

/-! ### Memory -/

theorem Memory.wf_iff (m : Memories) : Memory.wf m = true ↔ tabWf 0 m.ram = true ∧ tabWf 0 m.t3 = true ∧
    tabWf 0 m.chk = true ∧ tabWf 0 m.dirty = true ∧ tabWf 0 m.xlt = true ∧ tabWf 0 m.host = true := by
  simp [Memory.wf, and_assoc]

theorem markDirty_wf {d : Tab (BitVec 16)} (a n : Nat) (h : tabWf 0 d = true) : tabWf 0 (markDirty d a n) = true := by
  unfold markDirty
  split
  · exact h
  · exact tabWf_foldl _ (fun t b ht => tabWf_set _ _ ht) _ h

theorem cwStore_wf (sector j tau : Nat) (data : List Byte) (m : Memories) (h : Memory.wf m = true) :
    Memory.wf (cwStore sector j tau data m) = true := by
  rw [Memory.wf_iff] at *
  exact ⟨h.1, tabWf_write _ _ h.2.1, tabWf_write _ _ h.2.2.1, h.2.2.2⟩

theorem wf_foldl {α : Type} (f : Memories → α → Memories) (hf : ∀ m a, Memory.wf m = true → Memory.wf (f m a) = true)
    (l : List α) {m : Memories} (h : Memory.wf m = true) : Memory.wf (l.foldl f m) = true := by
  induction l generalizing m with
  | nil => exact h
  | cons a l ih => exact ih (hf m a h)

theorem physWrite_wf (ph : Nat) (bs : List Byte) (m : Memories) (h : Memory.wf m = true) :
    Memory.wf (physWrite ph bs m) = true :=
  wf_foldl _ (fun m _ hm => cwStore_wf _ _ _ _ m hm) _ h

theorem baleStore_wf (sector rate : Nat) (data : List Byte) (m : Memories) (h : Memory.wf m = true) :
    Memory.wf (baleStore sector rate data m) = true := by
  have := wf_foldl _ (fun m j hm => cwStore_wf sector j rate (((baleEncode rate data).drop (64 * j)).take 64) m hm)
    (List.range (baleL rate / 64)) h
  rw [Memory.wf_iff] at *
  exact ⟨this.1, this.2.1, tabWf_clear _ _ this.2.2.1, this.2.2.2⟩

end Sys2Proof.Machine
end

