-- ==== Sys2Proof/Laws/KeptOps.lean ====
section
/-! SUPPORT. The shared operations, the command lanes and the tile checks keep the queue, the fuses and the form of memory. -/

namespace Sys2Proof.Machine

open Host

set_option linter.all false

theorem raiseEvent_kept {s₀ : State} {f : FnIx} {v : VecIx} {s : State}
    (hk : Kept s₀ s) : Kept s₀ (raiseEvent f v s) := by
  unfold raiseEvent
  repeat' with_reducible first | assumption | intro _ | split | dsimp only | apply Kept.onFunc

theorem raiseNotice_kept {s₀ : State} {q : PartIx} {s : State} (hk : Kept s₀ s) : Kept s₀ (raiseNotice q s) := by
  unfold raiseNotice
  repeat' with_reducible first | assumption | dsimp only | apply raiseEvent_kept

theorem raiseCapacity_kept {s₀ : State} {q : PartIx} {s : State} (hk : Kept s₀ s) : Kept s₀ (raiseCapacity q s) := by
  unfold raiseCapacity
  repeat' with_reducible first | assumption | dsimp only | apply raiseEvent_kept

theorem raiseState_kept {s₀ : State} {q : PartIx} {s : State} (hk : Kept s₀ s) : Kept s₀ (raiseState q s) := by
  unfold raiseState
  repeat' with_reducible first | assumption | dsimp only | apply raiseEvent_kept

theorem raiseDebug_kept {s₀ : State} {q : PartIx} {s : State} (hk : Kept s₀ s) : Kept s₀ (raiseDebug q s) := by
  unfold raiseDebug
  repeat' with_reducible first | assumption | split | dsimp only | apply raiseEvent_kept

theorem raiseFence_kept {s₀ : State} {s : State} (hk : Kept s₀ s) : Kept s₀ (raiseFence s) := by
  unfold raiseFence
  repeat' with_reducible first | assumption | dsimp only | apply raiseEvent_kept

theorem raiseDevice_kept {s₀ : State} {s : State} (hk : Kept s₀ s) : Kept s₀ (raiseDevice s) := by
  unfold raiseDevice
  repeat' with_reducible first | assumption | dsimp only | apply raiseEvent_kept

theorem setAdmit_kept {s₀ : State} {q : PartIx} {a : BitVec 3} {s : State}
    (hk : Kept s₀ s) : Kept s₀ (setAdmit q a s) := by
  unfold setAdmit
  repeat' with_reducible first
    | assumption | intro _ | split | dsimp only | apply Kept.onPart | apply raiseState_kept
    | refine Kept.fields ?_ ?_ ?_ ?_
  all_goals rfl

theorem queueLog_kept {s₀ : State} {ty len payload : Nat} {s : State}
    (hk : Kept s₀ s) : Kept s₀ (queueLog ty len payload s) := by
  unfold queueLog
  repeat' with_reducible first | assumption | dsimp only | refine Kept.fields ?_ ?_ ?_ ?_
  all_goals rfl

theorem recordPrune_kept {s₀ : State} {kind index sub : Nat} {c : PruneCause} {count returns : Nat} {s : State}
    (hk : Kept s₀ s) : Kept s₀ (recordPrune kind index sub c count returns s) := by
  unfold recordPrune
  repeat' with_reducible first | assumption | dsimp only | apply raiseDevice_kept | apply queueLog_kept

theorem ramWrite_kept {s₀ : State} {a : Nat} {bs : List Byte} {s : State}
    (hk : Kept s₀ s) : Kept s₀ (ramWrite a bs s) := by
  unfold ramWrite
  repeat' with_reducible first
    | assumption | intro _ | split | dsimp only | refine Kept.onMem _ (fun m hm => ?_) ?_
    | exact physWrite_wf _ _ _ hm | exact cwStore_wf _ _ _ _ _ hm | exact baleStore_wf _ _ _ _ hm | exact hm
    | (rw [Memory.wf_iff] at *; refine ⟨?_, ?_, ?_, ?_, ?_, ?_⟩) | apply tabWf_write | apply tabWf_set
    | apply tabWf_clear | apply tabWf_map | apply tabWf_filter | apply markDirty_wf | exact hm.1 | exact hm.2.1
    | exact hm.2.2.1 | exact hm.2.2.2.1 | exact hm.2.2.2.2.1 | exact hm.2.2.2.2.2

theorem t0Write_kept {s₀ : State} {p : PlotIx} {o : Nat} {bs : List Byte} {s : State}
    (hk : Kept s₀ s) : Kept s₀ (t0Write p o bs s) := by
  unfold t0Write
  repeat' with_reducible first | assumption | dsimp only | apply ramWrite_kept

theorem t0Zero_kept {s₀ : State} {p : PlotIx} {s : State} (hk : Kept s₀ s) : Kept s₀ (t0Zero p s) := by
  unfold t0Zero
  repeat' with_reducible first
    | assumption | intro _ | dsimp only | refine Kept.onMem _ (fun m hm => ?_) ?_ | exact physWrite_wf _ _ _ hm
    | exact cwStore_wf _ _ _ _ _ hm | exact baleStore_wf _ _ _ _ hm | exact hm
    | (rw [Memory.wf_iff] at *; refine ⟨?_, ?_, ?_, ?_, ?_, ?_⟩) | apply tabWf_write | apply tabWf_set
    | apply tabWf_clear | apply tabWf_map | apply tabWf_filter | apply markDirty_wf | exact hm.1 | exact hm.2.1
    | exact hm.2.2.1 | exact hm.2.2.2.1 | exact hm.2.2.2.2.1 | exact hm.2.2.2.2.2

theorem clearTags_kept {s₀ : State} {p : PlotIx} {s : State} (hk : Kept s₀ s) : Kept s₀ (clearTags p s) := by
  unfold clearTags
  repeat' with_reducible first | assumption | intro _ | dsimp only | apply Kept.onPlot

theorem countCe_kept {s₀ : State} {sector : Nat} {s : State} (hk : Kept s₀ s) : Kept s₀ (countCe sector s) := by
  unfold countCe
  repeat' with_reducible first
    | assumption | intro _ | dsimp only | refine Kept.onMem _ (fun m hm => ?_) ?_ | exact physWrite_wf _ _ _ hm
    | exact cwStore_wf _ _ _ _ _ hm | exact baleStore_wf _ _ _ _ hm | exact hm
    | (rw [Memory.wf_iff] at *; refine ⟨?_, ?_, ?_, ?_, ?_, ?_⟩) | apply tabWf_write | apply tabWf_set
    | apply tabWf_clear | apply tabWf_map | apply tabWf_filter | apply markDirty_wf | exact hm.1 | exact hm.2.1
    | exact hm.2.2.1 | exact hm.2.2.2.1 | exact hm.2.2.2.2.1 | exact hm.2.2.2.2.2 | apply Kept.onCis

theorem countChk_kept {s₀ : State} {sector : Nat} {s : State} (hk : Kept s₀ s) : Kept s₀ (countChk sector s) := by
  unfold countChk
  repeat' with_reducible first
    | assumption | intro _ | dsimp only | refine Kept.onMem _ (fun m hm => ?_) ?_ | exact physWrite_wf _ _ _ hm
    | exact cwStore_wf _ _ _ _ _ hm | exact baleStore_wf _ _ _ _ hm | exact hm
    | (rw [Memory.wf_iff] at *; refine ⟨?_, ?_, ?_, ?_, ?_, ?_⟩) | apply tabWf_write | apply tabWf_set
    | apply tabWf_clear | apply tabWf_map | apply tabWf_filter | apply markDirty_wf | exact hm.1 | exact hm.2.1
    | exact hm.2.2.1 | exact hm.2.2.2.1 | exact hm.2.2.2.2.1 | exact hm.2.2.2.2.2 | apply Kept.onCis

theorem countUe_kept {s₀ : State} {sector j : Nat} {scrub : Bool} {s : State}
    (hk : Kept s₀ s) : Kept s₀ (countUe sector j scrub s) := by
  unfold countUe
  repeat' with_reducible first
    | assumption | intro _ | dsimp only | refine Kept.onMem _ (fun m hm => ?_) ?_ | exact physWrite_wf _ _ _ hm
    | exact cwStore_wf _ _ _ _ _ hm | exact baleStore_wf _ _ _ _ hm | exact hm
    | (rw [Memory.wf_iff] at *; refine ⟨?_, ?_, ?_, ?_, ?_, ?_⟩) | apply tabWf_write | apply tabWf_set
    | apply tabWf_clear | apply tabWf_map | apply tabWf_filter | apply markDirty_wf | exact hm.1 | exact hm.2.1
    | exact hm.2.2.1 | exact hm.2.2.2.1 | exact hm.2.2.2.2.1 | exact hm.2.2.2.2.2 | apply Kept.onCis

theorem countRate_kept {s₀ : State} {sector : Nat} {s : State} (hk : Kept s₀ s) : Kept s₀ (countRate sector s) := by
  unfold countRate
  repeat' with_reducible first
    | assumption | intro _ | dsimp only | refine Kept.onMem _ (fun m hm => ?_) ?_ | exact physWrite_wf _ _ _ hm
    | exact cwStore_wf _ _ _ _ _ hm | exact baleStore_wf _ _ _ _ hm | exact hm
    | (rw [Memory.wf_iff] at *; refine ⟨?_, ?_, ?_, ?_, ?_, ?_⟩) | apply tabWf_write | apply tabWf_set
    | apply tabWf_clear | apply tabWf_map | apply tabWf_filter | apply markDirty_wf | exact hm.1 | exact hm.2.1
    | exact hm.2.2.1 | exact hm.2.2.2.1 | exact hm.2.2.2.2.1 | exact hm.2.2.2.2.2 | apply Kept.onCis

theorem cwReadFx_kept {s₀ : State} {sector j tau : Nat} {flips : Flips} {s : State}
    (hk : Kept s₀ s) : Kept s₀ (cwReadFx sector j tau flips s).1 := by
  unfold cwReadFx
  repeat' with_reducible first
    | assumption | split | dsimp only | refine Kept.onMem _ (fun m hm => ?_) ?_ | exact physWrite_wf _ _ _ hm
    | exact cwStore_wf _ _ _ _ _ hm | exact baleStore_wf _ _ _ _ hm | exact hm
    | (rw [Memory.wf_iff] at *; refine ⟨?_, ?_, ?_, ?_, ?_, ?_⟩) | apply tabWf_write | apply tabWf_set
    | apply tabWf_clear | apply tabWf_map | apply tabWf_filter | apply markDirty_wf | exact hm.1 | exact hm.2.1
    | exact hm.2.2.1 | exact hm.2.2.2.1 | exact hm.2.2.2.2.1 | exact hm.2.2.2.2.2 | apply countCe_kept
    | apply countChk_kept | apply countUe_kept | apply countRate_kept

theorem sectorRead_kept {s₀ : State} {sector tau : Nat} {flips : Flips} {s : State} {x1 : List Nat}
    (hk : Kept s₀ s) : Kept s₀ (sectorRead sector tau flips s x1).1 := by
  induction x1 generalizing s with
  | nil =>
    unfold sectorRead
    repeat' with_reducible first
      | assumption | intro _ | split | dsimp only | apply cwReadFx_kept | refine Kept.of_pair (by assumption) ?_
  | cons x t ih =>
    unfold sectorRead
    repeat' with_reducible first
      | assumption | intro _ | split | apply ih | dsimp only | apply cwReadFx_kept
      | refine Kept.of_pair (by assumption) ?_

theorem xltTouch_kept {s₀ : State} {q : PartIx} {v : Nat} {s : State} (hk : Kept s₀ s) : Kept s₀ (xltTouch q v s) := by
  unfold xltTouch
  repeat' with_reducible first | assumption | intro _ | split | dsimp only | apply Kept.onCis

theorem translate_kept {s₀ : State} {q : PartIx} {a : Nat} {s : State}
    (hk : Kept s₀ s) : Kept s₀ (translate q a s).1 := by
  unfold translate
  repeat' with_reducible first | assumption | intro _ | split | dsimp only | apply Kept.onCis | apply xltTouch_kept

theorem t3ReadPieces_kept {s₀ : State} {q : PartIx} {flips : Flips} {s : State} {x1 : List (Nat × Nat)}
    (hk : Kept s₀ s) : Kept s₀ (t3ReadPieces q flips s x1).1 := by
  induction x1 generalizing s with
  | nil =>
    unfold t3ReadPieces
    repeat' with_reducible first
      | assumption | intro _ | split | dsimp only | apply sectorRead_kept | apply translate_kept
      | refine Kept.of_pair (by assumption) ?_
  | cons x t ih =>
    unfold t3ReadPieces
    repeat' with_reducible first
      | assumption | intro _ | split | apply ih | dsimp only | apply sectorRead_kept | apply translate_kept
      | refine Kept.of_pair (by assumption) ?_

theorem t3Read_kept {s₀ : State} {q : PartIx} {a n : Nat} {flips : Flips} {s : State}
    (hk : Kept s₀ s) : Kept s₀ (t3Read q a n flips s).1 := by
  unfold t3Read
  repeat' with_reducible first
    | assumption | dsimp only | apply t3ReadPieces_kept | refine Kept.of_pair (by assumption) ?_

theorem t3ReadBale_kept {s₀ : State} {q : PartIx} {rate : Nat} {flips : Flips} {s : State} {x1 : List (Nat × Nat)}
    (hk : Kept s₀ s) : Kept s₀ (t3ReadBale q rate flips s x1).1 := by
  induction x1 generalizing s with
  | nil =>
    unfold t3ReadBale
    repeat' with_reducible first
      | assumption | intro _ | split | dsimp only | apply sectorRead_kept | apply translate_kept
      | refine Kept.of_pair (by assumption) ?_
  | cons x t ih =>
    unfold t3ReadBale
    repeat' with_reducible first
      | assumption | intro _ | split | apply ih | dsimp only | apply sectorRead_kept | apply translate_kept
      | refine Kept.of_pair (by assumption) ?_

theorem t3WritePieces_kept {s₀ : State} {q : PartIx} {base : Nat} {bs : List Byte} {s : State} {x1 : List (Nat × Nat)}
    (hk : Kept s₀ s) : Kept s₀ (t3WritePieces q base bs s x1).1 := by
  induction x1 generalizing s with
  | nil =>
    unfold t3WritePieces
    repeat' with_reducible first
      | assumption | intro _ | split | dsimp only | refine Kept.onMem _ (fun m hm => ?_) ?_
      | exact physWrite_wf _ _ _ hm | exact cwStore_wf _ _ _ _ _ hm | exact baleStore_wf _ _ _ _ hm | exact hm
      | (rw [Memory.wf_iff] at *; refine ⟨?_, ?_, ?_, ?_, ?_, ?_⟩) | apply tabWf_write | apply tabWf_set
      | apply tabWf_clear | apply tabWf_map | apply tabWf_filter | apply markDirty_wf | exact hm.1 | exact hm.2.1
      | exact hm.2.2.1 | exact hm.2.2.2.1 | exact hm.2.2.2.2.1 | exact hm.2.2.2.2.2 | apply translate_kept
      | refine Kept.of_pair (by assumption) ?_
  | cons x t ih =>
    unfold t3WritePieces
    repeat' with_reducible first
      | assumption | intro _ | split | apply ih | dsimp only | refine Kept.onMem _ (fun m hm => ?_) ?_
      | exact physWrite_wf _ _ _ hm | exact cwStore_wf _ _ _ _ _ hm | exact baleStore_wf _ _ _ _ hm | exact hm
      | (rw [Memory.wf_iff] at *; refine ⟨?_, ?_, ?_, ?_, ?_, ?_⟩) | apply tabWf_write | apply tabWf_set
      | apply tabWf_clear | apply tabWf_map | apply tabWf_filter | apply markDirty_wf | exact hm.1 | exact hm.2.1
      | exact hm.2.2.1 | exact hm.2.2.2.1 | exact hm.2.2.2.2.1 | exact hm.2.2.2.2.2 | apply translate_kept
      | refine Kept.of_pair (by assumption) ?_

theorem t3Write_kept {s₀ : State} {q : PartIx} {a : Nat} {bs : List Byte} {s : State}
    (hk : Kept s₀ s) : Kept s₀ (t3Write q a bs s).1 := by
  unfold t3Write
  repeat' with_reducible first
    | assumption | dsimp only | apply t3WritePieces_kept | refine Kept.of_pair (by assumption) ?_

theorem t3WriteBale_kept {s₀ : State} {q : PartIx} {rate base : Nat} {bs : List Byte} {s : State}
    {x1 : List (Nat × Nat)}
    (hk : Kept s₀ s) : Kept s₀ (t3WriteBale q rate base bs s x1).1 := by
  induction x1 generalizing s with
  | nil =>
    unfold t3WriteBale
    repeat' with_reducible first
      | assumption | intro _ | split | dsimp only | refine Kept.onMem _ (fun m hm => ?_) ?_
      | exact physWrite_wf _ _ _ hm | exact cwStore_wf _ _ _ _ _ hm | exact baleStore_wf _ _ _ _ hm | exact hm
      | (rw [Memory.wf_iff] at *; refine ⟨?_, ?_, ?_, ?_, ?_, ?_⟩) | apply tabWf_write | apply tabWf_set
      | apply tabWf_clear | apply tabWf_map | apply tabWf_filter | apply markDirty_wf | exact hm.1 | exact hm.2.1
      | exact hm.2.2.1 | exact hm.2.2.2.1 | exact hm.2.2.2.2.1 | exact hm.2.2.2.2.2 | apply translate_kept
      | refine Kept.of_pair (by assumption) ?_
  | cons x t ih =>
    unfold t3WriteBale
    repeat' with_reducible first
      | assumption | intro _ | split | apply ih | dsimp only | refine Kept.onMem _ (fun m hm => ?_) ?_
      | exact physWrite_wf _ _ _ hm | exact cwStore_wf _ _ _ _ _ hm | exact baleStore_wf _ _ _ _ hm | exact hm
      | (rw [Memory.wf_iff] at *; refine ⟨?_, ?_, ?_, ?_, ?_, ?_⟩) | apply tabWf_write | apply tabWf_set
      | apply tabWf_clear | apply tabWf_map | apply tabWf_filter | apply markDirty_wf | exact hm.1 | exact hm.2.1
      | exact hm.2.2.1 | exact hm.2.2.2.1 | exact hm.2.2.2.2.1 | exact hm.2.2.2.2.2 | apply translate_kept
      | refine Kept.of_pair (by assumption) ?_

theorem perfAdd_kept {s₀ : State} {p : PlotIx} {code n : Nat} {s : State}
    (hk : Kept s₀ s) : Kept s₀ (perfAdd p code n s) := by
  unfold perfAdd
  repeat' with_reducible first
    | assumption | intro _ | split | dsimp only | apply Kept.setPlot | apply raiseDebug_kept

theorem cisPerfAdd_kept {s₀ : State} {c : CisIx} {q : Option PartIx} {code n : Nat} {s : State}
    (hk : Kept s₀ s) : Kept s₀ (cisPerfAdd c q code n s) := by
  unfold cisPerfAdd
  repeat' with_reducible first
    | assumption | intro _ | split | dsimp only | apply Kept.setCistern | apply raiseDevice_kept

theorem cisCheck_kept {s₀ : State} {c : CisIx} {q : PartIx} {epoch n : Nat} {s : State}
    (hk : Kept s₀ s) : Kept s₀ (cisCheck c q epoch n s).1 := by
  unfold cisCheck
  repeat' with_reducible first | assumption | intro _ | dsimp only | apply Kept.onCis

theorem bedCheck_kept {s₀ : State} {b : BedIx} {epoch n : Nat} {s : State}
    (hk : Kept s₀ s) : Kept s₀ (bedCheck b epoch n s).1 := by
  unfold bedCheck
  repeat' with_reducible first | assumption | intro _ | dsimp only | apply Kept.onBed

theorem devRead_kept {s₀ : State} {q : PartIx} {a n rate : Nat} {flips : Flips} {s : State}
    (hk : Kept s₀ s) : Kept s₀ (devRead q a n rate flips s).1 := by
  unfold devRead
  repeat' with_reducible first
    | assumption | split | dsimp only | apply t3Read_kept | apply t3ReadBale_kept
    | refine Kept.of_pair (by assumption) ?_

theorem devWritePiece_kept {s₀ : State} {q : PartIx} {a rate epoch : Nat} {bs : List Byte} {s : State}
    (hk : Kept s₀ s) : Kept s₀ (devWritePiece q a rate epoch bs s).1 := by
  unfold devWritePiece
  repeat' with_reducible first
    | assumption | split | dsimp only | apply ramWrite_kept | apply t3Write_kept | apply t3WriteBale_kept
    | apply cisPerfAdd_kept | apply cisCheck_kept | apply bedCheck_kept | refine Kept.of_pair (by assumption) ?_

theorem devWritePieces_kept {s₀ : State} {q : PartIx} {base rate epoch : Nat} {bs : List Byte} {s : State}
    {x1 : List (Nat × Nat)}
    (hk : Kept s₀ s) : Kept s₀ (devWritePieces q base rate epoch bs s x1).1 := by
  induction x1 generalizing s with
  | nil =>
    unfold devWritePieces
    repeat' with_reducible first
      | assumption | intro _ | split | dsimp only | apply devWritePiece_kept | refine Kept.of_pair (by assumption) ?_
  | cons x t ih =>
    unfold devWritePieces
    repeat' with_reducible first
      | assumption | intro _ | split | apply ih | dsimp only | apply devWritePiece_kept
      | refine Kept.of_pair (by assumption) ?_

theorem devWrite_kept {s₀ : State} {q : PartIx} {a rate epoch : Nat} {bs : List Byte} {s : State}
    (hk : Kept s₀ s) : Kept s₀ (devWrite q a rate epoch bs s).1 := by
  unfold devWrite
  repeat' with_reducible first
    | assumption | dsimp only | apply devWritePieces_kept | refine Kept.of_pair (by assumption) ?_

theorem hostWrite_kept {s₀ : State} {a : Nat} {bs : List Byte} {s : State}
    (hk : Kept s₀ s) : Kept s₀ (hostWrite a bs s) := by
  unfold hostWrite
  repeat' with_reducible first
    | assumption | intro _ | dsimp only | refine Kept.onMem _ (fun m hm => ?_) ?_ | exact physWrite_wf _ _ _ hm
    | exact cwStore_wf _ _ _ _ _ hm | exact baleStore_wf _ _ _ _ hm | exact hm
    | (rw [Memory.wf_iff] at *; refine ⟨?_, ?_, ?_, ?_, ?_, ?_⟩) | apply tabWf_write | apply tabWf_set
    | apply tabWf_clear | apply tabWf_map | apply tabWf_filter | apply markDirty_wf | exact hm.1 | exact hm.2.1
    | exact hm.2.2.1 | exact hm.2.2.2.1 | exact hm.2.2.2.2.1 | exact hm.2.2.2.2.2

theorem traceLose_kept {s₀ : State} {q : PartIx} {s : State} (hk : Kept s₀ s) : Kept s₀ (traceLose q s) := by
  unfold traceLose
  repeat' with_reducible first | assumption | intro _ | dsimp only | apply Kept.onPart

theorem traceEmit_kept {s₀ : State} {die : TraceDie} {q : PartIx} {r : BitVec 256} {s : State}
    (hk : Kept s₀ s) : Kept s₀ (traceEmit die q r s) := by
  unfold traceEmit
  repeat' with_reducible first
    | assumption | intro _ | split | dsimp only | apply Kept.onBed | apply Kept.onCis | apply traceLose_kept
    | refine Kept.fields ?_ ?_ ?_ ?_
  all_goals rfl

theorem traceStore_kept {s₀ : State} {s : State} {e : BitVec 256} (hk : Kept s₀ s) : Kept s₀ (traceStore s e) := by
  unfold traceStore
  repeat' with_reducible first
    | assumption | intro _ | split | dsimp only | apply Kept.onPart | apply raiseDebug_kept | apply devWrite_kept
    | apply traceLose_kept | refine Kept.of_pair (by assumption) ?_

theorem traceDrain_kept {s₀ : State} {s : State} (hk : Kept s₀ s) : Kept s₀ (traceDrain s) := by
  unfold traceDrain
  repeat' with_reducible first
    | assumption | intro _ | dsimp only | apply Kept.onBed | apply Kept.onCis | refine Kept.forAll _ ?_ ?_
    | refine Kept.foldl _ ?_ ?_ | refine Kept.foldlPair _ ?_ ?_ | apply traceStore_kept
    | refine Kept.of_pair (by assumption) ?_ | refine Kept.fields ?_ ?_ ?_ ?_
  all_goals rfl

theorem writeRecord_kept {s₀ : State} {p : PlotIx} {l : Lane} {d : BitVec 1024} {e : Ended} {s : State}
    (hk : Kept s₀ s) : Kept s₀ (writeRecord p l d e s) := by
  unfold writeRecord
  repeat' with_reducible first | assumption | intro _ | dsimp only | apply Kept.onBed

theorem traceCommand_kept {s₀ : State} {p : PlotIx} {l : Lane} {d : BitVec 1024} {isEnd : Bool} {st cycles : Nat}
    {s : State}
    (hk : Kept s₀ s) : Kept s₀ (traceCommand p l d isEnd st cycles s) := by
  unfold traceCommand
  repeat' with_reducible first | assumption | split | dsimp only | apply traceEmit_kept

theorem step10_kept {s₀ : State} {p : PlotIx} {l : Lane} {d : BitVec 1024} {e : Ended} {s : State}
    (hk : Kept s₀ s) : Kept s₀ (step10 p l d e s) := by
  unfold step10
  repeat' with_reducible first
    | assumption | split | dsimp only | apply Kept.onPlot | apply writeRecord_kept | apply traceCommand_kept

theorem step11_kept {s₀ : State} {p : PlotIx} {l : Lane} {d : BitVec 1024} {e : Ended} {s : State}
    (hk : Kept s₀ s) : Kept s₀ (step11 p l d e s) := by
  unfold step11
  repeat' with_reducible first
    | assumption | intro _ | split | dsimp only | apply Kept.onPlot | apply Kept.setBed | apply writeRecord_kept

theorem armCapture_kept {s₀ : State} {p : PlotIx} {d : BitVec 1024} {e : Ended} {s : State}
    (hk : Kept s₀ s) : KeptOpt s₀ (armCapture p d e s) := by
  unfold armCapture
  repeat' with_reducible first
    | assumption | exact KeptOpt.none _ | apply KeptOpt.some | intro _ | split | dsimp only | apply Kept.onPlot
    | apply Kept.onPart | refine Kept.forAll _ ?_ ?_

theorem failPassOn_kept {s₀ : State} {p : PlotIx} {s : State} (hk : Kept s₀ s) : Kept s₀ (failPassOn p s) := by
  unfold failPassOn
  repeat' with_reducible first | assumption | intro _ | split | dsimp only | apply Kept.onPart

theorem drawReserve_kept {s₀ : State} {q : PartIx} {s : State} (hk : Kept s₀ s) : Kept s₀ (drawReserve q s) := by
  unfold drawReserve
  repeat' with_reducible first | assumption | intro _ | split | dsimp only | apply Kept.onPart

theorem prunePlot_kept {s₀ : State} {p : PlotIx} {c : PruneCause} {count : Nat} {s : State}
    (hk : Kept s₀ s) : Kept s₀ (prunePlot p c count s) := by
  unfold prunePlot
  repeat' with_reducible first
    | assumption | intro _ | split | dsimp only | apply Kept.onPlot | apply raiseCapacity_kept
    | apply recordPrune_kept | apply failPassOn_kept | apply drawReserve_kept

theorem pruneOnResidue_kept {s₀ : State} {p : PlotIx} {s : State} (hk : Kept s₀ s) : Kept s₀ (pruneOnResidue p s) := by
  unfold pruneOnResidue
  repeat' with_reducible first | assumption | split | dsimp only | apply prunePlot_kept

theorem endCommand_kept {s₀ : State} {p : PlotIx} {l : Lane} {d : BitVec 1024} {e : Ended} {s : State}
    (hk : Kept s₀ s) : Kept s₀ (endCommand p l d e s) := by
  unfold endCommand
  repeat' with_reducible first
    | assumption | exact KeptOpt.none _ | apply KeptOpt.some | intro _ | split | dsimp only | apply Kept.onPlot
    | apply perfAdd_kept | apply step10_kept | apply step11_kept | apply armCapture_kept | apply pruneOnResidue_kept
    | refine Kept.of_some (by assumption) ?_

theorem endRun_kept {s₀ : State} {p : PlotIx} {l : Lane} {r : Run} {st fault : Nat} {s : State}
    (hk : Kept s₀ s) : Kept s₀ (endRun p l r st fault s) := by
  unfold endRun
  repeat' with_reducible first
    | assumption | split | dsimp only | apply endCommand_kept | refine Kept.fields ?_ ?_ ?_ ?_
  all_goals rfl

theorem debitBed_kept {s₀ : State} {b : BedIx} {n : Nat} {s : State} (hk : Kept s₀ s) : Kept s₀ (debitBed b n s) := by
  unfold debitBed
  repeat' with_reducible first | assumption | intro _ | dsimp only | apply Kept.onBed

theorem waits23_kept {s₀ : State} {p : PlotIx} {l : Lane} {d : BitVec 1024} {s : State}
    (hk : Kept s₀ s) : KeptOpt s₀ (waits23 p l d s) := by
  unfold waits23
  repeat' with_reducible first
    | assumption | exact KeptOpt.none _ | apply KeptOpt.some | intro _ | split | dsimp only | apply Kept.onPlot
    | apply Kept.setBed

theorem wait4_kept {s₀ : State} {p : PlotIx} {l : Lane} {d : BitVec 1024} {s : State}
    (hk : Kept s₀ s) : KeptOpt s₀ (wait4 p l d s) := by
  unfold wait4
  repeat' with_reducible first
    | assumption | exact KeptOpt.none _ | apply KeptOpt.some | intro _ | split | dsimp only | apply Kept.onPlot
    | apply debitBed_kept

theorem issue_kept {s₀ : State} {p : PlotIx} {l : Lane} {d : BitVec 1024} {check : State → Option (Nat × Nat)}
    {start : State → State} {s : State} (hstart : ∀ y0, Kept s₀ y0 → Kept s₀ (start y0))
    (hk : Kept s₀ s) : Kept s₀ (issue p l d check start s) := by
  unfold issue
  repeat' with_reducible first
    | assumption | split | dsimp only | apply hstart | apply Kept.onPlot | apply traceCommand_kept
    | apply endCommand_kept

theorem leaveWaits_kept {s₀ : State} {p : PlotIx} {l : Lane} {isOp : Nat → Bool}
    {check : BitVec 1024 → State → Option (Nat × Nat)} {start : BitVec 1024 → State → State}
    {s : State} (hstart : ∀ y0 y1, Kept s₀ y1 → Kept s₀ (start y0 y1))
    (hk : Kept s₀ s) : Kept s₀ (leaveWaits p l isOp check start s) := by
  unfold leaveWaits
  repeat' with_reducible first
    | assumption | exact KeptOpt.none _ | apply KeptOpt.some | split | dsimp only | apply hstart | apply waits23_kept
    | apply wait4_kept | apply issue_kept | refine Kept.of_some (by assumption) ?_

theorem beginRun_kept {s₀ : State} {p : PlotIx} {l : Lane} {d : BitVec 1024} {total cycles : Nat} {s : State}
    (hk : Kept s₀ s) : Kept s₀ (beginRun p l d total cycles s) := by
  unfold beginRun
  repeat' with_reducible first | assumption | intro _ | split | dsimp only | apply Kept.onPlot

theorem onRun_kept {s₀ : State} {p : PlotIx} {l : Lane} {f : Run → Run} {s : State}
    (hk : Kept s₀ s) : Kept s₀ (onRun p l f s) := by
  unfold onRun
  repeat' with_reducible first | assumption | intro _ | dsimp only | apply Kept.onPlot

theorem noteSp_kept {s₀ : State} {p : PlotIx} {ue : Bool} {o : Nat} {s : State}
    (hk : Kept s₀ s) : Kept s₀ (noteSp p ue o s) := by
  unfold noteSp
  repeat' with_reducible first | assumption | intro _ | split | dsimp only | apply Kept.onPlot

theorem applyErrs_kept {s₀ : State} {p : PlotIx} {e : ReadErrs} {s : State}
    (hk : Kept s₀ s) : Kept s₀ (applyErrs p e s).1 := by
  unfold applyErrs
  repeat' with_reducible first
    | assumption | intro _ | split | dsimp only | refine Kept.foldl _ ?_ ?_ | refine Kept.foldlPair _ ?_ ?_
    | apply noteSp_kept | refine Kept.of_pair (by assumption) ?_

theorem putRow_kept {s₀ : State} {p : PlotIx} {base w idx rowLen : Nat} {codes : List Nat} {s : State}
    (hk : Kept s₀ s) : Kept s₀ (putRow p base w idx rowLen codes s) := by
  unfold putRow
  repeat' with_reducible first | assumption | split | dsimp only | apply t0Write_kept

theorem watchCount_kept {s₀ : State} {p : PlotIx} {e : Counts} {s : State}
    (hk : Kept s₀ s) : Kept s₀ (watchCount p e s) := by
  unfold watchCount
  repeat' with_reducible first | assumption | intro _ | dsimp only | apply Kept.onPlot

theorem countResidue_kept {s₀ : State} {p : PlotIx} {mism fault : Nat} {s : State}
    (hk : Kept s₀ s) : Kept s₀ (countResidue p mism fault s) := by
  unfold countResidue
  repeat' with_reducible first | assumption | intro _ | dsimp only | apply Kept.onPlot

theorem residueRerun_kept {s₀ : State} {p : PlotIx} {n : Nat} {s : State}
    (hk : Kept s₀ s) : Kept s₀ (residueRerun p n s) := by
  unfold residueRerun
  repeat' with_reducible first | assumption | intro _ | dsimp only | apply onRun_kept

theorem owe_kept {s₀ : State} {p : PlotIx} {d : BitVec 1024} {cycles n : Nat} {s : State}
    (hk : Kept s₀ s) : Kept s₀ (owe p d cycles n s) := by
  unfold owe
  repeat' with_reducible first
    | assumption | intro _ | dsimp only | apply Kept.onPlot | apply debitBed_kept | apply onRun_kept

theorem acceptTile_kept {s₀ : State} {p : PlotIx} {d : BitVec 1024} {j : TileJob} {rung : Nat} {seen : TileSeen}
    {unres : Bool} {s : State}
    (hk : Kept s₀ s) : Kept s₀ (acceptTile p d j rung seen unres s) := by
  unfold acceptTile
  repeat' with_reducible first | assumption | intro _ | split | dsimp only | apply Kept.onPlot

theorem tileRuns_kept {s₀ : State} {p : PlotIx} {d : BitVec 1024} {j : TileJob} {x1 : Nat} {x2 : Nat}
    {x3 : List RunCheck} {x4 : TileSeen} {s : State}
    (hk : Kept s₀ s) : Kept s₀ (tileRuns p d j x1 x2 x3 x4 s).1 := by
  induction x1 generalizing x2 x3 x4 s with
  | zero =>
    unfold tileRuns
    repeat' with_reducible first
      | assumption | intro _ | split | dsimp only | apply Kept.onPlot | apply onRun_kept | apply watchCount_kept
      | apply countResidue_kept | apply residueRerun_kept | apply owe_kept | apply acceptTile_kept
      | refine Kept.of_pair (by assumption) ?_ | refine Kept.fields ?_ ?_ ?_ ?_
    all_goals rfl
  | succ n ih =>
    unfold tileRuns
    repeat' with_reducible first
      | assumption | intro _ | split | apply ih | dsimp only | apply Kept.onPlot | apply onRun_kept
      | apply watchCount_kept | apply countResidue_kept | apply residueRerun_kept | apply owe_kept
      | apply acceptTile_kept | refine Kept.of_pair (by assumption) ?_ | refine Kept.fields ?_ ?_ ?_ ?_
    all_goals rfl

theorem runTile_kept {s₀ : State} {p : PlotIx} {d : BitVec 1024} {j : TileJob} {checks : List RunCheck} {s : State}
    (hk : Kept s₀ s) : Kept s₀ (runTile p d j checks s).1 := by
  unfold runTile
  repeat' with_reducible first
    | assumption | split | dsimp only | apply owe_kept | apply tileRuns_kept | refine Kept.of_pair (by assumption) ?_

theorem putWrites_kept {s₀ : State} {p : PlotIx} {ws : List (Nat × List Byte)} {s : State}
    (hk : Kept s₀ s) : Kept s₀ (putWrites p ws s) := by
  unfold putWrites
  repeat' with_reducible first
    | assumption | intro _ | dsimp only | refine Kept.foldl _ ?_ ?_ | refine Kept.foldlPair _ ?_ ?_
    | apply t0Write_kept | apply clearTags_kept | refine Kept.of_pair (by assumption) ?_

end Sys2Proof.Machine
end

