-- ==== Sys2Proof/Laws/KeptPlot.lean ====
section
/-! SUPPORT. The commands of the plots and of the mirror directory keep the queue, the fuses and the form of memory. -/

namespace Sys2Proof.Machine

open Host

set_option linter.all false

theorem tileEvent_kept {s₀ : State} {p : PlotIx} {op : Nat} {job : Run → State → TileJob} {checks : List RunCheck}
    {errs : ReadErrs} {put : Run → List (Nat × List Byte) → State → State × Option (Nat × Nat)}
    {s : State} (hput : ∀ y0 y1 y2, Kept s₀ y2 → Kept s₀ (put y0 y1 y2).1)
    (hk : Kept s₀ s) : Kept s₀ (tileEvent p op job checks errs put s) := by
  unfold tileEvent
  repeat' with_reducible first
    | assumption | intro _ | split | dsimp only | apply hput | apply Kept.getD | apply endRun_kept | apply onRun_kept
    | apply applyErrs_kept | apply runTile_kept | refine Kept.of_pair (by assumption) ?_

theorem execGemm_kept {s₀ : State} {p : PlotIx} {s : State} (hk : Kept s₀ s) : KeptOut s₀ (execGemm p s) := by
  unfold execGemm
  repeat' with_reducible first
    | assumption | apply KeptOut.next | intro _ | dsimp only | apply leaveWaits_kept | apply beginRun_kept

theorem execOutputTileComplete_kept {s₀ : State} {p : PlotIx} {runs : List RunCheck} {errs : ReadErrs} {s : State}
    (hk : Kept s₀ s) : KeptOut s₀ (execOutputTileComplete p runs errs s) := by
  unfold execOutputTileComplete
  repeat' with_reducible first
    | assumption | apply KeptOut.next | intro _ | dsimp only | apply putWrites_kept | apply tileEvent_kept

theorem vecUnit_kept {s₀ : State} {p : PlotIx} {d : BitVec 1024} {lo n : Nat} {s : State}
    (hk : Kept s₀ s) : Kept s₀ (vecUnit p d lo n s) := by
  unfold vecUnit
  repeat' with_reducible first
    | assumption | intro _ | split | dsimp only | apply Kept.onPlot | apply t0Write_kept | apply clearTags_kept
    | apply putRow_kept | apply watchCount_kept

theorem execVec_kept {s₀ : State} {p : PlotIx} {s : State} (hk : Kept s₀ s) : KeptOut s₀ (execVec p s) := by
  unfold execVec
  repeat' with_reducible first
    | assumption | apply KeptOut.next | intro _ | dsimp only | apply leaveWaits_kept | apply beginRun_kept

theorem statUnit_kept {s₀ : State} {p : PlotIx} {d : BitVec 1024} {lo n : Nat} {s : State}
    (hk : Kept s₀ s) : Kept s₀ (statUnit p d lo n s) := by
  unfold statUnit
  repeat' with_reducible first
    | assumption | intro _ | dsimp only | refine Kept.foldl _ ?_ ?_ | refine Kept.foldlPair _ ?_ ?_
    | apply watchCount_kept | apply putWrites_kept | refine Kept.of_pair (by assumption) ?_

theorem execStat_kept {s₀ : State} {p : PlotIx} {s : State} (hk : Kept s₀ s) : KeptOut s₀ (execStat p s) := by
  unfold execStat
  repeat' with_reducible first
    | assumption | apply KeptOut.next | intro _ | dsimp only | apply leaveWaits_kept | apply beginRun_kept

theorem setSlot_kept {s₀ : State} {p : PlotIx} {k : Fin 8} {x : SfuSlot} {s : State}
    (hk : Kept s₀ s) : Kept s₀ (setSlot p k x s) := by
  unfold setSlot
  repeat' with_reducible first | assumption | intro _ | dsimp only | apply Kept.onPlot

theorem reloadDefaults_kept {s₀ : State} {p : PlotIx} {s : State} (hk : Kept s₀ s) : Kept s₀ (reloadDefaults p s) := by
  unfold reloadDefaults
  repeat' with_reducible first
    | assumption | intro _ | split | dsimp only | refine Kept.foldl _ ?_ ?_ | refine Kept.foldlPair _ ?_ ?_
    | apply setSlot_kept | refine Kept.of_pair (by assumption) ?_

theorem evalUnit_kept {s₀ : State} {p : PlotIx} {d : BitVec 1024} {lo n : Nat} {s : State}
    (hk : Kept s₀ s) : Kept s₀ (evalUnit p d lo n s) := by
  unfold evalUnit
  repeat' with_reducible first
    | assumption | intro _ | split | dsimp only | apply t0Write_kept | apply clearTags_kept | apply watchCount_kept
    | refine Kept.fields ?_ ?_ ?_ ?_
  all_goals rfl

theorem applyTableErrs_kept {s₀ : State} {p : PlotIx} {k : Fin 8} {e : TableErrs} {s : State}
    (hk : Kept s₀ s) : Kept s₀ (applyTableErrs p k e s).1 := by
  unfold applyTableErrs
  repeat' with_reducible first | assumption | intro _ | split | dsimp only | apply Kept.onPlot | apply setSlot_kept

theorem startLoad_kept {s₀ : State} {p : PlotIx} {errs : ReadErrs} {d : BitVec 1024} {s : State}
    (hk : Kept s₀ s) : Kept s₀ (startLoad p errs d s) := by
  unfold startLoad
  repeat' with_reducible first
    | assumption | split | dsimp only | apply endRun_kept | apply beginRun_kept | apply applyErrs_kept
    | apply setSlot_kept | refine Kept.of_pair (by assumption) ?_

theorem execSfuEval_kept {s₀ : State} {p : PlotIx} {s : State} (hk : Kept s₀ s) : KeptOut s₀ (execSfuEval p s) := by
  unfold execSfuEval
  repeat' with_reducible first
    | assumption | apply KeptOut.next | exact KeptOut.fault _ | intro _ | split | dsimp only | apply leaveWaits_kept
    | apply beginRun_kept | apply reloadDefaults_kept

theorem execSfuLoad_kept {s₀ : State} {p : PlotIx} {errs : ReadErrs} {s : State}
    (hk : Kept s₀ s) : KeptOut s₀ (execSfuLoad p errs s) := by
  unfold execSfuLoad
  repeat' with_reducible first
    | assumption | apply KeptOut.next | exact KeptOut.fault _ | intro _ | split | dsimp only | apply leaveWaits_kept
    | apply reloadDefaults_kept | apply startLoad_kept

theorem randUnit_kept {s₀ : State} {p : PlotIx} {d : BitVec 1024} {lo n : Nat} {s : State}
    (hk : Kept s₀ s) : Kept s₀ (randUnit p d lo n s) := by
  unfold randUnit
  repeat' with_reducible first
    | assumption | intro _ | split | dsimp only | apply Kept.onPlot | apply clearTags_kept | apply putRow_kept

theorem execRand_kept {s₀ : State} {p : PlotIx} {s : State} (hk : Kept s₀ s) : KeptOut s₀ (execRand p s) := by
  unfold execRand
  repeat' with_reducible first
    | assumption | apply KeptOut.next | intro _ | dsimp only | apply leaveWaits_kept | apply beginRun_kept

theorem rotPut_kept {s₀ : State} {p : PlotIx} {d : BitVec 1024} {r : Nat} {rnds : List Rnd} {s : State}
    (hk : Kept s₀ s) : Kept s₀ (rotPut p d r rnds s) := by
  unfold rotPut
  repeat' with_reducible first
    | assumption | intro _ | split | dsimp only | apply t0Write_kept | apply putRow_kept | apply watchCount_kept

theorem startRot_kept {s₀ : State} {p : PlotIx} {errs : ReadErrs} {d : BitVec 1024} {s : State}
    (hk : Kept s₀ s) : Kept s₀ (startRot p errs d s) := by
  unfold startRot
  repeat' with_reducible first
    | assumption | intro _ | split | dsimp only | apply Kept.onPlot | refine Kept.foldl _ ?_ ?_
    | refine Kept.foldlPair _ ?_ ?_ | apply clearTags_kept | apply endRun_kept | apply beginRun_kept
    | apply applyErrs_kept | apply rotPut_kept | refine Kept.of_pair (by assumption) ?_

theorem execRot_kept {s₀ : State} {p : PlotIx} {errs : ReadErrs} {s : State}
    (hk : Kept s₀ s) : KeptOut s₀ (execRot p errs s) := by
  unfold execRot
  repeat' with_reducible first
    | assumption | apply KeptOut.next | intro _ | dsimp only | apply leaveWaits_kept | apply startRot_kept

theorem startAttn_kept {s₀ : State} {p : PlotIx} {d : BitVec 1024} {s : State}
    (hk : Kept s₀ s) : Kept s₀ (startAttn p d s) := by
  unfold startAttn
  repeat' with_reducible first
    | assumption | intro _ | split | dsimp only | apply Kept.onPlot | refine Kept.foldl _ ?_ ?_
    | refine Kept.foldlPair _ ?_ ?_ | apply t0Write_kept | apply beginRun_kept
    | refine Kept.of_pair (by assumption) ?_

theorem execAttn_kept {s₀ : State} {p : PlotIx} {s : State} (hk : Kept s₀ s) : KeptOut s₀ (execAttn p s) := by
  unfold execAttn
  repeat' with_reducible first
    | assumption | apply KeptOut.next | intro _ | dsimp only | apply leaveWaits_kept | apply startAttn_kept

theorem tileStats_kept {s₀ : State} {p : PlotIx} {d : BitVec 1024} {k : Pattern} {ds : List (BitVec 128)} {s : State}
    (hk : Kept s₀ s) : Kept s₀ (tileStats p d k ds s).1 := by
  unfold tileStats
  repeat' with_reducible first
    | assumption | split | dsimp only | apply devRead_kept | refine Kept.of_pair (by assumption) ?_

theorem keyTileRun_kept {s₀ : State} {p : PlotIx} {r : Run} {checks : List RunCheck} {s : State}
    (hk : Kept s₀ s) : Kept s₀ (keyTileRun p r checks s) := by
  unfold keyTileRun
  repeat' with_reducible first
    | assumption | intro _ | split | dsimp only | apply Kept.onPlot | refine Kept.foldl _ ?_ ?_
    | refine Kept.foldlPair _ ?_ ?_ | apply Kept.getD | apply t0Write_kept | apply endRun_kept | apply onRun_kept
    | apply watchCount_kept | apply countResidue_kept | apply residueRerun_kept | apply tileStats_kept
    | refine Kept.of_pair (by assumption) ?_

theorem execKeyTileComplete_kept {s₀ : State} {p : PlotIx} {runs : List RunCheck} {errs : ReadErrs} {s : State}
    (hk : Kept s₀ s) : KeptOut s₀ (execKeyTileComplete p runs errs s) := by
  unfold execKeyTileComplete
  repeat' with_reducible first
    | assumption | apply KeptOut.next | split | dsimp only | apply endRun_kept | apply applyErrs_kept
    | apply keyTileRun_kept | refine Kept.of_pair (by assumption) ?_

theorem finishAttn_kept {s₀ : State} {p : PlotIx} {r : Run} {s : State}
    (hk : Kept s₀ s) : Kept s₀ (finishAttn p r s) := by
  unfold finishAttn
  repeat' with_reducible first
    | assumption | intro _ | split | dsimp only | apply Kept.onPlot | refine Kept.foldl _ ?_ ?_
    | refine Kept.foldlPair _ ?_ ?_ | apply t0Write_kept | apply watchCount_kept
    | refine Kept.of_pair (by assumption) ?_

theorem onDir_kept {s₀ : State} {f : Nat} {g : DirHalf → DirHalf} {s : State}
    (hk : Kept s₀ s) : Kept s₀ (onDir f g s) := by
  unfold onDir
  repeat' with_reducible first | assumption | intro _ | dsimp only | apply Kept.onCis

theorem setDirEntry_kept {s₀ : State} {f : Nat} {e : DirEntry} {s : State}
    (hk : Kept s₀ s) : Kept s₀ (setDirEntry f e s) := by
  unfold setDirEntry
  repeat' with_reducible first | assumption | intro _ | dsimp only | apply onDir_kept

theorem onCopy_kept {s₀ : State} {b : BedIx} {f : Nat} {g : MirrorCopy → MirrorCopy} {s : State}
    (hk : Kept s₀ s) : Kept s₀ (onCopy b f g s) := by
  unfold onCopy
  repeat' with_reducible first | assumption | intro _ | dsimp only | apply Kept.onBed

theorem removeCopy_kept {s₀ : State} {b : BedIx} {f : Nat} {s : State}
    (hk : Kept s₀ s) : Kept s₀ (removeCopy b f s) := by
  unfold removeCopy
  repeat' with_reducible first | assumption | intro _ | dsimp only | apply Kept.onBed

theorem touchCopy_kept {s₀ : State} {b : BedIx} {f : Nat} {s : State} (hk : Kept s₀ s) : Kept s₀ (touchCopy b f s) := by
  unfold touchCopy
  repeat' with_reducible first | assumption | intro _ | dsimp only | apply Kept.onBed

theorem grantCopy_kept {s₀ : State} {b : BedIx} {f : Nat} {own fill : Bool} {s : State}
    (hk : Kept s₀ s) : Kept s₀ (grantCopy b f own fill s) := by
  unfold grantCopy
  repeat' with_reducible first | assumption | intro _ | split | dsimp only | apply Kept.onBed | apply onCopy_kept

theorem invalidateBeds_kept {s₀ : State} {m : BitVec 16} {f : Nat} {s : State}
    (hk : Kept s₀ s) : Kept s₀ (invalidateBeds m f s) := by
  unfold invalidateBeds
  repeat' with_reducible first
    | assumption | intro _ | dsimp only | refine Kept.forAll _ ?_ ?_ | apply removeCopy_kept

theorem writeBackCopy_kept {s₀ : State} {b : BedIx} {f : Nat} {c : MirrorCopy} {s : State}
    (hk : Kept s₀ s) : Kept s₀ (writeBackCopy b f c s) := by
  unfold writeBackCopy
  repeat' with_reducible first
    | assumption | intro _ | split | dsimp only | refine Kept.onMem _ (fun m hm => ?_) ?_
    | exact physWrite_wf _ _ _ hm | exact cwStore_wf _ _ _ _ _ hm | exact baleStore_wf _ _ _ _ hm | exact hm
    | (rw [Memory.wf_iff] at *; refine ⟨?_, ?_, ?_, ?_, ?_, ?_⟩) | apply tabWf_write | apply tabWf_set
    | apply tabWf_clear | apply tabWf_map | apply tabWf_filter | apply markDirty_wf | exact hm.1 | exact hm.2.1
    | exact hm.2.2.1 | exact hm.2.2.2.1 | exact hm.2.2.2.2.1 | exact hm.2.2.2.2.2 | refine Kept.foldl _ ?_ ?_
    | refine Kept.of_pair (by assumption) ?_

theorem takeBack_kept {s₀ : State} {b : BedIx} {f : Nat} {s : State} (hk : Kept s₀ s) : Kept s₀ (takeBack b f s) := by
  unfold takeBack
  repeat' with_reducible first
    | assumption | split | dsimp only | apply setDirEntry_kept | apply removeCopy_kept | apply writeBackCopy_kept

theorem recallOwner_kept {s₀ : State} {b : BedIx} {f : Nat} {s : State}
    (hk : Kept s₀ s) : Kept s₀ (recallOwner b f s) := by
  unfold recallOwner
  repeat' with_reducible first
    | assumption | intro _ | split | dsimp only | apply onDir_kept | apply onCopy_kept | apply takeBack_kept

theorem answerBed_kept {s₀ : State} {f : Nat} {r : DirReq} {s : State}
    (hk : Kept s₀ s) : Kept s₀ (answerBed f r s) := by
  unfold answerBed
  repeat' with_reducible first
    | assumption | split | dsimp only | apply setDirEntry_kept | apply grantCopy_kept | apply invalidateBeds_kept

theorem answer_kept {s₀ : State} {f : Nat} {r : DirQueued} {s : State} (hk : Kept s₀ s) : Kept s₀ (answer f r s) := by
  unfold answer
  repeat' with_reducible first
    | assumption | split | dsimp only | apply setDirEntry_kept | apply invalidateBeds_kept | apply answerBed_kept

theorem recallFor_kept {s₀ : State} {f : Nat} {s : State} (hk : Kept s₀ s) : Kept s₀ (recallFor f s) := by
  unfold recallFor
  repeat' with_reducible first | assumption | split | dsimp only | apply recallOwner_kept

theorem serveQueue_kept {s₀ : State} {f : Nat} {x1 : Nat} {s : State}
    (hk : Kept s₀ s) : Kept s₀ (serveQueue f x1 s) := by
  induction x1 generalizing s with
  | zero =>
    unfold serveQueue
    repeat' with_reducible first
      | assumption | intro _ | split | dsimp only | apply onDir_kept | apply answer_kept | apply recallFor_kept
  | succ n ih =>
    unfold serveQueue
    repeat' with_reducible first
      | assumption | intro _ | split | apply ih | dsimp only | apply onDir_kept | apply answer_kept
      | apply recallFor_kept

theorem dirServe_kept {s₀ : State} {f : Nat} {s : State} (hk : Kept s₀ s) : Kept s₀ (dirServe f s) := by
  unfold dirServe
  repeat' with_reducible first | assumption | dsimp only | apply serveQueue_kept

theorem dirRequest_kept {s₀ : State} {f : Nat} {r : DirQueued} {s : State}
    (hk : Kept s₀ s) : Kept s₀ (dirRequest f r s) := by
  unfold dirRequest
  repeat' with_reducible first | assumption | intro _ | dsimp only | apply onDir_kept | apply dirServe_kept

theorem countReq_kept {s₀ : State} {f : Nat} {r : DirReq} {s : State} (hk : Kept s₀ s) : Kept s₀ (countReq f r s) := by
  unfold countReq
  repeat' with_reducible first | assumption | intro _ | split | dsimp only | apply onDir_kept

theorem bedRequests_kept {s₀ : State} {f : Nat} {rs : List DirReq} {s : State}
    (hk : Kept s₀ s) : Kept s₀ (bedRequests f rs s) := by
  unfold bedRequests
  repeat' with_reducible first
    | assumption | intro _ | split | dsimp only | refine Kept.foldl _ ?_ ?_ | refine Kept.foldlPair _ ?_ ?_
    | apply onDir_kept | apply dirRequest_kept | apply countReq_kept | refine Kept.of_pair (by assumption) ?_

theorem execDirectoryRead_kept {s₀ : State} {f : BitVec 24} {b : BedIx} {same : List DirReq} {s : State}
    (hk : Kept s₀ s) : KeptOut s₀ (execDirectoryRead f b same s) := by
  unfold execDirectoryRead
  repeat' with_reducible first | assumption | apply KeptOut.next | intro _ | dsimp only | apply bedRequests_kept

theorem execDirectoryOwn_kept {s₀ : State} {f : BitVec 24} {b : BedIx} {withData : Bool} {same : List DirReq}
    {s : State}
    (hk : Kept s₀ s) : KeptOut s₀ (execDirectoryOwn f b withData same s) := by
  unfold execDirectoryOwn
  repeat' with_reducible first | assumption | apply KeptOut.next | intro _ | dsimp only | apply bedRequests_kept

theorem dropShared_kept {s₀ : State} {b : BedIx} {f : Nat} {s : State}
    (hk : Kept s₀ s) : Kept s₀ (dropShared b f s) := by
  unfold dropShared
  repeat' with_reducible first | assumption | split | dsimp only | apply setDirEntry_kept | apply removeCopy_kept

theorem execDirectoryDrop_kept {s₀ : State} {f : BitVec 24} {b : BedIx} {s : State}
    (hk : Kept s₀ s) : KeptOut s₀ (execDirectoryDrop f b s) := by
  unfold execDirectoryDrop
  repeat' with_reducible first
    | assumption | apply KeptOut.next | split | dsimp only | apply dirServe_kept | apply dropShared_kept

theorem execDirectoryEviction_kept {s₀ : State} {f : BitVec 24} {b : BedIx} {s : State}
    (hk : Kept s₀ s) : KeptOut s₀ (execDirectoryEviction f b s) := by
  unfold execDirectoryEviction
  repeat' with_reducible first
    | assumption | apply KeptOut.next | split | dsimp only | apply takeBack_kept | apply dirServe_kept

theorem execDirectoryExternal_kept {s₀ : State} {f : BitVec 24} {r : ExtReq} {s : State}
    (hk : Kept s₀ s) : KeptOut s₀ (execDirectoryExternal f r s) := by
  unfold execDirectoryExternal
  repeat' with_reducible first
    | assumption | apply KeptOut.next | intro _ | split | dsimp only | apply onDir_kept | apply dirRequest_kept

theorem execTenureEnd_kept {s₀ : State} {f : BitVec 24} {b : BedIx} {s : State}
    (hk : Kept s₀ s) : KeptOut s₀ (execTenureEnd f b s) := by
  unfold execTenureEnd
  repeat' with_reducible first
    | assumption | apply KeptOut.next | intro _ | split | dsimp only | apply onCopy_kept | apply takeBack_kept
    | apply dirServe_kept

theorem execWritebackDone_kept {s₀ : State} {f : BitVec 24} {s : State}
    (hk : Kept s₀ s) : KeptOut s₀ (execWritebackDone f s) := by
  unfold execWritebackDone
  repeat' with_reducible first
    | assumption | apply KeptOut.next | split | dsimp only | apply setDirEntry_kept | apply dirServe_kept

theorem frameRead_kept {s₀ : State} {f : Nat} {s : State} {x1 : List Nat}
    (hk : Kept s₀ s) : Kept s₀ (frameRead f s x1).1 := by
  induction x1 generalizing s with
  | nil =>
    unfold frameRead
    repeat' with_reducible first
      | assumption | intro _ | split | dsimp only | apply sectorRead_kept | refine Kept.of_pair (by assumption) ?_
  | cons x t ih =>
    unfold frameRead
    repeat' with_reducible first
      | assumption | intro _ | split | apply ih | dsimp only | apply sectorRead_kept
      | refine Kept.of_pair (by assumption) ?_

theorem execMirrorFillArrival_kept {s₀ : State} {f : BitVec 24} {b : BedIx} {s : State}
    (hk : Kept s₀ s) : KeptOut s₀ (execMirrorFillArrival f b s) := by
  unfold execMirrorFillArrival
  repeat' with_reducible first
    | assumption | apply KeptOut.next | intro _ | split | dsimp only | refine Kept.onMem _ (fun m hm => ?_) ?_
    | exact physWrite_wf _ _ _ hm | exact cwStore_wf _ _ _ _ _ hm | exact baleStore_wf _ _ _ _ hm | exact hm
    | (rw [Memory.wf_iff] at *; refine ⟨?_, ?_, ?_, ?_, ?_, ?_⟩) | apply tabWf_write | apply tabWf_set
    | apply tabWf_clear | apply tabWf_map | apply tabWf_filter | apply markDirty_wf | exact hm.1 | exact hm.2.1
    | exact hm.2.2.1 | exact hm.2.2.2.1 | exact hm.2.2.2.2.1 | exact hm.2.2.2.2.2 | apply onCopy_kept
    | apply takeBack_kept | apply dirServe_kept | apply dropShared_kept | apply frameRead_kept
    | refine Kept.of_pair (by assumption) ?_

theorem giveUpMirror_kept {s₀ : State} {b : BedIx} {s : State} (hk : Kept s₀ s) : Kept s₀ (giveUpMirror b s) := by
  unfold giveUpMirror
  repeat' with_reducible first
    | assumption | intro _ | split | dsimp only | refine Kept.foldl _ ?_ ?_ | refine Kept.foldlPair _ ?_ ?_
    | apply takeBack_kept | apply dirServe_kept | apply dropShared_kept | refine Kept.of_pair (by assumption) ?_

theorem discardMirror_kept {s₀ : State} {b : BedIx} {s : State} (hk : Kept s₀ s) : Kept s₀ (discardMirror b s) := by
  unfold discardMirror
  repeat' with_reducible first
    | assumption | intro _ | dsimp only | refine Kept.foldl _ ?_ ?_ | refine Kept.foldlPair _ ?_ ?_
    | apply setDirEntry_kept | apply removeCopy_kept | apply dirServe_kept | refine Kept.of_pair (by assumption) ?_

theorem readPiece_kept {s₀ : State} {q : PartIx} {bed : Option BedIx} {a n rate : Nat} {flips : Flips} {s : State}
    (hk : Kept s₀ s) : Kept s₀ (readPiece q bed a n rate flips s).1 := by
  unfold readPiece
  repeat' with_reducible first
    | assumption | split | dsimp only | apply xltTouch_kept | apply devRead_kept | apply touchCopy_kept
    | refine Kept.of_pair (by assumption) ?_

theorem readPieces_kept {s₀ : State} {q : PartIx} {bed : Option BedIx} {rate : Nat} {flips : Flips} {s : State}
    {x1 : List (Nat × Nat)}
    (hk : Kept s₀ s) : Kept s₀ (readPieces q bed rate flips s x1).1 := by
  induction x1 generalizing s with
  | nil =>
    unfold readPieces
    repeat' with_reducible first
      | assumption | intro _ | split | dsimp only | apply readPiece_kept | refine Kept.of_pair (by assumption) ?_
  | cons x t ih =>
    unfold readPieces
    repeat' with_reducible first
      | assumption | intro _ | split | apply ih | dsimp only | apply readPiece_kept
      | refine Kept.of_pair (by assumption) ?_

theorem routedRead_kept {s₀ : State} {q : PartIx} {bed : Option BedIx} {a n rate : Nat} {flips : Flips} {s : State}
    (hk : Kept s₀ s) : Kept s₀ (routedRead q bed a n rate flips s).1 := by
  unfold routedRead
  repeat' with_reducible first
    | assumption | split | dsimp only | apply devRead_kept | apply readPieces_kept
    | refine Kept.of_pair (by assumption) ?_

theorem writePiece_kept {s₀ : State} {q : PartIx} {bed : Option BedIx} {a rate epoch : Nat} {bs : List Byte} {s : State}
    (hk : Kept s₀ s) : Kept s₀ (writePiece q bed a rate epoch bs s).1 := by
  unfold writePiece
  repeat' with_reducible first
    | assumption | intro _ | split | dsimp only | refine Kept.onMem _ (fun m hm => ?_) ?_
    | exact physWrite_wf _ _ _ hm | exact cwStore_wf _ _ _ _ _ hm | exact baleStore_wf _ _ _ _ hm | exact hm
    | (rw [Memory.wf_iff] at *; refine ⟨?_, ?_, ?_, ?_, ?_, ?_⟩) | apply tabWf_write | apply tabWf_set
    | apply tabWf_clear | apply tabWf_map | apply tabWf_filter | apply markDirty_wf | exact hm.1 | exact hm.2.1
    | exact hm.2.2.1 | exact hm.2.2.2.1 | exact hm.2.2.2.2.1 | exact hm.2.2.2.2.2 | apply xltTouch_kept
    | apply bedCheck_kept | apply devWritePiece_kept | apply setDirEntry_kept | apply onCopy_kept
    | apply touchCopy_kept | refine Kept.of_pair (by assumption) ?_

theorem writePieces_kept {s₀ : State} {q : PartIx} {bed : Option BedIx} {base rate epoch : Nat} {bs : List Byte}
    {s : State} {x1 : List (Nat × Nat)}
    (hk : Kept s₀ s) : Kept s₀ (writePieces q bed base rate epoch bs s x1).1 := by
  induction x1 generalizing s with
  | nil =>
    unfold writePieces
    repeat' with_reducible first
      | assumption | intro _ | split | dsimp only | apply writePiece_kept | refine Kept.of_pair (by assumption) ?_
  | cons x t ih =>
    unfold writePieces
    repeat' with_reducible first
      | assumption | intro _ | split | apply ih | dsimp only | apply writePiece_kept
      | refine Kept.of_pair (by assumption) ?_

theorem routedWrite_kept {s₀ : State} {q : PartIx} {bed : Option BedIx} {a rate epoch : Nat} {bs : List Byte}
    {s : State}
    (hk : Kept s₀ s) : Kept s₀ (routedWrite q bed a rate epoch bs s).1 := by
  unfold routedWrite
  repeat' with_reducible first
    | assumption | split | dsimp only | apply writePieces_kept | apply devWrite_kept | refine Kept.of_pair (by assumption) ?_

theorem startMove_kept {s₀ : State} {p : PlotIx} {d : BitVec 1024} {s : State}
    (hk : Kept s₀ s) : Kept s₀ (startMove p d s) := by
  unfold startMove
  repeat' with_reducible first
    | assumption | intro _ | split | dsimp only | apply beginRun_kept | apply onRun_kept
    | refine Kept.fields ?_ ?_ ?_ ?_
  all_goals rfl

theorem execMove_kept {s₀ : State} {p : PlotIx} {s : State} (hk : Kept s₀ s) : KeptOut s₀ (execMove p s) := by
  unfold execMove
  repeat' with_reducible first
    | assumption | apply KeptOut.next | intro _ | dsimp only | apply leaveWaits_kept | apply startMove_kept

theorem writeRow_kept {s₀ : State} {p : PlotIx} {q : PartIx} {d : BitVec 1024} {a : Nat} {bs : List Byte} {s : State}
    (hk : Kept s₀ s) : Kept s₀ (writeRow p q d a bs s).1 := by
  unfold writeRow
  repeat' with_reducible first
    | assumption | split | dsimp only | apply clearTags_kept | apply routedWrite_kept
    | refine Kept.of_pair (by assumption) ?_

theorem moveRow_kept {s₀ : State} {p : PlotIx} {errs : ReadErrs} {flips : Flips} {r : Run} {s : State}
    (hk : Kept s₀ s) : KeptOpt s₀ (moveRow p errs flips r s) := by
  unfold moveRow
  repeat' with_reducible first
    | assumption | exact KeptOpt.none _ | apply KeptOpt.some | intro _ | split | dsimp only | apply endRun_kept
    | apply onRun_kept | apply applyErrs_kept | apply routedRead_kept | apply writeRow_kept
    | refine Kept.of_pair (by assumption) ?_

theorem execMoveRowComplete_kept {s₀ : State} {p : PlotIx} {errs : ReadErrs} {flips : Flips} {s : State}
    (hk : Kept s₀ s) : KeptOut s₀ (execMoveRowComplete p errs flips s) := by
  unfold execMoveRowComplete
  repeat' with_reducible first
    | assumption | exact KeptOpt.none _ | apply KeptOpt.some | apply KeptOut.next | split | dsimp only
    | apply endRun_kept | apply moveRow_kept | refine Kept.of_some (by assumption) ?_

theorem onWalk_kept {s₀ : State} {p : PlotIx} {f : Walk → Walk} {s : State}
    (hk : Kept s₀ s) : Kept s₀ (onWalk p f s) := by
  unfold onWalk
  repeat' with_reducible first | assumption | intro _ | dsimp only | apply Kept.onPlot

theorem emitDesc_kept {s₀ : State} {p : PlotIx} {d : BitVec 128} {s : State}
    (hk : Kept s₀ s) : Kept s₀ (emitDesc p d s) := by
  unfold emitDesc
  repeat' with_reducible first
    | assumption | intro _ | split | dsimp only | apply onWalk_kept | refine Kept.fields ?_ ?_ ?_ ?_
  all_goals rfl

theorem missingPage_kept {s₀ : State} {p : PlotIx} {r : Run} {g : PageRef} {last : Bool} {e : Nat} {s : State}
    (hk : Kept s₀ s) : Kept s₀ (missingPage p r g last e s) := by
  unfold missingPage
  repeat' with_reducible first
    | assumption | split | dsimp only | apply endRun_kept | apply emitDesc_kept | refine Kept.fields ?_ ?_ ?_ ?_
  all_goals rfl

theorem actOnEntry_kept {s₀ : State} {p : PlotIx} {r : Run} {g : PageRef} {last : Bool} {e v : Nat} {s : State}
    (hk : Kept s₀ s) : Kept s₀ (actOnEntry p r g last e v s) := by
  unfold actOnEntry
  repeat' with_reducible first
    | assumption | intro _ | split | dsimp only | apply onWalk_kept | apply emitDesc_kept | apply missingPage_kept

theorem touchLeaf_kept {s₀ : State} {c : CoreIx} {k : Nat} {s : State}
    (hk : Kept s₀ s) : Kept s₀ (touchLeaf c k s) := by
  unfold touchLeaf
  repeat' with_reducible first | assumption | dsimp only | refine Kept.fields ?_ ?_ ?_ ?_
  all_goals rfl

theorem execPageWalk_kept {s₀ : State} {p : PlotIx} {c : CoreIx} {s : State}
    (hk : Kept s₀ s) : KeptOut s₀ (execPageWalk p c s) := by
  unfold execPageWalk
  repeat' with_reducible first
    | assumption | apply KeptOut.next | exact KeptOut.fault _ | intro _ | split | dsimp only | apply endRun_kept
    | apply onWalk_kept | apply missingPage_kept | apply actOnEntry_kept | apply touchLeaf_kept

theorem execLeafFetchComplete_kept {s₀ : State} {p : PlotIx} {c : CoreIx} {s : State}
    (hk : Kept s₀ s) : KeptOut s₀ (execLeafFetchComplete p c s) := by
  unfold execLeafFetchComplete
  repeat' with_reducible first
    | assumption | apply KeptOut.next | exact KeptOut.fault _ | intro _ | split | dsimp only | apply endRun_kept
    | apply routedRead_kept | apply onWalk_kept | apply touchLeaf_kept | refine Kept.of_pair (by assumption) ?_

theorem execWritingEntryReread_kept {s₀ : State} {p : PlotIx} {s : State}
    (hk : Kept s₀ s) : KeptOut s₀ (execWritingEntryReread p s) := by
  unfold execWritingEntryReread
  repeat' with_reducible first
    | assumption | apply KeptOut.next | split | dsimp only | apply missingPage_kept | apply actOnEntry_kept

theorem execMissWaitExpire_kept {s₀ : State} {p : PlotIx} {s : State}
    (hk : Kept s₀ s) : KeptOut s₀ (execMissWaitExpire p s) := by
  unfold execMissWaitExpire
  repeat' with_reducible first
    | assumption | apply KeptOut.next | split | dsimp only | apply missingPage_kept | refine Kept.fields ?_ ?_ ?_ ?_
  all_goals rfl

theorem execDescriptorEnqueue_kept {s₀ : State} {p : PlotIx} {s : State}
    (hk : Kept s₀ s) : KeptOut s₀ (execDescriptorEnqueue p s) := by
  unfold execDescriptorEnqueue
  repeat' with_reducible first | assumption | apply KeptOut.next | intro _ | split | dsimp only | apply onWalk_kept

theorem oneFetched_kept {s₀ : State} {p : PlotIx} {s : State} (hk : Kept s₀ s) : Kept s₀ (oneFetched p s) := by
  unfold oneFetched
  repeat' with_reducible first | assumption | intro _ | dsimp only | apply onWalk_kept

theorem storePage_kept {s₀ : State} {p : PlotIx} {r : Run} {k : Nat} {d : BitVec 128} {bs : List Byte} {s : State}
    (hk : Kept s₀ s) : Kept s₀ (storePage p r k d bs s) := by
  unfold storePage
  repeat' with_reducible first
    | assumption | intro _ | dsimp only | apply Kept.onPlot | apply t0Write_kept | apply oneFetched_kept

theorem fetchPage_kept {s₀ : State} {p : PlotIx} {q : PartIx} {r : Run} {d : BitVec 128} {flips : Flips} {s : State}
    (hk : Kept s₀ s) : Kept s₀ (fetchPage p q r d flips s) := by
  unfold fetchPage
  repeat' with_reducible first
    | assumption | split | dsimp only | apply endRun_kept | apply routedRead_kept | apply storePage_kept
    | refine Kept.of_pair (by assumption) ?_

theorem execPageFetchComplete_kept {s₀ : State} {p : PlotIx} {flips : Flips} {s : State}
    (hk : Kept s₀ s) : KeptOut s₀ (execPageFetchComplete p flips s) := by
  unfold execPageFetchComplete
  repeat' with_reducible first
    | assumption | apply KeptOut.next | intro _ | split | dsimp only | apply Kept.onPlot | apply oneFetched_kept
    | apply fetchPage_kept

theorem tableWrite_kept {s₀ : State} {q : PartIx} {a : Nat} {bs : List Byte} {s : State}
    (hk : Kept s₀ s) : Kept s₀ (tableWrite q a bs s) := by
  unfold tableWrite
  repeat' with_reducible first
    | assumption | dsimp only | apply devWrite_kept | refine Kept.of_pair (by assumption) ?_

theorem execPageEntryWriting_kept {s₀ : State} {q : PartIx} {entry : DWord} {frame : Word} {s : State}
    (hk : Kept s₀ s) : KeptOut s₀ (execPageEntryWriting q entry frame s) := by
  unfold execPageEntryWriting
  repeat' with_reducible first
    | assumption | apply KeptOut.next | intro _ | split | dsimp only | apply Kept.onPart | apply tableWrite_kept

theorem execPageEntryPresent_kept {s₀ : State} {q : PartIx} {entry : DWord} {s : State}
    (hk : Kept s₀ s) : KeptOut s₀ (execPageEntryPresent q entry s) := by
  unfold execPageEntryPresent
  repeat' with_reducible first | assumption | apply KeptOut.next | split | dsimp only | apply tableWrite_kept

theorem freeLeaf_kept {s₀ : State} {q : PartIx} {leaf : Nat} {s : State}
    (hk : Kept s₀ s) : Kept s₀ (freeLeaf q leaf s) := by
  unfold freeLeaf
  repeat' with_reducible first | assumption | intro _ | split | dsimp only | apply tableWrite_kept

theorem execSequenceRelease_kept {s₀ : State} {q : PartIx} {root : DWord} {s : State}
    (hk : Kept s₀ s) : KeptOut s₀ (execSequenceRelease q root s) := by
  unfold execSequenceRelease
  repeat' with_reducible first
    | assumption | apply KeptOut.next | intro _ | split | dsimp only | refine Kept.foldl _ ?_ ?_ | apply freeLeaf_kept
    | refine Kept.of_pair (by assumption) ?_

theorem onHalo_kept {s₀ : State} {f : Halo → Halo} {s : State} (hk : Kept s₀ s) : Kept s₀ (onHalo f s) := by
  unfold onHalo
  repeat' with_reducible first | assumption | intro _ | dsimp only | apply Kept.onCis

theorem publishTag_kept {s₀ : State} {q : PartIx} {i v : Nat} {s : State}
    (hk : Kept s₀ s) : Kept s₀ (publishTag q i v s) := by
  unfold publishTag
  repeat' with_reducible first | assumption | intro _ | split | dsimp only | apply onHalo_kept

theorem publishHalo_kept {s₀ : State} {p : PlotIx} {d : BitVec 1024} {s : State}
    (hk : Kept s₀ s) : Kept s₀ (publishHalo p d s) := by
  unfold publishHalo
  repeat' with_reducible first | assumption | split | dsimp only | apply publishTag_kept

theorem haloFetch_kept {s₀ : State} {p : PlotIx} {q : PartIx} {s : State} {x1 : List (Nat × Nat × Nat)}
    (hk : Kept s₀ s) : Kept s₀ (haloFetch p q s x1).1 := by
  induction x1 generalizing s with
  | nil =>
    unfold haloFetch
    repeat' with_reducible first
      | assumption | intro _ | split | dsimp only | apply t0Write_kept | apply devRead_kept
      | refine Kept.of_pair (by assumption) ?_
  | cons x t ih =>
    unfold haloFetch
    repeat' with_reducible first
      | assumption | intro _ | split | apply ih | dsimp only | apply t0Write_kept | apply devRead_kept
      | refine Kept.of_pair (by assumption) ?_

theorem startConv_kept {s₀ : State} {p : PlotIx} {d : BitVec 1024} {s : State}
    (hk : Kept s₀ s) : Kept s₀ (startConv p d s) := by
  unfold startConv
  repeat' with_reducible first
    | assumption | intro _ | split | dsimp only | apply Kept.getD | apply clearTags_kept | apply endRun_kept
    | apply beginRun_kept | apply onRun_kept | apply haloFetch_kept | refine Kept.of_pair (by assumption) ?_
    | refine Kept.fields ?_ ?_ ?_ ?_
  all_goals rfl

theorem setStage_kept {s₀ : State} {p : PlotIx} {g : Stage} {s : State}
    (hk : Kept s₀ s) : Kept s₀ (setStage p g s) := by
  unfold setStage
  repeat' with_reducible first | assumption | intro _ | dsimp only | apply Kept.onPlot

theorem convGo_kept {s₀ : State} {p : PlotIx} {d : BitVec 1024} {s : State}
    (hk : Kept s₀ s) : Kept s₀ (convGo p d s) := by
  unfold convGo
  repeat' with_reducible first
    | assumption | exact KeptOpt.none _ | apply KeptOpt.some | split | dsimp only | apply wait4_kept
    | apply issue_kept | apply startConv_kept | refine Kept.of_some (by assumption) ?_

theorem convHaloStep_kept {s₀ : State} {p : PlotIx} {d : BitVec 1024} {s : State}
    (hk : Kept s₀ s) : Kept s₀ (convHaloStep p d s) := by
  unfold convHaloStep
  repeat' with_reducible first
    | assumption | intro _ | split | dsimp only | apply onHalo_kept | apply setStage_kept | apply convGo_kept

theorem execConv_kept {s₀ : State} {p : PlotIx} {s : State} (h : Kept s₀ s) : KeptOut s₀ (execConv p s) := by
  unfold execConv
  with_reducible apply KeptOut.next
  split
  · assumption
  split
  · assumption
  rename_i s1 hs1
  have h1 : Kept s₀ s1 := Kept.of_some hs1 (waits23_kept h)
  generalize (s1.plot p).compute.stage = g
  cases g <;> dsimp only
  · exact convHaloStep_kept h1
  · exact convHaloStep_kept h1
  · exact h1
  · exact convGo_kept h1

theorem execHaloWaitRelease_kept {s₀ : State} {p : PlotIx} {s : State}
    (hk : Kept s₀ s) : KeptOut s₀ (execHaloWaitRelease p s) := by
  unfold execHaloWaitRelease
  repeat' with_reducible first
    | assumption | apply KeptOut.next | intro _ | split | dsimp only | apply onHalo_kept | apply setStage_kept
    | apply convGo_kept

theorem almEvent_kept {s₀ : State} {e : BitVec 8} {s : State} (hk : Kept s₀ s) : Kept s₀ (almEvent e s) := by
  unfold almEvent
  repeat' with_reducible first | assumption | dsimp only | refine Kept.fields ?_ ?_ ?_ ?_
  all_goals rfl

theorem execHaloLongWait_kept {s₀ : State} {p : PlotIx} {s : State}
    (hk : Kept s₀ s) : KeptOut s₀ (execHaloLongWait p s) := by
  unfold execHaloLongWait
  repeat' with_reducible first
    | assumption | apply KeptOut.next | intro _ | split | dsimp only | apply onHalo_kept | apply almEvent_kept

theorem convPut_kept {s₀ : State} {p : PlotIx} {q : PartIx} {d : BitVec 1024} {s : State} {x1 : List (Nat × List Byte)}
    (hk : Kept s₀ s) : Kept s₀ (convPut p q d s x1).1 := by
  induction x1 generalizing s with
  | nil =>
    unfold convPut
    repeat' with_reducible first
      | assumption | intro _ | split | dsimp only | apply clearTags_kept | apply devWrite_kept
      | refine Kept.of_pair (by assumption) ?_
  | cons x t ih =>
    unfold convPut
    repeat' with_reducible first
      | assumption | intro _ | split | apply ih | dsimp only | apply clearTags_kept | apply devWrite_kept
      | refine Kept.of_pair (by assumption) ?_

theorem convFresh_kept {s₀ : State} {r : Run} {s : State} (hk : Kept s₀ s) : Kept s₀ (convFresh r s) := by
  unfold convFresh
  repeat' with_reducible first | assumption | split | dsimp only | refine Kept.fields ?_ ?_ ?_ ?_
  all_goals rfl

theorem execStripeTileComplete_kept {s₀ : State} {p : PlotIx} {runs : List RunCheck} {errs : ReadErrs} {s : State}
    (hk : Kept s₀ s) : KeptOut s₀ (execStripeTileComplete p runs errs s) := by
  unfold execStripeTileComplete
  repeat' with_reducible first
    | assumption | apply KeptOut.next | intro _ | split | dsimp only | apply tileEvent_kept | apply convPut_kept
    | apply convFresh_kept | refine Kept.of_pair (by assumption) ?_

theorem enterLane_kept {s₀ : State} {p : PlotIx} {l : Lane} {d : BitVec 1024} {s : State}
    (hk : Kept s₀ s) : Kept s₀ (enterLane p l d s) := by
  unfold enterLane
  repeat' with_reducible first | assumption | intro _ | dsimp only | apply Kept.onPlot

theorem submitTo_kept {s₀ : State} {p : PlotIx} {d : BitVec 1024} {s : State}
    (hk : Kept s₀ s) : Kept s₀ (submitTo p d s) := by
  unfold submitTo
  repeat' with_reducible first | assumption | intro _ | split | dsimp only | apply Kept.onPlot | apply enterLane_kept

theorem execPlotCommandSubmit_kept {s₀ : State} {p : PlotIx} {d : BitVec 1024} {s : State}
    (hk : Kept s₀ s) : KeptOut s₀ (execPlotCommandSubmit p d s) := by
  unfold execPlotCommandSubmit
  repeat' with_reducible first | assumption | apply KeptOut.next | dsimp only | apply submitTo_kept

theorem execBackpressureEntry_kept {s₀ : State} {p : PlotIx} {lane : Lane} {s : State}
    (hk : Kept s₀ s) : KeptOut s₀ (execBackpressureEntry p lane s) := by
  unfold execBackpressureEntry
  repeat' with_reducible first
    | assumption | apply KeptOut.next | intro _ | split | dsimp only | apply Kept.onPlot | apply enterLane_kept

theorem zeroUnit_kept {s₀ : State} {p : PlotIx} {d : BitVec 1024} {lo n : Nat} {s : State}
    (hk : Kept s₀ s) : Kept s₀ (zeroUnit p d lo n s) := by
  unfold zeroUnit
  repeat' with_reducible first | assumption | dsimp only | apply t0Write_kept | apply clearTags_kept

theorem execZero_kept {s₀ : State} {p : PlotIx} {s : State} (hk : Kept s₀ s) : KeptOut s₀ (execZero p s) := by
  unfold execZero
  repeat' with_reducible first
    | assumption | apply KeptOut.next | intro _ | dsimp only | apply leaveWaits_kept | apply beginRun_kept

theorem beginFlat_kept {s₀ : State} {p : PlotIx} {d : BitVec 1024} {cycles : Nat} {s : State}
    (hk : Kept s₀ s) : Kept s₀ (beginFlat p d cycles s) := by
  unfold beginFlat
  repeat' with_reducible first | assumption | intro _ | split | dsimp only | apply beginRun_kept | apply onRun_kept

theorem execSync_kept {s₀ : State} {p : PlotIx} {s : State} (hk : Kept s₀ s) : KeptOut s₀ (execSync p s) := by
  unfold execSync
  repeat' with_reducible first
    | assumption | apply KeptOut.next | intro _ | split | dsimp only | apply leaveWaits_kept | apply beginFlat_kept

theorem t0Free_kept {s₀ : State} {p : PlotIx} {s : State} (hk : Kept s₀ s) : Kept s₀ (t0Free p s) := by
  unfold t0Free
  repeat' with_reducible first
    | assumption | intro _ | dsimp only | apply t0Write_kept | apply clearTags_kept | refine Kept.fields ?_ ?_ ?_ ?_
  all_goals rfl

theorem testLeaves_kept {s₀ : State} {p : PlotIx} {n : Nat} {s : State}
    (hk : Kept s₀ s) : Kept s₀ (testLeaves p n s) := by
  unfold testLeaves
  repeat' with_reducible first | assumption | split | dsimp only | apply Kept.onPlot | apply t0Free_kept

theorem execTest_kept {s₀ : State} {p : PlotIx} {fail : Option (BitVec 4 × BitVec 6)} {s : State}
    (hk : Kept s₀ s) : KeptOut s₀ (execTest p fail s) := by
  unfold execTest
  repeat' with_reducible first
    | assumption | apply KeptOut.next | exact KeptOut.fault _ | intro _ | split | dsimp only | apply leaveWaits_kept
    | apply onRun_kept | apply beginFlat_kept

theorem execUnknownOpcode_kept {s₀ : State} {p : PlotIx} {s : State}
    (hk : Kept s₀ s) : KeptOut s₀ (execUnknownOpcode p s) := by
  unfold execUnknownOpcode
  repeat' with_reducible first | assumption | apply KeptOut.next | intro _ | dsimp only | apply leaveWaits_kept

theorem unitRun_kept {s₀ : State} {p : PlotIx} {d : BitVec 1024} {lo n : Nat} {s : State}
    (hk : Kept s₀ s) : Kept s₀ (unitRun p d lo n s) := by
  unfold unitRun
  repeat' with_reducible first
    | assumption | split | dsimp only | apply vecUnit_kept | apply statUnit_kept | apply evalUnit_kept
    | apply randUnit_kept | apply zeroUnit_kept

theorem unitStep_kept {s₀ : State} {p : PlotIx} {r : Run} {n : Nat} {errs : ReadErrs} {terrs : TableErrs} {s : State}
    (hk : Kept s₀ s) : Kept s₀ (unitStep p r n errs terrs s) := by
  unfold unitStep
  repeat' with_reducible first
    | assumption | intro _ | split | dsimp only | apply endRun_kept | apply onRun_kept | apply applyErrs_kept
    | apply applyTableErrs_kept | apply unitRun_kept | refine Kept.of_pair (by assumption) ?_

theorem execUnitComplete_kept {s₀ : State} {p : PlotIx} {errs : ReadErrs} {terrs : TableErrs} {s : State}
    (hk : Kept s₀ s) : KeptOut s₀ (execUnitComplete p errs terrs s) := by
  unfold execUnitComplete
  repeat' with_reducible first
    | assumption | apply KeptOut.next | split | dsimp only | apply endRun_kept | apply unitStep_kept

theorem endOk_kept {s₀ : State} {p : PlotIx} {l : Lane} {s : State} (hk : Kept s₀ s) : Kept s₀ (endOk p l s) := by
  unfold endOk
  repeat' with_reducible first | assumption | split | dsimp only | apply endRun_kept

theorem completeCompute_kept {s₀ : State} {p : PlotIx} {r : Run} {errs : ReadErrs} {terrs : TableErrs} {s : State}
    (hk : Kept s₀ s) : Kept s₀ (completeCompute p r errs terrs s) := by
  unfold completeCompute
  repeat' with_reducible first
    | assumption | split | dsimp only | apply endCommand_kept | apply endRun_kept | apply finishAttn_kept
    | apply publishHalo_kept | apply testLeaves_kept | apply unitStep_kept | apply endOk_kept
    | refine Kept.fields ?_ ?_ ?_ ?_
  all_goals rfl

theorem execCommandComplete_kept {s₀ : State} {p : PlotIx} {lane : Lane} {errs : ReadErrs} {terrs : TableErrs}
    {flips : Flips} {s : State}
    (hk : Kept s₀ s) : KeptOut s₀ (execCommandComplete p lane errs terrs flips s) := by
  unfold execCommandComplete
  repeat' with_reducible first
    | assumption | exact KeptOpt.none _ | apply KeptOpt.some | apply KeptOut.next | split | dsimp only
    | apply moveRow_kept | apply endOk_kept | apply completeCompute_kept | refine Kept.of_some (by assumption) ?_

theorem ctlFields_kept {s₀ : State} {p : PlotIx} {rw : BitVec 3} {s : State}
    (hk : Kept s₀ s) : Kept s₀ (ctlFields p rw s) := by
  unfold ctlFields
  repeat' with_reducible first | assumption | intro _ | split | dsimp only | apply Kept.onPlot

theorem discardOne_kept {s₀ : State} {p : PlotIx} {l : Lane} {s : State} {d : BitVec 1024}
    (hk : Kept s₀ s) : Kept s₀ (discardOne p l s d) := by
  unfold discardOne
  repeat' with_reducible first | assumption | dsimp only | apply step10_kept

theorem returnSem_kept {s₀ : State} {p : PlotIx} {l : Lane} {s : State}
    (hk : Kept s₀ s) : Kept s₀ (returnSem p l s) := by
  unfold returnSem
  repeat' with_reducible first | assumption | intro _ | split | dsimp only | apply Kept.onBed

theorem discardLane_kept {s₀ : State} {p : PlotIx} {l : Lane} {s : State}
    (hk : Kept s₀ s) : Kept s₀ (discardLane p l s) := by
  unfold discardLane
  repeat' with_reducible first
    | assumption | intro _ | dsimp only | apply Kept.onPlot | refine Kept.foldl _ ?_ ?_
    | refine Kept.foldlPair _ ?_ ?_ | apply discardOne_kept | apply returnSem_kept
    | refine Kept.of_pair (by assumption) ?_

theorem stopCompute_kept {s₀ : State} {p : PlotIx} {s : State} (hk : Kept s₀ s) : Kept s₀ (stopCompute p s) := by
  unfold stopCompute
  repeat' with_reducible first | assumption | split | dsimp only | apply endRun_kept | apply testLeaves_kept

theorem flushPlot_kept {s₀ : State} {p : PlotIx} {resume : Bool} {s : State}
    (hk : Kept s₀ s) : Kept s₀ (flushPlot p resume s) := by
  unfold flushPlot
  repeat' with_reducible first
    | assumption | intro _ | dsimp only | apply Kept.onPlot | apply discardLane_kept | apply stopCompute_kept

theorem execPlotFlush_kept {s₀ : State} {p : PlotIx} {resume : Bool} {rw : BitVec 3} {s : State}
    (hk : Kept s₀ s) : KeptOut s₀ (execPlotFlush p resume rw s) := by
  unfold execPlotFlush
  repeat' with_reducible first
    | assumption | apply KeptOut.next | dsimp only | apply ctlFields_kept | apply flushPlot_kept

theorem execPlotResume_kept {s₀ : State} {p : PlotIx} {rw : BitVec 3} {s : State}
    (hk : Kept s₀ s) : KeptOut s₀ (execPlotResume p rw s) := by
  unfold execPlotResume
  repeat' with_reducible first
    | assumption | apply KeptOut.next | dsimp only | apply Kept.onPlot | apply ctlFields_kept

theorem abortRun_kept {s₀ : State} {p : PlotIx} {l : Lane} {s : State} (hk : Kept s₀ s) : Kept s₀ (abortRun p l s) := by
  unfold abortRun
  repeat' with_reducible first
    | assumption | intro _ | split | dsimp only | apply Kept.onPlot | apply step10_kept
    | refine Kept.fields ?_ ?_ ?_ ?_
  all_goals rfl

theorem resetPlot_kept {s₀ : State} {p : PlotIx} {s : State} (hk : Kept s₀ s) : Kept s₀ (resetPlot p s) := by
  unfold resetPlot
  repeat' with_reducible first
    | assumption | intro _ | dsimp only | apply Kept.onPlot | apply failPassOn_kept | apply discardLane_kept
    | apply abortRun_kept

theorem absorbReset_kept {s₀ : State} {p : PlotIx} {s : State} (hk : Kept s₀ s) : Kept s₀ (absorbReset p s) := by
  unfold absorbReset
  repeat' with_reducible first | assumption | intro _ | split | dsimp only | apply Kept.onPart

theorem execPlotReset_kept {s₀ : State} {p : PlotIx} {rw : BitVec 3} {s : State}
    (hk : Kept s₀ s) : KeptOut s₀ (execPlotReset p rw s) := by
  unfold execPlotReset
  repeat' with_reducible first
    | assumption | apply KeptOut.next | intro _ | split | dsimp only | apply Kept.onPlot | apply resetPlot_kept
    | apply absorbReset_kept

theorem execPlotResetDone_kept {s₀ : State} {p : PlotIx} {s : State}
    (hk : Kept s₀ s) : KeptOut s₀ (execPlotResetDone p s) := by
  unfold execPlotResetDone
  repeat' with_reducible first
    | assumption | apply KeptOut.next | exact KeptOut.fault _ | intro _ | split | dsimp only | apply Kept.onPlot
    | apply t0Zero_kept | apply reloadDefaults_kept

theorem execReducedRequest_kept {s₀ : State} {p : PlotIx} {rw : BitVec 3} {s : State}
    (hk : Kept s₀ s) : KeptOut s₀ (execReducedRequest p rw s) := by
  unfold execReducedRequest
  repeat' with_reducible first | assumption | apply KeptOut.next | dsimp only | apply ctlFields_kept

theorem execReducedApply_kept {s₀ : State} {p : PlotIx} {s : State}
    (hk : Kept s₀ s) : KeptOut s₀ (execReducedApply p s) := by
  unfold execReducedApply
  repeat' with_reducible first | assumption | apply KeptOut.next | split | dsimp only | apply Kept.setPlot

theorem execClockGate_kept {s₀ : State} {p : PlotIx} {s : State} (hk : Kept s₀ s) : KeptOut s₀ (execClockGate p s) := by
  unfold execClockGate
  repeat' with_reducible first | assumption | apply KeptOut.next | split | dsimp only | apply Kept.setPlot

theorem execPowerGateEntry_kept {s₀ : State} {p : PlotIx} {s : State}
    (hk : Kept s₀ s) : KeptOut s₀ (execPowerGateEntry p s) := by
  unfold execPowerGateEntry
  repeat' with_reducible first
    | assumption | apply KeptOut.next | intro _ | split | dsimp only | apply Kept.onPlot | apply giveUpMirror_kept

theorem execPowerGateComplete_kept {s₀ : State} {p : PlotIx} {s : State}
    (hk : Kept s₀ s) : KeptOut s₀ (execPowerGateComplete p s) := by
  unfold execPowerGateComplete
  repeat' with_reducible first
    | assumption | apply KeptOut.next | intro _ | split | dsimp only | apply Kept.onPlot | apply t0Free_kept

theorem execPowerGateWake_kept {s₀ : State} {p : PlotIx} {s : State}
    (hk : Kept s₀ s) : KeptOut s₀ (execPowerGateWake p s) := by
  unfold execPowerGateWake
  repeat' with_reducible first | assumption | apply KeptOut.next | split | dsimp only | apply Kept.setPlot

theorem seedPlot_kept {s₀ : State} {p : PlotIx} {key index : Nat} {s : State}
    (hk : Kept s₀ s) : Kept s₀ (seedPlot p key index s) := by
  unfold seedPlot
  repeat' with_reducible first | assumption | intro _ | dsimp only | apply Kept.onPlot

theorem seedWoken_kept {s₀ : State} {p : PlotIx} {s : State} (hk : Kept s₀ s) : Kept s₀ (seedWoken p s) := by
  unfold seedWoken
  repeat' with_reducible first | assumption | intro _ | split | dsimp only | apply Kept.getD | apply seedPlot_kept

theorem execWakeComplete_kept {s₀ : State} {p : PlotIx} {s : State}
    (hk : Kept s₀ s) : KeptOut s₀ (execWakeComplete p s) := by
  unfold execWakeComplete
  repeat' with_reducible first
    | assumption | apply KeptOut.next | exact KeptOut.fault _ | intro _ | split | dsimp only | apply Kept.onPlot
    | apply t0Zero_kept | apply reloadDefaults_kept | apply seedWoken_kept

theorem execRngStateLoad_kept {s₀ : State} {p : PlotIx} {s3 : Word} {s : State}
    (hk : Kept s₀ s) : KeptOut s₀ (execRngStateLoad p s3 s) := by
  unfold execRngStateLoad
  repeat' with_reducible first | assumption | apply KeptOut.next | intro _ | dsimp only | apply Kept.onPlot

theorem execRngStateApply_kept {s₀ : State} {p : PlotIx} {s : State}
    (hk : Kept s₀ s) : KeptOut s₀ (execRngStateApply p s) := by
  unfold execRngStateApply
  repeat' with_reducible first | assumption | apply KeptOut.next | split | dsimp only | apply Kept.setPlot

theorem execLayerStateLoad_kept {s₀ : State} {b : BedIx} {w : Word} {s : State}
    (hk : Kept s₀ s) : KeptOut s₀ (execLayerStateLoad b w s) := by
  unfold execLayerStateLoad
  repeat' with_reducible first | assumption | apply KeptOut.next | intro _ | split | dsimp only | apply Kept.onPlot

theorem execLayerStateInstall_kept {s₀ : State} {p : PlotIx} {s : State}
    (hk : Kept s₀ s) : KeptOut s₀ (execLayerStateInstall p s) := by
  unfold execLayerStateInstall
  repeat' with_reducible first | assumption | apply KeptOut.next | split | dsimp only | apply Kept.setPlot

end Sys2Proof.Machine
end

