-- ==== Sys2Proof/Laws/KeptJobs.lean ====
section
/-! SUPPORT. The commands of bulk memory, the carriers and the jobs keep the queue, the fuses and the form of memory. -/

namespace Sys2Proof.Machine

open Host

set_option linter.all false

theorem cwStoreAll_wf (sector tau : Nat) (data : List Byte) (js : List Nat) (m : Memories) (h : Memory.wf m = true) :
    Memory.wf (cwStoreAll sector tau data js m) = true :=
  wf_foldl _ (fun m _ hm => cwStore_wf _ _ _ _ m hm) _ h

theorem clearTail_wf (sector rate : Nat) (m : Memories) (h : Memory.wf m = true) : Memory.wf (clearTail sector rate m) = true := by
  rw [Memory.wf_iff] at *
  exact ⟨h.1, h.2.1, tabWf_clear _ _ h.2.2.1, h.2.2.2⟩

theorem copyFrame_wf (f g : Nat) (m : Memories) (h : Memory.wf m = true) : Memory.wf (copyFrame f g m) = true := by
  rw [Memory.wf_iff] at *
  exact ⟨h.1, tabWf_write _ _ h.2.1, tabWf_write _ _ h.2.2.1, h.2.2.2⟩

theorem execLpddrRead_kept {s₀ : State} {sector : Nat} {tau : BitVec 2} {cws : BitVec 4} {flips : Flips} {s : State}
    (hk : Kept s₀ s) : KeptOut s₀ (execLpddrRead sector tau cws flips s) := by
  unfold execLpddrRead
  repeat' with_reducible first
    | assumption | apply KeptOut.next | exact KeptOut.fault _ | split | dsimp only | apply sectorRead_kept
    | refine Kept.of_pair (by assumption) ?_

theorem execLpddrWrite_kept {s₀ : State} {sector : Nat} {tau : BitVec 2} {cws : BitVec 4} {data : List Byte} {s : State}
    (hk : Kept s₀ s) : KeptOut s₀ (execLpddrWrite sector tau cws data s) := by
  unfold execLpddrWrite
  repeat' with_reducible first
    | assumption | apply KeptOut.next | exact KeptOut.fault _ | intro _ | split | dsimp only
    | refine Kept.onMem _ (fun m hm => ?_) ?_ | exact physWrite_wf _ _ _ hm | exact cwStore_wf _ _ _ _ _ hm
    | exact baleStore_wf _ _ _ _ hm | apply clearTail_wf | apply cwStoreAll_wf | exact hm
    | (rw [Memory.wf_iff] at *; refine ⟨?_, ?_, ?_, ?_, ?_, ?_⟩) | apply tabWf_write | apply tabWf_set
    | apply tabWf_clear | apply tabWf_map | apply tabWf_filter | apply markDirty_wf | exact hm.1 | exact hm.2.1
    | exact hm.2.2.1 | exact hm.2.2.2.1 | exact hm.2.2.2.2.1 | exact hm.2.2.2.2.2 | apply cisPerfAdd_kept

theorem scrubCw_kept {s₀ : State} {sector rate : Nat} {s : State} {jr : Nat × CwOut}
    (hk : Kept s₀ s) : Kept s₀ (scrubCw sector rate s jr) := by
  unfold scrubCw
  repeat' with_reducible first
    | assumption | split | dsimp only | refine Kept.onMem _ (fun m hm => ?_) ?_ | exact physWrite_wf _ _ _ hm
    | exact cwStore_wf _ _ _ _ _ hm | exact baleStore_wf _ _ _ _ hm | exact hm
    | (rw [Memory.wf_iff] at *; refine ⟨?_, ?_, ?_, ?_, ?_, ?_⟩) | apply tabWf_write | apply tabWf_set
    | apply tabWf_clear | apply tabWf_map | apply tabWf_filter | apply markDirty_wf | exact hm.1 | exact hm.2.1
    | exact hm.2.2.1 | exact hm.2.2.2.1 | exact hm.2.2.2.2.1 | exact hm.2.2.2.2.2 | apply countCe_kept
    | apply countChk_kept | apply countUe_kept

theorem scrubOne_kept {s₀ : State} {sector : Nat} {flips : Flips} {s : State}
    (hk : Kept s₀ s) : Kept s₀ (scrubOne sector flips s) := by
  unfold scrubOne
  repeat' with_reducible first
    | assumption | intro _ | split | dsimp only | refine Kept.onMem _ (fun m hm => ?_) ?_
    | exact physWrite_wf _ _ _ hm | exact cwStore_wf _ _ _ _ _ hm | exact baleStore_wf _ _ _ _ hm | exact hm
    | (rw [Memory.wf_iff] at *; refine ⟨?_, ?_, ?_, ?_, ?_, ?_⟩) | apply tabWf_write | apply tabWf_set
    | apply tabWf_clear | apply tabWf_map | apply tabWf_filter | apply markDirty_wf | exact hm.1 | exact hm.2.1
    | exact hm.2.2.1 | exact hm.2.2.2.1 | exact hm.2.2.2.2.1 | exact hm.2.2.2.2.2 | refine Kept.foldl _ ?_ ?_
    | refine Kept.foldlPair _ ?_ ?_ | apply countUe_kept | apply almEvent_kept | apply scrubCw_kept
    | refine Kept.of_pair (by assumption) ?_

theorem scrubPassEnd_kept {s₀ : State} {sector : Nat} {s : State}
    (hk : Kept s₀ s) : Kept s₀ (scrubPassEnd sector s) := by
  unfold scrubPassEnd
  repeat' with_reducible first
    | assumption | intro _ | split | dsimp only | refine Kept.onMem _ (fun m hm => ?_) ?_
    | exact physWrite_wf _ _ _ hm | exact cwStore_wf _ _ _ _ _ hm | exact baleStore_wf _ _ _ _ hm | exact hm
    | (rw [Memory.wf_iff] at *; refine ⟨?_, ?_, ?_, ?_, ?_, ?_⟩) | apply tabWf_write | apply tabWf_set
    | apply tabWf_clear | apply tabWf_map | apply tabWf_filter | apply markDirty_wf | exact hm.1 | exact hm.2.1
    | exact hm.2.2.1 | exact hm.2.2.2.1 | exact hm.2.2.2.2.1 | exact hm.2.2.2.2.2 | apply Kept.onCis

theorem execScrubSector_kept {s₀ : State} {sector : Nat} {flips : Flips} {s : State}
    (hk : Kept s₀ s) : KeptOut s₀ (execScrubSector sector flips s) := by
  unfold execScrubSector
  repeat' with_reducible first
    | assumption | apply KeptOut.next | exact KeptOut.fault _ | split | dsimp only | apply scrubOne_kept
    | apply scrubPassEnd_kept

theorem onChan_kept {s₀ : State} {c : CisIx} {ch : Fin 64} {f : Chan → Chan} {s : State}
    (hk : Kept s₀ s) : Kept s₀ (onChan c ch f s) := by
  unfold onChan
  repeat' with_reducible first | assumption | intro _ | dsimp only | apply Kept.onCis

theorem execBankRefresh_kept {s₀ : State} {c : CisIx} {ch : Fin 64} {rank : Fin 2} {bank : Fin 16} {s : State}
    (hk : Kept s₀ s) : KeptOut s₀ (execBankRefresh c ch rank bank s) := by
  unfold execBankRefresh
  repeat' with_reducible first
    | assumption | apply KeptOut.next | intro _ | dsimp only | apply cisPerfAdd_kept | apply onChan_kept

theorem execPeriodicRetrain_kept {s₀ : State} {c : CisIx} {failed : BitVec 64} {s : State}
    (hk : Kept s₀ s) : KeptOut s₀ (execPeriodicRetrain c failed s) := by
  unfold execPeriodicRetrain
  repeat' with_reducible first | assumption | apply KeptOut.next | intro _ | dsimp only | apply Kept.onCis

theorem remapEntries_kept {s₀ : State} {p : Nat × Word → Bool} {f : Word → Word} {s : State}
    (hk : Kept s₀ s) : Kept s₀ (remapEntries p f s) := by
  unfold remapEntries
  repeat' with_reducible first
    | assumption | intro _ | split | dsimp only | refine Kept.onMem _ (fun m hm => ?_) ?_
    | exact physWrite_wf _ _ _ hm | exact cwStore_wf _ _ _ _ _ hm | exact baleStore_wf _ _ _ _ hm | exact hm
    | (rw [Memory.wf_iff] at *; refine ⟨?_, ?_, ?_, ?_, ?_, ?_⟩) | apply tabWf_write | apply tabWf_set
    | apply tabWf_clear | apply tabWf_map | apply tabWf_filter | apply markDirty_wf | exact hm.1 | exact hm.2.1
    | exact hm.2.2.1 | exact hm.2.2.2.1 | exact hm.2.2.2.2.1 | exact hm.2.2.2.2.2 | apply Kept.onCis
    | refine Kept.forAll _ ?_ ?_

theorem execChannelPrune_kept {s₀ : State} {c : CisIx} {ch : Fin 64} {cause : PruneCause} {s : State}
    (hk : Kept s₀ s) : KeptOut s₀ (execChannelPrune c ch cause s) := by
  unfold execChannelPrune
  repeat' with_reducible first
    | assumption | apply KeptOut.next | intro _ | split | dsimp only | refine Kept.onMem _ (fun m hm => ?_) ?_
    | exact physWrite_wf _ _ _ hm | exact cwStore_wf _ _ _ _ _ hm | exact baleStore_wf _ _ _ _ hm | exact hm
    | (rw [Memory.wf_iff] at *; refine ⟨?_, ?_, ?_, ?_, ?_, ?_⟩) | apply tabWf_write | apply tabWf_set
    | apply tabWf_clear | apply tabWf_map | apply tabWf_filter | apply markDirty_wf | exact hm.1 | exact hm.2.1
    | exact hm.2.2.1 | exact hm.2.2.2.1 | exact hm.2.2.2.2.1 | exact hm.2.2.2.2.2 | apply remapEntries_kept

theorem moveFrame_kept {s₀ : State} {s : State} {fg : Nat × Nat} (hk : Kept s₀ s) : Kept s₀ (moveFrame s fg) := by
  unfold moveFrame
  repeat' with_reducible first
    | assumption | intro _ | dsimp only | refine Kept.onMem _ (fun m hm => ?_) ?_ | exact physWrite_wf _ _ _ hm
    | exact cwStore_wf _ _ _ _ _ hm | exact baleStore_wf _ _ _ _ hm | apply copyFrame_wf | exact hm
    | (rw [Memory.wf_iff] at *; refine ⟨?_, ?_, ?_, ?_, ?_, ?_⟩) | apply tabWf_write | apply tabWf_set
    | apply tabWf_clear | apply tabWf_map | apply tabWf_filter | apply markDirty_wf | exact hm.1 | exact hm.2.1
    | exact hm.2.2.1 | exact hm.2.2.2.1 | exact hm.2.2.2.2.1 | exact hm.2.2.2.2.2 | apply remapEntries_kept

theorem withdrawFrame_kept {s₀ : State} {s : State} {f : Nat} (hk : Kept s₀ s) : Kept s₀ (withdrawFrame s f) := by
  unfold withdrawFrame
  repeat' with_reducible first
    | assumption | intro _ | dsimp only | apply Kept.onPart | refine Kept.forAll _ ?_ ?_ | apply remapEntries_kept

theorem relocateLogs_kept {s₀ : State} {moves : List (Nat × Nat)} {s : State}
    (hk : Kept s₀ s) : Kept s₀ (relocateLogs moves s) := by
  unfold relocateLogs
  repeat' with_reducible first
    | assumption | intro _ | dsimp only | refine Kept.foldl _ ?_ ?_ | refine Kept.foldlPair _ ?_ ?_
    | apply queueLog_kept | refine Kept.of_pair (by assumption) ?_

theorem chanPruned_kept {s₀ : State} {c : CisIx} {ch : Fin 64} {cause : PruneCause} {s : State}
    (hk : Kept s₀ s) : Kept s₀ (chanPruned c ch cause s) := by
  unfold chanPruned
  repeat' with_reducible first
    | assumption | intro _ | dsimp only | refine Kept.onMem _ (fun m hm => ?_) ?_ | exact physWrite_wf _ _ _ hm
    | exact cwStore_wf _ _ _ _ _ hm | exact baleStore_wf _ _ _ _ hm | exact hm
    | (rw [Memory.wf_iff] at *; refine ⟨?_, ?_, ?_, ?_, ?_, ?_⟩) | apply tabWf_write | apply tabWf_set
    | apply tabWf_clear | apply tabWf_map | apply tabWf_filter | apply markDirty_wf | exact hm.1 | exact hm.2.1
    | exact hm.2.2.1 | exact hm.2.2.2.1 | exact hm.2.2.2.2.1 | exact hm.2.2.2.2.2 | refine Kept.forAll _ ?_ ?_
    | apply Kept.getD | apply raiseCapacity_kept | apply recordPrune_kept | apply onChan_kept

theorem execRelocationComplete_kept {s₀ : State} {c : CisIx} {ch : Fin 64} {s : State}
    (hk : Kept s₀ s) : KeptOut s₀ (execRelocationComplete c ch s) := by
  unfold execRelocationComplete
  repeat' with_reducible first
    | assumption | apply KeptOut.next | intro _ | split | dsimp only | refine Kept.foldl _ ?_ ?_
    | apply moveFrame_kept | apply withdrawFrame_kept | apply relocateLogs_kept | apply chanPruned_kept
    | refine Kept.of_pair (by assumption) ?_

theorem postCarrier_kept {s₀ : State} {d : BitVec 512} {s : State} (hk : Kept s₀ s) : Kept s₀ (postCarrier d s) := by
  unfold postCarrier
  repeat' with_reducible first | assumption | intro _ | dsimp only | apply Kept.onPart

theorem execCarrierCopy_kept {s₀ : State} {d : BitVec 512} {s : State}
    (hk : Kept s₀ s) : KeptOut s₀ (execCarrierCopy d s) := by
  unfold execCarrierCopy
  repeat' with_reducible first | assumption | apply KeptOut.next | split | dsimp only | apply postCarrier_kept

theorem execCarrierWriteback_kept {s₀ : State} {d : BitVec 512} {s : State}
    (hk : Kept s₀ s) : KeptOut s₀ (execCarrierWriteback d s) := by
  unfold execCarrierWriteback
  repeat' with_reducible first | assumption | apply KeptOut.next | split | dsimp only | apply postCarrier_kept

theorem execCarrierFill_kept {s₀ : State} {d : BitVec 512} {s : State}
    (hk : Kept s₀ s) : KeptOut s₀ (execCarrierFill d s) := by
  unfold execCarrierFill
  repeat' with_reducible first | assumption | apply KeptOut.next | split | dsimp only | apply postCarrier_kept

theorem execCarrierFlush_kept {s₀ : State} {d : BitVec 512} {s : State}
    (hk : Kept s₀ s) : KeptOut s₀ (execCarrierFlush d s) := by
  unfold execCarrierFlush
  repeat' with_reducible first | assumption | apply KeptOut.next | split | dsimp only | apply postCarrier_kept

theorem onCarrier_kept {s₀ : State} {q : PartIx} {n : Nat} {f : CarrierOp → CarrierOp} {s : State}
    (hk : Kept s₀ s) : Kept s₀ (onCarrier q n f s) := by
  unfold onCarrier
  repeat' with_reducible first | assumption | intro _ | split | dsimp only | apply Kept.onPart

theorem execCarrierDescriptorStart_kept {s₀ : State} {q : PartIx} {n : Nat} {s : State}
    (hk : Kept s₀ s) : KeptOut s₀ (execCarrierDescriptorStart q n s) := by
  unfold execCarrierDescriptorStart
  repeat' with_reducible first
    | assumption | apply KeptOut.next | intro _ | split | dsimp only | apply Kept.getD | apply onCarrier_kept

theorem setDirty_kept {s₀ : State} {a : Nat} {m : BitVec 16} {s : State}
    (hk : Kept s₀ s) : Kept s₀ (setDirty a m s) := by
  unfold setDirty
  repeat' with_reducible first
    | assumption | intro _ | dsimp only | refine Kept.onMem _ (fun m hm => ?_) ?_ | exact physWrite_wf _ _ _ hm
    | exact cwStore_wf _ _ _ _ _ hm | exact baleStore_wf _ _ _ _ hm | exact hm
    | (rw [Memory.wf_iff] at *; refine ⟨?_, ?_, ?_, ?_, ?_, ?_⟩) | apply tabWf_write | apply tabWf_set
    | apply tabWf_clear | apply tabWf_map | apply tabWf_filter | apply markDirty_wf | exact hm.1 | exact hm.2.1
    | exact hm.2.2.1 | exact hm.2.2.2.1 | exact hm.2.2.2.2.1 | exact hm.2.2.2.2.2

theorem carrierWrite_kept {s₀ : State} {q : PartIx} {d : BitVec 512} {b : Nat} {bs : List Byte} {s : State}
    (hk : Kept s₀ s) : Kept s₀ (carrierWrite q d b bs s).1 := by
  unfold carrierWrite
  repeat' with_reducible first
    | assumption | split | dsimp only | apply devWrite_kept | apply setDirty_kept
    | refine Kept.of_pair (by assumption) ?_

theorem storedRead_kept {s₀ : State} {sector : Nat} {flips : Flips} {s : State}
    (hk : Kept s₀ s) : Kept s₀ (storedRead sector flips s).1 := by
  unfold storedRead
  repeat' with_reducible first
    | assumption | intro _ | split | dsimp only | refine Kept.onMem _ (fun m hm => ?_) ?_
    | exact physWrite_wf _ _ _ hm | exact cwStore_wf _ _ _ _ _ hm | exact baleStore_wf _ _ _ _ hm | exact hm
    | (rw [Memory.wf_iff] at *; refine ⟨?_, ?_, ?_, ?_, ?_, ?_⟩) | apply tabWf_write | apply tabWf_set
    | apply tabWf_clear | apply tabWf_map | apply tabWf_filter | apply markDirty_wf | exact hm.1 | exact hm.2.1
    | exact hm.2.2.1 | exact hm.2.2.2.1 | exact hm.2.2.2.2.1 | exact hm.2.2.2.2.2 | refine Kept.foldl _ ?_ ?_
    | refine Kept.foldlPair _ ?_ ?_ | apply countCe_kept | apply countChk_kept | apply countUe_kept
    | refine Kept.of_pair (by assumption) ?_

theorem storedCopy_kept {s₀ : State} {f g : Nat} {flips : Flips} {s : State} {x1 : List Nat}
    (hk : Kept s₀ s) : Kept s₀ (storedCopy f g flips s x1).1 := by
  induction x1 generalizing s with
  | nil =>
    unfold storedCopy
    repeat' with_reducible first
      | assumption | intro _ | split | dsimp only | refine Kept.onMem _ (fun m hm => ?_) ?_
      | exact physWrite_wf _ _ _ hm | exact cwStore_wf _ _ _ _ _ hm | exact baleStore_wf _ _ _ _ hm
      | apply clearTail_wf | apply cwStoreAll_wf | exact hm
      | (rw [Memory.wf_iff] at *; refine ⟨?_, ?_, ?_, ?_, ?_, ?_⟩) | apply tabWf_write | apply tabWf_set
      | apply tabWf_clear | apply tabWf_map | apply tabWf_filter | apply markDirty_wf | exact hm.1 | exact hm.2.1
      | exact hm.2.2.1 | exact hm.2.2.2.1 | exact hm.2.2.2.2.1 | exact hm.2.2.2.2.2 | apply storedRead_kept
      | refine Kept.of_pair (by assumption) ?_
  | cons x t ih =>
    unfold storedCopy
    repeat' with_reducible first
      | assumption | intro _ | split | apply ih | dsimp only | refine Kept.onMem _ (fun m hm => ?_) ?_
      | exact physWrite_wf _ _ _ hm | exact cwStore_wf _ _ _ _ _ hm | exact baleStore_wf _ _ _ _ hm
      | apply clearTail_wf | apply cwStoreAll_wf | exact hm
      | (rw [Memory.wf_iff] at *; refine ⟨?_, ?_, ?_, ?_, ?_, ?_⟩) | apply tabWf_write | apply tabWf_set
      | apply tabWf_clear | apply tabWf_map | apply tabWf_filter | apply markDirty_wf | exact hm.1 | exact hm.2.1
      | exact hm.2.2.1 | exact hm.2.2.2.1 | exact hm.2.2.2.2.1 | exact hm.2.2.2.2.2 | apply storedRead_kept
      | refine Kept.of_pair (by assumption) ?_

theorem copyT3_kept {s₀ : State} {q : PartIx} {d : BitVec 512} {a b : Nat} {flips : Flips} {s : State}
    (hk : Kept s₀ s) : Kept s₀ (copyT3 q d a b flips s).1 := by
  unfold copyT3
  repeat' with_reducible first
    | assumption | split | dsimp only | apply translate_kept | apply cisPerfAdd_kept | apply cisCheck_kept
    | apply storedCopy_kept | refine Kept.of_pair (by assumption) ?_

theorem pageCopy_kept {s₀ : State} {q : PartIx} {d : BitVec 512} {a b : Nat} {flips : Flips} {s : State}
    (hk : Kept s₀ s) : Kept s₀ (pageCopy q d a b flips s).1 := by
  unfold pageCopy
  repeat' with_reducible first
    | assumption | split | dsimp only | apply devRead_kept | apply carrierWrite_kept | apply copyT3_kept
    | refine Kept.of_pair (by assumption) ?_

theorem pageWriteback_kept {s₀ : State} {q : PartIx} {d : BitVec 512} {a b : Nat} {s : State} {x1 : List Nat}
    (hk : Kept s₀ s) : Kept s₀ (pageWriteback q d a b s x1).1 := by
  induction x1 generalizing s with
  | nil =>
    unfold pageWriteback
    repeat' with_reducible first
      | assumption | intro _ | split | dsimp only | apply devWrite_kept | apply setDirty_kept
      | refine Kept.of_pair (by assumption) ?_
  | cons x t ih =>
    unfold pageWriteback
    repeat' with_reducible first
      | assumption | intro _ | split | apply ih | dsimp only | apply devWrite_kept | apply setDirty_kept
      | refine Kept.of_pair (by assumption) ?_

theorem pageFlush_kept {s₀ : State} {q : PartIx} {b : Nat} {s : State}
    (hk : Kept s₀ s) : Kept s₀ (pageFlush q b s).1 := by
  unfold pageFlush
  repeat' with_reducible first
    | assumption | split | dsimp only | apply translate_kept | refine Kept.of_pair (by assumption) ?_

theorem pageAction_kept {s₀ : State} {q : PartIx} {d : BitVec 512} {j : Nat} {flips : Flips} {s : State}
    (hk : Kept s₀ s) : Kept s₀ (pageAction q d j flips s).1 := by
  unfold pageAction
  repeat' with_reducible first
    | assumption | split | dsimp only | apply carrierWrite_kept | apply pageCopy_kept | apply pageWriteback_kept
    | apply pageFlush_kept | refine Kept.of_pair (by assumption) ?_

theorem execCarrierPageComplete_kept {s₀ : State} {q : PartIx} {n : Nat} {page : Nat} {flips : Flips} {s : State}
    (hk : Kept s₀ s) : KeptOut s₀ (execCarrierPageComplete q n page flips s) := by
  unfold execCarrierPageComplete
  repeat' with_reducible first
    | assumption | apply KeptOut.next | intro _ | split | dsimp only | apply cisPerfAdd_kept | apply onCarrier_kept
    | apply pageAction_kept | refine Kept.of_pair (by assumption) ?_

theorem execCarrierComplete_kept {s₀ : State} {q : PartIx} {n : Nat} {s : State}
    (hk : Kept s₀ s) : KeptOut s₀ (execCarrierComplete q n s) := by
  unfold execCarrierComplete
  repeat' with_reducible first | assumption | apply KeptOut.next | intro _ | split | dsimp only | apply Kept.onPart

theorem stopCarriers_kept {s₀ : State} {q : PartIx} {s : State} (hk : Kept s₀ s) : Kept s₀ (stopCarriers q s) := by
  unfold stopCarriers
  repeat' with_reducible first | assumption | intro _ | split | dsimp only | apply Kept.onPart

theorem execXltInvalidate_kept {s₀ : State} {c : CisIx} {w : Word} {s : State}
    (hk : Kept s₀ s) : KeptOut s₀ (execXltInvalidate c w s) := by
  unfold execXltInvalidate
  repeat' with_reducible first | assumption | apply KeptOut.next | intro _ | split | dsimp only | apply Kept.onCis

theorem execXltInvalidateDone_kept {s₀ : State} {c : CisIx} {s : State}
    (hk : Kept s₀ s) : KeptOut s₀ (execXltInvalidateDone c s) := by
  unfold execXltInvalidateDone
  repeat' with_reducible first | assumption | apply KeptOut.next | intro _ | split | dsimp only | apply Kept.onCis

theorem execXltMissFill_kept {s₀ : State} {c : CisIx} {q : PartIx} {v : BitVec 24} {s : State}
    (hk : Kept s₀ s) : KeptOut s₀ (execXltMissFill c q v s) := by
  unfold execXltMissFill
  repeat' with_reducible first | assumption | apply KeptOut.next | intro _ | split | dsimp only | apply xltTouch_kept

theorem onQp_kept {s₀ : State} {f : FnIx} {i : QpIx} {g : Qp → Qp} {s : State}
    (hk : Kept s₀ s) : Kept s₀ (onQp f i g s) := by
  unfold onQp
  repeat' with_reducible first | assumption | intro _ | dsimp only | apply Kept.onFunc

theorem answerNow_kept {s₀ : State} {f : FnIx} {i : QpIx} {a : Answer} {s : State}
    (hk : Kept s₀ s) : Kept s₀ (answerNow f i a s) := by
  unfold answerNow
  repeat' with_reducible first | assumption | intro _ | dsimp only | apply onQp_kept

theorem takeUp_kept {s₀ : State} {f : FnIx} {i : QpIx} {s : State} (hk : Kept s₀ s) : Kept s₀ (takeUp f i s) := by
  unfold takeUp
  repeat' with_reducible first | assumption | intro _ | dsimp only | apply onQp_kept

theorem answerWaiting_kept {s₀ : State} {p : FnIx → BitVec 1024 → Bool} {a : Answer} {s : State}
    (hk : Kept s₀ s) : Kept s₀ (answerWaiting p a s) := by
  unfold answerWaiting
  repeat' with_reducible first
    | assumption | intro _ | split | dsimp only | refine Kept.forAll _ ?_ ?_ | apply onQp_kept

theorem giveEntry_kept {s₀ : State} {f : FnIx} {i : QpIx} {e : CqEntry} {s : State}
    (hk : Kept s₀ s) : Kept s₀ (giveEntry f i e s) := by
  unfold giveEntry
  repeat' with_reducible first | assumption | intro _ | split | dsimp only | apply onQp_kept

theorem execSqDoorbell_kept {s₀ : State} {f : FnIx} {i : QpIx} {v : Word} {s : State}
    (hk : Kept s₀ s) : KeptOut s₀ (execSqDoorbell f i v s) := by
  unfold execSqDoorbell
  repeat' with_reducible first | assumption | apply KeptOut.next | intro _ | split | dsimp only | apply onQp_kept

theorem execCqDoorbell_kept {s₀ : State} {f : FnIx} {i : QpIx} {v : Word} {s : State}
    (hk : Kept s₀ s) : KeptOut s₀ (execCqDoorbell f i v s) := by
  unfold execCqDoorbell
  repeat' with_reducible first | assumption | apply KeptOut.next | intro _ | split | dsimp only | apply onQp_kept

theorem logAer_kept {s₀ : State} {f : FnIx} {code : BitVec 16} {s : State}
    (hk : Kept s₀ s) : Kept s₀ (logAer f code s) := by
  unfold logAer
  repeat' with_reducible first | assumption | intro _ | dsimp only | apply Kept.onFunc

theorem execSubmissionFetch_kept {s₀ : State} {f : FnIx} {i : QpIx} {dmaOk : Bool} {s : State}
    (hk : Kept s₀ s) : KeptOut s₀ (execSubmissionFetch f i dmaOk s) := by
  unfold execSubmissionFetch
  repeat' with_reducible first
    | assumption | apply KeptOut.next | intro _ | split | dsimp only | apply onQp_kept | apply logAer_kept

theorem writeCq_kept {s₀ : State} {x : Qp} {csn : Word} {e : CqEntry} {s : State}
    (hk : Kept s₀ s) : Kept s₀ (writeCq x csn e s) := by
  unfold writeCq
  repeat' with_reducible first | assumption | dsimp only | apply hostWrite_kept

theorem execCompletionWrite_kept {s₀ : State} {f : FnIx} {i : QpIx} {s : State}
    (hk : Kept s₀ s) : KeptOut s₀ (execCompletionWrite f i s) := by
  unfold execCompletionWrite
  repeat' with_reducible first
    | assumption | apply KeptOut.next | intro _ | split | dsimp only | apply raiseEvent_kept | apply onQp_kept
    | apply writeCq_kept

theorem execQpAttach_kept {s₀ : State} {f : FnIx} {i : QpIx} {s : State}
    (hk : Kept s₀ s) : KeptOut s₀ (execQpAttach f i s) := by
  unfold execQpAttach
  repeat' with_reducible first | assumption | apply KeptOut.next | intro _ | split | dsimp only | apply onQp_kept

theorem replayJournal_kept {s₀ : State} {x : Qp} {s : State} (hk : Kept s₀ s) : Kept s₀ (replayJournal x s) := by
  unfold replayJournal
  repeat' with_reducible first
    | assumption | intro _ | dsimp only | refine Kept.foldl _ ?_ ?_ | refine Kept.foldlPair _ ?_ ?_
    | apply writeCq_kept | refine Kept.of_pair (by assumption) ?_

theorem execQpResumeAttach_kept {s₀ : State} {f : FnIx} {i : QpIx} {s : State}
    (hk : Kept s₀ s) : KeptOut s₀ (execQpResumeAttach f i s) := by
  unfold execQpResumeAttach
  repeat' with_reducible first
    | assumption | apply KeptOut.next | intro _ | split | dsimp only | apply raiseEvent_kept | apply onQp_kept
    | apply replayJournal_kept

theorem execQpDetach_kept {s₀ : State} {f : FnIx} {i : QpIx} {s : State}
    (hk : Kept s₀ s) : KeptOut s₀ (execQpDetach f i s) := by
  unfold execQpDetach
  repeat' with_reducible first | assumption | apply KeptOut.next | intro _ | dsimp only | apply onQp_kept

theorem execDetachComplete_kept {s₀ : State} {f : FnIx} {i : QpIx} {s : State}
    (hk : Kept s₀ s) : KeptOut s₀ (execDetachComplete f i s) := by
  unfold execDetachComplete
  repeat' with_reducible first | assumption | apply KeptOut.next | intro _ | split | dsimp only | apply onQp_kept

theorem dropQueues_kept {s₀ : State} {f : FnIx} {s : State} (hk : Kept s₀ s) : Kept s₀ (dropQueues f s) := by
  unfold dropQueues
  repeat' with_reducible first | assumption | intro _ | dsimp only | refine Kept.forAll _ ?_ ?_ | apply onQp_kept

theorem lowerPlan_kept {s₀ : State} {q : PartIx} {s : State} (hk : Kept s₀ s) : Kept s₀ (lowerPlan q s) := by
  unfold lowerPlan
  repeat' with_reducible first | assumption | intro _ | dsimp only | apply Kept.onPart | apply Kept.getD

theorem storeFinishes_kept {s₀ : State} {q : PartIx} {s : State} (hk : Kept s₀ s) : Kept s₀ (storeFinishes q s) := by
  unfold storeFinishes
  repeat' with_reducible first | assumption | intro _ | split | dsimp only | apply Kept.onPart

theorem clockKick_kept {s₀ : State} {b : BedIx} {s : State} (hk : Kept s₀ s) : Kept s₀ (clockKick b s) := by
  unfold clockKick
  repeat' with_reducible first | assumption | intro _ | split | dsimp only | apply Kept.onBed

theorem kickClocks_kept {s₀ : State} {s : State} (hk : Kept s₀ s) : Kept s₀ (kickClocks s) := by
  unfold kickClocks
  repeat' with_reducible first | assumption | intro _ | dsimp only | refine Kept.forAll _ ?_ ?_ | apply clockKick_kept

theorem setTarget_kept {s₀ : State} {b : BedIx} {step : BitVec 5} {s : State}
    (hk : Kept s₀ s) : Kept s₀ (setTarget b step s) := by
  unfold setTarget
  repeat' with_reducible first | assumption | intro _ | split | dsimp only | apply Kept.onBed | apply clockKick_kept

theorem execBedClockTarget_kept {s₀ : State} {b : BedIx} {step : BitVec 5} {s : State}
    (hk : Kept s₀ s) : KeptOut s₀ (execBedClockTarget b step s) := by
  unfold execBedClockTarget
  repeat' with_reducible first | assumption | apply KeptOut.next | dsimp only | apply setTarget_kept

theorem execClockStepComplete_kept {s₀ : State} {b : BedIx} {s : State}
    (hk : Kept s₀ s) : KeptOut s₀ (execClockStepComplete b s) := by
  unfold execClockStepComplete
  repeat' with_reducible first
    | assumption | apply KeptOut.next | intro _ | split | dsimp only | apply Kept.onBed | apply clockKick_kept

theorem onJob_kept {s₀ : State} {q : PartIx} {id : Word} {f : Job → Job} {s : State}
    (hk : Kept s₀ s) : Kept s₀ (onJob q id f s) := by
  unfold onJob
  repeat' with_reducible first | assumption | intro _ | dsimp only | apply Kept.onPart

theorem onJobs_kept {s₀ : State} {q : PartIx} {p : Job → Bool} {f : Job → Job} {s : State}
    (hk : Kept s₀ s) : Kept s₀ (onJobs q p f s) := by
  unfold onJobs
  repeat' with_reducible first | assumption | intro _ | dsimp only | apply Kept.onPart

theorem countJob_kept {s₀ : State} {q : PartIx} {i : Fin 8} {s : State}
    (hk : Kept s₀ s) : Kept s₀ (countJob q i s) := by
  unfold countJob
  repeat' with_reducible first | assumption | intro _ | dsimp only | apply Kept.onPart

theorem countExec_kept {s₀ : State} {q : PartIx} {i : Fin 4} {n : Nat} {s : State}
    (hk : Kept s₀ s) : Kept s₀ (countExec q i n s) := by
  unfold countExec
  repeat' with_reducible first | assumption | intro _ | dsimp only | apply Kept.onPart

theorem writeSlot_kept {s₀ : State} {q : PartIx} {slot : BitVec 8} {e : BitVec 25} {s : State}
    (hk : Kept s₀ s) : Kept s₀ (writeSlot q slot e s) := by
  unfold writeSlot
  repeat' with_reducible first
    | assumption | intro _ | dsimp only | apply Kept.onBed | apply Kept.onCis | refine Kept.forAll _ ?_ ?_

theorem missCuts_kept {s₀ : State} {q : PartIx} {id : Word} {s : State}
    (hk : Kept s₀ s) : Kept s₀ (missCuts q id s) := by
  unfold missCuts
  repeat' with_reducible first | assumption | intro _ | split | dsimp only | apply Kept.onPart

theorem rewindCuts_kept {s₀ : State} {q : PartIx} {id : Word} {s : State}
    (hk : Kept s₀ s) : Kept s₀ (rewindCuts q id s) := by
  unfold rewindCuts
  repeat' with_reducible first | assumption | intro _ | split | dsimp only | apply Kept.onPart

theorem readyCuts_kept {s₀ : State} {q : PartIx} {id : Word} {s : State}
    (hk : Kept s₀ s) : Kept s₀ (readyCuts q id s) := by
  unfold readyCuts
  repeat' with_reducible first | assumption | intro _ | split | dsimp only | apply Kept.onPart | apply raiseDebug_kept

theorem giveNotice_kept {s₀ : State} {q : PartIx} {j : Job} {kind r0 : Nat} {s : State}
    (hk : Kept s₀ s) : Kept s₀ (giveNotice q j kind r0 s) := by
  unfold giveNotice
  repeat' with_reducible first | assumption | dsimp only | apply raiseNotice_kept | apply giveEntry_kept

theorem endJob_kept {s₀ : State} {q : PartIx} {id : Word} {l : Life} {bytes index : Nat} {post : Bool} {s : State}
    (hk : Kept s₀ s) : Kept s₀ (endJob q id l bytes index post s) := by
  unfold endJob
  repeat' with_reducible first
    | assumption | split | dsimp only | apply answerWaiting_kept | apply giveEntry_kept | apply onJob_kept
    | apply countJob_kept | apply writeSlot_kept | apply missCuts_kept

theorem takePlot_kept {s₀ : State} {p : PlotIx} {s : State} (hk : Kept s₀ s) : Kept s₀ (takePlot p s) := by
  unfold takePlot
  repeat' with_reducible first | assumption | intro _ | split | dsimp only | apply Kept.onPlot

theorem seedNew_kept {s₀ : State} {key : Nat} {old new : List (Nat × PlotIx)} {s : State}
    (hk : Kept s₀ s) : Kept s₀ (seedNew key old new s) := by
  unfold seedNew
  repeat' with_reducible first
    | assumption | intro _ | split | dsimp only | refine Kept.forAll _ ?_ ?_ | apply seedPlot_kept

theorem swapPackage_kept {s₀ : State} {q : PartIx} {handle : Nat} {s : State}
    (hk : Kept s₀ s) : Kept s₀ (swapPackage q handle s) := by
  unfold swapPackage
  repeat' with_reducible first
    | assumption | intro _ | split | dsimp only | apply Kept.onPart | refine Kept.forAll _ ?_ ?_
    | apply reloadDefaults_kept | apply countExec_kept

theorem planTargets_kept {s₀ : State} {q : PartIx} {s : State} (hk : Kept s₀ s) : Kept s₀ (planTargets q s) := by
  unfold planTargets
  repeat' with_reducible first | assumption | intro _ | dsimp only | refine Kept.forAll _ ?_ ?_ | apply setTarget_kept

theorem startPass_kept {s₀ : State} {q : PartIx} {s : State} (hk : Kept s₀ s) : Kept s₀ (startPass q s) := by
  unfold startPass
  repeat' with_reducible first
    | assumption | intro _ | split | dsimp only | refine Kept.forAll _ ?_ ?_ | apply Kept.getD | apply onJobs_kept
    | apply countExec_kept | apply takePlot_kept | apply seedNew_kept | apply swapPackage_kept
    | apply planTargets_kept

theorem dispatch_kept {s₀ : State} {q : PartIx} {s : State} (hk : Kept s₀ s) : Kept s₀ (dispatch q s) := by
  unfold dispatch
  repeat' with_reducible first | assumption | split | dsimp only | apply startPass_kept

theorem flushTasks_kept {s₀ : State} {ts : List (Nat × PlotIx)} {s : State}
    (hk : Kept s₀ s) : Kept s₀ (flushTasks ts s) := by
  unfold flushTasks
  repeat' with_reducible first
    | assumption | intro _ | split | dsimp only | refine Kept.forAll _ ?_ ?_ | apply flushPlot_kept

theorem stopBatch_kept {s₀ : State} {q : PartIx} {bySuspend : Bool} {maxUs : Word} {s : State}
    (hk : Kept s₀ s) : Kept s₀ (stopBatch q bySuspend maxUs s) := by
  unfold stopBatch
  repeat' with_reducible first | assumption | intro _ | dsimp only | apply onJobs_kept | apply flushTasks_kept

theorem switchJob_kept {s₀ : State} {q : PartIx} {id : Word} {s : State}
    (hk : Kept s₀ s) : Kept s₀ (switchJob q id s) := by
  unfold switchJob
  repeat' with_reducible first
    | assumption | intro _ | split | dsimp only | apply onJob_kept | apply missCuts_kept | apply giveNotice_kept

theorem acceptJob_kept {s₀ : State} {f : FnIx} {i : QpIx} {e d : BitVec 1024} {codec : BitVec 512} {q : PartIx}
    {step : Nat} {p : Plan} {wc : Nat} {s : State}
    (hk : Kept s₀ s) : Kept s₀ (acceptJob f i e d codec q step p wc s) := by
  unfold acceptJob
  repeat' with_reducible first
    | assumption | intro _ | split | dsimp only | apply Kept.onPart | apply Kept.getD | apply countJob_kept
    | apply writeSlot_kept

theorem dispatchNew_kept {s₀ : State} {q : PartIx} {id : Word} {s : State}
    (hk : Kept s₀ s) : Kept s₀ (dispatchNew q id s) := by
  unfold dispatchNew
  repeat' with_reducible first
    | assumption | intro _ | split | dsimp only | apply onJob_kept | apply countExec_kept | apply startPass_kept
    | apply stopBatch_kept

theorem execSubmitJob_kept {s₀ : State} {f : FnIx} {i : QpIx} {dmaOk : Bool} {s : State}
    (hk : Kept s₀ s) : KeptOut s₀ (execSubmitJob f i dmaOk s) := by
  unfold execSubmitJob
  repeat' with_reducible first
    | assumption | apply KeptOut.next | split | dsimp only | apply answerNow_kept | apply countJob_kept
    | apply acceptJob_kept | apply dispatchNew_kept

theorem cancelJob_kept {s₀ : State} {q : PartIx} {j : Job} {s : State}
    (hk : Kept s₀ s) : Kept s₀ (cancelJob q j s) := by
  unfold cancelJob
  repeat' with_reducible first
    | assumption | intro _ | split | dsimp only | apply onJob_kept | apply endJob_kept | apply dispatch_kept
    | apply flushTasks_kept

theorem execCancel_kept {s₀ : State} {f : FnIx} {i : QpIx} {s : State}
    (hk : Kept s₀ s) : KeptOut s₀ (execCancel f i s) := by
  unfold execCancel
  repeat' with_reducible first
    | assumption | apply KeptOut.next | split | dsimp only | apply answerNow_kept | apply cancelJob_kept

theorem suspendJob_kept {s₀ : State} {q : PartIx} {j : Job} {maxUs : Word} {s : State}
    (hk : Kept s₀ s) : Kept s₀ (suspendJob q j maxUs s) := by
  unfold suspendJob
  repeat' with_reducible first
    | assumption | intro _ | split | dsimp only | apply answerWaiting_kept | apply onJob_kept | apply stopBatch_kept

theorem execSuspend_kept {s₀ : State} {f : FnIx} {i : QpIx} {s : State}
    (hk : Kept s₀ s) : KeptOut s₀ (execSuspend f i s) := by
  unfold execSuspend
  repeat' with_reducible first
    | assumption | apply KeptOut.next | split | dsimp only | apply answerNow_kept | apply takeUp_kept
    | apply suspendJob_kept

theorem execResume_kept {s₀ : State} {f : FnIx} {i : QpIx} {s : State}
    (hk : Kept s₀ s) : KeptOut s₀ (execResume f i s) := by
  unfold execResume
  repeat' with_reducible first
    | assumption | apply KeptOut.next | split | dsimp only | apply answerNow_kept | apply takeUp_kept
    | apply onJob_kept

theorem execSuspendExpire_kept {s₀ : State} {q : PartIx} {job : Word} {s : State}
    (hk : Kept s₀ s) : KeptOut s₀ (execSuspendExpire q job s) := by
  unfold execSuspendExpire
  repeat' with_reducible first | assumption | apply KeptOut.next | split | dsimp only | apply onJob_kept

theorem execQueryJobs_kept {s₀ : State} {f : FnIx} {i : QpIx} {dmaOk : Bool} {s : State}
    (hk : Kept s₀ s) : KeptOut s₀ (execQueryJobs f i dmaOk s) := by
  unfold execQueryJobs
  repeat' with_reducible first
    | assumption | apply KeptOut.next | intro _ | split | dsimp only | apply hostWrite_kept | apply answerNow_kept

theorem openGate_kept {s₀ : State} {q : PartIx} {s : State} (hk : Kept s₀ s) : Kept s₀ (openGate q s) := by
  unfold openGate
  repeat' with_reducible first
    | assumption | intro _ | split | dsimp only | apply Kept.onCis | apply Kept.onPart | refine Kept.forAll _ ?_ ?_

theorem freeStreams_kept {s₀ : State} {q : PartIx} {s : State} (hk : Kept s₀ s) : Kept s₀ (freeStreams q s) := by
  unfold freeStreams
  repeat' with_reducible first | assumption | intro _ | split | dsimp only | refine Kept.fields ?_ ?_ ?_ ?_
  all_goals rfl

theorem dropSlots_kept {s₀ : State} {q : PartIx} {s : State} (hk : Kept s₀ s) : Kept s₀ (dropSlots q s) := by
  unfold dropSlots
  repeat' with_reducible first
    | assumption | intro _ | split | dsimp only | apply Kept.onBed | apply Kept.onCis | refine Kept.forAll _ ?_ ?_

theorem cancelAll_kept {s₀ : State} {q : PartIx} {s : State} (hk : Kept s₀ s) : Kept s₀ (cancelAll q s) := by
  unfold cancelAll
  repeat' with_reducible first
    | assumption | intro _ | dsimp only | refine Kept.foldl _ ?_ ?_ | apply endJob_kept
    | refine Kept.of_pair (by assumption) ?_

theorem stopPartition_kept {s₀ : State} {q : PartIx} {s : State} (hk : Kept s₀ s) : Kept s₀ (stopPartition q s) := by
  unfold stopPartition
  repeat' with_reducible first
    | assumption | intro _ | split | dsimp only | apply Kept.onPart | refine Kept.forAll _ ?_ ?_
    | apply flushPlot_kept | apply stopCarriers_kept | apply openGate_kept | apply freeStreams_kept

theorem beginReset_kept {s₀ : State} {q : PartIx} {s : State} (hk : Kept s₀ s) : Kept s₀ (beginReset q s) := by
  unfold beginReset
  repeat' with_reducible first
    | assumption | intro _ | split | dsimp only | apply Kept.onPart | apply dropQueues_kept | apply dropSlots_kept
    | apply cancelAll_kept | apply stopPartition_kept

theorem continueReset_kept {s₀ : State} {q : PartIx} {s : State} (hk : Kept s₀ s) : Kept s₀ (continueReset q s) := by
  unfold continueReset
  repeat' with_reducible first
    | assumption | intro _ | split | dsimp only | apply Kept.onPart | apply stopPartition_kept

theorem clearHaloTags_kept {s₀ : State} {q : PartIx} {s : State} (hk : Kept s₀ s) : Kept s₀ (clearHaloTags q s) := by
  unfold clearHaloTags
  repeat' with_reducible first | assumption | intro _ | dsimp only | apply Kept.onCis

theorem resetEnergy_kept {s₀ : State} {q : PartIx} {s : State} (hk : Kept s₀ s) : Kept s₀ (resetEnergy q s) := by
  unfold resetEnergy
  repeat' with_reducible first
    | assumption | intro _ | dsimp only | apply Kept.onBed | apply Kept.onPart | refine Kept.forAll _ ?_ ?_

theorem clearPartition_kept {s₀ : State} {q : PartIx} {s : State} (hk : Kept s₀ s) : Kept s₀ (clearPartition q s) := by
  unfold clearPartition
  repeat' with_reducible first
    | assumption | intro _ | split | dsimp only | apply Kept.onPart | refine Kept.forAll _ ?_ ?_
    | apply discardMirror_kept | apply resetPlot_kept | apply clearHaloTags_kept | apply resetEnergy_kept

theorem resetAcknowledged_kept {s₀ : State} {q : PartIx} {s : State}
    (hk : Kept s₀ s) : Kept s₀ (resetAcknowledged q s) := by
  unfold resetAcknowledged
  repeat' with_reducible first | assumption | split | dsimp only | apply clearPartition_kept

theorem zeroRange_kept {s₀ : State} {a n : Nat} {s : State} (hk : Kept s₀ s) : Kept s₀ (zeroRange a n s) := by
  unfold zeroRange
  repeat' with_reducible first
    | assumption | intro _ | dsimp only | refine Kept.onMem _ (fun m hm => ?_) ?_ | exact physWrite_wf _ _ _ hm
    | exact cwStore_wf _ _ _ _ _ hm | exact baleStore_wf _ _ _ _ hm | exact hm
    | (rw [Memory.wf_iff] at *; refine ⟨?_, ?_, ?_, ?_, ?_, ?_⟩) | apply tabWf_write | apply tabWf_set
    | apply tabWf_clear | apply tabWf_map | apply tabWf_filter | apply markDirty_wf | exact hm.1 | exact hm.2.1
    | exact hm.2.2.1 | exact hm.2.2.2.1 | exact hm.2.2.2.2.1 | exact hm.2.2.2.2.2

theorem zeroFrame_kept {s₀ : State} {f : Nat} {s : State} (hk : Kept s₀ s) : Kept s₀ (zeroFrame f s) := by
  unfold zeroFrame
  repeat' with_reducible first
    | assumption | intro _ | dsimp only | refine Kept.onMem _ (fun m hm => ?_) ?_ | exact physWrite_wf _ _ _ hm
    | exact cwStore_wf _ _ _ _ _ hm | exact baleStore_wf _ _ _ _ hm | exact hm
    | (rw [Memory.wf_iff] at *; refine ⟨?_, ?_, ?_, ?_, ?_, ?_⟩) | apply tabWf_write | apply tabWf_set
    | apply tabWf_clear | apply tabWf_map | apply tabWf_filter | apply markDirty_wf | exact hm.1 | exact hm.2.1
    | exact hm.2.2.1 | exact hm.2.2.2.1 | exact hm.2.2.2.2.1 | exact hm.2.2.2.2.2

theorem zeroT3_kept {s₀ : State} {q : PartIx} {s : State} (hk : Kept s₀ s) : Kept s₀ (zeroT3 q s) := by
  unfold zeroT3
  repeat' with_reducible first
    | assumption | intro _ | dsimp only | refine Kept.foldl _ ?_ ?_ | refine Kept.foldlPair _ ?_ ?_
    | apply zeroFrame_kept | refine Kept.of_pair (by assumption) ?_

theorem zeroPartition_kept {s₀ : State} {q : PartIx} {t3 : Bool} {s : State}
    (hk : Kept s₀ s) : Kept s₀ (zeroPartition q t3 s) := by
  unfold zeroPartition
  repeat' with_reducible first
    | assumption | intro _ | split | dsimp only | refine Kept.forAll _ ?_ ?_ | apply zeroRange_kept
    | apply zeroT3_kept

theorem clearReduced_kept {s₀ : State} {q : PartIx} {s : State} (hk : Kept s₀ s) : Kept s₀ (clearReduced q s) := by
  unfold clearReduced
  repeat' with_reducible first
    | assumption | intro _ | split | dsimp only | apply Kept.onPlot | refine Kept.forAll _ ?_ ?_

theorem finishReset_kept {s₀ : State} {q : PartIx} {s : State} (hk : Kept s₀ s) : Kept s₀ (finishReset q s) := by
  unfold finishReset
  repeat' with_reducible first
    | assumption | intro _ | dsimp only | apply Kept.onPart | apply raiseEvent_kept | apply raiseState_kept
    | apply setAdmit_kept | apply answerWaiting_kept | apply clearReduced_kept | refine Kept.fields ?_ ?_ ?_ ?_
  all_goals rfl

theorem execPartitionReset_kept {s₀ : State} {q : PartIx} {why : ResetTrigger} {s : State}
    (hk : Kept s₀ s) : KeptOut s₀ (execPartitionReset q why s) := by
  unfold execPartitionReset
  repeat' with_reducible first | assumption | apply KeptOut.next | split | dsimp only | apply beginReset_kept

theorem execFlr_kept {s₀ : State} {f : FnIx} {s : State} (hk : Kept s₀ s) : KeptOut s₀ (execFlr f s) := by
  unfold execFlr
  repeat' with_reducible first
    | assumption | apply KeptOut.next | intro _ | split | dsimp only | apply Kept.onFunc | apply beginReset_kept
    | refine Kept.of_pair (by assumption) ?_ | refine Kept.fields ?_ ?_ ?_ ?_
  all_goals rfl

theorem execResetPartition_kept {s₀ : State} {f : FnIx} {i : QpIx} {s : State}
    (hk : Kept s₀ s) : KeptOut s₀ (execResetPartition f i s) := by
  unfold execResetPartition
  repeat' with_reducible first
    | assumption | apply KeptOut.next | split | dsimp only | apply takeUp_kept | apply beginReset_kept

theorem execVfEnableChange_kept {s₀ : State} {enable : Bool} {numVfs : BitVec 16} {s : State}
    (hk : Kept s₀ s) : KeptOut s₀ (execVfEnableChange enable numVfs s) := by
  unfold execVfEnableChange
  repeat' with_reducible first
    | assumption | apply KeptOut.next | intro _ | dsimp only | refine Kept.forAll _ ?_ ?_ | apply beginReset_kept
    | refine Kept.fields ?_ ?_ ?_ ?_
  all_goals rfl

theorem execEpochAdvance_kept {s₀ : State} {q : PartIx} {slot : BitVec 8} {s : State}
    (hk : Kept s₀ s) : KeptOut s₀ (execEpochAdvance q slot s) := by
  unfold execEpochAdvance
  repeat' with_reducible first
    | assumption | apply KeptOut.next | intro _ | split | dsimp only | apply onJob_kept | apply writeSlot_kept

theorem rebindPass_kept {s₀ : State} {q : PartIx} {s : State} (hk : Kept s₀ s) : Kept s₀ (rebindPass q s) := by
  unfold rebindPass
  repeat' with_reducible first
    | assumption | intro _ | split | dsimp only | refine Kept.forAll _ ?_ ?_ | apply onJobs_kept
    | apply countExec_kept | apply takePlot_kept | apply seedNew_kept

theorem epochDone_kept {s₀ : State} {q : PartIx} {id : Word} {s : State}
    (hk : Kept s₀ s) : Kept s₀ (epochDone q id s) := by
  unfold epochDone
  repeat' with_reducible first | assumption | intro _ | split | dsimp only | apply onJob_kept | apply rebindPass_kept

theorem execEpochAcknowledged_kept {s₀ : State} {q : PartIx} {slot : BitVec 8} {s : State}
    (hk : Kept s₀ s) : KeptOut s₀ (execEpochAcknowledged q slot s) := by
  unfold execEpochAcknowledged
  repeat' with_reducible first
    | assumption | apply KeptOut.next | split | dsimp only | apply resetAcknowledged_kept | apply epochDone_kept

theorem copyOut_kept {s₀ : State} {q : PartIx} {p : PlotIx} {epoch : Nat} {rs : List (Nat × DWord × Nat)} {s : State}
    (hk : Kept s₀ s) : Kept s₀ (copyOut q p epoch rs s) := by
  unfold copyOut
  repeat' with_reducible first
    | assumption | intro _ | dsimp only | refine Kept.foldl _ ?_ ?_ | refine Kept.foldlPair _ ?_ ?_
    | apply devWrite_kept | refine Kept.of_pair (by assumption) ?_

theorem execHeelIn_kept {s₀ : State} {q : PartIx} {job : Word} {s : State}
    (hk : Kept s₀ s) : KeptOut s₀ (execHeelIn q job s) := by
  unfold execHeelIn
  repeat' with_reducible first
    | assumption | apply KeptOut.next | intro _ | split | dsimp only | refine Kept.foldl _ ?_ ?_ | apply onJob_kept
    | apply copyOut_kept | refine Kept.of_pair (by assumption) ?_

theorem execHeelInComplete_kept {s₀ : State} {q : PartIx} {job : Word} {s : State}
    (hk : Kept s₀ s) : KeptOut s₀ (execHeelInComplete q job s) := by
  unfold execHeelInComplete
  repeat' with_reducible first
    | assumption | apply KeptOut.next | intro _ | split | dsimp only | apply answerWaiting_kept | apply onJob_kept
    | apply dispatch_kept

theorem execVictimResume_kept {s₀ : State} {q : PartIx} {job : Word} {s : State}
    (hk : Kept s₀ s) : KeptOut s₀ (execVictimResume q job s) := by
  unfold execVictimResume
  repeat' with_reducible first
    | assumption | apply KeptOut.next | intro _ | split | dsimp only | refine Kept.forAll _ ?_ ?_
    | refine Kept.foldl _ ?_ ?_ | refine Kept.foldlPair _ ?_ ?_ | apply answerWaiting_kept | apply onJobs_kept
    | apply countExec_kept | apply takePlot_kept | apply swapPackage_kept | refine Kept.of_pair (by assumption) ?_

theorem copyIn_kept {s₀ : State} {q : PartIx} {p : PlotIx} {x1 : List (Nat × DWord × Nat)} {s : State}
    (hk : Kept s₀ s) : Kept s₀ (copyIn q p x1 s).1 := by
  induction x1 generalizing s with
  | nil =>
    unfold copyIn
    repeat' with_reducible first
      | assumption | intro _ | split | dsimp only | apply t0Write_kept | apply devRead_kept
      | refine Kept.of_pair (by assumption) ?_
  | cons x t ih =>
    unfold copyIn
    repeat' with_reducible first
      | assumption | intro _ | split | apply ih | dsimp only | apply t0Write_kept | apply devRead_kept
      | refine Kept.of_pair (by assumption) ?_

theorem restoreTask_kept {s₀ : State} {new : List (Nat × PlotIx)} {q : PartIx} {a : State × Bool} {c : TaskCtx}
    (hk : Kept s₀ a.1) : Kept s₀ (restoreTask new q a c).1 := by
  unfold restoreTask
  repeat' with_reducible first
    | assumption | intro _ | split | dsimp only | apply Kept.onPlot | apply Kept.onBed | refine Kept.foldl _ ?_ ?_
    | refine Kept.foldlPair _ ?_ ?_ | apply copyIn_kept | refine Kept.of_pair (by assumption) ?_

theorem execRestoreComplete_kept {s₀ : State} {q : PartIx} {job : Word} {s : State}
    (hk : Kept s₀ s) : KeptOut s₀ (execRestoreComplete q job s) := by
  unfold execRestoreComplete
  repeat' with_reducible first
    | assumption | apply KeptOut.next | intro _ | split | dsimp only | refine Kept.foldl _ ?_ ?_
    | refine Kept.foldlPair _ ?_ ?_ | apply onJobs_kept | apply restoreTask_kept
    | refine Kept.of_pair (by assumption) ?_

theorem failMembers_kept {s₀ : State} {q : PartIx} {j : Job} {s : State}
    (hk : Kept s₀ s) : Kept s₀ (failMembers q j s) := by
  unfold failMembers
  repeat' with_reducible first
    | assumption | intro _ | split | dsimp only | refine Kept.foldl _ ?_ ?_ | refine Kept.foldlPair _ ?_ ?_
    | apply endJob_kept | apply dispatch_kept | apply flushTasks_kept | refine Kept.of_pair (by assumption) ?_

theorem takeRecord_kept {s₀ : State} {q : PartIx} {j : Job} {st : Nat} {r : Option (BitVec 256)} {s : State}
    (hk : Kept s₀ s) : Kept s₀ (takeRecord q j st r s) := by
  unfold takeRecord
  repeat' with_reducible first
    | assumption | intro _ | split | dsimp only | apply onJob_kept | apply onJobs_kept | apply failMembers_kept

theorem takeOwnRecord_kept {s₀ : State} {q : PartIx} {st : Nat} {s : State}
    (hk : Kept s₀ s) : Kept s₀ (takeOwnRecord q st s) := by
  unfold takeOwnRecord
  repeat' with_reducible first | assumption | intro _ | split | dsimp only | apply onJobs_kept

theorem drainOne_kept {s₀ : State} {q : PartIx} {epoch : Word} {st : Nat} {r : Option (BitVec 256)} {s : State}
    (hk : Kept s₀ s) : Kept s₀ (drainOne q epoch st r s) := by
  unfold drainOne
  repeat' with_reducible first
    | assumption | split | dsimp only | apply countExec_kept | apply takeRecord_kept | apply takeOwnRecord_kept

theorem execCompletionRingDrain_kept {s₀ : State} {r : Ring} {s : State}
    (hk : Kept s₀ s) : KeptOut s₀ (execCompletionRingDrain r s) := by
  unfold execCompletionRingDrain
  repeat' with_reducible first
    | assumption | apply KeptOut.next | intro _ | split | dsimp only | apply Kept.onBed | apply Kept.onPart
    | apply drainOne_kept

theorem execPgIdleTimeout_kept {s₀ : State} {p : PlotIx} {s : State}
    (hk : Kept s₀ s) : KeptOut s₀ (execPgIdleTimeout p s) := by
  unfold execPgIdleTimeout
  repeat' with_reducible first | assumption | apply KeptOut.next | intro _ | split | dsimp only | apply Kept.onPlot

theorem execEpochCheckedWrite_kept {s₀ : State} {at_ : CheckPoint} {q : PartIx} {epoch : Word} {addr : DWord}
    {data : List Byte} {s : State}
    (hk : Kept s₀ s) : KeptOut s₀ (execEpochCheckedWrite at_ q epoch addr data s) := by
  unfold execEpochCheckedWrite
  repeat' with_reducible first
    | assumption | apply KeptOut.next | split | dsimp only | apply devWritePiece_kept
    | refine Kept.of_pair (by assumption) ?_

theorem makeResident_kept {s₀ : State} {q : PartIx} {p : ModelPkg} {s : State}
    (hk : Kept s₀ s) : Kept s₀ (makeResident q p s) := by
  unfold makeResident
  repeat' with_reducible first | assumption | intro _ | dsimp only | apply Kept.onPart

theorem execLoadModel_kept {s₀ : State} {f : FnIx} {i : QpIx} {pkg : Option ModelPkg} {s : State}
    (hk : Kept s₀ s) : KeptOut s₀ (execLoadModel f i pkg s) := by
  unfold execLoadModel
  repeat' with_reducible first
    | assumption | apply KeptOut.next | split | dsimp only | apply answerNow_kept | apply makeResident_kept

theorem execUnloadModel_kept {s₀ : State} {f : FnIx} {i : QpIx} {s : State}
    (hk : Kept s₀ s) : KeptOut s₀ (execUnloadModel f i s) := by
  unfold execUnloadModel
  repeat' with_reducible first
    | assumption | apply KeptOut.next | intro _ | split | dsimp only | apply Kept.onPart | apply answerNow_kept

end Sys2Proof.Machine
end

