-- ==== Sys2Proof/Laws/KeptFabric.lean ====
section
/-! SUPPORT. The commands of the fabric, the queues, the boundaries and the interrupts keep the queue, the fuses and the form of memory. -/

namespace Sys2Proof.Machine

open Host

set_option linter.all false

theorem onLink_kept {s₀ : State} {p : PortIx} {f : LinkRegs → LinkRegs} {s : State}
    (hk : Kept s₀ s) : Kept s₀ (onLink p f s) := by
  unfold onLink
  repeat' with_reducible first | assumption | intro _ | dsimp only | apply Kept.onCis

theorem onPort_kept {s₀ : State} {p : PortIx} {f : Port → Port} {s : State}
    (hk : Kept s₀ s) : Kept s₀ (onPort p f s) := by
  unfold onPort
  repeat' with_reducible first | assumption | dsimp only | refine Kept.fields ?_ ?_ ?_ ?_
  all_goals rfl

theorem onFlow_kept {s₀ : State} {p : PortIx} {d : BitVec 12} {lc : Bool} {psn : Word} {g : Flow → Flow} {s : State}
    (hk : Kept s₀ s) : Kept s₀ (onFlow p d lc psn g s) := by
  unfold onFlow
  repeat' with_reducible first | assumption | split | dsimp only | refine Kept.fields ?_ ?_ ?_ ?_
  all_goals rfl

theorem emitFrame_kept {s₀ : State} {p : PortIx} {d : BitVec 12} {h : Hdr} {payload : List Byte} {s : State}
    (hk : Kept s₀ s) : Kept s₀ (emitFrame p d h payload s) := by
  unfold emitFrame
  repeat' with_reducible first | assumption | dsimp only | refine Kept.fields ?_ ?_ ?_ ?_
  all_goals rfl

theorem sendOn_kept {s₀ : State} {p : PortIx} {d : BitVec 12} {lc : Bool} {h : Hdr} {payload : List Byte} {s : State}
    (hk : Kept s₀ s) : Kept s₀ (sendOn p d lc h payload s) := by
  unfold sendOn
  repeat' with_reducible first
    | assumption | intro _ | dsimp only | apply Kept.getD | apply onFlow_kept | apply emitFrame_kept

theorem sendAck_kept {s₀ : State} {p : PortIx} {d : BitVec 12} {lc : Bool} {s : State}
    (hk : Kept s₀ s) : Kept s₀ (sendAck p d lc s) := by
  unfold sendAck
  repeat' with_reducible first
    | assumption | intro _ | split | dsimp only | apply onFlow_kept | apply emitFrame_kept
    | refine Kept.fields ?_ ?_ ?_ ?_
  all_goals rfl

theorem resendFrom_kept {s₀ : State} {p : PortIx} {d : BitVec 12} {lc : Bool} {psn : Word} {s : State}
    (hk : Kept s₀ s) : Kept s₀ (resendFrom p d lc psn s) := by
  unfold resendFrom
  repeat' with_reducible first
    | assumption | intro _ | split | dsimp only | apply onPort_kept | refine Kept.fields ?_ ?_ ?_ ?_
  all_goals rfl

theorem receiveSeq_kept {s₀ : State} {p : PortIx} {f : Frame} {s : State}
    (hk : Kept s₀ s) : Kept s₀ (receiveSeq p f s).1 := by
  unfold receiveSeq
  repeat' with_reducible first
    | assumption | intro _ | split | dsimp only | apply Kept.getD | apply onFlow_kept | apply emitFrame_kept
    | apply sendAck_kept | refine Kept.fields ?_ ?_ ?_ ?_
  all_goals rfl

theorem receiveFrame_kept {s₀ : State} {p : PortIx} {ty : Nat} {f : Frame} {take : State → State}
    {s : State} (htake : ∀ y0, Kept s₀ y0 → Kept s₀ (take y0))
    (hk : Kept s₀ s) : Kept s₀ (receiveFrame p ty f take s) := by
  unfold receiveFrame
  repeat' with_reducible first
    | assumption | intro _ | split | dsimp only | apply htake | apply onLink_kept | apply sendAck_kept
    | apply receiveSeq_kept | refine Kept.of_pair (by assumption) ?_

theorem closeGate_kept {s₀ : State} {q : PartIx} {s : State} (hk : Kept s₀ s) : Kept s₀ (closeGate q s) := by
  unfold closeGate
  repeat' with_reducible first | assumption | intro _ | split | dsimp only | apply Kept.onPart

theorem settleGate_kept {s₀ : State} {q : PartIx} {s : State} (hk : Kept s₀ s) : Kept s₀ (settleGate q s) := by
  unfold settleGate
  repeat' with_reducible first | assumption | intro _ | split | dsimp only | apply openGate_kept

theorem onColl_kept {s₀ : State} {q : PartIx} {n : Nat} {f : CollOp → CollOp} {s : State}
    (hk : Kept s₀ s) : Kept s₀ (onColl q n f s) := by
  unfold onColl
  repeat' with_reducible first | assumption | intro _ | split | dsimp only | apply Kept.onPart

theorem onLinks_kept {s₀ : State} {f : LinkRegs → LinkRegs} {s : State} (hk : Kept s₀ s) : Kept s₀ (onLinks f s) := by
  unfold onLinks
  repeat' with_reducible first | assumption | intro _ | dsimp only | apply Kept.onCis | refine Kept.forAll _ ?_ ?_

theorem failColl_kept {s₀ : State} {q : PartIx} {n st : Nat} {s : State}
    (hk : Kept s₀ s) : Kept s₀ (failColl q n st s) := by
  unfold failColl
  repeat' with_reducible first | assumption | intro _ | dsimp only | apply onColl_kept

theorem collSend_kept {s₀ : State} {q : PartIx} {c : CollOp} {rank localAddr k remote : Nat} {bs : List Byte}
    {s : State}
    (hk : Kept s₀ s) : KeptOpt s₀ (collSend q c rank localAddr k remote bs s) := by
  unfold collSend
  repeat' with_reducible first
    | assumption | exact KeptOpt.none _ | apply KeptOpt.some | intro _ | split | dsimp only
    | refine Kept.foldl _ ?_ ?_ | refine Kept.foldlPair _ ?_ ?_ | apply sendOn_kept
    | refine Kept.of_pair (by assumption) ?_ | refine Kept.fields ?_ ?_ ?_ ?_
  all_goals rfl

theorem collSendAll_kept {s₀ : State} {q : PartIx} {c : CollOp} {localAddr k remote : Nat} {bs : List Byte}
    {x1 : List Nat} {s : State}
    (hk : Kept s₀ s) : KeptOpt s₀ (collSendAll q c localAddr k remote bs x1 s) := by
  induction x1 generalizing s with
  | nil =>
    unfold collSendAll
    repeat' with_reducible first
      | assumption | exact KeptOpt.none _ | apply KeptOpt.some | intro _ | split | dsimp only | apply KeptOpt.bind
      | apply KeptOpt.map | apply collSend_kept | refine Kept.of_some (by assumption) ?_
  | cons x t ih =>
    unfold collSendAll
    repeat' with_reducible first
      | assumption | exact KeptOpt.none _ | apply KeptOpt.some | intro _ | split | apply ih | dsimp only
      | apply KeptOpt.bind | apply KeptOpt.map | apply collSend_kept | refine Kept.of_some (by assumption) ?_

theorem takeReady_kept {s₀ : State} {q : PartIx} {n : Nat} {src : Nat} {d : BitVec 512} {cnt : Nat} {s : State}
    (hk : Kept s₀ s) : Kept s₀ (takeReady q n src d cnt s) := by
  unfold takeReady
  repeat' with_reducible first
    | assumption | intro _ | split | dsimp only | apply onColl_kept | apply onLinks_kept | apply failColl_kept

theorem startColl_kept {s₀ : State} {q : PartIx} {n : Nat} {c : CollOp} {s : State}
    (hk : Kept s₀ s) : KeptOpt s₀ (startColl q n c s) := by
  unfold startColl
  repeat' with_reducible first
    | assumption | exact KeptOpt.none _ | apply KeptOpt.some | intro _ | dsimp only | apply Kept.onPart
    | refine Kept.foldl _ ?_ ?_ | refine Kept.foldlPair _ ?_ ?_ | apply KeptOpt.bind | apply KeptOpt.map
    | apply onColl_kept | apply collSendAll_kept | apply takeReady_kept | refine Kept.of_pair (by assumption) ?_
    | refine Kept.of_some (by assumption) ?_

theorem ownPage_kept {s₀ : State} {q : PartIx} {c : CollOp} {k : Nat} {s : State}
    (hk : Kept s₀ s) : Kept s₀ (ownPage q c k s).1 := by
  unfold ownPage
  repeat' with_reducible first
    | assumption | split | dsimp only | apply routedRead_kept | refine Kept.of_pair (by assumption) ?_

theorem addNext_kept {s₀ : State} {q : PartIx} {n : Nat} {c : CollOp} {k : Nat} {s : State}
    (hk : Kept s₀ s) : KeptOpt s₀ (addNext q n c k s) := by
  unfold addNext
  repeat' with_reducible first
    | assumption | exact KeptOpt.none _ | apply KeptOpt.some | intro _ | split | dsimp only | apply Kept.onCis
    | apply onColl_kept | apply failColl_kept | apply collSend_kept | apply ownPage_kept
    | refine Kept.of_pair (by assumption) ?_ | refine Kept.of_some (by assumption) ?_

theorem pageSum_kept {s₀ : State} {q : PartIx} {c : CollOp} {k : Nat} {s t : State} {x : Except Nat (List Byte)}
    (e : pageSum q c k s = some (t, x)) (hk : Kept s₀ s) : Kept s₀ t := by
  unfold pageSum at e
  split at e
  · cases e
  split at e
  · cases e; exact hk
  · simp only [Option.some.injEq] at e
    exact Kept.of_pair e (ownPage_kept hk)

theorem pageSent_kept {s₀ : State} {q : PartIx} {n k : Nat} {credit : Nat} {s : State}
    (hk : Kept s₀ s) : Kept s₀ (pageSent q n k credit s) := by
  unfold pageSent
  repeat' with_reducible first | assumption | intro _ | dsimp only | apply onColl_kept

theorem sendSum_kept {s₀ : State} {q : PartIx} {n : Nat} {c : CollOp} {s : State}
    (hk : Kept s₀ s) : KeptOpt s₀ (sendSum q n c s) := by
  unfold sendSum
  repeat' with_reducible first
    | assumption | exact KeptOpt.none _ | apply KeptOpt.some | intro _ | split | dsimp only | apply KeptOpt.bind
    | apply KeptOpt.map | (refine pageSum_kept (by assumption) ?_) | apply routedWrite_kept | apply failColl_kept
    | apply collSend_kept | apply pageSent_kept | refine Kept.of_pair (by assumption) ?_
    | refine Kept.of_some (by assumption) ?_

theorem sendCopy_kept {s₀ : State} {q : PartIx} {n : Nat} {c : CollOp} {s : State}
    (hk : Kept s₀ s) : KeptOpt s₀ (sendCopy q n c s) := by
  unfold sendCopy
  repeat' with_reducible first
    | assumption | exact KeptOpt.none _ | apply KeptOpt.some | intro _ | split | dsimp only | apply KeptOpt.bind
    | apply KeptOpt.map | apply Kept.getD | apply routedRead_kept | apply failColl_kept | apply collSendAll_kept
    | apply pageSent_kept | refine Kept.of_pair (by assumption) ?_ | refine Kept.of_some (by assumption) ?_

theorem sendCount_kept {s₀ : State} {q : PartIx} {n : Nat} {c : CollOp} {count : Nat} {s : State}
    (hk : Kept s₀ s) : KeptOpt s₀ (sendCount q n c count s) := by
  unfold sendCount
  repeat' with_reducible first
    | assumption | exact KeptOpt.none _ | apply KeptOpt.some | intro _ | dsimp only | apply KeptOpt.bind
    | apply KeptOpt.map | apply onColl_kept | apply collSendAll_kept | refine Kept.of_some (by assumption) ?_

theorem collTry_kept {s₀ : State} {q : PartIx} {n : Nat} {s : State} (hk : Kept s₀ s) : KeptOpt s₀ (collTry q n s) := by
  unfold collTry
  repeat' with_reducible first
    | assumption | exact KeptOpt.none _ | apply KeptOpt.some | intro _ | split | dsimp only | apply KeptOpt.bind
    | apply KeptOpt.map | apply KeptOpt.findSome | exact hk | apply startColl_kept | apply addNext_kept
    | apply sendSum_kept | apply sendCopy_kept | apply sendCount_kept | refine Kept.of_some (by assumption) ?_

theorem collRun_kept {s₀ : State} {q : PartIx} {n : Nat} {x1 : Nat} {s : State}
    (hk : Kept s₀ s) : Kept s₀ (collRun q n x1 s) := by
  induction x1 generalizing s with
  | zero =>
    unfold collRun
    repeat' with_reducible first
      | assumption | exact KeptOpt.none _ | apply KeptOpt.some | intro _ | split | dsimp only | apply collTry_kept
      | refine Kept.of_some (by assumption) ?_
  | succ n ih =>
    unfold collRun
    repeat' with_reducible first
      | assumption | exact KeptOpt.none _ | apply KeptOpt.some | intro _ | split | apply ih | dsimp only
      | apply collTry_kept | refine Kept.of_some (by assumption) ?_

theorem traceColl_kept {s₀ : State} {d : BitVec 512} {isEnd : Bool} {st : Nat} {s : State}
    (hk : Kept s₀ s) : Kept s₀ (traceColl d isEnd st s) := by
  unfold traceColl
  repeat' with_reducible first | assumption | dsimp only | apply traceEmit_kept

theorem finishColls_kept {s₀ : State} {q : PartIx} {s : State} (hk : Kept s₀ s) : Kept s₀ (finishColls q s) := by
  unfold finishColls
  repeat' with_reducible first
    | assumption | intro _ | split | dsimp only | apply Kept.onPart | refine Kept.forAll _ ?_ ?_
    | apply settleGate_kept | apply onLinks_kept | apply traceColl_kept

theorem pumpColls_kept {s₀ : State} {q : PartIx} {s : State} (hk : Kept s₀ s) : Kept s₀ (pumpColls q s) := by
  unfold pumpColls
  repeat' with_reducible first
    | assumption | intro _ | dsimp only | refine Kept.foldl _ ?_ ?_ | refine Kept.foldlPair _ ?_ ?_
    | apply collRun_kept | apply finishColls_kept | refine Kept.of_pair (by assumption) ?_

theorem postColl_kept {s₀ : State} {d : BitVec 512} {s : State} (hk : Kept s₀ s) : Kept s₀ (postColl d s) := by
  unfold postColl
  repeat' with_reducible first
    | assumption | intro _ | split | dsimp only | apply Kept.onPart | apply Kept.getD | apply closeGate_kept
    | apply traceColl_kept | apply pumpColls_kept

theorem execBroadcast_kept {s₀ : State} {d : BitVec 512} {s : State}
    (hk : Kept s₀ s) : KeptOut s₀ (execBroadcast d s) := by
  unfold execBroadcast
  repeat' with_reducible first | assumption | apply KeptOut.next | split | dsimp only | apply postColl_kept

theorem execReduce_kept {s₀ : State} {d : BitVec 512} {s : State} (hk : Kept s₀ s) : KeptOut s₀ (execReduce d s) := by
  unfold execReduce
  repeat' with_reducible first | assumption | apply KeptOut.next | split | dsimp only | apply postColl_kept

theorem execReadyWrite_kept {s₀ : State} {q : PartIx} {seq : Word} {src : Nat} {d : BitVec 512} {n : Nat} {s : State}
    (hk : Kept s₀ s) : KeptOut s₀ (execReadyWrite q seq src d n s) := by
  unfold execReadyWrite
  repeat' with_reducible first
    | assumption | apply KeptOut.next | intro _ | split | dsimp only | apply Kept.onPart | apply takeReady_kept
    | apply pumpColls_kept

theorem execCreditWrite_kept {s₀ : State} {q : PartIx} {seq : Word} {s : State}
    (hk : Kept s₀ s) : KeptOut s₀ (execCreditWrite q seq s) := by
  unfold execCreditWrite
  repeat' with_reducible first
    | assumption | apply KeptOut.next | intro _ | split | dsimp only | apply onColl_kept | apply pumpColls_kept

theorem execCountArrival_kept {s₀ : State} {q : PartIx} {seq : Word} {src : Nat} {count : Word} {s : State}
    (hk : Kept s₀ s) : KeptOut s₀ (execCountArrival q seq src count s) := by
  unfold execCountArrival
  repeat' with_reducible first
    | assumption | apply KeptOut.next | intro _ | split | dsimp only | apply onColl_kept | apply failColl_kept
    | apply pumpColls_kept

theorem execPageArrival_kept {s₀ : State} {q : PartIx} {seq : Word} {src : Nat} {page : Nat} {data : List Byte}
    {s : State}
    (hk : Kept s₀ s) : KeptOut s₀ (execPageArrival q seq src page data s) := by
  unfold execPageArrival
  repeat' with_reducible first
    | assumption | apply KeptOut.next | intro _ | split | dsimp only | apply Kept.getD | apply routedWrite_kept
    | apply onColl_kept | apply failColl_kept | apply pumpColls_kept | refine Kept.of_pair (by assumption) ?_

theorem noteHeld_kept {s₀ : State} {hit : Flow → Bool} {dev : BitVec 12} {hold : Bool} {s : State}
    (hk : Kept s₀ s) : Kept s₀ (noteHeld hit dev hold s) := by
  unfold noteHeld
  repeat' with_reducible first
    | assumption | intro _ | split | dsimp only | apply Kept.onPart | refine Kept.forAll _ ?_ ?_ | exact hk
    | refine Kept.fields ?_ ?_ ?_ ?_
  all_goals rfl

theorem execCollTimeout_kept {s₀ : State} {q : PartIx} {seq : Word} {s : State}
    (hk : Kept s₀ s) : KeptOut s₀ (execCollTimeout q seq s) := by
  unfold execCollTimeout
  repeat' with_reducible first
    | assumption | apply KeptOut.next | intro _ | split | dsimp only | apply onLinks_kept | apply failColl_kept
    | apply pumpColls_kept

theorem failFabric_kept {s₀ : State} {q : PartIx} {n st : Nat} {s : State}
    (hk : Kept s₀ s) : Kept s₀ (failFabric q n st s) := by
  unfold failFabric
  repeat' with_reducible first | assumption | intro _ | split | dsimp only | apply Kept.onPart

theorem onFabric_kept {s₀ : State} {q : PartIx} {n : Nat} {f : FabricOp → FabricOp} {s : State}
    (hk : Kept s₀ s) : Kept s₀ (onFabric q n f s) := by
  unfold onFabric
  repeat' with_reducible first | assumption | intro _ | split | dsimp only | apply Kept.onPart

theorem finishFabric_kept {s₀ : State} {q : PartIx} {s : State} (hk : Kept s₀ s) : Kept s₀ (finishFabric q s) := by
  unfold finishFabric
  repeat' with_reducible first | assumption | intro _ | split | dsimp only | apply Kept.onPart | apply settleGate_kept

theorem sendChunk_kept {s₀ : State} {q : PartIx} {n : Nat} {s : State}
    (hk : Kept s₀ s) : KeptOpt s₀ (sendChunk q n s) := by
  unfold sendChunk
  repeat' with_reducible first
    | assumption | exact KeptOpt.none _ | apply KeptOpt.some | intro _ | split | dsimp only | apply routedRead_kept
    | apply sendOn_kept | apply failFabric_kept | apply onFabric_kept | refine Kept.of_pair (by assumption) ?_

theorem pumpFabric_kept {s₀ : State} {q : PartIx} {x1 : Nat} {x2 : Nat} {s : State}
    (hk : Kept s₀ s) : Kept s₀ (pumpFabric q x1 x2 s) := by
  induction x1 generalizing x2 s with
  | zero =>
    unfold pumpFabric
    repeat' with_reducible first
      | assumption | exact KeptOpt.none _ | apply KeptOpt.some | intro _ | split | dsimp only | apply sendChunk_kept
      | refine Kept.of_some (by assumption) ?_
  | succ n ih =>
    unfold pumpFabric
    repeat' with_reducible first
      | assumption | exact KeptOpt.none _ | apply KeptOpt.some | intro _ | split | apply ih | dsimp only
      | apply sendChunk_kept | refine Kept.of_some (by assumption) ?_

theorem pump_kept {s₀ : State} {s : State} (hk : Kept s₀ s) : Kept s₀ (pump s) := by
  unfold pump
  repeat' with_reducible first
    | assumption | intro _ | dsimp only | refine Kept.forAll _ ?_ ?_ | apply pumpColls_kept | apply finishFabric_kept
    | apply pumpFabric_kept

theorem postFabric_kept {s₀ : State} {d : BitVec 512} {s : State} (hk : Kept s₀ s) : Kept s₀ (postFabric d s) := by
  unfold postFabric
  repeat' with_reducible first
    | assumption | intro _ | split | dsimp only | apply Kept.onPart | apply Kept.getD | apply closeGate_kept
    | apply finishFabric_kept | apply pump_kept

theorem execFabricWrite_kept {s₀ : State} {d : BitVec 512} {s : State}
    (hk : Kept s₀ s) : KeptOut s₀ (execFabricWrite d s) := by
  unfold execFabricWrite
  repeat' with_reducible first | assumption | apply KeptOut.next | split | dsimp only | apply postFabric_kept

theorem execFabricRead_kept {s₀ : State} {d : BitVec 512} {s : State}
    (hk : Kept s₀ s) : KeptOut s₀ (execFabricRead d s) := by
  unfold execFabricRead
  repeat' with_reducible first | assumption | apply KeptOut.next | split | dsimp only | apply postFabric_kept

theorem keepChunk_kept {s₀ : State} {p : PortIx} {f : Frame} {s : State}
    (hk : Kept s₀ s) : Kept s₀ (keepChunk p f s) := by
  unfold keepChunk
  repeat' with_reducible first | assumption | intro _ | dsimp only | apply Kept.onCis

theorem execWriteFrame_kept {s₀ : State} {port : PortIx} {fr : Frame} {s : State}
    (hk : Kept s₀ s) : KeptOut s₀ (execWriteFrame port fr s) := by
  unfold execWriteFrame
  repeat' with_reducible first
    | assumption | apply KeptOut.next | dsimp only | apply receiveFrame_kept | apply keepChunk_kept

theorem serveRead_kept {s₀ : State} {p : PortIx} {f : Frame} {s : State}
    (hk : Kept s₀ s) : Kept s₀ (serveRead p f s) := by
  unfold serveRead
  repeat' with_reducible first
    | assumption | split | dsimp only | apply routedRead_kept | apply sendOn_kept
    | refine Kept.of_pair (by assumption) ?_

theorem execReadReq_kept {s₀ : State} {port : PortIx} {fr : Frame} {s : State}
    (hk : Kept s₀ s) : KeptOut s₀ (execReadReq port fr s) := by
  unfold execReadReq
  repeat' with_reducible first
    | assumption | apply KeptOut.next | dsimp only | apply receiveFrame_kept | apply serveRead_kept

theorem execReadData_kept {s₀ : State} {port : PortIx} {fr : Frame} {s : State}
    (hk : Kept s₀ s) : KeptOut s₀ (execReadData port fr s) := by
  unfold execReadData
  repeat' with_reducible first
    | assumption | apply KeptOut.next | intro _ | split | dsimp only | apply receiveFrame_kept | apply failFabric_kept
    | apply finishFabric_kept | apply keepChunk_kept

theorem sendLate_kept {s₀ : State} {c : Chunk} {cause : Nat} {s : State}
    (hk : Kept s₀ s) : Kept s₀ (sendLate c cause s) := by
  unfold sendLate
  repeat' with_reducible first | assumption | intro _ | dsimp only | apply onLink_kept | apply sendOn_kept

theorem freeBytes_kept {s₀ : State} {s : State} {n : Nat} (hk : Kept s₀ s) : Kept s₀ (freeBytes s n).1 := by
  unfold freeBytes
  repeat' with_reducible first | assumption | intro _ | dsimp only | refine Kept.fields ?_ ?_ ?_ ?_
  all_goals rfl

theorem chunkCheck_kept {s₀ : State} {q : PartIx} {a epoch n : Nat} {s : State}
    (hk : Kept s₀ s) : Kept s₀ (chunkCheck q a epoch n s).1 := by
  unfold chunkCheck
  repeat' with_reducible first
    | assumption | split | dsimp only | apply cisCheck_kept | apply bedCheck_kept
    | refine Kept.of_pair (by assumption) ?_

theorem writeChunk_kept {s₀ : State} {c : Chunk} {crcOk memOk : Bool} {s : State}
    (hk : Kept s₀ s) : Kept s₀ (writeChunk c crcOk memOk s) := by
  unfold writeChunk
  repeat' with_reducible first
    | assumption | intro _ | split | dsimp only | apply routedWrite_kept | apply sendLate_kept | apply freeBytes_kept
    | apply chunkCheck_kept | refine Kept.of_pair (by assumption) ?_

theorem readChunk_kept {s₀ : State} {c : Chunk} {crcOk : Bool} {s : State}
    (hk : Kept s₀ s) : Kept s₀ (readChunk c crcOk s) := by
  unfold readChunk
  repeat' with_reducible first
    | assumption | intro _ | split | dsimp only | apply routedWrite_kept | apply sendOn_kept | apply failFabric_kept
    | apply onFabric_kept | apply finishFabric_kept | refine Kept.of_pair (by assumption) ?_

theorem execChunkMemoryEntry_kept {s₀ : State} {c : CisIx} {crcOk : Bool} {memOk : Bool} {s : State}
    (hk : Kept s₀ s) : KeptOut s₀ (execChunkMemoryEntry c crcOk memOk s) := by
  unfold execChunkMemoryEntry
  repeat' with_reducible first
    | assumption | apply KeptOut.next | intro _ | split | dsimp only | apply Kept.onCis | apply pump_kept
    | apply writeChunk_kept | apply readChunk_kept

theorem ackWrite_kept {s₀ : State} {f : Frame} {s : State} (hk : Kept s₀ s) : Kept s₀ (ackWrite f s) := by
  unfold ackWrite
  repeat' with_reducible first | assumption | intro _ | split | dsimp only | apply Kept.onPart

theorem execAck_kept {s₀ : State} {port : PortIx} {fr : Frame} {s : State}
    (hk : Kept s₀ s) : KeptOut s₀ (execAck port fr s) := by
  unfold execAck
  repeat' with_reducible first
    | assumption | apply KeptOut.next | intro _ | split | dsimp only | refine Kept.forAll _ ?_ ?_
    | refine Kept.foldl _ ?_ ?_ | refine Kept.foldlPair _ ?_ ?_ | apply onFlow_kept | apply receiveFrame_kept
    | apply noteHeld_kept | apply finishFabric_kept | apply pump_kept | apply ackWrite_kept
    | refine Kept.of_pair (by assumption) ?_

theorem execNak_kept {s₀ : State} {port : PortIx} {fr : Frame} {s : State}
    (hk : Kept s₀ s) : KeptOut s₀ (execNak port fr s) := by
  unfold execNak
  repeat' with_reducible first
    | assumption | apply KeptOut.next | dsimp only | apply resendFrom_kept | apply receiveFrame_kept

theorem execAckTimer_kept {s₀ : State} {port : PortIx} {dev : BitVec 12} {lc : Bool} {s : State}
    (hk : Kept s₀ s) : KeptOut s₀ (execAckTimer port dev lc s) := by
  unfold execAckTimer
  repeat' with_reducible first | assumption | apply KeptOut.next | split | dsimp only | apply sendAck_kept

theorem moveFlow_kept {s₀ : State} {p : PortIx} {d : BitVec 12} {lc : Bool} {s : State}
    (hk : Kept s₀ s) : Kept s₀ (moveFlow p d lc s) := by
  unfold moveFlow
  repeat' with_reducible first
    | assumption | intro _ | split | dsimp only | apply Kept.getD | apply onFlow_kept | refine Kept.fields ?_ ?_ ?_ ?_
  all_goals rfl

theorem execRetransmitTimeout_kept {s₀ : State} {port : PortIx} {dev : BitVec 12} {lc : Bool} {s : State}
    (hk : Kept s₀ s) : KeptOut s₀ (execRetransmitTimeout port dev lc s) := by
  unfold execRetransmitTimeout
  repeat' with_reducible first
    | assumption | apply KeptOut.next | intro _ | split | dsimp only | apply onPort_kept | apply onFlow_kept
    | apply resendFrom_kept | apply moveFlow_kept

theorem execFabricUnreachable_kept {s₀ : State} {dev : BitVec 12} {s : State}
    (hk : Kept s₀ s) : KeptOut s₀ (execFabricUnreachable dev s) := by
  unfold execFabricUnreachable
  repeat' with_reducible first
    | assumption | apply KeptOut.next | intro _ | split | dsimp only | apply Kept.onCis | apply Kept.onPart
    | refine Kept.forAll _ ?_ ?_ | apply onJobs_kept | apply finishFabric_kept | apply pump_kept
    | refine Kept.fields ?_ ?_ ?_ ?_
  all_goals rfl

theorem replayColl_kept {s₀ : State} {q : PartIx} {j : Job} {f : Frame} {s : State}
    (hk : Kept s₀ s) : Kept s₀ (replayColl q j f s) := by
  unfold replayColl
  repeat' with_reducible first
    | assumption | intro _ | split | dsimp only | apply onJob_kept | apply onLink_kept | apply sendOn_kept
    | refine Kept.fields ?_ ?_ ?_ ?_
  all_goals rfl

theorem replayChunk_kept {s₀ : State} {q : PartIx} {j : Job} {o : FabricOp} {i : Nat} {s : State}
    (hk : Kept s₀ s) : Kept s₀ (replayChunk q j o i s) := by
  unfold replayChunk
  repeat' with_reducible first
    | assumption | intro _ | split | dsimp only | apply routedRead_kept | apply onJob_kept | apply onLink_kept
    | apply sendOn_kept | refine Kept.of_pair (by assumption) ?_ | refine Kept.fields ?_ ?_ ?_ ?_
  all_goals rfl

theorem taintJob_kept {s₀ : State} {q : PartIx} {j : Job} {xfer : Word} {addr : DWord} {cause : Nat} {s : State}
    (hk : Kept s₀ s) : Kept s₀ (taintJob q j xfer addr cause s) := by
  unfold taintJob
  repeat' with_reducible first
    | assumption | intro _ | split | dsimp only | apply onJob_kept | apply countJob_kept | apply giveNotice_kept
    | apply replayColl_kept | apply replayChunk_kept | refine Kept.fields ?_ ?_ ?_ ?_
  all_goals rfl

theorem execLateErr_kept {s₀ : State} {port : PortIx} {fr : Frame} {s : State}
    (hk : Kept s₀ s) : KeptOut s₀ (execLateErr port fr s) := by
  unfold execLateErr
  repeat' with_reducible first
    | assumption | apply KeptOut.next | intro _ | split | dsimp only | apply countJob_kept | apply onLink_kept
    | apply receiveFrame_kept | apply taintJob_kept

theorem execSettle_kept {s₀ : State} {port : PortIx} {fr : Frame} {s : State}
    (hk : Kept s₀ s) : KeptOut s₀ (execSettle port fr s) := by
  unfold execSettle
  repeat' with_reducible first
    | assumption | apply KeptOut.next | intro _ | dsimp only | apply Kept.onCis | apply receiveFrame_kept

theorem execSettleDoneSend_kept {s₀ : State} {port : PortIx} {dev : BitVec 12} {s : State}
    (hk : Kept s₀ s) : KeptOut s₀ (execSettleDoneSend port dev s) := by
  unfold execSettleDoneSend
  repeat' with_reducible first
    | assumption | apply KeptOut.next | intro _ | split | dsimp only | apply Kept.onCis | apply sendOn_kept
    | refine Kept.fields ?_ ?_ ?_ ?_
  all_goals rfl

theorem execSettleDone_kept {s₀ : State} {port : PortIx} {fr : Frame} {s : State}
    (hk : Kept s₀ s) : KeptOut s₀ (execSettleDone port fr s) := by
  unfold execSettleDone
  repeat' with_reducible first
    | assumption | apply KeptOut.next | intro _ | split | dsimp only | apply onJobs_kept | apply receiveFrame_kept

theorem execSettleTimeout_kept {s₀ : State} {q : PartIx} {dev : BitVec 12} {s : State}
    (hk : Kept s₀ s) : KeptOut s₀ (execSettleTimeout q dev s) := by
  unfold execSettleTimeout
  repeat' with_reducible first | assumption | apply KeptOut.next | intro _ | dsimp only | apply onJobs_kept

theorem sendSettles_kept {s₀ : State} {q : PartIx} {j : Job} {s : State}
    (hk : Kept s₀ s) : Kept s₀ (sendSettles q j s) := by
  unfold sendSettles
  repeat' with_reducible first
    | assumption | intro _ | split | dsimp only | refine Kept.foldl _ ?_ ?_ | refine Kept.foldlPair _ ?_ ?_
    | apply onJob_kept | apply sendOn_kept | refine Kept.of_pair (by assumption) ?_ | refine Kept.fields ?_ ?_ ?_ ?_
  all_goals rfl

theorem onFlash_kept {s₀ : State} {d : Fin 2} {f : Tab Byte → Tab Byte} {s : State}
    (hk : Kept s₀ s) : Kept s₀ (onFlash d f s) := by
  unfold onFlash
  repeat' with_reducible first | assumption | dsimp only | refine Kept.fields ?_ ?_ ?_ ?_
  all_goals rfl

theorem flashProgram_kept {s₀ : State} {d : Fin 2} {a : Nat} {bs : List Byte} {s : State}
    (hk : Kept s₀ s) : Kept s₀ (flashProgram d a bs s) := by
  unfold flashProgram
  repeat' with_reducible first | assumption | intro _ | dsimp only | apply onFlash_kept

theorem flashErase_kept {s₀ : State} {d : Fin 2} {a n : Nat} {s : State}
    (hk : Kept s₀ s) : Kept s₀ (flashErase d a n s) := by
  unfold flashErase
  repeat' with_reducible first | assumption | intro _ | dsimp only | apply onFlash_kept

theorem appendOne_kept {s₀ : State} {step : Nat} {r : BitVec 512} {rest : List (BitVec 512)} {s : State}
    (hk : Kept s₀ s) : Kept s₀ (appendOne step r rest s) := by
  unfold appendOne
  repeat' with_reducible first
    | assumption | split | dsimp only | apply flashProgram_kept | refine Kept.fields ?_ ?_ ?_ ?_
  all_goals rfl

theorem execPruneLogAppend_kept {s₀ : State} {step : Fin 4} {s : State}
    (hk : Kept s₀ s) : KeptOut s₀ (execPruneLogAppend step s) := by
  unfold execPruneLogAppend
  repeat' with_reducible first | assumption | apply KeptOut.next | split | dsimp only | apply appendOne_kept

theorem recordReturn_kept {s₀ : State} {kind index sub errs : Nat} {s : State}
    (hk : Kept s₀ s) : Kept s₀ (recordReturn kind index sub errs s) := by
  unfold recordReturn
  repeat' with_reducible first | assumption | split | dsimp only | apply queueLog_kept

theorem copyRecords_kept {s₀ : State} {sec : Bool} {x1 : List (BitVec 512)} {s : State}
    (hk : Kept s₀ s) : Kept s₀ (copyRecords sec x1 s) := by
  induction x1 generalizing s with
  | nil =>
    unfold copyRecords
    repeat' with_reducible first | assumption | intro _ | split | dsimp only | apply flashProgram_kept
  | cons x t ih =>
    unfold copyRecords
    repeat' with_reducible first | assumption | intro _ | split | apply ih | dsimp only | apply flashProgram_kept

theorem rotated_kept {s₀ : State} {step copied : Nat} {s : State}
    (hk : Kept s₀ s) : Kept s₀ (rotated step copied s) := by
  unfold rotated
  repeat' with_reducible first | assumption | dsimp only | refine Kept.fields ?_ ?_ ?_ ?_
  all_goals rfl

theorem rotateStep_kept {s₀ : State} {step : Nat} {s : State} (hk : Kept s₀ s) : Kept s₀ (rotateStep step s) := by
  unfold rotateStep
  repeat' with_reducible first
    | assumption | split | dsimp only | apply flashProgram_kept | apply flashErase_kept | apply copyRecords_kept
    | apply rotated_kept | refine Kept.fields ?_ ?_ ?_ ?_
  all_goals rfl

theorem execLogRotation_kept {s₀ : State} {step : Fin 5} {s : State}
    (hk : Kept s₀ s) : KeptOut s₀ (execLogRotation step s) := by
  unfold execLogRotation
  repeat' with_reducible first
    | assumption | apply KeptOut.next | split | dsimp only | apply rotateStep_kept | refine Kept.fields ?_ ?_ ?_ ?_
  all_goals rfl

theorem linkCapacity_kept {s₀ : State} {s : State} (hk : Kept s₀ s) : Kept s₀ (linkCapacity s) := by
  unfold linkCapacity
  repeat' with_reducible first
    | assumption | intro _ | dsimp only | refine Kept.forAll _ ?_ ?_ | apply raiseCapacity_kept

theorem moveFlows_kept {s₀ : State} {p : PortIx} {s : State} (hk : Kept s₀ s) : Kept s₀ (moveFlows p s) := by
  unfold moveFlows
  repeat' with_reducible first
    | assumption | intro _ | dsimp only | refine Kept.foldl _ ?_ ?_ | refine Kept.foldlPair _ ?_ ?_
    | apply moveFlow_kept | refine Kept.of_pair (by assumption) ?_

theorem setLinkEn_kept {s₀ : State} {p : PortIx} {on : Bool} {s : State}
    (hk : Kept s₀ s) : Kept s₀ (setLinkEn p on s) := by
  unfold setLinkEn
  repeat' with_reducible first | assumption | dsimp only | refine Kept.fields ?_ ?_ ?_ ?_
  all_goals rfl

theorem prunePort_kept {s₀ : State} {p : PortIx} {c : PruneCause} {count : Nat} {s : State}
    (hk : Kept s₀ s) : Kept s₀ (prunePort p c count s) := by
  unfold prunePort
  repeat' with_reducible first
    | assumption | intro _ | split | dsimp only | apply recordPrune_kept | apply onPort_kept | apply linkCapacity_kept
    | apply moveFlows_kept | apply setLinkEn_kept

theorem laneFaulty_kept {s₀ : State} {p : PortIx} {lane : Fin 8} {count : Nat} {s : State}
    (hk : Kept s₀ s) : Kept s₀ (laneFaulty p lane count s) := by
  unfold laneFaulty
  repeat' with_reducible first
    | assumption | intro _ | split | dsimp only | apply recordPrune_kept | apply onPort_kept | apply linkCapacity_kept
    | apply moveFlows_kept | apply prunePort_kept

theorem trainingFailed_kept {s₀ : State} {p : PortIx} {lane : Fin 8} {s : State}
    (hk : Kept s₀ s) : Kept s₀ (trainingFailed p lane s) := by
  unfold trainingFailed
  repeat' with_reducible first
    | assumption | split | dsimp only | apply prunePort_kept | apply laneFaulty_kept | apply laneFails_kept

theorem execLaneFault_kept {s₀ : State} {port : PortIx} {lane : Fin 8} {training : Bool} {s : State}
    (hk : Kept s₀ s) : KeptOut s₀ (execLaneFault port lane training s) := by
  unfold execLaneFault
  repeat' with_reducible first
    | assumption | apply KeptOut.next | intro _ | split | dsimp only | apply onPort_kept | apply laneFaulty_kept
    | apply trainingFailed_kept | apply laneFails_kept

theorem portReturns_kept {s₀ : State} {p : PortIx} {s : State} (hk : Kept s₀ s) : Kept s₀ (portReturns p s) := by
  unfold portReturns
  repeat' with_reducible first
    | assumption | intro _ | split | dsimp only | refine Kept.foldl _ ?_ ?_ | apply onPort_kept
    | apply recordReturn_kept | refine Kept.of_pair (by assumption) ?_

theorem execPortTrained_kept {s₀ : State} {port : PortIx} {lanes8 : Bool} {s : State}
    (hk : Kept s₀ s) : KeptOut s₀ (execPortTrained port lanes8 s) := by
  unfold execPortTrained
  repeat' with_reducible first
    | assumption | apply KeptOut.next | intro _ | split | dsimp only | apply onPort_kept | apply prunePort_kept
    | apply portReturns_kept | apply laneFails_kept

theorem execTimeFrame_kept {s₀ : State} {port : PortIx} {fr : Frame} {s : State}
    (hk : Kept s₀ s) : KeptOut s₀ (execTimeFrame port fr s) := by
  unfold execTimeFrame
  repeat' with_reducible first
    | assumption | apply KeptOut.next | intro _ | split | dsimp only | apply receiveFrame_kept | apply noteHeld_kept
    | refine Kept.fields ?_ ?_ ?_ ?_
  all_goals rfl

theorem execTimeExchange_kept {s₀ : State} {t1 t2 t3 t4 : DWord} {ok : Bool} {s : State}
    (hk : Kept s₀ s) : KeptOut s₀ (execTimeExchange t1 t2 t3 t4 ok s) := by
  unfold execTimeExchange
  repeat' with_reducible first
    | assumption | apply KeptOut.next | split | dsimp only | apply emitFrame_kept | refine Kept.fields ?_ ?_ ?_ ?_
  all_goals rfl

theorem stepTime_kept {s₀ : State} {d : Int} {s : State} (hk : Kept s₀ s) : Kept s₀ (stepTime d s) := by
  unfold stepTime
  repeat' with_reducible first | assumption | intro _ | dsimp only | refine Kept.fields ?_ ?_ ?_ ?_
  all_goals rfl

theorem idleTick_kept {s₀ : State} {s : State} (hk : Kept s₀ s) : Kept s₀ (idleTick s) := by
  unfold idleTick
  repeat' with_reducible first
    | assumption | split | dsimp only | apply traceDrain_kept | refine Kept.fields ?_ ?_ ?_ ?_
  all_goals rfl

theorem execTimeAdjust_kept {s₀ : State} {s : State} (hk : Kept s₀ s) : KeptOut s₀ (execTimeAdjust s) := by
  unfold execTimeAdjust
  repeat' with_reducible first
    | assumption | apply KeptOut.next | split | dsimp only | apply stepTime_kept | refine Kept.fields ?_ ?_ ?_ ?_
  all_goals rfl

theorem execHoldoverEntry_kept {s₀ : State} {s : State} (hk : Kept s₀ s) : KeptOut s₀ (execHoldoverEntry s) := by
  unfold execHoldoverEntry
  repeat' with_reducible first | assumption | apply KeptOut.next | split | dsimp only | refine Kept.fields ?_ ?_ ?_ ?_
  all_goals rfl

theorem execMasterClaim_kept {s₀ : State} {s : State} (hk : Kept s₀ s) : KeptOut s₀ (execMasterClaim s) := by
  unfold execMasterClaim
  repeat' with_reducible first | assumption | apply KeptOut.next | split | dsimp only | refine Kept.fields ?_ ?_ ?_ ?_
  all_goals rfl

theorem atRisk_kept {s₀ : State} {q : PartIx} {s : State} {id : Word} (hk : Kept s₀ s) : Kept s₀ (atRisk q s id) := by
  unfold atRisk
  repeat' with_reducible first | assumption | split | dsimp only | apply giveNotice_kept

theorem commitPass_kept {s₀ : State} {q : PartIx} {s : State} (hk : Kept s₀ s) : Kept s₀ (commitPass q s) := by
  unfold commitPass
  repeat' with_reducible first
    | assumption | intro _ | dsimp only | apply Kept.onPart | refine Kept.foldl _ ?_ ?_
    | refine Kept.foldlPair _ ?_ ?_ | apply onJobs_kept | apply readyCuts_kept
    | refine Kept.of_pair (by assumption) ?_

theorem completeJobs_kept {s₀ : State} {q : PartIx} {outs : List JobOut} {s : State}
    (hk : Kept s₀ s) : Kept s₀ (completeJobs q outs s) := by
  unfold completeJobs
  repeat' with_reducible first
    | assumption | intro _ | split | dsimp only | refine Kept.foldl _ ?_ ?_ | apply endJob_kept
    | refine Kept.of_pair (by assumption) ?_

theorem cancelJobs_kept {s₀ : State} {q : PartIx} {s : State} (hk : Kept s₀ s) : Kept s₀ (cancelJobs q s) := by
  unfold cancelJobs
  repeat' with_reducible first
    | assumption | intro _ | dsimp only | refine Kept.foldl _ ?_ ?_ | apply endJob_kept
    | refine Kept.of_pair (by assumption) ?_

theorem chargeJobs_kept {s₀ : State} {q : PartIx} {s : State} (hk : Kept s₀ s) : Kept s₀ (chargeJobs q s) := by
  unfold chargeJobs
  repeat' with_reducible first
    | assumption | intro _ | dsimp only | refine Kept.foldl _ ?_ ?_ | apply onJobs_kept | apply switchJob_kept
    | refine Kept.of_pair (by assumption) ?_

theorem monitorJobs_kept {s₀ : State} {q : PartIx} {s : State} (hk : Kept s₀ s) : Kept s₀ (monitorJobs q s) := by
  unfold monitorJobs
  repeat' with_reducible first
    | assumption | intro _ | split | dsimp only | refine Kept.foldl _ ?_ ?_ | apply onJobs_kept | apply switchJob_kept
    | apply atRisk_kept | refine Kept.of_pair (by assumption) ?_

theorem nextPass_kept {s₀ : State} {q : PartIx} {s : State} (hk : Kept s₀ s) : Kept s₀ (nextPass q s) := by
  unfold nextPass
  repeat' with_reducible first
    | assumption | intro _ | split | dsimp only | refine Kept.foldl _ ?_ ?_ | refine Kept.foldlPair _ ?_ ?_
    | apply answerWaiting_kept | apply lowerPlan_kept | apply storeFinishes_kept | apply onJobs_kept
    | apply dispatch_kept | refine Kept.of_pair (by assumption) ?_

theorem postVote_kept {s₀ : State} {q : PartIx} {j : Job} {s : State} (hk : Kept s₀ s) : Kept s₀ (postVote q j s) := by
  unfold postVote
  repeat' with_reducible first
    | assumption | intro _ | split | dsimp only | apply routedWrite_kept | apply onJob_kept | apply postColl_kept
    | refine Kept.of_pair (by assumption) ?_

theorem storeEpochs_kept {s₀ : State} {q : PartIx} {pkg : ModelPkg} {s : State}
    (hk : Kept s₀ s) : Kept s₀ (storeEpochs q pkg s) := by
  unfold storeEpochs
  repeat' with_reducible first
    | assumption | intro _ | dsimp only | refine Kept.foldl _ ?_ ?_ | refine Kept.foldlPair _ ?_ ?_
    | apply routedWrite_kept | refine Kept.of_pair (by assumption) ?_

theorem endWorn_kept {s₀ : State} {q : PartIx} {ids : List Word} {s : State}
    (hk : Kept s₀ s) : Kept s₀ (endWorn q ids s) := by
  unfold endWorn
  repeat' with_reducible first
    | assumption | intro _ | split | dsimp only | refine Kept.foldl _ ?_ ?_ | refine Kept.foldlPair _ ?_ ?_
    | apply endJob_kept | refine Kept.of_pair (by assumption) ?_

theorem regroup_kept {s₀ : State} {q : PartIx} {s : State} (hk : Kept s₀ s) : Kept s₀ (regroup q s) := by
  unfold regroup
  repeat' with_reducible first | assumption | intro _ | split | dsimp only | apply onJobs_kept | apply dispatch_kept

theorem voteSwitch_kept {s₀ : State} {q : PartIx} {s : State} {j : Job}
    (hk : Kept s₀ s) : Kept s₀ (voteSwitch q s j) := by
  unfold voteSwitch
  repeat' with_reducible first | assumption | split | dsimp only | apply endJob_kept | apply switchJob_kept

theorem finishVotes_kept {s₀ : State} {q : PartIx} {outs : List JobOut} {s : State}
    (hk : Kept s₀ s) : Kept s₀ (finishVotes q outs s) := by
  unfold finishVotes
  repeat' with_reducible first
    | assumption | intro _ | split | dsimp only | refine Kept.foldl _ ?_ ?_ | refine Kept.foldlPair _ ?_ ?_
    | apply onJobs_kept | apply rewindCuts_kept | apply flushTasks_kept | apply atRisk_kept | apply commitPass_kept
    | apply completeJobs_kept | apply cancelJobs_kept | apply nextPass_kept | apply endWorn_kept | apply regroup_kept
    | apply voteSwitch_kept | refine Kept.of_pair (by assumption) ?_

theorem execPassBoundary_kept {s₀ : State} {q : PartIx} {outs : List JobOut} {s : State}
    (hk : Kept s₀ s) : KeptOut s₀ (execPassBoundary q outs s) := by
  unfold execPassBoundary
  repeat' with_reducible first
    | assumption | apply KeptOut.next | intro _ | split | dsimp only | refine Kept.foldl _ ?_ ?_
    | refine Kept.foldlPair _ ?_ ?_ | apply onJobs_kept | apply sendSettles_kept | apply commitPass_kept
    | apply completeJobs_kept | apply cancelJobs_kept | apply chargeJobs_kept | apply monitorJobs_kept
    | apply nextPass_kept | apply postVote_kept | apply finishVotes_kept | refine Kept.of_pair (by assumption) ?_

theorem execVoteResult_kept {s₀ : State} {q : PartIx} {job : Word} {s : State}
    (hk : Kept s₀ s) : KeptOut s₀ (execVoteResult q job s) := by
  unfold execVoteResult
  repeat' with_reducible first
    | assumption | apply KeptOut.next | intro _ | split | dsimp only | apply onJob_kept | apply storeEpochs_kept

theorem failedSwitch_kept {s₀ : State} {q : PartIx} {s : State} {id : Word}
    (hk : Kept s₀ s) : Kept s₀ (failedSwitch q s id) := by
  unfold failedSwitch
  repeat' with_reducible first | assumption | split | dsimp only | apply switchJob_kept

theorem execFailedPass_kept {s₀ : State} {q : PartIx} {why : PassFail} {jobs : List Word} {s : State}
    (hk : Kept s₀ s) : KeptOut s₀ (execFailedPass q why jobs s) := by
  unfold execFailedPass
  repeat' with_reducible first
    | assumption | apply KeptOut.next | intro _ | split | dsimp only | refine Kept.foldl _ ?_ ?_
    | refine Kept.foldlPair _ ?_ ?_ | apply onJobs_kept | apply rewindCuts_kept | apply endJob_kept
    | apply dispatch_kept | apply flushTasks_kept | apply endWorn_kept | apply regroup_kept | apply failedSwitch_kept
    | refine Kept.of_pair (by assumption) ?_

theorem execLongHoldDecision_kept {s₀ : State} {s : State} (hk : Kept s₀ s) : KeptOut s₀ (execLongHoldDecision s) := by
  unfold execLongHoldDecision
  repeat' with_reducible first
    | assumption | apply KeptOut.next | intro _ | split | dsimp only | refine Kept.forAll _ ?_ ?_
    | apply queueLog_kept | apply onJobs_kept | refine Kept.fields ?_ ?_ ?_ ?_
  all_goals rfl

theorem sendMsix_kept {s₀ : State} {f : FnIx} {v : VecIx} {s : State} (hk : Kept s₀ s) : Kept s₀ (sendMsix f v s) := by
  unfold sendMsix
  repeat' with_reducible first | assumption | intro _ | dsimp only | apply Kept.onFunc | apply hostWrite_kept

theorem tryMsix_kept {s₀ : State} {f : FnIx} {v : VecIx} {s : State} (hk : Kept s₀ s) : Kept s₀ (tryMsix f v s) := by
  unfold tryMsix
  repeat' with_reducible first | assumption | intro _ | split | dsimp only | apply Kept.onFunc | apply sendMsix_kept

theorem tryAll_kept {s₀ : State} {f : FnIx} {s : State} (hk : Kept s₀ s) : Kept s₀ (tryAll f s) := by
  unfold tryAll
  repeat' with_reducible first | assumption | intro _ | dsimp only | refine Kept.forAll _ ?_ ?_ | apply tryMsix_kept

theorem execMsixMessage_kept {s₀ : State} {f : FnIx} {v : VecIx} {s : State}
    (hk : Kept s₀ s) : KeptOut s₀ (execMsixMessage f v s) := by
  unfold execMsixMessage
  repeat' with_reducible first | assumption | apply KeptOut.next | dsimp only | apply tryMsix_kept

theorem execIrqModerationTimeout_kept {s₀ : State} {f : FnIx} {v : VecIx} {s : State}
    (hk : Kept s₀ s) : KeptOut s₀ (execIrqModerationTimeout f v s) := by
  unfold execIrqModerationTimeout
  repeat' with_reducible first | assumption | apply KeptOut.next | dsimp only | apply tryMsix_kept

theorem execIrqBudgetRefill_kept {s₀ : State} {f : FnIx} {s : State}
    (hk : Kept s₀ s) : KeptOut s₀ (execIrqBudgetRefill f s) := by
  unfold execIrqBudgetRefill
  repeat' with_reducible first
    | assumption | apply KeptOut.next | intro _ | split | dsimp only | apply Kept.onFunc | refine Kept.forAll _ ?_ ?_
    | apply tryMsix_kept

theorem execIrqCauseClear_kept {s₀ : State} {f : FnIx} {w : Word} {s : State}
    (hk : Kept s₀ s) : KeptOut s₀ (execIrqCauseClear f w s) := by
  unfold execIrqCauseClear
  repeat' with_reducible first | assumption | apply KeptOut.next | intro _ | dsimp only | apply Kept.onFunc

theorem execFunctionMaskWrite_kept {s₀ : State} {f : FnIx} {mask : Bool} {s : State}
    (hk : Kept s₀ s) : KeptOut s₀ (execFunctionMaskWrite f mask s) := by
  unfold execFunctionMaskWrite
  repeat' with_reducible first
    | assumption | apply KeptOut.next | intro _ | split | dsimp only | apply Kept.onFunc | apply tryAll_kept

end Sys2Proof.Machine
end

