-- ==== Sys2Proof/Laws/KeptDevice.lean ====
section
/-! SUPPORT. The commands of the Fence, the resets, start-up, the faults and the register reads keep the queue, the fuses and the form of memory. -/

namespace Sys2Proof.Machine

open Host

set_option linter.all false

theorem loadConfig_kept {s₀ : State} {b : List Byte} {s : State} (hk : Kept s₀ s) : Kept s₀ (loadConfig b s) := by
  unfold loadConfig
  repeat' with_reducible first
    | assumption | intro _ | split | dsimp only | apply Kept.getD | refine Kept.fields ?_ ?_ ?_ ?_
  all_goals rfl

theorem chosen_kept {s₀ : State} {c : Choice} {b : List Byte} {s : State}
    (hk : Kept s₀ s) : Kept s₀ (chosen c b s) := by
  unfold chosen
  repeat' with_reducible first | assumption | split | dsimp only | refine Kept.fields ?_ ?_ ?_ ?_
  all_goals rfl

theorem imageRecords_kept {s₀ : State} {c : Choice} {s : State} (hk : Kept s₀ s) : Kept s₀ (imageRecords c s) := by
  unfold imageRecords
  repeat' with_reducible first | assumption | split | dsimp only | apply queueLog_kept

theorem noteAlert_kept {s₀ : State} {before after : State} (hk : Kept s₀ after) : Kept s₀ (noteAlert before after) := by
  unfold noteAlert
  repeat' with_reducible first
    | assumption | intro _ | split | dsimp only | refine Kept.of_pair (by assumption) ?_
    | refine Kept.fields ?_ ?_ ?_ ?_
  all_goals rfl

theorem execAlertMinimumExpire_kept {s₀ : State} {s : State}
    (hk : Kept s₀ s) : KeptOut s₀ (execAlertMinimumExpire s) := by
  unfold execAlertMinimumExpire
  repeat' with_reducible first | assumption | apply KeptOut.next | split | dsimp only | refine Kept.fields ?_ ?_ ?_ ?_
  all_goals rfl

theorem fenceEvent_kept {s₀ : State} {s : State} (hk : Kept s₀ s) : Kept s₀ (fenceEvent s) := by
  unfold fenceEvent
  repeat' with_reducible first | assumption | dsimp only | apply raiseFence_kept | apply almEvent_kept

theorem admitAll_kept {s₀ : State} {from_ : BitVec 3 → Bool} {a : BitVec 3} {s : State}
    (hk : Kept s₀ s) : Kept s₀ (admitAll from_ a s) := by
  unfold admitAll
  repeat' with_reducible first | assumption | intro _ | dsimp only | refine Kept.forAll _ ?_ ?_ | apply setAdmit_kept

theorem safeHold_kept {s₀ : State} {cause : BitVec 4} {s : State} (hk : Kept s₀ s) : Kept s₀ (safeHold cause s) := by
  unfold safeHold
  repeat' with_reducible first
    | assumption | intro _ | split | dsimp only | apply noteAlert_kept | apply fenceEvent_kept | apply admitAll_kept
    | refine Kept.fields ?_ ?_ ?_ ?_
  all_goals rfl

theorem throttleLow_kept {s₀ : State} {s : State} (hk : Kept s₀ s) : Kept s₀ (throttleLow s) := by
  unfold throttleLow
  repeat' with_reducible first
    | assumption | dsimp only | apply kickClocks_kept | apply noteAlert_kept | apply throttleLow_kept
    | refine Kept.fields ?_ ?_ ?_ ?_
  all_goals rfl

theorem setLevel_kept {s₀ : State} {pin : Nat} {high : Bool} {s : State}
    (hk : Kept s₀ s) : Kept s₀ (setLevel pin high s) := by
  unfold setLevel
  repeat' with_reducible first | assumption | dsimp only | refine Kept.fields ?_ ?_ ?_ ?_
  all_goals rfl

theorem execThrottleNAssert_kept {s₀ : State} {s : State} (hk : Kept s₀ s) : KeptOut s₀ (execThrottleNAssert s) := by
  unfold execThrottleNAssert
  repeat' with_reducible first
    | assumption | apply KeptOut.next | split | dsimp only | apply throttleLow_kept | apply setLevel_kept

theorem execThrottleNRelease_kept {s₀ : State} {s : State} (hk : Kept s₀ s) : KeptOut s₀ (execThrottleNRelease s) := by
  unfold execThrottleNRelease
  repeat' with_reducible first
    | assumption | apply KeptOut.next | split | dsimp only | apply throttleLow_kept | apply setLevel_kept
    | refine Kept.fields ?_ ?_ ?_ ?_
  all_goals rfl

theorem execPinLimitLift_kept {s₀ : State} {s : State} (hk : Kept s₀ s) : KeptOut s₀ (execPinLimitLift s) := by
  unfold execPinLimitLift
  repeat' with_reducible first
    | assumption | apply KeptOut.next | split | dsimp only | apply kickClocks_kept | refine Kept.fields ?_ ?_ ?_ ?_
  all_goals rfl

theorem logAccess_kept {s₀ : State} {f : FnIx} {kind bar : BitVec 2} {offset : BitVec 16} {s : State}
    (hk : Kept s₀ s) : Kept s₀ (logAccess f kind bar offset s) := by
  unfold logAccess
  repeat' with_reducible first | assumption | intro _ | dsimp only | apply Kept.onFunc

theorem foreignWrite_kept {s₀ : State} {code : BitVec 4} {offset : BitVec 16} {s : State}
    (hk : Kept s₀ s) : Kept s₀ (foreignWrite code offset s) := by
  unfold foreignWrite
  repeat' with_reducible first
    | assumption | dsimp only | apply noteAlert_kept | apply fenceEvent_kept | refine Kept.fields ?_ ?_ ?_ ?_
  all_goals rfl

theorem execForeignWrite_kept {s₀ : State} {src : FenceSource} {offset : BitVec 16} {_data : Word} {s : State}
    (hk : Kept s₀ s) : KeptOut s₀ (execForeignWrite src offset _data s) := by
  unfold execForeignWrite
  repeat' with_reducible first
    | assumption | apply KeptOut.next | split | dsimp only | apply logAer_kept | apply logAccess_kept
    | apply foreignWrite_kept

theorem execLockstepMismatch_kept {s₀ : State} {s : State} (hk : Kept s₀ s) : KeptOut s₀ (execLockstepMismatch s) := by
  unfold execLockstepMismatch
  repeat' with_reducible first
    | assumption | apply KeptOut.next | split | dsimp only | apply fenceEvent_kept | apply safeHold_kept
    | refine Kept.fields ?_ ?_ ?_ ?_
  all_goals rfl

theorem execLockstepRestartDone_kept {s₀ : State} {s : State}
    (hk : Kept s₀ s) : KeptOut s₀ (execLockstepRestartDone s) := by
  unfold execLockstepRestartDone
  repeat' with_reducible first | assumption | apply KeptOut.next | dsimp only | refine Kept.fields ?_ ?_ ?_ ?_
  all_goals rfl

theorem voteInterval_kept {s₀ : State} {upsets : List CopyUpset} {s : State}
    (hk : Kept s₀ s) : Kept s₀ (voteInterval upsets s) := by
  unfold voteInterval
  repeat' with_reducible first
    | assumption | intro _ | split | dsimp only | refine Kept.foldl _ ?_ ?_ | apply Kept.getD | apply safeHold_kept
    | refine Kept.of_pair (by assumption) ?_ | refine Kept.fields ?_ ?_ ?_ ?_
  all_goals rfl

theorem scaleShares_kept {s₀ : State} {s : State} (hk : Kept s₀ s) : Kept s₀ (scaleShares s) := by
  unfold scaleShares
  repeat' with_reducible first
    | assumption | intro _ | split | dsimp only | apply Kept.onPart | refine Kept.forAll _ ?_ ?_

theorem settlePart_kept {s₀ : State} {old : State} {e : Nat} {s : State} {q : PartIx}
    (hk : Kept s₀ s) : Kept s₀ (settlePart old e s q) := by
  unfold settlePart
  repeat' with_reducible first
    | assumption | intro _ | split | dsimp only | apply Kept.onBed | apply Kept.onPart | refine Kept.forAll _ ?_ ?_

theorem settleAll_kept {s₀ : State} {e : Nat} {s : State} (hk : Kept s₀ s) : Kept s₀ (settleAll e s) := by
  unfold settleAll
  repeat' with_reducible first
    | assumption | intro _ | dsimp only | refine Kept.foldl _ ?_ ?_ | refine Kept.foldlPair _ ?_ ?_
    | apply settlePart_kept | refine Kept.of_pair (by assumption) ?_ | refine Kept.fields ?_ ?_ ?_ ?_
  all_goals rfl

theorem capInterval_kept {s₀ : State} {e : Nat} {s : State} (hk : Kept s₀ s) : Kept s₀ (capInterval e s) := by
  unfold capInterval
  repeat' with_reducible first
    | assumption | intro _ | dsimp only | apply kickClocks_kept | refine Kept.fields ?_ ?_ ?_ ?_
  all_goals rfl

theorem heartbeats_kept {s₀ : State} {s : State} (hk : Kept s₀ s) : Kept s₀ (heartbeats s) := by
  unfold heartbeats
  repeat' with_reducible first | assumption | intro _ | split | dsimp only | refine Kept.fields ?_ ?_ ?_ ?_
  all_goals rfl

theorem execGaugeInterval_kept {s₀ : State} {microJ : BitVec 32} {upsets : List CopyUpset} {s : State}
    (hk : Kept s₀ s) : KeptOut s₀ (execGaugeInterval microJ upsets s) := by
  unfold execGaugeInterval
  repeat' with_reducible first
    | assumption | apply KeptOut.next | split | dsimp only | apply noteAlert_kept | apply voteInterval_kept
    | apply settleAll_kept | apply capInterval_kept | apply heartbeats_kept | refine Kept.fields ?_ ?_ ?_ ?_
  all_goals rfl

theorem deviceReset_kept {s₀ : State} {cause : BitVec 4} {railsFell : Bool} {s : State} (hk : Kept s₀ s) :
    Kept s₀ (deviceReset cause railsFell s) := by
  unfold deviceReset
  refine ⟨hk.pending, hk.keyHash, hk.revoked, hk.order, fun w => ?_⟩
  replace w := hk.mem w
  rw [Memory.wf_iff] at *
  exact ⟨rfl, rfl, rfl, rfl, rfl, w.2.2.2.2.2⟩

theorem execPowerOn_kept {s₀ : State} {s : State} (hk : Kept s₀ s) : KeptOut s₀ (execPowerOn s) := by
  unfold execPowerOn
  repeat' with_reducible first | assumption | apply KeptOut.next | dsimp only | apply deviceReset_kept

theorem execModuleReset_kept {s₀ : State} {s : State} (hk : Kept s₀ s) : KeptOut s₀ (execModuleReset s) := by
  unfold execModuleReset
  repeat' with_reducible first
    | assumption | apply KeptOut.next | split | dsimp only | apply deviceReset_kept | refine Kept.fields ?_ ?_ ?_ ?_
  all_goals rfl

theorem execSupplyReset_kept {s₀ : State} {_e : SupplyEvent} {s : State}
    (hk : Kept s₀ s) : KeptOut s₀ (execSupplyReset _e s) := by
  unfold execSupplyReset
  repeat' with_reducible first | assumption | apply KeptOut.next | dsimp only | apply deviceReset_kept

theorem execOverVoltage_kept {s₀ : State} {_e : SupplyEvent} {s : State}
    (hk : Kept s₀ s) : KeptOut s₀ (execOverVoltage _e s) := by
  unfold execOverVoltage
  repeat' with_reducible first | assumption | apply KeptOut.next | dsimp only | apply deviceReset_kept

theorem execResetRelease_kept {s₀ : State} {s : State} (hk : Kept s₀ s) : KeptOut s₀ (execResetRelease s) := by
  unfold execResetRelease
  repeat' with_reducible first
    | assumption | apply KeptOut.next | intro _ | split | dsimp only | refine Kept.fields ?_ ?_ ?_ ?_
  all_goals rfl

theorem execThermalSample_kept {s₀ : State} {t : Temps} {s : State}
    (hk : Kept s₀ s) : KeptOut s₀ (execThermalSample t s) := by
  unfold execThermalSample
  repeat' with_reducible first
    | assumption | apply KeptOut.next | intro _ | split | dsimp only | apply kickClocks_kept | apply noteAlert_kept
    | apply deviceReset_kept | refine Kept.fields ?_ ?_ ?_ ?_
  all_goals rfl

theorem holdPipes_kept {s₀ : State} {from_ to_ : BitVec 2} {s : State}
    (hk : Kept s₀ s) : Kept s₀ (holdPipes from_ to_ s) := by
  unfold holdPipes
  repeat' with_reducible first | assumption | intro _ | split | dsimp only | refine Kept.fields ?_ ?_ ?_ ?_
  all_goals rfl

theorem enterHold_kept {s₀ : State} {s : State} (hk : Kept s₀ s) : Kept s₀ (enterHold s) := by
  unfold enterHold
  repeat' with_reducible first
    | assumption | intro _ | dsimp only | apply raiseDevice_kept | apply noteAlert_kept | apply admitAll_kept
    | apply holdPipes_kept | refine Kept.fields ?_ ?_ ?_ ?_
  all_goals rfl

theorem execSupplyWarning_kept {s₀ : State} {_e : SupplyEvent} {s : State}
    (hk : Kept s₀ s) : KeptOut s₀ (execSupplyWarning _e s) := by
  unfold execSupplyWarning
  repeat' with_reducible first
    | assumption | apply KeptOut.next | split | dsimp only | apply enterHold_kept | refine Kept.fields ?_ ?_ ?_ ?_
  all_goals rfl

theorem execSupplyRecovery_kept {s₀ : State} {s : State} (hk : Kept s₀ s) : KeptOut s₀ (execSupplyRecovery s) := by
  unfold execSupplyRecovery
  repeat' with_reducible first | assumption | apply KeptOut.next | split | dsimp only | refine Kept.fields ?_ ?_ ?_ ?_
  all_goals rfl

theorem execSupplyDip_kept {s₀ : State} {s : State} (hk : Kept s₀ s) : KeptOut s₀ (execSupplyDip s) := by
  unfold execSupplyDip
  repeat' with_reducible first | assumption | apply KeptOut.next | split | dsimp only | refine Kept.fields ?_ ?_ ?_ ?_
  all_goals rfl

theorem execSupplyQualified_kept {s₀ : State} {s : State} (hk : Kept s₀ s) : KeptOut s₀ (execSupplyQualified s) := by
  unfold execSupplyQualified
  repeat' with_reducible first | assumption | apply KeptOut.next | split | dsimp only | refine Kept.fields ?_ ?_ ?_ ?_
  all_goals rfl

theorem chargeHold_kept {s₀ : State} {us : Nat} {s : State} (hk : Kept s₀ s) : Kept s₀ (chargeHold us s) := by
  unfold chargeHold
  repeat' with_reducible first | assumption | intro _ | dsimp only | refine Kept.fields ?_ ?_ ?_ ?_
  all_goals rfl

theorem execHoldResume_kept {s₀ : State} {s : State} (hk : Kept s₀ s) : KeptOut s₀ (execHoldResume s) := by
  unfold execHoldResume
  repeat' with_reducible first
    | assumption | apply KeptOut.next | intro _ | split | dsimp only | refine Kept.forAll _ ?_ ?_
    | apply raiseDevice_kept | apply continueReset_kept | apply noteAlert_kept | apply admitAll_kept
    | apply holdPipes_kept | apply chargeHold_kept | refine Kept.fields ?_ ?_ ?_ ?_
  all_goals rfl

theorem resetAnew_kept {s₀ : State} {s : State} {q : PartIx} (hk : Kept s₀ s) : Kept s₀ (resetAnew s q) := by
  unfold resetAnew
  repeat' with_reducible first | assumption | split | dsimp only | apply beginReset_kept

theorem execPcieWarmReset_kept {s₀ : State} {s : State} (hk : Kept s₀ s) : KeptOut s₀ (execPcieWarmReset s) := by
  unfold execPcieWarmReset
  repeat' with_reducible first
    | assumption | apply KeptOut.next | intro _ | split | dsimp only | refine Kept.foldl _ ?_ ?_
    | apply resetAnew_kept | refine Kept.of_pair (by assumption) ?_ | refine Kept.fields ?_ ?_ ?_ ?_
  all_goals rfl

theorem execStrapLatch_kept {s₀ : State} {levels : BitVec 8} {s : State}
    (hk : Kept s₀ s) : KeptOut s₀ (execStrapLatch levels s) := by
  unfold execStrapLatch
  repeat' with_reducible first | assumption | apply KeptOut.next | split | dsimp only | refine Kept.fields ?_ ?_ ?_ ?_
  all_goals rfl

theorem retire_kept {s₀ : State} {sector : Bool} {s : State} (hk : Kept s₀ s) : Kept s₀ (retire sector s) := by
  unfold retire
  repeat' with_reducible first | assumption | dsimp only | apply flashProgram_kept

theorem activate_kept {s₀ : State} {sector rotate : Bool} {s : State}
    (hk : Kept s₀ s) : Kept s₀ (activate sector rotate s) := by
  unfold activate
  repeat' with_reducible first | assumption | dsimp only | refine Kept.fields ?_ ?_ ?_ ?_
  all_goals rfl

theorem activateOne_kept {s₀ : State} {sector : Bool} {s : State}
    (hk : Kept s₀ s) : Kept s₀ (activateOne sector s) := by
  unfold activateOne
  repeat' with_reducible first | assumption | split | dsimp only | apply retire_kept | apply activate_kept

theorem openLog_kept {s₀ : State} {s : State} (hk : Kept s₀ s) : Kept s₀ (openLog s) := by
  unfold openLog
  repeat' with_reducible first
    | assumption | dsimp only | apply queueLog_kept | apply flashProgram_kept | apply flashErase_kept
    | apply activate_kept

theorem logConflict_kept {s₀ : State} {s : State} (hk : Kept s₀ s) : Kept s₀ (logConflict s) := by
  unfold logConflict
  repeat' with_reducible first
    | assumption | dsimp only | apply queueLog_kept | apply activate_kept | refine Kept.fields ?_ ?_ ?_ ?_
  all_goals rfl

theorem pickSector_kept {s₀ : State} {s : State} (hk : Kept s₀ s) : Kept s₀ (pickSector s) := by
  unfold pickSector
  repeat' with_reducible first
    | assumption | split | dsimp only | apply retire_kept | apply activate_kept | apply activateOne_kept
    | apply openLog_kept | apply logConflict_kept

theorem settleSlot_kept {s₀ : State} {s : State} {n : Nat} (hk : Kept s₀ s) : Kept s₀ (settleSlot s n) := by
  unfold settleSlot
  repeat' with_reducible first
    | assumption | split | dsimp only | apply flashProgram_kept | refine Kept.fields ?_ ?_ ?_ ?_
  all_goals rfl

theorem countReturns_kept {s₀ : State} {s : State} {r : BitVec 512} (hk : Kept s₀ s) : Kept s₀ (countReturns s r) := by
  unfold countReturns
  repeat' with_reducible first
    | assumption | intro _ | split | dsimp only | apply Kept.onPlot | apply Kept.onCis | apply Kept.onCore
    | apply onPort_kept | refine Kept.fields ?_ ?_ ?_ ?_
  all_goals rfl

theorem setModule_kept {s₀ : State} {m : TrModule} {s : State} (hk : Kept s₀ s) : Kept s₀ (setModule m s) := by
  unfold setModule
  repeat' with_reducible first | assumption | intro _ | dsimp only | refine Kept.fields ?_ ?_ ?_ ?_
  all_goals rfl

theorem applyPrune_kept {s₀ : State} {s : State} {r : BitVec 512} (hk : Kept s₀ s) : Kept s₀ (applyPrune s r) := by
  unfold applyPrune
  repeat' with_reducible first
    | assumption | intro _ | split | dsimp only | apply Kept.onPlot | apply Kept.onCis | apply Kept.onCore
    | apply onPort_kept | apply setModule_kept

theorem settleSlots_kept {s₀ : State} {s : State} (hk : Kept s₀ s) : Kept s₀ (settleSlots s) :=
  Kept.foldl (List.range 4095) (fun _ _ h => settleSlot_kept h) hk

theorem seqBoots_kept {s₀ s : State} (x y : Word) (hk : Kept s₀ s) :
    Kept s₀ { s with image := { s.image with seq := x, boots := y } } := Kept.fields hk rfl rfl rfl

theorem applyLog_kept {s₀ : State} {s : State} (hk : Kept s₀ s) : Kept s₀ (applyLog s) := by
  unfold applyLog
  dsimp only
  have h2 : Kept s₀ (settleSlots (pickSector s)) := settleSlots_kept (pickSector_kept hk)
  generalize settleSlots (pickSector s) = s2 at h2 ⊢
  have h3 := seqBoots_kept (BitVec.ofNat 32 (lastSeq s2 s2.image.sector)) (nextBoot (orderedLog s2)) h2
  exact Kept.foldl _ (fun _ _ h => applyPrune_kept h) (Kept.foldl _ (fun _ _ h => countReturns_kept h) h3)

theorem enablePort_kept {s₀ : State} {s : State} {p : PortIx} (hk : Kept s₀ s) : Kept s₀ (enablePort s p) := by
  unfold enablePort
  repeat' with_reducible first | assumption | intro _ | split | dsimp only | apply onPort_kept | apply setLinkEn_kept

theorem enablePorts_kept {s₀ : State} {s : State} (hk : Kept s₀ s) : Kept s₀ (enablePorts s) := by
  unfold enablePorts
  repeat' with_reducible first
    | assumption | intro _ | dsimp only | refine Kept.foldl _ ?_ ?_ | apply enablePort_kept
    | refine Kept.of_pair (by assumption) ?_

theorem loadFence_kept {s₀ : State} {b : List Byte} {s : State} (hk : Kept s₀ s) : Kept s₀ (loadFence b s) := by
  unfold loadFence
  repeat' with_reducible first | assumption | dsimp only | refine Kept.fields ?_ ?_ ?_ ?_
  all_goals rfl

theorem testClocks_kept {s₀ : State} {s : State} (hk : Kept s₀ s) : Kept s₀ (testClocks s) := by
  unfold testClocks
  repeat' with_reducible first | assumption | intro _ | dsimp only | refine Kept.forAll _ ?_ ?_ | apply setTarget_kept

theorem enterRecovery_kept {s₀ : State} {c : Choice} {s : State} (hk : Kept s₀ s) : Kept s₀ (enterRecovery c s) := by
  unfold enterRecovery
  repeat' with_reducible first
    | assumption | split | dsimp only | apply safeHold_kept | refine Kept.fields ?_ ?_ ?_ ?_
  all_goals rfl

theorem execImageVerified_kept {s₀ : State} {flashErr : BitVec 2} {s : State} (hk : Kept s₀ s) :
    KeptOut s₀ (execImageVerified flashErr s) := by
  unfold execImageVerified
  refine KeptOut.next ?_
  split
  · exact hk
  generalize chooseCopy s flashErr = c
  dsimp only
  split
  · exact enterRecovery_kept (chosen_kept hk)
  rename_i d _
  generalize imageBytes s d = b
  have h1 : Kept s₀ (loadConfig b (loadFence b (chosen c b s))) := loadConfig_kept (loadFence_kept (chosen_kept hk))
  generalize loadConfig b (loadFence b (chosen c b s)) = s1 at h1
  have h2 : Kept s₀ (forAll (definedParts s1) (fun s q => s.onPart q fun x => { x with bal := burstOf s q }) s1) :=
    Kept.forAll _ (fun _ _ h => Kept.onPart _ _ h) h1
  generalize forAll (definedParts s1) (fun s q => s.onPart q fun x => { x with bal := burstOf s q }) s1 = s2 at h2
  exact testClocks_kept (enablePorts_kept (imageRecords_kept (applyLog_kept (Kept.fields h2 rfl rfl rfl))))

theorem testChan_kept {s₀ : State} {r : InitReport} {first : Bool} {s : State} {i : Nat}
    (hk : Kept s₀ s) : Kept s₀ (testChan r first s i) := by
  unfold testChan
  repeat' with_reducible first
    | assumption | intro _ | split | dsimp only | apply recordPrune_kept | apply onChan_kept | apply recordReturn_kept

theorem returnPlot_kept {s₀ : State} {p : PlotIx} {s : State} (hk : Kept s₀ s) : Kept s₀ (returnPlot p s) := by
  unfold returnPlot
  repeat' with_reducible first
    | assumption | intro _ | split | dsimp only | apply Kept.onPlot | refine Kept.foldl _ ?_ ?_
    | apply recordReturn_kept | refine Kept.of_pair (by assumption) ?_

theorem openPlot_kept {s₀ : State} {p : PlotIx} {s : State} (hk : Kept s₀ s) : Kept s₀ (openPlot p s) := by
  unfold openPlot
  repeat' with_reducible first
    | assumption | intro _ | split | dsimp only | apply Kept.onPlot | apply reloadDefaults_kept

theorem testPlot_kept {s₀ : State} {r : InitReport} {s : State} {p : PlotIx}
    (hk : Kept s₀ s) : Kept s₀ (testPlot r s p) := by
  unfold testPlot
  repeat' with_reducible first
    | assumption | split | dsimp only | apply prunePlot_kept | apply returnPlot_kept | apply openPlot_kept

theorem testCore_kept {s₀ : State} {r : InitReport} {s : State} {c : CoreIx}
    (hk : Kept s₀ s) : Kept s₀ (testCore r s c) := by
  unfold testCore
  repeat' with_reducible first
    | assumption | intro _ | split | dsimp only | apply Kept.onCore | apply recordReturn_kept

theorem trReturn_kept {s₀ : State} {kind : Nat} {s : State} {m : TrModule} {sub : Nat}
    (hk : Kept s₀ s) : Kept s₀ (trReturn kind s m sub) := by
  unfold trReturn
  repeat' with_reducible first | assumption | dsimp only | apply recordReturn_kept | refine Kept.fields ?_ ?_ ?_ ?_
  all_goals rfl

theorem testModule_kept {s₀ : State} {r : InitReport} {s : State} {m : TrModule}
    (hk : Kept s₀ s) : Kept s₀ (testModule r s m) := by
  unfold testModule
  repeat' with_reducible first
    | assumption | intro _ | split | dsimp only | refine Kept.foldl _ ?_ ?_ | apply setModule_kept
    | apply trReturn_kept | refine Kept.of_pair (by assumption) ?_

theorem runTests_kept {s₀ : State} {r : InitReport} {first : Bool} {s : State}
    (hk : Kept s₀ s) : Kept s₀ (runTests r first s) := by
  unfold runTests
  repeat' with_reducible first
    | assumption | intro _ | split | dsimp only | refine Kept.foldl _ ?_ ?_ | apply testChan_kept
    | apply testPlot_kept | apply testCore_kept | apply testModule_kept | refine Kept.of_pair (by assumption) ?_

theorem buildTables_kept {s₀ : State} {s : State} (hk : Kept s₀ s) : Kept s₀ (buildTables s) := by
  unfold buildTables
  refine Kept.forAll _ (fun _ _ h => Kept.onPart _ _ h) (Kept.onMem _ (fun m hm => ?_) hk)
  rw [Memory.wf_iff] at *
  exact ⟨hm.1, hm.2.1, hm.2.2.1, hm.2.2.2.1, tabWf_foldl _ (fun _ _ h => tabWf_write _ _ h) _ rfl, hm.2.2.2.2.2⟩

theorem bootRecord_kept {s₀ : State} {s : State} (hk : Kept s₀ s) : Kept s₀ (bootRecord s) := by
  unfold bootRecord
  repeat' with_reducible first | assumption | dsimp only | apply queueLog_kept

theorem openParts_kept {s₀ : State} {s : State} (hk : Kept s₀ s) : Kept s₀ (openParts s) := by
  unfold openParts
  repeat' with_reducible first
    | assumption | intro _ | dsimp only | apply Kept.onPart | refine Kept.forAll _ ?_ ?_ | apply setAdmit_kept

theorem execMemoryInitComplete_kept {s₀ : State} {r : InitReport} {s : State}
    (hk : Kept s₀ s) : KeptOut s₀ (execMemoryInitComplete r s) := by
  unfold execMemoryInitComplete
  repeat' with_reducible first
    | assumption | apply KeptOut.next | intro _ | split | dsimp only | refine Kept.forAll _ ?_ ?_ | apply Kept.getD
    | apply answerWaiting_kept | apply setTarget_kept | apply scaleShares_kept | apply runTests_kept
    | apply buildTables_kept | apply bootRecord_kept | apply openParts_kept | refine Kept.fields ?_ ?_ ?_ ?_
  all_goals rfl

theorem changePins_kept {s₀ : State} {b : List Byte} {s : State} (hk : Kept s₀ s) : Kept s₀ (changePins b s) := by
  unfold changePins
  repeat' with_reducible first | assumption | intro _ | split | dsimp only | refine Kept.fields ?_ ?_ ?_ ?_
  all_goals rfl

theorem replantClear_kept {s₀ : State} {s : State} (hk : Kept s₀ s) : Kept s₀ (replantClear s) := by
  unfold replantClear
  refine ⟨hk.pending, hk.keyHash, hk.revoked, hk.order, fun w => ?_⟩
  replace w := hk.mem w
  rw [Memory.wf_iff] at *
  exact ⟨rfl, rfl, rfl, rfl, rfl, w.2.2.2.2.2⟩

theorem replantLoad_kept {s₀ : State} {d : Fin 2} {s : State} (hk : Kept s₀ s) : Kept s₀ (replantLoad d s) := by
  unfold replantLoad
  generalize imageBytes s d = b
  dsimp only
  generalize { copy := some d, a := s.image.aReason.toNat, b := s.image.bReason.toNat, forced := s.image.forced, conflict := false : Choice } = c
  have h1 : Kept s₀ (changePins b (loadConfig b (loadFence b (chosen c b (replantClear s))))) :=
    changePins_kept (loadConfig_kept (loadFence_kept (chosen_kept (replantClear_kept hk))))
  generalize changePins b (loadConfig b (loadFence b (chosen c b (replantClear s)))) = s1 at h1
  have h2 : Kept s₀ (forAll (definedParts s1) (fun s q => s.onPart q fun x => { x with bal := burstOf s q }) s1) :=
    Kept.forAll _ (fun _ _ h => Kept.onPart _ _ h) h1
  generalize forAll (definedParts s1) (fun s q => s.onPart q fun x => { x with bal := burstOf s q }) s1 = s2 at h2
  exact testClocks_kept (enablePorts_kept (Kept.fields h2 rfl rfl rfl))

theorem replantGoesOn_kept {s₀ : State} {s : State} (hk : Kept s₀ s) : Kept s₀ (replantGoesOn s) := by
  unfold replantGoesOn
  repeat' with_reducible first | assumption | intro _ | split | dsimp only | apply replantLoad_kept

theorem execPartitionZeroingDone_kept {s₀ : State} {q : PartIx} {s : State}
    (hk : Kept s₀ s) : KeptOut s₀ (execPartitionZeroingDone q s) := by
  unfold execPartitionZeroingDone
  repeat' with_reducible first
    | assumption | apply KeptOut.next | split | dsimp only | apply zeroPartition_kept | apply finishReset_kept
    | apply replantGoesOn_kept

theorem beginReplant_kept {s₀ : State} {c : Choice} {d : Fin 2} {s : State}
    (hk : Kept s₀ s) : Kept s₀ (beginReplant c d s) := by
  unfold beginReplant
  repeat' with_reducible first
    | assumption | intro _ | dsimp only | refine Kept.foldl _ ?_ ?_ | apply imageRecords_kept | apply admitAll_kept
    | apply resetAnew_kept | apply replantGoesOn_kept | refine Kept.of_pair (by assumption) ?_
    | refine Kept.fields ?_ ?_ ?_ ?_
  all_goals rfl

theorem execReplant_kept {s₀ : State} {f : FnIx} {i : QpIx} {flashErr : BitVec 2} {s : State}
    (hk : Kept s₀ s) : KeptOut s₀ (execReplant f i flashErr s) := by
  unfold execReplant
  repeat' with_reducible first
    | assumption | apply KeptOut.next | intro _ | split | dsimp only | apply answerNow_kept | apply takeUp_kept
    | apply beginReplant_kept

theorem migrateFrom_kept {s₀ : State} {p : PlotIx} {s : State} (hk : Kept s₀ s) : Kept s₀ (migrateFrom p s) := by
  unfold migrateFrom
  repeat' with_reducible first | assumption | split | dsimp only | apply stopBatch_kept

theorem retireBank_kept {s₀ : State} {p : PlotIx} {bank : Fin 64} {cause : PruneCause} {n : Nat} {s : State}
    (hk : Kept s₀ s) : Kept s₀ (retireBank p bank cause n s) := by
  unfold retireBank
  repeat' with_reducible first
    | assumption | intro _ | split | dsimp only | apply Kept.onPlot | apply raiseCapacity_kept
    | apply recordPrune_kept | apply drawReserve_kept

theorem afterRetire_kept {s₀ : State} {p : PlotIx} {cause : PruneCause} {s : State}
    (hk : Kept s₀ s) : Kept s₀ (afterRetire p cause s) := by
  unfold afterRetire
  repeat' with_reducible first
    | assumption | split | dsimp only | apply failPassOn_kept | apply prunePlot_kept | apply migrateFrom_kept

theorem execBankRetire_kept {s₀ : State} {p : PlotIx} {bank : Fin 64} {cause : PruneCause} {s : State}
    (hk : Kept s₀ s) : KeptOut s₀ (execBankRetire p bank cause s) := by
  unfold execBankRetire
  repeat' with_reducible first
    | assumption | apply KeptOut.next | split | dsimp only | apply flushPlot_kept | apply retireBank_kept
    | apply afterRetire_kept

theorem laneDue_kept {s₀ : State} {link code : Nat} {s : State} (hk : Kept s₀ s) : Kept s₀ (laneDue link code s) := by
  unfold laneDue
  repeat' with_reducible first | assumption | split | dsimp only | refine Kept.fields ?_ ?_ ?_ ?_
  all_goals rfl

theorem countLane_kept {s₀ : State} {link code : Nat} {s : State}
    (hk : Kept s₀ s) : Kept s₀ (countLane link code s) := by
  unfold countLane
  repeat' with_reducible first
    | assumption | intro _ | split | dsimp only | apply Kept.getD | refine Kept.fields ?_ ?_ ?_ ?_
  all_goals rfl

theorem execFlitReplay_kept {s₀ : State} {link : Nat} {lane : Nat} {again : Bool} {s : State}
    (hk : Kept s₀ s) : KeptOut s₀ (execFlitReplay link lane again s) := by
  unfold execFlitReplay
  repeat' with_reducible first
    | assumption | apply KeptOut.next | exact KeptOut.fault _ | intro _ | split | dsimp only | apply Kept.getD
    | apply laneDue_kept | apply countLane_kept | refine Kept.fields ?_ ?_ ?_ ?_
  all_goals rfl

theorem bedLinkLost_kept {s₀ : State} {b : BedIx} {s : State} (hk : Kept s₀ s) : Kept s₀ (bedLinkLost b s) := by
  unfold bedLinkLost
  repeat' with_reducible first
    | assumption | intro _ | split | dsimp only | refine Kept.forAll _ ?_ ?_ | apply prunePlot_kept
    | apply discardMirror_kept | apply onJobs_kept

theorem linkLost_kept {s₀ : State} {link : Nat} {s : State} (hk : Kept s₀ s) : Kept s₀ (linkLost link s) := by
  unfold linkLost
  repeat' with_reducible first
    | assumption | split | dsimp only | apply safeHold_kept | apply bedLinkLost_kept | refine Kept.fields ?_ ?_ ?_ ?_
  all_goals rfl

theorem trPrune_kept {s₀ : State} {kind link sub count : Nat} {s : State}
    (hk : Kept s₀ s) : Kept s₀ (trPrune kind link sub count s) := by
  unfold trPrune
  repeat' with_reducible first
    | assumption | intro _ | dsimp only | refine Kept.forAll _ ?_ ?_ | apply raiseCapacity_kept
    | apply recordPrune_kept

theorem laneFails_kept {s₀ : State} {m : TrModule} {lane count : Nat} {s : State}
    (hk : Kept s₀ s) : Kept s₀ (laneFails m lane count s) := by
  unfold laneFails
  repeat' with_reducible first
    | assumption | intro _ | split | dsimp only | apply setModule_kept | apply linkLost_kept | apply trPrune_kept

theorem execTrellisLaneFault_kept {s₀ : State} {link : Nat} {dir : Bool} {module_ : Nat} {lane : Nat} {s : State}
    (hk : Kept s₀ s) : KeptOut s₀ (execTrellisLaneFault link dir module_ lane s) := by
  unfold execTrellisLaneFault
  repeat' with_reducible first
    | assumption | apply KeptOut.next | exact KeptOut.fault _ | split | dsimp only | apply laneFails_kept
    | refine Kept.fields ?_ ?_ ?_ ?_
  all_goals rfl

theorem holdCore_kept {s₀ : State} {c : CoreIx} {s : State} (hk : Kept s₀ s) : Kept s₀ (holdCore c s) := by
  unfold holdCore
  repeat' with_reducible first
    | assumption | intro _ | dsimp only | apply Kept.onCore | refine Kept.forAll _ ?_ ?_ | apply raiseCapacity_kept
    | apply recordPrune_kept | apply scaleShares_kept

theorem execWatchdogExpiry_kept {s₀ : State} {c : CoreIx} {s : State}
    (hk : Kept s₀ s) : KeptOut s₀ (execWatchdogExpiry c s) := by
  unfold execWatchdogExpiry
  repeat' with_reducible first
    | assumption | apply KeptOut.next | intro _ | split | dsimp only | apply Kept.onCore | apply holdCore_kept

theorem execCoreRestartDone_kept {s₀ : State} {c : CoreIx} {s : State}
    (hk : Kept s₀ s) : KeptOut s₀ (execCoreRestartDone c s) := by
  unfold execCoreRestartDone
  repeat' with_reducible first | assumption | apply KeptOut.next | intro _ | split | dsimp only | apply Kept.onCore

theorem execFaultWindowRollover_kept {s₀ : State} {day : Bool} {s : State}
    (hk : Kept s₀ s) : KeptOut s₀ (execFaultWindowRollover day s) := by
  unfold execFaultWindowRollover
  repeat' with_reducible first
    | assumption | apply KeptOut.next | exact KeptOut.fault _ | intro _ | split | dsimp only
    | refine Kept.fields ?_ ?_ ?_ ?_
  all_goals rfl

theorem execLowHalfRead_kept {s₀ : State} {r : RegReader} {b : Block} {offset len : Nat} {s : State}
    (hk : Kept s₀ s) : KeptOut s₀ (execLowHalfRead r b offset len s) := by
  unfold execLowHalfRead
  repeat' with_reducible first
    | assumption | apply KeptOut.next | intro _ | split | dsimp only | apply Kept.onFunc | apply logAccess_kept
    | refine Kept.fields ?_ ?_ ?_ ?_
  all_goals rfl

theorem execWindowSelect_kept {s₀ : State} {block : BitVec 8} {page : BitVec 2} {s : State}
    (hk : Kept s₀ s) : KeptOut s₀ (execWindowSelect block page s) := by
  unfold execWindowSelect
  repeat' with_reducible first | assumption | apply KeptOut.next | dsimp only | refine Kept.fields ?_ ?_ ?_ ?_
  all_goals rfl

theorem execAtsInvalidation_kept {s₀ : State} {f : FnIx} {_addr _len : DWord} {s : State}
    (hk : Kept s₀ s) : KeptOut s₀ (execAtsInvalidation f _addr _len s) := by
  unfold execAtsInvalidation
  repeat' with_reducible first | assumption | apply KeptOut.next | intro _ | split | dsimp only | apply Kept.onFunc

end Sys2Proof.Machine
end

