-- ==== Sys2Proof/Laws/KeptHost.lean ====
section
/-! SUPPORT. The commands of the gardener cores, the mailbox, the pins, the codec and the monitor keep the queue, the fuses and the form of memory. -/

namespace Sys2Proof.Machine

open Host

set_option linter.all false

theorem sendReply_kept {s₀ : State} {mbx : Bool} {body : List (List Byte)} {e : Option MonErr} {s : State}
    (hk : Kept s₀ s) : Kept s₀ (sendReply mbx body e s) := by
  unfold sendReply
  repeat' with_reducible first | assumption | split | dsimp only | refine Kept.fields ?_ ?_ ?_ ?_
  all_goals rfl

theorem takeChar_kept {s₀ : State} {ch : Byte} {s : State} (hk : Kept s₀ s) : Kept s₀ (takeChar ch s) := by
  unfold takeChar
  repeat' with_reducible first | assumption | split | dsimp only | refine Kept.fields ?_ ?_ ?_ ?_
  all_goals rfl

theorem monitorTurn_kept {s₀ : State} {x1 : Nat} {s : State} (hk : Kept s₀ s) : Kept s₀ (monitorTurn x1 s) := by
  induction x1 generalizing s with
  | zero =>
    unfold monitorTurn
    repeat' with_reducible first
      | assumption | intro _ | split | dsimp only | apply sendReply_kept | apply takeChar_kept
      | refine Kept.fields ?_ ?_ ?_ ?_
    all_goals rfl
  | succ n ih =>
    unfold monitorTurn
    repeat' with_reducible first
      | assumption | intro _ | split | apply ih | dsimp only | apply sendReply_kept | apply takeChar_kept
      | refine Kept.fields ?_ ?_ ?_ ?_
    all_goals rfl

theorem monitorGoes_kept {s₀ : State} {s : State} (hk : Kept s₀ s) : Kept s₀ (monitorGoes s) := by
  unfold monitorGoes
  repeat' with_reducible first | assumption | dsimp only | apply monitorTurn_kept

theorem serve_kept {s₀ : State} {c : Instr} {act : State → State × Reply}
    {s : State} (hact : ∀ y0, Kept s₀ y0 → Kept s₀ (act y0).1)
    (hk : Kept s₀ s) : Kept s₀ (serve c act s) := by
  unfold serve
  repeat' with_reducible first
    | assumption | intro _ | split | dsimp only | apply hact | apply sendReply_kept | apply monitorGoes_kept
    | refine Kept.of_pair (by assumption) ?_ | refine Kept.fields ?_ ?_ ?_ ?_
  all_goals rfl

theorem startMailbox_kept {s₀ : State} {op : MbxOp} {s : State} (hk : Kept s₀ s) : Kept s₀ (startMailbox op s) := by
  unfold startMailbox
  repeat' with_reducible first
    | assumption | split | dsimp only | apply logAccess_kept | refine Kept.fields ?_ ?_ ?_ ?_
  all_goals rfl

theorem giveLine_kept {s₀ : State} {len : Nat} {s : State} (hk : Kept s₀ s) : Kept s₀ (giveLine len s) := by
  unfold giveLine
  repeat' with_reducible first | assumption | dsimp only | apply monitorGoes_kept | refine Kept.fields ?_ ?_ ?_ ?_
  all_goals rfl

theorem execMailboxMonitor_kept {s₀ : State} {len : BitVec 16} {s : State}
    (hk : Kept s₀ s) : KeptOut s₀ (execMailboxMonitor len s) := by
  unfold execMailboxMonitor
  repeat' with_reducible first
    | assumption | apply KeptOut.next | split | dsimp only | apply startMailbox_kept | apply giveLine_kept

theorem execImageErase_kept {s₀ : State} {copy : Fin 2} {s : State}
    (hk : Kept s₀ s) : KeptOut s₀ (execImageErase copy s) := by
  unfold execImageErase
  repeat' with_reducible first
    | assumption | apply KeptOut.next | split | dsimp only | apply flashErase_kept | apply startMailbox_kept

theorem execImageWrite_kept {s₀ : State} {copy : Fin 2} {len : BitVec 16} {s : State}
    (hk : Kept s₀ s) : KeptOut s₀ (execImageWrite copy len s) := by
  unfold execImageWrite
  repeat' with_reducible first
    | assumption | apply KeptOut.next | split | dsimp only | apply flashProgram_kept | apply startMailbox_kept

theorem execImageCheck_kept {s₀ : State} {copy : Fin 2} {s : State}
    (hk : Kept s₀ s) : KeptOut s₀ (execImageCheck copy s) := by
  unfold execImageCheck
  repeat' with_reducible first | assumption | apply KeptOut.next | dsimp only | apply startMailbox_kept

theorem endMailbox_kept {s₀ : State} {result : BitVec 4} {len : Nat} {s : State}
    (hk : Kept s₀ s) : Kept s₀ (endMailbox result len s) := by
  unfold endMailbox
  repeat' with_reducible first | assumption | dsimp only | apply raiseEvent_kept | refine Kept.fields ?_ ?_ ?_ ?_
  all_goals rfl

theorem flashUnknown_kept {s₀ : State} {d : Fin 2} {a n : Nat} {s : State}
    (hk : Kept s₀ s) : Kept s₀ (flashUnknown d a n s) := by
  unfold flashUnknown
  repeat' with_reducible first
    | assumption | intro _ | dsimp only | apply onFlash_kept | refine Kept.fields ?_ ?_ ?_ ?_
  all_goals rfl

theorem execMailboxComplete_kept {s₀ : State} {flashErr : Bool} {s : State}
    (hk : Kept s₀ s) : KeptOut s₀ (execMailboxComplete flashErr s) := by
  unfold execMailboxComplete
  repeat' with_reducible first
    | assumption | apply KeptOut.next | split | dsimp only | apply endMailbox_kept | apply flashUnknown_kept

theorem after_kept {s₀ : State} {o : Out} {s : State} (ho : KeptOut s₀ o) (hk : Kept s₀ s) : Kept s₀ (after o s) := by
  unfold after
  split
  · exact ho.of _ rfl
  · exact hk

theorem writeCtl_kept {s₀ : State} {p : PlotIx} {d : Nat} {s : State} (hk : Kept s₀ s) : Kept s₀ (writeCtl p d s) := by
  unfold writeCtl
  repeat' with_reducible first
    | assumption | split | dsimp only | apply execPlotFlush_kept | apply execPlotResume_kept
    | apply execPlotReset_kept | apply execReducedRequest_kept | apply after_kept

theorem writePlot_kept {s₀ : State} {p : PlotIx} {off be d : Nat} {s : State}
    (hk : Kept s₀ s) : Kept s₀ (writePlot p off be d s) := by
  unfold writePlot
  repeat' with_reducible first | assumption | split | dsimp only | apply Kept.onPlot | apply writeCtl_kept

theorem writeBed_kept {s₀ : State} {b : BedIx} {off be d : Nat} {s : State}
    (hk : Kept s₀ s) : Kept s₀ (writeBed b off be d s) := by
  unfold writeBed
  repeat' with_reducible first
    | assumption | intro _ | split | dsimp only | apply Kept.onBed | apply execLayerStateLoad_kept
    | apply setTarget_kept | apply after_kept

theorem writeCis_kept {s₀ : State} {c : CisIx} {off be d : Nat} {s : State}
    (hk : Kept s₀ s) : Kept s₀ (writeCis c off be d s) := by
  unfold writeCis
  repeat' with_reducible first
    | assumption | intro _ | split | dsimp only | apply Kept.onCis | apply execXltInvalidate_kept | apply onPort_kept
    | apply after_kept

theorem writeAlmParts_kept {s₀ : State} {off be d : Nat} {s : State}
    (hk : Kept s₀ s) : Kept s₀ (writeAlmParts off be d s) := by
  unfold writeAlmParts
  repeat' with_reducible first
    | assumption | intro _ | split | dsimp only | apply Kept.onPart | apply Kept.onCore
    | refine Kept.fields ?_ ?_ ?_ ?_
  all_goals rfl

theorem writeAlm_kept {s₀ : State} {off be d : Nat} {s : State} (hk : Kept s₀ s) : Kept s₀ (writeAlm off be d s) := by
  unfold writeAlm
  repeat' with_reducible first
    | assumption | intro _ | split | dsimp only | apply Kept.onPart | apply writeAlmParts_kept
    | refine Kept.fields ?_ ?_ ?_ ?_
  all_goals rfl

theorem writeImg_kept {s₀ : State} {off be : Nat} {s : State} (hk : Kept s₀ s) : Kept s₀ (writeImg off be s) := by
  unfold writeImg
  repeat' with_reducible first | assumption | split | dsimp only | refine Kept.fields ?_ ?_ ?_ ?_
  all_goals rfl

theorem writeWord_kept {s₀ : State} {b : Block} {s : State} {w : Nat × Nat × Nat}
    (hk : Kept s₀ s) : Kept s₀ (writeWord b s w) := by
  unfold writeWord
  repeat' with_reducible first
    | assumption | split | dsimp only | apply writePlot_kept | apply writeBed_kept | apply writeCis_kept
    | apply writeAlm_kept | apply writeImg_kept

theorem coreWrite_kept {s₀ : State} {b : Block} {off len : Nat} {data : DWord} {s : State}
    (hk : Kept s₀ s) : Kept s₀ (coreWrite b off len data s) := by
  unfold coreWrite
  repeat' with_reducible first
    | assumption | intro _ | split | dsimp only | refine Kept.foldl _ ?_ ?_ | apply foreignWrite_kept
    | apply writeWord_kept | refine Kept.of_pair (by assumption) ?_

theorem writeQpCtl_kept {s₀ : State} {f : FnIx} {i : QpIx} {d : Nat} {s : State}
    (hk : Kept s₀ s) : Kept s₀ (writeQpCtl f i d s) := by
  unfold writeQpCtl
  repeat' with_reducible first
    | assumption | split | dsimp only | apply execQpAttach_kept | apply execQpResumeAttach_kept
    | apply execQpDetach_kept | apply after_kept

theorem writePf0_kept {s₀ : State} {off be d : Nat} {s : State} (hk : Kept s₀ s) : Kept s₀ (writePf0 off be d s) := by
  unfold writePf0
  repeat' with_reducible first | assumption | split | dsimp only | refine Kept.fields ?_ ?_ ?_ ?_
  all_goals rfl

theorem writeFnOwn_kept {s₀ : State} {f : FnIx} {off be d : Nat} {s : State}
    (hk : Kept s₀ s) : Kept s₀ (writeFnOwn f off be d s) := by
  unfold writeFnOwn
  repeat' with_reducible first | assumption | intro _ | split | dsimp only | apply Kept.onFunc

theorem writeBar0_kept {s₀ : State} {f : FnIx} {s : State} {w : Nat × Nat × Nat}
    (hk : Kept s₀ s) : Kept s₀ (writeBar0 f s w) := by
  unfold writeBar0
  repeat' with_reducible first
    | assumption | intro _ | split | dsimp only | apply Kept.onFunc | apply onQp_kept | apply tryMsix_kept
    | apply execIrqCauseClear_kept | apply logAccess_kept | apply after_kept | apply writeQpCtl_kept
    | apply writePf0_kept | apply writeFnOwn_kept

theorem writeBar2_kept {s₀ : State} {f : FnIx} {s : State} {w : Nat × Nat × Nat}
    (hk : Kept s₀ s) : Kept s₀ (writeBar2 f s w) := by
  unfold writeBar2
  repeat' with_reducible first
    | assumption | split | dsimp only | apply execSqDoorbell_kept | apply execCqDoorbell_kept | apply logAccess_kept
    | apply after_kept

theorem writeMbxCmd_kept {s₀ : State} {d : Nat} {s : State} (hk : Kept s₀ s) : Kept s₀ (writeMbxCmd d s) := by
  unfold writeMbxCmd
  repeat' with_reducible first
    | assumption | split | dsimp only | apply logAccess_kept | apply execMailboxMonitor_kept
    | apply execImageErase_kept | apply execImageWrite_kept | apply execImageCheck_kept | apply after_kept

theorem writeBar4_kept {s₀ : State} {s : State} {w : Nat × Nat × Nat} (hk : Kept s₀ s) : Kept s₀ (writeBar4 s w) := by
  unfold writeBar4
  repeat' with_reducible first
    | assumption | split | dsimp only | apply logAccess_kept | apply writeMbxCmd_kept | refine Kept.fields ?_ ?_ ?_ ?_
  all_goals rfl

theorem busWrite_kept {s₀ : State} {w : BusWrite} {s : State} (hk : Kept s₀ s) : Kept s₀ (busWrite w s) := by
  unfold busWrite
  repeat' with_reducible first
    | assumption | intro _ | split | dsimp only | refine Kept.foldl _ ?_ ?_ | apply logAccess_kept
    | apply execForeignWrite_kept | apply after_kept | apply writeBar0_kept | apply writeBar2_kept
    | apply writeBar4_kept | refine Kept.of_pair (by assumption) ?_

theorem execRegisterWrite_kept {s₀ : State} {w : RegWrite} {s : State}
    (hk : Kept s₀ s) : KeptOut s₀ (execRegisterWrite w s) := by
  unfold execRegisterWrite
  repeat' with_reducible first
    | assumption | apply KeptOut.next | split | dsimp only | apply coreWrite_kept | apply busWrite_kept

theorem setPhase_kept {s₀ : State} {pin : Fin 8} {ph : PinPhase} {s : State}
    (hk : Kept s₀ s) : Kept s₀ (setPhase pin ph s) := by
  unfold setPhase
  repeat' with_reducible first | assumption | dsimp only | refine Kept.fields ?_ ?_ ?_ ?_
  all_goals rfl

theorem execParkEnd_kept {s₀ : State} {pin : Fin 8} {s : State} (hk : Kept s₀ s) : KeptOut s₀ (execParkEnd pin s) := by
  unfold execParkEnd
  repeat' with_reducible first
    | assumption | apply KeptOut.next | split | dsimp only | apply setPhase_kept | refine Kept.fields ?_ ?_ ?_ ?_
  all_goals rfl

theorem execInputBlankingEnd_kept {s₀ : State} {pin : Fin 8} {high : Bool} {s : State}
    (hk : Kept s₀ s) : KeptOut s₀ (execInputBlankingEnd pin high s) := by
  unfold execInputBlankingEnd
  repeat' with_reducible first
    | assumption | apply KeptOut.next | split | dsimp only | apply throttleLow_kept | apply setLevel_kept
    | apply setPhase_kept

theorem execSyncPulse_kept {s₀ : State} {s : State} (hk : Kept s₀ s) : KeptOut s₀ (execSyncPulse s) := by
  unfold execSyncPulse
  repeat' with_reducible first | assumption | apply KeptOut.next | split | dsimp only | refine Kept.fields ?_ ?_ ?_ ?_
  all_goals rfl

theorem execBeatToggle_kept {s₀ : State} {s : State} (hk : Kept s₀ s) : KeptOut s₀ (execBeatToggle s) := by
  unfold execBeatToggle
  repeat' with_reducible first
    | assumption | apply KeptOut.next | intro _ | split | dsimp only | refine Kept.fields ?_ ?_ ?_ ?_
  all_goals rfl

theorem execUartCharacter_kept {s₀ : State} {ch : Byte} {stopOk : Bool} {s : State}
    (hk : Kept s₀ s) : KeptOut s₀ (execUartCharacter ch stopOk s) := by
  unfold execUartCharacter
  repeat' with_reducible first
    | assumption | apply KeptOut.next | split | dsimp only | apply monitorGoes_kept | refine Kept.fields ?_ ?_ ?_ ?_
  all_goals rfl

theorem spiEnd_kept {s₀ : State} {results : List Nat} {miso : List Word} {s : State}
    (hk : Kept s₀ s) : Kept s₀ (spiEnd results miso s) := by
  unfold spiEnd
  repeat' with_reducible first
    | assumption | intro _ | split | dsimp only | refine Kept.foldl _ ?_ ?_ | refine Kept.of_pair (by assumption) ?_
    | refine Kept.fields ?_ ?_ ?_ ?_
  all_goals rfl

theorem spiRead_kept {s₀ : State} {a : Nat} {s : State} (hk : Kept s₀ s) : Kept s₀ (spiRead a s).1 := by
  unfold spiRead
  repeat' with_reducible first | assumption | split | dsimp only | refine Kept.fields ?_ ?_ ?_ ?_
  all_goals rfl

theorem spiReads_kept {s₀ : State} {x1 : Nat} {x2 : Nat} {s : State}
    (hk : Kept s₀ s) : Kept s₀ (spiReads x1 x2 s).1 := by
  induction x1 generalizing x2 s with
  | zero =>
    unfold spiReads
    repeat' with_reducible first
      | assumption | intro _ | split | dsimp only | apply spiRead_kept | refine Kept.of_pair (by assumption) ?_
  | succ n ih =>
    unfold spiReads
    repeat' with_reducible first
      | assumption | intro _ | split | apply ih | dsimp only | apply spiRead_kept
      | refine Kept.of_pair (by assumption) ?_

theorem execMgtReadFrame_kept {s₀ : State} {cmd : Word} {e : SpiEnd} {s : State}
    (hk : Kept s₀ s) : KeptOut s₀ (execMgtReadFrame cmd e s) := by
  unfold execMgtReadFrame
  repeat' with_reducible first
    | assumption | apply KeptOut.next | intro _ | split | dsimp only | apply spiEnd_kept | apply spiReads_kept
    | refine Kept.of_pair (by assumption) ?_

theorem mgtPartReset_kept {s₀ : State} {w : Word} {s : State} (hk : Kept s₀ s) : Kept s₀ (mgtPartReset w s) := by
  unfold mgtPartReset
  repeat' with_reducible first
    | assumption | intro _ | dsimp only | refine Kept.forAll _ ?_ ?_ | apply beginReset_kept

theorem execMgtPartReset_kept {s₀ : State} {w : Word} {s : State}
    (hk : Kept s₀ s) : KeptOut s₀ (execMgtPartReset w s) := by
  unfold execMgtPartReset
  repeat' with_reducible first | assumption | apply KeptOut.next | split | dsimp only | apply mgtPartReset_kept

theorem spiWrite_kept {s₀ : State} {a : Nat} {w : Word} {s : State} (hk : Kept s₀ s) : Kept s₀ (spiWrite a w s).1 := by
  unfold spiWrite
  repeat' with_reducible first
    | assumption | split | dsimp only | apply foreignWrite_kept | apply mgtPartReset_kept
    | refine Kept.fields ?_ ?_ ?_ ?_
  all_goals rfl

theorem spiWrites_kept {s₀ : State} {x1 : List Word} {x2 : Nat} {s : State}
    (hk : Kept s₀ s) : Kept s₀ (spiWrites x1 x2 s).1 := by
  induction x1 generalizing x2 s with
  | nil =>
    unfold spiWrites
    repeat' with_reducible first
      | assumption | intro _ | split | dsimp only | apply spiWrite_kept | refine Kept.of_pair (by assumption) ?_
  | cons x t ih =>
    unfold spiWrites
    repeat' with_reducible first
      | assumption | intro _ | split | apply ih | dsimp only | apply spiWrite_kept
      | refine Kept.of_pair (by assumption) ?_

theorem execMgtWriteFrame_kept {s₀ : State} {cmd : Word} {data : List Word} {e : SpiEnd} {s : State}
    (hk : Kept s₀ s) : KeptOut s₀ (execMgtWriteFrame cmd data e s) := by
  unfold execMgtWriteFrame
  repeat' with_reducible first
    | assumption | apply KeptOut.next | split | dsimp only | apply spiEnd_kept | apply spiWrites_kept
    | refine Kept.of_pair (by assumption) ?_

theorem onPipe_kept {s₀ : State} {i : PipeIx} {f : Pipe → Pipe} {s : State}
    (hk : Kept s₀ s) : Kept s₀ (onPipe i f s) := by
  unfold onPipe
  repeat' with_reducible first | assumption | dsimp only | refine Kept.fields ?_ ?_ ?_ ?_
  all_goals rfl

theorem tracePipe_kept {s₀ : State} {q : PartIx} {encode isEnd : Bool} {st : Nat} {epoch : Word} {i : PipeIx}
    {s : State}
    (hk : Kept s₀ s) : Kept s₀ (tracePipe q encode isEnd st epoch i s) := by
  unfold tracePipe
  repeat' with_reducible first | assumption | split | dsimp only | apply traceEmit_kept

theorem execStreamOpen_kept {s₀ : State} {ctx : Fin 32} {sp : StreamParams} {s : State}
    (hk : Kept s₀ s) : KeptOut s₀ (execStreamOpen ctx sp s) := by
  unfold execStreamOpen
  repeat' with_reducible first | assumption | apply KeptOut.next | split | dsimp only | refine Kept.fields ?_ ?_ ?_ ?_
  all_goals rfl

theorem execStreamFrame_kept {s₀ : State} {ctx : Fin 32} {pipe : PipeIx} {fc : FrameCmd} {s : State}
    (hk : Kept s₀ s) : KeptOut s₀ (execStreamFrame ctx pipe fc s) := by
  unfold execStreamFrame
  repeat' with_reducible first
    | assumption | apply KeptOut.next | intro _ | split | dsimp only | refine Kept.forAll _ ?_ ?_ | apply onPipe_kept
    | apply tracePipe_kept

theorem execStreamClose_kept {s₀ : State} {ctx : Fin 32} {s : State}
    (hk : Kept s₀ s) : KeptOut s₀ (execStreamClose ctx s) := by
  unfold execStreamClose
  repeat' with_reducible first
    | assumption | apply KeptOut.next | intro _ | split | dsimp only | refine Kept.fields ?_ ?_ ?_ ?_
  all_goals rfl

theorem releasePipes_kept {s₀ : State} {ps : List PipeIx} {done : Bool} {s : State}
    (hk : Kept s₀ s) : Kept s₀ (releasePipes ps done s) := by
  unfold releasePipes
  repeat' with_reducible first | assumption | intro _ | dsimp only | refine Kept.forAll _ ?_ ?_ | apply onPipe_kept

theorem endFrame_kept {s₀ : State} {q : PartIx} {ctx : Fin 32} {encode : Bool} {fc : FrameCmd} {ps : List PipeIx}
    {st : BitVec 8} {s : State}
    (hk : Kept s₀ s) : Kept s₀ (endFrame q ctx encode fc ps st s) := by
  unfold endFrame
  repeat' with_reducible first
    | assumption | intro _ | dsimp only | refine Kept.forAll _ ?_ ?_ | apply tracePipe_kept | apply releasePipes_kept
    | refine Kept.fields ?_ ?_ ?_ ?_
  all_goals rfl

theorem failStream_kept {s₀ : State} {q : PartIx} {fc : FrameCmd} {x : Stream} {s : State}
    (hk : Kept s₀ s) : Kept s₀ (failStream q fc x s) := by
  unfold failStream
  repeat' with_reducible first
    | assumption | intro _ | split | dsimp only | apply endJob_kept | apply dispatch_kept | apply flushTasks_kept

theorem writeIndex_kept {s₀ : State} {x : Stream} {s : State} (hk : Kept s₀ s) : Kept s₀ (writeIndex x s).1 := by
  unfold writeIndex
  repeat' with_reducible first | assumption | split | dsimp only | apply hostWrite_kept

theorem setStream_kept {s₀ : State} {ctx : Fin 32} {x : Stream} {s : State}
    (hk : Kept s₀ s) : Kept s₀ (setStream ctx x s) := by
  unfold setStream
  repeat' with_reducible first | assumption | dsimp only | refine Kept.fields ?_ ?_ ?_ ?_
  all_goals rfl

theorem readRows_kept {s₀ : State} {q : PartIx} {n : Nat} {x1 : List (Nat × Nat × Nat)} {s : State}
    (hk : Kept s₀ s) : Kept s₀ (readRows q n x1 s).1 := by
  induction x1 generalizing s with
  | nil =>
    unfold readRows
    repeat' with_reducible first
      | assumption | intro _ | split | dsimp only | apply routedRead_kept | refine Kept.of_pair (by assumption) ?_
  | cons x t ih =>
    unfold readRows
    repeat' with_reducible first
      | assumption | intro _ | split | apply ih | dsimp only | apply routedRead_kept
      | refine Kept.of_pair (by assumption) ?_

theorem writeRows_kept {s₀ : State} {q : PartIx} {x : StreamParams} {r : CodecResult} {epoch : Nat}
    {x1 : List (Nat × Nat × Nat)} {s : State}
    (hk : Kept s₀ s) : Kept s₀ (writeRows q x r epoch x1 s).1 := by
  induction x1 generalizing s with
  | nil =>
    unfold writeRows
    repeat' with_reducible first
      | assumption | intro _ | split | dsimp only | apply routedWrite_kept | refine Kept.of_pair (by assumption) ?_
  | cons x t ih =>
    unfold writeRows
    repeat' with_reducible first
      | assumption | intro _ | split | apply ih | dsimp only | apply routedWrite_kept
      | refine Kept.of_pair (by assumption) ?_

theorem pictureClamps_kept {s₀ : State} {x : StreamParams} {vs : List XVal} {s : State}
    (hk : Kept s₀ s) : Kept s₀ (pictureClamps x vs s).1 := by
  unfold pictureClamps
  repeat' with_reducible first | assumption | intro _ | split | dsimp only | refine Kept.fields ?_ ?_ ?_ ?_
  all_goals rfl

theorem rateControl_kept {s₀ : State} {x : StreamParams} {r : CodecResult} {s : State}
    (hk : Kept s₀ s) : Kept s₀ (rateControl x r s).1 := by
  unfold rateControl
  repeat' with_reducible first | assumption | split | dsimp only | refine Kept.fields ?_ ?_ ?_ ?_
  all_goals rfl

theorem putCoded_kept {s₀ : State} {q : PartIx} {ctx : Fin 32} {fc : FrameCmd} {x : Stream} {bs : List Byte} {s : State}
    (hk : Kept s₀ s) : Kept s₀ (putCoded q ctx fc x bs s) := by
  unfold putCoded
  repeat' with_reducible first
    | assumption | split | dsimp only | apply hostWrite_kept | apply failStream_kept | apply writeIndex_kept
    | apply setStream_kept | refine Kept.of_pair (by assumption) ?_

theorem encodeDone_kept {s₀ : State} {q : PartIx} {ctx : Fin 32} {fc : FrameCmd} {x : Stream} {ps : List PipeIx}
    {r : CodecResult} {s : State}
    (hk : Kept s₀ s) : Kept s₀ (encodeDone q ctx fc x ps r s) := by
  unfold encodeDone
  repeat' with_reducible first
    | assumption | split | dsimp only | apply endFrame_kept | apply failStream_kept | apply readRows_kept
    | apply pictureClamps_kept | apply rateControl_kept | apply putCoded_kept | refine Kept.of_pair (by assumption) ?_
    | refine Kept.fields ?_ ?_ ?_ ?_
  all_goals rfl

theorem decodeDone_kept {s₀ : State} {q : PartIx} {ctx : Fin 32} {fc : FrameCmd} {x : Stream} {ps : List PipeIx}
    {r : CodecResult} {s : State}
    (hk : Kept s₀ s) : Kept s₀ (decodeDone q ctx fc x ps r s) := by
  unfold decodeDone
  repeat' with_reducible first
    | assumption | split | dsimp only | apply endFrame_kept | apply failStream_kept | apply setStream_kept
    | apply writeRows_kept | refine Kept.of_pair (by assumption) ?_

theorem failOpen_kept {s₀ : State} {q : PartIx} {ctx : Fin 32} {fc : FrameCmd} {x : Stream} {ps : List PipeIx}
    {s : State}
    (hk : Kept s₀ s) : Kept s₀ (failOpen q ctx fc x ps s) := by
  unfold failOpen
  repeat' with_reducible first
    | assumption | dsimp only | apply endFrame_kept | apply failStream_kept | refine Kept.fields ?_ ?_ ?_ ?_
  all_goals rfl

theorem inputError_kept {s₀ : State} {q : PartIx} {fc : FrameCmd} {s : State}
    (hk : Kept s₀ s) : Kept s₀ (inputError q fc s) := by
  unfold inputError
  repeat' with_reducible first | assumption | split | dsimp only | apply logAer_kept

theorem frameOutcome_kept {s₀ : State} {q : PartIx} {ctx : Fin 32} {fc : FrameCmd} {x : Stream} {ps : List PipeIx}
    {r : CodecResult} {s : State}
    (hk : Kept s₀ s) : Kept s₀ (frameOutcome q ctx fc x ps r s) := by
  unfold frameOutcome
  repeat' with_reducible first
    | assumption | split | dsimp only | apply endFrame_kept | apply failStream_kept | apply encodeDone_kept
    | apply decodeDone_kept | apply failOpen_kept | apply inputError_kept | refine Kept.fields ?_ ?_ ?_ ?_
  all_goals rfl

theorem execFrameComplete_kept {s₀ : State} {pipe : PipeIx} {r : CodecResult} {s : State}
    (hk : Kept s₀ s) : KeptOut s₀ (execFrameComplete pipe r s) := by
  unfold execFrameComplete
  repeat' with_reducible first
    | assumption | apply KeptOut.next | intro _ | split | dsimp only | refine Kept.forAll _ ?_ ?_ | apply onPipe_kept
    | apply failOpen_kept | apply frameOutcome_kept | refine Kept.fields ?_ ?_ ?_ ?_
  all_goals rfl

theorem report_kept {s₀ : State} {c : Instr} {l : State → List (List Byte)} {s : State}
    (hk : Kept s₀ s) : KeptOut s₀ (report c l s) := by
  unfold report
  repeat' with_reducible first | assumption | apply KeptOut.next | intro _ | dsimp only | apply serve_kept

theorem execMonitorHelp_kept {s₀ : State} {s : State} (hk : Kept s₀ s) : KeptOut s₀ (execMonitorHelp s) := by
  unfold execMonitorHelp
  repeat' with_reducible first | assumption | apply KeptOut.next | intro _ | dsimp only | apply report_kept

theorem execMonitorStatus_kept {s₀ : State} {s : State} (hk : Kept s₀ s) : KeptOut s₀ (execMonitorStatus s) := by
  unfold execMonitorStatus
  repeat' with_reducible first | assumption | apply KeptOut.next | intro _ | dsimp only | apply report_kept

theorem execMonitorTime_kept {s₀ : State} {s : State} (hk : Kept s₀ s) : KeptOut s₀ (execMonitorTime s) := by
  unfold execMonitorTime
  repeat' with_reducible first | assumption | apply KeptOut.next | intro _ | dsimp only | apply report_kept

theorem execMonitorGauge_kept {s₀ : State} {s : State} (hk : Kept s₀ s) : KeptOut s₀ (execMonitorGauge s) := by
  unfold execMonitorGauge
  repeat' with_reducible first | assumption | apply KeptOut.next | intro _ | dsimp only | apply report_kept

theorem execMonitorLog_kept {s₀ : State} {n : Nat} {s : State} (hk : Kept s₀ s) : KeptOut s₀ (execMonitorLog n s) := by
  unfold execMonitorLog
  repeat' with_reducible first | assumption | apply KeptOut.next | intro _ | split | dsimp only | apply serve_kept

theorem execMonitorBaud_kept {s₀ : State} {div : Nat} {s : State}
    (hk : Kept s₀ s) : KeptOut s₀ (execMonitorBaud div s) := by
  unfold execMonitorBaud
  repeat' with_reducible first
    | assumption | apply KeptOut.next | intro _ | split | dsimp only | apply serve_kept
    | refine Kept.fields ?_ ?_ ?_ ?_
  all_goals rfl

theorem readShadow_kept {s₀ : State} {code off : Nat} {s : State}
    (hk : Kept s₀ s) : Kept s₀ (readShadow code off s).1 := by
  unfold readShadow
  repeat' with_reducible first | assumption | split | dsimp only | refine Kept.fields ?_ ?_ ?_ ?_
  all_goals rfl

theorem readWords_kept {s₀ : State} {code : Nat} {x1 : Nat} {x2 : Nat} {s : State}
    (hk : Kept s₀ s) : Kept s₀ (readWords code x1 x2 s).1 := by
  induction x1 generalizing x2 s with
  | zero =>
    unfold readWords
    repeat' with_reducible first
      | assumption | intro _ | split | dsimp only | apply readShadow_kept | refine Kept.of_pair (by assumption) ?_
  | succ n ih =>
    unfold readWords
    repeat' with_reducible first
      | assumption | intro _ | split | apply ih | dsimp only | apply readShadow_kept
      | refine Kept.of_pair (by assumption) ?_

theorem execMonitorRd_kept {s₀ : State} {block offset n : Nat} {s : State}
    (hk : Kept s₀ s) : KeptOut s₀ (execMonitorRd block offset n s) := by
  unfold execMonitorRd
  repeat' with_reducible first
    | assumption | apply KeptOut.next | intro _ | split | dsimp only | apply serve_kept | apply readWords_kept
    | refine Kept.of_pair (by assumption) ?_

theorem execMonitorWr_kept {s₀ : State} {block offset : Nat} {value : Word} {s : State}
    (hk : Kept s₀ s) : KeptOut s₀ (execMonitorWr block offset value s) := by
  unfold execMonitorWr
  repeat' with_reducible first
    | assumption | apply KeptOut.next | intro _ | split | dsimp only | apply foreignWrite_kept | apply serve_kept
    | apply coreWrite_kept

theorem wakeForTest_kept {s₀ : State} {p : PlotIx} {s : State} (hk : Kept s₀ s) : Kept s₀ (wakeForTest p s) := by
  unfold wakeForTest
  repeat' with_reducible first | assumption | intro _ | split | dsimp only | apply Kept.onPlot | apply t0Zero_kept

theorem testedPlot_kept {s₀ : State} {p : PlotIx} {pattern : Byte} {e : Ended} {s : State}
    (hk : Kept s₀ s) : Kept s₀ (testedPlot p pattern e s) := by
  unfold testedPlot
  repeat' with_reducible first
    | assumption | intro _ | dsimp only | apply Kept.onPlot | apply t0Zero_kept | apply clearTags_kept
    | apply traceCommand_kept | refine Kept.fields ?_ ?_ ?_ ?_
  all_goals rfl

theorem execMonitorTest_kept {s₀ : State} {plot : Nat} {pattern : Byte} {fail : Option (BitVec 4 × BitVec 6)}
    {s : State}
    (hk : Kept s₀ s) : KeptOut s₀ (execMonitorTest plot pattern fail s) := by
  unfold execMonitorTest
  repeat' with_reducible first
    | assumption | apply KeptOut.next | intro _ | split | dsimp only | apply serve_kept | apply wakeForTest_kept
    | apply testedPlot_kept

theorem execTraceStart_kept {s₀ : State} {q : PartIx} {base : DWord} {size : Nat} {wrap : Bool} {s : State}
    (hk : Kept s₀ s) : KeptOut s₀ (execTraceStart q base size wrap s) := by
  unfold execTraceStart
  repeat' with_reducible first
    | assumption | apply KeptOut.next | intro _ | split | dsimp only | apply Kept.onPart | apply serve_kept

theorem execTraceStop_kept {s₀ : State} {q : PartIx} {s : State} (hk : Kept s₀ s) : KeptOut s₀ (execTraceStop q s) := by
  unfold execTraceStop
  repeat' with_reducible first
    | assumption | apply KeptOut.next | intro _ | split | dsimp only | apply Kept.onPart | apply serve_kept

theorem execTraceDrained_kept {s₀ : State} {q : PartIx} {s : State}
    (hk : Kept s₀ s) : KeptOut s₀ (execTraceDrained q s) := by
  unfold execTraceDrained
  repeat' with_reducible first | assumption | apply KeptOut.next | intro _ | split | dsimp only | apply Kept.onPart

theorem execTraceStatus_kept {s₀ : State} {q : PartIx} {s : State}
    (hk : Kept s₀ s) : KeptOut s₀ (execTraceStatus q s) := by
  unfold execTraceStatus
  repeat' with_reducible first | assumption | apply KeptOut.next | intro _ | split | dsimp only | apply serve_kept

theorem onCut_kept {s₀ : State} {q : PartIx} {c : Fin 16} {f : Cutting → Cutting} {s : State}
    (hk : Kept s₀ s) : Kept s₀ (onCut q c f s) := by
  unfold onCut
  repeat' with_reducible first | assumption | intro _ | dsimp only | apply Kept.onPart

theorem execCutArm_kept {s₀ : State} {q : PartIx} {job : Word} {layer oper : BitVec 16} {pass : Nat} {base : DWord}
    {size cost energy : Nat} {s : State}
    (hk : Kept s₀ s) : KeptOut s₀ (execCutArm q job layer oper pass base size cost energy s) := by
  unfold execCutArm
  repeat' with_reducible first
    | assumption | apply KeptOut.next | intro _ | split | dsimp only | apply onJob_kept | apply serve_kept
    | apply onCut_kept

theorem execCutList_kept {s₀ : State} {q : PartIx} {s : State} (hk : Kept s₀ s) : KeptOut s₀ (execCutList q s) := by
  unfold execCutList
  repeat' with_reducible first | assumption | apply KeptOut.next | intro _ | split | dsimp only | apply serve_kept

theorem execCutGet_kept {s₀ : State} {q : PartIx} {c offset len : Nat} {s : State}
    (hk : Kept s₀ s) : KeptOut s₀ (execCutGet q c offset len s) := by
  unfold execCutGet
  repeat' with_reducible first
    | assumption | apply KeptOut.next | intro _ | split | dsimp only | apply devRead_kept | apply serve_kept
    | refine Kept.of_pair (by assumption) ?_

theorem execCutDrop_kept {s₀ : State} {q : PartIx} {c : Nat} {s : State}
    (hk : Kept s₀ s) : KeptOut s₀ (execCutDrop q c s) := by
  unfold execCutDrop
  repeat' with_reducible first
    | assumption | apply KeptOut.next | intro _ | split | dsimp only | apply serve_kept | apply onCut_kept

theorem pieceData_kept {s₀ : State} {s : State} {q : PartIx} {x : Piece}
    (hk : Kept s₀ s) : Kept s₀ (pieceData s q x).1 := by
  unfold pieceData
  repeat' with_reducible first
    | assumption | intro _ | split | dsimp only | refine Kept.foldl _ ?_ ?_ | refine Kept.foldlPair _ ?_ ?_
    | apply routedRead_kept | refine Kept.of_pair (by assumption) ?_ | refine Kept.fields ?_ ?_ ?_ ?_
  all_goals rfl

theorem putPiece_kept {s₀ : State} {p : PlotIx} {k : Capture} {c : Fin 16} {s : State} {x : Piece}
    (hk : Kept s₀ s) : Kept s₀ (putPiece p k c s x) := by
  unfold putPiece
  repeat' with_reducible first
    | assumption | intro _ | split | dsimp only | apply routedWrite_kept | apply onCut_kept | apply pieceData_kept
    | refine Kept.of_pair (by assumption) ?_

theorem execCaptureComplete_kept {s₀ : State} {p : PlotIx} {s : State}
    (hk : Kept s₀ s) : KeptOut s₀ (execCaptureComplete p s) := by
  unfold execCaptureComplete
  repeat' with_reducible first
    | assumption | apply KeptOut.next | exact KeptOut.fault _ | intro _ | split | dsimp only | apply Kept.onPlot
    | refine Kept.forAll _ ?_ ?_ | refine Kept.foldl _ ?_ ?_ | refine Kept.foldlPair _ ?_ ?_ | apply step11_kept
    | apply onCut_kept | apply putPiece_kept | refine Kept.of_pair (by assumption) ?_

theorem execPerfSelect_kept {s₀ : State} {unit counter : Nat} {event : Byte} {q : Option PartIx} {s : State}
    (hk : Kept s₀ s) : KeptOut s₀ (execPerfSelect unit counter event q s) := by
  unfold execPerfSelect
  repeat' with_reducible first
    | assumption | apply KeptOut.next | intro _ | split | dsimp only | apply Kept.onPlot | apply Kept.onCis
    | apply Kept.getD | apply serve_kept

theorem execPerfClear_kept {s₀ : State} {unit : Nat} {s : State}
    (hk : Kept s₀ s) : KeptOut s₀ (execPerfClear unit s) := by
  unfold execPerfClear
  repeat' with_reducible first
    | assumption | apply KeptOut.next | intro _ | split | dsimp only | apply Kept.onPlot | apply Kept.onCis
    | apply serve_kept

end Sys2Proof.Machine
end

