-- ==== Sys2Proof/Laws/State.lean ====
section
/-! SUPPORT. One lemma per part of the state per update: what each update of a plot, a bed, a cistern, a partition, a function,
a core or the memories leaves in every part. -/

namespace Sys2Proof.Machine

open Host

@[simp] theorem State.setPlot_plot (s : State) (i : PlotIx) (x : Plot) : (s.setPlot i x).plot i = x := by
  simp [State.plot, State.setPlot]

@[simp] theorem State.onPlot_plot (s : State) (i : PlotIx) (g : Plot → Plot) : (s.onPlot i g).plot i = g (s.plot i) := by
  simp [State.onPlot]

theorem State.setPlot_plot_ne (s : State) (x : Plot) {i j : PlotIx} (h : j ≠ i) : (s.setPlot i x).plot j = s.plot j := by
  have : i.val ≠ j.val := fun e => h (Fin.ext e.symm)
  simp [State.plot, State.setPlot, this]

theorem State.onPlot_plot_ne (s : State) (g : Plot → Plot) {i j : PlotIx} (h : j ≠ i) : (s.onPlot i g).plot j = s.plot j :=
  s.setPlot_plot_ne _ h

theorem State.onPlot_plot_if (s : State) (g : Plot → Plot) (i j : PlotIx) :
    (s.onPlot i g).plot j = if j = i then g (s.plot i) else s.plot j := by
  split
  · subst_vars; simp
  · exact s.onPlot_plot_ne g ‹_›

@[simp] theorem State.onPlot_time (s : State) (i : PlotIx) (g : Plot → Plot) : (s.onPlot i g).time = s.time := rfl
@[simp] theorem State.setPlot_time (s : State) (i : PlotIx) (x : Plot) : (s.setPlot i x).time = s.time := rfl
@[simp] theorem State.onPlot_beds (s : State) (i : PlotIx) (g : Plot → Plot) : (s.onPlot i g).beds = s.beds := rfl
@[simp] theorem State.setPlot_beds (s : State) (i : PlotIx) (x : Plot) : (s.setPlot i x).beds = s.beds := rfl
@[simp] theorem State.onPlot_cis (s : State) (i : PlotIx) (g : Plot → Plot) : (s.onPlot i g).cis = s.cis := rfl
@[simp] theorem State.setPlot_cis (s : State) (i : PlotIx) (x : Plot) : (s.setPlot i x).cis = s.cis := rfl
@[simp] theorem State.onPlot_parts (s : State) (i : PlotIx) (g : Plot → Plot) : (s.onPlot i g).parts = s.parts := rfl
@[simp] theorem State.setPlot_parts (s : State) (i : PlotIx) (x : Plot) : (s.setPlot i x).parts = s.parts := rfl
@[simp] theorem State.onPlot_fns (s : State) (i : PlotIx) (g : Plot → Plot) : (s.onPlot i g).fns = s.fns := rfl
@[simp] theorem State.setPlot_fns (s : State) (i : PlotIx) (x : Plot) : (s.setPlot i x).fns = s.fns := rfl
@[simp] theorem State.onPlot_cores (s : State) (i : PlotIx) (g : Plot → Plot) : (s.onPlot i g).cores = s.cores := rfl
@[simp] theorem State.setPlot_cores (s : State) (i : PlotIx) (x : Plot) : (s.setPlot i x).cores = s.cores := rfl
@[simp] theorem State.onPlot_fence (s : State) (i : PlotIx) (g : Plot → Plot) : (s.onPlot i g).fence = s.fence := rfl
@[simp] theorem State.setPlot_fence (s : State) (i : PlotIx) (x : Plot) : (s.setPlot i x).fence = s.fence := rfl
@[simp] theorem State.onPlot_image (s : State) (i : PlotIx) (g : Plot → Plot) : (s.onPlot i g).image = s.image := rfl
@[simp] theorem State.setPlot_image (s : State) (i : PlotIx) (x : Plot) : (s.setPlot i x).image = s.image := rfl
@[simp] theorem State.onPlot_dev (s : State) (i : PlotIx) (g : Plot → Plot) : (s.onPlot i g).dev = s.dev := rfl
@[simp] theorem State.setPlot_dev (s : State) (i : PlotIx) (x : Plot) : (s.setPlot i x).dev = s.dev := rfl
@[simp] theorem State.onPlot_pf0 (s : State) (i : PlotIx) (g : Plot → Plot) : (s.onPlot i g).pf0 = s.pf0 := rfl
@[simp] theorem State.setPlot_pf0 (s : State) (i : PlotIx) (x : Plot) : (s.setPlot i x).pf0 = s.pf0 := rfl
@[simp] theorem State.onPlot_pins (s : State) (i : PlotIx) (g : Plot → Plot) : (s.onPlot i g).pins = s.pins := rfl
@[simp] theorem State.setPlot_pins (s : State) (i : PlotIx) (x : Plot) : (s.setPlot i x).pins = s.pins := rfl
@[simp] theorem State.onPlot_monitor (s : State) (i : PlotIx) (g : Plot → Plot) : (s.onPlot i g).monitor = s.monitor := rfl
@[simp] theorem State.setPlot_monitor (s : State) (i : PlotIx) (x : Plot) : (s.setPlot i x).monitor = s.monitor := rfl
@[simp] theorem State.onPlot_codec (s : State) (i : PlotIx) (g : Plot → Plot) : (s.onPlot i g).codec = s.codec := rfl
@[simp] theorem State.setPlot_codec (s : State) (i : PlotIx) (x : Plot) : (s.setPlot i x).codec = s.codec := rfl
@[simp] theorem State.onPlot_bvl (s : State) (i : PlotIx) (g : Plot → Plot) : (s.onPlot i g).bvl = s.bvl := rfl
@[simp] theorem State.setPlot_bvl (s : State) (i : PlotIx) (x : Plot) : (s.setPlot i x).bvl = s.bvl := rfl
@[simp] theorem State.onPlot_trellis (s : State) (i : PlotIx) (g : Plot → Plot) : (s.onPlot i g).trellis = s.trellis := rfl
@[simp] theorem State.setPlot_trellis (s : State) (i : PlotIx) (x : Plot) : (s.setPlot i x).trellis = s.trellis := rfl
@[simp] theorem State.onPlot_alm (s : State) (i : PlotIx) (g : Plot → Plot) : (s.onPlot i g).alm = s.alm := rfl
@[simp] theorem State.setPlot_alm (s : State) (i : PlotIx) (x : Plot) : (s.setPlot i x).alm = s.alm := rfl
@[simp] theorem State.onPlot_mem (s : State) (i : PlotIx) (g : Plot → Plot) : (s.onPlot i g).mem = s.mem := rfl
@[simp] theorem State.setPlot_mem (s : State) (i : PlotIx) (x : Plot) : (s.setPlot i x).mem = s.mem := rfl
@[simp] theorem State.onPlot_fresh (s : State) (i : PlotIx) (g : Plot → Plot) : (s.onPlot i g).fresh = s.fresh := rfl
@[simp] theorem State.setPlot_fresh (s : State) (i : PlotIx) (x : Plot) : (s.setPlot i x).fresh = s.fresh := rfl
@[simp] theorem State.onPlot_pending (s : State) (i : PlotIx) (g : Plot → Plot) : (s.onPlot i g).pending = s.pending := rfl
@[simp] theorem State.setPlot_pending (s : State) (i : PlotIx) (x : Plot) : (s.setPlot i x).pending = s.pending := rfl
@[simp] theorem State.onPlot_bed (s : State) (i : PlotIx) (g : Plot → Plot) (j : BedIx) : (s.onPlot i g).bed j = s.bed j := rfl
@[simp] theorem State.setPlot_bed (s : State) (i : PlotIx) (x : Plot) (j : BedIx) : (s.setPlot i x).bed j = s.bed j := rfl
@[simp] theorem State.onPlot_cistern (s : State) (i : PlotIx) (g : Plot → Plot) (j : CisIx) : (s.onPlot i g).cistern j = s.cistern j := rfl
@[simp] theorem State.setPlot_cistern (s : State) (i : PlotIx) (x : Plot) (j : CisIx) : (s.setPlot i x).cistern j = s.cistern j := rfl
@[simp] theorem State.onPlot_part (s : State) (i : PlotIx) (g : Plot → Plot) (j : PartIx) : (s.onPlot i g).part j = s.part j := rfl
@[simp] theorem State.setPlot_part (s : State) (i : PlotIx) (x : Plot) (j : PartIx) : (s.setPlot i x).part j = s.part j := rfl
@[simp] theorem State.onPlot_func (s : State) (i : PlotIx) (g : Plot → Plot) (j : FnIx) : (s.onPlot i g).func j = s.func j := rfl
@[simp] theorem State.setPlot_func (s : State) (i : PlotIx) (x : Plot) (j : FnIx) : (s.setPlot i x).func j = s.func j := rfl
@[simp] theorem State.onPlot_core (s : State) (i : PlotIx) (g : Plot → Plot) (j : CoreIx) : (s.onPlot i g).core j = s.core j := rfl
@[simp] theorem State.setPlot_core (s : State) (i : PlotIx) (x : Plot) (j : CoreIx) : (s.setPlot i x).core j = s.core j := rfl

@[simp] theorem State.setBed_bed (s : State) (i : BedIx) (x : Bed) : (s.setBed i x).bed i = x := by
  simp [State.bed, State.setBed]

@[simp] theorem State.onBed_bed (s : State) (i : BedIx) (g : Bed → Bed) : (s.onBed i g).bed i = g (s.bed i) := by
  simp [State.onBed]

theorem State.setBed_bed_ne (s : State) (x : Bed) {i j : BedIx} (h : j ≠ i) : (s.setBed i x).bed j = s.bed j := by
  have : i.val ≠ j.val := fun e => h (Fin.ext e.symm)
  simp [State.bed, State.setBed, this]

theorem State.onBed_bed_ne (s : State) (g : Bed → Bed) {i j : BedIx} (h : j ≠ i) : (s.onBed i g).bed j = s.bed j :=
  s.setBed_bed_ne _ h

theorem State.onBed_bed_if (s : State) (g : Bed → Bed) (i j : BedIx) :
    (s.onBed i g).bed j = if j = i then g (s.bed i) else s.bed j := by
  split
  · subst_vars; simp
  · exact s.onBed_bed_ne g ‹_›

@[simp] theorem State.onBed_time (s : State) (i : BedIx) (g : Bed → Bed) : (s.onBed i g).time = s.time := rfl
@[simp] theorem State.setBed_time (s : State) (i : BedIx) (x : Bed) : (s.setBed i x).time = s.time := rfl
@[simp] theorem State.onBed_plots (s : State) (i : BedIx) (g : Bed → Bed) : (s.onBed i g).plots = s.plots := rfl
@[simp] theorem State.setBed_plots (s : State) (i : BedIx) (x : Bed) : (s.setBed i x).plots = s.plots := rfl
@[simp] theorem State.onBed_cis (s : State) (i : BedIx) (g : Bed → Bed) : (s.onBed i g).cis = s.cis := rfl
@[simp] theorem State.setBed_cis (s : State) (i : BedIx) (x : Bed) : (s.setBed i x).cis = s.cis := rfl
@[simp] theorem State.onBed_parts (s : State) (i : BedIx) (g : Bed → Bed) : (s.onBed i g).parts = s.parts := rfl
@[simp] theorem State.setBed_parts (s : State) (i : BedIx) (x : Bed) : (s.setBed i x).parts = s.parts := rfl
@[simp] theorem State.onBed_fns (s : State) (i : BedIx) (g : Bed → Bed) : (s.onBed i g).fns = s.fns := rfl
@[simp] theorem State.setBed_fns (s : State) (i : BedIx) (x : Bed) : (s.setBed i x).fns = s.fns := rfl
@[simp] theorem State.onBed_cores (s : State) (i : BedIx) (g : Bed → Bed) : (s.onBed i g).cores = s.cores := rfl
@[simp] theorem State.setBed_cores (s : State) (i : BedIx) (x : Bed) : (s.setBed i x).cores = s.cores := rfl
@[simp] theorem State.onBed_fence (s : State) (i : BedIx) (g : Bed → Bed) : (s.onBed i g).fence = s.fence := rfl
@[simp] theorem State.setBed_fence (s : State) (i : BedIx) (x : Bed) : (s.setBed i x).fence = s.fence := rfl
@[simp] theorem State.onBed_image (s : State) (i : BedIx) (g : Bed → Bed) : (s.onBed i g).image = s.image := rfl
@[simp] theorem State.setBed_image (s : State) (i : BedIx) (x : Bed) : (s.setBed i x).image = s.image := rfl
@[simp] theorem State.onBed_dev (s : State) (i : BedIx) (g : Bed → Bed) : (s.onBed i g).dev = s.dev := rfl
@[simp] theorem State.setBed_dev (s : State) (i : BedIx) (x : Bed) : (s.setBed i x).dev = s.dev := rfl
@[simp] theorem State.onBed_pf0 (s : State) (i : BedIx) (g : Bed → Bed) : (s.onBed i g).pf0 = s.pf0 := rfl
@[simp] theorem State.setBed_pf0 (s : State) (i : BedIx) (x : Bed) : (s.setBed i x).pf0 = s.pf0 := rfl
@[simp] theorem State.onBed_pins (s : State) (i : BedIx) (g : Bed → Bed) : (s.onBed i g).pins = s.pins := rfl
@[simp] theorem State.setBed_pins (s : State) (i : BedIx) (x : Bed) : (s.setBed i x).pins = s.pins := rfl
@[simp] theorem State.onBed_monitor (s : State) (i : BedIx) (g : Bed → Bed) : (s.onBed i g).monitor = s.monitor := rfl
@[simp] theorem State.setBed_monitor (s : State) (i : BedIx) (x : Bed) : (s.setBed i x).monitor = s.monitor := rfl
@[simp] theorem State.onBed_codec (s : State) (i : BedIx) (g : Bed → Bed) : (s.onBed i g).codec = s.codec := rfl
@[simp] theorem State.setBed_codec (s : State) (i : BedIx) (x : Bed) : (s.setBed i x).codec = s.codec := rfl
@[simp] theorem State.onBed_bvl (s : State) (i : BedIx) (g : Bed → Bed) : (s.onBed i g).bvl = s.bvl := rfl
@[simp] theorem State.setBed_bvl (s : State) (i : BedIx) (x : Bed) : (s.setBed i x).bvl = s.bvl := rfl
@[simp] theorem State.onBed_trellis (s : State) (i : BedIx) (g : Bed → Bed) : (s.onBed i g).trellis = s.trellis := rfl
@[simp] theorem State.setBed_trellis (s : State) (i : BedIx) (x : Bed) : (s.setBed i x).trellis = s.trellis := rfl
@[simp] theorem State.onBed_alm (s : State) (i : BedIx) (g : Bed → Bed) : (s.onBed i g).alm = s.alm := rfl
@[simp] theorem State.setBed_alm (s : State) (i : BedIx) (x : Bed) : (s.setBed i x).alm = s.alm := rfl
@[simp] theorem State.onBed_mem (s : State) (i : BedIx) (g : Bed → Bed) : (s.onBed i g).mem = s.mem := rfl
@[simp] theorem State.setBed_mem (s : State) (i : BedIx) (x : Bed) : (s.setBed i x).mem = s.mem := rfl
@[simp] theorem State.onBed_fresh (s : State) (i : BedIx) (g : Bed → Bed) : (s.onBed i g).fresh = s.fresh := rfl
@[simp] theorem State.setBed_fresh (s : State) (i : BedIx) (x : Bed) : (s.setBed i x).fresh = s.fresh := rfl
@[simp] theorem State.onBed_pending (s : State) (i : BedIx) (g : Bed → Bed) : (s.onBed i g).pending = s.pending := rfl
@[simp] theorem State.setBed_pending (s : State) (i : BedIx) (x : Bed) : (s.setBed i x).pending = s.pending := rfl
@[simp] theorem State.onBed_plot (s : State) (i : BedIx) (g : Bed → Bed) (j : PlotIx) : (s.onBed i g).plot j = s.plot j := rfl
@[simp] theorem State.setBed_plot (s : State) (i : BedIx) (x : Bed) (j : PlotIx) : (s.setBed i x).plot j = s.plot j := rfl
@[simp] theorem State.onBed_cistern (s : State) (i : BedIx) (g : Bed → Bed) (j : CisIx) : (s.onBed i g).cistern j = s.cistern j := rfl
@[simp] theorem State.setBed_cistern (s : State) (i : BedIx) (x : Bed) (j : CisIx) : (s.setBed i x).cistern j = s.cistern j := rfl
@[simp] theorem State.onBed_part (s : State) (i : BedIx) (g : Bed → Bed) (j : PartIx) : (s.onBed i g).part j = s.part j := rfl
@[simp] theorem State.setBed_part (s : State) (i : BedIx) (x : Bed) (j : PartIx) : (s.setBed i x).part j = s.part j := rfl
@[simp] theorem State.onBed_func (s : State) (i : BedIx) (g : Bed → Bed) (j : FnIx) : (s.onBed i g).func j = s.func j := rfl
@[simp] theorem State.setBed_func (s : State) (i : BedIx) (x : Bed) (j : FnIx) : (s.setBed i x).func j = s.func j := rfl
@[simp] theorem State.onBed_core (s : State) (i : BedIx) (g : Bed → Bed) (j : CoreIx) : (s.onBed i g).core j = s.core j := rfl
@[simp] theorem State.setBed_core (s : State) (i : BedIx) (x : Bed) (j : CoreIx) : (s.setBed i x).core j = s.core j := rfl

@[simp] theorem State.setCistern_cistern (s : State) (i : CisIx) (x : Cistern) : (s.setCistern i x).cistern i = x := by
  simp [State.cistern, State.setCistern]

@[simp] theorem State.onCis_cistern (s : State) (i : CisIx) (g : Cistern → Cistern) : (s.onCis i g).cistern i = g (s.cistern i) := by
  simp [State.onCis]

theorem State.setCistern_cistern_ne (s : State) (x : Cistern) {i j : CisIx} (h : j ≠ i) : (s.setCistern i x).cistern j = s.cistern j := by
  have : i.val ≠ j.val := fun e => h (Fin.ext e.symm)
  simp [State.cistern, State.setCistern, this]

theorem State.onCis_cistern_ne (s : State) (g : Cistern → Cistern) {i j : CisIx} (h : j ≠ i) : (s.onCis i g).cistern j = s.cistern j :=
  s.setCistern_cistern_ne _ h

theorem State.onCis_cistern_if (s : State) (g : Cistern → Cistern) (i j : CisIx) :
    (s.onCis i g).cistern j = if j = i then g (s.cistern i) else s.cistern j := by
  split
  · subst_vars; simp
  · exact s.onCis_cistern_ne g ‹_›

@[simp] theorem State.onCis_time (s : State) (i : CisIx) (g : Cistern → Cistern) : (s.onCis i g).time = s.time := rfl
@[simp] theorem State.setCistern_time (s : State) (i : CisIx) (x : Cistern) : (s.setCistern i x).time = s.time := rfl
@[simp] theorem State.onCis_plots (s : State) (i : CisIx) (g : Cistern → Cistern) : (s.onCis i g).plots = s.plots := rfl
@[simp] theorem State.setCistern_plots (s : State) (i : CisIx) (x : Cistern) : (s.setCistern i x).plots = s.plots := rfl
@[simp] theorem State.onCis_beds (s : State) (i : CisIx) (g : Cistern → Cistern) : (s.onCis i g).beds = s.beds := rfl
@[simp] theorem State.setCistern_beds (s : State) (i : CisIx) (x : Cistern) : (s.setCistern i x).beds = s.beds := rfl
@[simp] theorem State.onCis_parts (s : State) (i : CisIx) (g : Cistern → Cistern) : (s.onCis i g).parts = s.parts := rfl
@[simp] theorem State.setCistern_parts (s : State) (i : CisIx) (x : Cistern) : (s.setCistern i x).parts = s.parts := rfl
@[simp] theorem State.onCis_fns (s : State) (i : CisIx) (g : Cistern → Cistern) : (s.onCis i g).fns = s.fns := rfl
@[simp] theorem State.setCistern_fns (s : State) (i : CisIx) (x : Cistern) : (s.setCistern i x).fns = s.fns := rfl
@[simp] theorem State.onCis_cores (s : State) (i : CisIx) (g : Cistern → Cistern) : (s.onCis i g).cores = s.cores := rfl
@[simp] theorem State.setCistern_cores (s : State) (i : CisIx) (x : Cistern) : (s.setCistern i x).cores = s.cores := rfl
@[simp] theorem State.onCis_fence (s : State) (i : CisIx) (g : Cistern → Cistern) : (s.onCis i g).fence = s.fence := rfl
@[simp] theorem State.setCistern_fence (s : State) (i : CisIx) (x : Cistern) : (s.setCistern i x).fence = s.fence := rfl
@[simp] theorem State.onCis_image (s : State) (i : CisIx) (g : Cistern → Cistern) : (s.onCis i g).image = s.image := rfl
@[simp] theorem State.setCistern_image (s : State) (i : CisIx) (x : Cistern) : (s.setCistern i x).image = s.image := rfl
@[simp] theorem State.onCis_dev (s : State) (i : CisIx) (g : Cistern → Cistern) : (s.onCis i g).dev = s.dev := rfl
@[simp] theorem State.setCistern_dev (s : State) (i : CisIx) (x : Cistern) : (s.setCistern i x).dev = s.dev := rfl
@[simp] theorem State.onCis_pf0 (s : State) (i : CisIx) (g : Cistern → Cistern) : (s.onCis i g).pf0 = s.pf0 := rfl
@[simp] theorem State.setCistern_pf0 (s : State) (i : CisIx) (x : Cistern) : (s.setCistern i x).pf0 = s.pf0 := rfl
@[simp] theorem State.onCis_pins (s : State) (i : CisIx) (g : Cistern → Cistern) : (s.onCis i g).pins = s.pins := rfl
@[simp] theorem State.setCistern_pins (s : State) (i : CisIx) (x : Cistern) : (s.setCistern i x).pins = s.pins := rfl
@[simp] theorem State.onCis_monitor (s : State) (i : CisIx) (g : Cistern → Cistern) : (s.onCis i g).monitor = s.monitor := rfl
@[simp] theorem State.setCistern_monitor (s : State) (i : CisIx) (x : Cistern) : (s.setCistern i x).monitor = s.monitor := rfl
@[simp] theorem State.onCis_codec (s : State) (i : CisIx) (g : Cistern → Cistern) : (s.onCis i g).codec = s.codec := rfl
@[simp] theorem State.setCistern_codec (s : State) (i : CisIx) (x : Cistern) : (s.setCistern i x).codec = s.codec := rfl
@[simp] theorem State.onCis_bvl (s : State) (i : CisIx) (g : Cistern → Cistern) : (s.onCis i g).bvl = s.bvl := rfl
@[simp] theorem State.setCistern_bvl (s : State) (i : CisIx) (x : Cistern) : (s.setCistern i x).bvl = s.bvl := rfl
@[simp] theorem State.onCis_trellis (s : State) (i : CisIx) (g : Cistern → Cistern) : (s.onCis i g).trellis = s.trellis := rfl
@[simp] theorem State.setCistern_trellis (s : State) (i : CisIx) (x : Cistern) : (s.setCistern i x).trellis = s.trellis := rfl
@[simp] theorem State.onCis_alm (s : State) (i : CisIx) (g : Cistern → Cistern) : (s.onCis i g).alm = s.alm := rfl
@[simp] theorem State.setCistern_alm (s : State) (i : CisIx) (x : Cistern) : (s.setCistern i x).alm = s.alm := rfl
@[simp] theorem State.onCis_mem (s : State) (i : CisIx) (g : Cistern → Cistern) : (s.onCis i g).mem = s.mem := rfl
@[simp] theorem State.setCistern_mem (s : State) (i : CisIx) (x : Cistern) : (s.setCistern i x).mem = s.mem := rfl
@[simp] theorem State.onCis_fresh (s : State) (i : CisIx) (g : Cistern → Cistern) : (s.onCis i g).fresh = s.fresh := rfl
@[simp] theorem State.setCistern_fresh (s : State) (i : CisIx) (x : Cistern) : (s.setCistern i x).fresh = s.fresh := rfl
@[simp] theorem State.onCis_pending (s : State) (i : CisIx) (g : Cistern → Cistern) : (s.onCis i g).pending = s.pending := rfl
@[simp] theorem State.setCistern_pending (s : State) (i : CisIx) (x : Cistern) : (s.setCistern i x).pending = s.pending := rfl
@[simp] theorem State.onCis_plot (s : State) (i : CisIx) (g : Cistern → Cistern) (j : PlotIx) : (s.onCis i g).plot j = s.plot j := rfl
@[simp] theorem State.setCistern_plot (s : State) (i : CisIx) (x : Cistern) (j : PlotIx) : (s.setCistern i x).plot j = s.plot j := rfl
@[simp] theorem State.onCis_bed (s : State) (i : CisIx) (g : Cistern → Cistern) (j : BedIx) : (s.onCis i g).bed j = s.bed j := rfl
@[simp] theorem State.setCistern_bed (s : State) (i : CisIx) (x : Cistern) (j : BedIx) : (s.setCistern i x).bed j = s.bed j := rfl
@[simp] theorem State.onCis_part (s : State) (i : CisIx) (g : Cistern → Cistern) (j : PartIx) : (s.onCis i g).part j = s.part j := rfl
@[simp] theorem State.setCistern_part (s : State) (i : CisIx) (x : Cistern) (j : PartIx) : (s.setCistern i x).part j = s.part j := rfl
@[simp] theorem State.onCis_func (s : State) (i : CisIx) (g : Cistern → Cistern) (j : FnIx) : (s.onCis i g).func j = s.func j := rfl
@[simp] theorem State.setCistern_func (s : State) (i : CisIx) (x : Cistern) (j : FnIx) : (s.setCistern i x).func j = s.func j := rfl
@[simp] theorem State.onCis_core (s : State) (i : CisIx) (g : Cistern → Cistern) (j : CoreIx) : (s.onCis i g).core j = s.core j := rfl
@[simp] theorem State.setCistern_core (s : State) (i : CisIx) (x : Cistern) (j : CoreIx) : (s.setCistern i x).core j = s.core j := rfl

@[simp] theorem State.setPart_part (s : State) (i : PartIx) (x : Part) : (s.setPart i x).part i = x := by
  simp [State.part, State.setPart]

@[simp] theorem State.onPart_part (s : State) (i : PartIx) (g : Part → Part) : (s.onPart i g).part i = g (s.part i) := by
  simp [State.onPart]

theorem State.setPart_part_ne (s : State) (x : Part) {i j : PartIx} (h : j ≠ i) : (s.setPart i x).part j = s.part j := by
  have : i.val ≠ j.val := fun e => h (Fin.ext e.symm)
  simp [State.part, State.setPart, this]

theorem State.onPart_part_ne (s : State) (g : Part → Part) {i j : PartIx} (h : j ≠ i) : (s.onPart i g).part j = s.part j :=
  s.setPart_part_ne _ h

theorem State.onPart_part_if (s : State) (g : Part → Part) (i j : PartIx) :
    (s.onPart i g).part j = if j = i then g (s.part i) else s.part j := by
  split
  · subst_vars; simp
  · exact s.onPart_part_ne g ‹_›

@[simp] theorem State.onPart_time (s : State) (i : PartIx) (g : Part → Part) : (s.onPart i g).time = s.time := rfl
@[simp] theorem State.setPart_time (s : State) (i : PartIx) (x : Part) : (s.setPart i x).time = s.time := rfl
@[simp] theorem State.onPart_plots (s : State) (i : PartIx) (g : Part → Part) : (s.onPart i g).plots = s.plots := rfl
@[simp] theorem State.setPart_plots (s : State) (i : PartIx) (x : Part) : (s.setPart i x).plots = s.plots := rfl
@[simp] theorem State.onPart_beds (s : State) (i : PartIx) (g : Part → Part) : (s.onPart i g).beds = s.beds := rfl
@[simp] theorem State.setPart_beds (s : State) (i : PartIx) (x : Part) : (s.setPart i x).beds = s.beds := rfl
@[simp] theorem State.onPart_cis (s : State) (i : PartIx) (g : Part → Part) : (s.onPart i g).cis = s.cis := rfl
@[simp] theorem State.setPart_cis (s : State) (i : PartIx) (x : Part) : (s.setPart i x).cis = s.cis := rfl
@[simp] theorem State.onPart_fns (s : State) (i : PartIx) (g : Part → Part) : (s.onPart i g).fns = s.fns := rfl
@[simp] theorem State.setPart_fns (s : State) (i : PartIx) (x : Part) : (s.setPart i x).fns = s.fns := rfl
@[simp] theorem State.onPart_cores (s : State) (i : PartIx) (g : Part → Part) : (s.onPart i g).cores = s.cores := rfl
@[simp] theorem State.setPart_cores (s : State) (i : PartIx) (x : Part) : (s.setPart i x).cores = s.cores := rfl
@[simp] theorem State.onPart_fence (s : State) (i : PartIx) (g : Part → Part) : (s.onPart i g).fence = s.fence := rfl
@[simp] theorem State.setPart_fence (s : State) (i : PartIx) (x : Part) : (s.setPart i x).fence = s.fence := rfl
@[simp] theorem State.onPart_image (s : State) (i : PartIx) (g : Part → Part) : (s.onPart i g).image = s.image := rfl
@[simp] theorem State.setPart_image (s : State) (i : PartIx) (x : Part) : (s.setPart i x).image = s.image := rfl
@[simp] theorem State.onPart_dev (s : State) (i : PartIx) (g : Part → Part) : (s.onPart i g).dev = s.dev := rfl
@[simp] theorem State.setPart_dev (s : State) (i : PartIx) (x : Part) : (s.setPart i x).dev = s.dev := rfl
@[simp] theorem State.onPart_pf0 (s : State) (i : PartIx) (g : Part → Part) : (s.onPart i g).pf0 = s.pf0 := rfl
@[simp] theorem State.setPart_pf0 (s : State) (i : PartIx) (x : Part) : (s.setPart i x).pf0 = s.pf0 := rfl
@[simp] theorem State.onPart_pins (s : State) (i : PartIx) (g : Part → Part) : (s.onPart i g).pins = s.pins := rfl
@[simp] theorem State.setPart_pins (s : State) (i : PartIx) (x : Part) : (s.setPart i x).pins = s.pins := rfl
@[simp] theorem State.onPart_monitor (s : State) (i : PartIx) (g : Part → Part) : (s.onPart i g).monitor = s.monitor := rfl
@[simp] theorem State.setPart_monitor (s : State) (i : PartIx) (x : Part) : (s.setPart i x).monitor = s.monitor := rfl
@[simp] theorem State.onPart_codec (s : State) (i : PartIx) (g : Part → Part) : (s.onPart i g).codec = s.codec := rfl
@[simp] theorem State.setPart_codec (s : State) (i : PartIx) (x : Part) : (s.setPart i x).codec = s.codec := rfl
@[simp] theorem State.onPart_bvl (s : State) (i : PartIx) (g : Part → Part) : (s.onPart i g).bvl = s.bvl := rfl
@[simp] theorem State.setPart_bvl (s : State) (i : PartIx) (x : Part) : (s.setPart i x).bvl = s.bvl := rfl
@[simp] theorem State.onPart_trellis (s : State) (i : PartIx) (g : Part → Part) : (s.onPart i g).trellis = s.trellis := rfl
@[simp] theorem State.setPart_trellis (s : State) (i : PartIx) (x : Part) : (s.setPart i x).trellis = s.trellis := rfl
@[simp] theorem State.onPart_alm (s : State) (i : PartIx) (g : Part → Part) : (s.onPart i g).alm = s.alm := rfl
@[simp] theorem State.setPart_alm (s : State) (i : PartIx) (x : Part) : (s.setPart i x).alm = s.alm := rfl
@[simp] theorem State.onPart_mem (s : State) (i : PartIx) (g : Part → Part) : (s.onPart i g).mem = s.mem := rfl
@[simp] theorem State.setPart_mem (s : State) (i : PartIx) (x : Part) : (s.setPart i x).mem = s.mem := rfl
@[simp] theorem State.onPart_fresh (s : State) (i : PartIx) (g : Part → Part) : (s.onPart i g).fresh = s.fresh := rfl
@[simp] theorem State.setPart_fresh (s : State) (i : PartIx) (x : Part) : (s.setPart i x).fresh = s.fresh := rfl
@[simp] theorem State.onPart_pending (s : State) (i : PartIx) (g : Part → Part) : (s.onPart i g).pending = s.pending := rfl
@[simp] theorem State.setPart_pending (s : State) (i : PartIx) (x : Part) : (s.setPart i x).pending = s.pending := rfl
@[simp] theorem State.onPart_plot (s : State) (i : PartIx) (g : Part → Part) (j : PlotIx) : (s.onPart i g).plot j = s.plot j := rfl
@[simp] theorem State.setPart_plot (s : State) (i : PartIx) (x : Part) (j : PlotIx) : (s.setPart i x).plot j = s.plot j := rfl
@[simp] theorem State.onPart_bed (s : State) (i : PartIx) (g : Part → Part) (j : BedIx) : (s.onPart i g).bed j = s.bed j := rfl
@[simp] theorem State.setPart_bed (s : State) (i : PartIx) (x : Part) (j : BedIx) : (s.setPart i x).bed j = s.bed j := rfl
@[simp] theorem State.onPart_cistern (s : State) (i : PartIx) (g : Part → Part) (j : CisIx) : (s.onPart i g).cistern j = s.cistern j := rfl
@[simp] theorem State.setPart_cistern (s : State) (i : PartIx) (x : Part) (j : CisIx) : (s.setPart i x).cistern j = s.cistern j := rfl
@[simp] theorem State.onPart_func (s : State) (i : PartIx) (g : Part → Part) (j : FnIx) : (s.onPart i g).func j = s.func j := rfl
@[simp] theorem State.setPart_func (s : State) (i : PartIx) (x : Part) (j : FnIx) : (s.setPart i x).func j = s.func j := rfl
@[simp] theorem State.onPart_core (s : State) (i : PartIx) (g : Part → Part) (j : CoreIx) : (s.onPart i g).core j = s.core j := rfl
@[simp] theorem State.setPart_core (s : State) (i : PartIx) (x : Part) (j : CoreIx) : (s.setPart i x).core j = s.core j := rfl

@[simp] theorem State.setFunc_func (s : State) (i : FnIx) (x : Fn) : (s.setFunc i x).func i = x := by
  simp [State.func, State.setFunc]

@[simp] theorem State.onFunc_func (s : State) (i : FnIx) (g : Fn → Fn) : (s.onFunc i g).func i = g (s.func i) := by
  simp [State.onFunc]

theorem State.setFunc_func_ne (s : State) (x : Fn) {i j : FnIx} (h : j ≠ i) : (s.setFunc i x).func j = s.func j := by
  have : i.val ≠ j.val := fun e => h (Fin.ext e.symm)
  simp [State.func, State.setFunc, this]

theorem State.onFunc_func_ne (s : State) (g : Fn → Fn) {i j : FnIx} (h : j ≠ i) : (s.onFunc i g).func j = s.func j :=
  s.setFunc_func_ne _ h

theorem State.onFunc_func_if (s : State) (g : Fn → Fn) (i j : FnIx) :
    (s.onFunc i g).func j = if j = i then g (s.func i) else s.func j := by
  split
  · subst_vars; simp
  · exact s.onFunc_func_ne g ‹_›

@[simp] theorem State.onFunc_time (s : State) (i : FnIx) (g : Fn → Fn) : (s.onFunc i g).time = s.time := rfl
@[simp] theorem State.setFunc_time (s : State) (i : FnIx) (x : Fn) : (s.setFunc i x).time = s.time := rfl
@[simp] theorem State.onFunc_plots (s : State) (i : FnIx) (g : Fn → Fn) : (s.onFunc i g).plots = s.plots := rfl
@[simp] theorem State.setFunc_plots (s : State) (i : FnIx) (x : Fn) : (s.setFunc i x).plots = s.plots := rfl
@[simp] theorem State.onFunc_beds (s : State) (i : FnIx) (g : Fn → Fn) : (s.onFunc i g).beds = s.beds := rfl
@[simp] theorem State.setFunc_beds (s : State) (i : FnIx) (x : Fn) : (s.setFunc i x).beds = s.beds := rfl
@[simp] theorem State.onFunc_cis (s : State) (i : FnIx) (g : Fn → Fn) : (s.onFunc i g).cis = s.cis := rfl
@[simp] theorem State.setFunc_cis (s : State) (i : FnIx) (x : Fn) : (s.setFunc i x).cis = s.cis := rfl
@[simp] theorem State.onFunc_parts (s : State) (i : FnIx) (g : Fn → Fn) : (s.onFunc i g).parts = s.parts := rfl
@[simp] theorem State.setFunc_parts (s : State) (i : FnIx) (x : Fn) : (s.setFunc i x).parts = s.parts := rfl
@[simp] theorem State.onFunc_cores (s : State) (i : FnIx) (g : Fn → Fn) : (s.onFunc i g).cores = s.cores := rfl
@[simp] theorem State.setFunc_cores (s : State) (i : FnIx) (x : Fn) : (s.setFunc i x).cores = s.cores := rfl
@[simp] theorem State.onFunc_fence (s : State) (i : FnIx) (g : Fn → Fn) : (s.onFunc i g).fence = s.fence := rfl
@[simp] theorem State.setFunc_fence (s : State) (i : FnIx) (x : Fn) : (s.setFunc i x).fence = s.fence := rfl
@[simp] theorem State.onFunc_image (s : State) (i : FnIx) (g : Fn → Fn) : (s.onFunc i g).image = s.image := rfl
@[simp] theorem State.setFunc_image (s : State) (i : FnIx) (x : Fn) : (s.setFunc i x).image = s.image := rfl
@[simp] theorem State.onFunc_dev (s : State) (i : FnIx) (g : Fn → Fn) : (s.onFunc i g).dev = s.dev := rfl
@[simp] theorem State.setFunc_dev (s : State) (i : FnIx) (x : Fn) : (s.setFunc i x).dev = s.dev := rfl
@[simp] theorem State.onFunc_pf0 (s : State) (i : FnIx) (g : Fn → Fn) : (s.onFunc i g).pf0 = s.pf0 := rfl
@[simp] theorem State.setFunc_pf0 (s : State) (i : FnIx) (x : Fn) : (s.setFunc i x).pf0 = s.pf0 := rfl
@[simp] theorem State.onFunc_pins (s : State) (i : FnIx) (g : Fn → Fn) : (s.onFunc i g).pins = s.pins := rfl
@[simp] theorem State.setFunc_pins (s : State) (i : FnIx) (x : Fn) : (s.setFunc i x).pins = s.pins := rfl
@[simp] theorem State.onFunc_monitor (s : State) (i : FnIx) (g : Fn → Fn) : (s.onFunc i g).monitor = s.monitor := rfl
@[simp] theorem State.setFunc_monitor (s : State) (i : FnIx) (x : Fn) : (s.setFunc i x).monitor = s.monitor := rfl
@[simp] theorem State.onFunc_codec (s : State) (i : FnIx) (g : Fn → Fn) : (s.onFunc i g).codec = s.codec := rfl
@[simp] theorem State.setFunc_codec (s : State) (i : FnIx) (x : Fn) : (s.setFunc i x).codec = s.codec := rfl
@[simp] theorem State.onFunc_bvl (s : State) (i : FnIx) (g : Fn → Fn) : (s.onFunc i g).bvl = s.bvl := rfl
@[simp] theorem State.setFunc_bvl (s : State) (i : FnIx) (x : Fn) : (s.setFunc i x).bvl = s.bvl := rfl
@[simp] theorem State.onFunc_trellis (s : State) (i : FnIx) (g : Fn → Fn) : (s.onFunc i g).trellis = s.trellis := rfl
@[simp] theorem State.setFunc_trellis (s : State) (i : FnIx) (x : Fn) : (s.setFunc i x).trellis = s.trellis := rfl
@[simp] theorem State.onFunc_alm (s : State) (i : FnIx) (g : Fn → Fn) : (s.onFunc i g).alm = s.alm := rfl
@[simp] theorem State.setFunc_alm (s : State) (i : FnIx) (x : Fn) : (s.setFunc i x).alm = s.alm := rfl
@[simp] theorem State.onFunc_mem (s : State) (i : FnIx) (g : Fn → Fn) : (s.onFunc i g).mem = s.mem := rfl
@[simp] theorem State.setFunc_mem (s : State) (i : FnIx) (x : Fn) : (s.setFunc i x).mem = s.mem := rfl
@[simp] theorem State.onFunc_fresh (s : State) (i : FnIx) (g : Fn → Fn) : (s.onFunc i g).fresh = s.fresh := rfl
@[simp] theorem State.setFunc_fresh (s : State) (i : FnIx) (x : Fn) : (s.setFunc i x).fresh = s.fresh := rfl
@[simp] theorem State.onFunc_pending (s : State) (i : FnIx) (g : Fn → Fn) : (s.onFunc i g).pending = s.pending := rfl
@[simp] theorem State.setFunc_pending (s : State) (i : FnIx) (x : Fn) : (s.setFunc i x).pending = s.pending := rfl
@[simp] theorem State.onFunc_plot (s : State) (i : FnIx) (g : Fn → Fn) (j : PlotIx) : (s.onFunc i g).plot j = s.plot j := rfl
@[simp] theorem State.setFunc_plot (s : State) (i : FnIx) (x : Fn) (j : PlotIx) : (s.setFunc i x).plot j = s.plot j := rfl
@[simp] theorem State.onFunc_bed (s : State) (i : FnIx) (g : Fn → Fn) (j : BedIx) : (s.onFunc i g).bed j = s.bed j := rfl
@[simp] theorem State.setFunc_bed (s : State) (i : FnIx) (x : Fn) (j : BedIx) : (s.setFunc i x).bed j = s.bed j := rfl
@[simp] theorem State.onFunc_cistern (s : State) (i : FnIx) (g : Fn → Fn) (j : CisIx) : (s.onFunc i g).cistern j = s.cistern j := rfl
@[simp] theorem State.setFunc_cistern (s : State) (i : FnIx) (x : Fn) (j : CisIx) : (s.setFunc i x).cistern j = s.cistern j := rfl
@[simp] theorem State.onFunc_part (s : State) (i : FnIx) (g : Fn → Fn) (j : PartIx) : (s.onFunc i g).part j = s.part j := rfl
@[simp] theorem State.setFunc_part (s : State) (i : FnIx) (x : Fn) (j : PartIx) : (s.setFunc i x).part j = s.part j := rfl
@[simp] theorem State.onFunc_core (s : State) (i : FnIx) (g : Fn → Fn) (j : CoreIx) : (s.onFunc i g).core j = s.core j := rfl
@[simp] theorem State.setFunc_core (s : State) (i : FnIx) (x : Fn) (j : CoreIx) : (s.setFunc i x).core j = s.core j := rfl

@[simp] theorem State.setCore_core (s : State) (i : CoreIx) (x : Core) : (s.setCore i x).core i = x := by
  simp [State.core, State.setCore]

@[simp] theorem State.onCore_core (s : State) (i : CoreIx) (g : Core → Core) : (s.onCore i g).core i = g (s.core i) := by
  simp [State.onCore]

theorem State.setCore_core_ne (s : State) (x : Core) {i j : CoreIx} (h : j ≠ i) : (s.setCore i x).core j = s.core j := by
  have : i.val ≠ j.val := fun e => h (Fin.ext e.symm)
  simp [State.core, State.setCore, this]

theorem State.onCore_core_ne (s : State) (g : Core → Core) {i j : CoreIx} (h : j ≠ i) : (s.onCore i g).core j = s.core j :=
  s.setCore_core_ne _ h

theorem State.onCore_core_if (s : State) (g : Core → Core) (i j : CoreIx) :
    (s.onCore i g).core j = if j = i then g (s.core i) else s.core j := by
  split
  · subst_vars; simp
  · exact s.onCore_core_ne g ‹_›

@[simp] theorem State.onCore_time (s : State) (i : CoreIx) (g : Core → Core) : (s.onCore i g).time = s.time := rfl
@[simp] theorem State.setCore_time (s : State) (i : CoreIx) (x : Core) : (s.setCore i x).time = s.time := rfl
@[simp] theorem State.onCore_plots (s : State) (i : CoreIx) (g : Core → Core) : (s.onCore i g).plots = s.plots := rfl
@[simp] theorem State.setCore_plots (s : State) (i : CoreIx) (x : Core) : (s.setCore i x).plots = s.plots := rfl
@[simp] theorem State.onCore_beds (s : State) (i : CoreIx) (g : Core → Core) : (s.onCore i g).beds = s.beds := rfl
@[simp] theorem State.setCore_beds (s : State) (i : CoreIx) (x : Core) : (s.setCore i x).beds = s.beds := rfl
@[simp] theorem State.onCore_cis (s : State) (i : CoreIx) (g : Core → Core) : (s.onCore i g).cis = s.cis := rfl
@[simp] theorem State.setCore_cis (s : State) (i : CoreIx) (x : Core) : (s.setCore i x).cis = s.cis := rfl
@[simp] theorem State.onCore_parts (s : State) (i : CoreIx) (g : Core → Core) : (s.onCore i g).parts = s.parts := rfl
@[simp] theorem State.setCore_parts (s : State) (i : CoreIx) (x : Core) : (s.setCore i x).parts = s.parts := rfl
@[simp] theorem State.onCore_fns (s : State) (i : CoreIx) (g : Core → Core) : (s.onCore i g).fns = s.fns := rfl
@[simp] theorem State.setCore_fns (s : State) (i : CoreIx) (x : Core) : (s.setCore i x).fns = s.fns := rfl
@[simp] theorem State.onCore_fence (s : State) (i : CoreIx) (g : Core → Core) : (s.onCore i g).fence = s.fence := rfl
@[simp] theorem State.setCore_fence (s : State) (i : CoreIx) (x : Core) : (s.setCore i x).fence = s.fence := rfl
@[simp] theorem State.onCore_image (s : State) (i : CoreIx) (g : Core → Core) : (s.onCore i g).image = s.image := rfl
@[simp] theorem State.setCore_image (s : State) (i : CoreIx) (x : Core) : (s.setCore i x).image = s.image := rfl
@[simp] theorem State.onCore_dev (s : State) (i : CoreIx) (g : Core → Core) : (s.onCore i g).dev = s.dev := rfl
@[simp] theorem State.setCore_dev (s : State) (i : CoreIx) (x : Core) : (s.setCore i x).dev = s.dev := rfl
@[simp] theorem State.onCore_pf0 (s : State) (i : CoreIx) (g : Core → Core) : (s.onCore i g).pf0 = s.pf0 := rfl
@[simp] theorem State.setCore_pf0 (s : State) (i : CoreIx) (x : Core) : (s.setCore i x).pf0 = s.pf0 := rfl
@[simp] theorem State.onCore_pins (s : State) (i : CoreIx) (g : Core → Core) : (s.onCore i g).pins = s.pins := rfl
@[simp] theorem State.setCore_pins (s : State) (i : CoreIx) (x : Core) : (s.setCore i x).pins = s.pins := rfl
@[simp] theorem State.onCore_monitor (s : State) (i : CoreIx) (g : Core → Core) : (s.onCore i g).monitor = s.monitor := rfl
@[simp] theorem State.setCore_monitor (s : State) (i : CoreIx) (x : Core) : (s.setCore i x).monitor = s.monitor := rfl
@[simp] theorem State.onCore_codec (s : State) (i : CoreIx) (g : Core → Core) : (s.onCore i g).codec = s.codec := rfl
@[simp] theorem State.setCore_codec (s : State) (i : CoreIx) (x : Core) : (s.setCore i x).codec = s.codec := rfl
@[simp] theorem State.onCore_bvl (s : State) (i : CoreIx) (g : Core → Core) : (s.onCore i g).bvl = s.bvl := rfl
@[simp] theorem State.setCore_bvl (s : State) (i : CoreIx) (x : Core) : (s.setCore i x).bvl = s.bvl := rfl
@[simp] theorem State.onCore_trellis (s : State) (i : CoreIx) (g : Core → Core) : (s.onCore i g).trellis = s.trellis := rfl
@[simp] theorem State.setCore_trellis (s : State) (i : CoreIx) (x : Core) : (s.setCore i x).trellis = s.trellis := rfl
@[simp] theorem State.onCore_alm (s : State) (i : CoreIx) (g : Core → Core) : (s.onCore i g).alm = s.alm := rfl
@[simp] theorem State.setCore_alm (s : State) (i : CoreIx) (x : Core) : (s.setCore i x).alm = s.alm := rfl
@[simp] theorem State.onCore_mem (s : State) (i : CoreIx) (g : Core → Core) : (s.onCore i g).mem = s.mem := rfl
@[simp] theorem State.setCore_mem (s : State) (i : CoreIx) (x : Core) : (s.setCore i x).mem = s.mem := rfl
@[simp] theorem State.onCore_fresh (s : State) (i : CoreIx) (g : Core → Core) : (s.onCore i g).fresh = s.fresh := rfl
@[simp] theorem State.setCore_fresh (s : State) (i : CoreIx) (x : Core) : (s.setCore i x).fresh = s.fresh := rfl
@[simp] theorem State.onCore_pending (s : State) (i : CoreIx) (g : Core → Core) : (s.onCore i g).pending = s.pending := rfl
@[simp] theorem State.setCore_pending (s : State) (i : CoreIx) (x : Core) : (s.setCore i x).pending = s.pending := rfl
@[simp] theorem State.onCore_plot (s : State) (i : CoreIx) (g : Core → Core) (j : PlotIx) : (s.onCore i g).plot j = s.plot j := rfl
@[simp] theorem State.setCore_plot (s : State) (i : CoreIx) (x : Core) (j : PlotIx) : (s.setCore i x).plot j = s.plot j := rfl
@[simp] theorem State.onCore_bed (s : State) (i : CoreIx) (g : Core → Core) (j : BedIx) : (s.onCore i g).bed j = s.bed j := rfl
@[simp] theorem State.setCore_bed (s : State) (i : CoreIx) (x : Core) (j : BedIx) : (s.setCore i x).bed j = s.bed j := rfl
@[simp] theorem State.onCore_cistern (s : State) (i : CoreIx) (g : Core → Core) (j : CisIx) : (s.onCore i g).cistern j = s.cistern j := rfl
@[simp] theorem State.setCore_cistern (s : State) (i : CoreIx) (x : Core) (j : CisIx) : (s.setCore i x).cistern j = s.cistern j := rfl
@[simp] theorem State.onCore_part (s : State) (i : CoreIx) (g : Core → Core) (j : PartIx) : (s.onCore i g).part j = s.part j := rfl
@[simp] theorem State.setCore_part (s : State) (i : CoreIx) (x : Core) (j : PartIx) : (s.setCore i x).part j = s.part j := rfl
@[simp] theorem State.onCore_func (s : State) (i : CoreIx) (g : Core → Core) (j : FnIx) : (s.onCore i g).func j = s.func j := rfl
@[simp] theorem State.setCore_func (s : State) (i : CoreIx) (x : Core) (j : FnIx) : (s.setCore i x).func j = s.func j := rfl

@[simp] theorem State.onMem_mem (s : State) (g : Memories → Memories) : (s.onMem g).mem = g s.mem := rfl
@[simp] theorem State.onMem_time (s : State) (g : Memories → Memories) : (s.onMem g).time = s.time := rfl
@[simp] theorem State.onMem_plots (s : State) (g : Memories → Memories) : (s.onMem g).plots = s.plots := rfl
@[simp] theorem State.onMem_beds (s : State) (g : Memories → Memories) : (s.onMem g).beds = s.beds := rfl
@[simp] theorem State.onMem_cis (s : State) (g : Memories → Memories) : (s.onMem g).cis = s.cis := rfl
@[simp] theorem State.onMem_parts (s : State) (g : Memories → Memories) : (s.onMem g).parts = s.parts := rfl
@[simp] theorem State.onMem_fns (s : State) (g : Memories → Memories) : (s.onMem g).fns = s.fns := rfl
@[simp] theorem State.onMem_cores (s : State) (g : Memories → Memories) : (s.onMem g).cores = s.cores := rfl
@[simp] theorem State.onMem_fence (s : State) (g : Memories → Memories) : (s.onMem g).fence = s.fence := rfl
@[simp] theorem State.onMem_image (s : State) (g : Memories → Memories) : (s.onMem g).image = s.image := rfl
@[simp] theorem State.onMem_dev (s : State) (g : Memories → Memories) : (s.onMem g).dev = s.dev := rfl
@[simp] theorem State.onMem_pf0 (s : State) (g : Memories → Memories) : (s.onMem g).pf0 = s.pf0 := rfl
@[simp] theorem State.onMem_pins (s : State) (g : Memories → Memories) : (s.onMem g).pins = s.pins := rfl
@[simp] theorem State.onMem_monitor (s : State) (g : Memories → Memories) : (s.onMem g).monitor = s.monitor := rfl
@[simp] theorem State.onMem_codec (s : State) (g : Memories → Memories) : (s.onMem g).codec = s.codec := rfl
@[simp] theorem State.onMem_bvl (s : State) (g : Memories → Memories) : (s.onMem g).bvl = s.bvl := rfl
@[simp] theorem State.onMem_trellis (s : State) (g : Memories → Memories) : (s.onMem g).trellis = s.trellis := rfl
@[simp] theorem State.onMem_alm (s : State) (g : Memories → Memories) : (s.onMem g).alm = s.alm := rfl
@[simp] theorem State.onMem_fresh (s : State) (g : Memories → Memories) : (s.onMem g).fresh = s.fresh := rfl
@[simp] theorem State.onMem_pending (s : State) (g : Memories → Memories) : (s.onMem g).pending = s.pending := rfl
@[simp] theorem State.onMem_plot (s : State) (g : Memories → Memories) (j : PlotIx) : (s.onMem g).plot j = s.plot j := rfl
@[simp] theorem State.onMem_bed (s : State) (g : Memories → Memories) (j : BedIx) : (s.onMem g).bed j = s.bed j := rfl
@[simp] theorem State.onMem_cistern (s : State) (g : Memories → Memories) (j : CisIx) : (s.onMem g).cistern j = s.cistern j := rfl
@[simp] theorem State.onMem_part (s : State) (g : Memories → Memories) (j : PartIx) : (s.onMem g).part j = s.part j := rfl
@[simp] theorem State.onMem_func (s : State) (g : Memories → Memories) (j : FnIx) : (s.onMem g).func j = s.func j := rfl
@[simp] theorem State.onMem_core (s : State) (g : Memories → Memories) (j : CoreIx) : (s.onMem g).core j = s.core j := rfl

end Sys2Proof.Machine
end

