-- ==== Sys2Proof/Laws/Lane.lean ====
section
/-! SUPPORT. What leaving the waits does, said once: the commands of a lane cite it. -/

namespace Sys2Proof.Machine

open Host

@[simp] theorem laneGet_laneSet (x : Plot) (l : Lane) (y : LaneSt) : laneGet (laneSet x l y) l = y := by cases l <;> rfl
@[simp] theorem laneGet_laneSet_other (x : Plot) (l : Lane) (y : LaneSt) :
    laneGet (laneSet x l y) (laneOther l) = laneGet x (laneOther l) := by cases l <;> rfl
@[simp] theorem laneSet_laneSet (x : Plot) (l : Lane) (y z : LaneSt) : laneSet (laneSet x l y) l z = laneSet x l z := by
  cases l <;> rfl

theorem State.onPlot_onPlot (s : State) (p : PlotIx) (f g : Plot → Plot) :
    (s.onPlot p f).onPlot p g = s.onPlot p (fun x => g (f x)) := by
  simp [State.onPlot, State.setPlot, State.plot]

theorem State.onBed_onBed (s : State) (b : BedIx) (f g : Bed → Bed) :
    (s.onBed b f).onBed b g = s.onBed b (fun x => g (f x)) := by
  simp [State.onBed, State.setBed, State.bed]

theorem State.onBed_onPlot (s : State) (b : BedIx) (p : PlotIx) (f : Bed → Bed) (g : Plot → Plot) :
    (s.onPlot p g).onBed b f = (s.onBed b f).onPlot p g := rfl

theorem State.setBed_self (s : State) (b : BedIx) : s.setBed b (s.bed b) = s := by
  simp [State.setBed, State.bed]

theorem State.onBed_id (s : State) (b : BedIx) (f : Bed → Bed) (h : f (s.bed b) = s.bed b) : s.onBed b f = s := by
  rw [State.onBed, h, State.setBed_self]

/-- A command that nothing holds back goes on to steps 5 to 7. -/
theorem leaveWaits_issue {s : State} {p : PlotIx} {l : Lane} {d : BitVec 1024} (isOp : Nat → Bool)
    (check : BitVec 1024 → State → Option (Nat × Nat)) (start : BitVec 1024 → State → State)
    (h : LeavesWaits s p l d) (hop : isOp (hOp d) = true) :
    leaveWaits p l isOp check start s = issue p l d (check d) (start d) (waited p l d s) := by
  obtain ⟨head, queued, free, mode, noHold, gate, noFlush, noCapture, waitAll, sem, energy⟩ := h
  have hq : ∃ t, (laneGet (s.plot p) l).queue = d :: t := by
    cases hh : (laneGet (s.plot p) l).queue with
    | nil => simp [hh] at head
    | cons a t => simp [hh] at head; exact ⟨t, by rw [head]⟩
  obtain ⟨t, ht⟩ := hq
  have hc : canStart s p l = true := by
    have : (l = .move || (s.plot p).capture.isNone) = true := by rcases noCapture with e | e <;> simp [e]
    rcases mode with e | e <;> simpa [canStart, noHold, gate, noFlush, free, e] using this
  have hw : (hWaitAll d && !laneEmpty (laneGet (s.plot p) (laneOther l))) = false := by
    cases e : hWaitAll d
    · rfl
    · simp [waitAll e]
  have h23 : waits23 p l d s = some ((s.onBed (bedOf p) fun b =>
      { b with sems := if hSemWait d then b.sems.set (hWaitSem d).val (b.sems[hWaitSem d] - 1) (hWaitSem d).isLt else b.sems }).onPlot p
      fun x => laneSet x l { laneGet x l with stage := .taken }) := by
    simp only [waits23, queued, hw, ne_eq, not_true, if_false, Bool.false_eq_true]
    cases e : hSemWait d
    · have : (s.onBed (bedOf p) fun b => { b with sems := b.sems }) = s := State.onBed_id _ _ _ rfl
      simp only [Bool.false_eq_true, if_false]
      rw [show (fun b : Bed => { b with sems := b.sems }) = id from rfl] at *
      simp only [State.onBed_id _ _ id rfl]
    · simp only [if_true, sem e, if_false]
      rfl
  have hn : ∀ u : State, (u.bed (bedOf p)).current = (s.bed (bedOf p)).current → u.dev = s.dev →
      energyNeed u (bedOf p) (hEnergy d) = energyNeed s (bedOf p) (hEnergy d) := by
    intro u h1 h2
    simp only [energyNeed, h1, h2]
  unfold leaveWaits
  simp only [ht, hop, hc, Bool.not_true, Bool.or_false, Bool.false_eq_true, if_false, h23]
  have h4 : wait4 p l d ((s.onBed (bedOf p) fun b =>
      { b with sems := if hSemWait d then b.sems.set (hWaitSem d).val (b.sems[hWaitSem d] - 1) (hWaitSem d).isLt else b.sems }).onPlot p
      fun x => laneSet x l { laneGet x l with stage := .taken }) = some (waited p l d s) := by
    dsimp only [wait4]
    rw [hn _ (by simp) (by simp), if_neg (by simpa using energy)]
    simp only [waited, debitBed, State.onBed_onPlot, State.onBed_onBed, State.onPlot_onPlot]
    congr 1
    unfold State.onPlot
    congr 1
    rcases mode with e | e <;> cases l <;> simp [laneGet, laneSet, e]
  rw [h4]

/-- A command whose ERA is not the plot's fails at step 5. -/
theorem issue_stale {s : State} {p : PlotIx} {l : Lane} {d : BitVec 1024} (check : State → Option (Nat × Nat))
    (start : State → State) (h : hEra d ≠ (s.plot p).era.toNat) :
    issue p l d check start s = endCommand p l d (endedEarly stStale (startTile d) 0) (traceCommand p l d false 0 0 s) := by
  simp [issue, h]

/-- A command that passes steps 5 to 7 begins step 8. -/
theorem leaveWaits_start {s : State} {p : PlotIx} {l : Lane} {d : BitVec 1024} (isOp : Nat → Bool)
    (check : BitVec 1024 → State → Option (Nat × Nat)) (start : BitVec 1024 → State → State)
    (h : Issues s p l d) (hop : isOp (hOp d) = true) (hc : check d (afterWaits p l d s) = none) :
    leaveWaits p l isOp check start s =
      start d (if l = .compute then (afterWaits p l d s).onPlot p (layerStart d) else afterWaits p l d s) := by
  rw [leaveWaits_issue isOp check start h.toLeavesWaits hop]
  have he : ((waited p l d s).plot p).era = (s.plot p).era := by
    cases l <;> simp [waited, laneSet, laneGet]
  have hc' : check d (traceCommand p l d false 0 0 (waited p l d s)) = none := hc
  unfold issue
  rw [if_neg (by rw [he]; simpa using h.era), if_neg (by simp [h.header])]
  simp only [hc', afterWaits]

/-- Tracing writes a bed's, a cistern's or the codec die's trace buffer, or a partition's count of lost records. -/
theorem traceEmit_bed (b : BedIx) (q : PartIx) (r : BitVec 256) (s : State) :
    (∃ e, traceEmit (.bed b) q r s = s.onBed b fun x => { x with trace := x.trace ++ e }) ∨
      traceEmit (.bed b) q r s = traceLose q s := by
  unfold traceEmit
  split
  · dsimp only
    split
    · exact .inl ⟨_, rfl⟩
    · exact .inr rfl
  · exact .inl ⟨[], by rw [State.onBed_id]; simp⟩

/-- What the trace of a command's begin or end changes: the bed's trace buffer or a partition's count of lost records. -/
theorem traceCommand_cases (p : PlotIx) (l : Lane) (d : BitVec 1024) (e : Bool) (st c : Nat) (s : State) :
    (∃ r, traceCommand p l d e st c s = s.onBed (bedOf p) fun x => { x with trace := x.trace ++ r }) ∨
      ∃ q, traceCommand p l d e st c s = traceLose q s := by
  unfold traceCommand
  split
  · rcases traceEmit_bed (bedOf p) _ _ s with h | h
    · exact .inl h
    · exact .inr ⟨_, h⟩
  · exact .inl ⟨[], by rw [State.onBed_id]; simp⟩

@[simp] theorem traceCommand_plots (p : PlotIx) (l : Lane) (d : BitVec 1024) (e : Bool) (st c : Nat) (s : State) :
    (traceCommand p l d e st c s).plots = s.plots := by
  rcases traceCommand_cases p l d e st c s with ⟨r, h⟩ | ⟨q, h⟩ <;> rw [h] <;> rfl

@[simp] theorem traceCommand_plot (p : PlotIx) (l : Lane) (d : BitVec 1024) (e : Bool) (st c : Nat) (s : State) (n : PlotIx) :
    (traceCommand p l d e st c s).plot n = s.plot n := by simp [State.plot]

@[simp] theorem traceCommand_mem (p : PlotIx) (l : Lane) (d : BitVec 1024) (e : Bool) (st c : Nat) (s : State) :
    (traceCommand p l d e st c s).mem = s.mem := by
  rcases traceCommand_cases p l d e st c s with ⟨r, h⟩ | ⟨q, h⟩ <;> rw [h] <;> rfl

@[simp] theorem traceCommand_dev (p : PlotIx) (l : Lane) (d : BitVec 1024) (e : Bool) (st c : Nat) (s : State) :
    (traceCommand p l d e st c s).dev = s.dev := by
  rcases traceCommand_cases p l d e st c s with ⟨r, h⟩ | ⟨q, h⟩ <;> rw [h] <;> rfl

@[simp] theorem traceCommand_fence (p : PlotIx) (l : Lane) (d : BitVec 1024) (e : Bool) (st c : Nat) (s : State) :
    (traceCommand p l d e st c s).fence = s.fence := by
  rcases traceCommand_cases p l d e st c s with ⟨r, h⟩ | ⟨q, h⟩ <;> rw [h] <;> rfl

@[simp] theorem traceCommand_ring (p : PlotIx) (l : Lane) (d : BitVec 1024) (e : Bool) (st c : Nat) (s : State) (b : BedIx) :
    ((traceCommand p l d e st c s).bed b).ring = (s.bed b).ring := by
  rcases traceCommand_cases p l d e st c s with ⟨r, h⟩ | ⟨q, h⟩ <;> rw [h]
  · rw [State.onBed_bed_if]; split <;> simp_all
  · rfl

@[simp] theorem traceCommand_sems (p : PlotIx) (l : Lane) (d : BitVec 1024) (e : Bool) (st c : Nat) (s : State) (b : BedIx) :
    ((traceCommand p l d e st c s).bed b).sems = (s.bed b).sems := by
  rcases traceCommand_cases p l d e st c s with ⟨r, h⟩ | ⟨q, h⟩ <;> rw [h]
  · rw [State.onBed_bed_if]; split <;> simp_all
  · rfl

@[simp] theorem traceCommand_time (p : PlotIx) (l : Lane) (d : BitVec 1024) (e : Bool) (st c : Nat) (s : State) :
    (traceCommand p l d e st c s).time = s.time := by
  rcases traceCommand_cases p l d e st c s with ⟨r, h⟩ | ⟨q, h⟩ <;> rw [h] <;> rfl

theorem waited_plot (p : PlotIx) (l : Lane) (d : BitVec 1024) (s : State) :
    (waited p l d s).plot p = laneSet { s.plot p with mode := .run, clkGated := false } l
      { laneGet (s.plot p) l with queue := (laneGet (s.plot p) l).queue.tail, stage := .queued } := by
  simp [waited]

theorem layerStart_eq (d : BitVec 1024) (x : Plot) : layerStart d x = { x with watch := (layerStart d x).watch } := by
  unfold layerStart; split <;> rfl

/-- A run that begins after the waits. -/
theorem beginRun_begun (p : PlotIx) (l : Lane) (d : BitVec 1024) (total c : Nat) (s : State) :
    beginRun p l d total c (if l = .compute then (afterWaits p l d s).onPlot p (layerStart d) else afterWaits p l d s) =
      begun p l d total (plannedCycles s p c) s := by
  have h1 : ((afterWaits p l d s).plot p).reduced = (s.plot p).reduced := by
    cases l <;> simp [afterWaits, waited_plot, laneSet]
  have h2 : (afterWaits p l d s).dev = s.dev := by simp [afterWaits, waited]
  cases l
  · have h3 : (layerStart d ((afterWaits p .compute d s).plot p)).reduced = (s.plot p).reduced := by rw [layerStart_eq, ← h1]
    simp only [if_true, beginRun, begun, State.onPlot_onPlot]
    unfold State.onPlot
    simp only [freshRun, plannedCycles, h3, State.setPlot_dev, h2]
  · simp only [reduceCtorEq, if_false, beginRun, begun]
    unfold State.onPlot
    simp only [freshRun, plannedCycles, h1, h2]

end Sys2Proof.Machine
end

