-- ==== Sys2Proof/WellFormed.lean ====
section
/-! DEFINITION. Which commands are well formed: lengths and ranges that the type of a field does not say. A command
that breaks one stands for nothing that reaches the module. -/

namespace Sys2Proof

/-- A symbol index within a stored sector: 256 data and 16 check symbols (R249). -/
def SymFlip.wf (e : SymFlip) : Bool := e.sym < 272

/-- Flips name symbols that exist. -/
def flipsWf (fl : Flips) : Bool := fl.all fun l => l.all SymFlip.wf

/-- SECDED errors lie inside a scratchpad (R59). -/
def ReadErrs.wf (e : ReadErrs) : Bool :=
  e.ce.all (fun o => o.toNat < 0x01800000) && e.ue.all (fun o => o.toNat < 0x01800000)

/-- A frame's payload fits a BVL frame: at most one 4,096-byte chunk (R392, R393). -/
def Frame.wf (fr : Frame) : Bool := fr.payload.length ≤ 4096

/-- A register access is of 1, 2, 4 or 8 bytes, or of a size that R372 drops: at most 64 bytes. -/
def lenWf (n : Nat) : Bool := 0 < n && n ≤ 64

/-- A command of the table within the ranges its row admits. -/
def Instr.wf : Instr → Bool
  | .sfuLoad _ e => e.wf
  | .rot _ e => e.wf
  | .outputTileComplete _ _ e => e.wf
  | .stripeTileComplete _ _ e => e.wf
  | .keyTileComplete _ _ e => e.wf
  | .commandComplete _ _ e _ fl => e.wf && flipsWf fl
  | .unitComplete _ e _ => e.wf
  | .moveRowComplete _ e fl => e.wf && flipsWf fl
  | .pageFetchComplete _ fl => flipsWf fl
  | .carrierPageComplete _ _ _ fl => flipsWf fl
  | .lpddrRead _ _ cws fl => cws != 0 && flipsWf fl
  | .lpddrWrite _ _ cws data => cws != 0 && data.length == 64 * ((List.range 4).filter fun j => cws.getLsbD j).length
  | .scrubSector _ fl => flipsWf fl
  | .epochCheckedWrite _ _ _ _ data => 0 < data.length && data.length ≤ 4096
  | .registerWrite (.core _ _ len _) => lenWf len
  | .registerWrite (.bus w) => lenWf w.len
  | .lowHalfRead _ _ _ len => lenWf len
  | .writeFrame _ fr => fr.wf
  | .readReq _ fr => fr.wf
  | .readData _ fr => fr.wf
  | .ack _ fr => fr.wf
  | .nak _ fr => fr.wf
  | .lateErr _ fr => fr.wf
  | .settle _ fr => fr.wf
  | .settleDone _ fr => fr.wf
  | .timeFrame _ fr => fr.wf
  | .pageArrival _ _ _ _ data => 0 < data.length && data.length ≤ 65536
  | .creditWrite _ _ => true
  | _ => true

end Sys2Proof
end

