-- ==== Sys2Proof/Tests/Slice0.lean ====
section
/-! SUPPORT. The smoke test of `WellFormed`, tests of single steps whose results the manual gives, and witnesses: states and operands
that meet the hypotheses of the statements, clause by clause. -/

namespace Sys2Proof.Tests

open Sys2Proof Sys2Proof.Machine Host

set_option Elab.async false

/-! ### Well-formed commands -/

/-- A frame with a payload of so many bytes. -/
def longFrame (n : Nat) : Frame := { fcsOk := true, dstMac := 0, srcMac := 0, tag := none, etherType := 0, header := 0, payload := List.replicate n 0 }

theorem wf_flip_symbol : Instr.wf (.pageFetchComplete 0 [[{ sector := 0, sym := 271, val := 1 }]]) = true ∧
    Instr.wf (.pageFetchComplete 0 [[{ sector := 0, sym := 272, val := 1 }]]) = false := by decide

theorem wf_read_errors : Instr.wf (.rot 0 { ce := [], ue := some 0x017FFFFF }) = true ∧
    Instr.wf (.rot 0 { ce := [], ue := some 0x01800000 }) = false ∧ Instr.wf (.rot 0 { ce := [0x01800000], ue := none }) = false := by decide

theorem wf_codewords : Instr.wf (.lpddrRead 0 0 1 []) = true ∧ Instr.wf (.lpddrRead 0 0 0 []) = false := by decide

theorem wf_write_length : Instr.wf (.lpddrWrite 0 0 1 (List.replicate 64 0)) = true ∧
    Instr.wf (.lpddrWrite 0 0 3 (List.replicate 64 0)) = false := by decide

theorem wf_checked_write : Instr.wf (.epochCheckedWrite (.bed 0) 0 0 0 [0]) = true ∧ Instr.wf (.epochCheckedWrite (.bed 0) 0 0 0 []) = false := by decide

theorem wf_register_access : Instr.wf (.registerWrite (.core .fence 0 8 0)) = true ∧ Instr.wf (.registerWrite (.core .fence 0 0 0)) = false ∧
    Instr.wf (.registerWrite (.bus { fn := 0, bar := 0, offset := 0, len := 65, data := 0 })) = false ∧
    Instr.wf (.lowHalfRead .core .fence 0 0) = false := by decide

theorem wf_frame : Instr.wf (.writeFrame 0 (longFrame 4096)) = true ∧ Instr.wf (.writeFrame 0 (longFrame 4097)) = false := by decide +kernel

theorem wf_page : Instr.wf (.pageArrival 0 0 0 0 [0]) = true ∧ Instr.wf (.pageArrival 0 0 0 0 []) = false := by decide

/-! ### Decoding: the table gives its rows no bits -/

theorem test_no_word_is_a_command : decodeTableWord 0 0 = none ∧ decodeTableWord 32 0 = none := by decide

theorem test_withFetchWord_changes_nothing : State.reset.withFetchWord 0 0 = State.reset := rfl

/-! ### Helpers -/

/-- The next state satisfies a test. -/
def gives (o : Out) (f : State → Bool) : Bool :=
  match o with
  | .next t => f t
  | _ => false

/-- The next state is this one. -/
def same (o : Out) (t : State) : Bool := gives o fun u => decide (u = t)

/-- The answer is a fault of this name. -/
def stops (o : Out) (f : Fault) : Bool :=
  match o with
  | .fault g => decide (g = f)
  | _ => false

/-- Bit fields at their offsets: byte, low bit, value. -/
def bits {n : Nat} (l : List (Nat × Nat × Nat)) : BitVec n := BitVec.ofNat n ((l.map fun e => e.2.2 <<< (8 * e.1 + e.2.1)).sum)

/-- A module in operation: start-up is over, and the eight plots of bed 0 belong to partition 0, idle with their energy. -/
def up : State :=
  let s := { State.reset with image := { State.reset.image with boot := .done, stage := 7 } }
  let plots (s : State) : State := forAll (List.range 8) (fun s i => s.onPlot (Fin.ofNat 128 i) fun x =>
    { x with mode := .idle, reduced := false, unassigned := false, part := 0 }) s
  ((plots s).onBed 0 fun b => { b with energy := 1000000, cap := 2000000 }).onPart 0 fun x =>
    { x with defined := true, adm := 0, img := { x.img with beds := 1, t0Plots := 8, t3Gib := 1 } }

/-- The same with T2 ranges for partition 0. -/
def upT2 : State := forAll [0, 1] (fun s c => s.onCis c fun x => { x with parts := x.parts.set 0 { x.parts[0] with t2Size := 256, quota := 256 } }) up

/-- A command stands at the head of a lane of plot 0. -/
def queued (l : Lane) (d : BitVec 1024) (s : State) : State :=
  s.onPlot 0 fun x => laneSet x l { laneGet x l with queue := [d] }

/-- A command runs in a lane of plot 0. -/
def runs (l : Lane) (r : Run) (s : State) : State :=
  s.onPlot 0 fun x => laneSet { x with mode := .run } l { laneGet x l with run := some r }

/-- A module in HOLD. -/
def held (s : State) : State := { s with fence := { s.fence with mode := 2, supply := .warned } }

/-- A number of seconds and nanoseconds on. -/
def later (ns : Nat) (s : State) : State := { s with time := s.time + BitVec.ofNat 64 ns }

theorem up_is_safe : Safe up := show Memory.wf up.mem = true from by decide +kernel

/-! ### Plot commands (R68, R100 to R209) -/

/-- GEMM 16 x 16 x 32 of BF16 into FP32. -/
def gemmD : BitVec 1024 :=
  bits [(0, 0, 1), (0x24, 0, 0x1000), (0x28, 0, 0x2000), (0x30, 0, 16), (0x30, 16, 16), (0x34, 0, 32), (0x38, 0, 5), (0x38, 4, 5), (0x38, 8, 6),
    (0x3C, 0, 64), (0x40, 0, 64), (0x44, 0, 64)]
/-- CONV of COP 0, one 1 x 1 x 1 filter over a map of 1 x 1 x 16. -/
def convD : BitVec 1024 :=
  bits [(0, 0, 2), (0x24, 0, 0x1000), (0x28, 0, 0x2000), (0x34, 4, 2), (0x34, 6, 5), (0x34, 10, 5), (0x34, 14, 5), (0x38, 0, 1), (0x38, 16, 1), (0x3C, 0, 1), (0x3C, 16, 1),
    (0x3C, 24, 1), (0x40, 27, 1), (0x44, 0, 1), (0x44, 16, 1), (0x48, 0, 1), (0x48, 16, 1), (0x4C, 0, 1), (0x4C, 16, 1), (0x58, 0, 1), (0x58, 16, 1),
    (0x5C, 0, 64), (0x60, 0, 64), (0x64, 0, 64), (0x68, 0, 64), (0x6C, 0, 64), (0x70, 0, 64)]
/-- VEC: copy of 64 FP32 elements. -/
def vecD : BitVec 1024 := bits [(0, 0, 3), (0x2C, 0, 0x1000), (0x30, 0, 64), (0x34, 8, 6), (0x34, 20, 6)]
/-- STAT over 16 rows of 64 FP32 elements. -/
def statD : BitVec 1024 := bits [(0, 0, 4), (0x24, 0, 0x8000), (0x30, 0, 16), (0x30, 20, 6), (0x30, 24, 6), (0x34, 0, 64), (0x38, 0, 256)]
/-- EVAL of 64 BF16 elements through slot 0. -/
def evalD : BitVec 1024 := bits [(0, 0, 5), (0x24, 0, 0x1000), (0x28, 0, 64), (0x2C, 2, 2), (0x2C, 7, 5), (0x2C, 11, 5), (0x30, 0, 7)]
/-- LOAD of a table of 64 bytes. -/
def loadD : BitVec 1024 := bits [(0, 0, 5), (0x28, 0, 64), (0x2C, 0, 1), (0x30, 0, 7)]
/-- ROT of one row of 64 elements. -/
def rotD : BitVec 1024 :=
  bits [(0, 0, 6), (0x24, 0, 0x1000), (0x28, 0, 1), (0x28, 16, 6), (0x28, 23, 5), (0x28, 27, 5), (0x2C, 0, 64), (0x30, 0, 128), (0x34, 0, 128)]
/-- RAND: 64 uniform elements. -/
def randD : BitVec 1024 := bits [(0, 0, 7), (0x2C, 0, 64), (0x30, 0, 1), (0x30, 6, 5)]
/-- ZERO of 64 bytes at 0x40 with a pattern. -/
def zeroD : BitVec 1024 := bits [(0, 0, 10), (0x20, 0, 0x40), (0x24, 0, 64), (0x28, 0, 0x04030201)]
/-- SYNC that posts semaphore 5 and leaves a record. -/
def syncD : BitVec 1024 := bits [(0, 0, 11), (0, 8, 1), (0, 16, 0x77), (0x1C, 22, 5), (0x1C, 29, 1)]
/-- TEST pattern 1. -/
def testD : BitVec 1024 := bits [(0, 0, 12), (0x20, 0, 1)]
/-- MOVE of one row of 64 bytes within a scratchpad. -/
def moveD : BitVec 1024 := bits [(0, 0, 9), (0x28, 0, 0x1000), (0x30, 0, 64), (0x34, 0, 1)]
/-- MOVE from T2. -/
def moveT2D : BitVec 1024 := bits [(0, 0, 9), (0x20, 0, 0x200000000), (0x28, 0, 0x1000), (0x30, 0, 64), (0x34, 0, 1)]
/-- ATTN of one query block over a walked pattern of one brick. -/
def attnD : BitVec 1024 :=
  bits [(0, 0, 8), (0x24, 0, 0x10000), (0x28, 0, 0x20000), (0x2C, 0, 0x100000), (0x30, 0, 0x400000), (0x34, 0, 2), (0x34, 8, 1), (0x34, 12, 3), (0x34, 16, 3), (0x34, 20, 3),
    (0x38, 0, 0x3F800000), (0x3C, 0, 0x3F800000), (0x40, 0, 0x3F800000), (0x44, 0, 0x40000), (0x50, 0, 0x10000000000)]
/-- A pattern of one brick with one global page. -/
def patternRec : List Byte :=
  bytesOf 64 (0xA7C0 + 0x10001 <<< 32 + 0x100010 <<< 64 + 0x100010 <<< 96 + (1 + 1 <<< 16) <<< 192)
/-- The pattern stands in the scratchpad of plot 0. -/
def attnUp : State := ramWrite 0x40000 patternRec up


/-- A plot whose slot 0 holds a valid table of function 7 and kind 2. -/
def evalUp : State := up.onPlot 0 fun x => { x with sfu := x.sfu.set 0 { x.sfu[0] with valid := true, kind := 2, func := 7 } }

/-! ### Witnesses: the queue of commands and the lanes of a plot -/

/-- The conditions of `LeavesWaits`, evaluated. -/
def leavesB (s : State) (p : PlotIx) (l : Lane) (d : BitVec 1024) : Bool :=
  decide ((laneGet (s.plot p) l).queue.head? = some d) && decide ((laneGet (s.plot p) l).stage = .queued) &&
    decide ((laneGet (s.plot p) l).run = none) && decide ((s.plot p).mode = .idle ∨ (s.plot p).mode = .run) &&
    !holdActive s && gateOpen s p && !(s.plot p).flushing && decide (l = .move ∨ (s.plot p).capture = none) &&
    (!hWaitAll d || laneEmpty (laneGet (s.plot p) (laneOther l))) && (!hSemWait d || decide ((s.bed (bedOf p)).sems[hWaitSem d] ≠ 0)) &&
    decide ((energyNeed s (bedOf p) (hEnergy d) : Int) ≤ (s.bed (bedOf p)).energy)

theorem leaves_of {s : State} {p : PlotIx} {l : Lane} {d : BitVec 1024} (h : leavesB s p l d = true) : LeavesWaits s p l d := by
  simp only [leavesB, Bool.and_eq_true, decide_eq_true_eq, Bool.not_eq_true', Bool.or_eq_true] at h
  obtain ⟨⟨⟨⟨⟨⟨⟨⟨⟨⟨h1, h2⟩, h3⟩, h4⟩, h5⟩, h6⟩, h7⟩, h8⟩, h9⟩, h10⟩, h11⟩ := h
  exact ⟨h1, h2, h3, h4, h5, h6, h7, h8, fun e => by simpa [e] using h9, fun e => by simpa [e] using h10, h11⟩

/-- The conditions of `Issues`, evaluated. -/
def issuesB (s : State) (p : PlotIx) (l : Lane) (d : BitVec 1024) : Bool :=
  leavesB s p l d && decide (hEra d = (s.plot p).era.toNat) && !headerReserved d

theorem issues_of {s : State} {p : PlotIx} {l : Lane} {d : BitVec 1024} (h : issuesB s p l d = true) : Issues s p l d := by
  simp only [issuesB, Bool.and_eq_true, decide_eq_true_eq, Bool.not_eq_true'] at h
  exact { leaves_of h.1.1 with era := h.1.2, header := h.2 }

theorem wit_step : { up with pending := [.monitorHelp] }.pending = [Instr.monitorHelp] ∧ up.pending = [] ∧ up.bvl.slew = 0 ∧
    gives (step up) (fun t => decide (t.time = up.time + 1)) = true ∧ gives (step { up with pending := [.monitorHelp] }) (fun t => t.pending.isEmpty) = true := by
  decide +kernel

theorem wit_absent_sector : 256 * 15728640 ≤ 4026531840 ∧ stops (exec (.lpddrRead 4026531840 0 1 []) up) .absentSector = true ∧
    gives (exec (.lpddrRead 4026531839 0 1 []) up) (fun _ => true) = true := by decide +kernel

theorem wit_submission : (laneGet (up.plot 0) .compute).queue.length < 32 ∧ (laneGet (up.plot 0) .compute).held = [] ∧
    gives (exec (.plotCommandSubmit 0 gemmD) up) (fun t => decide ((t.plot 0).compute.queue = [gemmD])) = true := by decide +kernel

/-- A lane that is full, with one submission held outside. -/
def full (n : Nat) : State := up.onPlot 0 fun x => { x with compute := { x.compute with queue := List.replicate n vecD, held := [gemmD] } }

theorem wit_backpressure : 32 ≤ (laneGet ((full 32).plot 0) .compute).queue.length ∧ (laneGet ((full 31).plot 0) .compute).held = [gemmD] ∧
    (laneGet ((full 31).plot 0) .compute).queue.length < 32 ∧
    gives (exec (.backpressureEntry 0 .compute) (full 31)) (fun t => decide ((t.plot 0).compute.queue.length = 32)) = true ∧
    same (exec (.backpressureEntry 0 .compute) (full 32)) (full 32) = true := by decide +kernel

/-- A command whose waits are over: the conditions of its begin, and its begin as the statement has it. -/
def begins (check : PlotIx → BitVec 1024 → State → Option (Nat × Nat)) (op total cycles : Nat) (c : Instr) (d : BitVec 1024) (s : State) : Bool :=
  issuesB s 0 .compute d && decide (hOp d = op) && decide (check 0 d (afterWaits 0 .compute d s) = none) &&
    same (exec c s) (begun 0 .compute d total (plannedCycles s 0 cycles) s)

theorem wit_begins_issues {check : PlotIx → BitVec 1024 → State → Option (Nat × Nat)} {op total cycles : Nat} {c : Instr} {d : BitVec 1024} {s : State}
    (h : begins check op total cycles c d s = true) : Issues s 0 .compute d ∧ hOp d = op ∧ passes check 0 .compute d s := by
  simp only [begins, Bool.and_eq_true, decide_eq_true_eq] at h
  exact ⟨issues_of h.1.1.1, h.1.1.2, h.1.2⟩

theorem wit_gemm_begins : begins checkGemm 0x01 1 (gemmCycles gemmD) (.gemm 0) gemmD (queued .compute gemmD up) = true := by decide +kernel
theorem wit_vec_begins : begins checkVec 0x03 64 (vecCycles vecD) (.vec 0) vecD (queued .compute vecD up) = true := by decide +kernel
theorem wit_stat_begins : begins checkStat 0x04 16 (statCycles statD) (.stat 0) statD (queued .compute statD up) = true := by decide +kernel
theorem wit_rand_begins : begins checkRand 0x07 64 (randCycles randD) (.rand 0) randD (queued .compute randD up) = true := by decide +kernel
theorem wit_zero_begins : begins checkZero 0x0A 64 9 (.zero 0) zeroD (queued .compute zeroD up) = true := by decide +kernel
/-- A plot in reduced mode, in which TEST runs (R85). -/
def reducedUp : State := up.onPlot 0 fun x => { x with reduced := true }
theorem wit_test_begins : Issues (queued .compute testD reducedUp) 0 .compute testD ∧ hOp testD = 0x0C ∧
    passes checkTest 0 .compute testD (queued .compute testD reducedUp) ∧
    same (exec (.test 0 none) (queued .compute testD reducedUp)) (begun 0 .compute testD 0 (testCycles 1) (queued .compute testD reducedUp)) = true :=
  ⟨issues_of (by decide +kernel), by decide +kernel, show checkTest 0 testD _ = none from by decide +kernel, by decide +kernel⟩
theorem wit_sync_begins : Issues (queued .compute syncD up) 0 .compute syncD ∧ hOp syncD = 0x0B ∧ bytesSet syncD 0x20 0x80 = false ∧
    same (exec (.sync 0) (queued .compute syncD up)) (begun 0 .compute syncD 0 4 (queued .compute syncD up)) = true :=
  ⟨issues_of (by decide +kernel), by decide +kernel, by decide +kernel, by decide +kernel⟩
theorem wit_eval_begins : reloadDefaults 0 (queued .compute evalD evalUp) = queued .compute evalD evalUp ∧
    begins checkEval 0x05 64 (evalCycles (evalUp.plot 0) evalD) (.sfuEval 0) evalD (queued .compute evalD evalUp) = true := by
  constructor <;> decide +kernel

/-! ### Witnesses: tables, rotations, moves, tiles, units and the end of commands -/

/-- The smallest segment table: function 7, one segment from 1 to 2. -/
def segTable : List Byte :=
  let body := bytesOf 32 (0x3F800000 + 0x3F800000 <<< 64)
  bytesOf 16 (0x5E1F + 2 <<< 16 + 7 <<< 32 + 32 <<< 64 + crc32c body <<< 96) ++ bytesOf 48 (1 + 0x40000000 <<< 32) ++ body

/-- LOAD of so many bytes of the scratchpad as function 7 into slot 2. -/
def loadOf (n : Nat) : BitVec 1024 := bits [(0, 0, 5), (0x28, 0, n), (0x2C, 0, 1), (0x2C, 4, 2), (0x30, 0, 7)]
def loadUp (n : Nat) : State := queued .compute (loadOf n) (ramWrite 0 segTable up)

/-- The conditions of a LOAD, with the verdict on its table, and its outcome. -/
def loads (n : Nat) (ok : Bool) : Bool :=
  let s := loadUp n
  let d := loadOf n
  issuesB s 0 .compute d && decide (hOp d = 0x05) && decide (uOp d = 1) && decide (reloadDefaults 0 s = s) &&
    decide (checkLoad 0 d (afterWaits 0 .compute d s) = none) && decide (tableOk (uSlot d).val (w32 d 0x30) (t0Read s 0 (w32 d 0x20) (uCount d)) = ok) &&
    gives (exec (.sfuLoad 0 cleanReads) s) fun t =>
      decide ((t.plot 0).sfu[uSlot d] = (if ok then slotOf segTable else SfuSlot.reset)) && (t.plot 0).compute.run.isSome == ok &&
        (ok || decide ((t.plot 0).lastStatus = 2))

theorem wit_load : uSlot (loadOf 96) = 2 ∧ loads 96 true = true ∧ loads 64 false = true := by decide +kernel

theorem wit_rot : Issues (queued .compute rotD up) 0 .compute rotD ∧ hOp rotD = 0x06 ∧ passes checkRot 0 .compute rotD (queued .compute rotD up) ∧
    gives (exec (.rot 0 cleanReads) (queued .compute rotD up)) (fun t => t.plots[0].compute.run.isSome) = true :=
  ⟨issues_of (by decide +kernel), by decide +kernel, show checkRot 0 rotD _ = none from by decide +kernel, by decide +kernel⟩

theorem wit_move : Issues (queued .move moveD up) 0 .move moveD ∧ hOp moveD = 0x09 ∧ passes checkMove 0 .move moveD (queued .move moveD up) ∧
    (ownT0 (queued .move moveD up) 0 (mvSrc moveD) && ownT0 (queued .move moveD up) 0 (mvDst moveD)) = true ∧
    same (exec (.move 0) (queued .move moveD up)) (begun 0 .move moveD 1 (plannedCycles up 0 41) (queued .move moveD up)) = true :=
  ⟨issues_of (by decide +kernel), by decide +kernel, show checkMove 0 moveD _ = none from by decide +kernel, by decide +kernel, by decide +kernel⟩

theorem wit_move_far : Issues (queued .move moveT2D upT2) 0 .move moveT2D ∧ hOp moveT2D = 0x09 ∧
    passes checkMove 0 .move moveT2D (queued .move moveT2D upT2) ∧
    (ownT0 (queued .move moveT2D upT2) 0 (mvSrc moveT2D) && ownT0 (queued .move moveT2D upT2) 0 (mvDst moveT2D)) = false :=
  ⟨issues_of (by decide +kernel), by decide +kernel, show checkMove 0 moveT2D _ = none from by decide +kernel, by decide +kernel⟩

theorem wit_attn : Issues (queued .compute attnD attnUp) 0 .compute attnD ∧ hOp attnD = 0x08 ∧
    passes checkAttn 0 .compute attnD (queued .compute attnD attnUp) ∧
    gives (exec (.attn 0) (queued .compute attnD attnUp)) (fun t => decide ((t.plot 0).compute.run.map (·.total) = some 2)) = true :=
  ⟨issues_of (by decide +kernel), by decide +kernel, show checkAttn 0 attnD _ = none from by decide +kernel, by decide +kernel⟩

theorem wit_conv : Issues (queued .compute convD up) 0 .compute convD ∧ hOp convD = 0x02 ∧ cHalo convD = false ∧
    passes checkConv 0 .compute convD (queued .compute convD up) ∧ same (exec (.conv 0) (queued .compute convD up))
      (begun 0 .compute convD (convTiles convD - startTile convD) (plannedCycles up 0 (convCycles convD)) (queued .compute convD up)) = true :=
  ⟨issues_of (by decide +kernel), by decide +kernel, by decide +kernel, show checkConv 0 convD _ = none from by decide +kernel, by decide +kernel⟩

/-- A CONV whose halo descriptor stands at 0x80000 and names tag 5, at a value of 3. -/
def haloD : BitVec 1024 := convD ||| bits [(0x74, 0, 0x80000), (0x77, 0, 1)]
def haloUp (tag : Nat) : State :=
  (ramWrite 0x80000 (bytesOf 64 (0x14A10 + 1 <<< 32 + (5 + 3 <<< 16) <<< 288)) (queued .compute haloD upT2)).onCis 0 fun c =>
    { c with halo := { c.halo with tags := tabSet 0 c.halo.tags 5 (BitVec.ofNat 16 tag) } }
/-- Its wait began at 0, and stands at so many nanoseconds. -/
def haloWaits (tag ns : Nat) : State :=
  later ns ((haloUp tag).onPlot 0 fun x => { x with compute := { x.compute with stage := .halo 0 } })

theorem wit_halo_wait : plotPart ((haloUp 2).plot 0) = some 0 ∧ LeavesWaits (haloUp 2) 0 .compute haloD ∧ hOp haloD = 0x02 ∧ cHalo haloD = true ∧
    (haloDesc (haloUp 2) 0 haloD).ok = true ∧ hSemWait haloD = false ∧ haloShort (haloUp 2) 0 (haloDesc (haloUp 2) 0 haloD) = some (5, 3) ∧
    gives (exec (.conv 0) (haloUp 2)) (fun t => decide ((t.plot 0).compute.stage = .halo 0 ∧ (t.cistern 0).halo.stall[0] = 1)) = true :=
  ⟨by decide +kernel, leaves_of (by decide +kernel), by decide +kernel, by decide +kernel, by decide +kernel, by decide +kernel, by decide +kernel, by decide +kernel⟩

theorem wit_halo_long : let s := haloWaits 2 (1000 * up.dev.haloLimit.toNat + 1)
    convHead s 0 = some haloD ∧ haloShort s 0 (haloDesc s 0 haloD) = some (5, 3) ∧ 1000 * s.dev.haloLimit.toNat < (s.time - 0).toNat ∧
    gives (exec (.haloLongWait 0) s) (fun t => decide ((t.cistern 0).halo.longCurrent = 2 ∧ (t.cistern 0).halo.longValid = true)) = true := by
  decide +kernel

theorem wit_halo_release : let s := haloWaits 3 5000
    convHead s 0 = some haloD ∧ (s.plot 0).compute.stage = .halo 0 ∧ plotPart (s.plot 0) = some 0 ∧ haloShort s 0 (haloDesc s 0 haloD) = none ∧
    gives (exec (.haloWaitRelease 0) s) (fun t => decide ((t.cistern 0).halo.time[0] = 5)) = true := by
  decide +kernel

/-- A tile of a GEMM at its first run. -/
theorem wit_gemm_tile : let r := freshRun gemmD 1 100
    let s := runs .compute r up
    let j := gemmJob 0 r s
    r.done < r.total ∧ startRung (s.plot 0) r.desc j = j.rung ∧ extsFault (s.plot 0) (j.exts j.rung) = none ∧ hWatch r.desc = false := by
  decide +kernel

theorem wit_conv_tile : let r := freshRun convD (convTiles convD) 100
    let s := runs .compute r up
    let j := convJob 0 r s
    let u := j.run j.rung (s.plot 0).rng
    let w := convPut 0 0 r.desc (convFresh r (tileCounted 0 u s)) u.writes
    r.done < r.total ∧ plotPart (s.plot 0) = some 0 ∧ convReady s 0 r.desc (startTile r.desc + r.done) = true ∧
      startRung (s.plot 0) r.desc j = j.rung ∧ extsFault (s.plot 0) (j.exts j.rung) = none ∧ hWatch r.desc = false ∧ w.2 = none ∧
      (w.1.plot 0).flushing = false := by
  decide +kernel

/-- A key tile whose two pages are fetched. -/
theorem wit_key_tile : let r := freshRun attnD 2 100
    let s := (runs .compute r attnUp).onPlot 0 fun x => { x with walk := { pos := 2, wait := .none, queue := [0, 0], fetched := 2 } }
    r.done < r.total ∧ aStatic r.desc = false ∧ tileReady (s.plot 0) r.desc = true ∧ extsFault (s.plot 0) (attnRegions r.desc) = none ∧
      (match tileStats 0 r.desc (attnPattern s 0 r.desc) ((s.plot 0).walk.queue.take (aSlices r.desc)) s with
        | (_, .ok _) => true
        | _ => false) = true := by
  decide +kernel

/-- A ZERO of one whole unit, and of less. -/
def zeroUnits : BitVec 1024 := bits [(0, 0, 10), (0x20, 0, 0x40), (0x24, 0, 65536), (0x28, 0, 0x04030201)]
theorem wit_unit : let r := freshRun zeroUnits 65536 9
    let s := runs .compute r up
    holdActive s = false ∧ (s.plot 0).flushing = false ∧ unitSize r.desc = some 65536 ∧ r.done + 65536 ≤ r.total ∧
      extsFault (s.plot 0) (unitExts r.desc r.done 65536) = none := by decide +kernel

theorem test_zero_writes_its_pattern :
    gives (exec (.commandComplete 0 .compute cleanReads cleanTable []) (runs .compute (freshRun zeroD 64 9) up))
      (fun t => decide (ramByte t 0x3F = 0 ∧ ramByte t 0x40 = 1 ∧ ramByte t 0x43 = 4 ∧ ramByte t 0x7F = 4 ∧ ramByte t 0x80 = 0)) = true := by
  decide +kernel

theorem wit_row : let r := freshRun moveD 1 41
    let s := ramWrite 0 [7, 8] (runs .move r up)
    hOp r.desc = 0x09 ∧ r.done < r.total ∧ plotPart (s.plot 0) = some 0 ∧ tierOf s (mvSrc moveD) = .t0 ∧ tierOf s (mvDst moveD) = .t0 ∧
      mvDst moveD % bedStride + mvBytes moveD ≤ t0Size ∧ mvBale moveD = 0 ∧ rowRetired s (mvSrc moveD) 64 = none ∧ rowRetired s (mvDst moveD) 64 = none ∧
      gives (exec (.moveRowComplete 0 cleanReads []) s) (fun t => decide (ramByte t 0x1001 = 8 ∧ (t.plot 0).move.run = some { r with done := 1 })) = true := by
  decide +kernel

/-- A SYNC that runs, with its post semaphore at a value. -/
def syncRuns (sem : BitVec 16) : State := (runs .compute (freshRun syncD 0 4) up).onBed 0 fun b => { b with sems := b.sems.set 5 sem }

theorem wit_command_completes : let s := syncRuns 0xFFFE
    holdActive s = false ∧ (s.plot 0).flushing = false ∧ s.dev.cuttingEn = false ∧ residueBelow s 0 ∧ hOp syncD = 0x0B ∧ hSemPost syncD = true ∧
      hPostSem syncD = 5 ∧ gives (exec (.commandComplete 0 .compute cleanReads cleanTable []) s)
        (fun t => decide ((t.bed 0).sems[5] = 0xFFFF ∧ (t.bed 0).ring.length = 1 ∧ (t.plot 0).lastStatus = 0)) = true :=
  ⟨by decide +kernel, by decide +kernel, by decide +kernel, by unfold residueBelow; decide +kernel, by decide +kernel, by decide +kernel, by decide +kernel, by decide +kernel⟩

theorem wit_semaphore_overflows : gives (exec (.commandComplete 0 .compute cleanReads cleanTable []) (syncRuns 0xFFFF))
    (fun t => decide ((t.bed 0).sems[5] = 0xFFFF ∧ (t.bed 0).ring.length = 2 ∧ (t.plot 0).mode = .halted ∧ (t.plot 0).haltCause = 0x0B)) = true := by
  decide +kernel

theorem wit_command_completes_move : let r := { freshRun moveD 1 41 with done := 1 }
    let s := runs .move r up
    hOp r.desc = 0x09 ∧ r.done = r.total ∧ hSemPost moveD = false ∧
    gives (exec (.commandComplete 0 .move cleanReads cleanTable []) s) (fun t => decide ((t.plot 0).move.run = none)) = true := by decide +kernel

/-! ### Witnesses: generators, resets, power, and plots -/

theorem test_first_draw : (rngStep Rng.reset).1 = 0x809 ∧ (rngStep { Rng.reset with s0 := 0, s3 := 0x80000 }).1 = 0x80001 := by decide

/-- An idle plot with four staged words. -/
def stagedUp (w0 w3 : Word) : State :=
  up.onPlot 0 fun x => { x with rng := { x.rng with staged0 := some w0, staged1 := some 0, staged2 := some 0, load := some w3 } }
theorem wit_rng_apply : idlePoint ((stagedUp 0 0).plot 0) = true ∧
    gives (exec (.rngStateApply 0) (stagedUp 0 0)) (fun t => decide ((t.plot 0).rng.s0 = 1 ∧ (t.plot 0).rng.s3 = 0)) = true ∧
    gives (exec (.rngStateApply 0) (stagedUp 0 9)) (fun t => decide ((t.plot 0).rng.s0 = 0 ∧ (t.plot 0).rng.s3 = 9)) = true := by
  decide +kernel

theorem wit_flush : let s := queued .move moveD (queued .compute gemmD up)
    (s.plot 0).mode = .idle ∧ (s.plot 0).compute.run = none ∧ (s.plot 0).move.run = none ∧ (s.plot 0).compute.stage = .queued ∧
      (s.plot 0).move.stage = .queued ∧ (s.plot 0).flushing = false ∧ (s.plot 0).flushRec = false ∧ (s.plot 0).resumeAfter = false ∧
      gives (exec (.plotFlush 0 false 0) s) (fun t => decide ((t.bed 0).ring.length = 2 ∧ (t.plot 0).mode = .halted ∧ (t.plot 0).haltCause = 0x0D)) = true ∧
      gives (exec (.plotFlush 0 true 0) s) (fun t => decide ((t.bed 0).ring.length = 2 ∧ (t.plot 0).mode = .idle)) = true ∧
      gives (exec (.plotFlush 0 false 0) up) (fun t => decide ((t.bed 0).ring = [] ∧ (t.plot 0).mode = .idle)) = true := by decide +kernel

/-- A halted plot. -/
def haltedUp : State := up.onPlot 0 fun x => { x with mode := .halted, haltCause := 5 }
theorem wit_resume : (haltedUp.plot 0).mode = .halted ∧ (up.plot 0).mode ≠ .halted ∧
    gives (exec (.plotResume 0 0) haltedUp) (fun t => decide ((t.plot 0).mode = .idle ∧ (t.plot 0).haltCause = 0)) = true := by decide +kernel

theorem wit_plot_reset : let s := queued .compute gemmD up
    (s.plot 0).mode = .idle ∧ resetUnderWay s 0 = false ∧ (s.plot 0).compute.run = none ∧ (s.plot 0).move.run = none ∧
      (s.plot 0).compute.stage = .queued ∧ (s.plot 0).move.stage = .queued ∧
      gives (exec (.plotReset 0 0) s) (fun t => decide ((t.plot 0).era = 1 ∧ (t.bed 0).ring.length = 1 ∧ (t.plot 0).mode = .reset)) = true := by
  decide +kernel

/-- A plot in a mode, with a byte of its scratchpad set. -/
def inMode (m : PlotMode) : State := (ramWrite 64 [3] up).onPlot 0 fun x => { x with mode := m }
theorem wit_reset_absorbed : ((inMode .reset).plot 0).mode = .reset ∧ plotPart ((inMode .reset).plot 0) = some 0 ∧ Safe (inMode .reset) ∧
    (inMode .reset).image.boot = .done ∧ gives (exec (.plotReset 0 0) (inMode .reset)) (fun t => decide ((t.part 0).absorbed = 1)) = true ∧
    gives (exec (.plotResetDone 0) (inMode .reset)) (fun t => decide (ramByte t 64 = 0 ∧ (t.plot 0).mode = .idle)) = true :=
  ⟨by decide +kernel, by decide +kernel, show Memory.wf _ = true from by decide +kernel, by decide +kernel, by decide +kernel, by decide +kernel⟩

theorem wit_power_gating : plotJob up 0 = none ∧ plotEmpty (up.plot 0) = true ∧ lastPowered up 0 = false ∧
    (let s := up.onPlot 0 fun x => { x with pgReq := true }
     gives (exec (.powerGateEntry 0) s) (fun t => decide ((t.plot 0).mode = .gating ∧ (t.plot 0).era = 1)) = true) ∧
    gives (exec (.powerGateComplete 0) (inMode .gating)) (fun t => decide ((t.plot 0).mode = .off)) = true ∧
    gives (exec (.powerGateWake 0) (queued .compute gemmD (inMode .off))) (fun t => decide ((t.plot 0).mode = .waking)) = true ∧
    gives (exec (.wakeComplete 0) (inMode .waking)) (fun t => decide ((t.plot 0).mode = .idle ∧ ramByte t 64 = 0)) = true := by decide +kernel

theorem wit_idle_point : idlePoint (up.plot 0) = true ∧ (up.plot 0).cgDis = false ∧
    (let s := up.onPlot 0 fun x => { x with reducedReq := some false, reduced := true, banks := 1 }
     gives (exec (.reducedApply 0) s) (fun t => (t.plot 0).reduced) = true) ∧
    (let s := up.onPlot 0 fun x => { x with layerLoad := some 0x0D030007 }
     gives (exec (.layerStateInstall 0) s) (fun t => decide ((t.plot 0).watch.layer.id = 7 ∧ (t.plot 0).watch.layer.count = 3 ∧
       (t.plot 0).watch.layer.rung = 1 ∧ (t.plot 0).watch.layer.wide = true)) = true) ∧
    gives (exec (.layerStateLoad 0 0x08000001) up) (fun t => decide ((t.plot 0).layerLoad = some 0x08000001)) = true := by decide +kernel

/-- A plot on which bank 63 met an uncorrectable error, with its rate threshold for corrected ones not met. -/
def badBank : State :=
  { up with dev := { up.dev with fault := { up.dev.fault with bankMax := 8 } } }.onPlot 0 fun x => { x with win := { x.win with ueBanks := 0x8000000000000000 } }
theorem wit_bank_retires : holdActive badBank = false ∧ powered (badBank.plot 0) = true ∧ (badBank.plot 0).banks.getLsbD 63 = false ∧
    (bankCalls badBank 0 63 .uncorr).isSome = true ∧ ((List.range 64).filter fun i => (badBank.plot 0).banks.getLsbD i).length + 1 < badBank.dev.fault.bankMax ∧
    plotJob badBank 0 = none ∧ gives (exec (.bankRetire 0 63 .uncorr) badBank) (fun t => decide ((t.plot 0).banks = 0x8000000000000000)) = true := by
  decide +kernel

/-- A command of another era, and one of an unknown opcode, on plots below their thresholds. -/
def calm : State := { up with dev := { up.dev with fault := { up.dev.fault with resFaultDay := 3, resMisHr := 3 } } }
def staleD : BitVec 1024 := gemmD ||| bits [(0x08, 0, 1)]
def unknownD : BitVec 1024 := bits [(0, 0, 0x0D)]
theorem wit_stale : residueBelow (queued .compute staleD calm) 0 ∧ LeavesWaits (queued .compute staleD calm) 0 .compute staleD ∧ hOp staleD = 0x01 ∧
    hEra staleD ≠ ((queued .compute staleD calm).plot 0).era.toNat ∧
    gives (exec (.gemm 0) (queued .compute staleD calm)) (fun t => decide ((t.plot 0).mode = .halted ∧ (t.plot 0).haltCause = 0x06)) = true :=
  ⟨by unfold residueBelow; decide +kernel, leaves_of (by decide +kernel), by decide +kernel, by decide +kernel, by decide +kernel⟩
theorem wit_unknown : Issues (queued .compute unknownD calm) 0 .compute unknownD ∧ 0x0C < hOp unknownD ∧
    gives (exec (.unknownOpcode 0) (queued .compute unknownD calm)) (fun t => decide ((t.plot 0).haltCause = 0x01 ∧ (t.bed 0).ring.length = 1)) = true :=
  ⟨issues_of (by decide +kernel), by decide +kernel, by decide +kernel⟩

/-! ### Witnesses: page tables, carriers, directories, epochs and LPDDR -/

/-- A walked ATTN whose table stands at 0x200000000, with MISS = HOLE or FAULT, and MISS_WAIT of 5 microseconds. -/
def walkD (hole : Bool) : BitVec 1024 :=
  (attnD &&& ~~~(bits [(0x54, 0, 0xFFFFFFFF)])) ||| bits [(0x54, 0, 2), (0x37, 2, hole.toNat), (0x5C, 0, 5)]
/-- Its pattern is set, and its root entry is this word. -/
def walkUp (hole : Bool) (root entry : Nat) : State :=
  runs .compute (freshRun (walkD hole) 2 100) (ramWrite 0x40000 patternRec (ramWrite 0x200002000 (bytesOf 8 entry ++ bytesOf 8 entry) (ramWrite 0x200000000 (bytesOf 8 root) upT2)))
/-- A leaf at 0x200002000 is valid. -/
def leafRoot : Nat := 0x200002001
/-- Core 3 holds the leaf. -/
def cached (s : State) : State := { s with alm := { s.alm with leaves := s.alm.leaves.set 3 [leafKey 0 0x200002000] } }

/-- What the statement asks of a walk. -/
def walks (s : State) (c : CoreIx) (valid : Bool) : Bool :=
  match walkedRun s 0 with
  | some (q, r) =>
    (match walkPage s 0 r with
      | some (_, _, e) => let a := entryAt s q (aTable r.desc) e
        tableOkAt s q a.root 8 && decide (a.valid = valid) && (!valid || tableOkAt s q a.leaf 4096) && coreServes s c
      | none => false) && decide ((s.plot 0).walk.wait = .none)
  | none => false
/-- A core that serves. -/
def cores (s : State) : State := { s with cores := Vector.replicate _ { (s.core 3) with restarting := false, held := false } }

theorem wit_walk : walks (cores (walkUp true leafRoot 1)) 3 true = true ∧ walks (cores (walkUp true 0 0)) 3 false = true ∧ walks (cores (walkUp false 0 0)) 3 false = true ∧
    gives (exec (.pageWalk 0 3) (cores (walkUp true leafRoot 1))) (fun t => decide ((t.plot 0).walk.wait = .leaf 0x200002000)) = true ∧
    gives (exec (.pageWalk 0 3) (cached (cores (walkUp true leafRoot (1 + 0x20003 <<< 16 + 7 <<< 48)))))
      (fun t => match (t.plot 0).walk.wait with
        | .room d => decide (pdFrame d = 0x200030000 ∧ pdGen d = 7 ∧ pdHole d = false)
        | _ => false) = true ∧
    gives (exec (.pageWalk 0 3) (cores (walkUp true 0 0))) (fun t => decide (t.alm.walkHole = 1)) = true ∧
    gives (exec (.pageWalk 0 3) (cores (walkUp false 0 0))) (fun t => decide ((t.plot 0).lastStatus = 5)) = true := by decide +kernel

/-- A walk that waits on a WRITING entry since 0. -/
def writingUp (entry ns : Nat) : State :=
  later ns ((walkUp true leafRoot entry).onPlot 0 fun x => { x with walk := { x.walk with wait := .writing 0 } })
theorem wit_writing : gives (exec (.writingEntryReread 0) (writingUp 1 1000)) (fun t => match (t.plot 0).walk.wait with
        | .room d => !pdHole d
        | _ => false) = true ∧
    same (exec (.writingEntryReread 0) (writingUp 1 999)) (writingUp 1 999) = true ∧ same (exec (.writingEntryReread 0) (writingUp 2 1000)) (writingUp 2 1000) = true ∧
    gives (exec (.missWaitExpire 0) (writingUp 2 5000)) (fun t => match (t.plot 0).walk.wait with
        | .room d => pdHole d
        | _ => false) = true := by decide +kernel

/-- The leaf at 0x200002000 is being fetched. -/
def leafUp : State := cores ((walkUp true leafRoot 1).onPlot 0 fun x => { x with walk := { x.walk with wait := .leaf 0x200002000 } })
theorem wit_leaf : coreServes leafUp 3 = true ∧ accessReady leafUp 0 none 0x200002000 4096 false = true ∧
    (match routedRead 0 none 0x200002000 4096 0 [] leafUp with
      | (_, .ok _) => true
      | _ => false) = true ∧
    gives (exec (.leafFetchComplete 0 3) leafUp) (fun t => decide ((t.plot 0).walk.wait = .none ∧ t.alm.leaves[3] = [leafKey 0 0x200002000])) = true := by
  decide +kernel

/-- A descriptor waits for room behind 255 others. -/
def roomUp : State := attnUp.onPlot 0 fun x => { x with walk := { pos := 0, wait := .room 9, queue := List.replicate 255 0, fetched := 0 } }
theorem wit_enqueue : (roomUp.plot 0).walk.queue.length < 256 ∧
    gives (exec (.descriptorEnqueue 0) roomUp) (fun t => decide ((t.plot 0).walk.queue.length = 256 ∧ (t.plot 0).walk.pos = 1)) = true := by decide +kernel

/-- A page descriptor at the streamer: a HOLE, or the page at 0x200010000 under GEN 1, with a ring of two slots. -/
def fetchUp (hole : Bool) (slots : List (Option (DWord × BitVec 16))) : State :=
  (runs .compute (freshRun attnD 2 100) upT2).onPlot 0 fun x =>
    { x with walk := { pos := 1, wait := .none, queue := [pageDesc { glob := true, t := 0, ph := 0, pw := 0, slice := 0 } 0x200010000 hole false 1], fetched := 0 }
             ring := { x.ring with addr := 0x400000, pages := 2, slots := slots, order := [0, 1] } }
theorem wit_fetch : let d := pageDesc { glob := true, t := 0, ph := 0, pw := 0, slice := 0 } 0x200010000 false false 1
    let s := fetchUp false [none, none]
    (s.plot 0).walk.queue[0]? = some d ∧ pdHole d = false ∧ (s.plot 0).ring.slots.contains (some (pdTag d)) = false ∧ ringVictim (s.plot 0) = some 0 ∧
      (pdFrame d).toNat % 65536 = 0 ∧ rangeOk s 0 (pdFrame d).toNat 65536 = true ∧
      accessReady s 0 (mirrorBed s (bedOf 0) 0) (pdFrame d).toNat 65536 false = true ∧
      extFault (s.plot 0) (extFlat (w32 attnD 0x30) 65536) = none ∧
      (match routedRead 0 (mirrorBed s (bedOf 0) 0) (pdFrame d).toNat 65536 0 [] s with
        | (_, .ok _) => true
        | _ => false) = true ∧
      gives (exec (.pageFetchComplete 0 []) (fetchUp true [none, none])) (fun t => decide ((t.plot 0).walk.fetched = 1)) = true ∧
      gives (exec (.pageFetchComplete 0 []) (fetchUp false [some (pdTag d), none])) (fun t => decide ((t.plot 0).walk.fetched = 1)) = true := by
  decide +kernel

theorem wit_page_entry : tableOkAt upT2 0 0x200000008 8 = true ∧ accessReady upT2 0 none 0x200000008 8 true = true ∧ tierOf upT2 0x200000008 = .t2 ∧
    gives (exec (.pageEntryWriting 0 0x200000008 0x20003) upT2) (fun t => decide (tableEntry t 0 0x200000008 = 2 + 0x20003 * 2 ^ 16 + 2 ^ 48) &&
      gives (exec (.pageEntryPresent 0 0x200000008) t) (fun u => decide (tableEntry u 0 0x200000008 = 1 + 0x20003 * 2 ^ 16 + 2 ^ 48))) = true := by
  decide +kernel

/-- An entry of a table in T3, mapped to frame 0 by the translation. -/
def upT3 : State :=
  { upT2 with mem := { upT2.mem with xlt := tabSet 0 upT2.mem.xlt (xltKey 0 0) 0x01000000 } }
theorem wit_page_entry_T3 : tierOf upT3 t3Base = .t3 ∧ tableOkAt upT3 0 t3Base 8 = true ∧ accessReady upT3 0 none t3Base 8 true = true ∧
    xltOk (xltEntry upT3 0 0) 0 = true := by decide +kernel

/-- A sequence of one leaf at 0x200002000. -/
def sequenceUp : State := ramWrite 0x200002000 (bytesOf 8 0x10001) (ramWrite 0x200000000 (bytesOf 8 leafRoot) upT2)
theorem wit_release : tableInUse sequenceUp 0 0x200000000 = false ∧ tableOkAt sequenceUp 0 0x200000000 8192 = true ∧
    (entryAt sequenceUp 0 0x200000000 0).valid = true ∧ (entryAt sequenceUp 0 0x200000000 0).leaf = 0x200000000 + 8192 ∧
    ((List.range 1024).all fun i => i = 0 || !(entryAt sequenceUp 0 0x200000000 (512 * i)).valid) = true ∧
    tierOf sequenceUp 0x200002000 = .t2 ∧ tableOkAt sequenceUp 0 0x200002000 4096 = true := by decide +kernel

/-- A carrier descriptor: COP, PAGES, source and destination one page apart. -/
def carrierD (op pages src dst : Nat) : BitVec 512 :=
  bits [(0, 0, op), (4, 0, 0xFFFFFFFF), (8, 0, src), (0x10, 0, dst), (0x18, 0, pages), (0x1C, 0, 0x44332211), (0x20, 0, 65536), (0x24, 0, 65536)]
/-- It is in progress with these pages done. -/
def carrying (d : BitVec 512) (started : Bool) (pages : List Nat) : State :=
  (ramWrite 0x200010001 [7] upT2).onPart 0 fun x => { x with carrier := [{ desc := d, started := started, pages := pages, status := 0 }] }
/-- What the statement asks of a page. -/
def pageMoves (d : BitVec 512) : Bool :=
  let s := carrying d true []
  let a := caSrc d 0
  let b := caDst d 0
  pageReady s 0 d 0 && dstAccepts s 0 b (caEpoch d) && decide (a % 65536 = 0 ∧ b % 65536 = 0 ∧ tierOf s b = .t2) &&
    (caOp d == 2 || decide (a ≠ b ∧ tierOf s a = .t2)) && decide (0 < caPages d)

theorem wit_carrier : pageMoves (carrierD 0 1 0x200010000 0x200020000) = true ∧ pageMoves (carrierD 1 1 0x200010000 0x200020000) = true ∧
    pageMoves (carrierD 2 1 0 0x200020000) = true ∧ holdActive (carrying (carrierD 0 1 0x200010000 0x200020000) false []) = false ∧
    carrierInFlight (carrying (carrierD 0 1 0x200010000 0x200020000) false []) < 16 ∧
    gives (exec (.carrierDescriptorStart 0 0) (carrying (carrierD 0 1 0x200010000 0x200020000) false []))
      (fun t => (t.part 0).carrier.all fun o => o.started && o.status == 0) = true ∧
    gives (exec (.carrierComplete 0 0) (carrying (carrierD 0 1 0x200010000 0x200020000) true [0]))
      (fun t => decide ((t.part 0).carrier = [] ∧ (t.part 0).carrierRing.length = 1)) = true := by decide +kernel

/-- A translation cache with one entry of partition 0. -/
def cacheUp (busy : Option Word) : State := upT3.onCis 0 fun c => { c with xltBusy := busy, xltCache := [(0, 2, 0x01000000)] }
theorem wit_translation : (upT3.cistern 0).xltBusy = none ∧ ((cacheUp (some 2)).cistern 0).xltBusy = some 2 ∧
    gives (exec (.xltInvalidateDone 0) (cacheUp (some 2))) (fun t => decide ((t.cistern 0).xltCache = [] ∧ (t.cistern 0).xltBusy = none)) = true ∧
    gives (exec (.xltInvalidateDone 0) (cacheUp (some 4))) (fun t => decide ((t.cistern 0).xltCache.length = 1)) = true ∧
    0 < t3Quota upT3 0 / 65536 ∧ gives (exec (.xltMissFill 0 0 0) upT3) (fun t => decide ((t.cistern 0).xltCache = [(0, 0, 0x01000000)])) = true := by
  decide +kernel

theorem wit_epoch_write : tierOf upT2 0x200000000 = .t2 ∧ pointOf upT2 0x200000000 = some (.cistern 0) ∧ rangeOk upT2 0 0x200000000 2 = true ∧
    gives (exec (.epochCheckedWrite (.cistern 0) 0 0xFFFFFFFF 0x200000000 [1, 2]) upT2) (fun t => decide (ramByte t 0x200000001 = 2)) = true ∧
    gives (exec (.epochCheckedWrite (.cistern 0) 0 0x05000001 0x200000000 [1, 2]) upT2) (fun t => decide (ramByte t 0x200000001 = 0)) = true := by
  decide +kernel

/-- Frame 4 is mapped for partition 0 with MIRROR set, and bed 0 mirrors 16 pages. -/
def mirrorUp : State :=
  { up with mem := { up.mem with xlt := tabSet 0 up.mem.xlt (xltKey 0 0) 0x03000004 } }.onBed 0 fun b => { b with share := 1 }
/-- The entry of frame 4, and the copies of bed 0. -/
def dirUp (e : DirEntry) (l : List MirrorCopy) : State := setDirEntry 4 e (mirrorUp.onBed 0 fun b => { b with mirror := l })
/-- Bed 0's copy of a frame. -/
def copyIn (slot : Nat) (f : BitVec 24) (own : Bool) (dirty : BitVec 16) (filling tenure recalled : Bool) : MirrorCopy :=
  { slot := slot, frame := f, owned := own, dirty := dirty, filling := filling, tenure := tenure, recalled := recalled }

theorem wit_directory_requests : (mirrorUp.cistern (frameCis 4)).dir.queue.length < 256 ∧ bedMayRequest mirrorUp 4 (.read 0) = true ∧
    bedMayRequest mirrorUp 4 (.own 0 true) = true ∧ dirEntry mirrorUp 4 = .unheld ∧ copyOf mirrorUp 0 4 = none ∧ freeSlot mirrorUp 0 = some 0 ∧
    bedMayRequest (dirUp (.shared 2) []) 4 (.own 0 false) = true ∧
    gives (exec (.directoryRead 4 0 []) mirrorUp) (fun t => decide (dirEntry t 4 = .shared 1 ∧ (t.bed 0).mirror = [copyIn 0 4 false 0 true true false])) = true ∧
    gives (exec (.directoryOwn 4 0 true []) mirrorUp) (fun t => decide (dirEntry t 4 = .owned 0 0 ∧ (t.bed 0).mirror = [copyIn 0 4 true 0 true true false])) = true ∧
    gives (exec (.directoryOwn 4 0 false []) (dirUp (.shared 2) [])) (fun t => decide (dirEntry t 4 = .owned 0 0)) = true := by decide +kernel

/-- A full share whose least recently used copy is of frame 4. -/
def fullShare (e : DirEntry) (own : Bool) (dirty : BitVec 16) : State :=
  dirUp e (((List.range 15).map fun i => copyIn i (BitVec.ofNat 24 (100 + i)) false 0 false false false) ++ [copyIn 15 4 own dirty false false false])
theorem wit_directory_victims : victimCopy (fullShare (.shared 3) false 0) 0 = some (copyIn 15 4 false 0 false false false) ∧
    gives (exec (.directoryDrop 4 0) (fullShare (.shared 3) false 0)) (fun t => decide (dirEntry t 4 = .shared 2 ∧ (t.bed 0).mirror.length = 15)) = true ∧
    gives (exec (.directoryDrop 4 0) (fullShare (.shared 1) false 0)) (fun t => decide (dirEntry t 4 = .unheld)) = true ∧
    copyOf (fullShare (.owned 0 0) true 0) 0 4 = some (copyIn 15 4 true 0 false false false) ∧
    gives (exec (.directoryEviction 4 0) (fullShare (.owned 0 0) true 0)) (fun t => decide (dirEntry t 4 = .unheld)) = true ∧
    gives (exec (.directoryExternal 4 .write) (fullShare (.shared 1) false 0)) (fun t => decide (dirEntry t 4 = .unheld ∧ (t.bed 0).mirror.length = 15)) = true := by
  decide +kernel

theorem wit_tenure : (let c := copyIn 0 4 true 1 false true false
    copyOf (dirUp (.owned 0 1) [c]) 0 4 = some c ∧ c.tenure = true ∧
    gives (exec (.tenureEnd 4 0) (dirUp (.owned 0 1) [c])) (fun t => decide ((t.bed 0).mirror = [copyIn 0 4 true 1 false false false])) = true) ∧
    gives (exec (.tenureEnd 4 0) (dirUp (.owned 0 0) [copyIn 0 4 true 0 false true true])) (fun t => decide ((t.bed 0).mirror = [] ∧ dirEntry t 4 = .unheld)) = true ∧
    gives (exec (.writebackDone 4) (dirUp (.writingBack 0) [])) (fun t => decide (dirEntry t 4 = .unheld)) = true := by decide +kernel

theorem wit_fill : copyOf (dirUp (.shared 1) [copyIn 0 4 false 0 true true false]) 0 4 = some (copyIn 0 4 false 0 true true false) ∧
    (match frameRead 4 (dirUp (.shared 1) [copyIn 0 4 false 0 true true false]) [0, 255] with
      | (_, .ok _) => true
      | _ => false) = true := by decide +kernel

/-- Sector 1027 holds a byte in its codeword 0. -/
def sectorUp : State := up.onMem (cwStore 1027 0 0 (5 :: List.replicate 63 0))
theorem wit_sectors : 1027 < 256 * frameCount up ∧ Safe sectorUp ∧ holdActive sectorUp = false ∧
    (match cwRead sectorUp 1027 0 0 [] with
      | .clean d => decide (d = 5 :: List.replicate 63 0)
      | _ => false) = true ∧
    (match cwRead sectorUp 1027 0 0 [[{ sector := 1027, sym := 0, val := 9 }]] with
      | .corrected d => decide (d = 5 :: List.replicate 63 0)
      | _ => false) = true ∧
    gives (exec (.lpddrRead 1027 0 1 [[{ sector := 1027, sym := 0, val := 9 }]]) sectorUp)
      (fun t => decide (cwData t.mem 1027 0 = 5 :: List.replicate 63 0 ∧ ((t.cistern 0).mem.ce.toNat + (t.cistern 1).mem.ce.toNat = 1))) = true ∧
    gives (exec (.lpddrWrite 1027 0 1 (List.replicate 64 6)) sectorUp) (fun t => decide (cwData t.mem 1027 0 = List.replicate 64 6)) = true :=
  ⟨by decide +kernel, show Memory.wf _ = true from by decide +kernel, by decide +kernel, by decide +kernel, by decide +kernel, by decide +kernel, by decide +kernel⟩

theorem wit_scrub : (match scrubReadAll up 1027 [] with
      | some (_, rs) => rs.all fun r => match r with
        | .clean _ => true
        | _ => false
      | none => false) = true ∧
    gives (exec (.scrubSector 1027 []) { up with mem := { up.mem with pendingChk := [1027] } }) (fun t => decide (t.mem.pendingChk = [])) = true := by decide +kernel

theorem test_two_symbols_are_beyond_correction : (match cwRead { sectorUp with dev := { sectorUp.dev with fault := { sectorUp.dev.fault with lpRetry := 0 } } } 1027 0 0
      [[{ sector := 1027, sym := 0, val := 9 }, { sector := 1027, sym := 1, val := 7 }]] with
    | .corrected d => decide (d = 5 :: List.replicate 63 0)
    | .uncorr => true
    | _ => false) = true := by decide +kernel

/-- A channel at its threshold of failed trainings. -/
def badChan : State :=
  { mirrorUp with dev := { mirrorUp.dev with fault := { mirrorUp.dev.fault with lpTrain := 3, lpCeHr := 5, lpUeDay := 2 } } }.onCis 0 fun c =>
    { c with chans := c.chans.set 63 { c.chans[(63 : Fin 64)] with trainFails := 3, hourCe := 5, dayUe := 1, state := 2 } }
theorem wit_channels : (badChan.mem.relocating = none) ∧ ((badChan.cistern 0).chans[(63 : Fin 64)]).state ≠ 3 ∧ holdActive badChan = false ∧
    chanCrossed badChan 0 63 .training = some 3 ∧ chanCrossed badChan 0 63 .ceRate = some 5 ∧ chanCrossed badChan 0 63 .uncorr = none ∧
    gives (exec (.channelPrune 0 63 .training) badChan) (fun t => decide (t.mem.relocating = some (0, 63, .training))) = true ∧
    gives (exec (.bankRefresh 0 63 1 15) badChan) (fun t => decide (((t.cistern 0).chans[(63 : Fin 64)]).refreshed = some (1, 15))) = true ∧
    gives (exec (.periodicRetrain 0 0x8000000000000000) badChan) (fun t => decide (((t.cistern 0).chans[(63 : Fin 64)]).trainFails = 4)) = true := by
  decide +kernel

theorem wit_relocation : let s := { badChan with mem := { badChan.mem with relocating := some (0, 63, .training) } }
    (usedFrames s 0 (newDonors s 0).1 (newDonors s 0).2).all (fun f => decide (dirEntry s f = .unheld)) = true := by decide +kernel

/-! ### Witnesses: queues, jobs, epochs, contexts and passes -/

/-- A model of one operator in stage 3 that runs once for 1,000 cycles. -/
def smallModel : ModelDesc :=
  { maxWidth := 64, maxHeight := 64, maxFrames := 1, spaceDiv := 8, timeDiv := 4, costs := [{ record := bits [(0, 0, 3 <<< 16), (4, 0, 1000)], count := 1, oneParity := false, top := 0, maps := 0 }],
    foot := [8, 0, 0, 0], colls := [], writes := [], live := [{ oper := 0, regions := [(0, 64)] }] }
def smallPkg : ModelPkg :=
  { models := [smallModel], tiles := [], resident := 0, members := 1, groups := [], voteFanin := 2, voteSrc := 0, voteDst := 0x200000000, voteStage := 0 }
/-- A TRAIN job of one pass with its deadline after one second. -/
def jobD : BitVec 1024 := bits [(0, 0, 7), (4, 0, 2), (8, 0, 1000000000), (0x10, 0, 1), (0x18, 0, 1), (0x1C, 0, 64), (0x1C, 16, 64), (0x20, 0, 1)]
/-- The job in its partition. -/
def jobIn (life : Life) (away : Away) (inPass : Bool) : Job :=
  { id := 7, desc := jobD, codec := 0, fn := 1, qp := 0, ssn := 3, slot := 5, epoch := 0xFFFFFE, life := life, away := away, mainPasses := 0, fbPasses := 0, toGo := 1,
    wc := 100, marginLeft := 0, retryLeft := 1000, exposure := 0, capacity := 0, energy := 0, watchAt := [], holdUs := 0, retries := 0, cancelReq := false,
    switchNext := false, passFailed := false, inPass := inPass, stopped := false, advanced := false, voting := false, voteRes := none, passAt := 0, waitFrom := none,
    tasks := [], ctx := [], flushed := [], lates := [], settled := [], extra := 0 }
/-- A partition that takes jobs, with the model resident. -/
def jobsUp : State := upT2.onPart 0 fun x => { x with bal := 1000000, resetDone := true, withdrawn := 0, img := { x.img with faultBeds := 0 }, models := [{ handle := 1, pkg := smallPkg, onChip := true }] }
/-- With these jobs. -/
def withJobs (l : List Job) : State := jobsUp.onPart 0 fun x => { x with jobs := l }

/-- A queue pair of the VF of partition 0: rings of 64 entries at 0x10000 and 0x20000. -/
def pairUp (g : Qp → Qp) (s : State) : State := onQp 1 0 (fun x => g { x with sqBase := 0x10000, cqBase := 0x20000, sqLog := 6, cqLog := 6 }) s
/-- It is ACTIVE, with one submission fetched. -/
def submits (e : BitVec 1024) (s : State) : State := pairUp (fun x => { x with state := 1, accepted := [{ entry := e, taken := false, resp := none }] }) s
/-- A submission: opcode, JOB_ID, ADDR, LEN and ARG0. -/
def subD (opc job addr len arg : Nat) : BitVec 1024 := bits [(0, 0, opc), (4, 0, 3), (0x0C, 0, job), (0x10, 0, addr), (0x18, 0, len), (0x20, 0, arg)]

theorem wit_doorbells : let s := pairUp (fun x => { x with state := 1, lastCsn := 2, consumed := 0xFFFFFFFF, journal := [1, 2, 3] }) jobsUp
    let x := qpOf s 1 0
    x.state = 1 ∧ (1 ≤ ((64 : Word) - x.nextSsn).toNat ∧ ((64 : Word) - x.nextSsn).toNat ≤ 2 ^ x.sqLog.toNat ∧ ((64 : Word) - x.limit).toNat < 2 ^ 31) ∧
      2 ^ x.sqLog.toNat < ((65 : Word) - x.nextSsn).toNat ∧
      gives (exec (.sqDoorbell 1 0 64) s) (fun t => decide ((qpOf t 1 0).limit = 64)) = true ∧
      gives (exec (.sqDoorbell 1 0 65) s) (fun t => decide ((qpOf t 1 0).limit = 0 ∧ (qpOf t 1 0).dbDrop = 1)) = true ∧
      gives (exec (.cqDoorbell 1 0 2) s) (fun t => decide ((qpOf t 1 0).consumed = 2 ∧ (qpOf t 1 0).journal = [])) = true ∧
      gives (exec (.cqDoorbell 1 0 3) s) (fun t => decide ((qpOf t 1 0).consumed = 0xFFFFFFFF ∧ (qpOf t 1 0).dbDrop = 1)) = true := by decide +kernel

/-- One announced entry stands in host memory, with an SSN. -/
def announced (ssn : Nat) : State :=
  pairUp (fun x => { x with state := 1, limit := 1, lastCsn := 0, consumed := 0 }) { jobsUp with mem := { jobsUp.mem with host := tabWrite 0 [] 0x10000 (bytesOf 128 (5 + ssn <<< 32)) } }
theorem wit_fetches : let x := qpOf (announced 0) 1 0
    x.nextSsn ≠ x.limit ∧ x.stall = false ∧ (x.lastCsn - x.consumed).toNat ≠ min (2 ^ x.cqLog.toNat) 256 ∧ x.accepted = [] ∧
      refusedEntry (announced 0) 1 (sqEntry (announced 0) x) = false ∧
      gives (exec (.submissionFetch 1 0 true) (announced 0)) (fun t => decide ((qpOf t 1 0).nextSsn = 1 ∧ (qpOf t 1 0).accepted.length = 1)) = true ∧
      gives (exec (.submissionFetch 1 0 true) (announced 9)) (fun t => (qpOf t 1 0).stall) = true := by decide +kernel

/-- A ready response with so many entries not consumed. -/
def readyUp (n : Word) : State := pairUp (fun x => { x with state := 1, lastCsn := n, consumed := 0, ready := [0x1F] }) jobsUp
theorem wit_completion : let x := qpOf (readyUp 63) 1 0
    x.ready = [0x1F] ∧ (x.lastCsn - x.consumed).toNat < min (2 ^ x.cqLog.toNat) 256 ∧ causesHeld (readyUp 63) 1 = false ∧
      gives (exec (.completionWrite 1 0) (readyUp 63)) (fun t => decide (hostByte t 0x20000 = 0x1F ∧ (qpOf t 1 0).lastCsn = 64)) = true ∧
      same (exec (.completionWrite 1 0) (readyUp 64)) (readyUp 64) = true := by decide +kernel

theorem wit_attach : (let s := pairUp (fun x => { x with ssnInit := 9 }) { jobsUp with pf0 := { jobsUp.pf0 with vfEnable := true, numVfs := 1 } }
    (qpOf s 1 0).state ≠ 1 ∧ takesQueues s 1 = true ∧ gives (exec (.qpAttach 1 0) s) (fun t => decide ((qpOf t 1 0).state = 1 ∧ (qpOf t 1 0).nextSsn = 9)) = true ∧
      gives (exec (.qpAttach 1 0) (onQp 1 0 (fun x => { x with sqLog := 17 }) s)) (fun t => decide ((qpOf t 1 0).err = 3)) = true) ∧
    (let s := pairUp (fun x => { x with state := 2, nextSsn := 4 }) { jobsUp with pf0 := { jobsUp.pf0 with vfEnable := true, numVfs := 1 } }
     (qpOf s 1 0).state ≠ 0 ∧ ((qpOf s 1 0).lastCsn - (qpOf s 1 0).consumed).toNat ≤ 2 ^ (qpOf s 1 0).cqLog.toNat ∧
       gives (exec (.qpResumeAttach 1 0) s) (fun t => decide ((qpOf t 1 0).state = 1 ∧ (qpOf t 1 0).nextSsn = 4)) = true) ∧
    takesQueues jobsUp 1 = false ∧ gives (exec (.qpAttach 1 0) (pairUp id jobsUp)) (fun t => decide ((qpOf t 1 0).err = 2)) = true ∧
    (let s := pairUp (fun x => { x with state := 1, detaching := true }) jobsUp
     gives (exec (.detachComplete 1 0) s) (fun t => decide ((qpOf t 1 0).state = 2)) = true) := by decide +kernel

theorem wit_clock : (let s := up.onBed 0 fun b => { b with stepping := some true, current := 23, target := 24 }
    gives (exec (.clockStepComplete 0) s) (fun t => decide ((t.bed 0).current = 24)) = true) ∧
    gives (exec (.bedClockTarget 0 31) up) (fun t => decide ((t.bed 0).target = 24)) = true ∧ (up.bed 0).stepping = none := by decide +kernel

/-- SUBMIT_JOB of the job, with its descriptor in host memory. -/
def submitUp (l : List Job) : State :=
  submits (subD 1 7 0x30000 128 0) { withJobs l with mem := { jobsUp.mem with host := tabWrite 0 [] 0x30000 (bytesOf 128 jobD.toNat) } }
theorem wit_submit : nextSubmission (submitUp []) 1 0 = some (subD 1 7 0x30000 128 0) ∧ fnPart 1 = some 0 ∧ seOpc (subD 1 7 0x30000 128 0) = 1 ∧
    (match decideJob (submitUp []) 0 (subD 1 7 0x30000 128 0) jobD 0 true with
      | .ok _ => true
      | _ => false) = true ∧
    gives (exec (.submitJob 1 0 true) (submitUp [])) (fun t => (t.part 0).jobs.any (fun j => j.id == 7 && j.life == .running) && decide ((t.part 0).counts[0] = 1)) = true ∧
    (match decideJob (submitUp [jobIn .adm .none false]) 0 (subD 1 7 0x30000 128 0) jobD 0 true with
      | .error a => decide (a = ansState 0x1A)
      | _ => false) = true ∧
    gives (exec (.submitJob 1 0 true) (submitUp [jobIn .adm .none false])) (fun t => decide ((t.part 0).counts[1] = 1)) = true := by decide +kernel

/-- A job command on one job. -/
def commands (opc arg : Nat) (j : Job) : State := submits (subD opc 7 0 0 arg) (withJobs [j])
theorem wit_cancel : jobById (commands 2 0 (jobIn .adm .none false)) 0 7 = some (jobIn .adm .none false) ∧ jobLive (jobIn .adm .none false) = true ∧
    gives (exec (.cancel 1 0) (commands 2 0 (jobIn .adm .none false))) (fun t => (t.part 0).jobs.any fun k => k.life == .cancelled) = true ∧
    inCompany (commands 2 0 (jobIn .running .none true)) 0 (jobIn .running .none true) = false ∧
    gives (exec (.cancel 1 0) (commands 2 0 (jobIn .running .none true))) (fun t => (t.part 0).jobs.any fun k => k.cancelReq && k.stopped) = true ∧
    gives (exec (.cancel 1 0) (commands 2 0 (jobIn .running .none false))) (fun t => (t.part 0).jobs.any fun k => k.cancelReq && !k.stopped) = true ∧
    jobById (submits (subD 2 8 0 0 0) (withJobs [])) 0 8 = none ∧ jobLive (jobIn .ok .none false) = false ∧ suspended (jobIn .ok .none false) = false := by decide +kernel

theorem wit_suspend : let j := jobIn .running .none true
    let s := commands 3 5 j
    cutMember s 0 j = false ∧ roomFor s 0 j = true ∧ (((5 * 1000 + preHeld s 0 j : Nat) : Int) ≤ slackOf s 0 j.id) ∧
      gives (exec (.suspend 1 0) s) (fun t => (t.part 0).jobs.any fun k => k.away == .stopping true 5) = true := by decide +kernel

theorem wit_resume_job : suspended (jobIn .running (.out true 0 5) false) = true ∧
    gives (exec (.resume 1 0) (commands 4 0 (jobIn .running (.out true 0 5) false))) (fun t => (t.part 0).jobs.any fun k => k == unsuspend (jobIn .running (.out true 0 5) false)) = true ∧
    (let s := later 5000 (withJobs [jobIn .running (.out true 0 5) false])
     (5 : Word).toNat * 1000 ≤ (s.time - 0).toNat ∧ gives (exec (.suspendExpire 0 7) s) (fun t => decide ((t.part 0).jobs = [jobIn .running (.out false 0 5) false])) = true) := by
  decide +kernel

theorem wit_queries : gives (exec (.queryJobs 1 0 true) (submits (subD 5 0 0x40000 16 0) (withJobs [jobIn .adm .none false])))
      (fun t => decide (hostByte t 0x40000 = 7)) = true ∧
    (let s := submits (subD 0x10 0 0 0 0) upT2
     residencyFull s 0 = false ∧ loadBad smallPkg = false ∧ loadShort s 0 smallPkg = none ∧
       gives (exec (.loadModel 1 0 (some smallPkg)) s) (fun t => decide ((t.part 0).models.length = 1)) = true) ∧
    (let s := submits (subD 0x11 0 0 0 1) jobsUp
     (findModel s 0 1).isSome = true ∧ packageUsed s 0 { handle := 1, pkg := smallPkg, onChip := true } = false ∧
       gives (exec (.unloadModel 1 0) s) (fun t => decide ((t.part 0).models = [])) = true) := by decide +kernel

/-- A stopped job. -/
def stoppedJob (advanced : Bool) : Job := { jobIn .running (.stopping false 0) false with stopped := true, advanced := advanced }
theorem wit_epochs : jobInSlot (withJobs [stoppedJob false]) 0 5 = some (stoppedJob false) ∧ tasksStopped (withJobs [stoppedJob false]) (stoppedJob false) = true ∧
    recordsDrained (withJobs [stoppedJob false]) 0 5 = true ∧
    gives (exec (.epochAdvance 0 5) (withJobs [stoppedJob false])) (fun t => decide ((cisEpoch t 1 0 5).toNat = 2 ^ 24) && (t.part 0).jobs.any fun k => k.epoch == 0 && k.advanced) = true ∧
    (((withJobs [stoppedJob true]).part 0).resetStep ≠ .draining) ∧
    gives (exec (.epochAcknowledged 0 5) (withJobs [stoppedJob true])) (fun t => (t.part 0).jobs.all fun k => !k.stopped && !k.advanced) = true := by decide +kernel

/-- A record of slot 5 in the ring of bed 0. -/
def ringUp (st : Nat) (epoch : Word) (j : Job) : State := (withJobs [j]).onBed 0 fun b => { b with ring := [(bits [(3, 0, st)], epoch)] }
theorem wit_rings : bedPart (ringUp 0x09 0x05FFFFFE (jobIn .running .none true)) 0 = some 0 ∧
    recordJob (ringUp 0x09 0x05FFFFFE (jobIn .running .none true)) 0 0x05FFFFFE = some (jobIn .running .none true) ∧
    recordJob (ringUp 0x09 0x05000001 (jobIn .running .none true)) 0 0x05000001 = none ∧
    gives (exec (.completionRingDrain (.bed 0)) (ringUp 0x09 0x05FFFFFE (jobIn .running .none true))) (fun t => (t.part 0).jobs.all (·.passFailed)) = true ∧
    gives (exec (.completionRingDrain (.bed 0)) (ringUp 0x09 0x05000001 (jobIn .running .none true))) (fun t => decide ((t.part 0).execs[3] = 1)) = true ∧
    gives (exec (.completionRingDrain (.bed 0)) (ringUp 0x0D 0x05FFFFFE (stoppedJob false))) (fun t => (t.part 0).jobs.all fun k => k.flushed.length == 1) = true := by decide +kernel

/-- A stopped job with a task on plot 0 whose operator's command was flushed. -/
def heelJob : Job := { jobIn .running (.stopping false 0) false with tasks := [(0, 0)], flushed := [bits []] }
theorem wit_heel_in : let s := ramWrite 0 [9] (withJobs [heelJob])
    jobById s 0 7 = some heelJob ∧ liveRegions s 0 heelJob 0 = [(0, 64)] ∧ (placeContext s 0 [(0, 64)]).isSome = true ∧
      (placeContext s 0 [(0, 64)]).all (fun l => l.all fun r => decide (tierOf s r.2.1.toNat = .t2 ∧ tierOf s (r.2.1.toNat + 63) = .t2)) = true ∧
      gives (exec (.heelIn 0 7) s) (fun t => (t.part 0).jobs.any fun k => k.away == .heeling false 0 && k.ctx.length == 1) = true := by decide +kernel

theorem wit_heeled : gives (exec (.heelInComplete 0 7) (withJobs [{ heelJob with away := .heeling false 0 }]))
      (fun t => (t.part 0).jobs.any fun k => k.away == .out false 0 0) = true ∧
    (let j := { jobIn .running (.out false 0 0) false with ctx := [] }
     let s := withJobs [j]
     firstInPlan s 0 7 = true ∧ plotsIdle s 0 = true ∧ resumeGroup s 0 j = [j] ∧ groupTasks s 0 [j] = 8 ∧
       (bindingOn 8 (freePlotsFor s 0 fun _ => true)).length = 8 ∧
       gives (exec (.victimResume 0 7) s) (fun t => (t.part 0).jobs.any fun k => k.away == .restoring && k.tasks.length == 8) = true) ∧
    (let j := { jobIn .running .restoring false with tasks := [(0, 0)] }
     ((withJobs [j]).plot 0).mode = .idle ∧
       gives (exec (.restoreComplete 0 7) (withJobs [j])) (fun t => (t.part 0).jobs.any fun k => k.away == .none && k.inPass) = true) := by decide +kernel

theorem wit_boundary : let j := jobIn .running .none true
    let s := withJobs [j]
    holdActive s = false ∧ (s.part 0).resetStep = .none ∧ passOver s 0 = true ∧ passBlocked s 0 = false ∧ j.voting = false ∧ passSettled s 0 j = true ∧
      cutMember s 0 j = false ∧ onFallback j = false ∧ jobRunning j = true ∧ j.toGo = 1 ∧ jdDeadline j.desc = 1000000000 ∧
      gives (exec (.passBoundary 0 [{ job := 7, bytes := 0, index := 0, time := 1000000000 }]) s)
        (fun t => (t.part 0).jobs.any (fun k => k.life == .ok && k.mainPasses == 1) && decide ((t.part 0).counts[2] = 1)) = true := by decide +kernel

theorem wit_vote : let j := { jobIn .running .none true with voting := true }
    let s := ramWrite 0x200000004 [1] (withJobs [j])
    voteOver (s.part 0) = true ∧ (findModel s 0 (jdModel j.desc)).isSome = true ∧
      gives (exec (.voteResult 0 7) s) (fun t => (t.part 0).jobs.any fun k => k.voteRes == some (false, true)) = true := by decide +kernel

theorem wit_failed_pass : (let j := { jobIn .running .none true with passFailed := true }
    gives (exec (.failedPass 0 .residue [7]) (withJobs [j])) (fun t => (t.part 0).jobs.any fun k => k.retries == 1) = true) ∧
    gives (exec (.failedPass 0 .dataLost [7]) (withJobs [jobIn .running .none true])) (fun t => (t.part 0).jobs.any fun k => k.life == .failed) = true := by decide +kernel

theorem wit_long_hold : let s := later 2000000 (held up)
    holdActive s = true ∧ s.fence.longDone = false ∧ 2000000 ≤ (s.time - s.fence.holdAt).toNat ∧
      gives (exec .longHoldDecision s) (fun t => decide (t.fence.holdLong = 1)) = true := by decide +kernel

/-- Partition 0 in a step of its reset. -/
def resetting (r : ResetStep) : State := (ramWrite 0x200000000 [1] jobsUp).onPart 0 fun x => { x with resetStep := r, adm := 3 }
theorem wit_partition_reset : jobsUp.image.boot = .done ∧ jobsUp.image.replant = none ∧
    gives (exec (.partitionReset 0 .management) jobsUp) (fun t => decide ((t.part 0).resetStep = .draining)) = true ∧
    gives (exec (.partitionReset 0 .management) (resetting .draining)) (fun t => decide ((t.part 0).absorbed = 1)) = true ∧
    (let s := { jobsUp with pf0 := { jobsUp.pf0 with vfEnable := true, numVfs := 1 } }
     vfExists s 0 = true ∧ gives (exec (.flr 1) s) (fun t => decide ((t.part 0).resetStep = .draining)) = true ∧
       gives (exec (.vfEnableChange true 0) s) (fun t => decide ((t.part 0).resetStep = .draining)) = true) ∧
    gives (exec (.resetPartition 0 0) (onQp 0 0 (fun x => { x with state := 1, accepted := [{ entry := subD 0x21 0 0 0 0, taken := false, resp := none }] }) jobsUp))
      (fun t => decide ((t.part 0).resetStep = .draining)) = true ∧
    plotsStopped (resetting .draining) 0 = true ∧
    gives (exec (.epochAcknowledged 0 0) (resetting .draining)) (fun t => decide ((t.part 0).resetStep = .zeroing)) = true ∧
    zeroingOver (resetting .zeroing) 0 = true ∧
    gives (exec (.partitionZeroingDone 0) (resetting .zeroing)) (fun t => decide (ramByte t 0x200000000 = 0) && (t.part 0).resetDone) = true := by decide +kernel

/-- A sample of which one die is too hot, as the sample before it was. -/
def hot : Temps := { beds := #v[200, 0, 0, 0, 0, 0, 0, 0, 0, 0, 0, 0, 0, 0, 0, 0], cisterns := #v[0, 0], shed := 0, codec := 0, lpddr := 0, regulator := 0, coolant := 0 }
/-- The sample before found the same sensor too hot. -/
def hotUp : State := { up with fence := { up.fence with supply := .good, tripSeen := BitVec.ofNat _ (tripBits up hot) } }
theorem wit_device_resets : up.pins.mrstLow = false ∧ hotUp.fence.supply ≠ .off ∧ hotUp.fence.tripSeen.toNat &&& tripBits hotUp hot ≠ 0 ∧
    gives (exec (.thermalSample hot) hotUp) (fun t => decide (t.fence.resetCause = 3 ∧ t.image.boot = .off)) = true ∧
    gives (exec .moduleReset up) (fun t => decide (t.fence.resetCause = 1)) = true ∧ gives (exec .pcieWarmReset up) (fun t => decide (t.pf0.reportCause = 6)) = true := by
  decide +kernel

/-! ### Witnesses: images and start-up -/

/-- SHA-384 of "abc" (FIPS 180-4). -/
theorem test_sha384_abc : natBe (sha384 [0x61, 0x62, 0x63]) =
    0xCB00753F45A35E8BB5A03D699AC65007272C32AB0EDED1631A8B605A43FF5BED8086072BA1E7CC2358BAECA134C825A7 := by decide +kernel

/-- The smallest image: header, section table, DEVICE, one PARTITION, SFU_TABLES, BVL and FAULT. -/
def imageMessage : List Byte :=
  bytesOf 256 ((bits (n := 2048) [(0, 0, 0x574C4E45), (4, 0, 1), (4, 16, 7), (8, 0, 1), (12, 0, 2048), (16, 0, 1),
    (64, 0, 1), (68, 0, 256), (72, 0, 64), (76, 0, 275828048), (80, 0, 2), (84, 0, 512), (88, 0, 128), (92, 0, 3635312978),
    (96, 0, 3), (100, 0, 768), (104, 0, 4), (108, 0, 1214729159), (112, 0, 4), (116, 0, 1024), (120, 0, 32), (124, 0, 3184705815),
    (128, 0, 5), (132, 0, 1280), (136, 0, 32), (140, 0, 2324772522), (144, 0, 16), (160, 0, 17)]).toNat) ++
  bytesOf 256 ((bits (n := 2048) [(0, 0, 300), (4, 0, 85), (4, 8, 90), (4, 16, 1), (8, 13, 5), (0xC, 0, 8), (0x20, 0, 1)]).toNat) ++
  bytesOf 512 ((bits (n := 4096) [(0, 0, 1), (0, 16, 8), (0, 24, 1), (0x20, 0, 1), (0x30, 1, 1)]).toNat) ++ bytesOf 512 ((bits (n := 4096) [(0xC, 0, 1)]).toNat)
/-- Its signature block: the public key, the digest, and r and s. -/
def imageR : Nat := 0x411A66E1B1EA0D300C0775EDC981901F6B3141B28FB2C0DB9875E8D98601EA6DA49F6C4F00E326C6198F71A09683F66E
def imageBlock : List Byte :=
  0x04 :: bytesBe 48 0x5A5BDEE6E99E3FE1FBBCD4039BC9E55656B357336F652A9DCEA8DD4E5D027ADB22D6955BFB124A287294A4E62EAA6218 ++
    bytesBe 48 0x08FE9DAC11EDEC5B742D1FE6DACA4B67962CAC1C1556F13B773CADD6A02664A65FBCBE5BAA16A0A19E62788EB82C7C46 ++ List.replicate 7 0 ++
    bytesBe 48 0xC34F34A515BE2790241661C95C84B05E4193C517AF184292C961BA8C9205BF48EDDE44ED02A974524CAE54E1C38BE34A ++
    bytesBe 48 imageR ++ bytesBe 48 imageR ++ List.replicate 264 0
/-- The image stands in copy A, and boot pins choose that copy. -/
def imageUp (boot : Boot) : State :=
  { State.reset with
    image := { State.reset.image with
      boot := boot
      keyHash := State.reset.image.keyHash.set 0 0xF71060BAE171D3AA65D4439AB9F22158FBDE9B71FBBAF29F9D8F9994D8FF01B3EBD93571CA4C03E8F48023510DD16305
      flash := State.reset.image.flash.set 0 (tabWrite 0xFF [] 0 (imageMessage ++ imageBlock)) }
    pins := { State.reset.pins with straps := 2 } }

set_option maxRecDepth 100000 in
theorem test_image_is_chosen : (chooseCopy (imageUp .strapped) 0).copy = some 0 := by decide +kernel

/-- The module at a stage of its start-up, with erased flash devices. -/
def stageUp (boot : Boot) : State := { State.reset with image := { State.reset.image with boot := boot }, fence := { State.reset.fence with supply := .good } }
/-- A report without a failure. -/
def noFails : InitReport := { plotFail := 0, chanFail := 0, chanErrs := [], coreFail := 0, trFail := [] }
theorem wit_start_up : gives (exec .resetRelease (stageUp .off)) (fun t => decide (t.image.boot = .released)) = true ∧
    holdActive (stageUp .released) = false ∧
    gives (exec (.strapLatch 0xF3) (later 1000000 (stageUp .released)))
      (fun t => t.image.monitorStrap && t.image.safeBoot && decide (t.image.boot = .strapped ∧ t.pins.straps = 3)) = true ∧
    same (exec (.strapLatch 0xF3) (later 999999 (stageUp .released))) (later 999999 (stageUp .released)) = true ∧
    (chooseCopy (stageUp .strapped) 0).copy = none ∧ gives (exec (.imageVerified 0) (stageUp .strapped)) (fun t => t.image.recovery && decide (t.image.copy = 2)) = true ∧
    (let s := { up with image := { up.image with boot := .verified, stage := 5 } }
     holdActive s = false ∧ gives (exec (.memoryInitComplete noFails) s)
       (fun t => decide ((t.plot 0).mode = .idle ∧ (t.plot 127).mode = .off ∧ (t.part 0).adm = 0) && (t.part 0).resetDone) = true) := by decide +kernel

/-- REPLANT of PF0. -/
def replantUp : State := onQp 0 0 (fun x => { x with state := 1, accepted := [{ entry := subD 0x20 0 0 0 0, taken := false, resp := none }] }) jobsUp
theorem wit_replant : nextSubmission replantUp 0 0 = some (subD 0x20 0 0 0 0) ∧ replantUp.image.replant = none ∧ liveJobs replantUp 0 = [] ∧
    (chooseCopy replantUp 0).copy = none ∧ gives (exec (.replant 0 0 0) replantUp) (fun t => decide ((qpOf t 0 0).ready.length = 1)) = true := by decide +kernel

/-- A record waits, and slot 4094 of the active sector is in use. -/
def logUp (step : Nat) : State :=
  { up with image := { up.image with pendingLog := [0x1100], appendStep := step, flash := up.image.flash.set 0 [(sectorBase + 64 * 4094, 0)] } }
theorem wit_append : logOpen (logUp 0) = true ∧ slotsUsed (logUp 0) (logUp 0).image.sector = 4095 ∧ (logUp 0).image.flash.toList.all (tabWf 0xFF) = true ∧
    gives (exec (.pruneLogAppend 0) (logUp 0)) (fun t => decide (t.image.appendStep = 1)) = true ∧
    gives (exec (.pruneLogAppend 3) (logUp 3)) (fun t => decide (t.image.appendStep = 0 ∧ t.image.pendingLog = [] ∧ t.image.seq = (logUp 3).image.seq + 1)) = true := by
  decide +kernel

/-- A rotation at a step. -/
def rotating (k : Nat) : State :=
  { logUp 0 with image := { (logUp 0).image with rotating := true, rotStep := k, rotCopied := if k = 3 then 4095 else 0 } }
theorem wit_rotation : gives (exec (.logRotation 1) (rotating 1)) (fun t => decide (t.image.rotStep = 2)) = true ∧
    slotsUsed (rotating 3) (rotating 3).image.sector = (rotating 3).image.rotCopied ∧
    gives (exec (.logRotation 3) (rotating 3)) (fun t => decide (t.image.rotStep = 4) && t.image.sector) = true ∧
    gives (exec (.logRotation 4) (rotating 4)) (fun t => decide (t.image.rotStep = 0) && !t.image.rotating) = true := by decide +kernel

/-- Limits of the Fence: 300 W, throttle at 85, trip at 90, hysteresis of 1 and coolant at 60 degrees. -/
def fenceUp : State :=
  { up with fence := { up.fence with supply := .good, regs := { up.fence.regs with cap := Tri.of 300, therm := Tri.of (BitVec.ofNat 28 (85 + 90 <<< 8 + 1 <<< 16 + 60 <<< 20)) } } }
/-- Every sensor at a temperature, bed 0 at another. -/
def sample (t b : BitVec 8) : Temps :=
  { beds := (Vector.replicate 16 t).set 0 b, cisterns := Vector.replicate 2 t, shed := t, codec := t, lpddr := t, regulator := t, coolant := 40 }
theorem wit_gauge : (voteAll fenceUp.fence.regs).all (fun v => v == some 0) = true ∧ fenceUp.fence.supply ≠ .off ∧
    gives (exec (.gaugeInterval 1000 []) fenceUp) (fun t => decide (t.fence.energy = 1000 ∧ t.fence.bal = min (fenceUp.fence.bal + 299000) (dMax fenceUp))) = true ∧
    (let ups : List CopyUpset := [{ reg := 4, copy := 0, flip := 1, intact := true }, { reg := 4, copy := 1, flip := 2, intact := true }]
     (voteAll (ups.foldl upsetReg fenceUp.fence.regs)).contains none = true ∧ gives (exec (.gaugeInterval 0 ups) fenceUp) (fun t => t.fence.safe) = true) := by decide +kernel

theorem wit_thermal : fenceUp.fence.tripSeen.toNat &&& tripBits fenceUp (sample 40 85) = 0 ∧
    gives (exec (.thermalSample (sample 40 85)) { fenceUp with fence := { fenceUp.fence with ceils := Vector.replicate 16 { therm := 24, cap := 24, coolMs := 5 } } })
      (fun t => decide ((t.fence.ceils[(0 : Fin 16)]).therm = 23)) = true ∧
    gives (exec (.thermalSample (sample 40 83)) { fenceUp with fence := { fenceUp.fence with ceils := Vector.replicate 16 { therm := 20, cap := 24, coolMs := 9 } } })
      (fun t => decide ((t.fence.ceils[(0 : Fin 16)]).therm = 21)) = true ∧
    gives (exec (.thermalSample (sample 40 84)) { fenceUp with fence := { fenceUp.fence with ceils := Vector.replicate 16 { therm := 20, cap := 24, coolMs := 9 } } })
      (fun t => decide ((t.fence.ceils[(0 : Fin 16)]).therm = 20 ∧ (t.fence.ceils[(0 : Fin 16)]).coolMs = 0)) = true := by decide +kernel

/-- The supply in a state since 0, with the Fence in a mode. -/
def supplyUp (x : Supply) (mode : BitVec 3) : State := { fenceUp with fence := { fenceUp.fence with supply := x, supplyAt := 0, mode := mode } }
theorem wit_hold : gives (exec (.supplyWarning .input) fenceUp) (fun t => decide (t.fence.mode = 2 ∧ (t.part 0).adm = 1)) = true ∧
    holdActive (supplyUp .qualifying 2) = true ∧
    gives (exec .supplyQualified (later 20000 (supplyUp .qualifying 2))) (fun t => decide (t.fence.supply = .resuming ∧ t.fence.mode = 3)) = true ∧
    same (exec .supplyQualified (later 19999 (supplyUp .qualifying 2))) (later 19999 (supplyUp .qualifying 2)) = true ∧
    gives (exec .supplyQualified (later 20000 (supplyUp .qualifying 0))) (fun t => decide (t.fence.supply = .good)) = true ∧
    gives (exec .holdResume (later 50000 (supplyUp .resuming 3))) (fun t => !holdActive t) = true ∧
    (((supplyUp .resuming 3).part 0).resetStep = .none) ∧
    same (exec (.gemm 0) (held (queued .compute gemmD up))) (held (queued .compute gemmD up)) = true := by decide +kernel

/-- THROTTLE_N serves. -/
def throttleUp (low : Bool) : State := { fenceUp with pins := { fenceUp.pins with phase := 3, pins := Vector.replicate 8 .run }, fence := { fenceUp.fence with throttleLow := low } }
theorem wit_throttle : throttleServes (throttleUp false) = true ∧ gives (exec .throttleNAssert (throttleUp false)) pinActive = true ∧
    gives (exec .throttleNRelease (throttleUp true)) (fun t => decide (t.fence.pinLift = some 0)) = true ∧
    (let s := later 1000000 { fenceUp with fence := { fenceUp.fence with pinLift := some 0, alertAt := some 0, alertMin := true } }
     gives (exec .pinLimitLift s) (fun t => decide (t.fence.pinLift = none)) = true ∧ gives (exec .alertMinimumExpire s) (fun t => decide (t.fence.alertAt = none)) = true) := by
  decide +kernel

/-- A core whose counter stands still, after some expiries, with a timeout of 5 ms. -/
def stillCore (l : List DWord) : State :=
  later 5000000 ({ fenceUp with fence := { fenceUp.fence with regs := { fenceUp.fence.regs with wdog := Tri.of 0x405 } } }.onCore 0 fun x =>
    { x with held := false, restarting := false, seenAt := 0, expiries := l })
theorem wit_watchdog : wdogOn (stillCore []) = true ∧ wdogMs (stillCore []) = 5 ∧
    gives (exec (.watchdogExpiry 0) (stillCore [1])) (fun t => (t.core 0).restarting && decide ((t.core 0).expiries.length = 2)) = true ∧
    gives (exec (.watchdogExpiry 0) (stillCore [1, 2])) (fun t => (t.core 0).held) = true ∧
    lockstepRecent { fenceUp with fence := { fenceUp.fence with lockstepAt := some 0 } } = true ∧ lockstepRecent fenceUp = false ∧
    gives (exec .lockstepMismatch { fenceUp with fence := { fenceUp.fence with lockstepAt := some 0 } }) (fun t => t.fence.safe) = true ∧
    gives (exec (.foreignWrite (.host 0) 0x10 1) fenceUp) (fun t => decide (t.fence.foreign = 1 ∧ t.fence.foreignAddr = 0x10)) = true := by decide +kernel

/-- A vector of a VF that is due, with its events, budget and masks. -/
def vectorUp (budget : Nat) (mask : Bool) : State :=
  up.onFunc 1 fun x => { x with cause := 1, budget := budget, fnMask := false, vecs := x.vecs.set 0 { x.vecs[0] with addr := 0x50000, data := 0xABCD, mask := mask, modCount := 1, modTime := 0, events := 1 } }
theorem wit_interrupts : irqReady (vectorUp 1 false) 1 0 = true ∧ irqReady (vectorUp 1 true) 1 0 = false ∧ fnPart 1 ≠ none ∧
    gives (exec (.msixMessage 1 0) (vectorUp 1 false)) (fun t => decide (hostByte t 0x50000 = 0xCD ∧ (t.func 1).budget = 0)) = true ∧
    gives (exec (.msixMessage 1 0) (vectorUp 0 false)) (fun t => decide (hostByte t 0x50000 = 0 ∧ (t.func 1).throttled = 1)) = true ∧
    (vectorUp 0 false).time.toNat % 1000000 = 0 ∧ (List.finRange 8).all (fun v => !(((vectorUp 0 false).func 1).vecs[v]).late) = true ∧
    (List.finRange 8).all (fun v => !irqReady ((vectorUp 1 true).onFunc 1 fun x => { x with fnMask := false }) 1 v) = true := by decide +kernel

/-! ### Witnesses: the fabric -/

/-- Device 1 with ports 0 and 1 up and a window of 16. -/
def fabUp : State :=
  let s := { jobsUp with dev := { jobsUp.dev with bvl := { jobsUp.dev.bvl with devId := 1, etherType := 0x88B5, macPrefix := 0x4B5102, window := 16, replayMs := 1, eligible := true } } }
  onPort 1 (fun x => { x with state := 2 }) (onPort 0 (fun x => { x with state := 2 }) s)
/-- A frame of device 2 to port 0: type, PSN, ADDR, AUX, further header bits and payload. -/
def frameIn (ty psn addr aux : Nat) (more : List (Nat × Nat × Nat)) (data : List Byte) : Frame :=
  { fcsOk := true, etherType := 0x88B5, dstMac := macOf fabUp 1 0, srcMac := macOf fabUp 2 0, tag := none
    header := bits ([(0, 0, 1), (0, 4, ty), (0, 16, 2), (4, 0, 1), (8, 0, psn), (0x0C, 0, 0xFFFFFFFF), (0x14, 0, data.length), (0x18, 0, addr), (0x20, 0, crc32c data), (0x24, 0, aux)] ++ more)
    payload := data }
/-- The flow of port 0 and device 2. -/
def flowUp (g : Flow → Flow) (s : State) : State := onFlow 0 2 false 0 g s

/-- What `InOrder` asks, evaluated. -/
def inOrderB (s : State) (p : PortIx) (ty : Nat) (f : Frame) : Bool :=
  portUp s p && !frameBad s p f && decide (fTy f = ty) && !holdActive s && decide (fPsn f = expectedPsn s p f) && decide (crc32c f.payload = fCrc f) &&
    decide (f.payload.length = fld f.header 0x14 15 0)
theorem inOrder_of {s : State} {p : PortIx} {ty : Nat} {f : Frame} (h : inOrderB s p ty f = true) : InOrder s p ty f := by
  simp only [inOrderB, Bool.and_eq_true, decide_eq_true_eq, Bool.not_eq_true'] at h
  obtain ⟨⟨⟨⟨⟨⟨h1, h2⟩, h3⟩, h4⟩, h5⟩, h6⟩, h7⟩ := h
  exact { up := h1, good := h2, type := h3, noHold := h4, next := ⟨h5, h6, h7⟩ }

/-- A fabric descriptor: WRITE or READ of so many bytes between T2 here and T2 of device 2. -/
def fabD (op bytes loc : Nat) : BitVec 512 :=
  bits [(0, 0, op), (4, 0, 0xFFFFFFFF), (8, 0, loc), (0x10, 0, 0x200040000), (0x18, 0, bytes), (0x1C, 0, 2), (0x20, 0, 0xFFFFFFFF), (0x24, 0, 9)]
theorem fabric_idle : FabricIdle fabUp := by unfold FabricIdle; decide +kernel
theorem wit_fabric_descriptors : (fabUp.part 0).resetStep = .none ∧ (fabUp.part 0).defined = true ∧ checkFabric (fabD 0 256 0x200000000) fabUp = none ∧
    checkFabric (fabD 1 256 0x200000000) fabUp = none ∧ checkFabric (fabD 0 255 0x200000000) fabUp = some 1 ∧ checkFabric (fabD 0 256 0x200000001) fabUp = some 4 ∧
    chunkCount (fabD 0 256 0x200000000) = 1 ∧ tierOf fabUp 0x200000000 = .t2 ∧ portFor fabUp 0x200000000 0 2 = some 0 ∧ windowOpen fabUp 0 2 false = true ∧
    holdActive (held fabUp) = true ∧
    gives (exec (.fabricWrite (fabD 0 256 0x200000000)) fabUp) (fun t => decide ((t.part 0).fabric.length = 1 ∧ t.bvl.wire.length = 1)) = true ∧
    gives (exec (.fabricRead (fabD 1 256 0x200000000)) fabUp) (fun t => (lastFrame t).any fun e => fTy e.2 == 1 && e.2.payload.length == 12) = true ∧
    gives (exec (.fabricWrite (fabD 0 256 0x200000001)) fabUp) (fun t => decide ((t.part 0).fabricRing.length = 1)) = true ∧
    gives (exec (.fabricWrite (fabD 0 256 0x200000000)) (held fabUp)) (fun t => decide ((t.part 0).fabric.length = 1 ∧ t.bvl.wire = [])) = true := by decide +kernel

/-- A good WRITE of two bytes, the first of its flow. -/
def writeF : Frame := frameIn 0 5 0x200050000 0 [] [0xAA, 0xBB]
theorem wit_write_frame : InOrder fabUp 0 0 writeF ∧ gives (exec (.writeFrame 0 writeF) fabUp) (fun t => decide ((t.cistern 0).chunks.length + (t.cistern 1).chunks.length = 1) &&
    ((flowOf t 0 2 false).any fun x => x.expected == 6 && x.sinceAck == 1)) = true :=
  ⟨inOrder_of (by decide +kernel), by decide +kernel⟩
/-- A READ_REQ for two bytes at a T2 address, and at one outside the partition. -/
def reqF (addr : Nat) : Frame := frameIn 1 0 addr 0 [] (bytesOf 8 0x1234 ++ bytesOf 4 2)
theorem wit_read_request : InOrder fabUp 0 1 (reqF 0x200050000) ∧ InOrder fabUp 0 1 (reqF 0x21FFFFFFF) ∧ fabricEnd fabUp 0 0x200050000 2 = true ∧
    fabricEnd fabUp 0 0x21FFFFFFF 2 = false ∧
    gives (exec (.readReq 0 (reqF 0x200050000)) fabUp) (fun t => (lastFrame t).any fun e => fTy e.2 == 2 && e.2.payload == [0, 0] && (fAddr e.2).toNat == 0x1234) = true ∧
    gives (exec (.readReq 0 (reqF 0x21FFFFFFF)) fabUp) (fun t => (lastFrame t).any fun e => e.2.payload.isEmpty && fAux e.2 == 5) = true :=
  ⟨inOrder_of (by decide +kernel), inOrder_of (by decide +kernel), by decide +kernel, by decide +kernel, by decide +kernel, by decide +kernel⟩

/-- The only transfer of partition 0. -/
def transfers (o : FabricOp) : State := fabUp.onPart 0 fun x => { x with fabric := [o] }
/-- A READ of 256 bytes, and a page of its data. -/
def readOp : FabricOp := { desc := fabD 1 256 0x200000000, isRead := true, sent := 1, acked := [], received := [], status := 0 }
def dataF (aux : Nat) (data : List Byte) : Frame := frameIn 2 5 0x200000000 aux [(0x10, 0, 9)] data
theorem wit_read_data : InOrder (transfers readOp) 0 2 (dataF 0 [7, 8]) ∧ readFor (transfers readOp) (dataF 0 [7, 8]) = some 0 ∧
    InOrder (transfers readOp) 0 2 (dataF 5 []) ∧ readFor fabUp (dataF 5 []) = none ∧
    gives (exec (.readData 0 (dataF 5 [])) (transfers readOp)) (fun t => decide ((t.part 0).fabric = [] ∧ (t.part 0).fabricRing.length = 1)) = true :=
  ⟨inOrder_of (by decide +kernel), by decide +kernel, inOrder_of (by decide +kernel), by decide +kernel, by decide +kernel⟩

/-- A chunk waits at cistern 0. -/
def chunkUp (f : Frame) (s : State) : State := s.onCis 0 fun c => { c with chunks := [{ port := 0, frame := f }] }
theorem wit_chunks : onePage fabUp 0x200050000 2 ∧ fabricEnd fabUp 0 0x200050000 2 = true ∧ epochCheck (cisEpoch fabUp 0 0) 0xFFFFFFFF = .accept ∧
    gives (exec (.chunkMemoryEntry 0 true true) (chunkUp writeF fabUp)) (fun t => decide (ramByte t 0x200050001 = 0xBB ∧ (t.cistern 0).chunks = [])) = true ∧
    gives (exec (.chunkMemoryEntry 0 false true) (chunkUp writeF fabUp)) (fun t => (lastFrame t).any fun e => fTy e.2 == 5 && (e.2.payload.drop 16).take 1 == [3]) = true ∧
    gives (exec (.chunkMemoryEntry 0 true false) (chunkUp writeF fabUp)) (fun t => (lastFrame t).any fun e => fTy e.2 == 5 && (e.2.payload.drop 16).take 1 == [4]) = true :=
  ⟨by unfold onePage; decide +kernel, by decide +kernel, by decide +kernel, by decide +kernel, by decide +kernel, by decide +kernel⟩

/-- The same chunk outside the partition's ranges, under a COUNT that a VALID slot does not have, and to a slot that is not VALID. -/
def farF : Frame := frameIn 0 5 0x21FFF0000 0 [(4, 12, 4)] [0xAA]
def slotF : Frame := { writeF with header := writeF.header &&& ~~~(bits [(0x0C, 0, 0xFFFFFFFF)]) ||| bits [(0x0C, 0, 0x03000001)] }
theorem wit_late_chunks : onePage fabUp 0x21FFF0000 1 ∧ fabricEnd fabUp 4 0x21FFF0000 1 = false ∧ fDstPart farF = 4 ∧
    gives (exec (.chunkMemoryEntry 0 true true) (chunkUp farF fabUp)) (fun t => (lastFrame t).any fun e => (e.2.payload.drop 16).take 1 == [1]) = true ∧
    epochCheck (cisEpoch fabUp 0 0) 0x03000001 = .foreign ∧ epochCheck (cisEpoch (writeSlot 0 3 (slotEntry true 2) fabUp) 0 0) 0x03000001 = .stale ∧
    gives (exec (.chunkMemoryEntry 0 true true) (chunkUp slotF fabUp)) (fun t => (lastFrame t).any fun e => (e.2.payload.drop 16).take 1 == [2]) = true ∧
    gives (exec (.chunkMemoryEntry 0 true true) (chunkUp slotF (writeSlot 0 3 (slotEntry true 2) fabUp))) (fun t => decide (ramByte t 0x200050001 = 0) && (lastFrame t).isNone) = true :=
  ⟨by unfold onePage; decide +kernel, by decide +kernel, by decide +kernel, by decide +kernel, by decide +kernel, by decide +kernel, by decide +kernel⟩

theorem wit_read_chunk : let f := dataF 0 [7, 8]
    onePage (transfers readOp) 0x200000000 2 ∧ chunkOfLocal readOp.desc 0x200000000 = 0 ∧ chunkCount readOp.desc = 1 ∧
      gives (exec (.chunkMemoryEntry 0 true true) (chunkUp f (transfers readOp))) (fun t => decide (ramByte t 0x200000001 = 8 ∧ (t.part 0).fabric = [] ∧ (t.part 0).fabricRing.length = 1)) = true :=
  ⟨by unfold onePage; decide +kernel, by decide +kernel, by decide +kernel, by decide +kernel⟩

theorem wit_bad_frames : portUp fabUp 7 = false ∧ frameBad fabUp 0 { writeF with fcsOk := false } = true ∧
    gives (exec (.writeFrame 0 { writeF with fcsOk := false }) fabUp) (fun t => decide ((t.cistern 0).link.badFrame = 1)) = true ∧
    (let s := flowUp (fun x => { x with expected := 3 }) fabUp
     fPsn writeF ≠ expectedPsn s 0 writeF ∧ gives (exec (.writeFrame 0 writeF) s) (fun t => (lastFrame t).any fun e => fTy e.2 == 4 && fAux e.2 == 3) = true) ∧
    (let s := flowUp (fun x => { x with expected := 5, sinceAck := 7 }) fabUp
     gives (exec (.writeFrame 0 writeF) s) (fun t => (lastFrame t).any fun e => fTy e.2 == 3 && fAux e.2 == 5) = true) ∧
    (let s := held (flowUp id fabUp)
     gives (exec (.writeFrame 0 writeF) s) (fun t => (lastFrame t).any fun e => fTy e.2 == 3 && fHold e.2) = true) := by decide +kernel

/-- Two frames to device 2 are not acknowledged. -/
def sentF (psn : Nat) : Frame := { frameIn 0 psn 0x200040000 0 [(0x10, 0, 9)] [1] with header := bits [(0, 0, 1), (0, 16, 1), (4, 0, 2), (8, 0, psn), (0x10, 0, 9), (0x18, 0, 0x200040000)] }
def sentUp (s : State) : State := flowUp (fun x => { x with unacked := [sentF 4, sentF 5], timeouts := 2, timeoutUs := 80, sinceAck := 3, expected := 9 }) s
theorem wit_acks : gives (exec (.ack 0 (frameIn 3 0 0 4 [] [])) (sentUp fabUp)) (fun t => (flowOf t 0 2 false).any fun x => x.unacked == [sentF 5] && x.timeouts == 0 && x.timeoutUs == 20) = true ∧
    portUp (sentUp fabUp) 0 = true ∧ frameBad (sentUp fabUp) 0 (frameIn 3 0 0 4 [] []) = false ∧
    gives (exec (.nak 0 (frameIn 4 0 0 5 [] [])) (sentUp fabUp)) (fun t => decide (t.bvl.wire = [(0, sentF 5)])) = true ∧
    gives (exec (.ackTimer 0 2 false) (sentUp fabUp)) (fun t => (lastFrame t).any fun e => fTy e.2 == 3 && fAux e.2 == 8) = true ∧
    gives (exec (.retransmitTimeout 0 2 false) (sentUp fabUp)) (fun t => decide (t.bvl.wire.length = 2) && (flowOf t 0 2 false).any fun x => x.timeouts == 3 && x.timeoutUs == 160) = true ∧
    (let s := flowUp (fun x => { x with unacked := [sentF 4], timeouts := 7 }) fabUp
     nextPort s 0 = some 1 ∧ gives (exec (.retransmitTimeout 0 2 false) s) (fun t => (t.bvl.wire.map fun e => (e.1, fRestart e.2)) == [(1, true)]) = true) := by decide +kernel

/-- A WRITE of one page whose frame is not acknowledged, for more than 1 ms. -/
def writeOp : FabricOp := { desc := fabD 0 256 0x200000000, isRead := false, sent := 1, acked := [], received := [], status := 0 }
theorem wit_write_ends : let s := flowUp (fun x => { x with unacked := [sentF 4], stalled := some 0 }) (transfers writeOp)
    chunkCount writeOp.desc = 1 ∧ fTy (sentF 4) = 0 ∧ fSrcPart (sentF 4) = 0 ∧ (fXfer (sentF 4)).toNat = fdXfer writeOp.desc ∧
      BitVec.ofNat 12 (fld (sentF 4).header 0x04 11 0) = fdDev writeOp.desc ∧ (fAddr (sentF 4)).toNat = fdRemote writeOp.desc ∧
      gives (exec (.ack 0 (frameIn 3 0 0 4 [] [])) s) (fun t => decide ((t.part 0).fabric = [] ∧ (t.part 0).fabricRing.length = 1)) = true ∧
      gives (exec (.fabricUnreachable 2) (later 1000000 s)) (fun t => decide ((t.part 0).fabric = [] ∧ (t.cistern 0).link.unreach = 1)) = true := by decide +kernel

/-- A late error of a chunk at ADDR, with a cause, and the job that it names. -/
def lateF (cause : Byte) : Frame := frameIn 5 0 0 0 [] (bytesOf 4 0x05FFFFFE ++ bytesOf 4 9 ++ bytesOf 8 0x200040000 ++ [cause])
def lateUp (j : Job) (ns : Nat) : State :=
  later ns (fabUp.onPart 0 fun x => { x with jobs := [j], fabric := [], fabricOld := [{ writeOp with desc := fabD 0 2 0x200000000, acked := [(0, 0)] }] })
theorem wit_late_error : InOrder (lateUp (jobIn .running .none true) 0) 0 5 (lateF 3) ∧
    (liveJobs (lateUp (jobIn .running .none true) 0) 0).length = 1 ∧ (ackedChunk (lateUp (jobIn .running .none true) 0) 0 9 0x200040000).isSome = true ∧
    gives (exec (.lateErr 0 (lateF 3)) (lateUp (jobIn .running .none true) 1000000)) (fun t => (t.part 0).jobs.all (fun k => !k.passFailed) && (lastFrame t).any fun e => fTy e.2 == 0) = true ∧
    gives (exec (.lateErr 0 (lateF 3)) (lateUp (jobIn .running .none true) 1000001)) (fun t => (t.part 0).jobs.all (·.passFailed)) = true ∧
    gives (exec (.lateErr 0 (lateF 1)) (lateUp (jobIn .running .none true) 0)) (fun t => (t.part 0).jobs.all (·.passFailed)) = true ∧
    gives (exec (.lateErr 0 (lateF 3)) (lateUp (jobIn .failed .none false) 0)) (fun t => decide ((t.part 0).counts[7] = 1)) = true ∧
    gives (exec (.lateErr 0 (lateF 3)) fabUp) (fun t => decide ((t.cistern 0).link.lateIgnored = 1)) = true :=
  ⟨inOrder_of (by decide +kernel), by decide +kernel, by decide +kernel, by decide +kernel, by decide +kernel, by decide +kernel, by decide +kernel, by decide +kernel⟩

/-- SETTLE and SETTLE_DONE of device 2. -/
theorem wit_settle : InOrder fabUp 0 6 (frameIn 6 0 0 0x05FFFFFE [] []) ∧ InOrder fabUp 0 7 (frameIn 7 0 0 0x05FFFFFE [] []) ∧
    gives (exec (.settle 0 (frameIn 6 0 0 0x05FFFFFE [] [])) fabUp) (fun t => decide ((t.cistern 0).settles.length = 1) &&
      gives (exec (.settleDoneSend 0 2) t) (fun u => (lastFrame u).any fun e => fTy e.2 == 7 && fAux e.2 == 0x05FFFFFE)) = true ∧
    (let s := fabUp.onPart 0 fun x => { x with jobs := [{ jobIn .running .none true with settled := [(2, 0, false)] }] }
     gives (exec (.settleDone 0 (frameIn 7 0 0 0x05FFFFFE [] [])) s) (fun t => (t.part 0).jobs.all fun k => k.settled == [(2, 0, true)]) = true ∧
       gives (exec (.settleTimeout 0 2) (later 1000000 s)) (fun t => (t.part 0).jobs.all (·.passFailed)) = true ∧
       gives (exec (.settleTimeout 0 2) (later 999999 s)) (fun t => (t.part 0).jobs.all fun k => !k.passFailed) = true) :=
  ⟨inOrder_of (by decide +kernel), inOrder_of (by decide +kernel), by decide +kernel, by decide +kernel, by decide +kernel, by decide +kernel⟩

/-- Port 0 in a state. -/
def portIn (g : Port → Port) : State := onPort 0 g fabUp
theorem wit_lanes : (fabUp.bvl.ports[(0 : Fin 8)]).state = 2 ∧ (fabUp.bvl.ports[(0 : Fin 8)]).laneBad = 0 ∧ (fabUp.bvl.ports[(0 : Fin 8)]).narrow = false ∧
    gives (exec (.laneFault 0 7 false) fabUp) (fun t => (t.bvl.ports[(0 : Fin 8)]).narrow && decide ((t.bvl.ports[(0 : Fin 8)]).state = 1 ∧ (t.bvl.ports[(0 : Fin 8)]).laneBad = 0x80)) = true ∧
    (let s := portIn fun x => { x with state := 3, narrow := true, laneBad := 1 }
     halfGood s.bvl.ports[(0 : Fin 8)] 0 = false ∧ gives (exec (.laneFault 0 7 false) s) (fun t => decide ((t.bvl.ports[(0 : Fin 8)]).state = 4)) = true) ∧
    (let s := portIn fun x => { x with state := 1, fails := 2 }
     gives (exec (.laneFault 0 3 true) s) (fun t => decide ((t.bvl.ports[(0 : Fin 8)]).state = 4)) = true ∧
       gives (exec (.portTrained 0 true) s) (fun t => decide ((t.bvl.ports[(0 : Fin 8)]).state = 2)) = true ∧
       gives (exec (.portTrained 0 false) s) (fun t => decide ((t.bvl.ports[(0 : Fin 8)]).state = 3)) = true) ∧
    (let s := portIn fun x => { x with state := 1, narrow := true }
     gives (exec (.portTrained 0 true) s) (fun t => decide ((t.bvl.ports[(0 : Fin 8)]).state = 4)) = true) := by decide +kernel

theorem wit_time : portUp fabUp 0 = true ∧ frameBad fabUp 0 (frameIn 8 0 0 0 [] []) = false ∧ fTy (frameIn 8 0 0 0 [] []) = 8 ∧ fabUp.bvl.isMaster = false ∧
    gives (exec (.timeFrame 0 (frameIn 8 0 0 0 [] [])) fabUp) (fun t => decide (t.bvl.master = 2)) = true ∧ fabUp.bvl.exchanges.length ≤ 8 ∧
    gives (exec (.timeExchange 10 25 27 20 true) fabUp) (fun t => decide (t.bvl.exchanges = [{ offset := 11, trip := 8 }])) = true ∧
    (let s := later 2000000 { fabUp with bvl := { fabUp.bvl with exchanges := [{ offset := 11, trip := 8 }], holdover := false, slewOnly := false } }
     bestExchange s.bvl.exchanges = some { offset := 11, trip := 8 } ∧ gives (exec .timeAdjust s) (fun t => decide (t.time = 2000011) && t.bvl.synced) = true ∧
       gives (exec .timeAdjust { s with bvl := { s.bvl with slewOnly := true, exchanges := [{ offset := -900, trip := 8 }] } }) (fun t => decide (t.time = 2000000 ∧ t.bvl.slew = -50)) = true) ∧
    (let s := later 100000000 fabUp
     gives (exec .holdoverEntry s) (fun t => t.bvl.holdover) = true ∧ gives (exec .masterClaim s) (fun t => t.bvl.isMaster && decide (t.bvl.master = 1)) = true) ∧
    (let s := later 1000000 { fabUp with pins := { fabUp.pins with syncOn := true, pins := Vector.replicate 8 .run } }
     gives (exec .syncPulse s) (fun t => decide (t.pins.syncAt = some 1000000)) = true) := by decide +kernel

/-! ### Witnesses: register accesses and the mailbox -/

/-- Function f writes a word through a BAR. -/
def busW (f : FnIx) (bar : Fin 3) (off : BitVec 16) (len : Nat) (d : DWord) : Instr := .registerWrite (.bus { fn := f, bar := bar, offset := off, len := len, data := d })
theorem wit_register_reads : isWide (.plot 0) 0x118 = true ∧ badAccess 0x118 4 = none ∧ badAccess 0x118 2 = none ∧ badAccess 0x11D 4 = some 1 ∧ isWide .pf0 8 = true ∧
    hostPlace up pf0Fn .pf0 8 = some (0, 8) ∧ fnExists up pf0Fn = true ∧ fnExists up 1 = false ∧ hostPlace up 1 (.vf 0) 8 = some (0, 8) ∧
    gives (exec (.windowSelect 0x10 3) up) (fun t => decide (t.pf0.winBlock = 0x10 ∧ t.pf0.winPage = 3)) = true ∧
    gives (exec (.lowHalfRead .core (.plot 0) 0x118 4) up) (fun t => decide (latchedRead t t.alm.latch (.plot 0) 0x11C = 0)) = true ∧
    (let s := { up with time := 0x500000007 }
     gives (exec (.lowHalfRead (.host pf0Fn) .pf0 8 4) s) (fun t => decide (latchedRead { t with time := 0 } (t.func pf0Fn).latch .pf0 12 = 5)) = true) := by decide +kernel

theorem wit_register_writes : same (exec (.registerWrite (.core (.plot 0) 0x14 4 4)) up) (match exec (.plotReset 0 0) up with
      | .next t => t
      | _ => up) = true ∧
    gives (exec (.registerWrite (.core (.plot 0) 0x14 4 4)) up) (fun t => decide ((t.plot 0).mode = .reset)) = true ∧
    same (exec (.registerWrite (.core (.plot 0) 0x14 2 4)) up) up = true ∧
    gives (exec (.registerWrite (.core (.bed 0) 0x1004 4 0x1000007)) up) (fun t => decide (bedEpoch t 0 1 = 0x1000007 ∧ bedEpoch t 0 0 = bedEpoch up 0 0)) = true ∧
    gives (exec (.registerWrite (.core (.cistern 0) 0x308 4 9)) (up.onCis 0 fun x => { x with dir := { x.dir with reads := 5 } })) (fun t => decide ((t.cistern 0).dir.reads = 0)) = true ∧
    same (exec (.registerWrite (.core .pf0 0 4 9)) up) up = true ∧
    gives (exec (.registerWrite (.core .fence 4 4 9)) up) (fun t => decide (t.fence.foreign = 1 ∧ t.fence.foreignSrc = 1)) = true ∧
    same (exec (busW 1 0 0x400 4 0) up) up = true ∧ badAccess 0x405 4 = some 1 ∧
    gives (exec (busW pf0Fn 2 4 4 9) up) (fun t => decide (t.fence.foreign = 1 ∧ t.fence.foreignSrc ≠ 1)) = true ∧
    (let s := { up with fns := up.fns.set 0 { (up.func 0) with cause := 3 } }
     gives (exec (busW pf0Fn 0 0x400 4 1) s) (fun t => decide ((t.func 0).cause = 2)) = true) ∧
    badAccess 0x400 2 = none ∧ gives (exec (busW pf0Fn 0 0x400 2 1) up) (fun t => decide ((t.func 0) ≠ up.func 0)) = true ∧
    gives (exec (.atsInvalidation pf0Fn 0 4096) up) (fun t => decide ((t.func 0).atsDone = 1)) = true := by decide +kernel

/-- The mailbox with an operation in progress, and bytes in its buffer. -/
def mbxUp (op : MbxOp) : State := { up with pf0 := { up.pf0 with mbxBusy := decide (op ≠ .none), mbxOp := op, mbxData := tabWrite 0 up.pf0.mbxData 0 (txt "HELP") } }
theorem wit_mailbox_starts : (mbxUp .none).pf0.mbxBusy = false ∧ (mbxUp .monitor).pf0.mbxBusy = true ∧ parseLine (tabRead 0 (mbxUp .none).pf0.mbxData 0 4) = .ok .monitorHelp ∧
    (match parseLine (tabRead 0 (mbxUp .none).pf0.mbxData 0 3) with
      | .error _ => true
      | _ => false) = true ∧
    gives (exec (.mailboxMonitor 4) (mbxUp .none)) (fun t => decide (t.monitor.lines = [(true, txt "HELP")])) = true ∧
    gives (exec (.mailboxMonitor 3) (mbxUp .none)) (fun t => decide (t.monitor.lines = []) && t.pf0.mbxBusy) = true ∧
    gives (exec (.mailboxMonitor 4) (mbxUp .monitor)) (fun t => decide (t.monitor.lines = [])) = true := by decide +kernel

/-- Copy 1 is in use, and copy 0 holds a byte. -/
def flashUp (op : MbxOp) : State :=
  let s := mbxUp op
  { s with image := { s.image with copy := 1, flash := s.image.flash.set 0 (tabSet 0xFF s.image.flash[0] 0x100 0x4A) } }
theorem wit_image_copies : copyRefused (flashUp .none) 1 = true ∧ copyRefused (flashUp .none) 0 = false ∧ imageWriteBad 0 256 = false ∧ imageWriteBad 0 257 = true ∧
    tabWf 0xFF (flashUp .none).image.flash[(0 : Fin 2)] = true ∧ tabWf 0 (flashUp .none).pf0.mbxData = true ∧
    gives (exec (.imageErase 1) (flashUp .none)) (fun t => decide (tabGet 0xFF t.image.flash[(0 : Fin 2)] 0x100 = 0x4A ∧ t.pf0.mbxOp = .erase 1 true)) = true ∧
    gives (exec (.imageErase 0) (flashUp .none)) (fun t => decide (tabGet 0xFF t.image.flash[(0 : Fin 2)] 0x100 = 0xFF)) = true ∧
    (let s := flashUp .none
     gives (exec (.imageWrite 0 256) { s with pf0 := { s.pf0 with mbxArg := 0x100 } }) (fun t => decide (tabGet 0xFF t.image.flash[(0 : Fin 2)] 0x100 = 0x48 ∧ tabGet 0xFF t.image.flash[(0 : Fin 2)] 0x1FF = 0)) = true) := by decide +kernel

theorem wit_mailbox_completes : same (exec (.mailboxComplete false) (mbxUp .none)) (mbxUp .none) = true ∧
    gives (exec (.mailboxComplete false) (flashUp (.erase 0 false))) (fun t => decide (t.pf0.mbxResult = 0 ∧ t.pf0.mbxOp = .none) && (t.func pf0Fn).cause.getLsbD 7) = true ∧
    gives (exec (.mailboxComplete true) (flashUp (.write 0 0 256 0))) (fun t => decide (t.pf0.mbxResult = 2)) = true ∧
    gives (exec (.mailboxComplete false) (flashUp (.write 0 0 257 3))) (fun t => decide (t.pf0.mbxResult = 3)) = true ∧
    gives (exec (.mailboxComplete false) (flashUp (.erase 1 true))) (fun t => decide (t.pf0.mbxResult = 1)) = true ∧
    gives (exec (.mailboxComplete false) (flashUp (.check 0 false))) (fun t => decide (t.pf0.mbxResult = 0 ∧ t.pf0.mbxLen ≠ 0)) = true ∧
    gives (exec (.mailboxComplete false) (mbxUp .monitor)) (fun t => decide (t.pf0.mbxResult = 0)) = true ∧
    (let s := { mbxUp .monitor with monitor := { up.monitor with lines := [(true, txt "HELP")] } }
     same (exec (.mailboxComplete false) s) s = true) := by decide +kernel

/-! ### Witnesses: stake pins and the management SPI -/

/-- Pin 1 in a state since 0, in phase 2, at a time; the monitor serves the UART. -/
def pinUp (p : PinPhase) (ns : Nat) : State :=
  later ns { up with pins := { up.pins with pins := (Vector.replicate 8 PinPhase.run).set 1 p, pinAt := Vector.replicate 8 0, phase := 2 }, image := { up.image with monitorStrap := true } }
theorem wit_pins : gives (exec (.parkEnd 1) (pinUp .park 2000)) (fun t => decide (t.pins.pins[(1 : Fin 8)] ≠ .park ∧ t.pins.phase = 3)) = true ∧
    same (exec (.parkEnd 1) (pinUp .park 1999)) (pinUp .park 1999) = true ∧ same (exec (.parkEnd 1) (pinUp .run 2000)) (pinUp .run 2000) = true ∧
    gives (exec (.inputBlankingEnd 1 true) (pinUp .blank 1000)) (fun t => decide (t.pins.pins[(1 : Fin 8)] = .run) && t.pins.levels.getLsbD 1) = true ∧
    (let s := pinUp .run 1000
     gives (exec (.inputBlankingEnd 3 false) { s with pins := { s.pins with pins := s.pins.pins.set 3 .blank } }) (fun t => t.fence.throttleLow) = true) ∧
    (let s := cores (pinUp .run 500000000)
     gives (exec .beatToggle { s with pins := { s.pins with beat := false, beatAt := 0 } }) (fun t => t.pins.beat) = true ∧
       gives (exec .beatToggle { s with pins := { s.pins with beat := false, beatAt := 1 } }) (fun t => !t.pins.beat) = true) := by decide +kernel

/-- The UART serves, with characters of a line, and lines that wait. -/
def uartUp (line : List Byte) (lines : List (Bool × List Byte)) (waiting : Nat) : State :=
  let s := pinUp .run 0
  { s with pins := { s.pins with uartLine := line, fifo := List.replicate waiting 0x41 }, monitor := { s.monitor with lines := lines } }
theorem wit_uart : uartServes (uartUp [] [] 0) = true ∧ uartServes (pinUp .park 0) = false ∧
    gives (exec (.uartCharacter 0x41 true) (uartUp [] [] 0)) (fun t => decide (t.pins.uartOut = [0x41] ∧ t.pins.uartLine = [0x41])) = true ∧
    gives (exec (.uartCharacter 0x41 false) (uartUp [] [] 0)) (fun t => decide (t.pins.framing = 1)) = true ∧
    parseLine (txt "TIME") = .ok .monitorTime ∧
    gives (exec (.uartCharacter 13 true) (uartUp (txt "TIME") [] 0)) (fun t => decide (t.monitor.lines = [(false, txt "TIME")] ∧ t.pins.uartLine = [])) = true ∧
    gives (exec (.uartCharacter 0x41 true) (uartUp [] [(false, txt "TIME")] 255)) (fun t => decide (t.pins.fifo.length = 256)) = true ∧
    gives (exec (.uartCharacter 0x41 true) (uartUp [] [(false, txt "TIME")] 256)) (fun t => decide (t.pins.fifo.length = 256 ∧ t.pins.overflow = 1)) = true := by decide +kernel

/-- The management SPI awake, the Fence loaded or not. -/
def spiUp (loaded : Bool) : State := later 200000 { up with fence := { up.fence with loaded := loaded }, pins := { up.pins with spiPartial := 7 } }
/-- How a frame ended with this result. -/
def spiGives (c : Instr) (s : State) (result : Nat) (g : State → Bool) : Bool := gives (exec c s) fun t => decide (t.pins.spiResult.toNat = result ∧ t.pins.spiFrames = s.pins.spiFrames + 1) && g t
theorem wit_spi : spiAwake (spiUp true) = true ∧ spiAwake up = false ∧ spiUnready (spiUp false) 0 = true ∧ spiUnready (spiUp true) 0 = false ∧
    spiPlace (spiAddr 0) = some (some .fence, 0) ∧ spiPlace (spiAddr 0x300004) = some (none, 4) ∧ spiPlace (spiAddr 0x400000) = none ∧
    same (exec (.mgtReadFrame 0 { words := 2, partialWord := false }) up) up = true ∧
    spiGives (.mgtReadFrame 1 { words := 2, partialWord := false }) (spiUp true) 4 (fun t => decide (t.pins.spiRefused = 1)) = true ∧
    spiGives (.mgtReadFrame 0 { words := 1, partialWord := false }) (spiUp true) 1 (fun t => decide (t.pins.spiPartial = 8)) = true ∧
    spiGives (.mgtReadFrame 0 { words := 2, partialWord := false }) (spiUp false) 5 (fun t => decide (t.pins.spiMiso.length = 3)) = true ∧
    spiGives (.mgtReadFrame 4 { words := 2, partialWord := false }) (spiUp true) 0 (fun t => decide (t.pins.spiMiso.drop 2 = [BitVec.ofNat 32 (latchedRead (spiUp true) [] .fence 4)])) = true ∧
    spiGives (.mgtReadFrame 0x400000 { words := 2, partialWord := false }) (spiUp true) 0 (fun t => decide (t.pins.spiMiso.drop 2 = [0])) = true ∧
    spiGives (.mgtWriteFrame 0x80000000 [9] { words := 0, partialWord := false }) (spiUp true) 1 (fun _ => true) = true ∧
    spiGives (.mgtWriteFrame 0x80400000 [9] { words := 2, partialWord := false }) (spiUp true) 2 (fun _ => true) = true ∧
    spiGives (.mgtWriteFrame 0x80000004 [9] { words := 1, partialWord := false }) (spiUp true) 3 (fun t => decide (t.fence.foreign = 1)) = true ∧
    spiGives (.mgtWriteFrame 0x80100000 [9] { words := 1, partialWord := false }) (spiUp true) 3 (fun t => decide (t.fence = (spiUp true).fence)) = true ∧
    spiGives (.mgtWriteFrame 0x80300004 [9] { words := 1, partialWord := false }) (spiUp true) 0 (fun t => decide (t.pins.spiPartial = 0)) = true := by decide +kernel

theorem wit_management_reset : (spiUp true).image.boot = .done ∧ (spiUp true).image.replant = none ∧ ((spiUp true).part 0).defined = true ∧ ((spiUp true).part 1).defined = false ∧
    ((spiUp true).part 0).resetStep = .none ∧
    gives (exec (.mgtPartReset 3) (spiUp true)) (fun t => decide ((t.part 0).resetStep ≠ .none ∧ (t.part 1) = (spiUp true).part 1) &&
      gives (exec (.mgtPartReset 1) t) (fun u => decide ((u.part 0).absorbed = (t.part 0).absorbed + 1))) = true ∧
    gives (exec (.mgtPartReset 1) (held (spiUp true))) (fun t => decide ((t.part 0).resetStep ≠ .none ∧ (t.part 0).adm = 3)) = true := by decide +kernel

/-! ### Witnesses: collectives -/

/-- A collective descriptor: operation, VAR, root 0, sequence number 9, one page. -/
def collD (op var root : Nat) : BitVec 512 :=
  bits [(0, 0, op), (0, 5, var), (0, 16, 0x55), (4, 0, 0xFFFFFFFF), (8, 0, 0x200010000), (0x10, 0, 0x200020000), (0x18, 0, 256), (0x1C, 0, 256 * var), (0x20, 0, 0x200030000),
    (0x28, 0, root), (0x28, 12, 1), (0x28, 16, 6), (0x2C, 0, 9), (0x30, 0, 0x200040000), (0x38, 0, 100)]
/-- The group: this device and device 2. -/
def collUp : State := ramWrite 0x200010000 [5] (ramWrite 0x200030000 (bytesOf 16 (0x9A71 + 2 <<< 16) ++ bytesOf 16 (1 + 0xFFFFFFFF <<< 32) ++ bytesOf 16 (2 + 0xFFFFFFFF <<< 32)) fabUp)
theorem wit_collective_starts : (collUp.part 0).resetStep = .none ∧ (collUp.part 0).defined = true ∧ collUp.dev.traceEn = false ∧ (collUp.part 0).readies = [] ∧
    checkColl (collD 0 0 0) collUp = none ∧ checkColl (collD 1 1 0) collUp = none ∧ checkColl (collD 1 0 1) collUp = none ∧ checkColl (collD 0 0 2) collUp = some 3 ∧ checkColl (collD 2 0 0) collUp = some 1 ∧
    gives (exec (.broadcast (collD 0 0 0)) collUp) (fun t => decide ((t.part 0).colls.map (·.started) = [true] ∧ t.bvl.wire = [])) = true ∧
    gives (exec (.broadcast (collD 0 0 2)) collUp) (fun t => decide ((t.part 0).colls = [] ∧ (t.part 0).fabricRing.length = 1)) = true ∧
    gives (exec (.reduce (collD 1 0 1)) collUp) (fun t => decide ((t.part 0).colls.map (·.started) = [true] ∧ t.bvl.wire = [])) = true ∧
    gives (exec (.reduce (collD 1 0 1)) (held collUp)) (fun t => decide ((t.part 0).colls.map (·.started) = [false])) = true := by decide +kernel
theorem collUp_idle : FabricIdle collUp := by unfold FabricIdle; decide +kernel

/-- The collective as it stands once it has started. -/
def opOf (d : BitVec 512) : CollOp :=
  { desc := d, isReduce := cdOp d == 1, index := 0, members := 2, started := true, since := 0, ready := [], credits := 2, counts := [], countSent := false,
    early := [], added := [], acc := [], got := [], sentPages := 0, frames := [], status := 0 }
def collIn (o : CollOp) : State := collUp.onPart 0 fun x => { x with colls := [o] }
theorem in_collective (o : CollOp) (h : o.started = true) (h2 : o.status = 0) : InCollective (collIn o) 0 o :=
  { only := rfl, started := h, status := h2, noTrace := rfl }

theorem wit_no_collective : collOf collUp 0 9 = none ∧ gives (exec (.readyWrite 0 9 1 (collD 0 0 0) 2) collUp) (fun t => decide ((t.part 0).readies = [(9, 1, collD 0 0 0, 2)])) = true ∧
    same (exec (.creditWrite 0 9) collUp) collUp = true ∧ same (exec (.countArrival 0 9 1 0) collUp) collUp = true ∧ same (exec (.pageArrival 0 9 1 0 [1]) collUp) collUp = true ∧
    same (exec (.collTimeout 0 9) collUp) collUp = true := by decide +kernel

theorem wit_ready_disagrees : let c := opOf (collD 0 0 0)
    (receiversFrom c).contains (rankOf c.desc c.members 1) = true ∧ readyAgrees c (collD 0 0 0) 3 = false ∧
      gives (exec (.readyWrite 0 9 1 (collD 0 0 0) 3) (collIn c)) (fun t => decide ((t.part 0).colls = [] ∧ (t.part 0).fabricRing.length = 1 ∧ (t.cistern 1).link.collMismatch = 1)) = true := by
  decide +kernel

/-- A leaf: rank 1 of a REDUCE of two bytes whose root is device 2. -/
def leafC : CollOp := opOf ((collD 1 0 1) &&& ~~~(bits [(0x18, 0, 0xFFFFFFFF)]) ||| bits [(0x18, 0, 2)])
theorem leaf_of_reduce (c : CollOp) (h : c = leafC ∨ c = { leafC with ready := [0], credits := 0 }) : LeafOfReduce (collIn c) 0 c 0 := by
  rcases h with h | h <;> subst h <;> exact
    { only := rfl, started := rfl, status := rfl, noTrace := rfl
      isReduce := by decide +kernel, fixed := by decide +kernel, leaf := by decide +kernel, notRoot := by decide +kernel, nothing := ⟨rfl, rfl, rfl, rfl⟩, small := by decide +kernel,
      stage := by decide +kernel, src := by decide +kernel, noHold := by decide +kernel, port := by decide +kernel, room := by decide +kernel }
theorem wit_leaf_sends : (receiversFrom leafC).contains (rankOf leafC.desc leafC.members 1) = true ∧ readyAgrees leafC (collD 1 0 1) 2 = true ∧
    gives (exec (.readyWrite 0 9 1 (collD 1 0 1) 2) (collIn leafC)) (fun t => (lastFrame t).any fun e => e.1 == 0 && fTy e.2 == 0 && e.2.payload == [5, 0] &&
      (fAddr e.2).toNat == 0x200040000) = true ∧
    (let c := { leafC with ready := [0], credits := 0 }
     allReady c = true ∧ gives (exec (.creditWrite 0 9) (collIn c)) (fun t => decide (t.bvl.wire.length = 1)) = true) := by decide +kernel

theorem wit_counts : (let c := opOf (collD 0 1 1)
     cdVar c.desc = true ∧ (sendersTo c).contains (rankOf c.desc c.members 1) = true ∧
       gives (exec (.countArrival 0 9 1 257) (collIn c)) (fun t => decide ((t.part 0).colls = [] ∧ (t.part 0).fabricRing.length = 1)) = true) ∧
    (let c := opOf (collD 1 1 0)
     let s := held (collIn c)
     (sendersTo c).contains (rankOf c.desc c.members 1) = true ∧ collDone s 0 { c with counts := (rankOf c.desc c.members 1, 256) :: c.counts } = false ∧
       gives (exec (.countArrival 0 9 1 256) s) (fun t => decide ((t.part 0).colls.map (·.counts) = [[(1, 256)]])) = true) := by decide +kernel

/-- A BROADCAST of two bytes to a leaf. -/
def shortD : BitVec 512 := (collD 0 0 1) &&& ~~~(bits [(0x18, 0, 0xFFFFFFFF)]) ||| bits [(0x18, 0, 2)]
theorem wit_page : let c := opOf shortD
    c.isReduce = false ∧ cdVar c.desc = false ∧ ownChildren c = [] ∧ ownRank c ≠ 0 ∧ (sendersTo c).contains (rankOf c.desc c.members 1) = true ∧ cdBytes c.desc = 2 ∧
      epochCheck (cisEpoch (collIn c) 0 0) (cdEpoch c.desc) = .accept ∧ (collIn c).bvl.flows.all (fun x => x.unacked.isEmpty) = true ∧
      gives (exec (.pageArrival 0 9 1 0 [0xAA, 0xBB]) (collIn c)) (fun t => decide (ramByte t 0x200020001 = 0xBB ∧ (t.part 0).colls = [] ∧ (t.part 0).fabricRing.length = 1)) = true := by
  decide +kernel
theorem wit_page_place : onePage (collIn (opOf shortD)) (cdDst shortD) 2 := by unfold onePage; decide +kernel

theorem wit_collective_times_out : let c := opOf (collD 0 0 1)
    collWaiting c = true ∧ neighbourHeld (later 100001 (collIn c)) c = false ∧ same (exec (.collTimeout 0 9) (later 100000 (collIn c))) (later 100000 (collIn c)) = true ∧
      gives (exec (.collTimeout 0 9) (later 100001 (collIn c))) (fun t => decide ((t.part 0).colls = [] ∧ (t.cistern 0).link.collTimeout = 1)) = true := by decide +kernel

/-! ### Witnesses: the codec -/

/-- A stream of partition 0: an encoded one of 8 x 8 with an index at 0x9000, or a decoded one of 2 x 2. -/
def streamP (encode : Bool) : StreamParams :=
  { part := 0, encode := encode, params := if encode then bits [(0x20, 0, 0x9000), (0x28, 0, 16)] else 0, width := if encode then 8 else 2, height := if encode then 8 else 2,
    tileCols := 1, dpb := 0 }
def frameC : FrameCmd := { planes := 0x200010000, rowStride := 64, planeStride := 1024, coded := 0x8000, codedLen := 2, epoch := 0xFFFFFFFF }
/-- Both streams are open, in contexts 0 and 1, and pipes 0 and 4 are partition 0's. -/
def codecUp (frames : Bool) : State :=
  let pipe (x : Pipe) (ctx : BitVec 5) : Pipe := { x with owner := 0, owned := true, ctx := ctx, state := if frames then 1 else 0, frame := if frames then some frameC else none }
  { upT2 with codec := { upT2.codec with
      ctxs := (upT2.codec.ctxs.set 0 (some { sp := streamP true, frames := 0, outBytes := 0, index := 0 })).set 1 (some { sp := streamP false, frames := 0, outBytes := 0, index := 0 })
      pipes := (upT2.codec.pipes.set 0 (pipe upT2.codec.pipes[0] 0)).set 4 (pipe upT2.codec.pipes[4] 1) } }
/-- A result. -/
def codecR : CodecResult :=
  { coded := [0xC0, 0xDE], recoded := [], luma := [16, 235, 16, 235], cb := [128], cr := [128], deep := false, bt2020 := false, full := false, mono := false, overflow := false,
    overflowMax := false, bitstreamErr := false, unsupported := false, sramCe := 0, sramUe := 0, dmaOk := true }

theorem wit_streams : gives (exec (.streamOpen 2 (streamP true)) (codecUp false)) (fun t => (t.codec.ctxs[(2 : Fin 32)]).isSome) = true ∧
    same (exec (.streamOpen 0 (streamP false)) (codecUp false)) (codecUp false) = true ∧
    gives (exec (.streamClose 0) (codecUp false)) (fun t => (t.codec.ctxs[(0 : Fin 32)]).isNone) = true ∧ same (exec (.streamClose 0) (codecUp true)) (codecUp true) = true ∧
    (codecUp false).dev.traceEn = false ∧ gives (exec (.streamFrame 0 0 frameC) (codecUp false)) (fun t => decide ((t.codec.pipes[(0 : Fin 8)]).frame = some frameC)) = true ∧
    same (exec (.streamFrame 0 4 frameC) (codecUp false)) (codecUp false) = true ∧ same (exec (.streamFrame 0 0 frameC) (codecUp true)) (codecUp true) = true := by decide +kernel

/-- What the statement asks of a frame that ends. -/
def endsB (s : State) (pipe : PipeIx) (ctx : Fin 32) : Bool :=
  let y := s.codec.pipes[pipe]
  decide (y.frame = some frameC ∧ y.state = 1 ∧ y.ctx.toFin = ctx) && !holdActive s && !s.dev.traceEn && (frameJob s 0 frameC).isNone &&
    match s.codec.ctxs[ctx] with
    | some x => (frameRows x.sp frameC).all fun a => accessReady s x.sp.part none a.2.2 (2 * x.sp.width) (!x.sp.encode)
    | none => false
theorem wit_frames : endsB (codecUp true) 0 0 = true ∧ endsB (codecUp true) 4 1 = true ∧ frameStale (codecUp true) 0 frameC = false ∧
    gives (exec (.frameComplete 0 { codecR with sramUe := 1 }) (codecUp true)) (fun t => (t.codec.pipes[(0 : Fin 8)]).ueOnce && decide (t.codec.ue = 1)) = true ∧
    gives (exec (.frameComplete 0 { codecR with unsupported := true }) (codecUp true)) (fun t => decide (t.codec.done = [(0, 0x13)])) = true ∧
    gives (exec (.frameComplete 4 { codecR with bitstreamErr := true }) (codecUp true)) (fun t => decide (t.codec.done = [(1, 0x12)])) = true ∧
    same (exec (.frameComplete 0 codecR) (held (codecUp true))) (held (codecUp true)) = true := by decide +kernel

theorem wit_encoded : (match readRows 0 16 (frameRows (streamP true) frameC) (codecUp true) with
      | (s, .ok vs) => decide (s = codecUp true) && vs.all fun v => !xisNan v && !xisInf v
      | _ => false) = true ∧ accessPoint (streamP true) 0 = some true ∧ spIndexAddr (streamP true) ≠ 0 ∧ 16 ≤ spIndexLen (streamP true) ∧
    gives (exec (.frameComplete 0 codecR) (codecUp true)) (fun t => decide (t.codec.done = [(0, 0)] ∧ hostByte t 0x8001 = 0xDE ∧ hostByte t 0x900C = 1 ∧
      (t.codec.ctxs[(0 : Fin 32)]).map (·.index) = some 1)) = true := by decide +kernel

theorem wit_decoded : (match writeRows 0 (streamP false) codecR 0xFFFFFFFF (frameRows (streamP false) frameC) (codecUp true) with
      | (s, none) => decide (s.codec = (codecUp true).codec)
      | _ => false) = true ∧
    gives (exec (.frameComplete 4 codecR) (codecUp true)) (fun t => decide (t.codec.done = [(1, 0)] ∧ ramByte t 0x200010003 = 0x3F ∧ ramByte t 0x200010001 = 0)) = true := by decide +kernel

/-! ### Witnesses: the monitor, traces, cuttings and performance counters -/

/-- A line waits at the monitor. -/
def lineUp (l : String) (s : State) : State := { s with monitor := { s.monitor with lines := [(false, txt l)] } }
/-- The line names the command, and is answered with this ending. -/
def replies (l : String) (parsed c : Instr) (s : State) (ending : String) (g : State → Bool) : Bool :=
  s.pins.fifo.isEmpty && (match parseLine (txt l) with
    | .ok d => decide (d = parsed)
    | .error _ => false) &&
  gives (exec c (lineUp l s)) fun t => t.monitor.lines.isEmpty && decide (txt ending <:+ t.pins.uartOut) && g t
/-- Features on, and the quota of partition 0 in T3. -/
def debugUp : State :=
  { up with dev := { up.dev with traceEn := true, cuttingEn := true, perfEn := true }, image := { up.image with debugOn := true } }.onPart 0 fun x => { x with img := { x.img with t3Gib := 1 } }

theorem wit_monitor_reports : same (exec .monitorTime up) up = true ∧
    replies "HELP" .monitorHelp .monitorHelp up "OK\x0d\n" (fun _ => true) = true ∧ replies "STATUS" .monitorStatus .monitorStatus up "OK\x0d\n" (fun _ => true) = true ∧
    replies "TIME" .monitorTime .monitorTime up "OFS 0x00000000\x0d\nOK\x0d\n" (fun _ => true) = true ∧ replies "GAUGE" .monitorGauge .monitorGauge up "OK\x0d\n" (fun _ => true) = true ∧
    replies "LOG 0" (.monitorLog 0) (.monitorLog 0) up "ERR RANGE\x0d\n" (fun _ => true) = true ∧
    (match parseLine (txt "LOG 256") with
      | .ok c => decide (c = .monitorLog 256)
      | .error _ => false) = true ∧
    replies "LOG 257" (.monitorLog 257) (.monitorLog 257) up "ERR RANGE\x0d\n" (fun _ => true) = true ∧
    replies "BAUD 24" (.monitorBaud 24) (.monitorBaud 24) up "ERR RANGE\x0d\n" (fun _ => true) = true ∧
    replies "BAUD 25" (.monitorBaud 25) (.monitorBaud 25) up "OK\x0d\n" (fun t => decide (t.pins.div = 25)) = true := by decide +kernel

theorem wit_monitor_registers : monBlock 0x50 4 = some (.fence, 4) ∧ monBlock 0x10 0x48 = some (.bed 0, 0x48) ∧ monBlock 0x22 0 = none ∧
    replies "RD 0x50 4" (.monitorRd 0x50 4 1) (.monitorRd 0x50 4 1) up "\x0d\nOK\x0d\n" (fun t => decide ((t.pins.uartOut.drop up.pins.uartOut.length).take 8 = hexN 8 (latchedRead up up.alm.latch .fence 4))) = true ∧
    replies "RD 0x50 4 65" (.monitorRd 0x50 4 65) (.monitorRd 0x50 4 65) up "ERR RANGE\x0d\n" (fun _ => true) = true ∧
    replies "RD 0x22 0" (.monitorRd 0x22 0 1) (.monitorRd 0x22 0 1) up "ERR RANGE\x0d\n" (fun _ => true) = true ∧
    replies "WR 0x10 0x48 3" (.monitorWr 0x10 0x48 3) (.monitorWr 0x10 0x48 3) up "ERR DISABLED\x0d\n" (fun _ => true) = true ∧
    replies "WR 0x10 0x48 3" (.monitorWr 0x10 0x48 3) (.monitorWr 0x10 0x48 3) debugUp "OK\x0d\n" (fun t => decide ((t.bed 0).ctxSel.toNat = 3)) = true ∧
    replies "WR 0x50 4 3" (.monitorWr 0x50 4 3) (.monitorWr 0x50 4 3) debugUp "ERR ACCESS\x0d\n" (fun t => decide (t.fence.foreign = 1)) = true ∧
    replies "WR 0x22 4 3" (.monitorWr 0x22 4 3) (.monitorWr 0x22 4 3) debugUp "ERR RANGE\x0d\n" (fun _ => true) = true := by decide +kernel

/-- Plot 9 is pruned, and holds a byte. -/
def prunedUp : State := (ramWrite (t0Addr 9 5) [7] up).onPlot 9 fun x => { x with mode := .pruned }
theorem wit_monitor_test : replies "TEST 128 1" (.monitorTest 128 1 none) (.monitorTest 128 1 none) up "ERR RANGE\x0d\n" (fun _ => true) = true ∧
    replies "TEST 9 5" (.monitorTest 9 5 none) (.monitorTest 9 5 none) prunedUp "PASS\x0d\nOK\x0d\n" (fun t => decide ((t.plot 9).mode = .pruned ∧ (t.plot 9).lastStatus = 0 ∧ ramByte t (t0Addr 9 5) = 0)) = true ∧
    replies "TEST 9 1" (.monitorTest 9 1 none) (.monitorTest 9 1 (some (2, 3))) prunedUp "OK\x0d\n" (fun t => decide ((t.plot 9).lastStatus = 0x0C)) = true ∧ prunedUp.dev.traceEn = false := by decide +kernel
theorem wit_monitor_test_waits :
    (let s := up.onPlot 9 fun x => { x with mode := .gating }
     freeForTest s 9 = false ∧ replies "TEST 9 1" (.monitorTest 9 1 none) (.monitorTest 9 1 none) s "ERR BUSY\x0d\n" (fun _ => true) = true) ∧
    freeForTest up 0 = true ∧ readyForTest (held up) 0 = false := by decide +kernel

/-- TRACE START of partition q over 1 MiB at an offset of T3. -/
def traceC (q : PartIx) (off : Nat) : Instr := .traceStart q (BitVec.ofNat 64 (0x10000000000 + off)) 0x100000 false
/-- The trace of partition 0 is on. -/
def tracing (stopping : Bool) : State := debugUp.onPart 0 fun x => { x with trace := { x.trace with on := true, base := 0x10000000000, pages := 16, stopping := stopping } }
theorem wit_trace_control : replies "TRACE 0 START 0x10000000000 0x100000" (traceC 0 0) (traceC 0 0) up "ERR DISABLED\x0d\n" (fun _ => true) = true ∧
    replies "TRACE 0 START 0x10000000000 0x100000" (traceC 0 0) (traceC 0 0) debugUp "OK\x0d\n" (fun t => decide ((t.part 0).trace.on = true ∧ (t.part 0).trace.pages = 16)) = true ∧
    replies "TRACE 0 START 0x10000001000 0x100000" (traceC 0 0x1000) (traceC 0 0x1000) debugUp "ERR RANGE\x0d\n" (fun _ => true) = true ∧
    replies "TRACE 1 START 0x10000000000 0x100000" (traceC 1 0) (traceC 1 0) debugUp "ERR RANGE\x0d\n" (fun _ => true) = true ∧
    replies "TRACE 0 START 0x1003FF10000 0x100000" (traceC 0 0x3FF10000) (traceC 0 0x3FF10000) debugUp "ERR QUOTA\x0d\n" (fun _ => true) = true ∧
    replies "TRACE 0 START 0x10000000000 0x100000" (traceC 0 0) (traceC 0 0) (tracing false) "ERR BUSY\x0d\n" (fun _ => true) = true ∧
    replies "TRACE 0 STOP" (.traceStop 0) (.traceStop 0) debugUp "ERR STATE\x0d\n" (fun _ => true) = true ∧
    replies "TRACE 0 STOP" (.traceStop 0) (.traceStop 0) (tracing false) "OK\x0d\n" (fun t => (t.part 0).trace.stopping) = true ∧
    replies "TRACE 0 STATUS" (.traceStatus 0) (.traceStatus 0) (tracing false) "OK\x0d\n" (fun _ => true) = true ∧
    replies "TRACE 0 STATUS" (.traceStatus 0) (.traceStatus 0) up "ERR DISABLED\x0d\n" (fun _ => true) = true ∧
    traceBuffered (tracing true) 0 = false ∧ gives (exec (.traceDrained 0) (tracing true)) (fun t => !(t.part 0).trace.on) = true ∧
    same (exec (.traceDrained 0) (tracing false)) (tracing false) = true := by decide +kernel

/-- CUT ARM for job 7 at a pass. -/
def cutC (pass cost : Nat) : Instr := .cutArm 0 7 2 3 pass 0x10000000000 0x100000 cost cost
def cutL (pass : String) : String := "CUT 0 ARM 7 2 3 " ++ pass ++ " 0x10000000000 0x100000"
/-- Job 7 is RUNNING and not late. -/
def cutJob : State := debugUp.onPart 0 fun x => { x with jobs := [{ jobIn .running .none false with desc := jobD ||| bits [(0x08, 0, 0x7FFFFFFFFFFF)] }] }
theorem wit_cut_arm : replies (cutL "1") (cutC 1 0) (cutC 1 5) up "ERR DISABLED\x0d\n" (fun _ => true) = true ∧
    replies (cutL "1") (cutC 1 0) (cutC 1 5) debugUp "CUT 0x0\x0d\nOK\x0d\n" (fun t => decide (((t.part 0).cuts[(0 : Fin 16)]).state = 1)) = true ∧
    replies (cutL "4097") (cutC 4097 0) (cutC 4097 5) debugUp "ERR RANGE\x0d\n" (fun _ => true) = true ∧
    replies (cutL "4096") (cutC 4096 0) (cutC 4096 5) (tracing false) "ERR QUOTA\x0d\n" (fun _ => true) = true ∧
    ((cutJob.part 0).jobs.find? fun j => j.id = 7 && jobLive j).isSome = true ∧ ((cutJob.part 0).jobs.all fun j => decide (armRefused cutJob 0 j 1 5 = none)) = true ∧
    replies (cutL "1") (cutC 1 0) (cutC 1 5) cutJob "OK\x0d\n" (fun t => decide ((t.part 0).jobs.map (·.wc) = [105])) = true ∧
    replies (cutL "2") (cutC 2 0) (cutC 2 5) cutJob "ERR RANGE\x0d\n" (fun _ => true) = true := by decide +kernel

/-- Cutting 0 is armed; plot 0 may capture the result of a VEC command. -/
def cutUp (size : Nat) (capturing drop : Bool) : State :=
  ({ debugUp with mem := { debugUp.mem with xlt := tabSet 0 debugUp.mem.xlt (xltKey 0 0) 0x01000000 } }.onPart 0 fun x => { x with cuts := x.cuts.set 0 { x.cuts[0] with state := 1, base := 0x10000000000, size := size, pass := 1, dropAfter := drop } }).onPlot 0 fun x =>
    { x with capture := if capturing then some { part := 0, cuts := [0], desc := vecD, pass := 1, esc := 0, retries := 0, cycles := 0, progress := 0 } else none }
theorem wit_cut_list : replies "CUT 0 LIST" (.cutList 0) (.cutList 0) (cutUp 320 false false) "OK\x0d\n" (fun _ => true) = true ∧
    replies "CUT 0 GET 16 0 4" (.cutGet 0 16 0 4) (.cutGet 0 16 0 4) (cutUp 320 false false) "ERR RANGE\x0d\n" (fun _ => true) = true ∧
    replies "CUT 0 GET 1 0 4" (.cutGet 0 1 0 4) (.cutGet 0 1 0 4) (cutUp 320 false false) "ERR STATE\x0d\n" (fun _ => true) = true ∧
    replies "CUT 0 GET 0 316 4" (.cutGet 0 0 316 4) (.cutGet 0 0 316 4) (cutUp 320 false false) "OK\x0d\n" (fun _ => true) = true ∧
    replies "CUT 0 GET 0 317 4" (.cutGet 0 0 317 4) (.cutGet 0 0 317 4) (cutUp 320 false false) "ERR RANGE\x0d\n" (fun _ => true) = true ∧
    replies "CUT 0 DROP 16" (.cutDrop 0 16) (.cutDrop 0 16) (cutUp 320 false false) "ERR RANGE\x0d\n" (fun _ => true) = true ∧
    replies "CUT 0 DROP 1" (.cutDrop 0 1) (.cutDrop 0 1) (cutUp 320 false false) "ERR STATE\x0d\n" (fun _ => true) = true ∧
    replies "CUT 0 DROP 0" (.cutDrop 0 0) (.cutDrop 0 0) (cutUp 320 false false) "OK\x0d\n" (fun t => decide (((t.part 0).cuts[(0 : Fin 16)]).state = 0)) = true ∧
    replies "CUT 0 DROP 0" (.cutDrop 0 0) (.cutDrop 0 0) (cutUp 320 true false) "OK\x0d\n" (fun t => ((t.part 0).cuts[(0 : Fin 16)]).dropAfter) = true := by decide +kernel
theorem wit_capture : (resultPieces 0 vecD).length = 1 ∧ same (exec (.captureComplete 0) (cutUp 320 false false)) (cutUp 320 false false) = true ∧
    same (exec (.captureComplete 0) (held (cutUp 320 true false))) (held (cutUp 320 true false)) = true ∧
    gives (exec (.captureComplete 0) (cutUp 319 true false)) (fun t => ((t.part 0).cuts[(0 : Fin 16)]).trunc) = true := by decide +kernel
theorem wit_capture_fits : gives (exec (.captureComplete 0) (cutUp 320 true false)) (fun t => decide (((t.part 0).cuts[(0 : Fin 16)]).wptr = 320 ∧ ((t.part 0).cuts[(0 : Fin 16)]).pieces = 1 ∧
    (t.plot 0).capture = none)) = true := by decide +kernel

theorem wit_perf : replies "PERF 0 3 8" (.perfSelect 0 3 8 none) (.perfSelect 0 3 8 none) up "ERR DISABLED\x0d\n" (fun _ => true) = true ∧
    replies "PERF 127 3 8" (.perfSelect 127 3 8 none) (.perfSelect 127 3 8 none) debugUp "OK\x0d\n" (fun t => decide (((t.plot 127).perfSel[(3 : Fin 4)]) = 8)) = true ∧
    replies "PERF 127 4 8" (.perfSelect 127 4 8 none) (.perfSelect 127 4 8 none) debugUp "ERR RANGE\x0d\n" (fun _ => true) = true ∧
    replies "PERF 130 0 8" (.perfSelect 130 0 8 none) (.perfSelect 130 0 8 none) debugUp "ERR RANGE\x0d\n" (fun _ => true) = true ∧
    replies "PERF 129 7 3 1" (.perfSelect 129 7 3 (some 1)) (.perfSelect 129 7 3 (some 1)) debugUp "OK\x0d\n" (fun t => !((t.cistern 1).perfSel[(7 : Fin 8)]).all) = true ∧
    replies "PERF CLEAR 129" (.perfClear 129) (.perfClear 129) debugUp "OK\x0d\n" (fun _ => true) = true ∧
    replies "PERF CLEAR 127" (.perfClear 127) (.perfClear 127) debugUp "OK\x0d\n" (fun _ => true) = true ∧
    replies "PERF CLEAR 130" (.perfClear 130) (.perfClear 130) debugUp "ERR RANGE\x0d\n" (fun _ => true) = true := by decide +kernel

/-! ### Witnesses: fault windows and Trellis -/

theorem wit_windows : gives (exec (.faultWindowRollover false) (later 3600000000000 badBank)) (fun t => decide (t.alm.hourAt = 3600000000000)) = true ∧
    same (exec (.faultWindowRollover false) (later 3599999999999 badBank)) (later 3599999999999 badBank) = true ∧
    gives (exec (.faultWindowRollover true) (later 86400000000000 badBank)) (fun t => decide (t.alm.dayAt = 86400000000000)) = true ∧
    same (exec (.faultWindowRollover true) (later 86399999999999 badBank)) (later 86399999999999 badBank) = true := by decide +kernel

/-- Trellis with these limits, faults of module 1 of link 33, and a lane that waits. -/
def trUp (faults : List Nat) (width : Nat) (upper : Bool) (lane : Nat) : State :=
  { up with dev := { up.dev with fault := { up.dev.fault with trLaneSec := 3, trReplay := 2 } },
            trellis := { up.trellis with modules := [{ link := 33, dir := true, index := 1, faults := faults, width := width, upper := upper }], due := [(33, 32768 + 128 + lane)] } }
/-- The module after the lane has been acted on. -/
def trActs (faults : List Nat) (width : Nat) (upper : Bool) (lane : Nat) (g : TrModule → Bool) : Bool :=
  gives (exec (.trellisLaneFault 33 true 1 lane) (trUp faults width upper lane)) fun t => g (moduleOf t 33 (32768 + 128)) && t.trellis.due.isEmpty && decide (t.image.pendingLog.length = up.image.pendingLog.length + 1)
theorem wit_trellis : trActs [0, 1, 2] 64 false 63 (fun m => decide (m.faults = [0, 1, 2, 63] ∧ m.width = 64)) = true ∧
    trActs [0, 1, 2, 3] 64 false 31 (fun m => m.upper && decide (m.width = 32)) = true ∧ trActs [0, 1, 2, 3, 31] 32 true 63 (fun m => decide (m.width = 0)) = true ∧
    gives (exec (.trellisLaneFault 33 true 1 5) (trUp [5] 64 false 5)) (fun t => t.trellis.due.isEmpty && decide (t.image = up.image)) = true ∧
    same (exec (.trellisLaneFault 33 true 1 6) (trUp [] 64 false 5)) (trUp [] 64 false 5) = true ∧
    same (exec (.trellisLaneFault 33 true 1 5) (held (trUp [] 64 false 5))) (held (trUp [] 64 false 5)) = true := by decide +kernel
theorem wit_flits : let s := trUp [] 64 false 5
    same (exec (.flitReplay 53 0 false) s) s = true ∧ gives (exec (.flitReplay 52 7 false) s) (fun t => decide (laneCount t 52 7 = 1 ∧ t.trellis.flits = [(52, 0, [7])] ∧ t.trellis.due = s.trellis.due)) = true ∧
      gives (exec (.flitReplay 52 7 true) { s with trellis := { s.trellis with flits := [(52, 1, [7, 7, 8])] } }) (fun t => decide (t.trellis.flits = [] ∧ (52, 7) ∈ t.trellis.due)) = true ∧
      gives (exec (.flitReplay 52 8 true) { s with trellis := { s.trellis with flits := [(52, 0, [7])] } }) (fun t => decide (t.trellis.flits.length = 1 ∧ t.trellis.due = s.trellis.due)) = true ∧
      gives (exec (.flitReplay 52 7 false) { s with trellis := { s.trellis with laneFails := [(52, 7, 2)] } }) (fun t => decide ((52, 7) ∈ t.trellis.due)) = true := by decide +kernel

end Sys2Proof.Tests
end

section
/-! One step and its tick: the time counter under the writes of the trace drain (R401, R463), and what `step` answers. -/

namespace Sys2Proof.Machine

open Host

/-! ### No write touches the time counter -/

/-- The state that a named pair carries has the time counter of the pair. -/
theorem time_of_pair {α : Type} {x : State × α} {s t : State} {a : α} (hx : x.1.time = s.time) (h : x = (t, a)) :
    t.time = s.time := by
  rwa [h] at hx

@[simp] theorem raiseEvent_time (f : FnIx) (v : VecIx) (s : State) : (raiseEvent f v s).time = s.time := by
  unfold raiseEvent
  split <;> rfl

@[simp] theorem raiseDebug_time (q : PartIx) (s : State) : (raiseDebug q s).time = s.time := by
  unfold raiseDebug
  split <;> simp

@[simp] theorem raiseDevice_time (s : State) : (raiseDevice s).time = s.time := raiseEvent_time ..

@[simp] theorem traceLose_time (q : PartIx) (s : State) : (traceLose q s).time = s.time := rfl

@[simp] theorem ramWrite_time (a : Nat) (bs : List Byte) (s : State) : (ramWrite a bs s).time = s.time := rfl

@[simp] theorem bedCheck_time (b : BedIx) (epoch n : Nat) (s : State) : (bedCheck b epoch n s).1.time = s.time := rfl

@[simp] theorem cisCheck_time (c : CisIx) (q : PartIx) (epoch n : Nat) (s : State) :
    (cisCheck c q epoch n s).1.time = s.time := rfl

@[simp] theorem cisPerfAdd_time (c : CisIx) (q : Option PartIx) (code n : Nat) (s : State) :
    (cisPerfAdd c q code n s).time = s.time := by
  unfold cisPerfAdd
  split
  · rfl
  · dsimp only
    split <;> simp

@[simp] theorem xltTouch_time (q : PartIx) (v : Nat) (s : State) : (xltTouch q v s).time = s.time := rfl

@[simp] theorem translate_time (q : PartIx) (a : Nat) (s : State) : (translate q a s).1.time = s.time := by
  unfold translate
  dsimp only
  split <;> simp

@[simp] theorem t3WritePieces_time (q : PartIx) (base : Nat) (bs : List Byte) (ps : List (Nat × Nat)) (s : State) :
    (t3WritePieces q base bs s ps).1.time = s.time := by
  induction ps generalizing s with
  | nil => rfl
  | cons x ps ih =>
    rw [t3WritePieces]
    split
    · exact time_of_pair (translate_time ..) ‹_›
    · rw [ih, State.onMem_time]
      exact time_of_pair (translate_time ..) ‹_›

@[simp] theorem t3WriteBale_time (q : PartIx) (rate base : Nat) (bs : List Byte) (ps : List (Nat × Nat)) (s : State) :
    (t3WriteBale q rate base bs s ps).1.time = s.time := by
  induction ps generalizing s with
  | nil => rfl
  | cons x ps ih =>
    rw [t3WriteBale]
    split
    · exact time_of_pair (translate_time ..) ‹_›
    · rw [ih, State.onMem_time]
      exact time_of_pair (translate_time ..) ‹_›

@[simp] theorem devWritePiece_time (q : PartIx) (a rate epoch : Nat) (bs : List Byte) (s : State) :
    (devWritePiece q a rate epoch bs s).1.time = s.time := by
  unfold devWritePiece
  split
  · rfl
  · split
    · rw [ramWrite_time]
      exact time_of_pair (bedCheck_time ..) ‹_›
    · exact time_of_pair (bedCheck_time ..) ‹_›
  · split
    · rw [ramWrite_time]
      exact time_of_pair (cisCheck_time ..) ‹_›
    · exact time_of_pair (cisCheck_time ..) ‹_›
  · split
    · have hc := time_of_pair (cisCheck_time ..) ‹_›
      dsimp only
      split <;> simp [t3Write, hc]
    · exact time_of_pair (cisCheck_time ..) ‹_›
  · rfl

@[simp] theorem devWritePieces_time (q : PartIx) (base rate epoch : Nat) (bs : List Byte) (ps : List (Nat × Nat)) (s : State) :
    (devWritePieces q base rate epoch bs s ps).1.time = s.time := by
  induction ps generalizing s with
  | nil => rfl
  | cons x ps ih =>
    rw [devWritePieces]
    split
    · exact time_of_pair (devWritePiece_time ..) ‹_›
    · rw [ih]
      exact time_of_pair (devWritePiece_time ..) ‹_›

@[simp] theorem devWrite_time (q : PartIx) (a rate epoch : Nat) (bs : List Byte) (s : State) :
    (devWrite q a rate epoch bs s).1.time = s.time := devWritePieces_time ..

@[simp] theorem traceStore_time (s : State) (e : BitVec 256) : (traceStore s e).time = s.time := by
  unfold traceStore
  dsimp only
  split
  · rfl
  split
  · simp
  split <;> split <;> simp

/-- A fold of changes that each keep the time counter keeps it. -/
theorem foldl_time {α : Type} (f : State → α → State) (hf : ∀ u a, (f u a).time = u.time) (l : List α) (s : State) :
    (l.foldl f s).time = s.time := by
  induction l generalizing s with
  | nil => rfl
  | cons a l ih => rw [List.foldl_cons, ih, hf]

@[simp] theorem traceDrain_time (s : State) : (traceDrain s).time = s.time := by
  unfold traceDrain forAll
  dsimp only
  rw [foldl_time _ traceStore_time, foldl_time (fun (u : State) (c : CisIx) => u.onCis c _) fun _ _ => rfl,
    foldl_time (fun (u : State) (b : BedIx) => u.onBed b _) fun _ _ => rfl]

/-! ### One step -/

theorem step_of_cons {s : State} {c : Instr} {rest : List Instr} (h : s.pending = c :: rest) :
    step s = exec c { s with pending := rest } := by
  simp only [step, h]

theorem step_of_nil {s : State} (h : s.pending = []) : step s = .next (idleTick s) := by
  simp only [step, h]

/-- With no slew to spread (R401), a tick is one nanosecond. -/
theorem idleTick_time_of_no_slew {s : State} (h : s.bvl.slew = 0) : (idleTick s).time = s.time + 1 := by
  simp [idleTick, h]

theorem idleTick_pending (s : State) : (idleTick s).pending = s.pending := (idleTick_kept (Kept.refl s)).pending

/-- Settles O1: the two branches of `step`, with the tick's time and queue from the laws of the trace drain. -/
theorem stepRunsFrontCommand : Obligations.StepRunsFrontCommand := by
  refine ⟨fun c rest s h => step_of_cons h, fun s h hslew => ⟨idleTick s, step_of_nil h, ?_, ?_⟩⟩
  · exact idleTick_time_of_no_slew hslew
  · rw [idleTick_pending, h]

end Sys2Proof.Machine
end

section
/-! Register accesses: latched halves, the word that an access writes, and what each write of a core or a function is (R372). -/

namespace Sys2Proof.Machine

open Host

/-! ### Low halves and their latches (R372) -/

/-- A latched high half reads what stood there at the read of the low half, whatever the state reads now. -/
theorem latchedRead_latchRead (u s : State) (t : Tab Word) {b : Block} {lo : Nat} (ho : lo % 4 = 0) (hw : isWide b lo = true) :
    latchedRead u (latchRead s b lo t) b (lo + 4) = regRead s b (lo + 4) % 2 ^ 32 := by
  have hlo : lo / 4 * 4 = lo := by omega
  simp [latchedRead, latchRead, hlo, hw, tabGet_set]

theorem exec_lowHalfRead_core {b : Block} {lo len : Nat} (s : State) (hb : badAccess lo len = none) :
    exec (.lowHalfRead .core b lo len) s = .next { s with alm := { s.alm with latch := latchRead s b lo s.alm.latch } } := by
  simp [exec, execLowHalfRead, hb]

section
variable {s : State} {f : FnIx} {b : Block} {lo len : Nat} {bar : BitVec 2} {o : BitVec 16}

theorem exec_lowHalfRead_host_of_absent (hp : hostPlace s f b lo = some (bar, o)) (hf : fnExists s f = false) :
    exec (.lowHalfRead (.host f) b lo len) s = .next s := by
  simp [exec, execLowHalfRead, hp, hf]

theorem exec_lowHalfRead_host_of_bad {k : BitVec 2} (hp : hostPlace s f b lo = some (bar, o)) (hf : fnExists s f = true)
    (hb : badAccess lo len = some k) : exec (.lowHalfRead (.host f) b lo len) s = .next (logAccess f k bar o s) := by
  simp [exec, execLowHalfRead, hp, hf, hb]

theorem exec_lowHalfRead_host (hp : hostPlace s f b lo = some (bar, o)) (hf : fnExists s f = true)
    (hb : badAccess lo len = none) : exec (.lowHalfRead (.host f) b lo len) s =
      .next (s.onFunc f fun x => { x with latch := latchRead s b lo x.latch }) := by
  simp [exec, execLowHalfRead, hp, hf, hb]

end

/-! ### An access within one word -/

theorem badAccess_of_word {off len : Nat} (ho : off % 4 = 0) (hl : len ≤ 4) : badAccess off len = none := by
  have h8 : ¬ 8 < len := by omega
  have hspan : ¬ 8 < off % 8 + len := by omega
  have hodd : off % 2 ≠ 1 := by omega
  simp [badAccess, h8, hspan, hodd]

theorem wordsOf_zero (off data : Nat) : wordsOf off 0 data = [] := by simp [wordsOf]

/-- The data of a 32-bit write as it stands in the 64-bit operand. -/
theorem toNat_ofNat_word (d : Word) : (BitVec.ofNat 64 d.toNat).toNat = d.toNat := by
  have := d.isLt
  rw [BitVec.toNat_ofNat]
  omega

/-- An access of up to four bytes from a word's first byte on writes that word alone, with its low byte enables. -/
theorem wordsOf_of_word {off len : Nat} (d : Word) (ho : off % 4 = 0) (h0 : 0 < len) (hl : len ≤ 4) :
    wordsOf off len (BitVec.ofNat 64 d.toNat).toNat = [(off, 2 ^ len - 1, d.toNat)] := by
  rw [toNat_ofNat_word]
  have hd := d.isLt
  obtain ⟨hne, hlt⟩ : 2 ^ len - 1 ≠ 0 ∧ 2 ^ len - 1 < 16 := by interval_cases len <;> decide
  rcases (by omega : off % 8 = 0 ∨ off % 8 = 4) with h | h
  · have hat : off / 8 * 8 = off := by omega
    have hhi : (2 ^ len - 1) / 16 = 0 := by omega
    simpa [wordsOf, h, hat, hhi, hne, Nat.mod_eq_of_lt hlt] using hd
  · have hat : off / 8 * 8 + 4 = off := by omega
    simpa [wordsOf, h, hat, hne, Nat.mod_eq_of_lt hlt] using hd

/-- With all four bytes enabled nothing of the old value stands. -/
theorem mergeWord_all (old : Nat) {d : Nat} (hd : d < 2 ^ 32) : mergeWord old 15 d = d := by
  have hr : List.range 4 = [0, 1, 2, 3] := rfl
  simp [mergeWord, hr, natOf, Nat.testBit]
  omega

/-! ### Writes of gardener cores -/

/-- A gardener core's write of a 32-bit value, as an access of `len` bytes. -/
def coreStore (b : Block) (off len : Nat) (d : Word) : Instr := .registerWrite (.core b off len (BitVec.ofNat 64 d.toNat))

/-- Outside the Fence block a write within one word is the write of that word. -/
theorem exec_coreStore {b : Block} {off len : Nat} (d : Word) (s : State) (hb : b ≠ .fence) (ho : off % 4 = 0) (h0 : 0 < len)
    (hl : len ≤ 4) : exec (coreStore b off len d) s = .next (writeWord b s (off, 2 ^ len - 1, d.toNat)) := by
  simp only [exec, coreStore, execRegisterWrite, coreWrite, if_neg hb, badAccess_of_word ho hl, wordsOf_of_word d ho h0 hl,
    Option.isSome_none, Bool.false_eq_true, if_false, List.foldl]

theorem exec_coreStore_zero {b : Block} {off : Nat} (d : Word) (s : State) (hb : b ≠ .fence) (ho : off % 4 = 0) :
    exec (coreStore b off 0 d) s = .next s := by
  simp only [exec, coreStore, execRegisterWrite, coreWrite, if_neg hb, badAccess_of_word ho (Nat.zero_le 4), wordsOf_zero,
    Option.isSome_none, Bool.false_eq_true, if_false, List.foldl]

/-- A block whose words a core cannot write ignores the write, of whatever width. -/
theorem exec_coreStore_of_ignored {b : Block} (off len : Nat) (d : Word) (s : State) (hb : b ≠ .fence)
    (hw : ∀ w, writeWord b s w = s) : exec (coreStore b off len d) s = .next s := by
  simp [exec, coreStore, execRegisterWrite, coreWrite, hb, List.foldl_fixed' hw]

theorem exec_coreStore_fence (off len : Nat) (d : Word) (s : State) :
    exec (coreStore .fence off len d) s = exec (.foreignWrite .gardener (BitVec.ofNat 16 off) d) s := rfl

section
variable {p : PlotIx} {d : Word} {s : State}

/-- A full write of `PLT_CTL`: its bits choose the command (R92). -/
theorem exec_coreStore_plotCtl : exec (coreStore (.plot p) 0x14 4 d) s = .next (writeCtl p d.toNat s) :=
  exec_coreStore d s (by simp) (by decide) (by decide) (by decide)

theorem exec_coreStore_plotCtl_reset (h2 : d.getLsbD 2 = true) :
    exec (coreStore (.plot p) 0x14 4 d) s = exec (.plotReset p (BitVec.ofNat 3 (d.toNat / 8))) s := by
  have h2 : d.toNat.testBit 2 = true := h2
  rw [exec_coreStore_plotCtl, writeCtl, if_pos h2]
  rfl

theorem exec_coreStore_plotCtl_flush (h2 : d.getLsbD 2 = false) (h0 : d.getLsbD 0 = true) :
    exec (coreStore (.plot p) 0x14 4 d) s = exec (.plotFlush p (d.getLsbD 1) (BitVec.ofNat 3 (d.toNat / 8))) s := by
  have h2 : ¬ d.toNat.testBit 2 = true := ne_true_of_eq_false h2
  have h0 : d.toNat.testBit 0 = true := h0
  rw [exec_coreStore_plotCtl, writeCtl, if_neg h2, if_pos h0]
  rfl

theorem exec_coreStore_plotCtl_resume (h2 : d.getLsbD 2 = false) (h0 : d.getLsbD 0 = false) (h1 : d.getLsbD 1 = true) :
    exec (coreStore (.plot p) 0x14 4 d) s = exec (.plotResume p (BitVec.ofNat 3 (d.toNat / 8))) s := by
  have h2 : ¬ d.toNat.testBit 2 = true := ne_true_of_eq_false h2
  have h0 : ¬ d.toNat.testBit 0 = true := ne_true_of_eq_false h0
  have h1 : d.toNat.testBit 1 = true := h1
  rw [exec_coreStore_plotCtl, writeCtl, if_neg h2, if_neg h0, if_pos h1]
  rfl

/-- A narrow write of `PLT_CTL` is dropped. -/
theorem exec_coreStore_plotCtl_narrow {n : Nat} (hn : n < 4) : exec (coreStore (.plot p) 0x14 n d) s = .next s := by
  rcases Nat.eq_zero_or_pos n with rfl | h0
  · exact exec_coreStore_zero d s (by simp) (by decide)
  · have hbe : 2 ^ n - 1 ≠ 15 := by interval_cases n <;> decide
    rw [exec_coreStore d s (by simp) (by decide) h0 (by omega)]
    simp [writeWord, writePlot, hbe]

end

theorem exec_coreStore_ctxLayer (b : BedIx) (d : Word) (s : State) :
    exec (coreStore (.bed b) 0x4C 4 d) s = exec (.layerStateLoad b d) s := by
  rw [exec_coreStore d s (by simp) (by decide) (by decide) (by decide)]
  simp [writeWord, writeBed, exec, execLayerStateLoad, after]

theorem exec_coreStore_bedClock (b : BedIx) (d : Word) (s : State) :
    exec (coreStore (.bed b) 0x50 4 d) s = exec (.bedClockTarget b (BitVec.ofNat 5 d.toNat)) s := by
  rw [exec_coreStore d s (by simp) (by decide) (by decide) (by decide)]
  simp [writeWord, writeBed, exec, execBedClockTarget]

/-- The k-th register of an array is found at its place. -/
theorem arr_at {n base stride : Nat} (hs : 0 < stride) (k : Fin n) : arr n base stride (base + stride * k.val) = some k := by
  simp [arr, Nat.mul_div_cancel_left _ hs]

/-- A write of an epoch entry replaces it whole (R297). -/
theorem exec_coreStore_bedEpoch (b : BedIx) (k : Fin 256) (d : Word) (s : State) :
    exec (coreStore (.bed b) (0x1000 + 4 * k.val) 4 d) s =
      .next (s.onBed b fun x => { x with epochs := tabSet 0 x.epochs k.val (BitVec.ofNat 25 d.toNat) }) := by
  have hw : writeBed b (0x1000 + 4 * k.val) 15 d.toNat s =
      s.onBed b fun x => { x with epochs := tabSet 0 x.epochs k.val (mergeBits (tabGet 0 x.epochs k.val) 15 d.toNat) } := by
    unfold writeBed
    split
    case h_5 => rw [arr_at (by decide) k]
    all_goals omega
  rw [exec_coreStore d s (by simp) (by omega) (by decide) (by decide)]
  refine congrArg Outcome.next (hw.trans ?_)
  simp only [mergeBits, mergeWord_all _ d.isLt]

theorem bedEpoch_onBed_set (s : State) (b c : BedIx) (k j : Nat) (v : BitVec 25) :
    bedEpoch (s.onBed b fun x => { x with epochs := tabSet 0 x.epochs k v }) c j = if c = b ∧ j = k then v else bedEpoch s c j := by
  by_cases hc : c = b
  · subst hc
    simp [bedEpoch, tabGet_set]
  · simp [bedEpoch, State.onBed_bed_ne _ _ hc, hc]

theorem exec_coreStore_xltInv (c : CisIx) (d : Word) (s : State) :
    exec (coreStore (.cistern c) 0x180 4 d) s = exec (.xltInvalidate c d) s := by
  rw [exec_coreStore d s (by simp) (by decide) (by decide) (by decide)]
  simp [writeWord, writeCis, exec, execXltInvalidate, after]

/-- Any write of a clearing counter clears it (R9). -/
theorem exec_coreStore_dirReads (c : CisIx) (d : Word) (s : State) {n : Nat} (h0 : 0 < n) (hn : n ≤ 4) :
    exec (coreStore (.cistern c) 0x308 n d) s = .next (s.onCis c fun x => { x with dir := { x.dir with reads := 0 } }) :=
  exec_coreStore d s (by simp) (by decide) h0 hn

/-! ### Writes of functions -/

/-- A function's write of a 32-bit value through a BAR, as an access of `len` bytes. -/
def busStore (f : FnIx) (bar : Fin 3) (off : BitVec 16) (len : Nat) (d : Word) : Instr :=
  .registerWrite (.bus { fn := f, bar := bar, offset := off, len := len, data := BitVec.ofNat 64 d.toNat })

section
variable {s : State} {f : FnIx} {bar : Fin 3} {off : BitVec 16} {len : Nat} (d : Word)

theorem exec_busStore_of_absent (hf : fnExists s f = false) : exec (busStore f bar off len d) s = .next s := by
  simp [exec, busStore, execRegisterWrite, busWrite, hf]

/-- PF0's writes below 0x1000 of BAR4 meet the Fence block. -/
theorem exec_busStore_fence (hf : fnExists s pf0Fn = true) (ho : off.toNat < 0x1000) :
    exec (busStore pf0Fn 2 off len d) s = exec (.foreignWrite (.host pf0Fn) off d) s := by
  simp [exec, busStore, execRegisterWrite, busWrite, hf, ho, execForeignWrite, after]

theorem exec_busStore_of_bad {k : BitVec 2} (hf : fnExists s f = true) (hbar : bar ≠ 2) (hb : badAccess off.toNat len = some k) :
    exec (busStore f bar off len d) s = .next (logAccess f k (BitVec.ofNat 2 bar.val) off s) := by
  simp [exec, busStore, execRegisterWrite, busWrite, hf, hbar, hb]

theorem exec_busStore_bar0 (hf : fnExists s f = true) (ho : off.toNat % 4 = 0) (h0 : 0 < len) (hl : len ≤ 4) :
    exec (busStore f 0 off len d) s = .next (writeBar0 f s (off.toNat, 2 ^ len - 1, d.toNat)) := by
  simp only [exec, busStore, execRegisterWrite, busWrite, badAccess_of_word ho hl, wordsOf_of_word d ho h0 hl, List.foldl]
  simp [hf]

theorem exec_busStore_bar2 (hf : fnExists s f = true) (ho : off.toNat % 4 = 0) (h0 : 0 < len) (hl : len ≤ 4) :
    exec (busStore f 1 off len d) s = .next (writeBar2 f s (off.toNat, 2 ^ len - 1, d.toNat)) := by
  simp only [exec, busStore, execRegisterWrite, busWrite, badAccess_of_word ho hl, wordsOf_of_word d ho h0 hl, List.foldl]
  simp [hf]

theorem exec_busStore_causes (hf : fnExists s f = true) : exec (busStore f 0 0x400 4 d) s = exec (.irqCauseClear f d) s := by
  rw [exec_busStore_bar0 d hf (by decide) (by decide) (by decide)]
  simp [writeBar0, exec, execIrqCauseClear, after]

/-- A narrow write of the causes is dropped and logged. -/
theorem exec_busStore_causes_narrow (hf : fnExists s f = true) (h0 : 0 < len) (hl : len < 4) :
    exec (busStore f 0 0x400 len d) s = .next (logAccess f 0 0 0x400 s) := by
  have hbe : 2 ^ len - 1 ≠ 15 := by interval_cases len <;> decide
  rw [exec_busStore_bar0 d hf (by decide) h0 (by omega)]
  simp [writeBar0, hbe]

theorem exec_busStore_sqDoorbell (hf : fnExists s f = true) (i : QpIx) (ho : off.toNat = 8 * i.val) :
    exec (busStore f 1 off 4 d) s = exec (.sqDoorbell f i d) s := by
  have hrange : ¬ 0x20 ≤ 8 * i.val := by omega
  rw [exec_busStore_bar2 d hf (by omega) (by decide) (by decide), ho]
  simp [writeBar2, hrange, exec, execSqDoorbell, after]

theorem exec_busStore_cqDoorbell (hf : fnExists s f = true) (i : QpIx) (ho : off.toNat = 8 * i.val + 4) :
    exec (busStore f 1 off 4 d) s = exec (.cqDoorbell f i d) s := by
  have hrange : ¬ 0x20 ≤ 8 * i.val + 4 := by omega
  have hi : (8 * i.val + 4) / 8 = i.val := by omega
  rw [exec_busStore_bar2 d hf (by omega) (by decide) (by decide), ho]
  simp [writeBar2, hrange, hi, exec, execCqDoorbell, after]

end

/-! ### The statement -/

theorem lowHalfRead_core_latches {b : Block} {lo len : Nat} (s : State) (ho : lo % 4 = 0) (hw : isWide b lo = true)
    (hb : badAccess lo len = none) : ∃ t, exec (.lowHalfRead .core b lo len) s = .next t ∧ t.mem = s.mem ∧ t.plots = s.plots ∧
      t.fns = s.fns ∧ ∀ u : State, latchedRead u t.alm.latch b (lo + 4) = regRead s b (lo + 4) % 2 ^ 32 :=
  ⟨_, exec_lowHalfRead_core s hb, rfl, rfl, rfl, fun u => latchedRead_latchRead u s _ ho hw⟩

theorem lowHalfRead_host_latches {s : State} {f : FnIx} {b : Block} {lo len : Nat} {bar : BitVec 2} {o : BitVec 16}
    (ho : lo % 4 = 0) (hw : isWide b lo = true) (hp : hostPlace s f b lo = some (bar, o)) (hf : fnExists s f = true)
    (hb : badAccess lo len = none) : ∃ t, exec (.lowHalfRead (.host f) b lo len) s = .next t ∧ t.mem = s.mem ∧ t.alm = s.alm ∧
      (∀ k : FnIx, k ≠ f → t.func k = s.func k) ∧
      ∀ u : State, latchedRead u (t.func f).latch b (lo + 4) = regRead s b (lo + 4) % 2 ^ 32 := by
  refine ⟨_, exec_lowHalfRead_host hp hf hb, rfl, rfl, fun k hk => State.onFunc_func_ne s _ hk, fun u => ?_⟩
  rw [State.onFunc_func]
  exact latchedRead_latchRead u s _ ho hw

theorem coreStore_bedEpoch_sets (b : BedIx) {k : Nat} (hk : k < 256) (d : Word) (s : State) :
    ∃ t, exec (coreStore (.bed b) (0x1000 + 4 * k) 4 d) s = .next t ∧ t.mem = s.mem ∧ t.plots = s.plots ∧
      ∀ (c : BedIx) (j : Nat), bedEpoch t c j = if c = b ∧ j = k then BitVec.ofNat 25 d.toNat else bedEpoch s c j :=
  ⟨_, exec_coreStore_bedEpoch b ⟨k, hk⟩ d s, rfl, rfl, fun c j => bedEpoch_onBed_set s b c k j _⟩

/-- Settles O52: each access by its own law above. -/
theorem registerAccesses : Obligations.RegisterAccesses := by
  intro s
  refine ⟨fun _ _ => rfl, fun b lo len ho hw => ⟨lowHalfRead_core_latches s ho hw, fun f bar o hp => ⟨?_, fun hf => ⟨?_, ?_⟩⟩⟩,
    fun d => ⟨fun p => ⟨?_, ?_, ?_, ?_⟩, fun b => ⟨?_, ?_, ?_⟩, fun c => ⟨?_, ?_⟩, fun off len => ⟨?_, ?_, ?_⟩⟩,
    fun f bar off len d => ⟨?_, fun hf => ⟨?_, ?_, ?_, ?_, ?_⟩⟩, fun _ _ _ => rfl⟩
  · exact exec_lowHalfRead_host_of_absent hp
  · exact fun k => exec_lowHalfRead_host_of_bad hp hf
  · exact lowHalfRead_host_latches ho hw hp hf
  · exact exec_coreStore_plotCtl_reset
  · exact exec_coreStore_plotCtl_flush
  · exact exec_coreStore_plotCtl_resume
  · exact fun n => exec_coreStore_plotCtl_narrow
  · exact exec_coreStore_ctxLayer b d s
  · exact exec_coreStore_bedClock b d s
  · exact fun k hk => coreStore_bedEpoch_sets b hk d s
  · exact exec_coreStore_xltInv c d s
  · exact fun n => exec_coreStore_dirReads c d s
  · exact exec_coreStore_of_ignored off len d s (by simp) fun _ => rfl
  · exact fun q => exec_coreStore_of_ignored off len d s (by simp) fun _ => rfl
  · exact exec_coreStore_fence off len d s
  · exact exec_busStore_of_absent d
  · rintro rfl rfl ho
    exact exec_busStore_fence d hf ho
  · exact fun hbar k => exec_busStore_of_bad d hf hbar
  · rintro rfl rfl rfl
    exact exec_busStore_causes d hf
  · rintro rfl rfl h0 hl -
    exact exec_busStore_causes_narrow d hf h0 hl
  · rintro i rfl rfl
    exact ⟨exec_busStore_sqDoorbell d hf i, exec_busStore_cqDoorbell d hf i⟩

end Sys2Proof.Machine
end

section
/-! The plot engine: what power-on leaves, submission, and requests at an idle point (R64, R80, R86, R89, R298). -/

namespace Sys2Proof.Machine

open Host

/-! ### What power-on leaves (R89, R311) -/

@[simp] theorem reset_plot (p : PlotIx) : State.reset.plot p = Plot.reset := by simp [State.plot, State.reset]
@[simp] theorem reset_bed (b : BedIx) : State.reset.bed b = Bed.reset := by simp [State.bed, State.reset]
@[simp] theorem reset_cistern (c : CisIx) : State.reset.cistern c = Cistern.reset := by simp [State.cistern, State.reset]
@[simp] theorem reset_part (q : PartIx) : State.reset.part q = Part.reset := by simp [State.part, State.reset]
@[simp] theorem reset_func (f : FnIx) : State.reset.func f = Fn.reset := by simp [State.func, State.reset]

/-- Settles O6: each register at its reset value. -/
theorem resetState : Obligations.ResetState := by
  refine ⟨by rfl, rfl, rfl, rfl, fun p => ?_, fun b k => ?_, fun f i => ?_, fun q => ?_, fun c k => ?_⟩
  · simp only [reset_plot]
    exact ⟨rfl, rfl, rfl, rfl, rfl, rfl, rfl, rfl, rfl, rfl, rfl, rfl⟩
  · simp [Bed.reset]
  · simp [Fn.reset, Qp.reset]
  · simp [Part.reset]
  · simp [Cistern.reset, Chan.reset]

/-! ### Submission (R64) -/

theorem laneFor_eq (d : BitVec 1024) : laneFor d = if d.toNat % 256 = 9 then .move else .compute := by
  simp [laneFor, hOp, fld, bitsOf]

theorem submitTo_of_room {s : State} {p : PlotIx} {d : BitVec 1024}
    (hq : (laneGet (s.plot p) (laneFor d)).queue.length < 32) (hh : (laneGet (s.plot p) (laneFor d)).held = []) :
    submitTo p d s = enterLane p (laneFor d) d s := by
  simp [submitTo, hq, hh]

theorem submitTo_of_full {s : State} {p : PlotIx} {d : BitVec 1024}
    (h : 32 ≤ (laneGet (s.plot p) (laneFor d)).queue.length ∨ (laneGet (s.plot p) (laneFor d)).held ≠ []) :
    submitTo p d s = s.onPlot p fun x => laneSet x (laneFor d)
      { laneGet x (laneFor d) with held := (laneGet x (laneFor d)).held ++ [d] } := by
  have hfull : ¬ ((laneGet (s.plot p) (laneFor d)).queue.length < 32 ∧ (laneGet (s.plot p) (laneFor d)).held = []) := by
    rintro ⟨hq, hh⟩
    exact h.elim (fun hle => absurd hle (by omega)) (fun hne => hne hh)
  simp [submitTo, hfull]

/-- The oldest submission held outside a lane enters it, where the lane has room. -/
theorem exec_backpressureEntry {s : State} {p : PlotIx} {l : Lane} {d : BitVec 1024} {ds : List (BitVec 1024)}
    (hh : (laneGet (s.plot p) l).held = d :: ds) (hq : (laneGet (s.plot p) l).queue.length < 32) :
    exec (.backpressureEntry p l) s = .next (s.setPlot p (laneSet { s.plot p with clkGated := false } l
      { laneGet (s.plot p) l with queue := (laneGet (s.plot p) l).queue ++ [d], held := ds })) := by
  have hroom : ¬ 32 ≤ (laneGet (s.plot p) l).queue.length := by omega
  change execBackpressureEntry p l s = _
  simp only [execBackpressureEntry, hh, hroom, if_false, enterLane, State.onPlot_onPlot]
  cases l <;> rfl

/-- Settles O7: a lane with room takes the submission, a full one holds it back, and the oldest held enters later. -/
theorem submissionEntersLane : Obligations.SubmissionEntersLane := by
  intro s p d
  simp only [← laneFor_eq]
  refine ⟨fun hq hh => ?_, fun h => ?_, fun k e rest hh hq => exec_backpressureEntry hh hq⟩
  · change execPlotCommandSubmit p d s = _
    rw [execPlotCommandSubmit, submitTo_of_room hq hh]
    cases laneFor d <;> rfl
  · change execPlotCommandSubmit p d s = _
    rw [execPlotCommandSubmit, submitTo_of_full h]
    rfl

/-! ### Requests at an idle point (R80, R86, R209, R298) -/

section
variable {s : State} {p : PlotIx}

theorem exec_reducedApply {v : Bool} (hi : idlePoint (s.plot p) = true) (hv : (s.plot p).reducedReq = some v) :
    exec (.reducedApply p) s =
      .next (s.setPlot p { s.plot p with reduced := if (s.plot p).banks = 0 then v else true, reducedReq := none }) := by
  have hr : (v || decide ((s.plot p).banks ≠ 0)) = if (s.plot p).banks = 0 then v else true := by
    split
    · simp_all
    · rw [decide_eq_true ‹_›, Bool.or_true]
  change execReducedApply p s = _
  simp only [execReducedApply, hv, hi, hr, if_true]

theorem exec_clockGate (hi : idlePoint (s.plot p) = true) (hc : (s.plot p).cgDis = false) :
    exec (.clockGate p) s = .next (s.setPlot p { s.plot p with clkGated := true }) := by
  change execClockGate p s = _
  simp [execClockGate, hi, hc]

theorem exec_layerStateInstall {w : Word} (hw : (s.plot p).layerLoad = some w) (hi : idlePoint (s.plot p) = true) :
    exec (.layerStateInstall p) s = .next (s.setPlot p { s.plot p with
      layerLoad := none, watch := { (s.plot p).watch with layer := layerOf w } }) := by
  change execLayerStateInstall p s = _
  simp [execLayerStateInstall, hw, hi]

end

/-- The fields of BED_CTX_LAYER that a layer state takes (R298). -/
theorem layerOf_fields (w : Word) : (layerOf w).id.toNat = w.toNat % 2 ^ 16 ∧
    (layerOf w).count.toNat = w.toNat / 2 ^ 16 % 2 ^ 8 ∧ (layerOf w).rung.toNat = w.toNat / 2 ^ 24 % 4 ∧
    (layerOf w).wide = w.getLsbD 26 := by
  simp [layerOf, bitsOf, Nat.shiftRight_eq_div_pow]

/-- Settles O21: each request takes effect at an idle point by its own law above. -/
theorem idlePointRequests : Obligations.IdlePointRequests := by
  refine ⟨fun s p hi => ⟨fun v hv => exec_reducedApply hi hv, exec_clockGate hi⟩,
    fun s => ⟨fun p w => rfl, fun b w => ⟨fun h => ?_, fun h => ?_⟩, fun p w hw hi => ?_⟩⟩
  · change execLayerStateLoad b w s = _
    rw [execLayerStateLoad, if_pos h]
    rfl
  · change execLayerStateLoad b w s = _
    rw [execLayerStateLoad, if_neg (by simp only [h]; decide)]
  · obtain ⟨hid, hcount, hrung, hwide⟩ := layerOf_fields w
    refine ⟨_, exec_layerStateInstall hw hi, rfl, fun n hn => State.setPlot_plot_ne s _ hn, ?_⟩
    simp only [State.setPlot_plot]
    refine ⟨hid, hcount, hrung, hwide, ?_⟩
    rw [← hw]

end Sys2Proof.Machine
end

section
/-! Power gating: what each stage leaves of a plot and of the memories (R81, R82, R279). -/

namespace Sys2Proof.Machine

open Host

/-! ### Scratchpads -/

/-- Bytes written into T0, T1 or T2 stand where they were written, and nowhere else. -/
theorem ramByte_ramWrite (a : Nat) (bs : List Byte) (s : State) (x : Nat) :
    ramByte (ramWrite a bs s) x = if a ≤ x ∧ x < a + bs.length then (bs[x - a]?).getD 0 else ramByte s x :=
  tabGet_write s.mem.ram a bs x

theorem ramByte_ramWrite_outside {a x : Nat} {bs : List Byte} (s : State) (h : x < a ∨ a + bs.length ≤ x) :
    ramByte (ramWrite a bs s) x = ramByte s x := by
  rw [ramByte_ramWrite, if_neg (by omega)]

theorem ramByte_t0Zero (p : PlotIx) (s : State) (x : Nat) :
    ramByte (t0Zero p s) x = if t0Addr p 0 ≤ x ∧ x < t0Addr p 0 + t0Size then 0 else ramByte s x :=
  tabGet_clear s.mem.ram (t0Addr p 0) t0Size x

theorem ramByte_t0Free_outside {p : PlotIx} {x : Nat} (s : State) (h : x < t0Addr p 0 ∨ t0Addr p 0 + t0Size ≤ x) :
    ramByte (t0Free p s) x = ramByte s x :=
  ramByte_ramWrite_outside _ (by simpa using h)

theorem t0Free_plot (p : PlotIx) (s : State) : (t0Free p s).plot p = { s.plot p with ring := PageRing.reset } := by
  rw [t0Free, clearTags, State.onPlot_plot]
  rfl

/-! ### Tables and seeds -/

theorem State.setPlot_self (s : State) (p : PlotIx) : s.setPlot p (s.plot p) = s := by
  simp [State.setPlot, State.plot]

/-- Loading the default set again changes the table slots of the plot alone. -/
theorem reloadDefaults_eq (p : PlotIx) (s : State) :
    ∃ v, reloadDefaults p s = s.onPlot p fun x => { x with sfu := v } := by
  have hself : s = s.onPlot p fun x => { x with sfu := x.sfu } := (State.setPlot_self s p).symm
  unfold reloadDefaults
  split
  · exact ⟨_, hself⟩
  · next q _ =>
    refine List.foldlRecOn (motive := fun u => ∃ v, u = s.onPlot p fun x => { x with sfu := v }) _ _ ⟨_, hself⟩ fun u hu e _ => ?_
    obtain ⟨v, rfl⟩ := hu
    dsimp only
    split
    · exact ⟨v.set e.2.1.toFin.val (slotOf e.2.2) e.2.1.toFin.isLt, State.onPlot_onPlot ..⟩
    · exact ⟨v, rfl⟩

/-- The seeding of a woken plot only stages words for its generator (R200). -/
theorem seedWoken_eq (p : PlotIx) (s : State) : seedWoken p s = s ∨ ∃ ws, seedWoken p s =
    s.onPlot p fun x => { x with rng := requestState ws x.rng } := by
  unfold seedWoken
  split
  · split
    · exact .inr ⟨_, rfl⟩
    · exact .inl rfl
  · exact .inl rfl

/-- What a seeding leaves: the memories, the plot's mode, and the words the generator holds. -/
theorem seedWoken_leaves (p : PlotIx) (s : State) : (seedWoken p s).mem = s.mem ∧
    ((seedWoken p s).plot p).mode = (s.plot p).mode ∧ ((seedWoken p s).plot p).rng.s0 = (s.plot p).rng.s0 ∧
    ((seedWoken p s).plot p).rng.s1 = (s.plot p).rng.s1 ∧ ((seedWoken p s).plot p).rng.s2 = (s.plot p).rng.s2 ∧
    ((seedWoken p s).plot p).rng.s3 = (s.plot p).rng.s3 := by
  rcases seedWoken_eq p s with h | ⟨ws, h⟩ <;> rw [h]
  · exact ⟨rfl, rfl, rfl, rfl, rfl, rfl⟩
  · simp [requestState]

/-! ### Gating (R81, R82) -/

section
variable {s : State} {p : PlotIx}

theorem exec_pgIdleTimeout (hj : plotJob s p = none) (hm : (s.plot p).mode = .idle) (he : plotEmpty (s.plot p) = true) :
    exec (.pgIdleTimeout p) s = .next (s.setPlot p { s.plot p with pgReq := true }) := by
  change execPgIdleTimeout p s = _
  simp [execPgIdleTimeout, hj, hm, he, State.onPlot]

theorem exec_powerGateEntry (hr : (s.plot p).pgReq = true) (hm : (s.plot p).mode = .idle) (he : plotEmpty (s.plot p) = true)
    (hc : (s.plot p).compute.held = []) (hv : (s.plot p).move.held = []) (hl : lastPowered s p = false) :
    exec (.powerGateEntry p) s = .next (s.onPlot p fun x => { clearEra x with mode := .gating, clkGated := false }) := by
  change execPowerGateEntry p s = _
  simp [execPowerGateEntry, hr, hm, he, hc, hv, hl]

theorem exec_powerGateComplete (hm : (s.plot p).mode = .gating) :
    exec (.powerGateComplete p) s = .next ((t0Free p s).onPlot p fun x => { x with mode := .off }) := by
  change execPowerGateComplete p s = _
  simp only [execPowerGateComplete, hm, if_true]

theorem exec_powerGateWake (hm : (s.plot p).mode = .off) (hq : (s.plot p).compute.queue ≠ [] ∨ (s.plot p).move.queue ≠ []) :
    exec (.powerGateWake p) s = .next (s.setPlot p { s.plot p with mode := .waking, pgReq := false }) := by
  have hne : ((s.plot p).compute.queue.isEmpty && (s.plot p).move.queue.isEmpty) = false := by
    rcases hq with h | h <;> simp [h]
  change execPowerGateWake p s = _
  simp [execPowerGateWake, hm, hne]

theorem exec_wakeComplete (hm : (s.plot p).mode = .waking) : exec (.wakeComplete p) s = .next (seedWoken p (reloadDefaults p
    ((t0Zero p s).onPlot p fun x => { x with mode := .idle, rng := { Rng.reset with draws := x.rng.draws } }))) := by
  change execWakeComplete p s = _
  simp only [execWakeComplete, hm, if_true]

/-- A woken plot is idle, its generator at (1, 0, 0, 0), and its scratchpad zero. -/
theorem wakeComplete_leaves (hm : (s.plot p).mode = .waking) : ∃ t, exec (.wakeComplete p) s = .next t ∧
    (t.plot p).mode = .idle ∧ (t.plot p).rng.s0 = 1 ∧ (t.plot p).rng.s1 = 0 ∧ (t.plot p).rng.s2 = 0 ∧
    (t.plot p).rng.s3 = 0 ∧ t.mem = (t0Zero p s).mem := by
  refine ⟨_, exec_wakeComplete hm, ?_⟩
  obtain ⟨hmem, hmode, h0, h1, h2, h3⟩ := seedWoken_leaves p (reloadDefaults p
    ((t0Zero p s).onPlot p fun x => { x with mode := .idle, rng := { Rng.reset with draws := x.rng.draws } }))
  rw [hmem, hmode, h0, h1, h2, h3]
  obtain ⟨v, hv⟩ := reloadDefaults_eq p
    ((t0Zero p s).onPlot p fun x => { x with mode := .idle, rng := { Rng.reset with draws := x.rng.draws } })
  rw [hv]
  simp [Rng.reset]

end

/-- Settles O20: each stage of power gating by its own law above. -/
theorem powerGating : Obligations.PowerGating := by
  refine fun s p => ⟨exec_pgIdleTimeout, fun hr hm he hc hv hl => ?_, fun hm => ?_, exec_powerGateWake, fun hm _ => ?_⟩
  · refine ⟨_, exec_powerGateEntry hr hm he hc hv hl, ?_⟩
    simp only [State.onPlot_plot]
    exact ⟨trivial, rfl, fun k => by simp [clearEra, slotsInvalid, SfuSlot.reset], rfl, rfl, fun n hn => State.onPlot_plot_ne s _ hn⟩
  · refine ⟨_, exec_powerGateComplete hm, ?_, ?_, fun a ha => ramByte_t0Free_outside s ha⟩
    · rw [State.onPlot_plot]
    · rw [State.onPlot_plot, t0Free_plot]
  · obtain ⟨t, ht, hmode, h0, h1, h2, h3, hmem⟩ := wakeComplete_leaves hm
    have hbyte : ∀ a, ramByte t a = if t0Addr p 0 ≤ a ∧ a < t0Addr p 0 + t0Size then 0 else ramByte s a := fun a => by
      rw [← ramByte_t0Zero p s a, ramByte, hmem, ramByte]
    refine ⟨t, ht, hmode, h0, h1, h2, h3, fun a hlo hhi => ?_, fun a ha => ?_⟩
    · rw [hbyte, if_pos ⟨hlo, hhi⟩]
    · rw [hbyte, if_neg (by omega)]

end Sys2Proof.Machine
end

section
/-! The end of a command: its record, its post and what halting, flushing and pruning leave (R68 steps 9 to 11, R76 to R78). -/

namespace Sys2Proof.Machine

open Host

/-! ### Records (R76, R93) -/

/-- What a command that ended at a time appends to the completion ring of its bed. -/
def recordOf (p : PlotIx) (l : Lane) (d : BitVec 1024) (e : Ended) (time : DWord) : BitVec 256 × Word :=
  (completionRecord d e.status p.val (laneCode l) e.esc e.retries e.cycles time.toNat e.progress e.fault, BitVec.ofNat 32 (hEpoch d))

section
variable (p : PlotIx) (l : Lane) (d : BitVec 1024) (e : Ended) (s : State)

theorem writeRecord_eq : writeRecord p l d e s =
    s.onBed (bedOf p) fun b => { b with ring := b.ring ++ [recordOf p l d e s.time] } := rfl

@[simp] theorem step10_plot : (step10 p l d e s).plot p = noteLast d e (s.plot p) := by
  unfold step10
  split <;> simp [writeRecord_eq]

@[simp] theorem step10_mem : (step10 p l d e s).mem = s.mem := by
  unfold step10
  split <;> simp [writeRecord_eq]

@[simp] theorem step10_dev : (step10 p l d e s).dev = s.dev := by
  unfold step10
  split <;> simp [writeRecord_eq]

@[simp] theorem step10_time : (step10 p l d e s).time = s.time := by
  unfold step10
  split <;> simp [writeRecord_eq]

@[simp] theorem step10_sems : ((step10 p l d e s).bed (bedOf p)).sems = (s.bed (bedOf p)).sems := by
  unfold step10
  split <;> simp [writeRecord_eq]

/-- A record is written if EVT is set or the command did not end OK. -/
theorem step10_ring : ((step10 p l d e s).bed (bedOf p)).ring =
    (s.bed (bedOf p)).ring ++ if hEvt d = true ∨ e.status ≠ stOk then [recordOf p l d e s.time] else [] := by
  unfold step10
  by_cases h : hEvt d = true ∨ e.status ≠ stOk
  · simp [if_pos h, writeRecord_eq]
  · simp [if_neg h]

end

/-! ### Performance counters (R469) -/

/-- A DEBUG cause is latched in a function alone. -/
theorem raiseDebug_leaves (q : PartIx) (s : State) : (raiseDebug q s).plots = s.plots ∧ (raiseDebug q s).mem = s.mem ∧
    (raiseDebug q s).dev = s.dev ∧ (raiseDebug q s).time = s.time ∧ (raiseDebug q s).beds = s.beds := by
  unfold raiseDebug raiseEvent
  split
  · split <;> exact ⟨rfl, rfl, rfl, rfl, rfl⟩
  · exact ⟨rfl, rfl, rfl, rfl, rfl⟩

/-- Counting an event in a plot changes its counters, and the causes of a function when one saturates. -/
theorem perfAdd_leaves (p : PlotIx) (code n : Nat) (s : State) :
    (∃ v, (perfAdd p code n s).plot p = { s.plot p with perf := v }) ∧ (perfAdd p code n s).mem = s.mem ∧
      (perfAdd p code n s).dev = s.dev ∧ (perfAdd p code n s).time = s.time ∧ (perfAdd p code n s).beds = s.beds := by
  unfold perfAdd
  split
  · exact ⟨⟨_, rfl⟩, rfl, rfl, rfl, rfl⟩
  · dsimp only
    split
    · split
      · obtain ⟨hplots, hmem, hdev, htime, hbeds⟩ := raiseDebug_leaves ‹_› (s.setPlot p _)
        exact ⟨⟨_, by rw [State.plot, hplots]; exact State.setPlot_plot ..⟩, hmem, hdev, htime, hbeds⟩
      · exact ⟨⟨_, State.setPlot_plot ..⟩, rfl, rfl, rfl, rfl⟩
    · exact ⟨⟨_, State.setPlot_plot ..⟩, rfl, rfl, rfl, rfl⟩

/-! ### Halting, settling and flushing a plot (R77, R78) -/

theorem plotSettle_of_ne_run {x : Plot} (h : x.mode ≠ .run) : plotSettle x = x := by simp [plotSettle, h]

@[simp] theorem plotSettle_haltCause (x : Plot) : (plotSettle x).haltCause = x.haltCause := by unfold plotSettle; split <;> rfl
@[simp] theorem plotSettle_era (x : Plot) : (plotSettle x).era = x.era := by unfold plotSettle; split <;> rfl
@[simp] theorem plotSettle_lastTag (x : Plot) : (plotSettle x).lastTag = x.lastTag := by unfold plotSettle; split <;> rfl
@[simp] theorem plotSettle_lastOp (x : Plot) : (plotSettle x).lastOp = x.lastOp := by unfold plotSettle; split <;> rfl
@[simp] theorem plotSettle_lastStatus (x : Plot) : (plotSettle x).lastStatus = x.lastStatus := by unfold plotSettle; split <;> rfl
@[simp] theorem plotSettle_win (x : Plot) : (plotSettle x).win = x.win := by unfold plotSettle; split <;> rfl
@[simp] theorem plotSettle_compute (x : Plot) : (plotSettle x).compute = x.compute := by unfold plotSettle; split <;> rfl
@[simp] theorem plotSettle_move (x : Plot) : (plotSettle x).move = x.move := by unfold plotSettle; split <;> rfl
@[simp] theorem plotSettle_flushing (x : Plot) : (plotSettle x).flushing = x.flushing := by unfold plotSettle; split <;> rfl

theorem haltPlot_of_run {x : Plot} (st : Nat) (h : x.mode = .run) :
    haltPlot st x = { x with mode := .halted, haltCause := BitVec.ofNat 8 st } := by simp [haltPlot, h]

@[simp] theorem haltPlot_era (st : Nat) (x : Plot) : (haltPlot st x).era = x.era := by unfold haltPlot; split <;> rfl
@[simp] theorem haltPlot_lastTag (st : Nat) (x : Plot) : (haltPlot st x).lastTag = x.lastTag := by unfold haltPlot; split <;> rfl
@[simp] theorem haltPlot_lastOp (st : Nat) (x : Plot) : (haltPlot st x).lastOp = x.lastOp := by unfold haltPlot; split <;> rfl
@[simp] theorem haltPlot_lastStatus (st : Nat) (x : Plot) : (haltPlot st x).lastStatus = x.lastStatus := by unfold haltPlot; split <;> rfl
@[simp] theorem haltPlot_win (st : Nat) (x : Plot) : (haltPlot st x).win = x.win := by unfold haltPlot; split <;> rfl
@[simp] theorem haltPlot_compute (st : Nat) (x : Plot) : (haltPlot st x).compute = x.compute := by unfold haltPlot; split <;> rfl
@[simp] theorem haltPlot_move (st : Nat) (x : Plot) : (haltPlot st x).move = x.move := by unfold haltPlot; split <;> rfl
@[simp] theorem haltPlot_flushing (st : Nat) (x : Plot) : (haltPlot st x).flushing = x.flushing := by unfold haltPlot; split <;> rfl

theorem flushDone_of_not_flushing {x : Plot} (h : x.flushing = false) : flushDone x = x := by simp [flushDone, h]

theorem State.onPlot_congr {s : State} {p : PlotIx} {f g : Plot → Plot} (h : f (s.plot p) = g (s.plot p)) :
    s.onPlot p f = s.onPlot p g := congrArg (s.setPlot p) h

/-! ### Steps 9 to 11 (R68) -/

/-- The state in which a lane runs nothing any more. -/
def freed (p : PlotIx) (l : Lane) (s : State) : State :=
  s.onPlot p fun x => laneSet x l { laneGet x l with run := none, stage := .queued }

theorem pruneOnResidue_of_below {s : State} {p : PlotIx} (h : residueBelow s p) : pruneOnResidue p s = s := by
  obtain ⟨hfault, hmismatch⟩ := h
  simp only [pruneOnResidue]
  split
  · rfl
  · rw [if_neg]
    simp; omega

theorem residueBelow_congr {s t : State} {p : PlotIx} (hw : (t.plot p).win = (s.plot p).win) (hd : t.dev = s.dev)
    (h : residueBelow s p) : residueBelow t p := by
  rwa [residueBelow, hw, hd]

theorem armCapture_of_no_cutting {s : State} {p : PlotIx} {d : BitVec 1024} {e : Ended} (h : s.dev.cuttingEn = false) :
    armCapture p d e s = none := by
  simp [armCapture, matchedCuts, h]

section
variable {s : State} {p : PlotIx} {l : Lane} {d : BitVec 1024} {e : Ended}

theorem freed_plot : (freed p l s).plot p = laneSet (s.plot p) l { laneGet (s.plot p) l with run := none, stage := .queued } :=
  State.onPlot_plot ..

@[simp] theorem freed_dev : (freed p l s).dev = s.dev := rfl

@[simp] theorem freed_win : ((freed p l s).plot p).win = (s.plot p).win := by cases l <;> simp [freed_plot, laneSet]

@[simp] theorem freed_flushing : ((freed p l s).plot p).flushing = (s.plot p).flushing := by cases l <;> simp [freed_plot, laneSet]

/-- A command that ends with a failing status halts its plot, where no flush is under way and no residue count prunes it. -/
theorem endCommand_of_failed (hok : e.status ≠ stOk) (hf : e.status ≠ stFlushed) (hfl : (s.plot p).flushing = false)
    (hres : residueBelow s p) :
    endCommand p l d e s = (step10 p l d e (freed p l s)).onPlot p fun x => plotSettle (haltPlot e.status x) := by
  have hset : ((step10 p l d e (freed p l s)).onPlot p (haltPlot e.status)).onPlot p (fun x => flushDone (plotSettle x)) =
      (step10 p l d e (freed p l s)).onPlot p fun x => plotSettle (haltPlot e.status x) := by
    rw [State.onPlot_onPlot]
    exact State.onPlot_congr (flushDone_of_not_flushing (by simp [noteLast, hfl]))
  have hbelow : residueBelow ((step10 p l d e (freed p l s)).onPlot p fun x => plotSettle (haltPlot e.status x)) p :=
    residueBelow_congr (by simp [noteLast]) (by simp) hres
  unfold endCommand
  rw [← freed]
  simp only [hok, hf, if_false, decide_false, Bool.false_and, Bool.false_eq_true]
  rw [hset, pruneOnResidue_of_below hbelow]

/-- Step 11 keeps the memories, the device's settings, and of its plot all but the mode, the cause and the last status. -/
theorem step11_leaves (p : PlotIx) (l : Lane) (d : BitVec 1024) (e : Ended) (s : State) : (step11 p l d e s).mem = s.mem ∧
    (step11 p l d e s).dev = s.dev ∧ ((step11 p l d e s).plot p).flushing = (s.plot p).flushing ∧
    ((step11 p l d e s).plot p).win = (s.plot p).win ∧ laneGet ((step11 p l d e s).plot p) l = laneGet (s.plot p) l ∧
    ((step11 p l d e s).plot p).lastTag = (s.plot p).lastTag ∧ ((step11 p l d e s).plot p).lastOp = (s.plot p).lastOp := by
  unfold step11
  split
  · dsimp only
    split
    · cases l <;> simp [writeRecord_eq, laneGet]
    · exact ⟨rfl, rfl, rfl, rfl, rfl, rfl, rfl⟩
  · exact ⟨rfl, rfl, rfl, rfl, rfl, rfl, rfl⟩

theorem step11_of_no_post (h : hSemPost d = false) : step11 p l d e s = s := by simp [step11, h]

theorem step11_of_post (h : hSemPost d = true) (hk : (s.bed (bedOf p)).sems[hPostSem d] ≠ 0xFFFF) :
    step11 p l d e s = s.onBed (bedOf p) fun b =>
      { b with sems := b.sems.set (hPostSem d).val (b.sems[hPostSem d] + 1) (hPostSem d).isLt } := by
  rw [step11, if_pos h]
  exact if_neg hk

theorem step11_of_overflow (h : hSemPost d = true) (hk : (s.bed (bedOf p)).sems[hPostSem d] = 0xFFFF) :
    step11 p l d e s = (writeRecord p l d { e with status := stSemOvf } s).onPlot p fun x =>
      haltPlot stSemOvf { x with lastStatus := BitVec.ofNat 8 stSemOvf } := by
  rw [step11, if_pos h]
  exact if_pos hk

/-- The state at step 11 of a command that ends OK. -/
def recorded (p : PlotIx) (l : Lane) (d : BitVec 1024) (e : Ended) (s : State) : State :=
  perfAdd p 0x07 1 (step10 p l d e (freed p l s))

/-- Up to step 11 the lane is freed, the record written and the command noted; the semaphores and memories are as before. -/
theorem recorded_leaves (p : PlotIx) (l : Lane) (d : BitVec 1024) (e : Ended) (s : State) :
    (∃ v, (recorded p l d e s).plot p = { noteLast d e ((freed p l s).plot p) with perf := v }) ∧
      (recorded p l d e s).mem = s.mem ∧ (recorded p l d e s).dev = s.dev ∧ (recorded p l d e s).time = s.time ∧
      ((recorded p l d e s).bed (bedOf p)).sems = (s.bed (bedOf p)).sems ∧
      ((recorded p l d e s).bed (bedOf p)).ring =
        (s.bed (bedOf p)).ring ++ if hEvt d = true ∨ e.status ≠ stOk then [recordOf p l d e s.time] else [] := by
  obtain ⟨⟨v, hplot⟩, hmem, hdev, htime, hbeds⟩ := perfAdd_leaves p 0x07 1 (step10 p l d e (freed p l s))
  refine ⟨⟨v, by rw [recorded, hplot, step10_plot]⟩, by rw [recorded, hmem, step10_mem]; rfl,
    by rw [recorded, hdev, step10_dev]; rfl, by rw [recorded, htime, step10_time]; rfl, ?_, ?_⟩
  · rw [recorded, State.bed, hbeds]
    exact step10_sems ..
  · rw [recorded, State.bed, hbeds]
    exact step10_ring ..

/-- A command that ends OK and matches no cutting posts, where no flush is under way and no residue count prunes its plot. -/
theorem endCommand_of_ok (hok : e.status = stOk) (hcut : s.dev.cuttingEn = false) (hfl : (s.plot p).flushing = false)
    (hres : residueBelow s p) : endCommand p l d e s = (step11 p l d e (recorded p l d e s)).onPlot p plotSettle := by
  obtain ⟨⟨v, hplot⟩, -, hdev, -⟩ := recorded_leaves p l d e s
  obtain ⟨-, hdev', hflush, hwin, -⟩ := step11_leaves p l d e (recorded p l d e s)
  have hcapture : (if l = .compute then armCapture p d e (recorded p l d e s) else none) = none := by
    split
    · exact armCapture_of_no_cutting (by rw [hdev, hcut])
    · rfl
  have hset : (step11 p l d e (recorded p l d e s)).onPlot p (fun x => flushDone (plotSettle x)) =
      (step11 p l d e (recorded p l d e s)).onPlot p plotSettle :=
    State.onPlot_congr (flushDone_of_not_flushing (by simp [hflush, hplot, noteLast, hfl]))
  have hbelow : residueBelow ((step11 p l d e (recorded p l d e s)).onPlot p plotSettle) p :=
    residueBelow_congr (by simp [hwin, hplot, noteLast]) (by simp [hdev', hdev]) hres
  unfold endCommand
  rw [← freed]
  simp only [hok, if_true]
  rw [← recorded]
  simp only [hcapture]
  rw [hset, pruneOnResidue_of_below hbelow]

end

/-! ### Completion (R75) -/

@[simp] theorem laneGet_plotSettle (x : Plot) (l : Lane) : laneGet (plotSettle x) l = laneGet x l := by cases l <;> simp [laneGet]
@[simp] theorem laneGet_haltPlot (st : Nat) (x : Plot) (l : Lane) : laneGet (haltPlot st x) l = laneGet x l := by
  cases l <;> simp [laneGet]

theorem laneGet_noteLast (d : BitVec 1024) (e : Ended) (x : Plot) (l : Lane) : laneGet (noteLast d e x) l = laneGet x l := by
  cases l <;> rfl

theorem hTag_lt (d : BitVec 1024) : hTag d < 2 ^ 16 := Nat.mod_lt _ (by decide)
theorem hOp_lt (d : BitVec 1024) : hOp d < 2 ^ 8 := Nat.mod_lt _ (by decide)

section
variable {s : State} {p : PlotIx} {l : Lane} {r : Run}

/-- COMMAND_COMPLETE of a SYNC, a GEMM without a tile left or a MOVE without a row left ends it OK. -/
theorem exec_commandComplete_of_finished (hr : (laneGet (s.plot p) l).run = some r) (hh : holdActive s = false)
    (hd : hOp r.desc = 0x0B ∧ l = .compute ∨ hOp r.desc = 0x01 ∧ l = .compute ∧ r.done = r.total ∨
      hOp r.desc = 0x09 ∧ l = .move ∧ r.done = r.total) :
    exec (.commandComplete p l cleanReads cleanTable []) s =
      .next (endCommand p l r.desc (endedRun r stOk (startTile r.desc + r.done) 0) s) := by
  change execCommandComplete p l cleanReads cleanTable [] s = _
  rcases hd with ⟨hop, rfl⟩ | ⟨hop, rfl, hdone⟩ | ⟨hop, rfl, hdone⟩
  · simp [execCommandComplete, hr, hh, completeCompute, unitSize, hop, endOk, endRun]
  · simp [execCommandComplete, hr, hh, completeCompute, unitSize, hop, hdone, endOk, endRun]
  · simp [execCommandComplete, hr, hh, hdone, endOk, endRun]

end

/-- At step 11 the lane runs nothing, the plot notes the command, and its mode is as before. -/
theorem recorded_plot (p : PlotIx) (l : Lane) (d : BitVec 1024) (e : Ended) (s : State) :
    (laneGet ((recorded p l d e s).plot p) l).run = none ∧ ((recorded p l d e s).plot p).lastTag.toNat = hTag d ∧
      ((recorded p l d e s).plot p).lastOp.toNat = hOp d ∧ ((recorded p l d e s).plot p).lastStatus = BitVec.ofNat 8 e.status ∧
      ((recorded p l d e s).plot p).mode = (s.plot p).mode := by
  obtain ⟨⟨v, hplot⟩, -⟩ := recorded_leaves p l d e s
  have htag : hTag d < 65536 := hTag_lt d
  have hop : hOp d < 256 := hOp_lt d
  rw [hplot]
  cases l <;> simp [noteLast, freed_plot, laneGet, laneSet, htag, hop]

/-- The record that a command which ended OK leaves if EVT is set. -/
def okRecord (p : PlotIx) (l : Lane) (d : BitVec 1024) (e : Ended) (s : State) : List (BitVec 256 × Word) :=
  if hEvt d then [recordOf p l d e s.time] else []

/-- The state in which a command that ended OK is over. -/
def completed (p : PlotIx) (l : Lane) (d : BitVec 1024) (e : Ended) (s : State) : State :=
  (step11 p l d e (recorded p l d e s)).onPlot p plotSettle

section
variable {s : State} {p : PlotIx} {l : Lane} {d : BitVec 1024} {e : Ended}

theorem recorded_ring_of_ok (hok : e.status = stOk) :
    ((recorded p l d e s).bed (bedOf p)).ring = (s.bed (bedOf p)).ring ++ okRecord p l d e s := by
  obtain ⟨-, -, -, -, -, hring⟩ := recorded_leaves p l d e s
  simpa [hok, okRecord] using hring

/-- A completed command without a post changes no semaphore. -/
theorem completed_of_no_post (hok : e.status = stOk) (h : hSemPost d = false) :
    ((completed p l d e s).plot p).lastStatus = 0 ∧
      ((completed p l d e s).bed (bedOf p)).ring = (s.bed (bedOf p)).ring ++ okRecord p l d e s ∧
      ((completed p l d e s).bed (bedOf p)).sems = (s.bed (bedOf p)).sems := by
  obtain ⟨-, -, -, -, hsems, -⟩ := recorded_leaves p l d e s
  obtain ⟨-, -, -, hst, -⟩ := recorded_plot p l d e s
  rw [completed, step11_of_no_post h]
  simp [recorded_ring_of_ok hok, hsems, hst, hok, stOk]

/-- A post below 65,535 raises its semaphore by one. -/
theorem completed_of_post (hok : e.status = stOk) (h : hSemPost d = true) (hk : (s.bed (bedOf p)).sems[hPostSem d] ≠ 0xFFFF) :
    ((completed p l d e s).plot p).lastStatus = 0 ∧
      ((completed p l d e s).bed (bedOf p)).ring = (s.bed (bedOf p)).ring ++ okRecord p l d e s ∧
      ((completed p l d e s).bed (bedOf p)).sems =
        (s.bed (bedOf p)).sems.set (hPostSem d).val ((s.bed (bedOf p)).sems[hPostSem d] + 1) (hPostSem d).isLt := by
  obtain ⟨-, -, -, -, hsems, -⟩ := recorded_leaves p l d e s
  obtain ⟨-, -, -, hst, -⟩ := recorded_plot p l d e s
  rw [completed, step11_of_post h (by rwa [hsems])]
  simp [recorded_ring_of_ok hok, hsems, hst, hok, stOk]

/-- A post that finds 65,535 leaves the semaphores, adds a record SEM_OVF and halts a running plot. -/
theorem completed_of_overflow (hok : e.status = stOk) (h : hSemPost d = true) (hk : (s.bed (bedOf p)).sems[hPostSem d] = 0xFFFF) :
    ((completed p l d e s).bed (bedOf p)).sems = (s.bed (bedOf p)).sems ∧
      ((completed p l d e s).bed (bedOf p)).ring =
        (s.bed (bedOf p)).ring ++ okRecord p l d e s ++ [recordOf p l d { e with status := stSemOvf } s.time] ∧
      ((s.plot p).mode = .run → ((completed p l d e s).plot p).mode = .halted ∧
        ((completed p l d e s).plot p).haltCause = BitVec.ofNat 8 stSemOvf) := by
  obtain ⟨-, -, -, htime, hsems, -⟩ := recorded_leaves p l d e s
  obtain ⟨-, -, -, -, hmode⟩ := recorded_plot p l d e s
  rw [completed, step11_of_overflow h (by rwa [hsems])]
  refine ⟨by simp [writeRecord_eq, hsems], by simp [writeRecord_eq, recorded_ring_of_ok hok, htime], fun hrun => ?_⟩
  simp [writeRecord_eq, haltPlot_of_run, plotSettle_of_ne_run, hmode, hrun]

end

/-- Settles O15: the command ends OK, and its post decides the rest. -/
theorem commandsComplete : Obligations.CommandsComplete := by
  intro s p l r hr hh hfl hcut hres hd
  dsimp only
  refine ⟨_, exec_commandComplete_of_finished hr hh hd, ?_⟩
  set e := endedRun r stOk (startTile r.desc + r.done) 0
  rw [endCommand_of_ok rfl hcut hfl hres, ← completed]
  obtain ⟨-, hmem, -⟩ := recorded_leaves p l r.desc e s
  obtain ⟨hrun, htag, hop, -⟩ := recorded_plot p l r.desc e s
  obtain ⟨hmem', -, -, -, hlane, htag', hop'⟩ := step11_leaves p l r.desc e (recorded p l r.desc e s)
  refine ⟨?_, hmem'.trans hmem, ?_, ?_, fun hpost => ?_, fun hpost hfull => completed_of_overflow rfl hpost hfull⟩
  · rw [completed, State.onPlot_plot, laneGet_plotSettle, hlane, hrun]
  · rw [completed, State.onPlot_plot, plotSettle_lastTag, htag', htag]
  · rw [completed, State.onPlot_plot, plotSettle_lastOp, hop', hop]
  · cases h : hSemPost r.desc with
    | false => exact completed_of_no_post rfl h
    | true => exact completed_of_post rfl h (hpost.resolve_left (by simp [h]))

end Sys2Proof.Machine
end

section
/-! Commands that leave their waits: those that fail at steps 5 and 6, and those that begin (R67, R68, R73, R74, R79). -/

namespace Sys2Proof.Machine

open Host

/-! ### A command that never began (R76, R77) -/

@[simp] theorem endedEarly_status (st progress fault : Nat) : (endedEarly st progress fault).status = st := rfl

section
variable {s : State} {p : PlotIx} {l : Lane} {d : BitVec 1024}

theorem afterWaits_plot : (afterWaits p l d s).plot p = laneSet { s.plot p with mode := .run, clkGated := false } l
    { laneGet (s.plot p) l with queue := (laneGet (s.plot p) l).queue.tail, stage := .queued } := by
  rw [afterWaits, traceCommand_plot, waited_plot]

@[simp] theorem afterWaits_dev : (afterWaits p l d s).dev = s.dev := by simp [afterWaits, waited]

@[simp] theorem afterWaits_mem : (afterWaits p l d s).mem = s.mem := by simp [afterWaits, waited]

@[simp] theorem afterWaits_time : (afterWaits p l d s).time = s.time := by simp [afterWaits, waited]

@[simp] theorem afterWaits_ring : ((afterWaits p l d s).bed (bedOf p)).ring = (s.bed (bedOf p)).ring := by
  simp [afterWaits, waited]

/-- What a command that ended after its waits and before anything of it ran leaves: its lane is free, the plot is halted with the
status, and its record stands in the ring of the bed. -/
structure FailedEarly (s t : State) (p : PlotIx) (l : Lane) (d : BitVec 1024) (st : Nat) : Prop where
  mem : t.mem = s.mem
  era : (t.plot p).era = (s.plot p).era
  run : (laneGet (t.plot p) l).run = none
  queue : (laneGet (t.plot p) l).queue = (laneGet (s.plot p) l).queue.tail
  mode : (t.plot p).mode = .halted
  cause : (t.plot p).haltCause = BitVec.ofNat 8 st
  last : (t.plot p).lastStatus = BitVec.ofNat 8 st
  ring : (t.bed (bedOf p)).ring = (s.bed (bedOf p)).ring ++ [recordOf p l d (endedEarly st (startTile d) 0) s.time]

theorem failedEarly_of_afterWaits {st : Nat} (hw : LeavesWaits s p l d) (hres : residueBelow s p) (hok : st ≠ stOk)
    (hf : st ≠ stFlushed) :
    FailedEarly s (endCommand p l d (endedEarly st (startTile d) 0) (afterWaits p l d s)) p l d st := by
  have hfl : ((afterWaits p l d s).plot p).flushing = false := by
    cases l <;> simp [afterWaits_plot, laneSet, hw.noFlush]
  have hres' : residueBelow (afterWaits p l d s) p :=
    residueBelow_congr (by cases l <;> simp [afterWaits_plot, laneSet]) afterWaits_dev hres
  have hrun : (noteLast d (endedEarly st (startTile d) 0) ((freed p l (afterWaits p l d s)).plot p)).mode = .run := by
    cases l <;> simp [noteLast, freed_plot, afterWaits_plot, laneSet]
  rw [endCommand_of_failed hok hf hfl hres']
  constructor
  · simp [freed]
  · cases l <;> simp [noteLast, freed_plot, afterWaits_plot, laneSet]
  · simp [laneGet_noteLast, freed_plot]
  · simp [laneGet_noteLast, freed_plot, afterWaits_plot]
  · simp [haltPlot_of_run _ hrun, plotSettle_of_ne_run]
  · simp [haltPlot_of_run _ hrun]
  · simp [noteLast]
  · simp [step10_ring, freed, hok]

/-- A head command stamped with another era fails STALE, whatever its opcode and body. -/
theorem leaveWaits_of_stale (isOp : Nat → Bool) (check : BitVec 1024 → State → Option (Nat × Nat))
    (start : BitVec 1024 → State → State) (hw : LeavesWaits s p l d) (hop : isOp (hOp d) = true)
    (hera : hEra d ≠ (s.plot p).era.toNat) (hres : residueBelow s p) :
    FailedEarly s (leaveWaits p l isOp check start s) p l d stStale := by
  rw [leaveWaits_issue isOp check start hw hop, issue_stale, ← afterWaits]
  · exact failedEarly_of_afterWaits hw hres (by decide) (by decide)
  · rw [waited_plot]
    cases l <;> exact hera

/-- A head command with an opcode of no unit fails ILLEGAL_OP. -/
theorem leaveWaits_of_illegal (isOp : Nat → Bool) (start : BitVec 1024 → State → State) (hi : Issues s p l d)
    (hop : isOp (hOp d) = true) (hres : residueBelow s p) :
    FailedEarly s (leaveWaits p l isOp (fun _ _ => some (stIllegal, 0)) start s) p l d stIllegal := by
  rw [leaveWaits_issue isOp _ start hi.toLeavesWaits hop]
  have hera : hEra d = ((waited p l d s).plot p).era.toNat := by
    rw [waited_plot]
    cases l <;> exact hi.era
  simp only [issue, hera, hi.header, ne_eq, not_true, if_false, Bool.false_eq_true]
  exact failedEarly_of_afterWaits hi.toLeavesWaits hres (by decide) (by decide)

/-- The same for the command of an event that is about one opcode. -/
theorem exec_of_stale {c : Instr} {n : Nat} {check : BitVec 1024 → State → Option (Nat × Nat)}
    {start : BitVec 1024 → State → State} (hc : exec c s = .next (leaveWaits p l (fun o => decide (o = n)) check start s))
    (hw : LeavesWaits s p l d) (hera : hEra d ≠ (s.plot p).era.toNat) (hres : residueBelow s p) (hop : hOp d = n) :
    ∃ t, exec c s = .next t ∧ FailedEarly s t p l d stStale :=
  ⟨_, hc, leaveWaits_of_stale _ check start hw (decide_eq_true hop) hera hres⟩

end

theorem not_knownOp {o : Nat} (h : o = 0 ∨ 0x0C < o) : knownOp o = false := by
  rcases h with rfl | h
  · rfl
  · simp [knownOp, h]

/-- Settles O9: step 5 fails every opcode of another era, step 6 those that name no unit. -/
theorem staleAndUnknownFail : Obligations.StaleAndUnknownFail := by
  intro s p d
  dsimp only
  have hfailed : ∀ {c : Instr} {l : Lane} {st : Nat}, (∃ t, exec c s = .next t ∧ FailedEarly s t p l d st) →
      ∃ t, exec c s = .next t ∧ t.mem = s.mem ∧ (t.plot p).era = (s.plot p).era ∧ (laneGet (t.plot p) l).run = none ∧
        (laneGet (t.plot p) l).queue = (laneGet (s.plot p) l).queue.tail ∧ (t.plot p).mode = .halted ∧
        (t.plot p).haltCause = BitVec.ofNat 8 st ∧ (t.plot p).lastStatus = BitVec.ofNat 8 st ∧
        (t.bed (bedOf p)).ring = (s.bed (bedOf p)).ring ++ [recordOf p l d (endedEarly st (startTile d) 0) s.time] :=
    fun ⟨t, ht, h⟩ => ⟨t, ht, h.mem, h.era, h.run, h.queue, h.mode, h.cause, h.last, h.ring⟩
  intro hres
  refine ⟨fun hw hera => ?_, fun hw hera hop => hfailed (exec_of_stale rfl hw hera hres hop), fun hi hop => ?_⟩
  · simp only [List.forall_mem_cons, List.not_mem_nil, false_imp_iff, implies_true, and_true]
    refine ⟨?_, ?_, ?_, ?_, ?_, ?_, ?_, ?_⟩ <;> exact fun hop => hfailed (exec_of_stale rfl hw hera hres hop)
  · exact hfailed ⟨_, rfl, leaveWaits_of_illegal _ _ hi (by rw [not_knownOp hop]; rfl) hres⟩

/-! ### Commands that begin (R68 step 8, R79) -/

section
variable {s : State} {p : PlotIx} {d : BitVec 1024}

/-- A command that passes steps 1 to 7 begins a run of its units. -/
theorem exec_of_begun {c : Instr} {n : Nat} {check : BitVec 1024 → State → Option (Nat × Nat)}
    (total cycles : BitVec 1024 → Nat) (hc : exec c s =
      .next (leaveWaits p .compute (fun o => decide (o = n)) check (fun d => beginRun p .compute d (total d) (cycles d)) s))
    (hi : Issues s p .compute d) (hop : hOp d = n) (hp : check d (afterWaits p .compute d s) = none) :
    exec c s = .next (begun p .compute d (total d) (plannedCycles s p (cycles d)) s) := by
  rw [hc, leaveWaits_start _ _ _ hi (decide_eq_true hop) hp, beginRun_begun]

/-- A run whose cycles reduced mode does not multiply. -/
theorem beginFlat_begun (c : Nat) :
    beginFlat p d c (if Lane.compute = .compute then (afterWaits p .compute d s).onPlot p (layerStart d) else afterWaits p .compute d s) =
      begun p .compute d 0 (c + if s.dev.traceEn then 8 else 0) s := by
  have hdev : (if Lane.compute = .compute then (afterWaits p .compute d s).onPlot p (layerStart d)
      else afterWaits p .compute d s).dev = s.dev := by simp
  rw [beginFlat, hdev, beginRun_begun, onRun, begun, State.onPlot_onPlot]
  rfl

theorem onRun_id (p : PlotIx) (l : Lane) (s : State) : onRun p l (fun r => r) s = s := by
  have hplot : laneSet (s.plot p) l { laneGet (s.plot p) l with run := (laneGet (s.plot p) l).run.map fun r => r } = s.plot p := by
    cases l <;> simp [laneSet, laneGet]
  rw [onRun, State.onPlot, hplot, State.setPlot_self]

theorem exec_sync_of_begun (hi : Issues s p .compute d) (hop : hOp d = 0x0B) (hb : bytesSet d 0x20 0x80 = false) :
    exec (.sync p) s = .next (begun p .compute d 0 (4 + if s.dev.traceEn then 8 else 0) s) := by
  change execSync p s = _
  rw [execSync, leaveWaits_start _ _ _ hi (decide_eq_true hop) (if_neg (by simp [hb])), beginFlat_begun]

theorem exec_test_of_begun (hi : Issues s p .compute d) (hop : hOp d = 0x0C) (hp : passes checkTest p .compute d s) :
    exec (.test p none) s = .next (begun p .compute d 0 (testCycles (testPattern d) + if s.dev.traceEn then 8 else 0) s) := by
  change execTest p none s = _
  rw [execTest, leaveWaits_start _ _ _ hi (decide_eq_true hop) hp]
  exact congrArg Outcome.next ((onRun_id ..).trans (beginFlat_begun _))

/-! ### EVAL after its default set (R131, R136) -/

theorem canStart_of_leavesWaits {l : Lane} (h : LeavesWaits s p l d) : canStart s p l = true := by
  have hcapture : (decide (l = .move) || (s.plot p).capture.isNone) = true := by
    rcases h.noCapture with hl | hcap
    · simp [hl]
    · simp [hcap]
  have hmode : (decide ((s.plot p).mode = .idle) || decide ((s.plot p).mode = .run)) = true := by
    simpa using h.mode
  simp only [canStart, hmode, h.noHold, h.gate, h.noFlush, h.free, hcapture, Option.isNone_none, Bool.not_false, Bool.and_true]

theorem headSop_of_leavesWaits (h : LeavesWaits s p .compute d) (ok : Nat → Bool) :
    headSop s p ok = (hOp d == 0x05 && ok (uOp d)) := by
  have hq : (s.plot p).compute.queue.head? = some d := h.head
  obtain ⟨ds, hds⟩ := List.head?_eq_some_iff.1 hq
  simp only [headSop, hds]

/-- What an EVAL costs depends on the plot's default mode alone. -/
theorem evalCycles_congr {x y : Plot} (h : x.sfuDefault = y.sfuDefault) : evalCycles x d = evalCycles y d := by
  have hmode : evalMode x d = evalMode y d := by
    unfold evalMode
    rw [h]
  rw [evalCycles, evalCycles, hmode]

theorem plannedCycles_reloadDefaults (n : Nat) : plannedCycles (reloadDefaults p s) p n = plannedCycles s p n := by
  obtain ⟨v, hv⟩ := reloadDefaults_eq p s
  simp [plannedCycles, hv]

theorem exec_sfuEval_of_begun (hi : Issues s p .compute d) (hop : hOp d = 0x05) (hu : uOp d = 0)
    (hi' : Issues (reloadDefaults p s) p .compute d) (hp : passes checkEval p .compute d (reloadDefaults p s)) :
    exec (.sfuEval p) s = .next (begun p .compute d (uCount d)
      (plannedCycles s p (evalCycles ((reloadDefaults p s).plot p) d)) (reloadDefaults p s)) := by
  have hhead : headSop s p (fun o => decide (o ≠ 1)) = true := by
    rw [headSop_of_leavesWaits hi.toLeavesWaits]
    simp [hop, hu]
  have hcheck : (if badSop d then some (stIllegal, 0) else checkEval p d (afterWaits p .compute d (reloadDefaults p s))) = none := by
    rw [if_neg (by simp [badSop, hu])]
    exact hp
  have hcycles : evalCycles (((afterWaits p .compute d (reloadDefaults p s)).onPlot p (layerStart d)).plot p) d =
      evalCycles ((reloadDefaults p s).plot p) d := evalCycles_congr (by
    rw [State.onPlot_plot, layerStart_eq, afterWaits_plot]
    rfl)
  change execSfuEval p s = _
  rw [execSfuEval, if_pos hhead, if_pos (canStart_of_leavesWaits hi.toLeavesWaits),
    leaveWaits_start _ _ _ hi' (decide_eq_true hop) hcheck, ← plannedCycles_reloadDefaults, ← beginRun_begun, if_pos rfl, hcycles]

end

/-- Settles O8: GEMM, VEC, STAT, RAND and ZERO begin alike, SYNC and TEST with flat cycles, EVAL after its default set. -/
theorem computeCommandsBegin : Obligations.ComputeCommandsBegin :=
  fun _ _ _ hi => ⟨exec_of_begun (fun d => gemmTiles d - startTile d) gemmCycles rfl hi, exec_of_begun vCount vecCycles rfl hi,
    exec_of_begun sRows statCycles rfl hi, exec_of_begun rTotal randCycles rfl hi,
    exec_of_begun zCount (fun d => 8 + cdiv (zCount d) 4096) rfl hi, exec_sync_of_begun hi, exec_test_of_begun hi,
    exec_sfuEval_of_begun hi⟩

end Sys2Proof.Machine
end

section
/-! PLT_CTL: what a flush discards and leaves, and what a resume takes a plot to (R76, R78, R86). -/

namespace Sys2Proof.Machine

open Host

/-! ### Discarding queued commands (R78) -/

/-- The FLUSHED record of a queued command. -/
def flushedRecord (p : PlotIx) (l : Lane) (time : DWord) (d : BitVec 1024) : BitVec 256 × Word :=
  recordOf p l d (endedEarly stFlushed (startTile d) 0) time

/-- What discarding commands leaves: memories, time and semaphores as they were, the records behind those of the ring, and the
plot `x` but for its PLT_LAST registers. -/
structure Discarded (s t : State) (p : PlotIx) (records : List (BitVec 256 × Word)) (x : Plot) : Prop where
  mem : t.mem = s.mem
  time : t.time = s.time
  sems : (t.bed (bedOf p)).sems = (s.bed (bedOf p)).sems
  ring : (t.bed (bedOf p)).ring = (s.bed (bedOf p)).ring ++ records
  plot : ∃ tag op st fa, t.plot p = { x with lastTag := tag, lastOp := op, lastStatus := st, faultAddr := fa }

section
variable {s : State} {p : PlotIx} {l : Lane}

theorem discardOne_leaves (d : BitVec 1024) :
    Discarded s (discardOne p l s d) p [flushedRecord p l s.time d] (s.plot p) where
  mem := step10_mem ..
  time := step10_time ..
  sems := step10_sems ..
  ring := by rw [discardOne, step10_ring, if_pos (.inr (by rw [endedEarly_status]; decide))]; rfl
  plot := ⟨_, _, _, _, step10_plot ..⟩

theorem discardAll_leaves (q : List (BitVec 1024)) (s : State) :
    Discarded s (q.foldl (discardOne p l) s) p (q.map (flushedRecord p l s.time)) (s.plot p) := by
  induction q generalizing s with
  | nil => exact ⟨rfl, rfl, rfl, (List.append_nil _).symm, _, _, _, _, rfl⟩
  | cons d q ih =>
    have h1 := discardOne_leaves (s := s) (p := p) (l := l) d
    have h2 := ih (discardOne p l s d)
    obtain ⟨_, _, _, _, hx1⟩ := h1.plot
    obtain ⟨tag, op, st, fa, hx2⟩ := h2.plot
    refine ⟨h2.mem.trans h1.mem, h2.time.trans h1.time, h2.sems.trans h1.sems, ?_, tag, op, st, fa, ?_⟩
    · rw [List.foldl_cons, h2.ring, h1.ring, h1.time, List.append_assoc]
      rfl
    · rw [List.foldl_cons, hx2, hx1]

theorem returnSem_of_queued (h : (laneGet (s.plot p) l).stage = .queued) : returnSem p l s = s := by
  unfold returnSem
  dsimp only
  split <;> simp [h]

theorem discardLane_leaves (h : (laneGet (s.plot p) l).stage = .queued) :
    Discarded s (discardLane p l s) p ((laneGet (s.plot p) l).queue.map (flushedRecord p l s.time))
      (laneSet (s.plot p) l { laneGet (s.plot p) l with queue := [] }) := by
  have hd := discardAll_leaves (p := p) (l := l) (laneGet (s.plot p) l).queue
    (s.onPlot p fun x => laneSet x l { laneGet x l with queue := [], stage := .queued })
  have hlane : { laneGet (s.plot p) l with queue := [], stage := .queued } = { laneGet (s.plot p) l with queue := [] } := by rw [← h]
  rw [State.onPlot_plot, hlane] at hd
  rw [discardLane, returnSem_of_queued h]
  exact ⟨hd.mem, hd.time, hd.sems, hd.ring, hd.plot⟩

end

/-! ### The end of a flush (R78) -/

/-- A flush on a plot that runs nothing is over at once: a resume leaves the halted state, else a discarded command halts. -/
theorem flushDone_of_stopped {x : Plot} (hf : x.flushing = true) (hc : x.compute.run = none) (hv : x.move.run = none)
    (hm : x.mode = .idle ∨ x.mode = .halted) :
    flushDone x = { x with
      flushing := false
      flushRec := false
      resumeAfter := false
      mode := if x.resumeAfter then .idle else if x.flushRec then .halted else x.mode
      haltCause := if x.resumeAfter then 0 else if x.flushRec then BitVec.ofNat 8 stFlushed else x.haltCause } := by
  have hsettle : ∀ y : Plot, y.mode = x.mode → plotSettle y = y := fun y hy =>
    plotSettle_of_ne_run (by rcases hm with h | h <;> simp [hy, h])
  have hresumed : (if x.mode = .halted then .idle else x.mode) = PlotMode.idle := by rcases hm with h | h <;> simp [h]
  have hhalts : (decide (x.mode = .idle) || decide (x.mode = .run) || decide (x.mode = .halted)) = true := by
    rcases hm with h | h <;> simp [h]
  simp only [flushDone, hf, hc, hv, Option.isNone_none, Bool.and_true, if_true, hsettle, hresumed, hhalts]
  cases x.resumeAfter
  · cases x.flushRec <;> rfl
  · rfl

/-! ### A flush on a plot that runs nothing (R78) -/

section
variable {s : State} {p : PlotIx}

theorem stopCompute_of_no_run (h : (s.plot p).compute.run = none) : stopCompute p s = s := by simp only [stopCompute, h]

/-- The plot when both its lanes are discarded and the flush is not yet over. -/
def flushedPlot (resume : Bool) (x : Plot) : Plot :=
  { x with
    compute := { x.compute with queue := [] }
    move := { x.move with queue := [] }
    flushing := true
    flushRec := x.flushRec || (!x.compute.queue.isEmpty || !x.move.queue.isEmpty)
    resumeAfter := x.resumeAfter || resume }

theorem flushPlot_leaves (resume : Bool) (hc : (s.plot p).compute.run = none)
    (hcq : (s.plot p).compute.stage = .queued) (hvq : (s.plot p).move.stage = .queued) :
    ∃ u, flushPlot p resume s = u.onPlot p flushDone ∧ Discarded s u p
      ((s.plot p).compute.queue.map (flushedRecord p .compute s.time) ++ (s.plot p).move.queue.map (flushedRecord p .move s.time))
      (flushedPlot resume (s.plot p)) := by
  set any := !(s.plot p).compute.queue.isEmpty || !(s.plot p).move.queue.isEmpty with hany
  set s1 := s.onPlot p fun x => { x with
    flushing := true, flushRec := x.flushRec || any, resumeAfter := x.resumeAfter || resume } with hs1
  have hx1 : s1.plot p = { s.plot p with
      flushing := true, flushRec := (s.plot p).flushRec || any, resumeAfter := (s.plot p).resumeAfter || resume } :=
    State.onPlot_plot ..
  have h1 : Discarded s1 (discardLane p .compute s1) p _ _ := discardLane_leaves (by rw [hx1]; exact hcq)
  obtain ⟨_, _, _, _, hx2⟩ := h1.plot
  have h2 : Discarded _ (discardLane p .move (discardLane p .compute s1)) p _ _ :=
    discardLane_leaves (by rw [hx2, hx1]; exact hvq)
  obtain ⟨tag, op, st, fa, hx3⟩ := h2.plot
  refine ⟨discardLane p .move (discardLane p .compute s1), ?_, h2.mem.trans h1.mem, h2.time.trans h1.time,
    h2.sems.trans h1.sems, ?_, tag, op, st, fa, ?_⟩
  · rw [flushPlot, stopCompute_of_no_run]
    rw [hx3, hx2, hx1]
    exact hc
  · rw [h2.ring, h1.ring, h1.time, hx2, hx1, List.append_assoc]
    rfl
  · rw [hx3, hx2, hx1]
    rfl

end

/-! ### Writes of PLT_CTL (R86) -/

/-- The plot after the fields REDUCED, PG_REQ and CG_DIS of a write are stored. -/
theorem ctlFields_eq (p : PlotIx) (w : BitVec 3) (s : State) : ctlFields p w s = s.setPlot p { s.plot p with
    reducedReq := if w.getLsbD 0 = false ∧ (s.plot p).banks ≠ 0 then (s.plot p).reducedReq else some (w.getLsbD 0)
    pgReq := w.getLsbD 1
    cgDis := w.getLsbD 2 } := by
  simp [ctlFields, State.onPlot]

theorem resumePlot_of_halted {x : Plot} (h : x.mode = .halted) : resumePlot x =
    { x with mode := if x.compute.run.isSome ∨ x.move.run.isSome then .run else .idle, haltCause := 0 } := by
  simp [resumePlot, h]

theorem resumePlot_of_not_halted {x : Plot} (h : x.mode ≠ .halted) : resumePlot x = x := by simp [resumePlot, h]

theorem exec_plotResume (p : PlotIx) (w : BitVec 3) (s : State) :
    exec (.plotResume p w) s = .next (s.setPlot p (resumePlot ((ctlFields p w s).plot p))) := by
  change execPlotResume p w s = _
  rw [execPlotResume, State.onPlot, ctlFields_eq]
  simp [State.setPlot]

/-- Settles O18: both lanes discarded in order, the end of the flush, and the resume by the laws above. -/
theorem flushAndResume : Obligations.FlushAndResume := by
  intro s p w
  dsimp only
  refine ⟨fun resume hm hc hv hcq hvq hfl hrec hres => ?_, fun hm => ?_, fun hm => ?_, ?_⟩
  · have hx : (ctlFields p w s).plot p = _ := State.onPlot_plot ..
    obtain ⟨u, hu, hd⟩ := flushPlot_leaves (s := ctlFields p w s) (p := p) resume (by rw [hx]; exact hc)
      (by rw [hx]; exact hcq) (by rw [hx]; exact hvq)
    obtain ⟨tag, op, st, fa, hplot⟩ := hd.plot
    refine ⟨_, congrArg Outcome.next hu, hd.mem, hd.sems, ?_⟩
    have hdone : (u.onPlot p flushDone).plot p = _ := (State.onPlot_plot ..).trans
      (flushDone_of_stopped (by rw [hplot]; rfl) (by rw [hplot, hx]; exact hc) (by rw [hplot, hx]; exact hv)
        (by rw [hplot, hx]; exact hm))
    rw [hdone, hplot, hx]
    refine ⟨rfl, rfl, ?_, fun hc0 hv0 hr => ?_, fun hr hne => ?_, fun hr => ?_⟩
    · rw [State.onPlot_bed, hd.ring, hx, List.append_assoc]
      rfl
    · simp [flushedPlot, hc0, hv0, hr, hrec, hres]
    · have hany : (!(s.plot p).compute.queue.isEmpty || !(s.plot p).move.queue.isEmpty) = true := by
        rcases hne with h | h <;> simp [h]
      simp [flushedPlot, hr, hrec, hres, hany, stFlushed]
    · simp [flushedPlot, hr]
  · rw [exec_plotResume, ctlFields_eq, State.setPlot_plot, resumePlot_of_halted (by exact hm)]
  · rw [exec_plotResume, ctlFields_eq, State.setPlot_plot, resumePlot_of_not_halted (by exact hm)]
  · exact congrArg Outcome.next (ctlFields_eq p w s)

end Sys2Proof.Machine
end

section
/-! A row of a MOVE between two places of the scratchpads, in a safe state and over memory that is not in its canonical form (R71). -/

namespace Sys2Proof.Machine

open Host

/-! ### A row between two places of the scratchpads (R71) -/

theorem tierOf_eq_t0_iff (s : State) (a : Nat) : tierOf s a = .t0 ↔ a < t1Base ∧ a % bedStride < t0Size := by
  unfold tierOf
  split
  · split <;> simp_all
  · repeat' split
    all_goals simp_all

/-- Pieces written into the scratchpads stand there byte for byte, and no other byte changes. -/
theorem devWritePieces_t0 (q : PartIx) (base rate epoch : Nat) (bs : List Byte) (fuel a n : Nat) (s : State) (hbase : base ≤ a)
    (hlen : a - base + n = bs.length) (hfuel : n = 0 ∨ n + a % 65536 ≤ fuel * 65536)
    (ht : ∀ x, a ≤ x → x < a + n → x < t1Base ∧ x % bedStride < t0Size) :
    ∃ u, devWritePieces q base rate epoch bs s (cutAt 65536 fuel a n) = (u, none) ∧ u.plots = s.plots ∧
      ∀ x, ramByte u x = if a ≤ x ∧ x < a + n then (bs[x - base]?).getD 0 else ramByte s x := by
  induction fuel generalizing a n s with
  | zero =>
    have hn : n = 0 := by omega
    exact ⟨s, rfl, rfl, fun x => by rw [if_neg (by omega)]⟩
  | succ fuel ih =>
    rw [cutAt]
    split
    · exact ⟨s, rfl, rfl, fun x => by rw [if_neg (by omega)]⟩
    · set k := min n (65536 - a % 65536) with hk
      have hpiece : devWritePiece q a rate epoch ((bs.drop (a - base)).take k) s =
          (ramWrite a ((bs.drop (a - base)).take k) s, none) := by
        rw [devWritePiece, (tierOf_eq_t0_iff s a).2 (ht a (by omega) (by omega))]
      have hklen : ((bs.drop (a - base)).take k).length = k := by
        rw [List.length_take, List.length_drop]
        omega
      obtain ⟨u, hu, hplots, hbytes⟩ := ih (a + k) (n - k) (ramWrite a ((bs.drop (a - base)).take k) s) (by omega) (by omega)
        (by omega) fun x h1 h2 => ht x (by omega) (by omega)
      refine ⟨u, by simp only [devWritePieces, hpiece, hu], hplots, fun x => ?_⟩
      rw [hbytes, ramByte_ramWrite, hklen]
      by_cases hx : a ≤ x ∧ x < a + k
      · have hget : ((bs.drop (a - base)).take k)[x - a]? = bs[x - base]? := by
          rw [List.getElem?_take, if_pos (by omega), List.getElem?_drop]
          congr 1
          omega
        rw [if_neg (by omega), if_pos hx, if_pos (by omega), hget]
      · by_cases hy : a + k ≤ x ∧ x < a + n
        · rw [if_pos (by omega), if_pos (by omega)]
        · rw [if_neg (by omega), if_neg hx, if_neg (by omega)]

/-- The source address of the next row of a MOVE. -/
def rowSrc (r : Run) : Nat := mvSrc r.desc + r.done * mvSrcLd r.desc
/-- The destination address of the next row of a MOVE. -/
def rowDst (r : Run) : Nat := mvDst r.desc + r.done * mvDstLd r.desc

/-- The next row of the MOVE `r`, running on plot p of partition q, lies between two places of the scratchpads, on no retired
bank, and nothing holds it back. -/
structure RowOfScratchpads (s : State) (p : PlotIx) (q : PartIx) (r : Run) : Prop where
  run : (s.plot p).move.run = some r
  op : hOp r.desc = 0x09
  more : r.done < r.total
  part : plotPart (s.plot p) = some q
  noHold : holdActive s = false
  noFlush : (s.plot p).flushing = false
  bale : mvBale r.desc = 0
  src : tierOf s (rowSrc r) = .t0
  dst : tierOf s (rowDst r) = .t0
  inside : rowDst r % bedStride + mvBytes r.desc ≤ t0Size
  srcBanks : rowRetired s (rowSrc r) (mvBytes r.desc) = none
  dstBanks : rowRetired s (rowDst r) (mvBytes r.desc) = none

section
variable {s : State} {p : PlotIx} {q : PartIx} {r : Run}

theorem RowOfScratchpads.dst_in_scratchpad (h : RowOfScratchpads s p q r) (x : Nat) (h1 : rowDst r ≤ x)
    (h2 : x < rowDst r + mvBytes r.desc) : x < t1Base ∧ x % bedStride < t0Size := by
  obtain ⟨hlt, -⟩ := (tierOf_eq_t0_iff s (rowDst r)).1 h.dst
  have hinside := h.inside
  have hstride : bedStride = 33554432 := rfl
  have hbase : t1Base = 4294967296 := rfl
  have hsize : t0Size = 25165824 := rfl
  simp only [hstride, hbase, hsize] at *
  omega

theorem ramRead_length (s : State) (a n : Nat) (hs : Safe s) : (ramRead s a n).length = n := by
  rw [ramRead, tabRead_eq a n ((Memory.wf_iff s.mem).1 hs).1, List.length_map, List.length_range]

/-- A read of a safe state gives its bytes. -/
theorem ramRead_getElem? {a n i : Nat} (hs : Safe s) (hi : i < n) : (ramRead s a n)[i]? = some (ramByte s (a + i)) := by
  rw [ramRead, tabRead_eq a n ((Memory.wf_iff s.mem).1 hs).1]
  simp [hi, ramByte]

/-- The row is written into the destination in a state `u`, and the ring tags there go (R166). -/
theorem RowOfScratchpads.moveRow_eq (h : RowOfScratchpads s p q r) (hs : Safe s) :
    ∃ u, moveRow p cleanReads [] r s = some (oneMore p .move 1 (clearTags (t0Plot (rowDst r)) u)) ∧ u.plots = s.plots ∧
      ∀ x, ramByte u x = if rowDst r ≤ x ∧ x < rowDst r + mvBytes r.desc then
        ((ramRead s (rowSrc r) (mvBytes r.desc))[x - rowDst r]?).getD 0 else ramByte s x := by
  have hlen := ramRead_length s (rowSrc r) (mvBytes r.desc) hs
  obtain ⟨u, hu, hplots, hbytes⟩ := devWritePieces_t0 q (rowDst r) 0 (hEpoch r.desc) (ramRead s (rowSrc r) (mvBytes r.desc))
    (mvBytes r.desc / 65536 + 2) (rowDst r) (mvBytes r.desc) s le_rfl (by omega) (by omega) h.dst_in_scratchpad
  have hread : routedRead q (mirrorBed s (bedOf p) (mvBale r.desc)) (rowSrc r) (mvBytes r.desc) (mvBale r.desc) [] s =
      (s, .ok (ramRead s (rowSrc r) (mvBytes r.desc))) := by
    simp only [routedRead, devRead, h.src, reduceCtorEq, if_false]
  have hdev : devWrite q (rowDst r) 0 (hEpoch r.desc) (ramRead s (rowSrc r) (mvBytes r.desc)) s = (u, none) := by
    rw [devWrite, pieces, hlen]
    exact hu
  have hwrite : writeRow p q r.desc (rowDst r) (ramRead s (rowSrc r) (mvBytes r.desc)) s =
      (clearTags (t0Plot (rowDst r)) u, none) := by
    simp only [writeRow, routedWrite, h.dst, h.bale, hdev, reduceCtorEq, if_false, if_true]
  have hready : ∀ bed a n w, tierOf s a = .t0 → accessReady s q bed a n w = true := fun bed a n w ha => by simp [accessReady, ha]
  have hsrc : mvSrc r.desc + r.done * mvSrcLd r.desc = rowSrc r := rfl
  have hdst : mvDst r.desc + r.done * mvDstLd r.desc = rowDst r := rfl
  refine ⟨u, ?_, hplots, hbytes⟩
  simp only [moveRow, hsrc, hdst, h.part, hready _ _ _ _ h.src, hready _ _ _ _ h.dst, h.srcBanks, h.dstBanks,
    applyErrs, cleanReads, List.foldl_nil, hread, hwrite]
  rfl

/-- In a safe state the row is copied byte for byte: what the second half of O14 says lacks only this premise. -/
theorem RowOfScratchpads.exec_moveRowComplete (h : RowOfScratchpads s p q r) (hs : Safe s) :
    ∃ t, exec (.moveRowComplete p cleanReads []) s = .next t ∧ (t.plot p).move.run = some { r with done := r.done + 1 } ∧
      (∀ i, i < mvBytes r.desc → ramByte t (rowDst r + i) = ramByte s (rowSrc r + i)) ∧
      ∀ x, x < rowDst r ∨ rowDst r + mvBytes r.desc ≤ x → ramByte t x = ramByte s x := by
  obtain ⟨u, hrow, hplots, hbytes⟩ := h.moveRow_eq hs
  set t := oneMore p .move 1 (clearTags (t0Plot (rowDst r)) u) with ht
  have hplot : (t.plot p).move.run = some { r with done := r.done + 1 } ∧ (t.plot p).flushing = false := by
    have hsame : u.plot p = s.plot p := by rw [State.plot, hplots, State.plot]
    rw [ht, oneMore, onRun, State.onPlot_plot, clearTags, State.onPlot_plot_if]
    split
    · subst_vars
      rw [hsame]
      simp [laneSet, laneGet, h.run, h.noFlush]
    · rw [hsame]
      simp [laneSet, laneGet, h.run, h.noFlush]
  obtain ⟨hrun, hflush⟩ := hplot
  have hmem : ∀ x, ramByte t x = ramByte u x := fun _ => rfl
  refine ⟨t, ?_, hrun, fun i hi => ?_, fun x hx => ?_⟩
  · have hmore : ¬ r.total ≤ r.done := Nat.not_le.2 h.more
    change execMoveRowComplete p cleanReads [] s = _
    simp [execMoveRowComplete, h.run, h.noHold, h.op, hmore, hrow, hrun, hflush]
  · rw [hmem, hbytes, if_pos (by omega), Nat.add_sub_cancel_left, ramRead_getElem? hs hi, Option.getD_some]
  · rw [hmem, hbytes, if_neg (by omega)]

end

/-! ### A row over memory that is not in its canonical form -/

/-- A MOVE of one row of 64 bytes, from offset 0 of plot 0's scratchpad to 0x1000. -/
def rowMove : BitVec 1024 := BitVec.ofNat 1024 (0x09 + 0x1000 * 2 ^ (8 * 0x28) + 64 * 2 ^ (8 * 0x30) + 1 * 2 ^ (8 * 0x34))

/-- The MOVE runs on plot 0 of partition 0, over a table of memory that lists byte 5 before byte 3: no run of the machine leaves
such a table (`Safe` is kept), but the statement admits it. -/
def unsortedMove : State :=
  (State.reset.onPlot 0 fun x =>
    { x with mode := .run, unassigned := false, move := { x.move with run := some (freshRun rowMove 1 41) } }).onMem fun m =>
    { m with ram := [(5, 1), (3, 2)] }

/-- A byte of the state that a command leads to. -/
def byteAfter (o : Out) (a : Nat) : Option Byte :=
  match o with
  | .next t => some (ramByte t a)
  | _ => none

/-- A read walks a table in rising order of its keys, so it misses the entry of byte 3 behind that of byte 5. -/
theorem unsortedMove_misses_byte :
    byteAfter (exec (.moveRowComplete 0 cleanReads []) unsortedMove) 0x1003 = some 0 ∧ ramByte unsortedMove 3 = 2 := by
  decide +kernel

/-- The state meets the hypotheses of a row. -/
theorem unsortedMove_row : (unsortedMove.plot 0).move.run = some (freshRun rowMove 1 41) ∧ hOp rowMove = 0x09 ∧
    plotPart (unsortedMove.plot 0) = some 0 ∧ mvSrc rowMove = 0 ∧ mvDst rowMove = 0x1000 ∧ mvBytes rowMove = 64 ∧
    mvBale rowMove = 0 ∧ tierOf unsortedMove 0 = .t0 ∧ tierOf unsortedMove 0x1000 = .t0 ∧
    rowRetired unsortedMove 0 64 = none ∧ rowRetired unsortedMove 0x1000 64 = none := by
  decide +kernel

/-- Refutes O14: the statement does not ask for `Safe`, and over a table of memory that is not sorted a row of a MOVE is not
copied byte for byte. -/
theorem not_unitsAndRowsComplete : ¬ Obligations.UnitsAndRowsComplete := by
  intro h
  obtain ⟨hrun, hop, hpart, hsrc, hdst, hbytes, hbale, hta, htb, hra, hrb⟩ := unsortedMove_row
  obtain ⟨hafter, hbefore⟩ := unsortedMove_misses_byte
  obtain ⟨-, hrow⟩ := h unsortedMove 0 rfl rfl
  have hcopies := hrow (freshRun rowMove 1 41) 0 hrun hop (by decide) hpart
  simp only [freshRun, Nat.zero_mul, Nat.add_zero, hsrc, hdst, hbytes] at hcopies
  obtain ⟨t, ht, -, hcopied, -⟩ := hcopies hta htb (by decide) hbale hra hrb
  have hbyte : ramByte t 0x1003 = ramByte unsortedMove 3 := hcopied 3 (by decide)
  rw [ht] at hafter
  simp [byteAfter, hbyte, hbefore] at hafter

end Sys2Proof.Machine
end

section
/-! LOAD of the special function unit and ROT: what they leave once their waits are over (R106, R131, R134, R199). -/

namespace Sys2Proof.Machine

open Host

/-! ### Pruning a plot (R473, R482) -/

/-- A cause is latched in a function alone. -/
theorem raiseEvent_leaves (f : FnIx) (v : VecIx) (s : State) :
    (raiseEvent f v s).plots = s.plots ∧ (raiseEvent f v s).mem = s.mem := by
  unfold raiseEvent
  split <;> exact ⟨rfl, rfl⟩

theorem recordPrune_leaves (kind index sub : Nat) (c : PruneCause) (count returns : Nat) (s : State) :
    (recordPrune kind index sub c count returns s).plots = s.plots ∧ (recordPrune kind index sub c count returns s).mem = s.mem :=
  raiseEvent_leaves ..

theorem failPassOn_leaves (p : PlotIx) (s : State) : (failPassOn p s).plots = s.plots ∧ (failPassOn p s).mem = s.mem := by
  unfold failPassOn
  split <;> exact ⟨rfl, rfl⟩

theorem drawReserve_leaves (q : PartIx) (s : State) : (drawReserve q s).plots = s.plots ∧ (drawReserve q s).mem = s.mem := by
  unfold drawReserve
  split <;> exact ⟨rfl, rfl⟩

/-- What pruning a plot leaves: the memories, the plot's table slots and its last status, and a compute lane that runs nothing if
nothing ran in it. -/
structure SlotsKept (s t : State) (p : PlotIx) : Prop where
  mem : t.mem = s.mem
  sfu : (t.plot p).sfu = (s.plot p).sfu
  last : (t.plot p).lastStatus = (s.plot p).lastStatus
  run : (s.plot p).compute.run = none → (t.plot p).compute.run = none

theorem SlotsKept.refl (s : State) (p : PlotIx) : SlotsKept s s p := ⟨rfl, rfl, rfl, id⟩

theorem SlotsKept.of_plots {s t u : State} {p : PlotIx} (h : SlotsKept s t p) (hu : u.plots = t.plots ∧ u.mem = t.mem) :
    SlotsKept s u p := by
  obtain ⟨hplots, hmem⟩ := hu
  have hplot : u.plot p = t.plot p := by rw [State.plot, hplots, State.plot]
  exact ⟨hmem.trans h.mem, hplot ▸ h.sfu, hplot ▸ h.last, hplot ▸ h.run⟩

theorem SlotsKept.onPlot {s t : State} {p : PlotIx} {f : Plot → Plot} (h : SlotsKept s t p)
    (hsfu : (f (t.plot p)).sfu = (t.plot p).sfu) (hlast : (f (t.plot p)).lastStatus = (t.plot p).lastStatus)
    (hrun : (f (t.plot p)).compute.run = none) : SlotsKept s (t.onPlot p f) p := by
  constructor
  · exact h.mem
  · rw [State.onPlot_plot, hsfu, h.sfu]
  · rw [State.onPlot_plot, hlast, h.last]
  · rw [State.onPlot_plot]
    exact fun _ => hrun

/-- A pruned plot runs nothing; its slots and its last status stay. -/
theorem prunePlot_keeps_slots (p : PlotIx) (c : PruneCause) (count : Nat) (s : State) : SlotsKept s (prunePlot p c count s) p := by
  have hfailed : SlotsKept s (failPassOn p s) p := (SlotsKept.refl s p).of_plots (failPassOn_leaves p s)
  unfold prunePlot
  split
  · exact .refl s p
  · dsimp only
    split
    · exact (hfailed.onPlot rfl rfl rfl).of_plots (recordPrune_leaves ..)
    · exact (((hfailed.onPlot rfl rfl rfl).of_plots (recordPrune_leaves ..)).of_plots (raiseEvent_leaves ..)).of_plots
        (drawReserve_leaves ..)

theorem pruneOnResidue_keeps_slots (p : PlotIx) (s : State) : SlotsKept s (pruneOnResidue p s) p := by
  unfold pruneOnResidue
  dsimp only
  split
  · exact .refl s p
  · split
    · exact prunePlot_keeps_slots ..
    · exact .refl s p

/-! ### A compute command that fails while it runs (R68 step 10, R77) -/

@[simp] theorem plotSettle_sfu (x : Plot) : (plotSettle x).sfu = x.sfu := by unfold plotSettle; split <;> rfl
@[simp] theorem haltPlot_sfu (st : Nat) (x : Plot) : (haltPlot st x).sfu = x.sfu := by unfold haltPlot; split <;> rfl

section
variable {s : State} {p : PlotIx} {d : BitVec 1024}

/-- A compute command that ends with a failing status leaves the memories, the slots, its status and a lane that runs nothing,
whether or not the residue counts then prune its plot. -/
theorem endCommand_failed_leaves {e : Ended} (hok : e.status ≠ stOk) (hf : e.status ≠ stFlushed) (hfl : (s.plot p).flushing = false) :
    let t := endCommand p .compute d e s
    t.mem = s.mem ∧ (t.plot p).sfu = (s.plot p).sfu ∧ (t.plot p).lastStatus = BitVec.ofNat 8 e.status ∧
      (t.plot p).compute.run = none := by
  set u := (step10 p .compute d e (freed p .compute s)).onPlot p fun x => plotSettle (haltPlot e.status x) with hu
  have hset : ((step10 p .compute d e (freed p .compute s)).onPlot p (haltPlot e.status)).onPlot p
      (fun x => flushDone (plotSettle x)) = u := by
    rw [State.onPlot_onPlot]
    exact State.onPlot_congr (flushDone_of_not_flushing (by simp [noteLast, hfl]))
  have hend : endCommand p .compute d e s = pruneOnResidue p u := by
    unfold endCommand
    rw [← freed]
    simp only [hok, hf, if_false, decide_false, Bool.false_and, Bool.false_eq_true]
    rw [hset]
  have hkept := pruneOnResidue_keeps_slots p u
  have hplot : u.plot p = plotSettle (haltPlot e.status (noteLast d e ((freed p .compute s).plot p))) := by
    rw [hu, State.onPlot_plot, step10_plot]
  dsimp only
  rw [hend, hkept.mem, hkept.sfu, hkept.last]
  refine ⟨?_, ?_, ?_, hkept.run ?_⟩
  · simp [hu, freed]
  · simp [hplot, noteLast, freed_plot, laneSet]
  · simp [hplot, noteLast]
  · simp [hplot, noteLast, freed_plot, laneSet]

/-- The same of the run of a lane. -/
theorem endRun_failed_leaves {r : Run} {st fault : Nat} (hok : st ≠ stOk) (ht : st ≠ stTest) (hf : st ≠ stFlushed)
    (hfl : (s.plot p).flushing = false) :
    let t := endRun p .compute r st fault s
    t.mem = s.mem ∧ (t.plot p).sfu = (s.plot p).sfu ∧ (t.plot p).lastStatus = BitVec.ofNat 8 st ∧
      (t.plot p).compute.run = none := by
  have hend : endRun p .compute r st fault s =
      endCommand p .compute r.desc (endedShort s r st (startTile r.desc + r.done) fault) { s with fresh := s.fresh + 1 } :=
    if_neg (by simp [hok, ht])
  rw [hend]
  exact endCommand_failed_leaves (s := { s with fresh := s.fresh + 1 }) hok hf hfl

/-! ### What the begin of a compute command leaves (R68 step 8) -/

theorem begun_plot (total n : Nat) : (begun p .compute d total n s).plot p = { s.plot p with
    mode := .run
    clkGated := false
    watch := (layerStart d ((afterWaits p .compute d s).plot p)).watch
    compute := { (s.plot p).compute with
      queue := (s.plot p).compute.queue.tail, stage := .queued, run := some (freshRun d total n) } } := by
  rw [begun, State.onPlot_plot, if_pos rfl, layerStart_eq, afterWaits_plot]
  rfl

@[simp] theorem begun_mem (total n : Nat) : (begun p .compute d total n s).mem = s.mem := by simp [begun]

@[simp] theorem begun_run (total n : Nat) : ((begun p .compute d total n s).plot p).compute.run = some (freshRun d total n) := by
  rw [begun_plot]

@[simp] theorem begun_sfu (total n : Nat) : ((begun p .compute d total n s).plot p).sfu = (s.plot p).sfu := by rw [begun_plot]

@[simp] theorem begun_rng (total n : Nat) : ((begun p .compute d total n s).plot p).rng = (s.plot p).rng := by rw [begun_plot]

@[simp] theorem begun_flushing (total n : Nat) : ((begun p .compute d total n s).plot p).flushing = (s.plot p).flushing := by
  rw [begun_plot]

theorem applyErrs_clean (p : PlotIx) (s : State) : applyErrs p cleanReads s = (s, none) := rfl

/-! ### LOAD (R131, R134) -/

theorem setSlot_plot (p : PlotIx) (k : Fin 8) (x : SfuSlot) (s : State) :
    (setSlot p k x s).plot p = { s.plot p with sfu := (s.plot p).sfu.set k.val x k.isLt } := State.onPlot_plot ..

@[simp] theorem setSlot_mem (p : PlotIx) (k : Fin 8) (x : SfuSlot) (s : State) : (setSlot p k x s).mem = s.mem := rfl

/-- Only its own slot of a plot is changed. -/
theorem getElem_set_slot_ne (v : Vector SfuSlot 8) (x : SfuSlot) {j k : Fin 8} (h : j ≠ k) : (v.set k.val x k.isLt)[j] = v[j] :=
  Vector.getElem_set_ne _ _ fun e => h (Fin.ext e.symm)

theorem t0Read_congr {t : State} (h : t.mem = s.mem) (o n : Nat) : t0Read t p o n = t0Read s p o n := by
  rw [t0Read, t0Read, ramRead, ramRead, h]

/-- A LOAD in whose slot nothing is valid yet. -/
def loading (p : PlotIx) (d : BitVec 1024) (n : Nat) (s : State) : State :=
  setSlot p (uSlot d) SfuSlot.reset (begun p .compute d 0 n s)

@[simp] theorem loading_mem (n : Nat) : (loading p d n s).mem = s.mem := by simp [loading]

@[simp] theorem loading_run (n : Nat) : ((loading p d n s).plot p).compute.run = some (freshRun d 0 n) := by
  simp [loading, setSlot_plot]

theorem loading_slot (n : Nat) : ((loading p d n s).plot p).sfu[uSlot d] = SfuSlot.reset := by simp [loading, setSlot_plot]

theorem loading_slot_ne (n : Nat) {j : Fin 8} (h : j ≠ uSlot d) : ((loading p d n s).plot p).sfu[j] = (s.plot p).sfu[j] := by
  rw [loading, setSlot_plot, getElem_set_slot_ne _ _ h, begun_sfu]

@[simp] theorem reloadDefaults_mem (p : PlotIx) (s : State) : (reloadDefaults p s).mem = s.mem := by
  obtain ⟨v, hv⟩ := reloadDefaults_eq p s
  rw [hv, State.onPlot_mem]

theorem startLoad_clean {u : State} {r : Run}
    (hu : setSlot p (uSlot d) SfuSlot.reset (beginRun p .compute d 0 (32 + cdiv (uCount d) 64) s) = u)
    (hrun : (u.plot p).compute.run = some r) :
    startLoad p cleanReads d s =
      if tableOk (uSlot d).val (w32 d 0x30) (t0Read u p (w32 d 0x20) (uCount d)) then
        setSlot p (uSlot d) (slotOf (t0Read u p (w32 d 0x20) (uCount d))) u
      else endRun p .compute r stFormat 0 u := by
  subst hu
  simp only [startLoad, applyErrs_clean, hrun]

/-- The table that a LOAD reads is the scratchpad's before it. -/
theorem exec_sfuLoad_of_begun (hi : Issues s p .compute d) (hop : hOp d = 0x05) (hu : uOp d = 1)
    (hi' : Issues (reloadDefaults p s) p .compute d) (hp : passes checkLoad p .compute d (reloadDefaults p s)) :
    let n := plannedCycles s p (32 + cdiv (uCount d) 64)
    let tab := t0Read s p (w32 d 0x20) (uCount d)
    let u := loading p d n (reloadDefaults p s)
    exec (.sfuLoad p cleanReads) s = .next (if tableOk (uSlot d).val (w32 d 0x30) tab then setSlot p (uSlot d) (slotOf tab) u
      else endRun p .compute (freshRun d 0 n) stFormat 0 u) := by
  intro n tab u
  have hhead : headSop s p (fun o => decide (o = 1)) = true := by
    rw [headSop_of_leavesWaits hi.toLeavesWaits]
    simp [hop, hu]
  have hmem : u.mem = s.mem := (loading_mem ..).trans (reloadDefaults_mem p s)
  change execSfuLoad p cleanReads s = _
  rw [execSfuLoad, if_pos hhead, if_pos (canStart_of_leavesWaits hi.toLeavesWaits),
    leaveWaits_start _ _ _ hi' (decide_eq_true hop) hp,
    startLoad_clean (by rw [beginRun_begun, plannedCycles_reloadDefaults, ← loading]) (loading_run ..), t0Read_congr hmem]

/-- A table that passes every check of R134 fills the slot, and the LOAD runs on. -/
theorem loaded_leaves (n : Nat) (x : SfuSlot) :
    let t := setSlot p (uSlot d) x (loading p d n s)
    t.mem = s.mem ∧ (∀ j : Fin 8, j ≠ uSlot d → (t.plot p).sfu[j] = (s.plot p).sfu[j]) ∧ (t.plot p).sfu[uSlot d] = x ∧
      (t.plot p).compute.run = some (freshRun d 0 n) := by
  refine ⟨loading_mem n, fun j hj => ?_, ?_, ?_⟩ <;> rw [setSlot_plot]
  · rw [getElem_set_slot_ne _ _ hj, loading_slot_ne _ hj]
  · exact Vector.getElem_set_self ..
  · exact loading_run ..

/-- A table that fails a check leaves the slot invalid, and the LOAD ends. -/
theorem unloaded_leaves (n : Nat) (hfl : (s.plot p).flushing = false) :
    let t := endRun p .compute (freshRun d 0 n) stFormat 0 (loading p d n s)
    t.mem = s.mem ∧ (∀ j : Fin 8, j ≠ uSlot d → (t.plot p).sfu[j] = (s.plot p).sfu[j]) ∧
      (t.plot p).sfu[uSlot d] = SfuSlot.reset ∧ (t.plot p).compute.run = none ∧ (t.plot p).lastStatus = 0x02 := by
  obtain ⟨hmem, hsfu, hlast, hrun⟩ := endRun_failed_leaves (s := loading p d n s) (p := p) (r := freshRun d 0 n) (fault := 0)
    (st := stFormat) (by decide) (by decide) (by decide) (by simpa [loading, setSlot_plot] using hfl)
  dsimp only
  rw [hmem, hsfu, hlast, hrun]
  exact ⟨loading_mem .., fun j hj => loading_slot_ne _ hj, loading_slot .., rfl, rfl⟩

/-! ### ROT (R106, R199) -/

theorem startRot_clean {u : State} {r : Run}
    (hu : beginRun p .compute d 0 (32 + cdiv (tRows d * tLen d) 256 * cdiv (tLog d) 6) s = u)
    (hrun : (u.plot p).compute.run = some r) :
    let draws := rndList (flag d 0x28 21) (tRows d * tLen d) (u.plot p).rng
    startRot p cleanReads d s = clearTags p ((List.range (tRows d)).foldl
      (fun v r => rotPut p d r ((draws.1.drop (r * tLen d)).take (tLen d)) v) (u.onPlot p fun x => { x with rng := draws.2 })) := by
  subst hu
  simp only [startRot, applyErrs_clean, hrun]

theorem exec_rot_of_begun (hi : Issues s p .compute d) (hop : hOp d = 0x06) (hp : passes checkRot p .compute d s) :
    let draws := rndList (flag d 0x28 21) (tRows d * tLen d) (s.plot p).rng
    exec (.rot p cleanReads) s = .next (clearTags p ((List.range (tRows d)).foldl
      (fun u r => rotPut p d r ((draws.1.drop (r * tLen d)).take (tLen d)) u)
      ((begun p .compute d 0 (plannedCycles s p (32 + cdiv (tRows d * tLen d) 256 * cdiv (tLog d) 6)) s).onPlot p
        fun x => { x with rng := draws.2 }))) := by
  change execRot p cleanReads s = _
  rw [execRot, leaveWaits_start _ _ _ hi (decide_eq_true hop) hp, startRot_clean (beginRun_begun ..) (begun_run ..), begun_rng]

end

/-- Settles O10: the verdict on the table decides what a LOAD leaves; a ROT has one outcome. -/
theorem loadsAndRotationsRun : Obligations.LoadsAndRotationsRun := by
  refine fun s p d hi => ⟨fun hop hu hi' hp => ?_, exec_rot_of_begun hi⟩
  dsimp only
  refine ⟨_, exec_sfuLoad_of_begun hi hop hu hi' hp, ?_⟩
  by_cases hok : tableOk (uSlot d).val (w32 d 0x30) (t0Read s p (w32 d 0x20) (uCount d)) = true
  · obtain ⟨hmem, hothers, hslot, hrun⟩ := loaded_leaves (s := reloadDefaults p s) (p := p) (d := d)
      (plannedCycles s p (32 + cdiv (uCount d) 64)) (slotOf (t0Read s p (w32 d 0x20) (uCount d)))
    rw [if_pos hok]
    exact ⟨hmem.trans (reloadDefaults_mem p s), hothers, fun _ => ⟨hslot, hrun⟩, fun hbad => by simp [hok] at hbad⟩
  · obtain ⟨hmem, hothers, hfailed⟩ := unloaded_leaves (d := d) (plannedCycles s p (32 + cdiv (uCount d) 64)) hi'.noFlush
    rw [if_neg hok]
    exact ⟨hmem.trans (reloadDefaults_mem p s), hothers, fun h => absurd h hok, fun _ => hfailed⟩

end Sys2Proof.Machine
end

section
/-! Page tables in memory: what a write of table bytes under the partition epoch does, and how entries are read after it
(R161, R167, R168). -/

namespace Sys2Proof.Machine

open Host

/-! ### Numbers and their bytes -/

theorem bitsOf_eq (v hi lo : Nat) : bitsOf v hi lo = v / 2 ^ lo % 2 ^ (hi - lo + 1) := by
  rw [bitsOf, Nat.shiftRight_eq_div_pow]

@[simp] theorem bytesOf_length (n v : Nat) : (bytesOf n v).length = n := by
  induction n generalizing v with
  | zero => rfl
  | succ n ih => rw [bytesOf, List.length_cons, ih]

theorem natOf_bytesOf (n v : Nat) : natOf (bytesOf n v) = v % 256 ^ n := by
  induction n generalizing v with
  | zero => rw [pow_zero, Nat.mod_one]; rfl
  | succ n ih =>
    rw [bytesOf, natOf, ih, BitVec.toNat_ofNat, pow_succ' 256, Nat.mod_mul]

theorem natOf_lt (bs : List Byte) : natOf bs < 256 ^ bs.length := by
  induction bs with
  | nil => exact Nat.one_pos
  | cons b bs ih =>
    have hb := b.isLt
    rw [natOf, List.length_cons, pow_succ]
    omega

/-- A list of values, each laid out in n places, holds place j of value k at n * k + j. -/
theorem getElem?_flatMap_of_length {α β : Type} {f : α → List β} {n : Nat} (hf : ∀ x, (f x).length = n) (l : List α)
    (k : Nat) {j : Nat} (hj : j < n) : (l.flatMap f)[n * k + j]? = l[k]?.bind fun x => (f x)[j]? := by
  induction l generalizing k with
  | nil => rfl
  | cons x l ih =>
    rw [List.flatMap_cons]
    cases k with
    | zero => rw [Nat.mul_zero, Nat.zero_add, List.getElem?_append_left (by rw [hf]; exact hj)]; rfl
    | succ k =>
      have hn : n * (k + 1) + j = n + (n * k + j) := by rw [Nat.mul_succ]; omega
      rw [List.getElem?_append_right (by rw [hf]; omega), hf, hn, Nat.add_sub_cancel_left, ih]
      rfl

/-- The bytes of entries, 8 for each. -/
theorem length_flatMap_bytesOf (vs : List Nat) : (vs.flatMap (bytesOf 8)).length = 8 * vs.length := by
  simp [List.length_flatMap, Nat.mul_comm]

/-! ### Tiers (R210) -/

theorem tierOf_eq_t2_iff (s : State) (a : Nat) : tierOf s a = .t2 ↔ 0x200000000 ≤ a ∧ a < 0x220000000 := by
  have h1 : t1Base = 0x100000000 := rfl
  have h2 : t2Base = 0x200000000 := rfl
  have h3 : t3Base = 0x10000000000 := rfl
  unfold tierOf
  repeat' split
  all_goals simp only [reduceCtorEq, false_iff, true_iff]; omega

/-- A table lies in T2 or T3. -/
theorem tier_of_tableOkAt {s : State} {q : PartIx} {a n : Nat} (h : tableOkAt s q a n = true) :
    tierOf s a = .t2 ∨ tierOf s a = .t3 := by
  simp only [tableOkAt, Bool.and_eq_true, Bool.or_eq_true, beq_iff_eq] at h
  exact h.1

/-! ### Writes of table bytes (R167, R282) -/

theorem State.onCis_id {s : State} {c : CisIx} {f : Cistern → Cistern} (h : f (s.cistern c) = s.cistern c) : s.onCis c f = s := by
  rw [State.onCis, h]
  simp [State.setCistern, State.cistern]

/-- A write under the partition epoch passes its cistern's check uncounted. -/
theorem cisCheck_partition (c : CisIx) (q : PartIx) (n : Nat) (s : State) : cisCheck c q 0xFFFFFFFF n s = (s, true) := by
  have haccept : epochCheck (cisEpoch s c q) 0xFFFFFFFF = .accept := if_pos rfl
  simp only [cisCheck, haccept, dropCount]
  rw [State.onCis_id]
  · rfl
  · exact congrArg (fun v => { s.cistern c with parts := v }) (Vector.set_getElem_self q.isLt)

/-- A range within one unit is one piece. -/
theorem pieces_of_fits {unit a n : Nat} (hn : 0 < n) (h : a % unit + n ≤ unit) : pieces unit a n = [(a, n)] := by
  have hk : min n (unit - a % unit) = n := by omega
  have hrest : ∀ fuel b, cutAt unit fuel b 0 = [] := fun fuel b => by cases fuel <;> rfl
  rw [pieces, cutAt, if_neg (by omega)]
  simp only [hk, Nat.sub_self, hrest]

section
variable {s : State} {q : PartIx} {a : Nat} {bs : List Byte}

/-- Table bytes within one page are one piece. -/
theorem tableWrite_of_fits (hn : 0 < bs.length) (h : a % 65536 + bs.length ≤ 65536) :
    tableWrite q a bs s = (devWritePiece q a 0 0xFFFFFFFF bs s).1 := by
  rw [tableWrite, devWrite, pieces_of_fits (unit := pageBytes) hn h]
  simp only [devWritePieces, Nat.sub_self, List.drop_zero, List.take_length]
  split <;> rename_i hpiece <;> rw [hpiece]

/-- In T2 they are written as they are. -/
theorem tableWrite_t2 (ht : tierOf s a = .t2) (hn : 0 < bs.length) (h : a % 65536 + bs.length ≤ 65536) :
    tableWrite q a bs s = ramWrite a bs s := by
  rw [tableWrite_of_fits hn h]
  simp only [devWritePiece, ht, cisCheck_partition]

/-- In T3 the access is counted and goes through the translation. -/
theorem tableWrite_t3 (ht : tierOf s a = .t3) (hn : 0 < bs.length) (h : a % 65536 + bs.length ≤ 65536) :
    tableWrite q a bs s = (t3Write q a bs (cisPerfAdd (frameCis ((a - t3Base) / 65536)) (some q) 0x03
      (pieces 256 a bs.length).length s)).1 := by
  rw [tableWrite_of_fits hn h]
  simp only [devWritePiece, ht, cisCheck_partition, if_true]
  rfl

end

/-- What counting an event in a cistern leaves. -/
theorem cisPerfAdd_leaves (c : CisIx) (q : Option PartIx) (code n : Nat) (s : State) :
    (cisPerfAdd c q code n s).plots = s.plots ∧ (cisPerfAdd c q code n s).beds = s.beds ∧
    (cisPerfAdd c q code n s).parts = s.parts ∧ (cisPerfAdd c q code n s).mem = s.mem ∧
    ∀ k, ((cisPerfAdd c q code n s).cistern k).xltCache = (s.cistern k).xltCache := by
  have hset : ∀ v k, ((s.setCistern c { s.cistern c with perf := v }).cistern k).xltCache = (s.cistern k).xltCache := by
    intro v k
    by_cases hk : k = c
    · subst hk
      rw [State.setCistern_cistern]
    · rw [State.setCistern_cistern_ne _ _ hk]
  unfold cisPerfAdd
  split
  · exact ⟨rfl, rfl, rfl, rfl, fun _ => rfl⟩
  · dsimp only
    split
    · unfold raiseDevice raiseEvent
      split <;> exact ⟨rfl, rfl, rfl, rfl, hset _⟩
    · exact ⟨rfl, rfl, rfl, rfl, hset _⟩

/-- A translation, found or not, leaves all but its cistern. -/
theorem translate_leaves (q : PartIx) (a : Nat) (s : State) : (translate q a s).1.plots = s.plots ∧
    (translate q a s).1.beds = s.beds ∧ (translate q a s).1.parts = s.parts ∧ (translate q a s).1.mem = s.mem := by
  unfold translate
  dsimp only
  split <;> exact ⟨rfl, rfl, rfl, rfl⟩

theorem translate_of_ok {s : State} {q : PartIx} {a : Nat}
    (h : xltOk (xltEntry s q ((a - t3Base) / 65536)) ((a - t3Base) / 65536) = true) : translate q a s =
      (xltTouch q ((a - t3Base) / 65536) s,
        some ((xltEntry s q ((a - t3Base) / 65536)).toNat % 2 ^ 24 * 65536 + a % 65536)) := by
  have hpage : pageBytes = 65536 := rfl
  rw [translate]
  simp only [hpage, h, if_true, bitsOf_eq, pow_zero, Nat.div_one]

/-- Bytes within one sector are written in one piece, where the translation finds their frame. -/
theorem t3Write_of_mapped {q : PartIx} {a ph : Nat} {bs : List Byte} {s u : State} (hn : 0 < bs.length)
    (h : a % 256 + bs.length ≤ 256) (htr : translate q a s = (u, some ph)) :
    t3Write q a bs s = (u.onMem (physWrite ph bs), none) := by
  rw [t3Write, pieces_of_fits hn h]
  simp only [t3WritePieces, htr, Nat.sub_self, List.drop_zero, List.take_length]

theorem t3Write_leaves {q : PartIx} {a : Nat} {bs : List Byte} (s : State) (hn : 0 < bs.length)
    (h : a % 256 + bs.length ≤ 256) : (t3Write q a bs s).1.plots = s.plots ∧ (t3Write q a bs s).1.beds = s.beds ∧
    (t3Write q a bs s).1.parts = s.parts := by
  obtain ⟨hplots, hbeds, hparts, -⟩ := translate_leaves q a s
  rw [t3Write, pieces_of_fits hn h]
  simp only [t3WritePieces]
  split <;> rename_i htr <;> rw [htr] at hplots hbeds hparts <;> exact ⟨hplots, hbeds, hparts⟩

/-- What the translation sees lies in the caches of the cisterns and in memory. -/
theorem xltEntry_congr {s t : State} (hcache : ∀ k, (t.cistern k).xltCache = (s.cistern k).xltCache) (hmem : t.mem = s.mem)
    (q : PartIx) (v : Nat) : xltEntry t q v = xltEntry s q v := by
  rw [xltEntry, hcache, hmem, xltEntry]

/-! ### Reading entries -/

@[simp] theorem tabRead_length {α : Type} (d : α) (t : Tab α) (a n : Nat) : (tabRead d t a n).length = n := by
  have hwalk : ∀ n a (u : Tab α), (tabWalk d n a u).length = n := by
    intro n
    induction n with
    | zero => exact fun _ _ => rfl
    | succ n ih =>
      intro a u
      cases u with
      | nil => simp [tabWalk, ih]
      | cons e u =>
        rw [tabWalk]
        split <;> simp [ih]
  exact hwalk ..

theorem tableEntry_lt (s : State) (q : PartIx) (a : Nat) : tableEntry s q a < 2 ^ 64 := by
  have hlen : (peek s q a 8).length = 8 := by
    unfold peek
    split
    · exact tabRead_length ..
    · exact tabRead_length ..
  simpa [tableEntry, hlen] using natOf_lt (peek s q a 8)

section
variable {s : State} {q : PartIx} {a b : Nat}

theorem ramWrite_safe (a : Nat) (bs : List Byte) (hs : Safe s) : Safe (ramWrite a bs s) := (ramWrite_kept (Kept.refl s)).mem hs

/-- Outside T3 an entry is the number of its 8 bytes. -/
theorem tableEntry_eq_bytes (hs : Safe s) (ht : tierOf s a ≠ .t3) :
    tableEntry s q a = natOf ((List.range 8).map fun j => ramByte s (a + j)) := by
  rw [tableEntry, peek, if_neg ht, ramRead, tabRead_eq a 8 ((Memory.wf_iff s.mem).1 hs).1]
  rfl

/-- A write of bytes elsewhere leaves an entry as it is. -/
theorem tableEntry_ramWrite_outside {bs : List Byte} (hs : Safe s) (h : b + 8 ≤ a ∨ a + bs.length ≤ b) :
    tableEntry (ramWrite a bs s) q b = tableEntry s q b := by
  by_cases ht : tierOf s b = .t3
  · have ht' : tierOf (ramWrite a bs s) b = .t3 := ht
    rw [tableEntry, tableEntry, peek, peek, if_pos ht, if_pos ht']
    rfl
  · rw [tableEntry_eq_bytes hs ht, tableEntry_eq_bytes (ramWrite_safe a bs hs) ht]
    refine congrArg natOf (List.map_congr_left fun j hj => ramByte_ramWrite_outside s ?_)
    have := List.mem_range.1 hj
    omega

/-- A write of whole entries stores each of them. -/
theorem tableEntry_ramWrite_entries {vs : List Nat} {k v : Nat} (hs : Safe s) (ht : tierOf s (a + 8 * k) ≠ .t3)
    (hk : vs[k]? = some v) (hv : v < 2 ^ 64) :
    tableEntry (ramWrite a (vs.flatMap (bytesOf 8)) s) q (a + 8 * k) = v := by
  have hlen := length_flatMap_bytesOf vs
  have hkl : k < vs.length := (List.getElem?_eq_some_iff.1 hk).1
  have hbytes : (List.range 8).map (fun j => ramByte (ramWrite a (vs.flatMap (bytesOf 8)) s) (a + 8 * k + j)) = bytesOf 8 v := by
    refine List.ext_getElem (by simp) fun j hj hj' => ?_
    rw [bytesOf_length] at hj'
    have hat : a + 8 * k + j - a = 8 * k + j := by omega
    rw [List.getElem_map, List.getElem_range, ramByte_ramWrite, if_pos (by omega), hat,
      getElem?_flatMap_of_length (bytesOf_length 8) vs k hj', hk, Option.bind_some, List.getElem?_eq_getElem, Option.getD_some]
  rw [tableEntry_eq_bytes (ramWrite_safe a _ hs) ht, hbytes, natOf_bytesOf]
  exact Nat.mod_eq_of_lt hv

end

end Sys2Proof.Machine
end

section
/-! The page walker: what each of its events does to a walk, to the counters and to the leaf cache (R161 to R165). That the walk
is split into events, and that the cache holds addresses of leaves only, is the model's choice (log 46). -/

namespace Sys2Proof.Machine

open Host

/-! ### Emission (R162, R173) -/

/-- `t` is `s` after the walker of plot p has emitted a descriptor: it waits for room in the queue and is counted. -/
structure Emitted (s t : State) (p : PlotIx) (d : BitVec 128) : Prop where
  walk : (t.plot p).walk = { (s.plot p).walk with wait := .room d }
  desc : t.alm.walkDesc = satAdd s.alm.walkDesc 1
  hole : t.alm.walkHole = if pdHole d then satAdd s.alm.walkHole 1 else s.alm.walkHole
  mem : t.mem = s.mem
  beds : t.beds = s.beds
  others : ∀ n, n ≠ p → t.plot n = s.plot n

/-- An emission leaves the same whatever other registers of the Almanac have changed before it. -/
theorem emitDesc_emitted (s : State) (p : PlotIx) (d : BitVec 128) {a : Almanac} (hdesc : a.walkDesc = s.alm.walkDesc)
    (hhole : a.walkHole = s.alm.walkHole) : Emitted s (emitDesc p d { s with alm := a }) p d := by
  constructor
  · rw [emitDesc, onWalk, State.onPlot_plot]
    rfl
  · rw [← hdesc]
    rfl
  · rw [← hhole]
    rfl
  · rfl
  · rfl
  · exact fun n hn => State.onPlot_plot_ne _ _ hn

/-! ### Entries (R161, R165) -/

section
variable {p : PlotIx} {r : Run} {g : PageRef} {last : Bool} {e : Nat} {s : State}

/-- A PRESENT entry gives its descriptor FRAME and GEN. -/
theorem actOnEntry_of_present {v : Nat} (hv : v % 4 = 1) : actOnEntry p r g last e v s =
    emitDesc p (pageDesc g (v / 2 ^ 16 % 2 ^ 32 * 65536) false last (v / 2 ^ 48 % 2 ^ 16)) s := by
  have hstate : bitsOf v 1 0 = 1 := by simpa [bitsOf_eq] using hv
  simp only [actOnEntry, hstate, bitsOf_eq]
  rfl

/-- A WRITING entry leaves a walk that waits on it as it is. -/
theorem actOnEntry_of_writing {v : Nat} {since : DWord} (hv : v % 4 = 2) (hw : (s.plot p).walk.wait = .writing since) :
    actOnEntry p r g last e v s = s := by
  have hstate : bitsOf v 1 0 = 2 := by simpa [bitsOf_eq] using hv
  simp only [actOnEntry, hstate, hw]

theorem missingPage_of_hole (hm : aMiss r.desc = true) :
    missingPage p r g last e s = emitDesc p (pageDesc g 0 true last 0) s := if_pos hm

theorem missingPage_of_fault (hm : aMiss r.desc = false) : missingPage p r g last e s =
    endRun p .compute r stAddrFault (0x80000000 + e) { s with alm := { s.alm with walkFault := satAdd s.alm.walkFault 1 } } :=
  if_neg (by simp [hm])

end

/-! ### The walk of the next page (R163 to R165) -/

/-- The walk of the ATTN `r`, running on plot p of partition q, has reached page g with entry index e. -/
structure Reached (s : State) (p : PlotIx) (q : PartIx) (r : Run) (g : PageRef) (last : Bool) (e : Nat) : Prop where
  run : walkedRun s p = some (q, r)
  page : walkPage s p r = some (g, last, e)

section
variable {s : State} {p : PlotIx} {q : PartIx} {r : Run} {g : PageRef} {last : Bool} {e : Nat}

/-- PAGE_WALK on a core in service, once the root entry may be read. -/
theorem Reached.exec_pageWalk (h : Reached s p q r g last e) {c : CoreIx} (hc : coreServes s c = true)
    (hw : (s.plot p).walk.wait = .none) (hroot : tableOkAt s q (entryAt s q (aTable r.desc) e).root 8 = true) :
    exec (.pageWalk p c) s = .next (
      let at_ := entryAt s q (aTable r.desc) e
      if !at_.valid then missingPage p r g last e s
      else if !tableOkAt s q at_.leaf 4096 then endRun p .compute r stAddrFault (faultWord s p at_.leaf) s
      else if (s.alm.leaves[c]).contains (leafKey q at_.leaf) then
        actOnEntry p r g last e (tableEntry s q at_.entry) (touchLeaf c (leafKey q at_.leaf) s)
      else onWalk p (fun w => { w with wait := .leaf at_.leaf }) s) := by
  change execPageWalk p c s = _
  simp [execPageWalk, h.run, h.page, hc, hw, hroot]

/-- With its root entry VALID, a page whose leaf the core has not cached waits for that leaf. -/
theorem Reached.exec_pageWalk_of_cold (h : Reached s p q r g last e) {c : CoreIx} (hc : coreServes s c = true)
    (hw : (s.plot p).walk.wait = .none) (hroot : tableOkAt s q (entryAt s q (aTable r.desc) e).root 8 = true)
    (hvalid : (entryAt s q (aTable r.desc) e).valid = true)
    (hleaf : tableOkAt s q (entryAt s q (aTable r.desc) e).leaf 4096 = true)
    (hcold : (s.alm.leaves[c]).contains (leafKey q (entryAt s q (aTable r.desc) e).leaf) = false) :
    exec (.pageWalk p c) s =
      .next (onWalk p (fun w => { w with wait := .leaf (entryAt s q (aTable r.desc) e).leaf }) s) := by
  rw [h.exec_pageWalk hc hw hroot]
  simp only [hvalid, hleaf, hcold, Bool.not_true, Bool.false_eq_true, if_false]

/-- Its entry in a leaf that the core has cached is looked at. -/
theorem Reached.exec_pageWalk_of_cached (h : Reached s p q r g last e) {c : CoreIx} (hc : coreServes s c = true)
    (hw : (s.plot p).walk.wait = .none) (hroot : tableOkAt s q (entryAt s q (aTable r.desc) e).root 8 = true)
    (hvalid : (entryAt s q (aTable r.desc) e).valid = true)
    (hleaf : tableOkAt s q (entryAt s q (aTable r.desc) e).leaf 4096 = true)
    (hcached : (s.alm.leaves[c]).contains (leafKey q (entryAt s q (aTable r.desc) e).leaf) = true) :
    exec (.pageWalk p c) s = .next (actOnEntry p r g last e (tableEntry s q (entryAt s q (aTable r.desc) e).entry)
      (touchLeaf c (leafKey q (entryAt s q (aTable r.desc) e).leaf) s)) := by
  rw [h.exec_pageWalk hc hw hroot]
  simp only [hvalid, hleaf, hcached, Bool.not_true, Bool.false_eq_true, if_false, if_true]

theorem Reached.exec_pageWalk_of_invalid (h : Reached s p q r g last e) {c : CoreIx} (hc : coreServes s c = true)
    (hw : (s.plot p).walk.wait = .none) (hroot : tableOkAt s q (entryAt s q (aTable r.desc) e).root 8 = true)
    (hvalid : (entryAt s q (aTable r.desc) e).valid = false) :
    exec (.pageWalk p c) s = .next (missingPage p r g last e s) := by
  rw [h.exec_pageWalk hc hw hroot]
  simp only [hvalid, Bool.not_false, if_true]

/-- WRITING_ENTRY_REREAD, a microsecond after the last look. -/
theorem Reached.exec_writingEntryReread (h : Reached s p q r g last e) {since : DWord}
    (hw : (s.plot p).walk.wait = .writing since) (ht : 1000 ≤ (s.time - since).toNat)
    (hvalid : (entryAt s q (aTable r.desc) e).valid = true) :
    exec (.writingEntryReread p) s =
      .next (actOnEntry p r g last e (tableEntry s q (entryAt s q (aTable r.desc) e).entry) s) := by
  change execWritingEntryReread p s = _
  simp only [execWritingEntryReread, h.run, h.page, hw, hvalid, if_neg (Nat.not_lt.2 ht), if_true]

/-- MISS_WAIT_EXPIRE, once MISS_WAIT microseconds have passed. -/
theorem Reached.exec_missWaitExpire (h : Reached s p q r g last e) {since : DWord}
    (hw : (s.plot p).walk.wait = .writing since) (ht : 1000 * aMissWait r.desc ≤ (s.time - since).toNat) :
    exec (.missWaitExpire p) s =
      .next (missingPage p r g last e { s with alm := { s.alm with walkWait := satAdd s.alm.walkWait 1 } }) := by
  change execMissWaitExpire p s = _
  simp only [execMissWaitExpire, h.run, h.page, hw, if_neg (Nat.not_lt.2 ht)]

end

/-! ### What a look at a page emits -/

section
variable {s : State} {p : PlotIx} {r : Run} {g : PageRef} {last : Bool} {e : Nat} {c : Instr} {a : Almanac}

/-- A command that acts on a PRESENT entry emits its descriptor. -/
theorem emits_of_present {v : Nat} (hc : exec c s = .next (actOnEntry p r g last e v { s with alm := a })) (hv : v % 4 = 1)
    (hdesc : a.walkDesc = s.alm.walkDesc) (hhole : a.walkHole = s.alm.walkHole) : ∃ t, exec c s = .next t ∧
      Emitted s t p (pageDesc g (v / 2 ^ 16 % 2 ^ 32 * 65536) false last (v / 2 ^ 48 % 2 ^ 16)) :=
  ⟨_, hc.trans (congrArg Outcome.next (actOnEntry_of_present hv)), emitDesc_emitted s p _ hdesc hhole⟩

/-- A command that finds the page missing emits a HOLE under MISS = HOLE. -/
theorem emits_of_missing (hc : exec c s = .next (missingPage p r g last e { s with alm := a })) (hm : aMiss r.desc = true)
    (hdesc : a.walkDesc = s.alm.walkDesc) (hhole : a.walkHole = s.alm.walkHole) :
    ∃ t, exec c s = .next t ∧ Emitted s t p (pageDesc g 0 true last 0) :=
  ⟨_, hc.trans (congrArg Outcome.next (missingPage_of_hole hm)), emitDesc_emitted s p _ hdesc hhole⟩

end

/-! ### Leaves and the queue (R163, R164) -/

theorem exec_leafFetchComplete {s s1 : State} {p : PlotIx} {c : CoreIx} {q : PartIx} {r : Run} {a : Nat} {bs : List Byte}
    (hr : walkedRun s p = some (q, r)) (hw : (s.plot p).walk.wait = .leaf a) (hc : coreServes s c = true)
    (ha : accessReady s q none a 4096 false = true) (hread : routedRead q none a 4096 0 [] s = (s1, .ok bs)) :
    exec (.leafFetchComplete p c) s =
      .next (onWalk p (fun w => { w with wait := .none }) (touchLeaf c (leafKey q a) s1)) := by
  change execLeafFetchComplete p c s = _
  simp only [execLeafFetchComplete, hr, hw, hc, ha, hread, Bool.not_true, Bool.or_false, Bool.false_eq_true, if_false]

/-- A leaf used becomes the first of the 32 that its core caches. -/
theorem touchLeaf_leaves (c : CoreIx) (k : Nat) (s : State) :
    (touchLeaf c k s).alm.leaves[c] = (k :: (s.alm.leaves[c]).filter (· ≠ k)).take 32 := by
  simp [touchLeaf]

theorem exec_descriptorEnqueue {s : State} {p : PlotIx} {d : BitVec 128} (hw : (s.plot p).walk.wait = .room d)
    (hroom : (s.plot p).walk.queue.length < 256) : exec (.descriptorEnqueue p) s = .next (s.onPlot p fun x => { x with
      walk := { x.walk with queue := x.walk.queue ++ [d], pos := x.walk.pos + 1, wait := .none } }) := by
  change execDescriptorEnqueue p s = _
  simp only [execDescriptorEnqueue, hw, if_neg (Nat.not_le.2 hroom), onWalk]

/-- Settles O23: each event of the walker by its own law above; what it emits is counted, and nothing else changes. -/
theorem walkerSteps : Obligations.WalkerSteps := by
  refine ⟨fun s p q r g last e hrun hpage => ?_, fun s s1 p c q r a bs hrun hw hc ha hread => ?_,
    fun s p d => exec_descriptorEnqueue⟩
  · have h : Reached s p q r g last e := ⟨hrun, hpage⟩
    have hemitted : ∀ {c : Instr} {hole : Bool} {frame gen : Nat},
        (∃ t, exec c s = .next t ∧ Emitted s t p (pageDesc g frame hole last gen)) → ∃ t, exec c s = .next t ∧
          (t.plot p).walk = { (s.plot p).walk with wait := .room (pageDesc g frame hole last gen) } ∧
          t.alm.walkDesc = satAdd s.alm.walkDesc 1 ∧
          t.alm.walkHole = (if pdHole (pageDesc g frame hole last gen) then satAdd s.alm.walkHole 1 else s.alm.walkHole) ∧
          t.mem = s.mem ∧ t.beds = s.beds ∧ ∀ n, n ≠ p → t.plot n = s.plot n :=
      fun ⟨t, ht, hem⟩ => ⟨t, ht, hem.walk, hem.desc, hem.hole, hem.mem, hem.beds, hem.others⟩
    refine ⟨fun c hc hw hroot => ⟨fun hvalid hleaf => ⟨?_, fun hcached hv => hemitted ?_⟩, fun hinv hm => hemitted ?_,
      fun hinv hm => ?_⟩, fun since hw => ⟨fun ht hvalid hv => hemitted ?_, fun ht hvalid hv => ?_,
      fun ht hm => hemitted ?_⟩⟩
    · exact h.exec_pageWalk_of_cold hc hw hroot hvalid hleaf
    · exact emits_of_present (h.exec_pageWalk_of_cached hc hw hroot hvalid hleaf hcached) hv rfl rfl
    · exact emits_of_missing (a := s.alm) (h.exec_pageWalk_of_invalid hc hw hroot hinv) hm rfl rfl
    · exact (h.exec_pageWalk_of_invalid hc hw hroot hinv).trans (congrArg Outcome.next (missingPage_of_fault hm))
    · exact emits_of_present (a := s.alm) (h.exec_writingEntryReread hw ht hvalid) hv rfl rfl
    · rw [h.exec_writingEntryReread hw ht hvalid, actOnEntry_of_writing hv hw]
    · exact emits_of_missing (h.exec_missWaitExpire hw ht) hm rfl rfl
  · refine ⟨_, exec_leafFetchComplete hrun hw hc ha hread, ?_, rfl, touchLeaf_leaves c (leafKey q a) s1⟩
    rw [onWalk, State.onPlot_plot]
    rfl

end Sys2Proof.Machine
end

section
/-! The page ring, page entries and the release of sequences (R161, R166 to R168). -/

namespace Sys2Proof.Machine

open Host

/-! ### The page ring (R166) -/

/-- The streamer has reached the descriptor d of the ATTN `r`, running on plot p of partition q, and nothing holds it back. -/
structure Fetches (s : State) (p : PlotIx) (q : PartIx) (r : Run) (d : BitVec 128) : Prop where
  run : (s.plot p).compute.run = some r
  part : plotPart (s.plot p) = some q
  next : (s.plot p).walk.queue[(s.plot p).walk.fetched]? = some d
  op : hOp r.desc = 0x08
  noHold : holdActive s = false

theorem oneFetched_walk (p : PlotIx) (s : State) :
    ((oneFetched p s).plot p).walk = { (s.plot p).walk with fetched := (s.plot p).walk.fetched + 1 } := by
  rw [oneFetched, onWalk, State.onPlot_plot]

theorem oneFetched_ring (p : PlotIx) (s : State) : ((oneFetched p s).plot p).ring = (s.plot p).ring := by
  rw [oneFetched, onWalk, State.onPlot_plot]

section
variable {s : State} {p : PlotIx} {q : PartIx} {r : Run} {d : BitVec 128} {flips : Flips}

theorem Fetches.exec_of_hole (h : Fetches s p q r d) (hd : pdHole d = true) :
    exec (.pageFetchComplete p flips) s = .next (oneFetched p s) := by
  change execPageFetchComplete p flips s = _
  simp [execPageFetchComplete, h.run, h.part, h.next, h.op, h.noHold, hd]

/-- A page that the ring holds becomes the most recently used. -/
theorem Fetches.exec_of_held (h : Fetches s p q r d) (hd : pdHole d = false)
    (hr : (s.plot p).ring.slots.contains (some (pdTag d)) = true) : exec (.pageFetchComplete p flips) s =
      .next (oneFetched p (s.onPlot p fun y => { y with ring := touchSlot (ringSlot y (pdTag d)) y.ring })) := by
  change execPageFetchComplete p flips s = _
  simp only [execPageFetchComplete, h.run, h.part, h.next, h.op, h.noHold, hd, hr, ne_eq, not_true, decide_false, Bool.or_self,
    Bool.false_eq_true, if_false, if_true]

/-- A page read without an error goes to the slot of the victim. -/
theorem Fetches.exec_of_read (h : Fetches s p q r d) (hd : pdHole d = false)
    (hr : (s.plot p).ring.slots.contains (some (pdTag d)) = false) {k : Nat} {s1 : State} {bs : List Byte}
    (hk : ringVictim (s.plot p) = some k) (ha : (pdFrame d).toNat % 65536 = 0)
    (hrange : rangeOk s q (pdFrame d).toNat 65536 = true)
    (hready : accessReady s q (mirrorBed s (bedOf p) 0) (pdFrame d).toNat 65536 false = true)
    (hext : extFault (s.plot p) (extFlat (w32 r.desc 0x30 + k * 65536) 65536) = none)
    (hread : routedRead q (mirrorBed s (bedOf p) 0) (pdFrame d).toNat 65536 0 flips s = (s1, .ok bs)) :
    exec (.pageFetchComplete p flips) s = .next (storePage p r k d bs s1) := by
  have hpage : pageBytes = 65536 := rfl
  change execPageFetchComplete p flips s = _
  simp only [execPageFetchComplete, h.run, h.part, h.next, h.op, h.noHold, hd, hr, ne_eq, not_true, decide_false, Bool.or_self,
    Bool.false_eq_true, if_false, fetchPage, hk, hpage, ha, hrange, hready, Bool.not_true, hext, hread]

/-- The page stands in its slot, under its tag. -/
theorem storePage_leaves (k : Nat) (bs : List Byte) :
    ((storePage p r k d bs s).plot p).walk = { (s.plot p).walk with fetched := (s.plot p).walk.fetched + 1 } ∧
    ((storePage p r k d bs s).plot p).ring.slots = (s.plot p).ring.slots.set k (some (pdTag d)) ∧
    (storePage p r k d bs s).mem.ram = tabWrite 0 s.mem.ram (t0Addr p (w32 r.desc 0x30 + k * 65536)) bs := by
  refine ⟨?_, ?_, rfl⟩
  · rw [storePage, oneFetched_walk, State.onPlot_plot]
    rfl
  · rw [storePage, oneFetched_ring, State.onPlot_plot]
    rfl

end

/-! ### Page entries (R167) -/

/-- `t` is `s` after the Almanac has stored the entry v at a, in T2 or through the translation in T3. -/
structure EntryStored (s t : State) (q : PartIx) (a v : Nat) : Prop where
  plots : t.plots = s.plots
  beds : t.beds = s.beds
  parts : t.parts = s.parts
  near : tierOf s a = .t2 → t.mem.ram = tabWrite 0 s.mem.ram a (bytesOf 8 v) ∧ t.mem.t3 = s.mem.t3 ∧
    (Safe s → tableEntry t q a = v)
  far : tierOf s a = .t3 → xltOk (xltEntry s q ((a - t3Base) / 65536)) ((a - t3Base) / 65536) = true →
    t.mem = physWrite ((xltEntry s q ((a - t3Base) / 65536)).toNat % 2 ^ 24 * 65536 + a % 65536) (bytesOf 8 v) s.mem

section
variable {s : State} {q : PartIx} {a v : Nat}

theorem entryStored_of_t2 (ht : tierOf s a = .t2) (ha : a % 8 = 0) (hv : v < 2 ^ 64) :
    EntryStored s (tableWrite q a (bytesOf 8 v) s) q a v := by
  rw [tableWrite_t2 ht (by simp) (by rw [bytesOf_length]; omega)]
  refine ⟨rfl, rfl, rfl, fun _ => ⟨rfl, rfl, fun hs => ?_⟩, fun h => by simp [ht] at h⟩
  simpa using tableEntry_ramWrite_entries (q := q) (vs := [v]) (k := 0) hs (by simp [ht]) rfl hv

theorem entryStored_of_t3 (ht : tierOf s a = .t3) (ha : a % 8 = 0) : EntryStored s (tableWrite q a (bytesOf 8 v) s) q a v := by
  have hn : 0 < (bytesOf 8 v).length := by simp
  have hsector : a % 256 + (bytesOf 8 v).length ≤ 256 := by rw [bytesOf_length]; omega
  rw [tableWrite_t3 ht hn (by rw [bytesOf_length]; omega)]
  set u := cisPerfAdd (frameCis ((a - t3Base) / 65536)) (some q) 0x03 (pieces 256 a (bytesOf 8 v).length).length s
  obtain ⟨hplots, hbeds, hparts, hmem, hcache⟩ := cisPerfAdd_leaves (frameCis ((a - t3Base) / 65536)) (some q) 0x03
    (pieces 256 a (bytesOf 8 v).length).length s
  obtain ⟨hplots', hbeds', hparts'⟩ := t3Write_leaves (q := q) u hn hsector
  refine ⟨hplots'.trans hplots, hbeds'.trans hbeds, hparts'.trans hparts, fun h => by simp [ht] at h, fun _ hok => ?_⟩
  rw [← xltEntry_congr hcache hmem] at hok ⊢
  rw [t3Write_of_mapped hn hsector (translate_of_ok hok), ← hmem]
  rfl

theorem entryStored_tableWrite (ht : tierOf s a = .t2 ∨ tierOf s a = .t3) (ha : a % 8 = 0) (hv : v < 2 ^ 64) :
    EntryStored s (tableWrite q a (bytesOf 8 v) s) q a v :=
  ht.elim (fun h => entryStored_of_t2 h ha hv) fun h => entryStored_of_t3 h ha

end

/-- The next GEN of a frame of a partition. -/
def nextGen (s : State) (q : PartIx) (frame : Word) : BitVec 16 := tabGet 0 (s.part q).gens frame.toNat + 1

/-- The WRITING entry of a frame under its next GEN. -/
def writingEntry (s : State) (q : PartIx) (frame : Word) : Nat :=
  2 + frame.toNat * 2 ^ 16 + (nextGen s q frame).toNat * 2 ^ 48

theorem writingEntry_lt (s : State) (q : PartIx) (frame : Word) : writingEntry s q frame < 2 ^ 64 := by
  have hframe := frame.isLt
  have hgen := (nextGen s q frame).isLt
  simp only [writingEntry]
  omega

/-- The state in which the GEN of a frame is advanced. -/
def genAdvanced (s : State) (q : PartIx) (frame : Word) : State :=
  s.onPart q fun x => { x with gens := tabSet 0 x.gens frame.toNat (nextGen s q frame) }

theorem genAdvanced_gens (s : State) (q : PartIx) (frame : Word) :
    tabGet 0 ((genAdvanced s q frame).part q).gens frame.toNat = nextGen s q frame := by
  rw [genAdvanced, State.onPart_part, tabGet_set, if_pos rfl]

section
variable {s : State} {q : PartIx} {entry : DWord}

theorem pageEntryWriting_stores (frame : Word) (ha : entry.toNat % 8 = 0) (hok : tableOkAt s q entry.toNat 8 = true)
    (hready : accessReady s q none entry.toNat 8 true = true) : ∃ t, exec (.pageEntryWriting q entry frame) s = .next t ∧
      EntryStored (genAdvanced s q frame) t q entry.toNat (writingEntry s q frame) := by
  have htier := tier_of_tableOkAt hok
  refine ⟨_, ?_, entryStored_tableWrite htier ha (writingEntry_lt s q frame)⟩
  change execPageEntryWriting q entry frame s = _
  simp only [execPageEntryWriting, ha, hok, hready, ne_eq, not_true, decide_false, Bool.not_true, Bool.or_self, Bool.false_eq_true,
    if_false]
  rfl

theorem pageEntryPresent_stores (ha : entry.toNat % 8 = 0) (hok : tableOkAt s q entry.toNat 8 = true)
    (hready : accessReady s q none entry.toNat 8 true = true) (hv : tableEntry s q entry.toNat % 4 = 2) :
    ∃ t, exec (.pageEntryPresent q entry) s = .next t ∧
      EntryStored s t q entry.toNat (tableEntry s q entry.toNat - 1) := by
  have hlt := tableEntry_lt s q entry.toNat
  have hstate : bitsOf (tableEntry s q entry.toNat) 1 0 = 2 := by simpa [bitsOf_eq] using hv
  have hset : setBits (tableEntry s q entry.toNat) 1 0 1 = tableEntry s q entry.toNat - 1 := by
    simp only [setBits, hstate, Nat.shiftLeft_zero]
    omega
  refine ⟨_, ?_, entryStored_tableWrite (tier_of_tableOkAt hok) ha (by omega)⟩
  change execPageEntryPresent q entry s = _
  simp only [execPageEntryPresent, ha, hok, hready, hstate, hset, ne_eq, not_true, decide_false, Bool.not_true, Bool.or_self,
    Bool.false_eq_true, if_false]

end

/-! ### The release of a sequence (R168) -/

/-- An entry made FREED, with FRAME and GEN kept. -/
def freedEntry (v : Nat) : Nat := v - v % 4 + 3

theorem setBits_freed (v : Nat) : setBits v 1 0 3 = freedEntry v := by
  simp [setBits, bitsOf_eq, freedEntry]

theorem freedEntry_freedEntry (v : Nat) : freedEntry (freedEntry v) = freedEntry v := by
  simp only [freedEntry]
  omega

theorem freedEntry_lt {v : Nat} (h : v < 2 ^ 64) : freedEntry v < 2 ^ 64 := by
  simp only [freedEntry]
  omega

/-- The entries of a leaf, made FREED. -/
def freedEntries (s : State) (q : PartIx) (leaf : Nat) : List Nat :=
  (List.range 512).map fun i => freedEntry (tableEntry s q (leaf + 8 * i))

theorem freedEntries_bytes (s : State) (q : PartIx) (leaf : Nat) :
    ((freedEntries s q leaf).flatMap (bytesOf 8)).length = 4096 := by
  rw [length_flatMap_bytesOf, freedEntries, List.length_map, List.length_range]

section
variable {s : State} {q : PartIx} {leaf : Nat}

/-- The release writes a leaf whole. -/
theorem freeLeaf_t2 (ht : tierOf s leaf = .t2) (hok : tableOkAt s q leaf 4096 = true) (ha : leaf % 4096 = 0) :
    freeLeaf q leaf s = ramWrite leaf ((freedEntries s q leaf).flatMap (bytesOf 8)) s := by
  have hready : accessReady s q none leaf 4096 true = true := by simp [accessReady, ht]
  have hlen := freedEntries_bytes s q leaf
  rw [freeLeaf, if_pos (by rw [hok, hready]; rfl)]
  rw [← tableWrite_t2 (q := q) ht (by omega) (by omega), freedEntries, List.flatMap_map]
  simp only [setBits_freed]

/-- What freeing a leaf in T2 does to the entries and to the bytes. -/
theorem freeLeaf_leaves (hs : Safe s) (ht : tierOf s leaf = .t2) (hok : tableOkAt s q leaf 4096 = true)
    (ha : leaf % 4096 = 0) : Safe (freeLeaf q leaf s) ∧
      (∃ ram dirty, freeLeaf q leaf s = { s with mem := { s.mem with ram := ram, dirty := dirty } }) ∧
      (∀ k < 512, tableEntry (freeLeaf q leaf s) q (leaf + 8 * k) = freedEntry (tableEntry s q (leaf + 8 * k))) ∧
      (∀ a, a + 8 ≤ leaf ∨ leaf + 4096 ≤ a → tableEntry (freeLeaf q leaf s) q a = tableEntry s q a) ∧
      ∀ b, b < leaf ∨ leaf + 4096 ≤ b → ramByte (freeLeaf q leaf s) b = ramByte s b := by
  have hlen := freedEntries_bytes s q leaf
  rw [freeLeaf_t2 ht hok ha]
  refine ⟨ramWrite_safe _ _ hs, ⟨_, _, rfl⟩, fun k hk => ?_, fun a h => ?_, fun b h => ?_⟩
  · obtain ⟨hlo, hhi⟩ := (tierOf_eq_t2_iff s leaf).1 ht
    have hnear : tierOf s (leaf + 8 * k) = .t2 := (tierOf_eq_t2_iff s _).2 (by omega)
    exact tableEntry_ramWrite_entries hs (by simp [hnear]) (by simp [freedEntries, hk]) (freedEntry_lt (tableEntry_lt ..))
  · exact tableEntry_ramWrite_outside hs (by rwa [hlen])
  · exact ramByte_ramWrite_outside s (by rwa [hlen])

end

/-- Where the n-th root entry of a table leads. -/
def rootEntry (s : State) (q : PartIx) (root n : Nat) : EntryAt := entryAt s q root (512 * n)

/-- An address lies in the leaf of one of the first n root entries of a table. -/
def InLeaves (s : State) (q : PartIx) (root n a : Nat) : Prop :=
  ∃ i < n, (rootEntry s q root i).valid = true ∧ (rootEntry s q root i).leaf ≤ a ∧ a < (rootEntry s q root i).leaf + 4096

theorem rootEntry_leaf_mod (s : State) (q : PartIx) (root n : Nat) : (rootEntry s q root n).leaf % 4096 = 0 :=
  Nat.mul_mod_left ..

/-- One root entry more. -/
theorem inLeaves_succ {s : State} {q : PartIx} {root n a : Nat} : InLeaves s q root (n + 1) a ↔ InLeaves s q root n a ∨
    (rootEntry s q root n).valid = true ∧ (rootEntry s q root n).leaf ≤ a ∧ a < (rootEntry s q root n).leaf + 4096 := by
  constructor
  · rintro ⟨i, hi, h⟩
    rcases Nat.lt_succ_iff_lt_or_eq.1 hi with hlt | rfl
    · exact .inl ⟨i, hlt, h⟩
    · exact .inr h
  · rintro (⟨i, hi, h⟩ | h)
    · exact ⟨i, by omega, h⟩
    · exact ⟨n, by omega, h⟩

theorem outside_of_not_inLeaves_succ {s : State} {q : PartIx} {root n a : Nat} (hvalid : (rootEntry s q root n).valid = true)
    (h : ¬ InLeaves s q root (n + 1) a) : ¬ InLeaves s q root n a ∧
      (a < (rootEntry s q root n).leaf ∨ (rootEntry s q root n).leaf + 4096 ≤ a) := by
  rw [inLeaves_succ, not_or] at h
  obtain ⟨hbefore, hleaf⟩ := h
  refine ⟨hbefore, ?_⟩
  by_contra hin
  exact hleaf ⟨hvalid, by omega, by omega⟩

/-- One step of the release: the leaf of the n-th root entry. -/
def releaseStep (q : PartIx) (root : Nat) (s : State) (n : Nat) : State :=
  if (rootEntry s q root n).valid then freeLeaf q (rootEntry s q root n).leaf s else s

/-- The root of a table with its leaves in T2 and beside the root. -/
structure LeavesInT2 (s : State) (q : PartIx) (root : Nat) : Prop where
  tier : ∀ i < 1024, (rootEntry s q root i).valid = true → tierOf s (rootEntry s q root i).leaf = .t2
  ok : ∀ i < 1024, (rootEntry s q root i).valid = true → tableOkAt s q (rootEntry s q root i).leaf 4096 = true
  beside : ∀ i < 1024, (rootEntry s q root i).valid = true →
    (rootEntry s q root i).leaf + 4096 ≤ root ∨ root + 8192 ≤ (rootEntry s q root i).leaf

/-- `u` is the safe state `s` after the leaves of the first n root entries are freed. -/
structure Released (s : State) (q : PartIx) (root n : Nat) (u : State) : Prop where
  safe : Safe u
  ram : ∃ ram dirty, u = { s with mem := { s.mem with ram := ram, dirty := dirty } }
  freed : ∀ a, a % 8 = 0 → InLeaves s q root n a → tableEntry u q a = freedEntry (tableEntry s q a)
  kept : ∀ a, a % 8 = 0 → ¬ InLeaves s q root n a → tableEntry u q a = tableEntry s q a
  bytes : ∀ b, ¬ InLeaves s q root n b → ramByte u b = ramByte s b

section
variable {s u : State} {q : PartIx} {root n : Nat}

theorem released_zero (hs : Safe s) : Released s q root 0 s where
  safe := hs
  ram := ⟨_, _, rfl⟩
  freed := fun _ _ ⟨_, hi, _⟩ => absurd hi (Nat.not_lt_zero _)
  kept := fun _ _ _ => rfl
  bytes := fun _ _ => rfl

/-- No leaf is the root, so the release reads the root entries of the state before it. -/
theorem Released.rootEntry_eq (h : Released s q root n u) (hl : LeavesInT2 s q root) (hr : root % 8 = 0) (hn : n ≤ 1024)
    {i : Nat} (hi : i < 1024) : rootEntry u q root i = rootEntry s q root i := by
  have hentry : tableEntry u q (root + 8 * i) = tableEntry s q (root + 8 * i) := by
    refine h.kept _ (by omega) ?_
    rintro ⟨j, hj, hvalid, hlo, hhi⟩
    rcases hl.beside j (by omega) hvalid with hb | hb <;> omega
  have hok : tableOkAt u q (root + 8 * i) 8 = tableOkAt s q (root + 8 * i) 8 := by
    obtain ⟨_, _, rfl⟩ := h.ram
    rfl
  simp only [rootEntry, entryAt, Nat.mul_div_cancel_left i (by decide : 0 < 512), hentry, hok]

/-- An invalid root entry leads nowhere. -/
theorem Released.of_invalid (h : Released s q root n u) (hinv : ¬ (rootEntry s q root n).valid = true) :
    Released s q root (n + 1) u := by
  have hsame : ∀ a, InLeaves s q root (n + 1) a ↔ InLeaves s q root n a := fun a => by simp [inLeaves_succ, hinv]
  exact ⟨h.safe, h.ram, fun a h8 hin => h.freed a h8 ((hsame a).1 hin), fun a h8 hout => h.kept a h8 (mt (hsame a).2 hout),
    fun b hout => h.bytes b (mt (hsame b).2 hout)⟩

/-- The leaf of a valid one is freed, be it that of an earlier root entry too. -/
theorem Released.of_valid (h : Released s q root n u) (hl : LeavesInT2 s q root) (hn : n < 1024)
    (hvalid : (rootEntry s q root n).valid = true) :
    Released s q root (n + 1) (freeLeaf q (rootEntry s q root n).leaf u) := by
  have ha := rootEntry_leaf_mod s q root n
  have hsame : ∀ a m, tierOf u a = tierOf s a ∧ tableOkAt u q a m = tableOkAt s q a m := by
    obtain ⟨_, _, rfl⟩ := h.ram
    exact fun _ _ => ⟨rfl, rfl⟩
  obtain ⟨htier, hok⟩ := hsame (rootEntry s q root n).leaf 4096
  obtain ⟨hsafe, hram, hfreed, hkept, hbytes⟩ :=
    freeLeaf_leaves h.safe (htier.trans (hl.tier n hn hvalid)) (hok.trans (hl.ok n hn hvalid)) ha
  refine ⟨hsafe, ?_, fun a h8 hin => ?_, fun a h8 hout => ?_, fun b hout => ?_⟩
  · obtain ⟨_, _, rfl⟩ := h.ram
    obtain ⟨_, _, hu⟩ := hram
    exact ⟨_, _, hu⟩
  · by_cases hleaf : (rootEntry s q root n).leaf ≤ a ∧ a < (rootEntry s q root n).leaf + 4096
    · have hk : (rootEntry s q root n).leaf + 8 * ((a - (rootEntry s q root n).leaf) / 8) = a := by omega
      have hnew := hfreed ((a - (rootEntry s q root n).leaf) / 8) (by omega)
      rw [hk] at hnew
      rw [hnew]
      by_cases hbefore : InLeaves s q root n a
      · rw [h.freed a h8 hbefore, freedEntry_freedEntry]
      · rw [h.kept a h8 hbefore]
    · have hbefore : InLeaves s q root n a := (inLeaves_succ.1 hin).resolve_right fun ⟨_, hin⟩ => hleaf hin
      rw [hkept a (by omega), h.freed a h8 hbefore]
  · obtain ⟨hbefore, hleaf⟩ := outside_of_not_inLeaves_succ hvalid hout
    rw [hkept a (by omega), h.kept a h8 hbefore]
  · obtain ⟨hbefore, hleaf⟩ := outside_of_not_inLeaves_succ hvalid hout
    rw [hbytes b hleaf, h.bytes b hbefore]

theorem Released.step (h : Released s q root n u) (hl : LeavesInT2 s q root) (hr : root % 8 = 0) (hn : n < 1024) :
    Released s q root (n + 1) (releaseStep q root u n) := by
  rw [releaseStep, h.rootEntry_eq hl hr hn.le hn]
  split
  case isTrue hvalid => exact h.of_valid hl hn hvalid
  case isFalse hinv => exact h.of_invalid hinv

theorem released_foldl (hs : Safe s) (hl : LeavesInT2 s q root) (hr : root % 8 = 0) (hn : n ≤ 1024) :
    Released s q root n ((List.range n).foldl (releaseStep q root) s) := by
  induction n with
  | zero => exact released_zero hs
  | succ n ih =>
    rw [List.range_succ, List.foldl_append]
    exact (ih (by omega)).step hl hr (by omega)

theorem exec_sequenceRelease {root : DWord} (hu : tableInUse s q root.toNat = false) (ha : root.toNat % 8192 = 0)
    (hok : tableOkAt s q root.toNat 8192 = true) :
    exec (.sequenceRelease q root) s = .next ((List.range 1024).foldl (releaseStep q root.toNat) s) := by
  change execSequenceRelease q root s = _
  simp only [execSequenceRelease, hu, ha, hok, ne_eq, not_true, decide_false, Bool.not_true, Bool.or_self, Bool.false_eq_true,
    if_false]
  rfl

end

/-- Settles O24: the three ways a page comes into the ring, the stored entry, and the release leaf by leaf. -/
theorem pagesAndEntries : Obligations.PagesAndEntries := by
  refine ⟨fun s p q r d flips hrun hpart hnext hop hhold => ?_, fun s q entry frame => ?_, fun s q root => ?_⟩
  · have h : Fetches s p q r d := ⟨hrun, hpart, hnext, hop, hhold⟩
    refine ⟨h.exec_of_hole, fun hd hr => ⟨_, h.exec_of_held hd hr, rfl, ?_, ?_⟩,
      fun k s1 bs hd hr hk ha hrange hready hext hread =>
        ⟨_, h.exec_of_read hd hr hk ha hrange hready hext hread, storePage_leaves k bs⟩⟩
    · rw [oneFetched_walk, State.onPlot_plot]
    · rw [oneFetched_ring, State.onPlot_plot]
      rfl
  · intro a ha hok hready gen fresh stored
    obtain ⟨t, ht, hw⟩ := pageEntryWriting_stores frame ha hok hready
    refine ⟨⟨t, ht, hw.plots, hw.beds, hw.near, hw.far⟩, ⟨t, ht, ?_⟩, fun hv => ?_⟩
    · have hpart : t.part q = (genAdvanced s q frame).part q := by rw [State.part, hw.parts, State.part]
      rw [hpart, genAdvanced_gens, nextGen]
    · obtain ⟨u, hu, hp⟩ := pageEntryPresent_stores ha hok hready hv
      exact ⟨u, hu, hp.plots, hp.beds, hp.near, hp.far⟩
  · intro t hs hu ha hok leafOf hleaves
    have hl : LeavesInT2 s q t := ⟨fun i hi hv => have ⟨htier, _, _⟩ := hleaves i hi hv; htier,
      fun i hi hv => have ⟨_, hok, _⟩ := hleaves i hi hv; hok, fun i hi hv => have ⟨_, _, hout⟩ := hleaves i hi hv; hout⟩
    have h := released_foldl hs hl (by omega : t % 8 = 0) le_rfl
    obtain ⟨_, _, hram⟩ := h.ram
    refine ⟨_, exec_sequenceRelease hu ha hok, by rw [hram], by rw [hram], by rw [hram], fun i hi hv k hk => ?_, fun b hb => ?_⟩
    · have hmod : (leafOf i).leaf % 4096 = 0 := rootEntry_leaf_mod s q t i
      exact h.freed _ (by omega) ⟨i, hi, hv, Nat.le_add_right .., Nat.add_lt_add_left (by omega) _⟩
    · refine h.bytes b ?_
      rintro ⟨i, hi, hv, hlo, hhi⟩
      have hout := hb i hi hv
      change (leafOf i).leaf ≤ b at hlo
      change b < (leafOf i).leaf + 4096 at hhi
      omega

end Sys2Proof.Machine
end

section
/-! The halo wait of a CONV: what it leaves as it begins, and what is latched once it is too long (R191, R193, R195). The code of
its event is the model's choice (log 85). -/

namespace Sys2Proof.Machine

open Host

theorem State.onCis_onPlot (s : State) (c : CisIx) (p : PlotIx) (f : Cistern → Cistern) (g : Plot → Plot) :
    (s.onPlot p g).onCis c f = (s.onCis c f).onPlot p g := rfl

/-! ### A short tag holds a CONV back (R191) -/

/-- The halo registers with one stall more of a partition. -/
def countStall (q : PartIx) (x : Halo) : Halo := { x with stall := x.stall.set q.val (satAdd x.stall[q] 1) q.isLt }

/-- The state in which the CONV at the head of plot p waits on its halo tags since now, its stall counted. -/
def haloWaiting (p : PlotIx) (q : PartIx) (s : State) : State := setStage p (.halo s.time) (onHalo (countStall q) s)

/-- The waiting command stays at the head of its lane, and the stall is counted once; no energy is debited. -/
theorem haloWaiting_leaves (p : PlotIx) (q : PartIx) (s : State) :
    ((haloWaiting p q s).plot p).compute = { (s.plot p).compute with stage := .halo s.time } ∧
    (haloWaiting p q s).beds = s.beds ∧ (haloWaiting p q s).mem = s.mem ∧
    ((haloWaiting p q s).cistern 0).halo = countStall q (s.cistern 0).halo := by
  refine ⟨?_, rfl, rfl, ?_⟩
  · rw [haloWaiting, setStage, State.onPlot_plot]
    rfl
  · rw [haloWaiting, setStage, State.onPlot_cistern, onHalo, State.onCis_cistern]

/-- The wait does not tell how far the command had come before it. -/
theorem haloWaiting_setStage (p : PlotIx) (q : PartIx) (g : Stage) (s : State) :
    haloWaiting p q (setStage p g s) = haloWaiting p q s := by
  simp only [haloWaiting, setStage, onHalo, State.onCis_onPlot, State.onPlot_onPlot, State.onPlot_time]

@[simp] theorem countStall_time (q : PartIx) (x : Halo) : (countStall q x).time = x.time := rfl

@[simp] theorem countStall_stall (q : PartIx) (x : Halo) : (countStall q x).stall[q] = satAdd x.stall[q] 1 :=
  Vector.getElem_set_self ..

section
variable {s : State} {p : PlotIx} {d : BitVec 1024}

/-- Steps 2 and 3 of a command that waits on no semaphore. -/
theorem waits23_of_no_sem {l : Lane} (h : LeavesWaits s p l d) (hs : hSemWait d = false) :
    waits23 p l d s = some (s.onPlot p fun x => laneSet x l { laneGet x l with stage := .taken }) := by
  have hother : (hWaitAll d && !laneEmpty (laneGet (s.plot p) (laneOther l))) = false := by
    cases hw : hWaitAll d with
    | false => rfl
    | true => simp [h.waitAll hw]
  simp only [waits23, h.queued, hother, hs, ne_eq, not_true, if_false, Bool.false_eq_true]

theorem convHead_of_leavesWaits (h : LeavesWaits s p .compute d) (hop : hOp d = 0x02) : convHead s p = some d := by
  have hq : (s.plot p).compute.queue.head? = some d := h.head
  obtain ⟨ds, hds⟩ := List.head?_eq_some_iff.1 hq
  simp only [convHead, hds, hop, canStart_of_leavesWaits h, decide_true, Bool.and_self, if_true]

theorem convHaloStep_of_short {q : PartIx} (hq : plotPart (s.plot p) = some q) (hen : cHalo d = true)
    (hok : (haloDesc s p d).ok = true) (hshort : (haloShort s q (haloDesc s p d)).isSome = true) :
    convHaloStep p d s = haloWaiting p q s := by
  have hnone : (haloShort s q (haloDesc s p d)).isNone = false := by simpa using hshort
  simp only [convHaloStep, hq, hen, hok, hnone, Bool.not_true, Bool.or_self, Bool.false_eq_true, if_false]
  rfl

/-- CONV past its first waits enters the halo wait while a tag is short. -/
theorem exec_conv_of_short {q : PartIx} (h : LeavesWaits s p .compute d) (hop : hOp d = 0x02) (hq : plotPart (s.plot p) = some q)
    (hen : cHalo d = true) (hok : (haloDesc s p d).ok = true) (hs : hSemWait d = false)
    (hshort : (haloShort s q (haloDesc s p d)).isSome = true) : exec (.conv p) s = .next (haloWaiting p q s) := by
  have htaken : waits23 p .compute d s = some (setStage p .taken s) := waits23_of_no_sem h hs
  have hplot : (setStage p .taken s).plot p = { s.plot p with compute := { (s.plot p).compute with stage := .taken } } :=
    State.onPlot_plot ..
  have hstep : convHaloStep p d (setStage p .taken s) = haloWaiting p q s :=
    (convHaloStep_of_short (s := setStage p .taken s) (by rw [hplot]; exact hq) hen hok hshort).trans (haloWaiting_setStage ..)
  change execConv p s = _
  simp only [execConv, convHead_of_leavesWaits h hop, htaken, hplot, hstep]

/-! ### A wait beyond IMG_HALO_LIMIT (R193) -/

/-- CIS_HALO_LONG latched: tag, partition, plot, the value needed and the value found. -/
def latchLong (p : PlotIx) (q : PartIx) (tag need : Nat) (x : Halo) : Halo :=
  { x with
    longTag := BitVec.ofNat 9 tag
    longPart := BitVec.ofNat 4 q.val
    longPlot := BitVec.ofNat 7 p.val
    longValid := true
    longNeed := BitVec.ofNat 16 need
    longCurrent := tabGet 0 x.tags (512 * q.val + tag) }

/-- A halo wait beyond the limit latches CIS_HALO_LONG and raises one event, and goes on. -/
theorem exec_haloLongWait_of_over {q : PartIx} {since : DWord} {tag need : Nat} (hq : plotPart (s.plot p) = some q)
    (hhead : convHead s p = some d) (hstage : (s.plot p).compute.stage = .halo since)
    (hshort : haloShort s q (haloDesc s p d) = some (tag, need)) (hover : 1000 * s.dev.haloLimit.toNat < (s.time - since).toNat) :
    exec (.haloLongWait p) s = .next (almEvent evHaloStall (onHalo (latchLong p q tag need) s)) := by
  change execHaloLongWait p s = _
  simp only [execHaloLongWait, hhead, hstage, hq, hshort, if_neg (Nat.not_le.2 hover)]
  rfl

end

theorem almEvent_onHalo_halo (e : BitVec 8) (f : Halo → Halo) (s : State) :
    ((almEvent e (onHalo f s)).cistern 0).halo = f (s.cistern 0).halo := by
  change ((onHalo f s).cistern 0).halo = _
  rw [onHalo, State.onCis_cistern]

/-- Settles O12: the wait of a short tag as it begins, and the latch of one that is too long. -/
theorem haloWaits : Obligations.HaloWaits := by
  refine fun s p q d hq => ⟨fun h hop hen hok hs hshort => ?_, fun since tag need hhead hstage hshort hover => ?_⟩
  · obtain ⟨hcompute, hbeds, hmem, hhalo⟩ := haloWaiting_leaves p q s
    refine ⟨_, exec_conv_of_short h hop hq hen hok hs hshort, ?_, ?_, ?_, hbeds, hmem, ?_, ?_⟩
    · rw [hcompute]
    · rw [hcompute]
    · rw [hcompute]
      exact h.free
    · rw [hhalo, countStall_stall]
    · rw [hhalo, countStall_time]
  · refine ⟨_, exec_haloLongWait_of_over hq hhead hstage hshort hover, rfl, rfl, rfl, ?_, rfl⟩
    rw [almEvent_onHalo_halo]
    exact ⟨BitVec.toNat_ofNat .., (BitVec.toNat_ofNat ..).trans (Nat.mod_eq_of_lt q.isLt),
      (BitVec.toNat_ofNat ..).trans (Nat.mod_eq_of_lt p.isLt), rfl, BitVec.toNat_ofNat .., rfl, rfl, rfl⟩

end Sys2Proof.Machine
end

section
/-! The stateful generator: what a step draws and moves, and what a load of staged words leaves (R198). -/

namespace Sys2Proof.Machine

open Host

/-- A step moves the words along and returns the new s3, drawn from s0 and s3; the draw is counted. -/
theorem rngStep_eq (g : Rng) :
    let t := g.s0 ^^^ (g.s0 <<< 11)
    let v := g.s3 ^^^ (g.s3 >>> 19) ^^^ t ^^^ (t >>> 8)
    rngStep g = (v.toNat, { g with s0 := g.s1, s1 := g.s2, s2 := g.s3, s3 := v, draws := satAdd g.draws 1 }) := rfl

/-! ### The words of a load -/

section

variable {g : Rng} {w0 w1 w2 : Word} (w3 : Word)

theorem rngLoaded_s0_of_staged (h0 : g.staged0 = some w0) (h1 : g.staged1 = some w1) (h2 : g.staged2 = some w2) :
    (rngLoaded g w3).s0 = if w0 = 0 ∧ w1 = 0 ∧ w2 = 0 ∧ w3 = 0 then 1 else w0 := by
  simp only [rngLoaded, h0, h1, h2, Option.getD_some, Bool.and_eq_true, decide_eq_true_eq, and_assoc]

theorem rngLoaded_s1_of_staged (h1 : g.staged1 = some w1) : (rngLoaded g w3).s1 = w1 := by
  simp only [rngLoaded, h1, Option.getD_some]

theorem rngLoaded_s2_of_staged (h2 : g.staged2 = some w2) : (rngLoaded g w3).s2 = w2 := by
  simp only [rngLoaded, h2, Option.getD_some]

@[simp] theorem rngLoaded_s3 : (rngLoaded g w3).s3 = w3 := rfl

end

/-- RNG_STATE_APPLY at an idle point, with a load requested, changes the plot's generator alone. -/
theorem exec_rngStateApply_of_load {s : State} {p : PlotIx} {w3 : Word} (hidle : idlePoint (s.plot p) = true)
    (hload : (s.plot p).rng.load = some w3) :
    exec (.rngStateApply p) s = .next (s.setPlot p { s.plot p with rng := rngLoaded (s.plot p).rng w3 }) := by
  change execRngStateApply p s = _
  simp only [execRngStateApply, hload, if_pos hidle]

/-- Settles O17: the step is R198's equation, and a load at an idle point writes the words by the laws above. -/
theorem generatorStepsAndLoads : Obligations.GeneratorStepsAndLoads := by
  refine ⟨fun g => ?_, fun s p w0 w1 w2 w3 hidle h0 h1 h2 hload => ?_⟩
  · rw [rngStep_eq]
    exact ⟨rfl, rfl, rfl, rfl, rfl⟩
  · refine ⟨_, exec_rngStateApply_of_load hidle hload, ?_⟩
    rw [State.setPlot_plot]
    exact ⟨rngLoaded_s1_of_staged w3 h1, rngLoaded_s2_of_staged w3 h2, rngLoaded_s3 w3, rngLoaded_s0_of_staged w3 h0 h1 h2⟩

end Sys2Proof.Machine
end

section
/-! What every step keeps, and the only commands that stop (R210, R212, R249). That an access to a sector that does not exist
faults, and that nothing else stops, is the model's choice (log 110). -/

namespace Sys2Proof.Machine

open Host

/-! ### Every step keeps the form of memory -/

/-- Whatever the command, its meaning keeps the queue, the fuses and the form of memory: for each one by its own law. -/
theorem exec_kept {s₀ s : State} (c : Instr) (hk : Kept s₀ s) : KeptOut s₀ (exec c s) :=
  match c with
  | .plotCommandSubmit .. => execPlotCommandSubmit_kept hk
  | .backpressureEntry .. => execBackpressureEntry_kept hk
  | .gemm .. => execGemm_kept hk
  | .conv .. => execConv_kept hk
  | .vec .. => execVec_kept hk
  | .stat .. => execStat_kept hk
  | .sfuEval .. => execSfuEval_kept hk
  | .sfuLoad .. => execSfuLoad_kept hk
  | .rot .. => execRot_kept hk
  | .rand .. => execRand_kept hk
  | .attn .. => execAttn_kept hk
  | .move .. => execMove_kept hk
  | .zero .. => execZero_kept hk
  | .sync .. => execSync_kept hk
  | .test .. => execTest_kept hk
  | .unknownOpcode .. => execUnknownOpcode_kept hk
  | .outputTileComplete .. => execOutputTileComplete_kept hk
  | .stripeTileComplete .. => execStripeTileComplete_kept hk
  | .keyTileComplete .. => execKeyTileComplete_kept hk
  | .commandComplete .. => execCommandComplete_kept hk
  | .plotFlush .. => execPlotFlush_kept hk
  | .plotResume .. => execPlotResume_kept hk
  | .plotReset .. => execPlotReset_kept hk
  | .plotResetDone .. => execPlotResetDone_kept hk
  | .reducedRequest .. => execReducedRequest_kept hk
  | .reducedApply .. => execReducedApply_kept hk
  | .clockGate .. => execClockGate_kept hk
  | .powerGateEntry .. => execPowerGateEntry_kept hk
  | .powerGateWake .. => execPowerGateWake_kept hk
  | .wakeComplete .. => execWakeComplete_kept hk
  | .bankRetire .. => execBankRetire_kept hk
  | .rngStateLoad .. => execRngStateLoad_kept hk
  | .rngStateApply .. => execRngStateApply_kept hk
  | .layerStateLoad .. => execLayerStateLoad_kept hk
  | .layerStateInstall .. => execLayerStateInstall_kept hk
  | .pageWalk .. => execPageWalk_kept hk
  | .leafFetchComplete .. => execLeafFetchComplete_kept hk
  | .writingEntryReread .. => execWritingEntryReread_kept hk
  | .missWaitExpire .. => execMissWaitExpire_kept hk
  | .descriptorEnqueue .. => execDescriptorEnqueue_kept hk
  | .pageFetchComplete .. => execPageFetchComplete_kept hk
  | .pageEntryWriting .. => execPageEntryWriting_kept hk
  | .pageEntryPresent .. => execPageEntryPresent_kept hk
  | .sequenceRelease .. => execSequenceRelease_kept hk
  | .haloWaitRelease .. => execHaloWaitRelease_kept hk
  | .haloLongWait .. => execHaloLongWait_kept hk
  | .carrierCopy .. => execCarrierCopy_kept hk
  | .carrierWriteback .. => execCarrierWriteback_kept hk
  | .carrierFill .. => execCarrierFill_kept hk
  | .carrierFlush .. => execCarrierFlush_kept hk
  | .carrierDescriptorStart .. => execCarrierDescriptorStart_kept hk
  | .carrierPageComplete .. => execCarrierPageComplete_kept hk
  | .carrierComplete .. => execCarrierComplete_kept hk
  | .directoryRead .. => execDirectoryRead_kept hk
  | .directoryOwn .. => execDirectoryOwn_kept hk
  | .directoryDrop .. => execDirectoryDrop_kept hk
  | .directoryEviction .. => execDirectoryEviction_kept hk
  | .directoryExternal .. => execDirectoryExternal_kept hk
  | .tenureEnd .. => execTenureEnd_kept hk
  | .writebackDone .. => execWritebackDone_kept hk
  | .mirrorFillArrival .. => execMirrorFillArrival_kept hk
  | .xltInvalidate .. => execXltInvalidate_kept hk
  | .xltInvalidateDone .. => execXltInvalidateDone_kept hk
  | .xltMissFill .. => execXltMissFill_kept hk
  | .epochCheckedWrite .. => execEpochCheckedWrite_kept hk
  | .lpddrRead .. => execLpddrRead_kept hk
  | .lpddrWrite .. => execLpddrWrite_kept hk
  | .scrubSector .. => execScrubSector_kept hk
  | .bankRefresh .. => execBankRefresh_kept hk
  | .periodicRetrain .. => execPeriodicRetrain_kept hk
  | .channelPrune .. => execChannelPrune_kept hk
  | .relocationComplete .. => execRelocationComplete_kept hk
  | .submitJob .. => execSubmitJob_kept hk
  | .cancel .. => execCancel_kept hk
  | .suspend .. => execSuspend_kept hk
  | .resume .. => execResume_kept hk
  | .suspendExpire .. => execSuspendExpire_kept hk
  | .queryJobs .. => execQueryJobs_kept hk
  | .loadModel .. => execLoadModel_kept hk
  | .unloadModel .. => execUnloadModel_kept hk
  | .replant .. => execReplant_kept hk
  | .resetPartition .. => execResetPartition_kept hk
  | .passBoundary .. => execPassBoundary_kept hk
  | .voteResult .. => execVoteResult_kept hk
  | .failedPass .. => execFailedPass_kept hk
  | .longHoldDecision => execLongHoldDecision_kept hk
  | .completionRingDrain .. => execCompletionRingDrain_kept hk
  | .pgIdleTimeout .. => execPgIdleTimeout_kept hk
  | .epochAdvance .. => execEpochAdvance_kept hk
  | .epochAcknowledged .. => execEpochAcknowledged_kept hk
  | .heelIn .. => execHeelIn_kept hk
  | .heelInComplete .. => execHeelInComplete_kept hk
  | .victimResume .. => execVictimResume_kept hk
  | .restoreComplete .. => execRestoreComplete_kept hk
  | .msixMessage .. => execMsixMessage_kept hk
  | .irqModerationTimeout .. => execIrqModerationTimeout_kept hk
  | .irqBudgetRefill .. => execIrqBudgetRefill_kept hk
  | .irqCauseClear .. => execIrqCauseClear_kept hk
  | .vfEnableChange .. => execVfEnableChange_kept hk
  | .flr .. => execFlr_kept hk
  | .partitionReset .. => execPartitionReset_kept hk
  | .partitionZeroingDone .. => execPartitionZeroingDone_kept hk
  | .pcieWarmReset => execPcieWarmReset_kept hk
  | .gaugeInterval .. => execGaugeInterval_kept hk
  | .bedClockTarget .. => execBedClockTarget_kept hk
  | .clockStepComplete .. => execClockStepComplete_kept hk
  | .thermalSample .. => execThermalSample_kept hk
  | .throttleNAssert => execThrottleNAssert_kept hk
  | .throttleNRelease => execThrottleNRelease_kept hk
  | .pinLimitLift => execPinLimitLift_kept hk
  | .alertMinimumExpire => execAlertMinimumExpire_kept hk
  | .supplyWarning e => execSupplyWarning_kept (_e := e) hk
  | .supplyRecovery => execSupplyRecovery_kept hk
  | .supplyDip => execSupplyDip_kept hk
  | .supplyQualified => execSupplyQualified_kept hk
  | .holdResume => execHoldResume_kept hk
  | .supplyReset e => execSupplyReset_kept (_e := e) hk
  | .overVoltage e => execOverVoltage_kept (_e := e) hk
  | .watchdogExpiry .. => execWatchdogExpiry_kept hk
  | .coreRestartDone .. => execCoreRestartDone_kept hk
  | .lockstepMismatch => execLockstepMismatch_kept hk
  | .lockstepRestartDone => execLockstepRestartDone_kept hk
  | .foreignWrite _ _ data => execForeignWrite_kept (_data := data) hk
  | .powerOn => execPowerOn_kept hk
  | .moduleReset => execModuleReset_kept hk
  | .resetRelease => execResetRelease_kept hk
  | .strapLatch .. => execStrapLatch_kept hk
  | .imageVerified .. => execImageVerified_kept hk
  | .memoryInitComplete .. => execMemoryInitComplete_kept hk
  | .pruneLogAppend .. => execPruneLogAppend_kept hk
  | .logRotation .. => execLogRotation_kept hk
  | .sqDoorbell .. => execSqDoorbell_kept hk
  | .cqDoorbell .. => execCqDoorbell_kept hk
  | .submissionFetch .. => execSubmissionFetch_kept hk
  | .completionWrite .. => execCompletionWrite_kept hk
  | .qpAttach .. => execQpAttach_kept hk
  | .qpResumeAttach .. => execQpResumeAttach_kept hk
  | .qpDetach .. => execQpDetach_kept hk
  | .detachComplete .. => execDetachComplete_kept hk
  | .windowSelect .. => execWindowSelect_kept hk
  | .lowHalfRead .. => execLowHalfRead_kept hk
  | .registerWrite .. => execRegisterWrite_kept hk
  | .atsInvalidation _ addr len => execAtsInvalidation_kept (_addr := addr) (_len := len) hk
  | .mailboxMonitor .. => execMailboxMonitor_kept hk
  | .imageErase .. => execImageErase_kept hk
  | .imageWrite .. => execImageWrite_kept hk
  | .imageCheck .. => execImageCheck_kept hk
  | .mailboxComplete .. => execMailboxComplete_kept hk
  | .fabricWrite .. => execFabricWrite_kept hk
  | .fabricRead .. => execFabricRead_kept hk
  | .writeFrame .. => execWriteFrame_kept hk
  | .readReq .. => execReadReq_kept hk
  | .readData .. => execReadData_kept hk
  | .ack .. => execAck_kept hk
  | .nak .. => execNak_kept hk
  | .lateErr .. => execLateErr_kept hk
  | .settle .. => execSettle_kept hk
  | .settleDoneSend .. => execSettleDoneSend_kept hk
  | .settleDone .. => execSettleDone_kept hk
  | .settleTimeout .. => execSettleTimeout_kept hk
  | .timeFrame .. => execTimeFrame_kept hk
  | .chunkMemoryEntry .. => execChunkMemoryEntry_kept hk
  | .ackTimer .. => execAckTimer_kept hk
  | .retransmitTimeout .. => execRetransmitTimeout_kept hk
  | .fabricUnreachable .. => execFabricUnreachable_kept hk
  | .laneFault .. => execLaneFault_kept hk
  | .portTrained .. => execPortTrained_kept hk
  | .timeExchange .. => execTimeExchange_kept hk
  | .timeAdjust => execTimeAdjust_kept hk
  | .holdoverEntry => execHoldoverEntry_kept hk
  | .masterClaim => execMasterClaim_kept hk
  | .syncPulse => execSyncPulse_kept hk
  | .broadcast .. => execBroadcast_kept hk
  | .reduce .. => execReduce_kept hk
  | .readyWrite .. => execReadyWrite_kept hk
  | .creditWrite .. => execCreditWrite_kept hk
  | .countArrival .. => execCountArrival_kept hk
  | .pageArrival .. => execPageArrival_kept hk
  | .collTimeout .. => execCollTimeout_kept hk
  | .streamOpen .. => execStreamOpen_kept hk
  | .streamFrame .. => execStreamFrame_kept hk
  | .streamClose .. => execStreamClose_kept hk
  | .frameComplete .. => execFrameComplete_kept hk
  | .parkEnd .. => execParkEnd_kept hk
  | .inputBlankingEnd .. => execInputBlankingEnd_kept hk
  | .uartCharacter .. => execUartCharacter_kept hk
  | .mgtReadFrame .. => execMgtReadFrame_kept hk
  | .mgtWriteFrame .. => execMgtWriteFrame_kept hk
  | .mgtPartReset .. => execMgtPartReset_kept hk
  | .beatToggle => execBeatToggle_kept hk
  | .monitorHelp => execMonitorHelp_kept hk
  | .monitorStatus => execMonitorStatus_kept hk
  | .monitorRd .. => execMonitorRd_kept hk
  | .monitorWr .. => execMonitorWr_kept hk
  | .monitorLog .. => execMonitorLog_kept hk
  | .monitorTest .. => execMonitorTest_kept hk
  | .traceStart .. => execTraceStart_kept hk
  | .traceStop .. => execTraceStop_kept hk
  | .traceDrained .. => execTraceDrained_kept hk
  | .traceStatus .. => execTraceStatus_kept hk
  | .cutArm .. => execCutArm_kept hk
  | .cutList .. => execCutList_kept hk
  | .cutGet .. => execCutGet_kept hk
  | .cutDrop .. => execCutDrop_kept hk
  | .captureComplete .. => execCaptureComplete_kept hk
  | .perfSelect .. => execPerfSelect_kept hk
  | .perfClear .. => execPerfClear_kept hk
  | .monitorTime => execMonitorTime_kept hk
  | .monitorGauge => execMonitorGauge_kept hk
  | .monitorBaud .. => execMonitorBaud_kept hk
  | .faultWindowRollover .. => execFaultWindowRollover_kept hk
  | .flitReplay .. => execFlitReplay_kept hk
  | .trellisLaneFault .. => execTrellisLaneFault_kept hk
  | .unitComplete .. => execUnitComplete_kept hk
  | .moveRowComplete .. => execMoveRowComplete_kept hk
  | .powerGateComplete .. => execPowerGateComplete_kept hk
  | .functionMaskWrite .. => execFunctionMaskWrite_kept hk

/-- A step takes the front command from the queue and keeps the rest of it, the fuses and the form of memory. -/
theorem step_kept {s t : State} (h : step s = .next t) : Kept { s with pending := s.pending.tail } t := by
  cases hq : s.pending with
  | nil =>
    have hs : Kept { s with pending := [] } s := (Kept.refl _).upd hq rfl rfl rfl rfl
    rw [step_of_nil hq] at h
    cases h
    exact idleTick_kept hs
  | cons c rest =>
    rw [step_of_cons hq] at h
    exact (exec_kept c (Kept.refl _)).of t h

/-- Settles O4: the invariant is the last part of what a step keeps. -/
theorem stepKeepsMemoryCanonical : Obligations.StepKeepsMemoryCanonical :=
  fun _ _ hs h => (step_kept h).mem hs

/-! ### Sectors that do not exist -/

/-- An outcome that faults exactly under a condition. -/
theorem fault_iff_guard {P : Prop} [Decidable P] (e : Fault) (t : State) :
    (P → (if P then .fault e else .next t : Out) = .fault e) ∧
    (¬ P → ∃ u, (if P then .fault e else .next t : Out) = .next u) :=
  ⟨fun h => if_pos h, fun h => ⟨t, if_neg h⟩⟩

/-- Settles O3: the three commands that name a sector test it against the module's last one, and each other meaning is a next
state for every operand. -/
theorem onlyAbsentSectorsStop : Obligations.OnlyAbsentSectorsStop := by
  intro c s
  cases c with
  | lpddrRead => exact fault_iff_guard ..
  | lpddrWrite => exact fault_iff_guard ..
  | scrubSector => exact fault_iff_guard ..
  | _ => exact ⟨False.elim, fun _ => ⟨_, rfl⟩⟩

end Sys2Proof.Machine
end

section
/-! The translation caches: how an invalidation begins, what it removes, and how a miss fills a cache (R215, R239). -/

namespace Sys2Proof.Machine

open Host

theorem State.onCis_congr {s : State} {c : CisIx} {f g : Cistern → Cistern} (h : f (s.cistern c) = g (s.cistern c)) :
    s.onCis c f = s.onCis c g := congrArg (s.setCistern c) h

section
variable {s : State} {c : CisIx} {w : Word}

/-! ### Invalidations (R239) -/

theorem exec_xltInvalidate_of_free (h : (s.cistern c).xltBusy = none) :
    exec (.xltInvalidate c w) s = .next (s.onCis c fun x => { x with xltBusy := some w }) := by
  change execXltInvalidate c w s = _
  rw [execXltInvalidate]
  exact congrArg Outcome.next (State.onCis_congr (by simp [h]))

theorem exec_xltInvalidate_of_busy (h : (s.cistern c).xltBusy ≠ none) :
    exec (.xltInvalidate c w) s = .next (s.onCis c fun x => { x with xltDropped := satAdd x.xltDropped 1 }) := by
  change execXltInvalidate c w s = _
  rw [execXltInvalidate]
  exact congrArg Outcome.next (State.onCis_congr (if_pos (Option.isSome_iff_ne_none.2 h)))

theorem exec_xltInvalidateDone_of_busy (h : (s.cistern c).xltBusy = some w) : exec (.xltInvalidateDone c) s =
    .next (s.onCis c fun x => { x with xltBusy := none, xltCache := x.xltCache.filter fun e => !invHits w e }) := by
  change execXltInvalidateDone c s = _
  rw [execXltInvalidateDone]
  exact congrArg Outcome.next (State.onCis_congr (by simp [h]))

/-- The fields of the word: PARTITION, ALL and VFRAME. -/
theorem invHits_iff (w : Word) (e : PartIx × BitVec 24 × Word) : invHits w e = true ↔
    e.1.val = w.toNat / 2 ^ 24 % 16 ∧ (w.getLsbD 28 = true ∨ e.2.1.toNat = w.toNat % 2 ^ 24) := by
  simp [invHits, bitsOf_eq]

/-! ### Misses (R215) -/

theorem frameCis_of_parity {v : Nat} (h : v % 2 = c.val) : frameCis v = c := Fin.ext h

/-- An access to a frame that is not cached sees the entry of the system area; the miss is counted, and the entry becomes the
most recent one. -/
theorem xltTouch_of_missed {q : PartIx} {v : Nat}
    (h : ∀ e ∈ (s.cistern (frameCis v)).xltCache, ¬ (e.1 = q ∧ e.2.1.toNat = v)) :
    xltTouch q v s = s.onCis (frameCis v) fun x => { x with
      xltMiss := satAdd x.xltMiss 1
      xltCache := ((q, BitVec.ofNat 24 v, tabGet 0 s.mem.xlt (xltKey q v)) :: x.xltCache).take 8192 } := by
  have hmiss : ∀ e ∈ (s.cistern (frameCis v)).xltCache, (e.1 == q && e.2.1.toNat == v) = false := by simpa using h
  have hentry : xltEntry s q v = tabGet 0 s.mem.xlt (xltKey q v) := by
    rw [xltEntry, List.find?_eq_none.2 (by simpa using hmiss)]
  have hany : (s.cistern (frameCis v)).xltCache.any (fun e => e.1 == q && e.2.1.toNat == v) = false :=
    List.any_eq_false.2 (by simpa using hmiss)
  have hrest : (s.cistern (frameCis v)).xltCache.filter (fun e => !(e.1 == q && e.2.1.toNat == v)) =
      (s.cistern (frameCis v)).xltCache := List.filter_eq_self.2 fun e he => by rw [hmiss e he]; rfl
  rw [xltTouch]
  refine State.onCis_congr ?_
  simp only [hany, hrest, hentry, Bool.false_eq_true, if_false]

theorem exec_xltMissFill_of_missed {q : PartIx} {v : BitVec 24} (hc : frameCis v.toNat = c)
    (hquota : v.toNat < t3Quota s q / 65536) (h : ∀ e ∈ (s.cistern c).xltCache, ¬ (e.1 = q ∧ e.2.1 = v)) :
    exec (.xltMissFill c q v) s = .next (xltTouch q v.toNat s) := by
  have hany : (s.cistern c).xltCache.any (fun e => e.1 == q && e.2.1 == v) = false := List.any_eq_false.2 (by simpa using h)
  have hq : ¬ t3Quota s q / pageBytes ≤ v.toNat := not_le.2 hquota
  change execXltMissFill c q v s = _
  simp only [execXltMissFill, hc, hany, hq, ne_eq, not_true_eq_false, decide_false, Bool.or_self, Bool.false_eq_true, if_false]

end

/-- Settles O26: each clause is one of the equations above, read field by field. -/
theorem translationCaches : Obligations.TranslationCaches := by
  refine fun s c => ⟨fun w => ⟨exec_xltInvalidate_of_free, exec_xltInvalidate_of_busy, fun hbusy => ?_⟩,
    fun q v hparity hquota hmiss => ?_⟩
  · refine ⟨_, exec_xltInvalidateDone_of_busy hbusy, rfl, by rw [State.onCis_cistern], fun e => ?_⟩
    rw [State.onCis_cistern, List.mem_filter, Bool.not_eq_true', Bool.eq_false_iff, ne_eq, invHits_iff]
  · have hc := frameCis_of_parity hparity
    have hmiss' : ∀ e ∈ (s.cistern (frameCis v.toNat)).xltCache, ¬ (e.1 = q ∧ e.2.1.toNat = v.toNat) := by
      rw [hc]
      exact fun e he hev => hmiss e he ⟨hev.1, BitVec.eq_of_toNat_eq hev.2⟩
    rw [exec_xltMissFill_of_missed hc hquota hmiss, xltTouch_of_missed hmiss', hc, BitVec.ofNat_toNat, BitVec.setWidth_eq]
    refine ⟨_, rfl, rfl, ?_, ?_⟩ <;> rw [State.onCis_cistern]

end Sys2Proof.Machine
end

section
/-! The mirror directory: one request at an entry, copies that leave, and fills (R225 to R231). That the bytes of a write-back are
stored at the eviction or recall, and the entry is Writing-back until WRITEBACK_DONE, is the model's choice (log 47). -/

namespace Sys2Proof.Machine

open Host

/-! ### The directory half of a frame -/

section
variable {s t : State} {n : Nat}

@[simp] theorem onDir_dir (g : DirHalf → DirHalf) :
    ((onDir n g s).cistern (frameCis n)).dir = g (s.cistern (frameCis n)).dir := by
  rw [onDir, State.onCis_cistern]

theorem onDir_onDir (g k : DirHalf → DirHalf) : onDir n g (onDir n k s) = onDir n (fun d => g (k d)) s := by
  simp [onDir, State.onCis, State.setCistern, State.cistern]

theorem onDir_id {g : DirHalf → DirHalf} (h : g (s.cistern (frameCis n)).dir = (s.cistern (frameCis n)).dir) :
    onDir n g s = s :=
  State.onCis_id (congrArg (fun d => { s.cistern (frameCis n) with dir := d }) h)

/-- An entry depends on the entries of its half alone. -/
theorem dirEntry_congr (h : (t.cistern (frameCis n)).dir.entries = (s.cistern (frameCis n)).dir.entries) :
    dirEntry t n = dirEntry s n := by rw [dirEntry, h, dirEntry]

@[simp] theorem dirEntry_setDirEntry (e : DirEntry) : dirEntry (setDirEntry n e s) n = e := by
  rw [dirEntry, setDirEntry, onDir_dir, tabGet_set, if_pos rfl]

@[simp] theorem setDirEntry_bed (e : DirEntry) (b : BedIx) : (setDirEntry n e s).bed b = s.bed b := rfl

/-- The requests that wait in the half of a frame. -/
def dirQueue (s : State) (n : Nat) : List (BitVec 24 × DirQueued) := (s.cistern (frameCis n)).dir.queue

@[simp] theorem dirQueue_setDirEntry (e : DirEntry) : dirQueue (setDirEntry n e s) n = dirQueue s n := by
  rw [dirQueue, setDirEntry, onDir_dir, dirQueue]

theorem countReq_leaves (r : DirReq) : dirEntry (countReq n r s) n = dirEntry s n ∧
    dirQueue (countReq n r s) n = dirQueue s n := by
  rw [countReq, dirQueue, onDir_dir]
  cases r <;> exact ⟨dirEntry_congr (by rw [onDir_dir]), rfl⟩

end

/-! ### Copies -/

/-- One member taken out of a set of sixteen. -/
theorem getLsbD_and_not_single (m : BitVec 16) {i j : Nat} (hj : j < 16) :
    (m &&& ~~~(BitVec.ofNat 16 (2 ^ i))).getLsbD j = (m.getLsbD j && decide (j ≠ i)) := by
  rw [BitVec.getLsbD_and, BitVec.getLsbD_not, BitVec.getLsbD_ofNat, Nat.testBit_two_pow]
  simp [hj, eq_comm]

section
variable {s t : State} {b : BedIx} {n : Nat}

/-- A bed whose copies of a frame are gone. -/
def withoutFrame (n : Nat) (x : Bed) : Bed := { x with mirror := x.mirror.filter fun c => c.frame.toNat ≠ n }

theorem withoutFrame_idem (x : Bed) : withoutFrame n (withoutFrame n x) = withoutFrame n x := by
  simp [withoutFrame]

theorem no_copy_withoutFrame (f : BitVec 24) (x : Bed) : ∀ c ∈ (withoutFrame f.toNat x).mirror, c.frame ≠ f := by
  intro c hc hf
  have hne := (List.mem_filter.1 hc).2
  rw [hf] at hne
  simp at hne

theorem withoutFrame_mirror (f : BitVec 24) (x : Bed) :
    (withoutFrame f.toNat x).mirror = x.mirror.filter fun c => c.frame ≠ f :=
  List.filter_congr fun c _ => by simp [BitVec.toNat_inj]

theorem removeCopy_eq : removeCopy b n s = s.onBed b (withoutFrame n) := rfl

/-- Every bed of a list drops its copy: what each bed is left with. -/
theorem removeCopies_bed (l : List BedIx) (s : State) (o : BedIx) :
    (forAll l (fun s b => removeCopy b n s) s).bed o = if o ∈ l then withoutFrame n (s.bed o) else s.bed o := by
  induction l generalizing s with
  | nil => rfl
  | cons b l ih =>
    rw [forAll, List.foldl_cons]
    refine (ih _).trans ?_
    rw [removeCopy_eq]
    by_cases ho : o = b
    · subst ho
      simp [withoutFrame_idem]
    · simp [ho, State.onBed_bed_ne _ _ ho]

theorem invalidateBeds_bed (m : BitVec 16) (s : State) (o : BedIx) :
    (invalidateBeds m n s).bed o = if m.getLsbD o.val then withoutFrame n (s.bed o) else s.bed o := by
  rw [invalidateBeds, removeCopies_bed]
  simp [bedsIn]

theorem invalidateBeds_leaves (m : BitVec 16) (s : State) :
    (invalidateBeds m n s).mem = s.mem ∧ (invalidateBeds m n s).cis = s.cis :=
  List.foldlRecOn (motive := fun u : State => u.mem = s.mem ∧ u.cis = s.cis) (bedsIn m) _ ⟨rfl, rfl⟩ fun _ hu _ _ => hu

theorem copyOf_congr (h : t.bed b = s.bed b) : copyOf t b n = copyOf s b n := by
  rw [copyOf, h, copyOf]

theorem freeSlot_congr (h : t.bed b = s.bed b) : freeSlot t b = freeSlot s b := by
  simp only [freeSlot, sharePages, h]

/-- A change of a copy that keeps its frame changes the copy that is found. -/
theorem copyOf_onCopy {g : MirrorCopy → MirrorCopy} (hg : ∀ c, (g c).frame = c.frame) :
    copyOf (onCopy b n g s) b n = (copyOf s b n).map g := by
  have hkey : ∀ c : MirrorCopy, (if decide (c.frame.toNat = n) then g c else c).frame = c.frame := fun c => by
    split
    · exact hg c
    · rfl
  rw [copyOf, onCopy, State.onBed_bed, copyOf]
  induction (s.bed b).mirror with
  | nil => rfl
  | cons c l ih =>
    rw [updateWhere, List.map_cons, List.find?_cons, List.find?_cons, hkey]
    by_cases hc : c.frame.toNat = n
    · simp [hc]
    · simp only [hc, decide_false]
      exact ih

end

/-! ### Requests served one by one (R231) -/

/-- No request waits for a frame. -/
def NoneWaits (s : State) (n : Nat) : Prop := ∀ e ∈ dirQueue s n, e.1.toNat ≠ n

section
variable {s t : State}

theorem NoneWaits.of_queue {n : Nat} (h : NoneWaits s n) (hq : dirQueue t n = dirQueue s n) : NoneWaits t n := by
  rw [NoneWaits, hq]
  exact h

/-- The server of a frame has nothing to do. -/
theorem NoneWaits.serveQueue {n : Nat} (h : NoneWaits s n) (fuel : Nat) : serveQueue n fuel s = s := by
  have hfind : (s.cistern (frameCis n)).dir.queue.find? (fun e => e.1.toNat = n) = none :=
    List.find?_eq_none.2 (by simpa [NoneWaits, dirQueue] using h)
  cases fuel with
  | zero => rfl
  | succ k => rw [Machine.serveQueue, hfind]

theorem NoneWaits.dirServe {n : Nat} (h : NoneWaits s n) : dirServe n s = s := h.serveQueue 257

variable {f : BitVec 24}

/-- No answer lets a request wait. -/
theorem dirQueue_answer (n : Nat) (r : DirQueued) (s : State) : dirQueue (answer n r s) n = dirQueue s n := by
  have hgrant : ∀ b own fill u, dirQueue (grantCopy b n own fill u) n = dirQueue u n := by
    intro b own fill u
    unfold grantCopy
    repeat' split
    all_goals rfl
  have hinv : ∀ m, dirQueue (invalidateBeds m n s) n = dirQueue s n := fun m =>
    congrArg (fun v : Vector Cistern 2 => v[frameCis n].dir.queue) (invalidateBeds_leaves m s).2
  unfold answer answerBed
  repeat' split
  all_goals simp only [hgrant, hinv, dirQueue_setDirEntry]

/-- The first request of a frame that finds an entry it can be answered on is answered at once. -/
theorem NoneWaits.dirRequest {r : DirQueued} (h : NoneWaits s f.toNat) (ha : answerable (dirEntry s f.toNat) r = true) :
    dirRequest f.toNat r s = answer f.toNat r s := by
  set q := (s.cistern (frameCis f.toNat)).dir.queue with hq
  set u := onDir f.toNat (fun d => { d with queue := d.queue ++ [(BitVec.ofNat 24 f.toNat, r)] }) s with hu
  have hname : BitVec.ofNat 24 f.toNat = f := by rw [BitVec.ofNat_toNat, BitVec.setWidth_eq]
  have huq : (u.cistern (frameCis f.toNat)).dir.queue = q ++ [(f, r)] := by rw [hu, onDir_dir, hname]
  have hnone : q.find? (fun e => e.1.toNat = f.toNat) = none :=
    List.find?_eq_none.2 (by simpa [NoneWaits, dirQueue] using h)
  have hfind : (q ++ [(f, r)]).find? (fun e => e.1.toNat = f.toNat) = some (f, r) := by simp [hnone]
  have hnew : (f, r) ∉ q := fun hmem => h _ hmem rfl
  have hentry : dirEntry u f.toNat = dirEntry s f.toNat := dirEntry_congr (by rw [hu, onDir_dir])
  have hback : onDir f.toNat (fun d => { d with queue := d.queue.erase (f, r) }) u = s := by
    rw [hu, onDir_onDir]
    refine onDir_id ?_
    rw [hname, ← hq, List.erase_append_right _ hnew, List.erase_cons_head, List.append_nil]
  rw [Machine.dirRequest, Machine.dirServe, ← hu, Machine.serveQueue, huq, hfind]
  simp only [hentry, ha, if_true, hback]
  exact (h.of_queue (dirQueue_answer ..)).serveQueue 256

/-- A bed's request without others in its cycle. -/
theorem bedRequests_single {n : Nat} {r : DirReq} (hroom : (dirQueue s n).length < 256) (hmay : bedMayRequest s n r = true) :
    bedRequests n [r] s = dirRequest n (.bed r) (countReq n r s) := by
  have hlive : [r].filter (fun r => bedMayRequest s n r) = [r] := by simp [hmay]
  have hfits : ¬ 256 < (s.cistern (frameCis n)).dir.queue.length + 1 := by
    rw [dirQueue] at hroom
    omega
  rw [bedRequests]
  simp [hlive, hfits]

/-- Where no request waits, a bed's request is counted and answered. -/
theorem bedRequests_answered {r : DirReq} (hroom : (dirQueue s f.toNat).length < 256) (hw : NoneWaits s f.toNat)
    (hmay : bedMayRequest s f.toNat r = true) (ha : answerable (dirEntry s f.toNat) (.bed r) = true) :
    bedRequests f.toNat [r] s = answerBed f.toNat r (countReq f.toNat r s) := by
  obtain ⟨hentry, hqueue⟩ := countReq_leaves (s := s) (n := f.toNat) r
  rw [bedRequests_single hroom hmay]
  exact (hw.of_queue hqueue).dirRequest (by rw [hentry]; exact ha)

end

/-! ### Grants (R227, R230) -/

section
variable {s u : State} {f : BitVec 24} {b : BedIx} {k : Nat}

/-- A copy as it is granted: in tenure, clean, and not recalled. -/
def granted (k : Nat) (f : BitVec 24) (own fill : Bool) : MirrorCopy :=
  { slot := k, frame := f, owned := own, dirty := 0, filling := fill, tenure := true, recalled := false }

theorem grantCopy_of_free {n : Nat} (own fill : Bool) (hc : copyOf s b n = none) (hk : freeSlot s b = some k) :
    grantCopy b n own fill s =
      s.onBed b fun x => { x with mirror := granted k (BitVec.ofNat 24 n) own fill :: x.mirror } := by
  rw [grantCopy, hc, hk]
  rfl

/-- An entry set and a copy granted: a bed without a copy gets one in a free slot, and no other bed changes. -/
theorem grant_leaves (e : DirEntry) (own fill : Bool) (hc : copyOf u b f.toNat = none) (hk : freeSlot u b = some k) :
    let t := grantCopy b f.toNat own fill (setDirEntry f.toNat e u)
    dirEntry t f.toNat = e ∧ (t.bed b).mirror = granted k f own fill :: (u.bed b).mirror ∧ t.mem = u.mem ∧
      ∀ o, o ≠ b → t.bed o = u.bed o := by
  intro t
  have ht : t = _ := grantCopy_of_free (s := setDirEntry f.toNat e u) own fill hc hk
  rw [ht]
  refine ⟨dirEntry_setDirEntry e, ?_, rfl, fun o ho => State.onBed_bed_ne _ _ ho⟩
  rw [State.onBed_bed, BitVec.ofNat_toNat, BitVec.setWidth_eq]
  rfl

variable (hroom : (dirQueue s f.toNat).length < 256) (hw : NoneWaits s f.toNat) (hc : copyOf s b f.toNat = none)
  (hk : freeSlot s b = some k)
include hroom hw hc hk

theorem directoryRead_of_unheld (hmay : bedMayRequest s f.toNat (.read b) = true) (he : dirEntry s f.toNat = .unheld) :
    ∃ t, exec (.directoryRead f b []) s = .next t ∧ dirEntry t f.toNat = .shared (bedSet b) ∧
      (t.bed b).mirror = granted k f false true :: (s.bed b).mirror ∧ t.mem = s.mem := by
  have hex : exec (.directoryRead f b []) s = .next (bedRequests f.toNat [.read b] s) := rfl
  obtain ⟨hentry, hcopy, hmem, -⟩ := grant_leaves (u := countReq f.toNat (.read b) s) (.shared (bedSet b)) false true hc hk
  refine ⟨_, hex, ?_⟩
  rw [bedRequests_answered hroom hw hmay (by rw [he]; rfl)]
  simp only [answerBed, (countReq_leaves _).1, he]
  exact ⟨hentry, hcopy, hmem⟩

variable {wd : Bool} (hmay : bedMayRequest s f.toNat (.own b wd) = true)
include hmay

theorem directoryOwn_of_unheld (he : dirEntry s f.toNat = .unheld) :
    ∃ t, exec (.directoryOwn f b wd []) s = .next t ∧ dirEntry t f.toNat = .owned b 0 ∧
      (t.bed b).mirror = granted k f true wd :: (s.bed b).mirror ∧ t.mem = s.mem := by
  have hex : exec (.directoryOwn f b wd []) s = .next (bedRequests f.toNat [.own b wd] s) := rfl
  obtain ⟨hentry, hcopy, hmem, -⟩ := grant_leaves (u := countReq f.toNat (.own b wd) s) (.owned b 0) true wd hc hk
  refine ⟨_, hex, ?_⟩
  rw [bedRequests_answered hroom hw hmay (by rw [he]; rfl)]
  simp only [answerBed, (countReq_leaves _).1, he]
  exact ⟨hentry, hcopy, hmem⟩

/-- An own on a Shared entry: the other beds of the set lose their copies, and the requester is not among them. -/
theorem directoryOwn_of_shared {m : BitVec 16} (he : dirEntry s f.toNat = .shared m) :
    ∃ t, exec (.directoryOwn f b wd []) s = .next t ∧ dirEntry t f.toNat = .owned b 0 ∧
      (t.bed b).mirror = granted k f true wd :: (s.bed b).mirror ∧ t.mem = s.mem ∧
      ∀ o : BedIx, o ≠ b → m.getLsbD o.val = true → ∀ c ∈ (t.bed o).mirror, c.frame ≠ f := by
  have hex : exec (.directoryOwn f b wd []) s = .next (bedRequests f.toNat [.own b wd] s) := rfl
  set v := countReq f.toNat (.own b wd) s
  set u := invalidateBeds (m &&& ~~~(bedSet b)) f.toNat v
  have hsame : u.bed b = s.bed b := by
    refine (invalidateBeds_bed _ v b).trans (if_neg ?_)
    rw [bedSet, getLsbD_and_not_single m b.isLt]
    simp
  have hother : ∀ o, o ≠ b → m.getLsbD o.val = true → u.bed o = withoutFrame f.toNat (s.bed o) := by
    intro o ho hm
    refine (invalidateBeds_bed _ v o).trans (if_pos ?_)
    have hne : o.val ≠ b.val := fun h => ho (Fin.ext h)
    rw [bedSet, getLsbD_and_not_single m o.isLt, hm, decide_eq_true hne]
    rfl
  obtain ⟨hentry, hcopy, hmem, hbeds⟩ := grant_leaves (u := u) (.owned b 0) true wd ((copyOf_congr hsame).trans hc)
    ((freeSlot_congr hsame).trans hk)
  refine ⟨_, hex, ?_⟩
  rw [bedRequests_answered hroom hw hmay (by rw [he]; rfl)]
  simp only [answerBed, (countReq_leaves _).1, he]
  refine ⟨hentry, by rw [← hsame]; exact hcopy, hmem.trans (invalidateBeds_leaves _ v).1, fun o ho hm => ?_⟩
  rw [hbeds o ho, hother o ho hm]
  exact no_copy_withoutFrame f _

end

/-! ### Copies that leave (R226, R227, R230) -/

section
variable {s : State} {f : BitVec 24} {b : BedIx} {c : MirrorCopy}

theorem removeCopy_mirror : ((removeCopy b f.toNat s).bed b).mirror = (s.bed b).mirror.filter fun c => c.frame ≠ f := by
  rw [removeCopy_eq, State.onBed_bed, withoutFrame_mirror]

/-- A write-back stores bytes and nothing else. -/
theorem writeBackCopy_leaves (n : Nat) : (writeBackCopy b n c s).beds = s.beds ∧ (writeBackCopy b n c s).cis = s.cis := by
  refine List.foldlRecOn (motive := fun u : State => u.beds = s.beds ∧ u.cis = s.cis) _ _ ⟨rfl, rfl⟩ fun u hu i _ => ?_
  dsimp only
  split
  · exact hu
  · exact hu

theorem writeBackCopy_of_clean (n : Nat) (h : c.dirty = 0) : writeBackCopy b n c s = s := by
  refine List.foldlRecOn (motive := fun u => u = s) _ _ rfl fun u hu i _ => ?_
  simpa [h] using hu

/-- What an owner leaves that gives its copy up. -/
theorem takeBack_leaves (hc : copyOf s b f.toNat = some c) :
    ((takeBack b f.toNat s).bed b).mirror = ((s.bed b).mirror.filter fun c => c.frame ≠ f) ∧
    (takeBack b f.toNat s).mem = (writeBackCopy b f.toNat c s).mem ∧
    dirEntry (takeBack b f.toNat s) f.toNat = (if c.dirty = 0 then .unheld else .writingBack b) ∧
    dirQueue (takeBack b f.toNat s) f.toNat = dirQueue s f.toNat := by
  simp only [takeBack, hc]
  split
  · next hclean =>
    rw [writeBackCopy_of_clean _ hclean]
    exact ⟨removeCopy_mirror, rfl, dirEntry_setDirEntry _, dirQueue_setDirEntry _⟩
  · obtain ⟨hbeds, hcis⟩ := writeBackCopy_leaves (s := s) (b := b) (c := c) f.toNat
    have hbed : (writeBackCopy b f.toNat c s).bed b = s.bed b := congrArg (fun v : Vector Bed 16 => v[b]) hbeds
    refine ⟨?_, rfl, dirEntry_setDirEntry _, ?_⟩
    · rw [setDirEntry_bed, removeCopy_mirror, hbed]
    · rw [dirQueue_setDirEntry]
      exact congrArg (fun v : Vector Cistern 2 => v[frameCis f.toNat].dir.queue) hcis

theorem dropShared_of_shared {m : BitVec 16} (he : dirEntry s f.toNat = .shared m) : dropShared b f.toNat s =
    setDirEntry f.toNat (if m &&& ~~~(bedSet b) = 0 then .unheld else .shared (m &&& ~~~(bedSet b))) (removeCopy b f.toNat s) := by
  have he' : dirEntry (removeCopy b f.toNat s) f.toNat = .shared m := he
  simp only [dropShared, he']

variable (hw : NoneWaits s f.toNat)
include hw

theorem directoryDrop_of_shared {m : BitVec 16} (hv : victimCopy s b = some c) (hf : c.frame = f) (ho : c.owned = false)
    (he : dirEntry s f.toNat = .shared m) : ∃ t, exec (.directoryDrop f b) s = .next t ∧ t.mem = s.mem ∧
      ((t.bed b).mirror = (s.bed b).mirror.filter fun c => c.frame ≠ f) ∧ dirEntry t f.toNat =
        if m &&& ~~~(bedSet b) = 0 then .unheld else .shared (m &&& ~~~(bedSet b)) := by
  have hex : exec (.directoryDrop f b) s = .next (dirServe f.toNat (dropShared b f.toNat s)) := by
    change execDirectoryDrop f b s = _
    simp only [execDirectoryDrop, hv, hf, ho, decide_true, Bool.not_false, Bool.and_self, if_true]
  rw [dropShared_of_shared he, (hw.of_queue (dirQueue_setDirEntry (s := removeCopy b f.toNat s) _)).dirServe] at hex
  exact ⟨_, hex, rfl, removeCopy_mirror, dirEntry_setDirEntry _⟩

theorem directoryEviction_of_owned (hv : victimCopy s b = some c) (hf : c.frame = f) (ho : c.owned = true)
    (hc : copyOf s b f.toNat = some c) : ∃ t, exec (.directoryEviction f b) s = .next t ∧
      ((t.bed b).mirror = (s.bed b).mirror.filter fun c => c.frame ≠ f) ∧ t.mem = (writeBackCopy b f.toNat c s).mem ∧
      dirEntry t f.toNat = if c.dirty = 0 then .unheld else .writingBack b := by
  obtain ⟨hmirror, hmem, hentry, hqueue⟩ := takeBack_leaves hc
  have hex : exec (.directoryEviction f b) s = .next (dirServe f.toNat (takeBack b f.toNat s)) := by
    change execDirectoryEviction f b s = _
    simp only [execDirectoryEviction, hv, hf, ho, decide_true, Bool.and_self, if_true]
  rw [(hw.of_queue hqueue).dirServe] at hex
  exact ⟨_, hex, hmirror, hmem, hentry⟩

omit hw in
theorem exec_tenureEnd_of_free (hc : copyOf s b f.toNat = some c) (ht : c.tenure = true) (hr : c.recalled = false) :
    exec (.tenureEnd f b) s = .next (onCopy b f.toNat (fun c => { c with tenure := false }) s) := by
  change execTenureEnd f b s = _
  simp only [execTenureEnd, hc, ht, hr, Bool.not_true, Bool.false_eq_true, if_false]

theorem tenureEnd_of_recalled (hc : copyOf s b f.toNat = some c) (ht : c.tenure = true) (hr : c.recalled = true) :
    ∃ t, exec (.tenureEnd f b) s = .next t ∧ ((t.bed b).mirror = (s.bed b).mirror.filter fun c => c.frame ≠ f) ∧
      dirEntry t f.toNat = if c.dirty = 0 then .unheld else .writingBack b := by
  obtain ⟨hmirror, -, hentry, hqueue⟩ := takeBack_leaves hc
  have hex : exec (.tenureEnd f b) s = .next (dirServe f.toNat (takeBack b f.toNat s)) := by
    change execTenureEnd f b s = _
    simp only [execTenureEnd, hc, ht, hr, Bool.not_true, Bool.false_eq_true, if_false, if_true]
  rw [(hw.of_queue hqueue).dirServe] at hex
  exact ⟨_, hex, hmirror, hentry⟩

theorem writebackDone_of_writingBack {o : BedIx} (he : dirEntry s f.toNat = .writingBack o) :
    exec (.writebackDone f) s = .next (setDirEntry f.toNat .unheld s) := by
  change execWritebackDone f s = _
  simp only [execWritebackDone, he]
  rw [(hw.of_queue (dirQueue_setDirEntry _)).dirServe]

/-! ### External requests (R230) -/

/-- The count of external requests on held entries (R240). -/
theorem directoryExternal_of_shared {m : BitVec 16} (hroom : (dirQueue s f.toNat).length < 256)
    (he : dirEntry s f.toNat = .shared m) : ∃ t, exec (.directoryExternal f .write) s = .next t ∧
      dirEntry t f.toNat = .unheld ∧ t.mem = s.mem ∧
      (∀ o : BedIx, m.getLsbD o.val = true → ∀ c ∈ (t.bed o).mirror, c.frame ≠ f) ∧
      (t.cistern (frameCis f.toNat)).dir.external = satAdd (s.cistern (frameCis f.toNat)).dir.external 1 := by
  set u := onDir f.toNat (fun d => { d with external := satAdd d.external 1 }) s with hu
  have hentry : dirEntry u f.toNat = .shared m := (dirEntry_congr (by rw [hu, onDir_dir])).trans he
  have hqueue : dirQueue u f.toNat = dirQueue s f.toNat := by rw [dirQueue, hu, onDir_dir, dirQueue]
  have hans : dirRequest f.toNat (.ext .write) u = setDirEntry f.toNat .unheld (invalidateBeds m f.toNat u) := by
    rw [(hw.of_queue hqueue).dirRequest (by rw [hentry]; rfl)]
    simp only [answer, hentry]
  have hex : exec (.directoryExternal f .write) s = .next (dirRequest f.toNat (.ext .write) u) := by
    have hlen : ¬ 256 ≤ (s.cistern (frameCis f.toNat)).dir.queue.length := not_le.2 hroom
    change execDirectoryExternal f .write s = _
    simp only [execDirectoryExternal, hlen, he, entryHeld, if_true, if_false]
    rfl
  obtain ⟨hmem, hcis⟩ := invalidateBeds_leaves (n := f.toNat) m u
  have hdir : ((invalidateBeds m f.toNat u).cistern (frameCis f.toNat)).dir = (u.cistern (frameCis f.toNat)).dir :=
    congrArg (fun v : Vector Cistern 2 => v[frameCis f.toNat].dir) hcis
  rw [hans] at hex
  refine ⟨_, hex, dirEntry_setDirEntry _, hmem, fun o ho => ?_, ?_⟩
  · rw [setDirEntry_bed, invalidateBeds_bed, if_pos ho]
    exact no_copy_withoutFrame f _
  · rw [setDirEntry, onDir_dir, hdir, hu, onDir_dir]

end

/-! ### Fills (R226) -/

theorem exec_mirrorFillArrival {s s1 : State} {f : BitVec 24} {b : BedIx} {c : MirrorCopy} {bs : List Byte}
    (hc : copyOf s b f.toNat = some c) (hfill : c.filling = true)
    (hread : frameRead f.toNat s (List.range 256) = (s1, .ok bs)) :
    exec (.mirrorFillArrival f b) s = .next ((onCopy b f.toNat (fun c => { c with filling := false }) s1).onMem fun m =>
      { m with ram := tabWrite 0 m.ram (copyAddr s1 b c) bs }) := by
  change execMirrorFillArrival f b s = _
  simp only [execMirrorFillArrival, hc, hfill, hread, Bool.not_true, Bool.false_eq_true, if_false]

/-- Settles O27: each event of the directory by its law above. -/
theorem directoryAnswers : Obligations.DirectoryAnswers := by
  intro s f b n hroom hqueue copy others
  have hw : NoneWaits s f.toNat := fun e he h => hqueue e he (BitVec.eq_of_toNat_eq h)
  refine ⟨fun k hc hk => ⟨directoryRead_of_unheld hroom hw hc hk, fun wd hmay =>
      ⟨directoryOwn_of_unheld hroom hw hc hk hmay, fun m => directoryOwn_of_shared hroom hw hc hk hmay⟩⟩,
    fun c hv hf => ⟨fun m ho => directoryDrop_of_shared hw hv hf ho, directoryEviction_of_owned hw hv hf⟩,
    fun m => directoryExternal_of_shared hw hroom,
    fun c hc ht => ⟨exec_tenureEnd_of_free hc ht, tenureEnd_of_recalled hw hc ht⟩,
    fun o he => ⟨_, writebackDone_of_writingBack hw he, dirEntry_setDirEntry _, rfl, rfl⟩,
    fun c s1 bs hc hfill hread => ⟨_, exec_mirrorFillArrival hc hfill hread, ?_, rfl, rfl⟩⟩
  exact copyOf_onCopy fun _ => rfl

end Sys2Proof.Machine
end

section
/-! The carriers: posting, start, the pages between T1 and T2, and completion (R219 to R223, R282). -/

namespace Sys2Proof.Machine

open Host

/-! ### Descriptors of a partition (R220) -/

theorem caOp_eq (d : BitVec 512) : caOp d = d.toNat % 16 := by simp [caOp, fld, bitsOf_eq]

theorem listSet_eq_set {α : Type} (l : List α) (n : Nat) (x : α) : listSet l n x = l.set n x := by
  induction l generalizing n with
  | nil => rfl
  | cons y l ih =>
    cases n with
    | zero => rfl
    | succ n => rw [listSet, List.set_cons_succ, ih]

section
variable {s : State} {q : PartIx} {n : Nat} {o : CarrierOp}

theorem onCarrier_carrier (g : CarrierOp → CarrierOp) (h : (s.part q).carrier[n]? = some o) :
    ((onCarrier q n g s).part q).carrier = (s.part q).carrier.set n (g o) := by
  rw [onCarrier, State.onPart_part]
  simp only [h, listSet_eq_set]

theorem onCarrier_carrier_self (g : CarrierOp → CarrierOp) (h : (s.part q).carrier[n]? = some o) :
    ((onCarrier q n g s).part q).carrier[n]? = some (g o) := by
  rw [onCarrier_carrier g h, List.getElem?_set_self (List.getElem?_eq_some_iff.1 h).1]

theorem onCarrier_carrier_ne (g : CarrierOp → CarrierOp) (h : (s.part q).carrier[n]? = some o) {k : Nat} (hk : k ≠ n) :
    ((onCarrier q n g s).part q).carrier[k]? = (s.part q).carrier[k]? := by
  rw [onCarrier_carrier g h, List.getElem?_set_ne hk.symm]

theorem exec_carrierDescriptorStart_of_first (h : (s.part q).carrier[n]? = some o) (hs : o.started = false)
    (hh : holdActive s = false) (hroom : carrierInFlight s < 16)
    (hfirst : ∀ e ∈ (s.part q).carrier.take n, e.started = true) (hfence : caFence o.desc = true → n = 0) :
    exec (.carrierDescriptorStart q n) s = .next
      (onCarrier q n (fun e => { e with started := true, status := BitVec.ofNat 8 ((checkCarrier o.desc s).getD 0) }) s) := by
  have hany : (((s.part q).carrier.take n).any fun e => !e.started) = false :=
    List.any_eq_false.2 fun e he => by simp [hfirst e he]
  change execCarrierDescriptorStart q n s = _
  simp only [execCarrierDescriptorStart, h]
  refine congrArg Outcome.next (if_neg ?_)
  simpa [hs, hh, hany, hroom] using hfence

theorem exec_carrierComplete_of_done (h : (s.part q).carrier[n]? = some o) (hs : o.started = true)
    (hdone : o.status ≠ 0 ∨ o.pages.length = caPages o.desc) : exec (.carrierComplete q n) s =
      .next (s.onPart q fun x => { x with
        carrier := x.carrier.eraseIdx n
        carrierRing := x.carrierRing ++ [(carrierRecord o s.time.toNat, BitVec.ofNat 32 (caEpoch o.desc))] }) := by
  have hd : carrierDone o = true := by simpa [carrierDone, hs] using hdone
  change execCarrierComplete q n s = _
  simp only [execCarrierComplete, h, hd, if_true]

end

/-! ### Pages of T1 and T2 (R210, R282) -/

theorem tierOf_eq_t1_iff (s : State) (a : Nat) : tierOf s a = .t1 ↔ 0x100000000 ≤ a ∧ a < 0x120000000 := by
  have h1 : t1Base = 0x100000000 := rfl
  have h2 : t2Base = 0x200000000 := rfl
  have h3 : t3Base = 0x10000000000 := rfl
  unfold tierOf
  repeat' split
  all_goals simp only [reduceCtorEq, false_iff, true_iff]; omega

/-- A page of T1 or T2 begins at an address. -/
def NearPage (s : State) (a : Nat) : Prop := a % 65536 = 0 ∧ (tierOf s a = .t1 ∨ tierOf s a = .t2)

section
variable {s : State} {a b k : Nat} {q : PartIx} {epoch : Nat}

theorem NearPage.tierOf_add (h : NearPage s a) (hk : k < 65536) : tierOf s (a + k) = tierOf s a := by
  obtain ⟨hal, ht | ht⟩ := h <;> rw [ht]
  · rw [tierOf_eq_t1_iff] at *
    omega
  · rw [tierOf_eq_t2_iff] at *
    omega

theorem NearPage.tierOf_ne_t3 (h : NearPage s a) : tierOf s a ≠ .t3 := by
  obtain ⟨-, ht | ht⟩ := h <;> simp [ht]

/-- One check point serves a page. -/
theorem NearPage.dstAccepts_add (h : NearPage s a) (hk : k < 65536) : dstAccepts s q (a + k) epoch = dstAccepts s q a epoch := by
  have h1 : t1Base = 0x100000000 := rfl
  have h2 : t2Base = 0x200000000 := rfl
  have hbed : bedStride = 0x02000000 := rfl
  have htier := h.tierOf_add hk
  obtain ⟨hal, ht | ht⟩ := h <;> simp only [dstAccepts, htier, ht]
  · have hsame : (a + k - t1Base) / bedStride = (a - t1Base) / bedStride := by
      have := (tierOf_eq_t1_iff s a).1 ht
      rw [h1, hbed]
      omega
    rw [hsame]
  · have hsame : (a + k - t2Base) / 0x10000000 = (a - t2Base) / 0x10000000 := by
      have := (tierOf_eq_t2_iff s a).1 ht
      rw [h2]
      omega
    rw [hsame]

/-- An accepted write is not counted. -/
theorem bedCheck_accepted {c : BedIx} (n : Nat) (h : epochCheck (bedEpoch s c) epoch = .accept) :
    bedCheck c epoch n s = (s, true) := by
  simp only [bedCheck, h, dropCount]
  rw [State.onBed_id _ _ _ rfl]
  rfl

theorem cisCheck_accepted {c : CisIx} (n : Nat) (h : epochCheck (cisEpoch s c q) epoch = .accept) :
    cisCheck c q epoch n s = (s, true) := by
  simp only [cisCheck, h, dropCount]
  rw [State.onCis_id]
  · rfl
  · exact congrArg (fun v => { s.cistern c with parts := v }) (Vector.set_getElem_self q.isLt)

variable {bs : List Byte}

/-- Bytes that its check point accepts are written into a page as they are. -/
theorem NearPage.devWrite (h : NearPage s a) (hacc : dstAccepts s q a epoch = true) (hn : 0 < bs.length)
    (hfit : k + bs.length ≤ 65536) : devWrite q (a + k) 0 epoch bs s = (ramWrite (a + k) bs s, none) := by
  have hk : k < 65536 := by omega
  have hacc' : dstAccepts s q (a + k) epoch = true := (h.dstAccepts_add hk).trans hacc
  have hpiece : devWritePiece q (a + k) 0 epoch bs s = (ramWrite (a + k) bs s, none) := by
    have htier := h.tierOf_add hk
    obtain ⟨-, ht | ht⟩ := h <;> rw [ht] at htier
    · simp only [dstAccepts, htier, beq_iff_eq] at hacc'
      simp only [devWritePiece, htier, bedCheck_accepted _ hacc']
    · simp only [dstAccepts, htier, beq_iff_eq] at hacc'
      simp only [devWritePiece, htier, cisCheck_accepted _ hacc']
  have hin : (a + k) % pageBytes + bs.length ≤ pageBytes := by
    have hal := h.1
    rw [show pageBytes = 65536 from rfl]
    omega
  rw [Machine.devWrite, pieces_of_fits hn hin]
  simp only [devWritePieces, Nat.sub_self, List.drop_zero, List.take_length, hpiece]

/-- Reading a page of T1 or T2 changes nothing. -/
theorem NearPage.devRead (h : NearPage s a) (n rate : Nat) (flips : Flips) :
    devRead q a n rate flips s = (s, .ok (ramRead s a n)) := by
  obtain ⟨-, ht | ht⟩ := h <;> simp only [Machine.devRead, ht]

end

/-! ### Bytes and dirty masks (R219) -/

section
variable {s t : State} {a b : Nat}

theorem ramByte_congr (h : t.mem = s.mem) (x : Nat) : ramByte t x = ramByte s x := by rw [ramByte, h, ramByte]
theorem dirtyMask_congr (h : t.mem = s.mem) (x : Nat) : dirtyMask t x = dirtyMask s x := by rw [dirtyMask, h, dirtyMask]

@[simp] theorem length_ramRead (s : State) (a n : Nat) : (ramRead s a n).length = n := tabRead_length ..

@[simp] theorem ramByte_setDirty (m : BitVec 16) (x : Nat) : ramByte (setDirty a m s) x = ramByte s x := rfl

theorem dirtyMask_setDirty (m : BitVec 16) (x : Nat) :
    dirtyMask (setDirty a m s) x = if x / 65536 = a / 65536 then m else dirtyMask s x := tabGet_set ..

theorem setDirty_safe (m : BitVec 16) (hs : Safe s) : Safe (setDirty a m s) := (setDirty_kept (Kept.refl s)).mem hs

/-- Marking the sub-pages of a range leaves the mask of every page that the range does not meet. -/
theorem tabGet_markDirty_outside {d : Tab (BitVec 16)} {n k : Nat} (h : ∀ x, a ≤ x → x < a + n → x / 65536 ≠ k) :
    tabGet 0 (markDirty d a n) k = tabGet 0 d k := by
  unfold markDirty
  split
  · rfl
  · refine List.foldlRecOn (motive := fun u => tabGet 0 u k = tabGet 0 d k) _ _ rfl fun u hu i hi => ?_
    have hlast := List.mem_range.1 hi
    have hmeet := h (max a (4096 * (a / 4096 + i))) (by omega) (by omega)
    rw [tabGet_set, if_neg (by omega), hu]

theorem dirtyMask_ramWrite_outside {bs : List Byte} {x : Nat}
    (h : ∀ y, b ≤ y → y < b + bs.length → y / 65536 ≠ x / 65536) : dirtyMask (ramWrite b bs s) x = dirtyMask s x := by
  rw [dirtyMask, ramWrite, State.onMem_mem]
  dsimp only
  split
  · rfl
  · exact tabGet_markDirty_outside h

end

/-! ### What an action on a page leaves (R219) -/

/-- Of a state, an action has changed bytes and masks of T0, T1 and T2 alone, and of the bytes at most those of the page at b. -/
structure WritesPage (s t : State) (b : Nat) : Prop where
  parts : t.parts = s.parts
  plots : t.plots = s.plots
  t3 : t.mem.t3 = s.mem.t3
  outside : ∀ x, x < b ∨ b + 65536 ≤ x → ramByte t x = ramByte s x

theorem WritesPage.refl (s : State) (b : Nat) : WritesPage s s b := ⟨rfl, rfl, rfl, fun _ _ => rfl⟩

theorem WritesPage.trans {s t u : State} {b : Nat} (h : WritesPage s t b) (k : WritesPage t u b) : WritesPage s u b :=
  ⟨k.parts.trans h.parts, k.plots.trans h.plots, k.t3.trans h.t3, fun x hx => (k.outside x hx).trans (h.outside x hx)⟩

/-- A write within the page, and masks set before or after it. -/
theorem writesPage_ramWrite {s : State} {b k : Nat} {bs : List Byte} (hfit : k + bs.length ≤ 65536) :
    WritesPage s (ramWrite (b + k) bs s) b :=
  ⟨rfl, rfl, rfl, fun _ hx => ramByte_ramWrite_outside s (by omega)⟩

theorem writesPage_setDirty (s : State) (a : Nat) (m : BitVec 16) (b : Nat) : WritesPage s (setDirty a m s) b :=
  ⟨rfl, rfl, rfl, fun _ _ => rfl⟩

section
variable {s : State} {a b : Nat} {q : PartIx} {d : BitVec 512} {bs : List Byte}

/-! ### Whole pages (R219, R221) -/

/-- The state after a whole page was written: its bytes, and a clear mask. -/
def pageStored (b : Nat) (bs : List Byte) (s : State) : State := setDirty b 0 (ramWrite b bs s)

theorem pageStored_leaves (hlen : bs.length = 65536) : WritesPage s (pageStored b bs s) b ∧
    dirtyMask (pageStored b bs s) b = 0 ∧ ∀ k < 65536, some (ramByte (pageStored b bs s) (b + k)) = bs[k]? := by
  refine ⟨(writesPage_ramWrite (k := 0) (by omega)).trans (writesPage_setDirty ..), ?_, fun k hk => ?_⟩
  · rw [pageStored, dirtyMask_setDirty, if_pos rfl]
  · rw [pageStored, ramByte_setDirty, ramByte_ramWrite, if_pos (by omega), Nat.add_sub_cancel_left,
      List.getElem?_eq_getElem (by omega), Option.getD_some]

theorem carrierWrite_near (hb : NearPage s b) (hacc : dstAccepts s q b (caEpoch d) = true) (hlen : bs.length = 65536) :
    carrierWrite q d b bs s = (pageStored b bs s, none) := by
  have hw := hb.devWrite (k := 0) hacc (bs := bs) (by omega) (by omega)
  rw [Nat.add_zero] at hw
  have ht : (tierOf s b != .t3) = true := bne_iff_ne.2 hb.tierOf_ne_t3
  simp only [carrierWrite, if_neg hb.tierOf_ne_t3, hw, hacc, ht, Bool.and_self, if_true]
  rfl

theorem pageCopy_near (flips : Flips) (ha : NearPage s a) (hb : NearPage s b) (hacc : dstAccepts s q b (caEpoch d) = true) :
    pageCopy q d a b flips s = (pageStored b (ramRead s a 65536) s, none) := by
  simp only [pageCopy, ha.tierOf_ne_t3, decide_false, Bool.false_and, Bool.false_eq_true, if_false, ha.devRead]
  exact carrierWrite_near hb hacc (length_ramRead ..)

/-- Place j of a number's bytes. -/
theorem getElem?_bytesOf {n j : Nat} (hj : j < n) (v : Nat) : (bytesOf n v)[j]? = some (BitVec.ofNat 8 (v / 256 ^ j)) := by
  induction n generalizing j v with
  | zero => omega
  | succ n ih =>
    rw [bytesOf]
    cases j with
    | zero => simp
    | succ j => rw [List.getElem?_cons_succ, ih (by omega), Nat.div_div_eq_div_mul, pow_succ']

theorem fillBytes_eq (w : Nat) : fillBytes w = (List.replicate 16384 w).flatMap (bytesOf 4) := by
  rw [fillBytes, List.flatMap_def, List.map_replicate]
  rfl

theorem fillBytes_length (w : Nat) : (fillBytes w).length = 65536 := by
  rw [fillBytes_eq, List.length_flatMap, List.map_replicate, bytesOf_length, List.sum_replicate]
  rfl

theorem getElem?_fillBytes {k : Nat} (hk : k < 65536) (w : Nat) :
    (fillBytes w)[k]? = some (BitVec.ofNat 8 (w / 2 ^ (8 * (k % 4)))) := by
  have hpos : 4 * (k / 4) + k % 4 = k := Nat.div_add_mod k 4
  have hat := getElem?_flatMap_of_length (bytesOf_length 4) (List.replicate 16384 w) (k / 4) (Nat.mod_lt k (by omega))
  rw [hpos, List.getElem?_replicate_of_lt (by omega), Option.bind_some, getElem?_bytesOf (Nat.mod_lt k (by omega))] at hat
  rw [fillBytes_eq, hat, pow_mul]
  rfl

/-! ### Sub-pages written back (R219, R221) -/

/-- The sub-pages `is` of the page at a, where dirty, were copied to the page at b, and their bits cleared. -/
structure WrittenBack (s t : State) (a b : Nat) (is : List Nat) : Prop extends WritesPage s t b where
  mask : ∀ i < 16, (dirtyMask t a).getLsbD i = ((dirtyMask s a).getLsbD i && decide (i ∉ is))
  bytes : ∀ k < 65536, ramByte t (b + k) =
    if (dirtyMask s a).getLsbD (k / 4096) = true ∧ k / 4096 ∈ is then ramByte s (a + k) else ramByte s (b + k)

theorem WrittenBack.nil (s : State) (a b : Nat) : WrittenBack s s a b [] where
  toWritesPage := .refl s b
  mask := by simp
  bytes := by simp

/-- A clean sub-page stays where it is. -/
theorem WrittenBack.cons_clean {t : State} {i : Nat} {is : List Nat} (h : WrittenBack s t a b is)
    (hi : (dirtyMask s a).getLsbD i = false) : WrittenBack s t a b (i :: is) where
  toWritesPage := h.toWritesPage
  mask j hj := by
    rw [h.mask j hj]
    by_cases hji : j = i
    · rw [hji, hi, Bool.false_and, Bool.false_and]
    · simp [hji]
  bytes k hk := by
    rw [h.bytes k hk]
    by_cases hki : k / 4096 = i
    · simp [hki, hi]
    · simp [hki]

/-- A sub-page written back: its bit is cleared as it begins to be read, and its bytes go to the destination. -/
def subPageStored (a b i : Nat) (s : State) : State :=
  let s1 := setDirty a (dirtyMask s a &&& ~~~(BitVec.ofNat 16 (2 ^ i))) s
  ramWrite (b + 4096 * i) (ramRead s1 (a + 4096 * i) 4096) s1

theorem subPageStored_safe (i : Nat) (hs : Safe s) : Safe (subPageStored a b i s) := ramWrite_safe _ _ (setDirty_safe _ hs)

/-- Two pages of T1 and T2 that differ do not meet. -/
theorem pages_apart (ha : a % 65536 = 0) (hb : b % 65536 = 0) (hab : a ≠ b) : a + 65536 ≤ b ∨ b + 65536 ≤ a := by omega

theorem subPageStored_mask {i j : Nat} (ha : a % 65536 = 0) (hb : b % 65536 = 0) (hab : a ≠ b) (hi : i < 16)
    (hj : j < 16) : (dirtyMask (subPageStored a b i s) a).getLsbD j = ((dirtyMask s a).getLsbD j && decide (j ≠ i)) := by
  rw [subPageStored, dirtyMask_ramWrite_outside, dirtyMask_setDirty, if_pos rfl,
    getLsbD_and_not_single _ hj]
  · have := pages_apart ha hb hab
    rw [length_ramRead]
    intro y _ _
    omega

theorem subPageStored_byte {i : Nat} (hs : Safe s) (k : Nat) :
    ramByte (subPageStored a b i s) (b + k) = if k / 4096 = i then ramByte s (a + k) else ramByte s (b + k) := by
  rw [subPageStored, ramByte_ramWrite, length_ramRead]
  by_cases hki : k / 4096 = i
  · have hat : b + k - (b + 4096 * i) = k - 4096 * i := by omega
    have hsrc : a + 4096 * i + (k - 4096 * i) = a + k := by omega
    rw [if_pos (by omega), if_pos hki, hat, ramRead_getElem? (setDirty_safe _ hs) (by omega), Option.getD_some, hsrc,
      ramByte_setDirty]
  · rw [if_neg (by omega), if_neg hki, ramByte_setDirty]

theorem writesPage_subPageStored {i : Nat} (hi : i < 16) : WritesPage s (subPageStored a b i s) b :=
  (writesPage_setDirty ..).trans (writesPage_ramWrite (by rw [length_ramRead]; omega))

/-- A dirty sub-page goes first, and the others of the list behind it. -/
theorem WrittenBack.cons_dirty {t : State} {i : Nat} {is : List Nat} (hs : Safe s) (ha : a % 65536 = 0) (hb : b % 65536 = 0)
    (hab : a ≠ b) (hi : i < 16) (hdirty : (dirtyMask s a).getLsbD i = true) (h : WrittenBack (subPageStored a b i s) t a b is) :
    WrittenBack s t a b (i :: is) where
  toWritesPage := (writesPage_subPageStored hi).trans h.toWritesPage
  mask j hj := by
    rw [h.mask j hj, subPageStored_mask ha hb hab hi hj]
    by_cases hji : j = i <;> simp [hji]
  bytes k hk := by
    have hsrc : ramByte (subPageStored a b i s) (a + k) = ramByte s (a + k) := by
      have := pages_apart ha hb hab
      exact (writesPage_subPageStored hi).outside _ (by omega)
    rw [h.bytes k hk, subPageStored_mask ha hb hab hi (by omega), subPageStored_byte hs k, hsrc]
    by_cases hki : k / 4096 = i
    · simp [hki, hdirty]
    · simp [hki]

/-- A write-back between two pages copies the dirty ones of the sub-pages it is given. -/
theorem pageWriteback_near (is : List Nat) (his : ∀ i ∈ is, i < 16) (hs : Safe s) (ha : NearPage s a) (hb : NearPage s b)
    (hab : a ≠ b) (hacc : dstAccepts s q b (caEpoch d) = true) :
    ∃ t, pageWriteback q d a b s is = (t, none) ∧ WrittenBack s t a b is := by
  induction is generalizing s with
  | nil => exact ⟨s, rfl, .nil s a b⟩
  | cons i is ih =>
    have hi : i < 16 := his i List.mem_cons_self
    have his' : ∀ j ∈ is, j < 16 := fun j hj => his j (List.mem_cons_of_mem i hj)
    rw [pageWriteback]
    split
    · next hdirty =>
      obtain ⟨t, hrun, ht⟩ := ih his' (s := subPageStored a b i s) (subPageStored_safe i hs) ha hb hacc
      refine ⟨t, ?_, .cons_dirty hs ha.1 hb.1 hab hi hdirty ht⟩
      set s1 := setDirty a (dirtyMask s a &&& ~~~(BitVec.ofNat 16 (2 ^ i))) s with hs1
      have hb1 : NearPage s1 b := hb
      have hw := hb1.devWrite (q := q) (epoch := caEpoch d) (k := 4096 * i) (bs := ramRead s1 (a + 4096 * i) 4096) hacc
        (by rw [length_ramRead]; omega) (by rw [length_ramRead]; omega)
      dsimp only
      rw [if_neg hb.tierOf_ne_t3, hw]
      exact hrun
    · next hclean =>
      obtain ⟨t, hrun, ht⟩ := ih his' hs ha hb hacc
      exact ⟨t, hrun, ht.cons_clean (Bool.eq_false_iff.2 hclean)⟩

/-- After all sixteen the mask is clear, and exactly the dirty sub-pages were copied. -/
theorem WrittenBack.all {t : State} (h : WrittenBack s t a b (List.range 16)) : dirtyMask t a = 0 ∧ ∀ k < 65536,
    ramByte t (b + k) = if (dirtyMask s a).getLsbD (k / 4096) then ramByte s (a + k) else ramByte s (b + k) := by
  refine ⟨BitVec.eq_of_getLsbD_eq fun i hi => ?_, fun k hk => ?_⟩
  · rw [h.mask i hi]
    simp [hi]
  · have hin : k / 4096 ∈ List.range 16 := List.mem_range.2 (by omega)
    simp only [h.bytes k hk, hin, and_true]

end

/-! ### The action on a page (R219, R221) -/

section
variable {s : State} {q : PartIx} {d : BitVec 512} {j : Nat} (flips : Flips)

theorem pageAction_of_copy (hop : caOp d = 0) (hs : Safe s) (ha : NearPage s (caSrc d j)) (hb : NearPage s (caDst d j))
    (hacc : dstAccepts s q (caDst d j) (caEpoch d) = true) : ∃ u, pageAction q d j flips s = (u, none) ∧
      WritesPage s u (caDst d j) ∧ dirtyMask u (caDst d j) = 0 ∧
      ∀ k < 65536, ramByte u (caDst d j + k) = ramByte s (caSrc d j + k) := by
  obtain ⟨hpage, hmask, hbytes⟩ := pageStored_leaves (s := s) (b := caDst d j) (length_ramRead s (caSrc d j) 65536)
  refine ⟨_, ?_, hpage, hmask, fun k hk => Option.some.inj ((hbytes k hk).trans (ramRead_getElem? hs hk))⟩
  simp only [pageAction, hop]
  exact pageCopy_near flips ha hb hacc

theorem pageAction_of_fill (hop : caOp d = 2) (hb : NearPage s (caDst d j))
    (hacc : dstAccepts s q (caDst d j) (caEpoch d) = true) : ∃ u, pageAction q d j flips s = (u, none) ∧
      WritesPage s u (caDst d j) ∧ dirtyMask u (caDst d j) = 0 ∧
      ∀ k < 65536, ramByte u (caDst d j + k) = BitVec.ofNat 8 (caPattern d / 2 ^ (8 * (k % 4))) := by
  obtain ⟨hpage, hmask, hbytes⟩ := pageStored_leaves (s := s) (b := caDst d j) (fillBytes_length (caPattern d))
  refine ⟨_, ?_, hpage, hmask, fun k hk => Option.some.inj ((hbytes k hk).trans (getElem?_fillBytes hk _))⟩
  simp only [pageAction, hop]
  exact carrierWrite_near hb hacc (fillBytes_length _)

theorem pageAction_of_writeback (hop : caOp d = 1) (hs : Safe s) (ha : NearPage s (caSrc d j)) (hb : NearPage s (caDst d j))
    (hab : caSrc d j ≠ caDst d j) (hacc : dstAccepts s q (caDst d j) (caEpoch d) = true) :
    ∃ u, pageAction q d j flips s = (u, none) ∧ WritesPage s u (caDst d j) ∧ dirtyMask u (caSrc d j) = 0 ∧
      ∀ k < 65536, ramByte u (caDst d j + k) = if (dirtyMask s (caSrc d j)).getLsbD (k / 4096) then ramByte s (caSrc d j + k)
        else ramByte s (caDst d j + k) := by
  obtain ⟨u, hrun, hu⟩ := pageWriteback_near (q := q) (d := d) (List.range 16) (fun i => List.mem_range.1) hs ha hb hab hacc
  refine ⟨u, ?_, hu.toWritesPage, hu.all⟩
  simp only [pageAction, hop]
  exact hrun

/-- What a page done between T1 and T2 shows, operation by operation. -/
def PageDone (s t : State) (d : BitVec 512) (j : Nat) : Prop :=
  (caOp d = 0 → dirtyMask t (caDst d j) = 0 ∧ ∀ k < 65536, ramByte t (caDst d j + k) = ramByte s (caSrc d j + k)) ∧
  (caOp d = 2 → dirtyMask t (caDst d j) = 0 ∧
    ∀ k < 65536, ramByte t (caDst d j + k) = BitVec.ofNat 8 (caPattern d / 2 ^ (8 * (k % 4)))) ∧
  (caOp d = 1 → dirtyMask t (caSrc d j) = 0 ∧ ∀ k < 65536, ramByte t (caDst d j + k) =
    if (dirtyMask s (caSrc d j)).getLsbD (k / 4096) then ramByte s (caSrc d j + k) else ramByte s (caDst d j + k))

theorem PageDone.of_mem {t u : State} (h : PageDone s u d j) (hmem : t.mem = u.mem) : PageDone s t d j := by
  simpa only [PageDone, dirtyMask_congr hmem, ramByte_congr hmem] using h

theorem pageAction_near (hop : caOp d ≤ 2) (hs : Safe s) (hb : NearPage s (caDst d j))
    (hsrc : caOp d ≤ 1 → NearPage s (caSrc d j) ∧ caSrc d j ≠ caDst d j)
    (hacc : dstAccepts s q (caDst d j) (caEpoch d) = true) :
    ∃ u, pageAction q d j flips s = (u, none) ∧ WritesPage s u (caDst d j) ∧ PageDone s u d j := by
  obtain hop | hop | hop : caOp d = 0 ∨ caOp d = 1 ∨ caOp d = 2 := by omega
  · obtain ⟨u, hact, hpage, hdone⟩ := pageAction_of_copy flips hop hs (hsrc (by omega)).1 hb hacc
    exact ⟨u, hact, hpage, fun _ => hdone, fun h => by omega, fun h => by omega⟩
  · obtain ⟨ha, hab⟩ := hsrc (by omega)
    obtain ⟨u, hact, hpage, hdone⟩ := pageAction_of_writeback flips hop hs ha hb hab hacc
    exact ⟨u, hact, hpage, fun h => by omega, fun h => by omega, fun _ => hdone⟩
  · obtain ⟨u, hact, hpage, hdone⟩ := pageAction_of_fill flips hop hb hacc
    exact ⟨u, hact, hpage, fun h => by omega, fun _ => hdone, fun h => by omega⟩

end

/-! ### A page is done (R221) -/

section
variable {s s1 : State} {q : PartIx} {n j : Nat} {o : CarrierOp} {flips : Flips}
variable (h : (s.part q).carrier[n]? = some o) (hstart : o.started = true) (hok : o.status = 0) (hj : j < caPages o.desc)
  (hnew : o.pages.contains j = false) (hready : pageReady s q o.desc j = true)
include h hstart hok hj hnew hready

theorem exec_carrierPageComplete_of_action (hact : pageAction q o.desc j flips s = (s1, none)) :
    exec (.carrierPageComplete q n j flips) s = .next (onCarrier q n (fun x => { x with pages := j :: x.pages })
      (cisPerfAdd (pageCis s o.desc j) (some q) 0x0A 1 s1)) := by
  have hj' : ¬ caPages o.desc ≤ j := not_le.2 hj
  change execCarrierPageComplete q n j flips s = _
  simp only [execCarrierPageComplete, h, hstart, hok, hj', hnew, hready, hact, ne_eq, not_true_eq_false, decide_false,
    Bool.not_true, Bool.or_self, Bool.false_eq_true, if_false]

/-- The memories are those that the action leaves, and the page joins those done. -/
theorem carrierPageComplete_of_writesPage {b : Nat} (hact : pageAction q o.desc j flips s = (s1, none))
    (hpage : WritesPage s s1 b) : ∃ t, exec (.carrierPageComplete q n j flips) s = .next t ∧ t.mem = s1.mem ∧
      (t.part q).carrier[n]? = some { o with pages := j :: o.pages } ∧ t.mem.t3 = s.mem.t3 ∧ t.plots = s.plots ∧
      ∀ x, x < b ∨ b + 65536 ≤ x → ramByte t x = ramByte s x := by
  obtain ⟨hplots, -, hparts, hmem, -⟩ := cisPerfAdd_leaves (pageCis s o.desc j) (some q) 0x0A 1 s1
  set u := cisPerfAdd (pageCis s o.desc j) (some q) 0x0A 1 s1
  have hu : (u.part q).carrier[n]? = some o :=
    (congrArg (fun v : Vector Part 16 => v[q].carrier[n]?) (hparts.trans hpage.parts)).trans h
  refine ⟨_, exec_carrierPageComplete_of_action h hstart hok hj hnew hready hact, hmem,
    onCarrier_carrier_self _ hu, (congrArg Memories.t3 hmem).trans hpage.t3, hplots.trans hpage.plots, fun x hx => ?_⟩
  exact (ramByte_congr (t := u) hmem x).trans (hpage.outside x hx)

end

/-- Settles O25: postings, the start, the three page actions and the record, each by its law above. -/
theorem carriersMovePages : Obligations.CarriersMovePages := by
  refine ⟨fun s d => ?_, fun s q n o h hs hh hroom hfirst hfence => ?_, fun s q n j o flips h hs hok hj hnew hready => ?_,
    fun s q n o => exec_carrierComplete_of_done⟩
  · have hop := caOp_eq d
    refine ⟨fun h => ?_, fun h => ?_, fun h => ?_, fun h => ?_⟩ <;> rw [h] at hop
    · exact congrArg Outcome.next (if_pos (by simp [hop]))
    · exact congrArg Outcome.next (if_pos hop)
    · exact congrArg Outcome.next (if_pos hop)
    · exact congrArg Outcome.next (if_pos hop)
  · exact ⟨_, exec_carrierDescriptorStart_of_first h hs hh hroom hfirst hfence, rfl, onCarrier_carrier_self _ h,
      fun k hk => onCarrier_carrier_ne _ h hk⟩
  · refine ⟨fun s1 => exec_carrierPageComplete_of_action h hs hok hj hnew hready, fun hsafe hb hacc hsrc hop => ?_⟩
    obtain ⟨u, hact, hpage, hdone⟩ := pageAction_near flips hop hsafe hb hsrc hacc
    obtain ⟨t, hex, hmem, hcar, ht3, hplots, hout⟩ := carrierPageComplete_of_writesPage h hs hok hj hnew hready hact hpage
    exact ⟨t, hex, hcar, ht3, hplots, hout, hdone.of_mem hmem⟩

end Sys2Proof.Machine
end

section
/-! LPDDR sectors: codewords written, read and scrubbed (R249 to R252). -/

namespace Sys2Proof.Machine

open Host

/-! ### Chunks -/

/-- Fuel beyond the length of a list makes no chunk. -/
theorem chunksFuel_eq {α : Type} {n : Nat} (hn : 0 < n) {f g : Nat} {l : List α} (hf : l.length ≤ f) (hg : l.length ≤ g) :
    chunksFuel n f l = chunksFuel n g l := by
  induction f generalizing g l with
  | zero =>
    obtain rfl := List.eq_nil_of_length_eq_zero (Nat.le_zero.1 hf)
    cases g <;> rfl
  | succ f ih =>
    cases g with
    | zero =>
      obtain rfl := List.eq_nil_of_length_eq_zero (Nat.le_zero.1 hg)
      rfl
    | succ g =>
      have hdrop : (l.drop n).length ≤ f ∧ (l.drop n).length ≤ g := by rw [List.length_drop]; omega
      rw [chunksFuel, chunksFuel, ih hdrop.1 hdrop.2]

theorem chunksOf_of_ne_nil {α : Type} {n : Nat} (hn : 0 < n) {l : List α} (hl : l ≠ []) :
    chunksOf n l = l.take n :: chunksOf n (l.drop n) := by
  obtain ⟨x, l, rfl⟩ := List.exists_cons_of_ne_nil hl
  have hdrop : ((x :: l).drop n).length ≤ l.length := by rw [List.length_drop, List.length_cons]; omega
  rw [chunksOf, chunksOf, List.length_cons, chunksFuel, chunksFuel_eq hn hdrop le_rfl]
  rfl

/-! ### One codeword stored (R250) -/

section
variable {m : Memories} {sector j tau : Nat} {d : List Byte}

theorem cwData_eq (hm : Memory.wf m = true) (sector j : Nat) :
    cwData m sector j = (List.range 64).map fun i => tabGet 0 m.t3 (sector * 256 + 64 * j + i) :=
  tabRead_eq _ _ ((Memory.wf_iff m).1 hm).2.1

theorem cwStore_t3 (x : Nat) : tabGet 0 (cwStore sector j tau d m).t3 x =
    if sector * 256 + 64 * j ≤ x ∧ x < sector * 256 + 64 * j + d.length then (d[x - (sector * 256 + 64 * j)]?).getD 0
    else tabGet 0 m.t3 x := tabGet_write ..

/-- A codeword of a sector lies within the sector. -/
theorem cwStore_t3_outside (hj : j < 4) (hd : d.length = 64) {x : Nat} (hx : x < 256 * sector ∨ 256 * sector + 256 ≤ x) :
    tabGet 0 (cwStore sector j tau d m).t3 x = tabGet 0 m.t3 x := by
  rw [cwStore_t3, if_neg (by omega)]

theorem cwData_cwStore_self (hm : Memory.wf m = true) (hd : d.length = 64) :
    cwData (cwStore sector j tau d m) sector j = d := by
  rw [cwData_eq (cwStore_wf _ _ _ _ _ hm)]
  refine List.ext_getElem (by simp [hd]) fun i _ hi => ?_
  rw [List.getElem_map, List.getElem_range, cwStore_t3, if_pos (by omega), Nat.add_sub_cancel_left, List.getElem?_eq_getElem hi,
    Option.getD_some]

theorem cwData_cwStore_ne {k : Nat} (hm : Memory.wf m = true) (hd : d.length = 64) (hk : k ≠ j) :
    cwData (cwStore sector j tau d m) sector k = cwData m sector k := by
  rw [cwData_eq (cwStore_wf _ _ _ _ _ hm), cwData_eq hm]
  refine List.map_congr_left fun i hi => ?_
  have := List.mem_range.1 hi
  rw [cwStore_t3, if_neg (by omega)]

end

/-! ### Codewords stored one after another (R250, R251) -/

/-- From `m` to `m'` the codewords `js` of a sector took the chunks of `data`: no other codeword of it, no byte of another sector
and none of T0 to T2 changed, and with a codeword named the sector is neither lost nor waits for a check-only correction. -/
structure CwsStored (sector : Nat) (js : List Nat) (data : List Byte) (m m' : Memories) : Prop where
  ram : m'.ram = m.ram
  named : ∀ i j, js[i]? = some j → cwData m' sector j = (data.drop (64 * i)).take 64
  unnamed : ∀ k, k ∉ js → cwData m' sector k = cwData m sector k
  outside : ∀ x, x < 256 * sector ∨ 256 * sector + 256 ≤ x → tabGet 0 m'.t3 x = tabGet 0 m.t3 x
  lost : ∀ k ∈ m'.lost, k ∈ m.lost ∧ (js ≠ [] → k ≠ sector)
  pendingChk : ∀ k ∈ m'.pendingChk, k ∈ m.pendingChk ∧ (js ≠ [] → k ≠ sector)

theorem CwsStored.nil (sector : Nat) (data : List Byte) (m : Memories) : CwsStored sector [] data m m :=
  ⟨rfl, fun i j h => by simp at h, fun _ _ => rfl, fun _ _ => rfl, fun _ h => ⟨h, by simp⟩, fun _ h => ⟨h, by simp⟩⟩

/-- The first codeword takes the first chunk; none of the others touches it again. -/
theorem CwsStored.cons {sector j tau : Nat} {js : List Nat} {data : List Byte} {m m' : Memories} (hm : Memory.wf m = true)
    (hj : j < 4) (hnew : j ∉ js) (hlen : 64 ≤ data.length)
    (h : CwsStored sector js (data.drop 64) (cwStore sector j tau (data.take 64) m) m') :
    CwsStored sector (j :: js) data m m' := by
  have htake : (data.take 64).length = 64 := List.length_take_of_le hlen
  refine ⟨h.ram, fun i k hk => ?_, fun k hk => ?_, fun x hx => ?_, fun k hk => ?_, fun k hk => ?_⟩
  · cases i with
    | zero =>
      obtain rfl : j = k := by simpa using hk
      rw [h.unnamed j hnew, cwData_cwStore_self hm htake, Nat.mul_zero, List.drop_zero]
    | succ i => rw [h.named i k (by simpa using hk), List.drop_drop, Nat.mul_succ, Nat.add_comm]
  · obtain ⟨hkj, hkjs⟩ := not_or.1 (mt List.mem_cons.2 hk)
    rw [h.unnamed k hkjs, cwData_cwStore_ne hm htake hkj]
  · rw [h.outside x hx, cwStore_t3_outside hj htake hx]
  · obtain ⟨hmem, hne⟩ := List.mem_filter.1 (h.lost k hk).1
    exact ⟨hmem, fun _ => of_decide_eq_true hne⟩
  · obtain ⟨hmem, hne⟩ := List.mem_filter.1 (h.pendingChk k hk).1
    exact ⟨hmem, fun _ => of_decide_eq_true hne⟩

theorem cwStoreAll_cons {sector tau j : Nat} {js : List Nat} {data : List Byte} (m : Memories) (h : data ≠ []) :
    cwStoreAll sector tau data (j :: js) m = cwStoreAll sector tau (data.drop 64) js (cwStore sector j tau (data.take 64) m) := by
  rw [cwStoreAll, chunksOf_of_ne_nil (by decide) h, List.zip_cons_cons, List.foldl_cons, cwStoreAll]

theorem cwsStored_cwStoreAll {sector tau : Nat} {js : List Nat} {data : List Byte} {m : Memories} (hm : Memory.wf m = true)
    (hjs : ∀ j ∈ js, j < 4) (hnd : js.Nodup) (hlen : data.length = 64 * js.length) :
    CwsStored sector js data m (cwStoreAll sector tau data js m) := by
  induction js generalizing data m with
  | nil => exact CwsStored.nil sector data m
  | cons j js ih =>
    obtain ⟨hnew, hnd⟩ := List.nodup_cons.1 hnd
    rw [List.length_cons] at hlen
    rw [cwStoreAll_cons m (List.ne_nil_of_length_pos (by omega))]
    exact CwsStored.cons hm (hjs j List.mem_cons_self) hnew (by omega) (ih (cwStore_wf _ _ _ _ _ hm)
      (fun k hk => hjs k (List.mem_cons_of_mem _ hk)) hnd (by rw [List.length_drop]; omega))

/-- The check bytes zeroed behind a Bale form are no data (R255). -/
theorem CwsStored.clearTail {sector : Nat} {js : List Nat} {data : List Byte} {m m' : Memories}
    (h : CwsStored sector js data m m') (rate : Nat) : CwsStored sector js data m (clearTail sector rate m') :=
  ⟨h.ram, h.named, h.unnamed, h.outside, h.lost, h.pendingChk⟩

/-! ### LPDDR_WRITE -/

theorem lt_of_mem_cwsOf {cws : BitVec 4} {j : Nat} (h : j ∈ cwsOf cws) : j < 4 :=
  List.mem_range.1 (List.mem_filter.1 h).1

theorem cwsOf_nodup (cws : BitVec 4) : (cwsOf cws).Nodup := List.nodup_range.filter _

theorem cwsOf_ne_nil {cws : BitVec 4} (h : cws ≠ 0) : cwsOf cws ≠ [] := by
  revert cws
  decide

section
variable {s : State} {sector : Nat} (hs : sector < 256 * frameCount s)
include hs

theorem exec_lpddrWrite_of_whole (tau : BitVec 2) {cws : BitVec 4} {data : List Byte} (hlen : data.length = 64 * (cwsOf cws).length) :
    exec (.lpddrWrite sector tau cws data) s = .next ((cisPerfAdd (frameCis (sector / 256)) none 0x03 1 s).onMem fun m =>
      clearTail sector tau.toNat (cwStoreAll sector tau.toNat data (cwsOf cws) m)) := by
  change execLpddrWrite sector tau cws data s = _
  simp only [execLpddrWrite, sectorCount, if_neg (Nat.not_le.2 hs), hlen, ne_eq, not_true_eq_false, if_false]

theorem lpddrWrite_stores (tau : BitVec 2) {cws : BitVec 4} {data : List Byte} (hlen : data.length = 64 * (cwsOf cws).length)
    (hsafe : Safe s) : ∃ t, exec (.lpddrWrite sector tau cws data) s = .next t ∧
      CwsStored sector (cwsOf cws) data s.mem t.mem := by
  have hmem := (cisPerfAdd_leaves (frameCis (sector / 256)) none 0x03 1 s).2.2.2.1
  refine ⟨_, exec_lpddrWrite_of_whole hs tau hlen, ?_⟩
  rw [State.onMem_mem, hmem]
  exact (cwsStored_cwStoreAll hsafe (fun _ => lt_of_mem_cwsOf) (cwsOf_nodup cws) hlen).clearTail _

/-! ### LPDDR_READ -/

theorem exec_lpddrRead (tau : BitVec 2) (cws : BitVec 4) (flips : Flips) :
    exec (.lpddrRead sector tau cws flips) s = .next (sectorRead sector tau.toNat flips s (cwsOf cws)).1 :=
  if_neg (Nat.not_le.2 hs)

end

theorem sectorRead_of_clean {s : State} {sector tau : Nat} {flips : Flips} {js : List Nat}
    (h : ∀ j ∈ js, ∃ d, cwRead s sector j tau flips = .clean d) : (sectorRead sector tau flips s js).1 = s := by
  induction js with
  | nil => rfl
  | cons j js ih =>
    obtain ⟨d, hd⟩ := h j List.mem_cons_self
    have hrest := ih fun k hk => h k (List.mem_cons_of_mem _ hk)
    simp only [sectorRead, cwReadFx, hd]
    split <;> rename_i heq <;> rw [heq] at hrest <;> exact hrest

theorem sectorRead_singleton_of_corrected {s : State} {sector j tau : Nat} {flips : Flips} {d : List Byte}
    (h : cwRead s sector j tau flips = .corrected d) :
    (sectorRead sector tau flips s [j]).1 = (countCe sector s).onMem (cwStore sector j tau d) := by
  simp only [sectorRead, cwReadFx, h]

/-- A corrected symbol is counted in the cistern of the sector and on the channel that serves it (R257). -/
theorem countCe_cistern (sector : Nat) (s : State) :
    ((countCe sector s).cistern (frameCis (sector / 256))).mem.ce =
      satAdd (s.cistern (frameCis (sector / 256))).mem.ce 1 ∧
    (((countCe sector s).cistern (frameCis (sector / 256))).chans[servingChan s sector]).ce =
      satAdd ((s.cistern (frameCis (sector / 256))).chans[servingChan s sector]).ce 1 := by
  rw [countCe, State.onCis_cistern]
  simp

theorem countCe_mem (sector : Nat) (s : State) : (countCe sector s).mem = s.mem := rfl

/-! ### SCRUB_SECTOR (R252) -/

theorem foldl_scrubCw_of_clean {sector rate : Nat} {l : List (Nat × CwOut)} (s : State) (h : ∀ jr ∈ l, ∃ d, jr.2 = .clean d) :
    l.foldl (scrubCw sector rate) s = s := by
  induction l with
  | nil => rfl
  | cons jr l ih =>
    obtain ⟨d, hd⟩ := h jr List.mem_cons_self
    have hjr : scrubCw sector rate s jr = s := by simp only [scrubCw, hd]
    rw [List.foldl_cons, hjr, ih fun k hk => h k (List.mem_cons_of_mem _ hk)]

theorem scrubOne_of_clean {s : State} {sector : Nat} {flips : Flips} {rate : Nat} {rs : List CwOut}
    (hr : scrubReadAll s sector flips = some (rate, rs)) (h : ∀ r ∈ rs, ∃ d, r = .clean d) :
    scrubOne sector flips s = s.onMem fun m => { m with pendingChk := m.pendingChk.filter (· ≠ sector) } := by
  have hzip : ∀ jr ∈ (List.range 4).zip rs, ∃ d, jr.2 = .clean d := fun jr hjr => h jr.2 (List.of_mem_zip hjr).2
  have hnone : rs.contains .uncorr = false := by
    refine Bool.eq_false_iff.2 fun hmem => ?_
    obtain ⟨d, hd⟩ := h _ (List.contains_iff_mem.1 hmem)
    cases hd
  simp only [scrubOne, hr, foldl_scrubCw_of_clean s hzip, hnone, Bool.false_eq_true, if_false]

theorem scrubPassEnd_mem (sector : Nat) (s : State) : (scrubPassEnd sector s).mem = s.mem := by
  unfold scrubPassEnd
  split <;> rfl

/-- The last two sectors of the module end the passes of their cisterns. -/
theorem scrubPassEnd_scrubPass (sector : Nat) (s : State) (c : CisIx) : ((scrubPassEnd sector s).cistern c).mem.scrubPass =
    if (256 * frameCount s ≤ sector + 512 ∧ sector % 256 = 255) ∧ c.val = sector / 256 % 2 then (s.cistern c).mem.scrubPass + 1
    else (s.cistern c).mem.scrubPass := by
  have hc : c = frameCis (sector / 256) ↔ c.val = sector / 256 % 2 := Fin.ext_iff
  by_cases hend : 256 * frameCount s ≤ sector + 512 ∧ sector % 256 = 255
  · rw [scrubPassEnd, sectorCount, if_pos (by simpa using hend), State.onCis_cistern_if]
    by_cases h : c = frameCis (sector / 256)
    · rw [if_pos h, if_pos ⟨hend, hc.1 h⟩, ← h]
    · rw [if_neg h, if_neg fun k => h (hc.2 k.2)]
  · rw [scrubPassEnd, sectorCount, if_neg (by simpa using hend), if_neg fun k => hend k.1]

theorem exec_scrubSector_of_clean {s : State} {sector : Nat} {flips : Flips} {rate : Nat} {rs : List CwOut}
    (hs : sector < 256 * frameCount s) (hh : holdActive s = false) (hr : scrubReadAll s sector flips = some (rate, rs))
    (h : ∀ r ∈ rs, ∃ d, r = .clean d) : exec (.scrubSector sector flips) s = .next (scrubPassEnd sector
      (s.onMem fun m => { m with pendingChk := m.pendingChk.filter (· ≠ sector) })) := by
  change execScrubSector sector flips s = _
  simp only [execScrubSector, sectorCount, if_neg (Nat.not_le.2 hs), hh, scrubOne_of_clean hr h, Bool.false_eq_true, if_false]

/-- Settles O29: the write stores codeword after codeword, the read and the scrub by the outcome of each codeword. -/
theorem sectorsReadWriteScrub : Obligations.SectorsReadWriteScrub := by
  refine fun s sector hs => ⟨fun tau cws data hlen hsafe => ?_, fun tau cws flips => ⟨fun h => ?_, fun j d hj hd hlen hsafe => ?_⟩,
    fun flips rate rs hh hr h => ?_⟩
  · obtain ⟨t, hex, hst⟩ := lpddrWrite_stores hs tau hlen hsafe
    exact ⟨t, hex, hst.ram, hst.named, hst.outside, fun hne =>
      ⟨fun hmem => (hst.lost _ hmem).2 (cwsOf_ne_nil hne) rfl, fun hmem => (hst.pendingChk _ hmem).2 (cwsOf_ne_nil hne) rfl⟩⟩
  · rw [exec_lpddrRead hs, sectorRead_of_clean h]
  · refine ⟨_, exec_lpddrRead hs tau cws flips, ?_⟩
    rw [hj, sectorRead_singleton_of_corrected hd, State.onMem_mem, State.onMem_cistern, countCe_mem]
    exact ⟨cwData_cwStore_self hsafe hlen, countCe_cistern sector s⟩
  · refine ⟨_, exec_scrubSector_of_clean hs hh hr h, scrubPassEnd_mem .., fun c => scrubPassEnd_scrubPass ..⟩

end Sys2Proof.Machine
end

section
/-! LPDDR channels: refresh, retraining, and the pruning of a channel with its relocation (R243, R473 to R478). -/

namespace Sys2Proof.Machine

open Host

/-! ### Values of a table changed -/

section
variable {α : Type} {d : α}

theorem tabGet_cons (e : Nat × α) (t : Tab α) (k : Nat) : tabGet d (e :: t) k = if k = e.1 then e.2 else tabGet d t k := by
  rw [tabGet, lookup_front]
  split <;> rfl

variable [DecidableEq α] {f : Nat × α → α}

theorem tabMap_cons (e : Nat × α) (t : Tab α) :
    tabMap d f (e :: t) = if f e = d then tabMap d f t else (e.1, f e) :: tabMap d f t := by
  split <;> simp [tabMap, *]

/-- Where the default is left as it is, the value at every key is the changed one. -/
theorem tabGet_map {t : Tab α} (ht : tabWf d t = true) {k : Nat} (hd : f (k, d) = d) :
    tabGet d (tabMap d f t) k = f (k, tabGet d t k) := by
  have hsorted := ((tabWf_iff t).1 ht).1
  clear ht
  induction t with
  | nil => exact hd.symm
  | cons e t ih =>
    obtain ⟨hlt, htail⟩ := List.pairwise_cons.1 hsorted
    have hrest := ih htail
    rw [tabMap_cons, tabGet_cons e t]
    by_cases hk : k = e.1
    · have habsent : tabGet d t k = d := by
        rw [tabGet, List.lookup_eq_none_iff.2 fun x hx => by simpa [hk] using (hlt x hx).ne, Option.getD_none]
      rw [habsent, hd] at hrest
      rw [if_pos hk]
      split
      · rw [hrest, hk]
        exact Eq.symm ‹f e = d›
      · rw [tabGet_cons, if_pos hk, hk]
    · rw [if_neg hk]
      split
      · exact hrest
      · rw [tabGet_cons, if_neg hk, hrest]

end

/-! ### What a change of one cistern, and a fold of changes, keep -/

/-- What a change of a cistern keeps of it stands in every cistern. -/
theorem onCis_keeps {β : Type} (g : Cistern → β) {f : Cistern → Cistern} (hf : ∀ x, g (f x) = g x) (s : State) (i k : CisIx) :
    g ((s.onCis i f).cistern k) = g (s.cistern k) := by
  rw [State.onCis_cistern_if]
  split
  · subst_vars
    exact hf _
  · rfl

/-- A fold keeps what each of its steps keeps. -/
theorem foldl_keeps {α β : Type} (g : State → β) {f : State → α → State} (hf : ∀ u a, g (f u a) = g u) (l : List α) (s : State) :
    g (l.foldl f s) = g s := by
  induction l generalizing s with
  | nil => rfl
  | cons a l ih => rw [List.foldl_cons, ih, hf]

/-! ### Refresh and training (R243) -/

/-- Counting an event in a cistern changes its counters alone. -/
theorem cisPerfAdd_chans (c : CisIx) (q : Option PartIx) (code n : Nat) (s : State) (k : CisIx) :
    ((cisPerfAdd c q code n s).cistern k).chans = (s.cistern k).chans := by
  have hset : ∀ v, ((s.onCis c fun x => { x with perf := v }).cistern k).chans = (s.cistern k).chans := fun v =>
    onCis_keeps Cistern.chans (fun _ => by rfl) s c k
  unfold cisPerfAdd
  split
  · rfl
  · dsimp only
    split
    · unfold raiseDevice raiseEvent
      split <;> exact hset _
    · exact hset _

section
variable (c : CisIx) (ch : Fin 64) (g : Chan → Chan) (s : State)

theorem onChan_chan : ((onChan c ch g s).cistern c).chans[ch] = g ((s.cistern c).chans[ch]) := by
  rw [onChan, State.onCis_cistern]
  simp

theorem onChan_chan_ne {k : Fin 64} (h : k ≠ ch) : ((onChan c ch g s).cistern c).chans[k] = (s.cistern c).chans[k] := by
  have : ch.val ≠ k.val := fun e => h (Fin.ext e.symm)
  rw [onChan, State.onCis_cistern]
  simp [this]

end

theorem bankRefresh_leaves (c : CisIx) (ch : Fin 64) (rank : Fin 2) (bank : Fin 16) (s : State) :
    ∃ t, exec (.bankRefresh c ch rank bank) s = .next t ∧ t.mem = s.mem ∧
      ((t.cistern c).chans[ch]).refreshed = some (rank, bank) ∧
      ∀ k : Fin 64, k ≠ ch → (t.cistern c).chans[k] = (s.cistern c).chans[k] := by
  refine ⟨_, rfl, (cisPerfAdd_leaves ..).2.2.2.1, ?_, fun k hk => ?_⟩
  · rw [cisPerfAdd_chans, onChan_chan]
  · rw [cisPerfAdd_chans, onChan_chan_ne _ _ _ _ hk]

theorem periodicRetrain_leaves (c : CisIx) (failed : BitVec 64) (s : State) :
    ∃ t, exec (.periodicRetrain c failed) s = .next t ∧ t.mem = s.mem ∧
      ∀ k : Fin 64, (t.cistern c).chans[k] = retrained (failed.getLsbD k.val) (s.cistern c).chans[k] := by
  refine ⟨_, rfl, rfl, fun k => ?_⟩
  rw [State.onCis_cistern]
  simp

/-! ### Translation entries changed (R215) -/

section
variable (p : Nat × Word → Bool) (f : Word → Word) (s : State)

theorem remapEntries_mem : (remapEntries p f s).mem =
    { s.mem with xlt := tabMap 0 (fun e => if p e then f e.2 else e.2) s.mem.xlt } := rfl

theorem remapEntries_image : (remapEntries p f s).image = s.image := rfl

theorem remapEntries_chans (c : CisIx) : ((remapEntries p f s).cistern c).chans = (s.cistern c).chans :=
  foldl_keeps (fun u => (u.cistern c).chans) (fun u k => onCis_keeps Cistern.chans (fun _ => by rfl) u k c) [0, 1] _

end

/-! ### A channel crosses its threshold (R476, R477) -/

/-- No frame is mapped where nothing is listed. -/
theorem mapsRange_zero (c : CisIx) (lo hi : Nat) : mapsRange c lo hi 0 = false := by simp [mapsRange]

section
variable {s : State} {c : CisIx} {ch : Fin 64} {cause : PruneCause}

theorem exec_channelPrune_of_crossed (hh : holdActive s = false) (hr : s.mem.relocating = none)
    (hst : ((s.cistern c).chans[ch]).state ≠ 3) (hx : (chanCrossed s c ch cause).isSome = true) :
    exec (.channelPrune c ch cause) s = .next ((remapEntries
      (fun e => mapsRange c (newDonors s c).1 (newDonors s c).2 e.2) (fun w => w ||| 0x4000000) s).onMem fun m =>
        { m with relocating := some (c, ch, cause) }) := by
  obtain ⟨n, hn⟩ := Option.isSome_iff_exists.1 hx
  change execChannelPrune c ch cause s = _
  simp only [execChannelPrune, hh, hr, hst, hn, Option.isSome_none, decide_false, Bool.or_self, Bool.false_eq_true, if_false]

theorem tabGet_moving (hs : Safe s) (lo hi k : Nat) :
    tabGet 0 (tabMap 0 (fun e => if mapsRange c lo hi e.2 then e.2 ||| 0x4000000 else e.2) s.mem.xlt) k =
      if mapsRange c lo hi (tabGet 0 s.mem.xlt k) then tabGet 0 s.mem.xlt k ||| 0x4000000 else tabGet 0 s.mem.xlt k := by
  obtain ⟨-, -, -, -, hxlt, -⟩ := (Memory.wf_iff s.mem).1 hs
  exact tabGet_map hxlt (by simp only [mapsRange_zero, Bool.false_eq_true, if_false])

end

/-! ### The relocation (R477, R478) -/

theorem raiseEvent_keeps (f : FnIx) (v : VecIx) (s : State) :
    (raiseEvent f v s).cis = s.cis ∧ (raiseEvent f v s).image = s.image := by
  unfold raiseEvent
  split <;> exact ⟨rfl, rfl⟩

theorem raiseCapacities_keep (l : List PartIx) (s : State) : (forAll l (fun s q => raiseCapacity q s) s).mem = s.mem ∧
    (forAll l (fun s q => raiseCapacity q s) s).cis = s.cis ∧ (forAll l (fun s q => raiseCapacity q s) s).image = s.image :=
  ⟨foldl_keeps State.mem (fun u q => (raiseEvent_leaves (vfOf q) 5 u).2) l s,
    foldl_keeps State.cis (fun u q => (raiseEvent_keeps (vfOf q) 5 u).1) l s,
    foldl_keeps State.image (fun u q => (raiseEvent_keeps (vfOf q) 5 u).2) l s⟩

theorem moveFrames_keep (moves : List (Nat × Nat)) (s : State) : (moves.foldl moveFrame s).mem.ram = s.mem.ram ∧
    (moves.foldl moveFrame s).image = s.image :=
  ⟨foldl_keeps (·.mem.ram) (fun _ _ => by rfl) moves s, foldl_keeps State.image (fun _ _ => by rfl) moves s⟩

/-- A frame withdrawn is counted in partitions; its entries change, and no byte. -/
theorem withdrawFrame_keeps (s : State) (f : Nat) : (withdrawFrame s f).mem.ram = s.mem.ram ∧
    (withdrawFrame s f).image = s.image := by
  unfold withdrawFrame forAll
  exact ⟨foldl_keeps (·.mem.ram) (fun _ _ => by rfl) _ _, foldl_keeps State.image (fun _ _ => by rfl) _ _⟩

theorem withdrawFrames_keep (fs : List Nat) (s : State) : (fs.foldl withdrawFrame s).mem.ram = s.mem.ram ∧
    (fs.foldl withdrawFrame s).image = s.image :=
  ⟨foldl_keeps (·.mem.ram) (fun u f => (withdrawFrame_keeps u f).1) fs s,
    foldl_keeps State.image (fun u f => (withdrawFrame_keeps u f).2) fs s⟩

theorem relocateLogs_mem (moves : List (Nat × Nat)) (s : State) : (relocateLogs moves s).mem = s.mem := by
  unfold relocateLogs
  exact foldl_keeps State.mem (fun _ _ => by rfl) _ s

theorem queueLog_pendingLog (ty len payload : Nat) (s : State) :
    (queueLog ty len payload s).image.pendingLog.length = s.image.pendingLog.length + 1 := by
  rw [queueLog, List.length_append, List.length_singleton]

theorem relocateLogs_pendingLog (moves : List (Nat × Nat)) (s : State) :
    s.image.pendingLog.length ≤ (relocateLogs moves s).image.pendingLog.length := by
  unfold relocateLogs
  induction moveRuns moves generalizing s with
  | nil => exact le_rfl
  | cons r rs ih => exact ((Nat.le_succ _).trans_eq (queueLog_pendingLog ..).symm).trans (ih _)

/-- A record of a pruning waits for the log. -/
theorem recordPrune_keeps (kind index sub : Nat) (cause : PruneCause) (count returns : Nat) (s : State) :
    (recordPrune kind index sub cause count returns s).cis = s.cis ∧
    (recordPrune kind index sub cause count returns s).image.pendingLog.length = s.image.pendingLog.length + 1 := by
  obtain ⟨hcis, himage⟩ := raiseEvent_keeps pf0Fn 6
    (queueLog 1 11 (prunePayload kind index sub (causeCode cause) count returns) s)
  exact ⟨hcis, by rw [recordPrune, raiseDevice, himage, queueLog_pendingLog]⟩

/-- A channel out of service, with what cannot be read on it lost, as the record of its pruning is written. -/
def outOfService (c : CisIx) (ch : Fin 64) (s : State) : State :=
  (onChan c ch (fun x => { x with state := 3 }) s).onMem fun m =>
    { m with lost := m.lost ++ (unreadableOn s c ch).filter (fun k => !m.lost.contains k), relocating := none }

/-- Behind the channel out of service come a record and the causes of partitions. -/
theorem chanPruned_outOfService (c : CisIx) (ch : Fin 64) (cause : PruneCause) (s : State) :
    (chanPruned c ch cause s).mem = (outOfService c ch s).mem ∧ (chanPruned c ch cause s).cis = (outOfService c ch s).cis ∧
    (chanPruned c ch cause s).image.pendingLog.length = s.image.pendingLog.length + 1 := by
  obtain ⟨hmem, hcis, himage⟩ := raiseCapacities_keep
    ((List.finRange 16).filter fun q => (s.part q).defined && (s.part q).img.t3Gib ≠ 0)
    (recordPrune 1 (64 * c.val + ch.val) 0 cause ((chanCrossed s c ch cause).getD 0) (s.cistern c).chans[ch].returns
      (outOfService c ch s))
  obtain ⟨hcis', hlog⟩ := recordPrune_keeps 1 (64 * c.val + ch.val) 0 cause ((chanCrossed s c ch cause).getD 0)
    (s.cistern c).chans[ch].returns (outOfService c ch s)
  exact ⟨hmem.trans (recordPrune_leaves ..).2, hcis.trans hcis', (congrArg (fun x : Image => x.pendingLog.length) himage).trans hlog⟩

/-- The channel is out of service, and its relocation is over. -/
theorem chanPruned_leaves (c : CisIx) (ch : Fin 64) (cause : PruneCause) (s : State) :
    (chanPruned c ch cause s).mem.relocating = none ∧ (chanPruned c ch cause s).mem.ram = s.mem.ram ∧
    (((chanPruned c ch cause s).cistern c).chans[ch]).state = 3 ∧
    (chanPruned c ch cause s).image.pendingLog.length = s.image.pendingLog.length + 1 := by
  obtain ⟨hmem, hcis, hlog⟩ := chanPruned_outOfService c ch cause s
  refine ⟨by rw [hmem]; rfl, by rw [hmem]; rfl, ?_, hlog⟩
  rw [State.cistern, hcis, ← State.cistern, outOfService, State.onMem_cistern, onChan_chan]

section
variable {s : State} {c : CisIx} {ch : Fin 64} {cause : PruneCause}

/-- The state of a relocation as its channel leaves service: the frames of the donor range moved to free ones as far as these
go, the others withdrawn, and the moves recorded. -/
def donorsMoved (s : State) (c : CisIx) : State :=
  let used := usedFrames s c (newDonors s c).1 (newDonors s c).2
  let moves := used.zip (freeFrames s c (newDonors s c).1)
  relocateLogs moves ((used.drop moves.length).foldl withdrawFrame (moves.foldl moveFrame s))

theorem donorsMoved_leaves (s : State) (c : CisIx) : (donorsMoved s c).mem.ram = s.mem.ram ∧
    s.image.pendingLog.length ≤ (donorsMoved s c).image.pendingLog.length := by
  set used := usedFrames s c (newDonors s c).1 (newDonors s c).2
  set moves := used.zip (freeFrames s c (newDonors s c).1)
  obtain ⟨hram, himage⟩ := moveFrames_keep moves s
  obtain ⟨hram', himage'⟩ := withdrawFrames_keep (used.drop moves.length) (moves.foldl moveFrame s)
  refine ⟨(congrArg Memories.ram (relocateLogs_mem ..)).trans (hram'.trans hram), ?_⟩
  exact (congrArg (fun x : Image => x.pendingLog.length) (himage'.trans himage)).symm.le.trans (relocateLogs_pendingLog ..)

theorem exec_relocationComplete_of_unheld (hh : holdActive s = false) (hr : s.mem.relocating = some (c, ch, cause))
    (hd : ∀ f ∈ usedFrames s c (newDonors s c).1 (newDonors s c).2, dirEntry s f = .unheld) :
    exec (.relocationComplete c ch) s = .next (chanPruned c ch cause (donorsMoved s c)) := by
  rcases hp : newDonors s c with ⟨lo, hi⟩
  rw [hp] at hd
  have hnone : ((usedFrames s c lo hi).any fun f => dirEntry s f ≠ .unheld) = false :=
    List.any_eq_false.2 fun f hf => by simp [hd f hf]
  change execRelocationComplete c ch s = _
  simp only [execRelocationComplete, donorsMoved, hp, hr, hh, hnone, ne_eq, not_true_eq_false, decide_false, Bool.or_self,
    Bool.false_eq_true, if_false]

end

/-- Settles O30: each command by its law above. -/
theorem channelsRefreshTrainPrune : Obligations.ChannelsRefreshTrainPrune := by
  refine fun s c => ⟨fun ch rank bank => bankRefresh_leaves c ch rank bank s, fun failed => periodicRetrain_leaves c failed s,
    fun ch cause hh => ⟨fun hr hst hx => ?_, fun hr hd => ?_⟩⟩
  · exact ⟨_, exec_channelPrune_of_crossed hh hr hst hx, rfl, rfl, rfl, by
      rw [State.onMem_cistern, remapEntries_chans],
      fun hs k => tabGet_moving hs _ _ k⟩
  · obtain ⟨hnone, hram, hstate, hlog⟩ := chanPruned_leaves c ch cause (donorsMoved s c)
    obtain ⟨hram', hlog'⟩ := donorsMoved_leaves s c
    exact ⟨_, exec_relocationComplete_of_unheld hh hr hd, hnone, hram.trans hram', hstate, by omega⟩

end Sys2Proof.Machine
end

section
/-! The jobs of a partition as its plan knows them, and what of them the events of queue pairs, plots and cuttings keep. Every
law here is an equality of two views of the state, so that laws chain by `Eq.trans` and pass through folds (R263 to R290). -/

namespace Sys2Proof.Machine

open Host

/-! ### Views of a partition -/

/-- What admission decides on: the jobs through a view `V` of each, ALM_JOBS, F_PLAN, and the cisterns with their epoch tables. -/
structure PlanView (β : Type) where
  jobs : List β
  counts : Vector Word 8
  fPlan : BitVec 5
  cis : Vector Cistern 2

section
variable {β : Type} (V : Job → β) (q : PartIx)

/-- The plan of a partition in a state. -/
def planView (s : State) : PlanView β :=
  { jobs := (s.part q).jobs.map V, counts := (s.part q).counts, fPlan := (s.part q).fPlan, cis := s.cis }

/-- The plan with the memories beside it. -/
def memPlanView (s : State) : Memories × PlanView β := (s.mem, planView V q s)

variable {V q} in
theorem planView_of_memPlanView {s t : State} (h : memPlanView V q t = memPlanView V q s) : planView V q t = planView V q s :=
  congrArg Prod.snd h

end

/-- A list seen through one view as another is through another has, for each job of the other, a job seen like it. -/
theorem exists_mem_of_map_eq {β : Type} {V W : Job → β} {l m : List Job} (h : m.map V = l.map W) {j : Job} (hj : j ∈ l) :
    ∃ k ∈ m, V k = W j := by
  have hmem : W j ∈ m.map V := h ▸ List.mem_map_of_mem hj
  exact List.mem_map.1 hmem

/-- A change that the view does not see. -/
theorem map_updateWhere_of_keeps {β : Type} {V : Job → β} {p : Job → Bool} {f : Job → Job}
    (h : ∀ j, p j = true → V (f j) = V j) (l : List Job) : (updateWhere p f l).map V = l.map V := by
  rw [updateWhere, List.map_map]
  refine List.map_congr_left fun j _ => ?_
  rw [Function.comp_apply]
  split
  · exact h j ‹_›
  · rfl

section
variable {β : Type} (V : Job → β) (q : PartIx) (s : State)

/-! ### Changes of one part of the state -/

@[simp] theorem memPlanView_onPlot (p : PlotIx) (g : Plot → Plot) : memPlanView V q (s.onPlot p g) = memPlanView V q s := rfl
@[simp] theorem memPlanView_onBed (b : BedIx) (g : Bed → Bed) : memPlanView V q (s.onBed b g) = memPlanView V q s := rfl
@[simp] theorem memPlanView_onQp (f : FnIx) (i : QpIx) (g : Qp → Qp) : memPlanView V q (onQp f i g s) = memPlanView V q s := rfl

theorem planView_onPlot (p : PlotIx) (g : Plot → Plot) : planView V q (s.onPlot p g) = planView V q s := rfl

/-- A change of a partition beside its plan. -/
theorem memPlanView_onPart (r : PartIx) {g : Part → Part} (hjobs : ∀ x, (g x).jobs = x.jobs := by exact fun _ => rfl)
    (hcounts : ∀ x, (g x).counts = x.counts := by exact fun _ => rfl)
    (hplan : ∀ x, (g x).fPlan = x.fPlan := by exact fun _ => rfl) : memPlanView V q (s.onPart r g) = memPlanView V q s := by
  simp only [memPlanView, planView, State.onPart_part_if]
  split
  · subst_vars
    rw [hjobs, hcounts, hplan]
    rfl
  · rfl

/-! ### Causes, notices and answers (R304, R377) -/

@[simp] theorem memPlanView_raiseEvent (f : FnIx) (v : VecIx) : memPlanView V q (raiseEvent f v s) = memPlanView V q s := by
  unfold raiseEvent
  split <;> rfl

@[simp] theorem memPlanView_raiseDebug (r : PartIx) : memPlanView V q (raiseDebug r s) = memPlanView V q s := by
  unfold raiseDebug
  split
  · exact memPlanView_raiseEvent ..
  · rfl

@[simp] theorem memPlanView_giveNotice (r : PartIx) (j : Job) (kind r0 : Nat) :
    memPlanView V q (giveNotice r j kind r0 s) = memPlanView V q s :=
  memPlanView_raiseEvent ..

@[simp] theorem memPlanView_giveEntry (f : FnIx) (i : QpIx) (e : CqEntry) : memPlanView V q (giveEntry f i e s) = memPlanView V q s :=
  rfl

@[simp] theorem memPlanView_answerNow (f : FnIx) (i : QpIx) (a : Answer) : memPlanView V q (answerNow f i a s) = memPlanView V q s :=
  rfl

@[simp] theorem memPlanView_answerWaiting (p : FnIx → BitVec 1024 → Bool) (a : Answer) :
    memPlanView V q (answerWaiting p a s) = memPlanView V q s :=
  foldl_keeps (memPlanView V q) (fun u f => foldl_keeps (memPlanView V q) (fun _ i => memPlanView_onQp V q _ f i _) _ u) _ s

/-! ### Cuttings and counters (R299, R467) -/

@[simp] theorem memPlanView_missCuts (r : PartIx) (id : Word) : memPlanView V q (missCuts r id s) = memPlanView V q s :=
  memPlanView_onPart V q s r

@[simp] theorem memPlanView_rewindCuts (r : PartIx) (id : Word) : memPlanView V q (rewindCuts r id s) = memPlanView V q s :=
  memPlanView_onPart V q s r

@[simp] theorem memPlanView_readyCuts (r : PartIx) (id : Word) : memPlanView V q (readyCuts r id s) = memPlanView V q s := by
  unfold readyCuts
  dsimp only
  split
  · exact (memPlanView_raiseDebug ..).trans (memPlanView_onPart V q s r)
  · exact memPlanView_onPart V q s r

@[simp] theorem memPlanView_countExec (r : PartIx) (i : Fin 4) (n : Nat) : memPlanView V q (countExec r i n s) = memPlanView V q s :=
  memPlanView_onPart V q s r

/-! ### Jobs changed -/

variable {V} in
theorem memPlanView_onJobs {p : Job → Bool} {f : Job → Job} (h : ∀ j, p j = true → V (f j) = V j) :
    memPlanView V q (onJobs q p f s) = memPlanView V q s := by
  simp only [memPlanView, planView, onJobs, State.onPart_part, map_updateWhere_of_keeps h]
  rfl

variable {V} in
theorem memPlanView_onJob {id : Word} {f : Job → Job} (h : ∀ j, j.id = id → V (f j) = V j) :
    memPlanView V q (onJob q id f s) = memPlanView V q s :=
  memPlanView_onJobs q s fun j hj => h j (beq_iff_eq.1 hj)

/-! ### The next pass is issued (R278, R280, R295, R325) -/

theorem memPlanView_reloadDefaults (p : PlotIx) : memPlanView V q (reloadDefaults p s) = memPlanView V q s := by
  obtain ⟨v, hv⟩ := reloadDefaults_eq p s
  rw [hv, memPlanView_onPlot]

theorem memPlanView_swapPackage (r : PartIx) (handle : Nat) : memPlanView V q (swapPackage r handle s) = memPlanView V q s := by
  unfold swapPackage
  split
  · rfl
  · dsimp only
    split
    · rfl
    · rw [memPlanView_countExec]
      exact (foldl_keeps (memPlanView V q) (fun u p => memPlanView_reloadDefaults V q u p) _ _).trans
        (memPlanView_onPart V q s r)

theorem memPlanView_takePlots (ps : List PlotIx) : memPlanView V q (forAll ps (fun s p => takePlot p s) s) = memPlanView V q s :=
  foldl_keeps (memPlanView V q) (fun u p => memPlanView_onPlot V q u p _) ps s

theorem memPlanView_seedNew (key : Nat) (old new : List (Nat × PlotIx)) :
    memPlanView V q (seedNew key old new s) = memPlanView V q s := by
  refine foldl_keeps (memPlanView V q) (fun u t => ?_) _ s
  split
  · exact memPlanView_onPlot ..
  · rfl

theorem memPlanView_clockKick (b : BedIx) : memPlanView V q (clockKick b s) = memPlanView V q s := by
  unfold clockKick
  dsimp only
  split <;> rfl

theorem memPlanView_setTarget (b : BedIx) (step : BitVec 5) : memPlanView V q (setTarget b step s) = memPlanView V q s := by
  rw [setTarget, memPlanView_clockKick, memPlanView_onBed]

theorem memPlanView_planTargets (r : PartIx) : memPlanView V q (planTargets r s) = memPlanView V q s :=
  foldl_keeps (memPlanView V q) (fun u b => memPlanView_setTarget V q u b _) _ s

end

/-! ### A job through the passes -/

/-- The final status of a job that has one. -/
def finalLife (j : Job) : Option Life := if jobLive j then none else some j.life

theorem life_of_finalLife {j : Job} {l : Life} (h : finalLife j = some l) : j.life = l := by
  unfold finalLife at h
  split at h
  · exact absurd h (by simp)
  · exact Option.some.inj h

/-- What dispatch, switches and stops leave of a job: its descriptor, place and worst-case finish, its passes and retries, and
the final status of one that has ended. -/
structure JobCore where
  id : Word
  desc : BitVec 1024
  codec : BitVec 512
  fn : FnIx
  qp : QpIx
  ssn : Word
  slot : BitVec 8
  epoch : BitVec 24
  mainPasses : Nat
  fbPasses : Nat
  retries : Nat
  wc : Nat
  final : Option Life

/-- That of a job. -/
def jobCore (j : Job) : JobCore :=
  { id := j.id, desc := j.desc, codec := j.codec, fn := j.fn, qp := j.qp, ssn := j.ssn, slot := j.slot, epoch := j.epoch
    mainPasses := j.mainPasses, fbPasses := j.fbPasses, retries := j.retries, wc := j.wc, final := finalLife j }

/-- A change of a job's state among those that are not final. -/
theorem finalLife_congr {j k : Job} (hl : k.life = j.life ∨ jobLive j = true ∧ jobLive k = true) : finalLife k = finalLife j := by
  rcases hl with h | ⟨hj, hk⟩
  · have hlive : jobLive k = jobLive j := by unfold jobLive; rw [h]
    rw [finalLife, finalLife, hlive, h]
  · rw [finalLife, finalLife, if_pos hj, if_pos hk]

theorem jobLive_of_adm {j : Job} (h : j.life = .adm) : jobLive j = true := by simp [jobLive, h]
theorem jobLive_of_running {j : Job} (h : j.life = .running) : jobLive j = true := by simp [jobLive, h]

theorem jobCore_jobJoins (time : DWord) (tasks : List (Nat × PlotIx)) (watch : List (PlotIx × Nat)) (shift : Bool) (j : Job) :
    jobCore (jobJoins time tasks watch shift j) = jobCore j := by
  have hfinal : finalLife (jobJoins time tasks watch shift j) = finalLife j := by
    by_cases h : j.life = .adm
    · exact finalLife_congr (.inr ⟨jobLive_of_adm h, jobLive_of_running (if_pos h)⟩)
    · exact finalLife_congr (.inl (if_neg h))
  rw [jobCore, hfinal]
  rfl

section
variable (q : PartIx) (s : State)

/-- A pass that is issued changes plots, clocks and which jobs run. -/
theorem memPlanView_startPass : memPlanView jobCore q (startPass q s) = memPlanView jobCore q s := by
  have hbegun : memPlanView jobCore q (onJobs q (fun j => jdKind j.desc = 1 && j.life = .adm)
      (fun j => { j with life := .running }) s) = memPlanView jobCore q s := by
    refine memPlanView_onJobs q s fun j hj => ?_
    obtain ⟨-, hadm⟩ := Bool.and_eq_true_iff.1 hj
    have hfinal : finalLife { j with life := .running } = finalLife j :=
      finalLife_congr (.inr ⟨jobLive_of_adm (of_decide_eq_true hadm), rfl⟩)
    rw [jobCore, hfinal]
    rfl
  unfold startPass
  dsimp only
  split
  · exact hbegun
  · rw [memPlanView_planTargets, memPlanView_countExec, memPlanView_onJobs q _ fun j _ => jobCore_jobJoins .., memPlanView_seedNew,
      memPlanView_takePlots, memPlanView_swapPackage, hbegun]

theorem memPlanView_dispatch : memPlanView jobCore q (dispatch q s) = memPlanView jobCore q s := by
  unfold dispatch
  split
  · exact memPlanView_startPass q s
  · rfl

end

end Sys2Proof.Machine
end

section
/-! FLUSH as the plan of a partition sees it: whatever it stops, and whatever plot it prunes, of a job only the mark of a failed
pass may change (R78, R270, R286). -/

namespace Sys2Proof.Machine

open Host

section
variable {β : Type} (V : Job → β) (q : PartIx) (s : State)

/-! ### Discarded commands (R78) -/

theorem memPlanView_traceCommand (p : PlotIx) (l : Lane) (d : BitVec 1024) (e : Bool) (st c : Nat) :
    memPlanView V q (traceCommand p l d e st c s) = memPlanView V q s := by
  rcases traceCommand_cases p l d e st c s with ⟨r, h⟩ | ⟨r, h⟩
  · rw [h, memPlanView_onBed]
  · rw [h]
    exact memPlanView_onPart V q s r

theorem memPlanView_step10 (p : PlotIx) (l : Lane) (d : BitVec 1024) (e : Ended) :
    memPlanView V q (step10 p l d e s) = memPlanView V q s := by
  unfold step10
  dsimp only
  rw [memPlanView_traceCommand, memPlanView_onPlot]
  split
  · rw [writeRecord_eq, memPlanView_onBed]
  · rfl

theorem memPlanView_returnSem (p : PlotIx) (l : Lane) : memPlanView V q (returnSem p l s) = memPlanView V q s := by
  unfold returnSem
  dsimp only
  split
  · split <;> rfl
  · rfl

theorem memPlanView_discardLane (p : PlotIx) (l : Lane) : memPlanView V q (discardLane p l s) = memPlanView V q s :=
  (foldl_keeps (memPlanView V q) (fun u d => memPlanView_step10 V q u p l d _) _ _).trans
    ((memPlanView_onPlot ..).trans (memPlanView_returnSem V q s p l))

end

/-! ### A command that a flush ends (R78, R482) -/

section
variable {β : Type} {V : Job → β} (hV : ∀ j b, V { j with passFailed := b } = V j) (q : PartIx) (s : State)
include hV

theorem memPlanView_failPassOn (p : PlotIx) : memPlanView V q (failPassOn p s) = memPlanView V q s := by
  unfold failPassOn
  split
  · rfl
  · simp only [memPlanView, planView, State.onPart_part_if]
    split
    · subst_vars
      rw [map_updateWhere_of_keeps fun j _ => hV j true]
      rfl
    · rfl

theorem memPlanView_prunePlot (p : PlotIx) (c : PruneCause) (count : Nat) :
    memPlanView V q (prunePlot p c count s) = memPlanView V q s := by
  have hrecord : ∀ kind index sub n returns u, memPlanView V q (recordPrune kind index sub c n returns u) = memPlanView V q u :=
    fun kind index sub n returns u => memPlanView_raiseEvent V q _ pf0Fn 6
  unfold prunePlot
  split
  · rfl
  · dsimp only
    split
    · rw [hrecord, memPlanView_onPlot, memPlanView_failPassOn hV]
    · rename_i r _
      have hreserve : ∀ u, memPlanView V q (drawReserve r u) = memPlanView V q u := fun u => by
        unfold drawReserve
        split
        · exact memPlanView_onPart V q u r
        · rfl
      rw [hreserve, raiseCapacity, memPlanView_raiseEvent, hrecord, memPlanView_onPlot, memPlanView_failPassOn hV]

theorem memPlanView_pruneOnResidue (p : PlotIx) : memPlanView V q (pruneOnResidue p s) = memPlanView V q s := by
  unfold pruneOnResidue
  dsimp only
  split
  · rfl
  · split
    · exact memPlanView_prunePlot hV ..
    · rfl

theorem memPlanView_endCommand_of_flushed (p : PlotIx) (l : Lane) (d : BitVec 1024) {e : Ended} (he : e.status = stFlushed) :
    memPlanView V q (endCommand p l d e s) = memPlanView V q s := by
  have hok : e.status ≠ stOk := by rw [he]; decide
  unfold endCommand
  dsimp only
  rw [memPlanView_pruneOnResidue hV, memPlanView_onPlot, if_neg hok]
  split <;> rw [memPlanView_onPlot, memPlanView_step10, memPlanView_onPlot]

/-- A TEST that a flush stops leaves free bytes in its scratchpad. -/
theorem planView_stopCompute (p : PlotIx) : planView V q (stopCompute p s) = planView V q s := by
  have hend : ∀ r u, planView V q (endRun p .compute r stFlushed 0 u) = planView V q u := fun r u => by
    have hst : ¬ (decide (stFlushed = stOk) || decide (stFlushed = stTest)) = true := by decide
    rw [endRun, if_neg hst]
    exact planView_of_memPlanView (memPlanView_endCommand_of_flushed hV q _ p .compute r.desc (by rfl))
  have htest : ∀ n u, planView V q (testLeaves p n u) = planView V q u := fun n u => by
    unfold testLeaves
    dsimp only
    split <;> split <;> rfl
  unfold stopCompute
  split
  · split
    · rw [hend]
      split
      · exact htest ..
      · rfl
    · rfl
  · rfl

/-! ### FLUSH -/

theorem planView_flushPlot (p : PlotIx) (resume : Bool) : planView V q (flushPlot p resume s) = planView V q s := by
  unfold flushPlot
  dsimp only
  rw [planView_onPlot, planView_stopCompute hV]
  refine planView_of_memPlanView ?_
  rw [memPlanView_discardLane, memPlanView_discardLane, memPlanView_onPlot]

theorem planView_flushTasks (ts : List (Nat × PlotIx)) : planView V q (flushTasks ts s) = planView V q s := by
  refine foldl_keeps (planView V q) (fun u p => ?_) _ s
  split
  · exact planView_flushPlot hV ..
  · rfl

end

end Sys2Proof.Machine
end

section
/-! Admission: what SUBMIT_JOB leaves of the plan when it accepts, and what a newcomer's dispatch keeps of it (R263 to R265,
R277, R281, R285). -/

namespace Sys2Proof.Machine

open Host

/-! ### Epoch slots (R281) -/

section
variable (q : PartIx) (slot : BitVec 8) (e : BitVec 25) (s : State)

/-- An entry is written in the tables of cisterns and beds. -/
theorem writeSlot_leaves : (writeSlot q slot e s).mem = s.mem ∧ (writeSlot q slot e s).parts = s.parts :=
  ⟨foldl_keeps State.mem (fun _ _ => by rfl) _ _, foldl_keeps State.parts (fun _ _ => by rfl) _ _⟩

theorem writeSlot_part (r : PartIx) : (writeSlot q slot e s).part r = s.part r := by
  rw [State.part, (writeSlot_leaves q slot e s).2]
  rfl

/-- Both cisterns hold the entry. -/
theorem cisEpoch_writeSlot (c : CisIx) : cisEpoch (writeSlot q slot e s) c q slot.toNat = e := by
  have hbeds : (writeSlot q slot e s).cis = (forAll [0, 1] (fun s c => s.onCis c fun x =>
      { x with epochs := tabSet 0 x.epochs (256 * q.val + slot.toNat) e }) s).cis := foldl_keeps State.cis (fun _ _ => by rfl) _ _
  rw [cisEpoch, State.cistern, hbeds, ← State.cistern, forAll, List.foldl_cons, List.foldl_cons, List.foldl_nil]
  rcases (by decide : ∀ c : CisIx, c = 0 ∨ c = 1) c with rfl | rfl
  · rw [State.onCis_cistern_ne _ _ (by decide), State.onCis_cistern, tabGet_set, if_pos rfl]
  · rw [State.onCis_cistern, tabGet_set, if_pos rfl]

end

/-! ### The newcomer enters the plan (R263, R277) -/

theorem mem_insertLive (j : Job) (n : Nat) (l : List Job) : j ∈ insertLive j n l := by
  induction l generalizing n with
  | nil => cases n <;> simp [insertLive]
  | cons k l ih =>
    cases n with
    | zero => simp [insertLive]
    | succ n => exact List.mem_cons_of_mem _ (ih _)

section
variable (f : FnIx) (i : QpIx) (e d : BitVec 1024) (codec : BitVec 512) (q : PartIx) (p : Plan) (w : Nat) (s : State)

/-- The job of an accepted submission. -/
def newcomer : Job := { newJob s f i e d codec q p w with id := jobName d, extra := (cutCosts s q d).1 }

variable (step : Nat)

theorem acceptJob_leaves : newcomer f i e d codec q p w s ∈ ((acceptJob f i e d codec q step p w s).part q).jobs ∧
    ((acceptJob f i e d codec q step p w s).part q).fPlan = BitVec.ofNat 5 step ∧
    ((acceptJob f i e d codec q step p w s).part q).counts = (s.part q).counts.set 0 (satAdd (s.part q).counts[0] 1) ∧
    ∀ c : CisIx, cisEpoch (acceptJob f i e d codec q step p w s) c q (freeJobSlot s q).toNat = slotEntry true 0 := by
  unfold acceptJob countJob
  dsimp only
  rw [State.onPart_part, writeSlot_part, State.onPart_part]
  exact ⟨mem_insertLive .., rfl, rfl, fun c => cisEpoch_writeSlot ..⟩

end

/-! ### Its dispatch (R277, R285) -/

section
variable (q : PartIx) (s : State)

theorem planView_stopBatch (bySuspend : Bool) (maxUs : Word) :
    planView jobCore q (stopBatch q bySuspend maxUs s) = planView jobCore q s :=
  (planView_of_memPlanView (memPlanView_onJobs q _ fun _ _ => by rfl)).trans (planView_flushTasks (fun _ _ => by rfl) q s _)

/-- The newcomer's dispatch keeps the plan that accepted it. -/
theorem planView_dispatchNew (id : Word) : planView jobCore q (dispatchNew q id s) = planView jobCore q s := by
  unfold dispatchNew
  split
  · exact planView_of_memPlanView (memPlanView_startPass q s)
  · dsimp only
    split
    · rfl
    · split
      · exact (planView_of_memPlanView (memPlanView_countExec ..)).trans (planView_stopBatch ..)
      · exact planView_of_memPlanView (memPlanView_onJob q s fun _ _ => by rfl)

/-- While jobs hold the plots, a newcomer that does not head the plan waits. -/
theorem dispatchNew_of_waits {id : Word} (hbusy : plotsIdle s q = false) (hbehind : (plotWork s q).head?.map (·.id) ≠ some id) :
    dispatchNew q id s = s := by
  simp [dispatchNew, hbusy, hbehind]

end

/-! ### SUBMIT_JOB -/

section
variable {s : State} {f : FnIx} {i : QpIx} {dmaOk : Bool} {e : BitVec 1024} {q : PartIx}

/-- The descriptor that a submission names in host memory, and the codec parameters that the descriptor names. -/
def descAt (s : State) (e : BitVec 1024) : BitVec 1024 := BitVec.ofNat 1024 (natOf (hostRead s (seAddr e) 128))
def codecAt (s : State) (e : BitVec 1024) : BitVec 512 := BitVec.ofNat 512 (natOf (hostRead s (jdCodec (descAt s e)) 64))

theorem exec_submitJob_of_refused {a : Answer} (hn : nextSubmission s f i = some e) (hq : fnPart f = some q)
    (ho : seOpc e = 0x01) (hd : decideJob s q e (descAt s e) (codecAt s e) dmaOk = .error a) :
    exec (.submitJob f i dmaOk) s = .next (answerNow f i a (countJob q 1 s)) := by
  change execSubmitJob f i dmaOk s = _
  simp only [execSubmitJob, hn, hq, ho, ne_eq, not_true_eq_false, if_false]
  rw [← descAt, ← codecAt, hd]

theorem exec_submitJob_of_accepted {step w : Nat} {p : Plan} (hn : nextSubmission s f i = some e) (hq : fnPart f = some q)
    (ho : seOpc e = 0x01) (hd : decideJob s q e (descAt s e) (codecAt s e) dmaOk = .ok (step, p, w)) :
    exec (.submitJob f i dmaOk) s = .next (dispatchNew q (jobName (descAt s e))
      (answerNow f i (ansDone 0 0) (acceptJob f i e (descAt s e) (codecAt s e) q step p w s))) := by
  change execSubmitJob f i dmaOk s = _
  simp only [execSubmitJob, hn, hq, ho, ne_eq, not_true_eq_false, if_false]
  rw [← descAt, ← codecAt, hd]

theorem jobName_toNat (d : BitVec 1024) : (jobName d).toNat = d.toNat % 2 ^ 32 := by
  simp [jobName, fld, bitsOf]

theorem cisEpoch_congr {s t : State} (h : t.cis = s.cis) (c : CisIx) (q : PartIx) (k : Nat) : cisEpoch t c q k = cisEpoch s c q k := by
  rw [cisEpoch, cisEpoch, State.cistern, State.cistern, h]

end

/-- Settles O34: a refusal is answered and counted; an accepted job enters the plan, and its dispatch keeps what the plan says
of it. That a newcomer which does not head the plan waits is entry 59 of the assumption log. -/
theorem jobsAreAdmitted : Obligations.JobsAreAdmitted := by
  intro s f i dmaOk e q hn hq ho
  refine ⟨fun step p w hd => ?_, fun a hd => exec_submitJob_of_refused hn hq ho hd⟩
  refine ⟨_, exec_submitJob_of_accepted hn hq ho hd, ?_⟩
  set a := acceptJob f i e (descAt s e) (codecAt s e) q step p w s
  have hkept : planView jobCore q (dispatchNew q (jobName (descAt s e)) (answerNow f i (ansDone 0 0) a)) = planView jobCore q a :=
    planView_dispatchNew ..
  obtain ⟨hin, hplan, hcounts, hslot⟩ := acceptJob_leaves f i e (descAt s e) (codecAt s e) q p w s step
  obtain ⟨j, hj, hcore⟩ := exists_mem_of_map_eq (congrArg PlanView.jobs hkept) hin
  simp only [jobCore, JobCore.mk.injEq] at hcore
  obtain ⟨hid, hdesc, hcodec, hfn, hqp, hssn, hjslot, hepoch, -, -, -, hwc, -⟩ := hcore
  refine ⟨⟨j, hj, ?_, hdesc, hcodec, hwc, hfn, hqp, hssn, hjslot, hepoch, fun c => ?_⟩,
    (congrArg PlanView.fPlan hkept).trans hplan, ?_, ?_⟩
  · rw [hid]
    exact jobName_toNat _
  · rw [hjslot, cisEpoch_congr (congrArg PlanView.cis hkept)]
    exact hslot c
  · have hkeptCounts := (congrArg PlanView.counts hkept).trans hcounts
    exact (congrArg (fun v : Vector Word 8 => v[0]) hkeptCounts).trans (by simp)
  · rintro a' rfl hbusy hbehind
    exact dispatchNew_of_waits q _ hbusy hbehind

end Sys2Proof.Machine
end

section
/-! What a write of device memory leaves alone, and the end of a job (R272, R277, R281, R282, R417). -/

namespace Sys2Proof.Machine

open Host

/-! ### Writes of device memory -/

/-- What no write of device memory touches: the plots and the partitions. -/
def unwritten (s : State) : Vector Plot 128 × Vector Part 16 := (s.plots, s.parts)

theorem keeps_of_pair {α γ : Type} (g : State → γ) {x : State × α} {s t : State} {a : α} (hx : g x.1 = g s) (h : x = (t, a)) :
    g t = g s := by
  rwa [h] at hx

theorem unwritten_translate (q : PartIx) (a : Nat) (s : State) : unwritten (translate q a s).1 = unwritten s := by
  obtain ⟨hplots, -, hparts, -⟩ := translate_leaves q a s
  rw [unwritten, hplots, hparts, unwritten]

theorem unwritten_t3WritePieces (q : PartIx) (base : Nat) (bs : List Byte) (ps : List (Nat × Nat)) (s : State) :
    unwritten (t3WritePieces q base bs s ps).1 = unwritten s := by
  induction ps generalizing s with
  | nil => rfl
  | cons x ps ih =>
    rw [t3WritePieces]
    split
    · exact keeps_of_pair unwritten (unwritten_translate ..) ‹_›
    · rename_i htr
      exact (ih _).trans (keeps_of_pair unwritten (unwritten_translate q x.1 s) htr :)

theorem unwritten_devWritePiece (q : PartIx) (a epoch : Nat) (bs : List Byte) (s : State) :
    unwritten (devWritePiece q a 0 epoch bs s).1 = unwritten s := by
  have hbed : ∀ b, unwritten (bedCheck b epoch bs.length s).1 = unwritten s := fun _ => rfl
  have hcis : ∀ c, unwritten (cisCheck c q epoch bs.length s).1 = unwritten s := fun _ => rfl
  have hperf : ∀ c r k n u, unwritten (cisPerfAdd c r k n u) = unwritten u := fun c r k n u => by
    obtain ⟨hplots, -, hparts, -⟩ := cisPerfAdd_leaves c r k n u
    rw [unwritten, hplots, hparts, unwritten]
  unfold devWritePiece
  split
  · rfl
  · split
    · exact (keeps_of_pair unwritten (hbed _) ‹_› :)
    · exact keeps_of_pair unwritten (hbed _) ‹_›
  · split
    · exact (keeps_of_pair unwritten (hcis _) ‹_› :)
    · exact keeps_of_pair unwritten (hcis _) ‹_›
  · split
    · rw [if_pos rfl, t3Write, unwritten_t3WritePieces, hperf]
      exact keeps_of_pair unwritten (hcis _) ‹_›
    · exact keeps_of_pair unwritten (hcis _) ‹_›
  · rfl

theorem unwritten_devWrite (q : PartIx) (a epoch : Nat) (bs : List Byte) (s : State) :
    unwritten (devWrite q a 0 epoch bs s).1 = unwritten s := by
  unfold devWrite
  induction pieces pageBytes a bs.length generalizing s with
  | nil => rfl
  | cons x ps ih =>
    rw [devWritePieces]
    split
    · exact keeps_of_pair unwritten (unwritten_devWritePiece ..) ‹_›
    · rw [ih]
      exact keeps_of_pair unwritten (unwritten_devWritePiece ..) ‹_›

/-- Without a bed a piece goes straight to its tier. -/
theorem unwritten_routedWrite (q : PartIx) (a epoch : Nat) (bs : List Byte) (s : State) :
    unwritten (routedWrite q none a 0 epoch bs s).1 = unwritten s := by
  have hpiece : ∀ b cs u, unwritten (writePiece q none b 0 epoch cs u).1 = unwritten u := fun b cs u => by
    unfold writePiece
    split
    · contradiction
    · exact unwritten_devWritePiece ..
  unfold routedWrite
  split
  · clear * - hpiece
    induction pieces pageBytes a bs.length generalizing s with
    | nil => rfl
    | cons x ps ih =>
      rw [writePieces]
      split
      · exact keeps_of_pair unwritten (hpiece ..) ‹_›
      · rw [ih]
        exact keeps_of_pair unwritten (hpiece ..) ‹_›
  · exact unwritten_devWrite ..

/-! ### Finding and changing jobs -/

section
variable {s : State} {q : PartIx} {id : Word}

theorem mem_of_jobById {j : Job} (h : jobById s q id = some j) : j ∈ (s.part q).jobs ∧ j.id = id :=
  ⟨List.mem_of_find?_eq_some h, beq_iff_eq.1 (List.find?_some (p := fun j : Job => j.id == id) h)⟩

theorem jobById_isSome {j : Job} (hj : j ∈ (s.part q).jobs) : (jobById s q j.id).isSome = true :=
  List.find?_isSome.2 ⟨j, hj, beq_self_eq_true _⟩

theorem mem_updateWhere {p : Job → Bool} {f : Job → Job} {l : List Job} {j : Job} (hj : j ∈ l) (hp : p j = true) :
    f j ∈ updateWhere p f l :=
  List.mem_map.2 ⟨j, hj, if_pos hp⟩

theorem onJobs_jobs (p : Job → Bool) (f : Job → Job) : ((onJobs q p f s).part q).jobs = updateWhere p f (s.part q).jobs := by
  rw [onJobs, State.onPart_part]

/-- A change that keeps names finds the changed job under the same name. -/
theorem find?_updateWhere {p : Job → Bool} {f : Job → Job} (hid : ∀ j, (f j).id = j.id) (l : List Job) {j : Job}
    (h : l.find? (fun j => j.id == id) = some j) (hp : p j = true) :
    (updateWhere p f l).find? (fun j => j.id == id) = some (f j) := by
  have hsame : (fun j : Job => j.id == id) ∘ (fun j => if p j then f j else j) = fun j => j.id == id := by
    funext k
    simp only [Function.comp_apply]
    split
    · rw [hid]
    · rfl
  rw [updateWhere, List.find?_map, hsame, h, Option.map_some, if_pos hp]

end

/-! ### A job ends (R272, R277) -/

section
variable {s : State} {q : PartIx} {id : Word} (l : Life) (bytes index : Nat) (post : Bool)

theorem endJob_of_absent (h : jobById s q id = none) : endJob q id l bytes index post s = s := by
  simp only [endJob, h]

/-- The jobs of the name end, and the final status is counted. -/
theorem endJob_of_present {j : Job} (h : jobById s q id = some j) : (endJob q id l bytes index post s).mem = s.mem ∧
    ((endJob q id l bytes index post s).part q).jobs = updateWhere (fun j => j.id == id) (jobEnded l) (s.part q).jobs ∧
    ((endJob q id l bytes index post s).part q).counts =
      (s.part q).counts.set (endCounter l).val (satAdd (s.part q).counts[endCounter l] 1) (endCounter l).isLt := by
  set u := writeSlot q j.slot (slotEntry false j.epoch) (onJob q id (jobEnded l) (countJob q (endCounter l) s)) with hu
  have hview : memPlanView (fun j => j) q (endJob q id l bytes index post s) = memPlanView (fun j => j) q u := by
    simp only [endJob, h]
    rw [memPlanView_answerWaiting, ← hu]
    split
    · rw [memPlanView_giveEntry, memPlanView_missCuts]
    · rw [memPlanView_missCuts]
  obtain ⟨humem, -⟩ := writeSlot_leaves q j.slot (slotEntry false j.epoch) (onJob q id (jobEnded l) (countJob q (endCounter l) s))
  have hupart : u.part q = (onJob q id (jobEnded l) (countJob q (endCounter l) s)).part q := writeSlot_part ..
  have hplan := planView_of_memPlanView hview
  refine ⟨(congrArg Prod.fst hview).trans humem, ?_, ?_⟩
  · have hjobs := congrArg PlanView.jobs hplan
    simp only [planView, List.map_id'] at hjobs
    rw [hjobs, hupart, onJob, State.onPart_part, countJob, State.onPart_part]
  · have hcounts := congrArg PlanView.counts hplan
    simp only [planView] at hcounts
    rw [hcounts, hupart, onJob, State.onPart_part, countJob, State.onPart_part]

theorem endJob_mem : (endJob q id l bytes index post s).mem = s.mem := by
  cases h : jobById s q id with
  | none => rw [endJob_of_absent l bytes index post h]
  | some j => exact (endJob_of_present l bytes index post h).1

theorem endJob_jobs :
    ((endJob q id l bytes index post s).part q).jobs = updateWhere (fun j => j.id == id) (jobEnded l) (s.part q).jobs := by
  cases h : jobById s q id with
  | none =>
    have hnone : ∀ j ∈ (s.part q).jobs, ¬ (j.id == id) = true := List.find?_eq_none.1 h
    rw [endJob_of_absent l bytes index post h, updateWhere, List.map_congr_left fun j hj => if_neg (hnone j hj), List.map_id']
  | some j => exact (endJob_of_present l bytes index post h).2.1

/-- A final status other than OK does not count as OK. -/
theorem endJob_oks (hl : endCounter l ≠ 2) : ((endJob q id l bytes index post s).part q).counts[2] = (s.part q).counts[2] := by
  have hne : (endCounter l).val ≠ 2 := fun h => hl (Fin.ext h)
  cases h : jobById s q id with
  | none => rw [endJob_of_absent l bytes index post h]
  | some j =>
    obtain ⟨-, -, hcounts⟩ := endJob_of_present l bytes index post h
    rw [hcounts, Vector.getElem_set_ne _ _ hne]

end

end Sys2Proof.Machine
end

section
/-! The passes of a job: what the steps of a boundary and of a failed pass keep of it (R262, R267 to R270, R277). -/

namespace Sys2Proof.Machine

open Host

/-! ### Views of the passes -/

/-- What the end of a pass keeps of a job, whatever its worst-case finish: final statuses only under the name `x`, where one is
given. -/
def JobCore.track (x : Option Word) (c : JobCore) : JobCore :=
  { c with wc := 0, final := if x = some c.id then c.final else none }

/-- That of a job. -/
def jobTrack (x : Option Word) (j : Job) : JobCore := (jobCore j).track x

/-- The jobs of a partition through a view of each. -/
def jobsView {β : Type} (V : Job → β) (q : PartIx) (s : State) : List β := (s.part q).jobs.map V

/-- Memory, the jobs and how many ended OK. -/
def passView {β : Type} (V : Job → β) (q : PartIx) (s : State) : Memories × List β × Word :=
  (s.mem, jobsView V q s, (s.part q).counts[2])

section
variable {β : Type} {V : Job → β} {q : PartIx} {s t : State}

theorem passView_of_memPlanView (h : memPlanView V q t = memPlanView V q s) : passView V q t = passView V q s :=
  congrArg (fun v : Memories × PlanView β => (v.1, v.2.jobs, v.2.counts[2])) h

theorem jobsView_track_of_core {x : Option Word} (h : jobsView jobCore q t = jobsView jobCore q s) :
    jobsView (jobTrack x) q t = jobsView (jobTrack x) q s := by
  have hmap := congrArg (List.map (JobCore.track x)) h
  simp only [jobsView, List.map_map] at hmap
  exact hmap

theorem passView_track_of_core {x : Option Word} (h : memPlanView jobCore q t = memPlanView jobCore q s) :
    passView (jobTrack x) q t = passView (jobTrack x) q s := by
  obtain ⟨hmem, hrest⟩ := Prod.mk.inj (passView_of_memPlanView h)
  obtain ⟨hjobs, hoks⟩ := Prod.mk.inj hrest
  rw [passView, hmem, jobsView_track_of_core hjobs, hoks, passView]

theorem jobsView_of_planView (h : planView V q t = planView V q s) : jobsView V q t = jobsView V q s := congrArg PlanView.jobs h

/-- A fold keeps what its steps with the elements of the list keep. -/
theorem foldl_keeps_of_mem {α γ : Type} (g : State → γ) {f : State → α → State} {l : List α}
    (hf : ∀ a ∈ l, ∀ u, g (f u a) = g u) (s : State) : g (l.foldl f s) = g s := by
  induction l generalizing s with
  | nil => rfl
  | cons a l ih =>
    rw [List.foldl_cons, ih fun b hb => hf b (List.mem_cons_of_mem _ hb)]
    exact hf a List.mem_cons_self s

end

/-! ### Ends, switches and notices -/

section
variable (q : PartIx) (s : State)

theorem jobTrack_jobEnded {x : Option Word} {id : Word} (hx : x ≠ some id) (l : Life) (j : Job) (hj : (j.id == id) = true) :
    jobTrack x (jobEnded l j) = jobTrack x j := by
  have hne : ¬ x = some j.id := by rwa [beq_iff_eq.1 hj]
  unfold jobTrack JobCore.track
  rw [if_neg (show ¬ x = some (jobCore (jobEnded l j)).id from hne), if_neg (show ¬ x = some (jobCore j).id from hne)]
  rfl

theorem jobsView_endJob {x : Option Word} {id : Word} (hx : x ≠ some id) (l : Life) (bytes index : Nat) (post : Bool) :
    jobsView (jobTrack x) q (endJob q id l bytes index post s) = jobsView (jobTrack x) q s := by
  rw [jobsView, endJob_jobs, map_updateWhere_of_keeps (jobTrack_jobEnded hx l), jobsView]

theorem passView_endJob {x : Option Word} {id : Word} (hx : x ≠ some id) {l : Life} (hl : endCounter l ≠ 2) (bytes index : Nat)
    (post : Bool) : passView (jobTrack x) q (endJob q id l bytes index post s) = passView (jobTrack x) q s := by
  rw [passView, endJob_mem, jobsView_endJob q s hx, endJob_oks l bytes index post hl, passView]

theorem jobCore_jobSwitched (j : Job) : jobCore (jobSwitched j) = jobCore j := by
  have hfinal : finalLife (jobSwitched j) = finalLife j := by
    by_cases h : j.life = .running
    · have hlive : jobLive (jobSwitched j) = true := by simp [jobLive, jobSwitched, h]
      exact finalLife_congr (.inr ⟨jobLive_of_running h, hlive⟩)
    · exact finalLife_congr (.inl (if_neg h))
  rw [jobCore, hfinal]
  rfl

theorem memPlanView_switchJob (id : Word) : memPlanView jobCore q (switchJob q id s) = memPlanView jobCore q s := by
  unfold switchJob
  split
  · rfl
  · split
    · rw [memPlanView_giveNotice, memPlanView_missCuts]
      exact memPlanView_onJob q s fun j _ => jobCore_jobSwitched j
    · exact memPlanView_onJob q s fun _ _ => by rfl

theorem memPlanView_atRisk {β : Type} (V : Job → β) (id : Word) : memPlanView V q (atRisk q s id) = memPlanView V q s := by
  unfold atRisk
  split
  · rfl
  · dsimp only
    split
    · exact memPlanView_giveNotice ..
    · rfl

/-! ### The steps of a boundary (R267) -/

theorem memPlanView_chargeJobs : memPlanView jobCore q (chargeJobs q s) = memPlanView jobCore q s :=
  (foldl_keeps (memPlanView jobCore q) (fun u id => memPlanView_switchJob q u id) _ _).trans
    (memPlanView_onJobs q s fun _ _ => by rfl)

theorem memPlanView_monitorJobs : memPlanView jobCore q (monitorJobs q s) = memPlanView jobCore q s := by
  unfold monitorJobs
  dsimp only
  refine (memPlanView_onJobs q _ fun _ _ => by rfl).trans ((foldl_keeps (memPlanView jobCore q)
    (fun u id => memPlanView_atRisk q u jobCore id) _ _).trans (foldl_keeps (memPlanView jobCore q) (fun u id => ?_) _ s))
  split
  · split
    · exact memPlanView_switchJob q u id
    · rfl
  · rfl

theorem jobCore_leavesBatch (time : DWord) (j : Job) : jobCore (leavesBatch time j) = jobCore j := by
  unfold leavesBatch
  split
  · split <;> rfl
  · rfl

theorem passView_lowerPlan {β : Type} (V : Job → β) : passView V q (lowerPlan q s) = passView V q s := by
  simp only [lowerPlan, passView, jobsView, State.onPart_part, State.onPart_mem]

theorem passView_storeFinishes (x : Option Word) : passView (jobTrack x) q (storeFinishes q s) = passView (jobTrack x) q s := by
  simp only [storeFinishes, passView, jobsView, State.onPart_part, State.onPart_mem, List.map_map]
  refine congrArg (fun l => (s.mem, l, (s.part q).counts[2])) (List.map_congr_left fun j _ => ?_)
  rw [Function.comp_apply]
  split <;> rfl

/-- Members leave, the plan is recomputed, and the next pass is issued. -/
theorem passView_nextPass (x : Option Word) : passView (jobTrack x) q (nextPass q s) = passView (jobTrack x) q s := by
  unfold nextPass
  dsimp only
  rw [passView_track_of_core (memPlanView_dispatch q _), passView_storeFinishes, passView_lowerPlan]
  refine passView_track_of_core ?_
  rw [memPlanView_onJobs q _ fun _ _ => by rfl, memPlanView_onJobs q _ fun _ _ => by rfl,
    foldl_keeps (memPlanView jobCore q) fun u j => memPlanView_answerWaiting jobCore q u _ _]
  exact memPlanView_onJobs q s fun j _ => jobCore_leavesBatch s.time j

/-- Jobs that a CANCEL ends are not those that have ended. -/
theorem passView_cancelJobs {x : Option Word} (hx : ∀ j ∈ liveJobs s q, x ≠ some j.id) :
    passView (jobTrack x) q (cancelJobs q s) = passView (jobTrack x) q s := by
  refine foldl_keeps_of_mem (passView (jobTrack x) q) (fun id hid u => ?_) s
  obtain ⟨j, hj, rfl⟩ := List.mem_map.1 hid
  exact passView_endJob q u (hx j (List.mem_of_mem_filter hj)) (by decide) 0 0 true

/-- The pass commits for the members that no CANCEL asks for. -/
theorem commitPass_leaves : (commitPass q s).mem = s.mem ∧ ((commitPass q s).part q).counts = (s.part q).counts ∧
    ((commitPass q s).part q).jobs = updateWhere (fun j => j.inPass && !j.cancelReq) jobCommitted (s.part q).jobs := by
  have hview : memPlanView (fun j => j) q (commitPass q s) =
      memPlanView (fun j => j) q (onJobs q (fun j => j.inPass && !j.cancelReq) jobCommitted s) :=
    (memPlanView_onPart (fun j => j) q _ q).trans
      (foldl_keeps (memPlanView (fun j => j) q) (fun u (j : Job) => memPlanView_readyCuts (fun j => j) q u q j.id) _ _)
  have hplan := planView_of_memPlanView hview
  refine ⟨congrArg Prod.fst hview, (congrArg PlanView.counts hplan).trans ?_, ?_⟩
  · simp only [planView, onJobs, State.onPart_part]
  · have hjobs := congrArg PlanView.jobs hplan
    simpa only [planView, List.map_id', onJobs_jobs] using hjobs

/-- Jobs whose output is complete end, and no pass of any is lost. -/
theorem completeJobs_leaves (outs : List JobOut) : (completeJobs q outs s).mem = s.mem ∧
    jobsView (jobTrack none) q (completeJobs q outs s) = jobsView (jobTrack none) q s := by
  have hstep : ∀ {γ : Type} (g : State → γ), (∀ u id l bytes index, g (endJob q id l bytes index true u) = g u) →
      g (completeJobs q outs s) = g s := fun g hend => by
    refine foldl_keeps g (fun u o => ?_) outs s
    dsimp only
    split
    · split
      · rfl
      · exact hend ..
    · rfl
  exact ⟨hstep State.mem fun _ _ _ _ _ => endJob_mem .., hstep (jobsView (jobTrack none) q) fun u id l bytes index =>
    jobsView_endJob q u (by simp) l bytes index true⟩

end

end Sys2Proof.Machine
end

section
/-! Pass boundaries, boundary votes, failed passes and long HOLDs (R267, R270, R277, R331, R417). -/

namespace Sys2Proof.Machine

open Host

/-! ### A boundary without a vote (R267) -/

/-- The steps of the boundary of a batch that is not cut. -/
def boundarySteps (q : PartIx) (outs : List JobOut) (s : State) : State :=
  nextPass q (monitorJobs q (chargeJobs q (cancelJobs q (completeJobs q outs (commitPass q s)))))

section
variable {s : State} {q : PartIx}

/-- A pass that is over and settled meets its boundary. -/
theorem exec_passBoundary_of_settled (outs : List JobOut) (hh : holdActive s = false) (hr : (s.part q).resetStep = .none)
    (hover : passOver s q = true) (hblock : passBlocked s q = false)
    (hvote : ∀ j ∈ (s.part q).jobs.filter (·.inPass), j.voting = false)
    (hkeep : ∀ j ∈ (s.part q).jobs.filter (·.inPass), j.cancelReq = false →
      passSettled s q j = true ∧ cutMember s q j = false) :
    exec (.passBoundary q outs) s = .next (boundarySteps q outs s) := by
  set ms := (s.part q).jobs.filter (·.inPass) with hms
  have hvoting : ms.any (·.voting) = false := List.any_eq_false.2 fun j hj => by simp [hvote j hj]
  have hmember : ∀ j ∈ ms.filter (fun j => !j.cancelReq), passSettled s q j = true ∧ cutMember s q j = false := fun j hj => by
    obtain ⟨hin, hc⟩ := List.mem_filter.1 hj
    exact hkeep j hin (by simpa using hc)
  have hsettled : ((ms.filter fun j => !j.cancelReq).any fun j => !j.passFailed && !passSettled s q j) = false :=
    List.any_eq_false.2 fun j hj => by simp [(hmember j hj).1]
  have hcut : (ms.filter fun j => !j.cancelReq).any (cutMember s q) = false :=
    List.any_eq_false.2 fun j hj => by simp [(hmember j hj).2]
  change execPassBoundary q outs s = _
  unfold execPassBoundary
  dsimp only
  rw [← hms]
  simp only [hh, hr, hover, hblock, hvoting, hsettled, hcut, ne_eq, not_true_eq_false, decide_false, Bool.not_true, Bool.or_self,
    Bool.false_eq_true, if_false]
  rfl

/-- Behind the ends of jobs a boundary keeps memory, what the passes of each job come to, and the final status under `x`. -/
theorem passView_boundary_rest (q : PartIx) (u : State) {x : Option Word} (hx : ∀ j ∈ liveJobs u q, x ≠ some j.id) :
    passView (jobTrack x) q (nextPass q (monitorJobs q (chargeJobs q (cancelJobs q u)))) = passView (jobTrack x) q u := by
  rw [passView_nextPass, passView_track_of_core (memPlanView_monitorJobs q _), passView_track_of_core (memPlanView_chargeJobs q _),
    passView_cancelJobs q u hx]

/-- A boundary writes no memory, and every member that no CANCEL asks for has its pass committed. -/
theorem boundarySteps_commit (q : PartIx) (outs : List JobOut) (s : State) : (boundarySteps q outs s).mem = s.mem ∧
    ∀ j ∈ (s.part q).jobs, j.inPass = true → j.cancelReq = false →
      ∃ k ∈ ((boundarySteps q outs s).part q).jobs, jobTrack none k = jobTrack none (jobCommitted j) := by
  obtain ⟨hmem, -, hjobs⟩ := commitPass_leaves q s
  obtain ⟨hmem', hjobs'⟩ := completeJobs_leaves q (commitPass q s) outs
  obtain ⟨hrestMem, hrest⟩ := Prod.mk.inj (passView_boundary_rest q (completeJobs q outs (commitPass q s)) (x := none) (by simp))
  refine ⟨hrestMem.trans (hmem'.trans hmem), fun j hj hin hc => ?_⟩
  refine exists_mem_of_map_eq ((Prod.mk.inj hrest).1.trans hjobs') ?_
  rw [hjobs]
  exact mem_updateWhere hj (by simp [hin, hc])

/-- A running job with no pass to go and no late error, whose output is complete in time, ends OK on its main model. -/
theorem completeJobs_of_inTime {u : State} {j : Job} {o : JobOut} (hj : jobById u q o.job = some j) (hfb : onFallback j = false)
    (hrun : jobRunning j = true) (hgo : j.toGo = 0) (hl : j.lates = []) (ht : o.time.toNat ≤ jdDeadline j.desc) :
    completeJobs q [o] u = endJob q j.id .ok o.bytes.toNat o.index.toNat true u := by
  simp [completeJobs, hj, hfb, hrun, hgo, hl, Nat.not_lt.2 ht]

/-- Once the jobs of a name have ended, no live job has it. -/
theorem ne_of_liveJobs_endJob {u : State} {id : Word} {bytes index : Nat} {post : Bool} :
    ∀ k ∈ liveJobs (endJob q id .ok bytes index post u) q, some id ≠ some k.id := by
  intro k hk hid
  obtain ⟨hmem, hlive⟩ := List.mem_filter.1 hk
  rw [endJob_jobs] at hmem
  obtain ⟨k', -, rfl⟩ := List.mem_map.1 hmem
  split at hid
  · rw [if_pos ‹_›] at hlive
    exact absurd hlive (by simp [jobLive, jobEnded])
  · exact absurd (beq_iff_eq.2 (Option.some.inj hid).symm) ‹_›

/-- A member whose last pass commits with its output complete in time ends OK on its main model, counted once. -/
theorem boundarySteps_ok {j : Job} {o : JobOut} (hj : jobById s q o.job = some j) (hin : j.inPass = true) (hc : j.cancelReq = false)
    (hfb : onFallback j = false) (hrun : jobRunning j = true) (hgo : j.toGo = 1) (hl : j.lates = [])
    (ht : o.time.toNat ≤ jdDeadline j.desc) :
    (∃ k ∈ ((boundarySteps q [o] s).part q).jobs, k.id = j.id ∧ k.desc = j.desc ∧ k.life = .ok) ∧
      ((boundarySteps q [o] s).part q).counts[2] = satAdd (s.part q).counts[2] 1 := by
  obtain ⟨hmem, hid⟩ := mem_of_jobById hj
  obtain ⟨-, hcounts, hjobs⟩ := commitPass_leaves q s
  have hpass : (j.inPass && !j.cancelReq) = true := by simp [hin, hc]
  have hfound : jobById (commitPass q s) q o.job = some (jobCommitted j) := by
    rw [jobById, hjobs]
    exact find?_updateWhere (p := fun j => j.inPass && !j.cancelReq) (f := jobCommitted) (fun _ => rfl) _ hj hpass
  have hends : completeJobs q [o] (commitPass q s) = endJob q o.job .ok o.bytes.toNat o.index.toNat true (commitPass q s) := by
    rw [completeJobs_of_inTime hfound hfb hrun (by simp [jobCommitted, hgo]) hl ht, ← hid]
    rfl
  have hsteps := passView_boundary_rest q _ (ne_of_liveJobs_endJob (u := commitPass q s) (q := q) (id := o.job)
    (bytes := o.bytes.toNat) (index := o.index.toNat) (post := true))
  rw [← hends] at hsteps
  obtain ⟨-, hview⟩ := Prod.mk.inj hsteps
  obtain ⟨hjobsView, hoks⟩ := Prod.mk.inj hview
  have hended : jobEnded .ok (jobCommitted j) ∈ ((completeJobs q [o] (commitPass q s)).part q).jobs := by
    rw [hends, endJob_jobs, hjobs]
    exact mem_updateWhere (mem_updateWhere hmem hpass) (beq_iff_eq.2 hid)
  obtain ⟨k, hk, htrack⟩ := exists_mem_of_map_eq hjobsView hended
  have hkid : k.id = j.id := congrArg JobCore.id htrack
  have hkfinal : (if some o.job = some k.id then finalLife k else none) = if some o.job = some j.id then some .ok else none :=
    congrArg JobCore.final htrack
  rw [hkid, hid, if_pos rfl, if_pos rfl] at hkfinal
  refine ⟨⟨k, hk, hkid, congrArg JobCore.desc htrack, life_of_finalLife hkfinal⟩, hoks.trans ?_⟩
  obtain ⟨-, -, hcounted⟩ := endJob_of_present .ok o.bytes.toNat o.index.toNat true hfound
  rw [hends, hcounted, hcounts]
  exact Vector.getElem_set_self _

end

/-! ### Votes (R417) -/

section
variable {s : State} {q : PartIx}

theorem unwritten_storeEpochs (pkg : ModelPkg) (u : State) : unwritten (storeEpochs q pkg u) = unwritten u :=
  foldl_keeps unwritten (fun v _ => foldl_keeps unwritten (fun _ _ => unwritten_routedWrite ..) _ v) _ u

/-- A member with a word of its vote set or not, as the vote's destination holds it. -/
def votedJob (s : State) (pkg : ModelPkg) (j : Job) : Job :=
  { j with
    voting := false
    voteRes := some (decide (natOf (ramRead s pkg.voteDst.toNat 4) ≠ 0), decide (natOf (ramRead s (pkg.voteDst.toNat + 4) 4) ≠ 0)) }

theorem exec_voteResult_of_over {job : Word} {j : Job} {r : Resident} {m : ModelDesc} (hj : jobById s q job = some j)
    (hv : j.voting = true) (ho : voteOver (s.part q) = true) (hm : findModel s q (jdModel j.desc) = some (r, m)) :
    exec (.voteResult q job) s = .next (storeEpochs q r.pkg (onJob q job (votedJob s r.pkg) s)) := by
  change execVoteResult q job s = _
  simp only [execVoteResult, hj, hv, ho, hm, Bool.not_true, Bool.or_self, Bool.false_eq_true, if_false]
  rfl

/-- The two words of a vote are kept at its member. -/
theorem voteResult_keeps_words {job : Word} {j : Job} {r : Resident} {m : ModelDesc} (hj : jobById s q job = some j)
    (hv : j.voting = true) (ho : voteOver (s.part q) = true) (hm : findModel s q (jdModel j.desc) = some (r, m)) :
    ∃ t, exec (.voteResult q job) s = .next t ∧ t.plots = s.plots ∧ votedJob s r.pkg j ∈ (t.part q).jobs := by
  refine ⟨_, exec_voteResult_of_over hj hv ho hm, ?_⟩
  obtain ⟨hplots, hparts⟩ := Prod.mk.inj (unwritten_storeEpochs (q := q) r.pkg (onJob q job (votedJob s r.pkg) s))
  obtain ⟨hin, hid⟩ := mem_of_jobById hj
  refine ⟨hplots, ?_⟩
  rw [State.part, hparts]
  change votedJob s r.pkg j ∈ ((onJobs q (fun j => j.id == job) (votedJob s r.pkg) s).part q).jobs
  rw [onJobs_jobs]
  exact mem_updateWhere hin (beq_iff_eq.2 hid)

end

/-! ### A pass that runs again (R270) -/

section
variable (q : PartIx) (s : State)

/-- What a pass that runs again makes of a job: one retry more for a member. -/
def rerunTrack (j : Job) : JobCore :=
  { jobTrack none j with retries := if j.inPass then j.retries + 1 else j.retries }

theorem jobsView_passAgain (u : State) :
    jobsView (jobTrack none) q (onJobs q (·.inPass) (passAgain u) s) = jobsView rerunTrack q s := by
  rw [jobsView, onJobs_jobs, updateWhere, List.map_map, jobsView]
  refine List.map_congr_left fun j _ => ?_
  rw [Function.comp_apply, rerunTrack]
  split <;> rfl

theorem jobsView_endWorn (ids : List Word) : jobsView (jobTrack none) q (endWorn q ids s) = jobsView (jobTrack none) q s := by
  refine foldl_keeps (jobsView (jobTrack none) q) (fun u id => ?_) ids s
  split
  · split
    · exact jobsView_endJob q u (by simp) .failed 0 0 true
    · rfl
  · rfl

theorem memPlanView_failedSwitch (id : Word) : memPlanView jobCore q (failedSwitch q s id) = memPlanView jobCore q s := by
  unfold failedSwitch
  split
  · split
    · exact memPlanView_switchJob q s id
    · rfl
  · rfl

theorem memPlanView_regroup : memPlanView jobCore q (regroup q s) = memPlanView jobCore q s := by
  unfold regroup
  split
  · exact memPlanView_dispatch q s
  · exact memPlanView_onJobs q s fun _ _ => by rfl

theorem jobsView_track_of_memPlanView {t : State} (h : memPlanView jobCore q t = memPlanView jobCore q s) :
    jobsView (jobTrack none) q t = jobsView (jobTrack none) q s :=
  jobsView_track_of_core (jobsView_of_planView (planView_of_memPlanView h))

/-- The members of a batch that is not cut, flushed and sent through their pass again. -/
def passRerun : State :=
  let ms := (s.part q).jobs.filter (·.inPass)
  let ids := ms.map (·.id)
  let s2 := ids.foldl (fun s id => rewindCuts q id s) (flushTasks (ms.flatMap (·.tasks)).dedup s)
  regroup q (ids.foldl (failedSwitch q) (endWorn q ids (onJobs q (·.inPass) (passAgain s) s2)))

theorem jobsView_passRerun : jobsView (jobTrack none) q (passRerun q s) = jobsView rerunTrack q s := by
  unfold passRerun
  dsimp only
  rw [jobsView_track_of_memPlanView q _ (memPlanView_regroup q _),
    jobsView_track_of_memPlanView q _ (foldl_keeps (memPlanView jobCore q) (fun u id => memPlanView_failedSwitch q u id) _ _),
    jobsView_endWorn, jobsView_passAgain]
  refine (jobsView_of_planView (planView_of_memPlanView (foldl_keeps (memPlanView rerunTrack q)
    (fun u id => memPlanView_rewindCuts rerunTrack q u q id) _ _))).trans ?_
  exact jobsView_of_planView (planView_flushTasks (fun _ _ => by rfl) q s _)

variable {q s}

theorem exec_failedPass_of_rerun {why : PassFail} (jobs : List Word) (hr : (s.part q).resetStep = .none) (hd : why ≠ .dataLost)
    (ho : why ≠ .otherStatus) (hne : (s.part q).jobs.filter (·.inPass) ≠ [])
    (hms : ∀ j ∈ (s.part q).jobs.filter (·.inPass), j.stopped = false ∧ j.voting = false ∧ cutMember s q j = false)
    (hf : (∃ j ∈ (s.part q).jobs.filter (·.inPass), j.passFailed = true) ∨ why = .haloProducer) :
    exec (.failedPass q why jobs) s = .next (passRerun q s) := by
  have hmay : mayFail s q why = true := by
    unfold mayFail
    rcases hf with hfailed | rfl
    · rw [List.any_eq_true.2 hfailed, Bool.or_true]
    · rfl
  have hempty : ((s.part q).jobs.filter (·.inPass)).isEmpty = false := List.isEmpty_eq_false_iff.2 hne
  have hfree : ((s.part q).jobs.filter (·.inPass)).any (fun j => j.stopped || j.voting) = false :=
    List.any_eq_false.2 fun j hj => by simp [(hms j hj).1, (hms j hj).2.1]
  have hcut : ((s.part q).jobs.filter (·.inPass)).any (cutMember s q) = false :=
    List.any_eq_false.2 fun j hj => by simp [(hms j hj).2.2]
  change execFailedPass q why jobs s = _
  simp only [execFailedPass, hr, hd, ho, hempty, hmay, hfree, hcut, ne_eq, not_true_eq_false, decide_false, Bool.not_true,
    Bool.or_self, Bool.false_eq_true, if_false]
  rfl

end

/-! ### Jobs whose data is lost (R270) -/

section
variable {q : PartIx}

/-- Ending jobs FAILED leaves every job, ended or not, and one already FAILED as such. -/
theorem mem_endJobs_failed (ids : List Word) {j : Job} {s : State} (hj : j ∈ (s.part q).jobs) :
    ∃ k ∈ ((ids.foldl (fun s id => endJob q id .failed 0 0 true s) s).part q).jobs, k.id = j.id ∧ k.desc = j.desc ∧
      (j.life = .failed ∨ j.id ∈ ids → k.life = .failed) := by
  induction ids generalizing j s with
  | nil => exact ⟨j, hj, rfl, rfl, fun h => by simpa using h⟩
  | cons id ids ih =>
    have hnext : (if j.id == id then jobEnded .failed j else j) ∈ ((endJob q id .failed 0 0 true s).part q).jobs := by
      rw [endJob_jobs]
      exact List.mem_map.2 ⟨j, hj, rfl⟩
    obtain ⟨k, hk, hkid, hkdesc, hlife⟩ := ih hnext
    refine ⟨k, hk, ?_, ?_, fun h => hlife ?_⟩
    · rw [hkid]
      split <;> rfl
    · rw [hkdesc]
      split <;> rfl
    · split
      · exact .inl rfl
      · rename_i hid
        refine h.imp_right fun hin => (List.mem_cons.1 hin).resolve_left fun he => hid (beq_iff_eq.2 he)

/-- The jobs that a loss of data ends. -/
def lostJobs (s : State) (q : PartIx) (jobs : List Word) : List Job :=
  (liveJobs s q).filter fun j => jobs.contains j.id && jobRunning j

theorem exec_failedPass_of_dataLost {s : State} (jobs : List Word) (hr : (s.part q).resetStep = .none) :
    ∃ ts, exec (.failedPass q .dataLost jobs) s = .next (dispatch q
      (((lostJobs s q jobs).map (·.id)).foldl (fun s id => endJob q id .failed 0 0 true s) (flushTasks ts s))) := by
  refine ⟨(((lostJobs s q jobs).filter fun j => !((s.part q).jobs.filter (·.inPass)).any fun k =>
    k.inPass && k.id != j.id && !jobs.contains k.id).flatMap (·.tasks)).dedup, ?_⟩
  change execFailedPass q .dataLost jobs s = _
  rw [List.foldl_map]
  simp only [execFailedPass, hr, ne_eq, not_true_eq_false, if_false, decide_true, Bool.true_or, if_true]
  rfl

/-- A running job whose data is lost ends FAILED. -/
theorem failedPass_dataLost {s : State} {jobs : List Word} {id : Word} {j : Job} (hr : (s.part q).resetStep = .none)
    (hid : id ∈ jobs) (hj : jobById s q id = some j) (hrun : jobRunning j = true) (hlive : jobLive j = true) :
    ∃ t, exec (.failedPass q .dataLost jobs) s = .next t ∧
      ∃ k ∈ (t.part q).jobs, k.id = id ∧ k.desc = j.desc ∧ k.life = .failed := by
  obtain ⟨hmem, rfl⟩ := mem_of_jobById hj
  have hhit : j ∈ lostJobs s q jobs := List.mem_filter.2 ⟨List.mem_filter.2 ⟨hmem, hlive⟩, by simp [hid, hrun]⟩
  obtain ⟨flushed, hexec⟩ := exec_failedPass_of_dataLost jobs hr
  have hflush := planView_flushTasks (V := jobCore) (fun _ _ => by rfl) q s flushed
  obtain ⟨j1, hj1, hcore1⟩ := exists_mem_of_map_eq (congrArg PlanView.jobs hflush) hmem
  obtain ⟨j2, hj2, hid2, hdesc2, hlife2⟩ := mem_endJobs_failed ((lostJobs s q jobs).map (·.id)) hj1
  have hid1 : j1.id = j.id := congrArg JobCore.id hcore1
  have hdesc1 : j1.desc = j.desc := congrArg JobCore.desc hcore1
  have hfailed : j2.life = .failed := hlife2 (.inr (hid1 ▸ List.mem_map_of_mem hhit))
  obtain ⟨k, hk, hcore⟩ := exists_mem_of_map_eq
    (congrArg PlanView.jobs (planView_of_memPlanView (memPlanView_dispatch q _))) hj2
  have hfinal : finalLife j2 = some .failed := by simp [finalLife, jobLive, hfailed]
  exact ⟨_, hexec, k, hk, (congrArg JobCore.id hcore).trans (hid2.trans hid1),
    (congrArg JobCore.desc hcore).trans (hdesc2.trans hdesc1), life_of_finalLife ((congrArg JobCore.final hcore).trans hfinal)⟩

end

/-! ### A long HOLD (R331) -/

/-- A HOLD of 2 ms is counted once and logged; what the jobs decide from it stands in the partitions. -/
theorem longHoldDecision_counts {s : State} (hh : holdActive s = true) (hd : s.fence.longDone = false)
    (ht : 2000000 ≤ (s.time - s.fence.holdAt).toNat) : ∃ t, exec .longHoldDecision s = .next t ∧ t.mem = s.mem ∧
      t.fence = { s.fence with longDone := true, holdLong := satAdd s.fence.holdLong 1 } ∧
      t.image.pendingLog.length = s.image.pendingLog.length + 1 := by
  have hexec : exec .longHoldDecision s = execLongHoldDecision s := rfl
  simp only [hexec, execLongHoldDecision, hh, hd, Nat.not_lt.2 ht, decide_false, Bool.not_true, Bool.or_self, Bool.false_eq_true,
    if_false]
  refine ⟨_, rfl, foldl_keeps State.mem (fun _ _ => by rfl) _ _, foldl_keeps State.fence (fun _ _ => by rfl) _ _, ?_⟩
  rw [forAll, foldl_keeps State.image fun _ _ => by rfl]
  exact queueLog_pendingLog ..

/-- Settles O39: boundaries, votes, failed passes and long HOLDs, each by its law above. Entries 58, 62 and 63 of the assumption
log say what a batch that repeats a pass, the conditions of a boundary and the record of a long HOLD are in the model. -/
theorem passesEnd : Obligations.PassesEnd := by
  refine ⟨fun s q outs hh hr hover hblock hvote hkeep => ?_, fun s q job j r m hj hv ho hm => ?_,
    fun s q why jobs hr => ⟨fun hd ho hne hms hf => ?_, fun hwhy id j hid hj hrun hlive => ?_⟩,
    fun s hh hd ht => longHoldDecision_counts hh hd ht⟩
  · obtain ⟨hmem, hcommit⟩ := boundarySteps_commit q outs s
    refine ⟨_, exec_passBoundary_of_settled outs hh hr hover hblock hvote fun j hj hc => ?_, hmem, fun j hj hc => ?_, ?_⟩
    · obtain ⟨hsettled, hcut, -⟩ := hkeep j hj hc
      exact ⟨hsettled, hcut⟩
    · obtain ⟨hin, hpass⟩ := List.mem_filter.1 hj
      obtain ⟨k, hk, htrack⟩ := hcommit j hin hpass hc
      exact ⟨k, hk, congrArg JobCore.id htrack, congrArg JobCore.desc htrack, congrArg JobCore.mainPasses htrack,
        congrArg JobCore.fbPasses htrack⟩
    · rintro j o hj hin hc hfb hrun hgo hl rfl ht
      exact boundarySteps_ok hj (List.mem_filter.1 hin).2 hc hfb hrun hgo hl ht
  · obtain ⟨t, ht, hplots, hin⟩ := voteResult_keeps_words hj hv ho hm
    exact ⟨t, ht, hplots, _, hin, rfl⟩
  · refine ⟨_, exec_failedPass_of_rerun jobs hr hd ho hne hms hf, fun j hj => ?_⟩
    obtain ⟨hin, hpass⟩ := List.mem_filter.1 hj
    obtain ⟨k, hk, htrack⟩ := exists_mem_of_map_eq (jobsView_passRerun q s) hin
    exact ⟨k, hk, congrArg JobCore.id htrack, congrArg JobCore.desc htrack,
      (congrArg JobCore.retries htrack).trans (if_pos hpass)⟩
  · subst hwhy
    exact failedPass_dataLost hr hid hj hrun hlive

end Sys2Proof.Machine
end

section
/-! Epoch advances and the completion rings: the next COUNT at every check point, the acknowledgement, and what the Almanac does
with the oldest record (R270, R281, R283, R284, R290, R418). -/

namespace Sys2Proof.Machine

open Host

/-! ### Epoch slots of the beds (R281) -/

section
variable (q : PartIx) (slot : BitVec 8) (e : BitVec 25) (s : State)

theorem writeSlot_plots : (writeSlot q slot e s).plots = s.plots :=
  (foldl_keeps State.plots (fun _ _ => by rfl) _ _).trans (foldl_keeps State.plots (fun _ _ => by rfl) _ _)

/-- An entry written in some beds stands in each of them. -/
theorem bedEpoch_forAll_tabSet {k : Nat} {b : BedIx} (bs : List BedIx) {u : State} (h : b ∈ bs ∨ bedEpoch u b k = e) :
    bedEpoch (forAll bs (fun s b => s.onBed b fun x => { x with epochs := tabSet 0 x.epochs k e }) u) b k = e := by
  unfold forAll
  induction bs generalizing u with
  | nil => exact h.resolve_left (List.not_mem_nil)
  | cons a bs ih =>
    refine ih ?_
    have hone : bedEpoch (u.onBed a fun x => { x with epochs := tabSet 0 x.epochs k e }) b k =
        if b = a then e else bedEpoch u b k := by
      rw [bedEpoch, State.onBed_bed_if]
      split
      · rw [tabGet_set, if_pos rfl]
      · rfl
    rw [hone]
    by_cases hab : b = a
    · exact .inr (if_pos hab)
    · rw [if_neg hab]
      exact h.imp_left fun hin => (List.mem_cons.1 hin).resolve_left hab

theorem bedEpoch_writeSlot {b : BedIx} (hb : b ∈ bedsOf s q) : bedEpoch (writeSlot q slot e s) b slot.toNat = e :=
  bedEpoch_forAll_tabSet e (bedsOf s q) (.inl hb)

theorem slotEntry_valid_toNat (c : BitVec 24) : (slotEntry true c).toNat = 2 ^ 24 + c.toNat := by
  have hc := c.isLt
  simp only [slotEntry, BitVec.toNat_ofNat, Bool.toNat_true]
  omega

end

section
variable {s : State} {q : PartIx}

theorem bedsOf_onJob (id : Word) (f : Job → Job) : bedsOf (onJob q id f s) q = bedsOf s q := by
  simp only [bedsOf, onJob, State.onPart_part]

/-- The job that holds a slot is among the jobs of its partition. -/
theorem mem_of_jobInSlot {slot : Nat} {j : Job} (h : jobInSlot s q slot = some j) : j ∈ (s.part q).jobs :=
  (List.mem_filter.1 (List.mem_of_find?_eq_some h)).1

/-- A job changed under its own name stands changed among the jobs. -/
theorem mem_onJob {j : Job} (hj : j ∈ (s.part q).jobs) (f : Job → Job) : f j ∈ ((onJob q j.id f s).part q).jobs := by
  change f j ∈ ((onJobs q (fun k => k.id == j.id) f s).part q).jobs
  rw [onJobs_jobs]
  exact mem_updateWhere hj (beq_self_eq_true _)

/-! ### EPOCH_ADVANCE (R283) -/

/-- A job under a COUNT that not every check point has acknowledged yet. -/
def jobAdvanced (c : BitVec 24) (j : Job) : Job := { j with epoch := c, advanced := true }

/-- A drained job's next COUNT is written for its slot. -/
theorem exec_epochAdvance_of_drained {slot : BitVec 8} {j : Job} (hj : jobInSlot s q slot.toNat = some j) (hs : j.stopped = true)
    (ha : j.advanced = false) (ht : tasksStopped s j = true) (hr : recordsDrained s q slot.toNat = true) :
    exec (.epochAdvance q slot) s = .next (writeSlot q slot (slotEntry true (nextCount j.epoch))
      (onJob q j.id (jobAdvanced (nextCount j.epoch)) s)) := by
  change execEpochAdvance q slot s = _
  simp only [execEpochAdvance, hj, hs, ha, ht, hr, Bool.not_false, Bool.and_self, if_true]
  rfl

/-! ### EPOCH_ACKNOWLEDGED (R283, R290) -/

/-- A job that may start again. -/
def jobAcknowledged (j : Job) : Job := { j with stopped := false, advanced := false }

/-- A pass that takes plots again changes the tasks of its members. -/
theorem memPlanView_rebindPass {β : Type} {V : Job → β} (hV : ∀ j tasks watch, V { j with tasks := tasks, watchAt := watch } = V j)
    (u : State) : memPlanView V q (rebindPass q u) = memPlanView V q u := by
  unfold rebindPass
  split
  · rfl
  · split
    · exact memPlanView_takePlots V q u _
    · dsimp only
      rw [memPlanView_countExec, memPlanView_onJobs q _ fun j _ => hV j _ _, memPlanView_seedNew, memPlanView_takePlots]

/-- The job may start again, whether or not its pass takes plots again. -/
theorem memPlanView_epochDone {β : Type} {V : Job → β} (hV : ∀ j tasks watch, V { j with tasks := tasks, watchAt := watch } = V j)
    (id : Word) : memPlanView V q (epochDone q id s) = memPlanView V q (onJob q id jobAcknowledged s) := by
  unfold epochDone
  dsimp only
  split
  · exact memPlanView_rebindPass hV _
  · rfl

theorem exec_epochAcknowledged_of_advanced {slot : BitVec 8} {j : Job} (hj : jobInSlot s q slot.toNat = some j)
    (ha : j.advanced = true) (hr : (s.part q).resetStep ≠ .draining) :
    exec (.epochAcknowledged q slot) s = .next (epochDone q j.id s) := by
  change execEpochAcknowledged q slot s = _
  simp only [execEpochAcknowledged, if_neg hr, hj, ha, if_true]

/-- What the acknowledgement decides of a job: which one it is, and whether it is still held back. -/
def heldBack (j : Job) : Word × BitVec 1024 × Bool × Bool := (j.id, j.desc, j.stopped, j.advanced)

/-! ### One record (R284) -/

theorem jobInSlot_congr {t : State} (h : (t.part q).jobs = (s.part q).jobs) (slot : Nat) : jobInSlot t q slot = jobInSlot s q slot := by
  rw [jobInSlot, liveJobs, h, jobInSlot, liveJobs]

theorem recordJob_congr {t : State} (h : (t.part q).jobs = (s.part q).jobs) (epoch : Word) :
    recordJob t q epoch = recordJob s q epoch := by
  rw [recordJob, jobInSlot_congr h, recordJob]

theorem mem_of_recordJob {epoch : Word} {j : Job} (h : recordJob s q epoch = some j) : j ∈ (s.part q).jobs :=
  mem_of_jobInSlot (Option.filter_eq_some_iff.1 h).1

section
variable {epoch : Word} {st : Nat} {r : Option (BitVec 256)} (he : epoch ≠ 0xFFFFFFFF)
include he

theorem drainOne_of_stale (h : recordJob s q epoch = none) : drainOne q epoch st r s = countExec q 3 1 s := by
  simp only [drainOne, if_neg he, h]

theorem drainOne_of_current {j : Job} (h : recordJob s q epoch = some j) : drainOne q epoch st r s = takeRecord q j st r s := by
  simp only [drainOne, if_neg he, h]

end

theorem takeRecord_ok (j : Job) (r : Option (BitVec 256)) : takeRecord q j 0x00 r s = s := if_pos rfl

/-- A flushed command of a stopped job is kept. -/
theorem takeRecord_flushed_of_stopped {j : Job} (hs : j.stopped = true) (x : BitVec 256) :
    takeRecord q j 0x0D (some x) s = onJob q j.id (fun j => { j with flushed := j.flushed ++ [x] }) s := by
  simp [takeRecord, stOk, stFlushed, hs]

/-- The statuses that a pass is run again for. -/
theorem takeRecord_of_retryable {j : Job} {st : Nat} (r : Option (BitVec 256)) (h : retryable st = true) : takeRecord q j st r s =
    onJobs q (fun k => k.id == j.id || (k.inPass && j.inPass)) (fun k => { k with passFailed := true }) s := by
  have hne : ∀ x, retryable x = false → st ≠ x := by
    rintro x hx rfl
    rw [h] at hx
    exact absurd hx (by simp)
  unfold takeRecord
  rw [if_neg (hne _ (by decide)), if_neg (hne _ (by decide)), h, Bool.true_or, if_pos rfl]

/-! ### COMPLETION_RING_DRAIN (R284) -/

/-- What taking a record of an epoch out of a ring does, where `u` is the state without the record: one of a stale epoch is
counted, one without a failure changes nothing else, and a failure that may be retried fails the pass. -/
def RecordTaken (s : State) (q : PartIx) (epoch : Word) (r : Ring) (st : Nat) (u : State) : Prop :=
  (recordJob s q epoch = none → exec (.completionRingDrain r) s = .next (u.onPart q fun x => { x with
    execs := x.execs.set 3 (satAdd x.execs[3] 1) })) ∧
  ∀ j, recordJob s q epoch = some j → (st = 0 → exec (.completionRingDrain r) s = .next u) ∧
    (st = 0x09 ∨ st = 0x0A ∨ st = 0x0E ∨ st = 0x10 ∨ st = 0x11 → ∃ t, exec (.completionRingDrain r) s = .next t ∧ t.mem = s.mem ∧
      ∃ k ∈ (t.part q).jobs, k = { j with passFailed := true })

theorem recordTaken_of_drainOne {epoch : Word} {r : Ring} {st : Nat} {x : Option (BitVec 256)} {u : State} (he : epoch ≠ 0xFFFFFFFF)
    (hexec : exec (.completionRingDrain r) s = .next (drainOne q epoch st x u)) (hjobs : (u.part q).jobs = (s.part q).jobs)
    (hmem : u.mem = s.mem) : RecordTaken s q epoch r st u := by
  rw [RecordTaken, hexec, ← recordJob_congr hjobs]
  refine ⟨fun hnone => ?_, fun j hj => ⟨?_, fun hst => ?_⟩⟩
  · rw [drainOne_of_stale he hnone]
    rfl
  · rintro rfl
    rw [drainOne_of_current he hj, takeRecord_ok]
  · have hretry : retryable st = true := by
      rcases hst with rfl | rfl | rfl | rfl | rfl <;> decide
    rw [drainOne_of_current he hj, takeRecord_of_retryable x hretry]
    refine ⟨_, rfl, hmem, _, ?_, rfl⟩
    rw [onJobs_jobs]
    exact mem_updateWhere (f := fun k => { k with passFailed := true }) (mem_of_recordJob hj) (by simp)

theorem exec_completionRingDrain_bed {b : BedIx} {x : BitVec 256} {epoch : Word} {rest : List (BitVec 256 × Word)}
    (h : (s.bed b).ring = (x, epoch) :: rest) (hq : bedPart s b = some q) : exec (.completionRingDrain (.bed b)) s =
      .next (drainOne q epoch (recStatus x) (some x) (s.onBed b fun y => { y with ring := rest })) := by
  change execCompletionRingDrain (.bed b) s = _
  simp only [execCompletionRingDrain, h, hq]

theorem exec_completionRingDrain_carrier {x : BitVec 128} {epoch : Word} {rest : List (BitVec 128 × Word)}
    (h : (s.part q).carrierRing = (x, epoch) :: rest) : exec (.completionRingDrain (.carrier q)) s =
      .next (drainOne q epoch (recStatus16 x) none (s.onPart q fun y => { y with carrierRing := rest })) := by
  change execCompletionRingDrain (.carrier q) s = _
  simp only [execCompletionRingDrain, h]

theorem exec_completionRingDrain_fabric {x : BitVec 128} {epoch : Word} {rest : List (BitVec 128 × Word)}
    (h : (s.part q).fabricRing = (x, epoch) :: rest) : exec (.completionRingDrain (.fabric q)) s =
      .next (drainOne q epoch (recStatus16 x) none (s.onPart q fun y => { y with fabricRing := rest })) := by
  change execCompletionRingDrain (.fabric q) s = _
  simp only [execCompletionRingDrain, h]

end

/-- Settles O37: the advance and its acknowledgement each by its law above, and the three rings by the one law of a record. -/
theorem epochsAndRecords : Obligations.EpochsAndRecords := by
  refine ⟨fun s q slot j hj => ⟨fun hs ha ht hr => ?_, fun ha hr => ?_⟩, fun s q epoch he => ⟨fun b x rest hring hq => ⟨?_, ?_⟩,
    fun x rest hring => ?_, fun x rest hring => ?_⟩⟩
  · obtain ⟨hmem, -⟩ := writeSlot_leaves q slot (slotEntry true (nextCount j.epoch))
      (onJob q j.id (jobAdvanced (nextCount j.epoch)) s)
    refine ⟨_, exec_epochAdvance_of_drained hj hs ha ht hr, hmem, writeSlot_plots .., fun k => ?_, fun b hb => ?_,
      jobAdvanced (nextCount j.epoch) j, ?_, rfl⟩
    · rw [cisEpoch_writeSlot]
      exact slotEntry_valid_toNat _
    · rw [bedEpoch_writeSlot q slot _ _ ((bedsOf_onJob ..).symm ▸ hb)]
      exact slotEntry_valid_toNat _
    · rw [writeSlot_part]
      exact mem_onJob (mem_of_jobInSlot hj) _
  · have hview := memPlanView_epochDone (V := heldBack) (fun _ _ _ => rfl) (s := s) (q := q) j.id
    obtain ⟨k, hk, hheld⟩ := exists_mem_of_map_eq (congrArg PlanView.jobs (planView_of_memPlanView hview))
      (mem_onJob (mem_of_jobInSlot hj) jobAcknowledged)
    simp only [heldBack, jobAcknowledged, Prod.mk.injEq] at hheld
    obtain ⟨hid, hdesc, hstopped, hadvanced⟩ := hheld
    exact ⟨_, exec_epochAcknowledged_of_advanced hj ha hr, congrArg Prod.fst hview, k, hk, hid, hdesc, hstopped, hadvanced⟩
  · exact recordTaken_of_drainOne he (exec_completionRingDrain_bed hring hq) rfl rfl
  · intro j hj hst hs
    have htook := drainOne_of_current (s := s.onBed b fun y => { y with ring := rest }) (st := 0x0D) (r := some x) he hj
    rw [exec_completionRingDrain_bed hring hq, hst, htook, takeRecord_flushed_of_stopped hs]
    exact ⟨_, rfl, _, mem_onJob (s := s.onBed b _) (mem_of_recordJob hj) _, rfl⟩
  · exact recordTaken_of_drainOne he (exec_completionRingDrain_carrier hring) (by rw [State.onPart_part]) rfl
  · exact recordTaken_of_drainOne he (exec_completionRingDrain_fabric hring) (by rw [State.onPart_part]) rfl

end Sys2Proof.Machine
end

section
/-! What a read and a write of device memory keep of the state, for any view that cisterns and memories do not change, and the bytes
of a write that cisterns accept in T2 (R210, R214, R250, R282). -/

namespace Sys2Proof.Machine

open Host

section
variable {γ : Type} {g : State → γ} (hcis : ∀ c f u, g (State.onCis u c f) = g u) (hmem : ∀ f u, g (State.onMem u f) = g u)
include hcis

/-! ### Reads and writes beside the memories -/

theorem translate_keeps (q : PartIx) (a : Nat) (s : State) : g (translate q a s).1 = g s := by
  unfold translate xltTouch
  dsimp only
  split <;> simp only [hcis]

include hmem

theorem cwReadFx_keeps (sector j tau : Nat) (flips : Flips) (s : State) : g (cwReadFx sector j tau flips s).1 = g s := by
  have hce : ∀ u, g (countCe sector u) = g u := fun u => by simp only [countCe, hcis]
  unfold cwReadFx
  split
  · rfl
  · exact (hmem ..).trans (hce s)
  · simp only [countChk, hmem, hcis]
  · exact hce s
  · simp only [countRate, hcis]
  · simp only [countUe, hcis]

theorem sectorRead_keeps (sector tau : Nat) (flips : Flips) (js : List Nat) (s : State) : g (sectorRead sector tau flips s js).1 = g s := by
  induction js generalizing s with
  | nil => rfl
  | cons j js ih =>
    have hcw := cwReadFx_keeps hcis hmem sector j tau flips s
    rw [sectorRead]
    split
    · exact keeps_of_pair g hcw ‹_›
    · have hrest := (ih _).trans (keeps_of_pair g hcw ‹_›)
      split <;> exact keeps_of_pair g hrest ‹_›

theorem t3ReadPieces_keeps (q : PartIx) (flips : Flips) (ps : List (Nat × Nat)) (s : State) :
    g (t3ReadPieces q flips s ps).1 = g s := by
  induction ps generalizing s with
  | nil => rfl
  | cons x ps ih =>
    have htr := translate_keeps hcis q x.1 s
    rw [t3ReadPieces]
    split
    · exact keeps_of_pair g htr ‹_›
    · rename_i s1 ph hph
      have hread : ∀ js, g (sectorRead (ph / 256) 0 flips s1 js).1 = g s := fun js =>
        (sectorRead_keeps hcis hmem _ _ _ js s1).trans (keeps_of_pair g htr hph)
      split
      · exact keeps_of_pair g (hread _) ‹_›
      · have hrest := (ih _).trans (keeps_of_pair g (hread _) ‹_›)
        split <;> exact keeps_of_pair g hrest ‹_›

/-- An uncompressed read of any tier. -/
theorem devRead_keeps (q : PartIx) (a n : Nat) (flips : Flips) (s : State) : g (devRead q a n 0 flips s).1 = g s := by
  unfold devRead
  split
  · exact t3ReadPieces_keeps hcis hmem ..
  · rfl
  · rfl

theorem t3WritePieces_keeps (q : PartIx) (base : Nat) (bs : List Byte) (ps : List (Nat × Nat)) (s : State) :
    g (t3WritePieces q base bs s ps).1 = g s := by
  induction ps generalizing s with
  | nil => rfl
  | cons x ps ih =>
    have htr := translate_keeps hcis q x.1 s
    rw [t3WritePieces]
    split
    · exact keeps_of_pair g htr ‹_›
    · exact (ih _).trans ((hmem ..).trans (keeps_of_pair g htr ‹_›))

variable {epoch : Nat} (hbed : ∀ b n u, g (bedCheck b epoch n u).1 = g u) (hperf : ∀ c r k n u, g (cisPerfAdd c r k n u) = g u)
include hbed hperf

theorem devWritePiece_keeps (q : PartIx) (a : Nat) (bs : List Byte) (s : State) : g (devWritePiece q a 0 epoch bs s).1 = g s := by
  have hcheck : ∀ c, g (cisCheck c q epoch bs.length s).1 = g s := fun c => by simp only [cisCheck, hcis]
  have hram : ∀ u, g (ramWrite a bs u) = g u := fun u => by simp only [ramWrite, hmem]
  unfold devWritePiece
  split
  · exact hram s
  · split
    · exact (hram _).trans (keeps_of_pair g (hbed ..) ‹_›)
    · exact keeps_of_pair g (hbed ..) ‹_›
  · split
    · exact (hram _).trans (keeps_of_pair g (hcheck _) ‹_›)
    · exact keeps_of_pair g (hcheck _) ‹_›
  · split
    · rw [if_pos rfl, t3Write, t3WritePieces_keeps hcis hmem, hperf]
      exact keeps_of_pair g (hcheck _) ‹_›
    · exact keeps_of_pair g (hcheck _) ‹_›
  · rfl

/-- An uncompressed write of any tier. -/
theorem devWrite_keeps (q : PartIx) (a : Nat) (bs : List Byte) (s : State) : g (devWrite q a 0 epoch bs s).1 = g s := by
  unfold devWrite
  induction pieces pageBytes a bs.length generalizing s with
  | nil => rfl
  | cons x ps ih =>
    have hpiece := devWritePiece_keeps hcis hmem hbed hperf q x.1 ((bs.drop (x.1 - a)).take x.2) s
    rw [devWritePieces]
    split
    · exact keeps_of_pair g hpiece ‹_›
    · exact (ih _).trans (keeps_of_pair g hpiece ‹_›)

end

/-! ### The epoch tables of the beds -/

/-- The epoch tables of all beds. -/
def bedTables (s : State) : Vector (Tab (BitVec 25)) 16 := s.beds.map (·.epochs)

theorem bedTables_onBed {s : State} {b : BedIx} {f : Bed → Bed} (hf : (f (s.bed b)).epochs = (s.bed b).epochs) :
    bedTables (s.onBed b f) = bedTables s := by
  have hset : bedTables (s.onBed b f) = (bedTables s).set b.val (f (s.bed b)).epochs b.isLt := Vector.map_set
  have hself : (s.bed b).epochs = (bedTables s)[b.val] := (Vector.getElem_map _ _).symm
  rw [hset, hf, hself, Vector.set_getElem_self]

/-- A write of device memory counts at the beds what they drop, and nothing else. -/
theorem bedTables_devWrite (q : PartIx) (a epoch : Nat) (bs : List Byte) (s : State) :
    bedTables (devWrite q a 0 epoch bs s).1 = bedTables s := by
  refine devWrite_keeps (fun _ _ _ => rfl) (fun _ _ => rfl) (fun _ _ _ => bedTables_onBed rfl) (fun c r k n u => ?_) q a bs s
  obtain ⟨-, hbeds, -⟩ := cisPerfAdd_leaves c r k n u
  rw [bedTables, hbeds, bedTables]

/-! ### Bytes written in T2 (R210, R282) -/

section
variable {q : PartIx} {epoch : Nat}

/-- The cistern of a T2 address accepts a write of the partition under the epoch. -/
def AcceptedT2 (s : State) (q : PartIx) (epoch x : Nat) : Prop :=
  tierOf s x = .t2 ∧ epochCheck (cisEpoch s (Fin.ofNat 2 ((x - t2Base) / 0x10000000)) q) epoch = .accept

theorem devWritePiece_of_acceptedT2 {s : State} {a : Nat} (h : AcceptedT2 s q epoch a) (rate : Nat) (bs : List Byte) :
    devWritePiece q a rate epoch bs s = (ramWrite a bs s, none) := by
  obtain ⟨htier, hcheck⟩ := h
  simp only [devWritePiece, htier, cisCheck_accepted _ hcheck]

/-- A write of part of a list of bytes puts each of them at its place. -/
theorem ramByte_ramWrite_part {base a k : Nat} {bs : List Byte} (s : State) (hbase : base ≤ a) (hfit : a - base + k ≤ bs.length)
    (x : Nat) : ramByte (ramWrite a ((bs.drop (a - base)).take k) s) x =
      if a ≤ x ∧ x < a + k then (bs[x - base]?).getD 0 else ramByte s x := by
  have hlen : ((bs.drop (a - base)).take k).length = k := by
    rw [List.length_take, List.length_drop]
    omega
  rw [ramByte_ramWrite, hlen]
  refine if_ctx_congr Iff.rfl (fun hx => ?_) fun _ => rfl
  rw [List.getElem?_take, if_pos (by omega), List.getElem?_drop, show a - base + (x - a) = x - base by omega]

/-- Accepted pieces stand byte for byte where they were written, and no other byte changes. -/
theorem devWritePieces_acceptedT2 (rate base : Nat) (bs : List Byte) (fuel a n : Nat) (s : State) (hbase : base ≤ a)
    (hlen : a - base + n = bs.length) (hfuel : n = 0 ∨ n + a % 65536 ≤ fuel * 65536)
    (hacc : ∀ x, a ≤ x → x < a + n → AcceptedT2 s q epoch x) (x : Nat) :
    ramByte (devWritePieces q base rate epoch bs s (cutAt 65536 fuel a n)).1 x =
      if a ≤ x ∧ x < a + n then (bs[x - base]?).getD 0 else ramByte s x := by
  induction fuel generalizing a n s with
  | zero => exact (if_neg (by omega)).symm
  | succ fuel ih =>
    rw [cutAt]
    split
    · exact (if_neg (by omega)).symm
    · set k := min n (65536 - a % 65536) with hk
      simp only [devWritePieces, devWritePiece_of_acceptedT2 (hacc a (by omega) (by omega))]
      rw [ih (a + k) (n - k) (ramWrite a ((bs.drop (a - base)).take k) s) (by omega) (by omega) (by omega) fun y h1 h2 =>
          hacc y (by omega) (by omega),
        ramByte_ramWrite_part s hbase (by omega)]
      by_cases hx : a + k ≤ x ∧ x < a + n
      · rw [if_pos (by omega), if_pos (by omega)]
      · rw [if_neg (by omega)]
        exact if_congr (by omega) rfl rfl

theorem ramByte_devWrite_acceptedT2 {a : Nat} {bs : List Byte} {s : State}
    (hacc : ∀ x, a ≤ x → x < a + bs.length → AcceptedT2 s q epoch x) (rate x : Nat) : ramByte (devWrite q a rate epoch bs s).1 x =
      if a ≤ x ∧ x < a + bs.length then (bs[x - a]?).getD 0 else ramByte s x :=
  devWritePieces_acceptedT2 rate a bs (bs.length / 65536 + 2) a bs.length s le_rfl (by omega) (by omega) hacc x

end

end Sys2Proof.Machine
end

section
/-! Jobs that leave their plots and return: heeling in, its completion, the resume and the restore (R286 to R288, R290). -/

namespace Sys2Proof.Machine

open Host

/-! ### Dispatch through any view of a job (R278) -/

section
variable {β : Type} {V : Job → β} (hlife : ∀ j l, V { j with life := l } = V j)
  (hjoins : ∀ time tasks watch shift j, V (jobJoins time tasks watch shift j) = V j) (q : PartIx) (s : State)
include hlife hjoins

theorem memPlanView_startPass_of_keeps : memPlanView V q (startPass q s) = memPlanView V q s := by
  have hbegun : memPlanView V q (onJobs q (fun j => jdKind j.desc = 1 && j.life = .adm) (fun j => { j with life := .running }) s) =
      memPlanView V q s := memPlanView_onJobs q s fun j _ => hlife j .running
  unfold startPass
  dsimp only
  split
  · exact hbegun
  · rw [memPlanView_planTargets, memPlanView_countExec, memPlanView_onJobs q _ fun j _ => hjoins .., memPlanView_seedNew,
      memPlanView_takePlots, memPlanView_swapPackage, hbegun]

theorem memPlanView_dispatch_of_keeps : memPlanView V q (dispatch q s) = memPlanView V q s := by
  unfold dispatch
  split
  · exact memPlanView_startPass_of_keeps hlife hjoins q s
  · rfl

end

section
variable {s : State} {q : PartIx} {job : Word} {j : Job}

/-- The job that a name finds, changed under that name. -/
theorem mem_onJob_of_jobById (hj : jobById s q job = some j) (f : Job → Job) : f j ∈ ((onJob q job f s).part q).jobs := by
  obtain ⟨hin, rfl⟩ := mem_of_jobById hj
  exact mem_onJob hin f

/-! ### HEEL_IN (R286, R287) -/

/-- A job whose contexts are on their way to their places. -/
def jobHeeling (b : Bool) (m : Word) (ctx : List TaskCtx) (j : Job) : Job := { j with away := .heeling b m, ctx := ctx }

/-- The regions of some contexts are copied out of their plots. -/
def ctxCopied (q : PartIx) (epoch : Nat) (ctx : List TaskCtx) (s : State) : State :=
  ctx.foldl (fun s c => copyOut q c.plot epoch c.regions s) s

/-- A view that no write of device memory changes. -/
theorem ctxCopied_keeps {γ : Type} (g : State → γ) {epoch : Nat} (hg : ∀ a bs u, g (devWrite q a 0 epoch bs u).1 = g u)
    (ctx : List TaskCtx) (u : State) : g (ctxCopied q epoch ctx u) = g u := by
  have hcopy : ∀ p rs v, g (copyOut q p epoch rs v) = g v := fun p rs v => foldl_keeps g (fun _ _ => hg ..) rs v
  exact foldl_keeps g (fun _ _ => hcopy ..) ctx u

theorem exec_heelIn_of_placed {b : Bool} {m : Word} {placed : List (Nat × DWord × Nat)} (hj : jobById s q job = some j)
    (ha : j.away = .stopping b m) (hs : j.stopped = false) (hp : j.inPass = false)
    (hplaced : placeContext s q (j.tasks.flatMap fun t => liveRegions s q j t.2) = some placed) :
    exec (.heelIn q job) s = .next (ctxCopied q (jobEpoch j) (cutContexts s q j j.tasks placed)
      (onJob q job (jobHeeling b m (cutContexts s q j j.tasks placed)) s)) := by
  change execHeelIn q job s = _
  simp only [execHeelIn, hj, ha, hs, hp, hplaced, Bool.or_self, Bool.false_eq_true, if_false]
  rfl

/-- The one region of a job's one task is the region of its one context. -/
theorem cutContexts_single {task : Nat} {p : PlotIx} {o n : Nat} {x : Nat × DWord × Nat} (ht : j.tasks = [(task, p)])
    (hr : liveRegions s q j p = [(o, n)]) : cutContexts s q j j.tasks [x] =
      [{ task := task, plot := p, rng := #v[0, 0, 0, 0], layer := Layer.reset, sems := [], regions := [x] }] := by
  simp [ht, cutContexts, hr]

/-- One check point serves a range of T2 whose ends lie at one cistern. -/
theorem acceptedT2_range {epoch a n : Nat} (htier : ∀ k < n, tierOf s (a + k) = .t2)
    (hacc : epochCheck (cisEpoch s (Fin.ofNat 2 ((a - t2Base) / 0x10000000)) q) epoch = .accept)
    (hends : (a - t2Base) / 0x10000000 = (a + n - 1 - t2Base) / 0x10000000) {x : Nat} (h1 : a ≤ x) (h2 : x < a + n) :
    AcceptedT2 s q epoch x := by
  have hlow : (a - t2Base) / 0x10000000 ≤ (x - t2Base) / 0x10000000 := Nat.div_le_div_right (by omega)
  have hhigh : (x - t2Base) / 0x10000000 ≤ (a + n - 1 - t2Base) / 0x10000000 := Nat.div_le_div_right (by omega)
  have hsame : (x - t2Base) / 0x10000000 = (a - t2Base) / 0x10000000 := le_antisymm (hhigh.trans hends.ge) hlow
  have hx : a + (x - a) = x := Nat.add_sub_cancel' h1
  refine ⟨hx ▸ htier (x - a) (by omega), ?_⟩
  rw [hsame]
  exact hacc

/-- Bytes of a scratchpad copied to an accepted range of T2 stand there as they stood in the scratchpad. -/
theorem ramByte_ctxCopied_single {epoch o n : Nat} {a : DWord} {c : TaskCtx} (hc : c.regions = [(o, a, n)]) (hs : Safe s)
    (hacc : ∀ x, a.toNat ≤ x → x < a.toNat + n → AcceptedT2 s q epoch x) {k : Nat} (hk : k < n) :
    ramByte (ctxCopied q epoch [c] s) (a.toNat + k) = ramByte s (t0Addr c.plot o + k) := by
  have hlen : (t0Read s c.plot o n).length = n := length_ramRead ..
  have hread : (t0Read s c.plot o n)[k]? = some (ramByte s (t0Addr c.plot o + k)) := by
    rw [t0Read, ramRead, tabRead_eq _ n ((Memory.wf_iff s.mem).1 hs).1]
    simp [hk, ramByte]
  simp only [ctxCopied, copyOut, hc, List.foldl_cons, List.foldl_nil]
  rw [ramByte_devWrite_acceptedT2 (by rwa [hlen]), hlen, if_pos (by omega), Nat.add_sub_cancel_left, hread, Option.getD_some]

/-! ### HEEL_IN_COMPLETE (R286, R287) -/

/-- A job that has left its plots now, with the state of each task's plot saved. -/
def jobHeeled (s : State) (b : Bool) (m : Word) (j : Job) : Job :=
  { j with away := .out b s.time m, tasks := [], ctx := j.ctx.map (saveTask s) }

/-- Where a job's tasks are. -/
def placeOf (j : Job) : Word × Away × List TaskCtx := (j.id, j.away, j.ctx)

theorem exec_heelInComplete_of_heeling {b : Bool} {m : Word} (hj : jobById s q job = some j) (ha : j.away = .heeling b m) :
    exec (.heelInComplete q job) s = .next (dispatch q (answerWaiting (waitsOn q job [0x03]) (ansDone 0 0)
      (onJob q job (jobHeeled s b m) s))) := by
  change execHeelInComplete q job s = _
  simp only [execHeelInComplete, hj, ha]
  rfl

/-- The job is out, with the state of each task's plot saved, whatever is dispatched on the free plots. -/
theorem heelInComplete_saves {b : Bool} {m : Word} (hj : jobById s q job = some j) (ha : j.away = .heeling b m) :
    ∃ t, exec (.heelInComplete q job) s = .next t ∧
      ∃ k ∈ (t.part q).jobs, placeOf k = (job, .out b s.time m, j.ctx.map (saveTask s)) := by
  have hview : memPlanView placeOf q (dispatch q (answerWaiting (waitsOn q job [0x03]) (ansDone 0 0)
      (onJob q job (jobHeeled s b m) s))) = memPlanView placeOf q (onJob q job (jobHeeled s b m) s) := by
    rw [memPlanView_dispatch_of_keeps (fun _ _ => by rfl) (fun _ _ _ _ _ => by rfl), memPlanView_answerWaiting]
  obtain ⟨k, hk, hplace⟩ := exists_mem_of_map_eq (congrArg PlanView.jobs (planView_of_memPlanView hview))
    (mem_onJob_of_jobById hj (jobHeeled s b m))
  obtain ⟨-, rfl⟩ := mem_of_jobById hj
  exact ⟨_, exec_heelInComplete_of_heeling hj ha, k, hk, hplace⟩

/-! ### VICTIM_RESUME (R288) -/

theorem jobs_eq_of_memPlanView {u v : State} (h : memPlanView id q u = memPlanView id q v) : (u.part q).jobs = (v.part q).jobs := by
  have hjobs := congrArg PlanView.jobs (planView_of_memPlanView h)
  simpa only [planView, List.map_id] using hjobs

/-- The binding that a group of jobs off their plots resumes on. -/
def resumeBinding (s : State) (q : PartIx) (j : Job) : List (Nat × PlotIx) :=
  bindingOn (groupTasks s q (resumeGroup s q j)) (freePlotsFor s q fun k => (resumeGroup s q j).any fun x => x.id == k.id)

/-- A job bound again. -/
def jobRebound (new : List (Nat × PlotIx)) (stopped : Bool) (j : Job) : Job :=
  { j with away := .restoring, tasks := new, stopped := stopped, advanced := false }

/-- How many tasks of the group resume on other plots than those that their contexts were saved from. -/
def resumeMoves (s : State) (q : PartIx) (j : Job) : Nat :=
  moved (((resumeGroup s q j).flatMap (·.ctx)).map fun c => (c.task, c.plot)) (resumeBinding s q j)

/-- The group of a job is bound again; migrations are counted and hold it back for an epoch advance. -/
def groupRebound (q : PartIx) (j : Job) (s : State) : State :=
  countExec q 1 (resumeMoves s q j) (onJobs q (fun x => (resumeGroup s q j).any fun y => y.id == x.id)
    (jobRebound (resumeBinding s q j) (resumeMoves s q j ≠ 0))
    (forAll ((resumeBinding s q j).map (·.2)) (fun s p => takePlot p s) (swapPackage q (activeModel j) s)))

theorem groupRebound_jobs : ((groupRebound q j s).part q).jobs =
    updateWhere (fun x => (resumeGroup s q j).any fun y => y.id == x.id)
      (jobRebound (resumeBinding s q j) (resumeMoves s q j ≠ 0)) (s.part q).jobs := by
  have htaken : memPlanView id q (forAll ((resumeBinding s q j).map (·.2)) (fun s p => takePlot p s) (swapPackage q (activeModel j) s)) =
      memPlanView id q s := (memPlanView_takePlots ..).trans (memPlanView_swapPackage ..)
  rw [groupRebound, jobs_eq_of_memPlanView (memPlanView_countExec ..), onJobs_jobs, jobs_eq_of_memPlanView htaken]

theorem exec_victimResume_of_first {since : DWord} {m : Word} (hj : jobById s q job = some j) (ha : j.away = .out false since m)
    (hf : firstInPlan s q job = true) (hi : plotsIdle s q = true)
    (hn : groupTasks s q (resumeGroup s q j) ≤ (resumeBinding s q j).length) : exec (.victimResume q job) s =
      .next ((resumeGroup s q j).foldl (fun s x => answerWaiting (waitsOn q x.id [0x04]) (ansDone 0 0) s) (groupRebound q j s)) := by
  have hfits : ¬ (resumeBinding s q j).length < groupTasks s q (resumeGroup s q j) := Nat.not_lt.2 hn
  change execVictimResume q job s = _
  simp only [execVictimResume, hj, ha, hf, hi, ← resumeBinding.eq_def, hfits, decide_false, Bool.not_true, Bool.or_self,
    Bool.false_eq_true, if_false]
  rfl

/-- A member of the group is restoring on its new plots; the answers given change no job. -/
theorem victimResume_rebinds {since : DWord} {m : Word} (hj : jobById s q job = some j) (ha : j.away = .out false since m)
    (hf : firstInPlan s q job = true) (hi : plotsIdle s q = true)
    (hn : groupTasks s q (resumeGroup s q j) ≤ (resumeBinding s q j).length) (hin : j ∈ resumeGroup s q j) :
    ∃ t, exec (.victimResume q job) s = .next t ∧
      jobRebound (resumeBinding s q j) (resumeMoves s q j ≠ 0) j ∈ (t.part q).jobs := by
  have hanswered := foldl_keeps (memPlanView id q) (f := fun s (x : Job) => answerWaiting (waitsOn q x.id [0x04]) (ansDone 0 0) s)
    (fun _ _ => memPlanView_answerWaiting ..) (resumeGroup s q j) (groupRebound q j s)
  obtain ⟨hmem, -⟩ := mem_of_jobById hj
  refine ⟨_, exec_victimResume_of_first hj ha hf hi hn, ?_⟩
  rw [jobs_eq_of_memPlanView hanswered, groupRebound_jobs]
  exact mem_updateWhere hmem (List.any_eq_true.2 ⟨j, hin, beq_self_eq_true _⟩)

/-! ### RESTORE_COMPLETE (R288) -/

/-- The jobs that are bound together with one, back on their plots. -/
def boundTogether (s : State) (q : PartIx) (j : Job) : List Job :=
  (liveJobs s q).filter fun x => x.away = .restoring && x.tasks = j.tasks

theorem copyIn_parts (p : PlotIx) (rs : List (Nat × DWord × Nat)) (u : State) : (copyIn q p rs u).1.parts = u.parts := by
  induction rs generalizing u with
  | nil => rfl
  | cons r rs ih =>
    have hread := devRead_keeps (g := State.parts) (fun _ _ _ => rfl) (fun _ _ => rfl) q r.2.1.toNat (roundUp r.2.2 64) [] u
    rw [copyIn]
    split
    · exact (ih _).trans (keeps_of_pair State.parts hread ‹_› :)
    · exact keeps_of_pair State.parts hread ‹_›

theorem restoreTasks_parts (new : List (Nat × PlotIx)) (ctx : List TaskCtx) (a : State × Bool) :
    (ctx.foldl (restoreTask new q) a).1.parts = a.1.parts := by
  have hone : ∀ b c, (restoreTask new q b c).1.parts = b.1.parts := fun b c => by
    unfold restoreTask
    split
    · rfl
    · exact copyIn_parts ..
  exact List.foldlRecOn (motive := fun b => b.1.parts = a.1.parts) _ _ rfl fun b hb c _ => (hone b c).trans hb

/-- A job back in its pass. -/
def jobRestored (ok : Bool) (watch : List (PlotIx × Nat)) (j : Job) : Job :=
  { j with away := .none, inPass := true, passFailed := j.passFailed || !ok, ctx := [], flushed := [], watchAt := watch }

/-- The contexts put back change no job; then the jobs bound together are in their pass again. -/
theorem exec_restoreComplete_of_idle (hj : jobById s q job = some j) (ha : j.away = .restoring)
    (hs : ∀ k ∈ (s.part q).jobs, k.away = .restoring → k.stopped = false) (hidle : ∀ t ∈ j.tasks, (s.plot t.2).mode = .idle) :
    ∃ t ok watch, exec (.restoreComplete q job) s = .next t ∧ (t.part q).jobs =
      updateWhere (fun x => (boundTogether s q j).any fun y => y.id == x.id) (jobRestored ok watch) (s.part q).jobs := by
  have hfree : (boundTogether s q j).any (·.stopped) = false := List.any_eq_false.2 fun k hk => by
    obtain ⟨hlive, htogether⟩ := List.mem_filter.1 hk
    obtain ⟨hmem, -⟩ := List.mem_filter.1 hlive
    obtain ⟨haway, -⟩ := Bool.and_eq_true_iff.1 htogether
    simp [hs k hmem (of_decide_eq_true haway)]
  have hplots : j.tasks.any (fun t => decide ((s.plot t.2).mode ≠ .idle)) = false :=
    List.any_eq_false.2 fun t ht => by simp [hidle t ht]
  obtain ⟨⟨u, ok⟩, hrestored⟩ : ∃ a, ((boundTogether s q j).flatMap (·.ctx)).foldl (restoreTask j.tasks q) (s, true) = a := ⟨_, rfl⟩
  have hparts : u.parts = s.parts := by
    have hkept := restoreTasks_parts (q := q) j.tasks ((boundTogether s q j).flatMap (·.ctx)) (s, true)
    rwa [hrestored] at hkept
  refine ⟨onJobs q (fun x => (boundTogether s q j).any fun y => y.id == x.id) (jobRestored ok (watchNow u j.tasks)) u, ok,
    watchNow u j.tasks, ?_, ?_⟩
  · change execRestoreComplete q job s = _
    simp only [execRestoreComplete, hj, ← boundTogether.eq_def, ha, hfree, hplots, hrestored, ne_eq, not_true_eq_false, decide_false,
      Bool.or_self, Bool.false_eq_true, if_false]
    rfl
  · rw [onJobs_jobs, State.part, hparts, ← State.part]

/-- A live job bound again is in its pass with no context left. -/
theorem restoreComplete_returns (hj : jobById s q job = some j) (ha : j.away = .restoring) (hlive : jobLive j = true)
    (hs : ∀ k ∈ (s.part q).jobs, k.away = .restoring → k.stopped = false) (hidle : ∀ t ∈ j.tasks, (s.plot t.2).mode = .idle) :
    ∃ t ok watch, exec (.restoreComplete q job) s = .next t ∧ jobRestored ok watch j ∈ (t.part q).jobs := by
  obtain ⟨t, ok, watch, hexec, hjobs⟩ := exec_restoreComplete_of_idle hj ha hs hidle
  obtain ⟨hmem, -⟩ := mem_of_jobById hj
  have htogether : j ∈ boundTogether s q j := List.mem_filter.2 ⟨List.mem_filter.2 ⟨hmem, hlive⟩, by simp [ha]⟩
  refine ⟨t, ok, watch, hexec, hjobs ▸ mem_updateWhere hmem ?_⟩
  exact List.any_eq_true.2 ⟨j, htogether, beq_self_eq_true _⟩

end

/-- Settles O38: each of the four events by its law above. That contexts take the first place that fits in T2 and that all semaphores
of the bed are saved (entry 60 of the assumption log), and that victims of one batch resume together (entry 59), are the model's. -/
theorem tasksLeaveAndReturn : Obligations.TasksLeaveAndReturn := by
  intro s q job j hj
  obtain ⟨-, hid⟩ := mem_of_jobById hj
  refine ⟨fun b m placed ha hs hp hplaced => ?_, fun b m ha => ?_, fun since m ha hf hi _ => ?_, fun ha hlive hs hidle => ?_⟩
  · set ctx := cutContexts s q j j.tasks placed
    have hkept := ctxCopied_keeps unwritten (unwritten_devWrite q · (jobEpoch j)) ctx (onJob q job (jobHeeling b m ctx) s)
    have htables := ctxCopied_keeps bedTables (bedTables_devWrite q · (jobEpoch j)) ctx (onJob q job (jobHeeling b m ctx) s)
    obtain ⟨hplots, hparts⟩ := Prod.mk.inj hkept
    refine ⟨_, exec_heelIn_of_placed hj ha hs hp hplaced, hplots, htables, ⟨jobHeeling b m ctx j, ?_, rfl⟩, ?_⟩
    · rw [State.part, hparts]
      exact mem_onJob_of_jobById hj _
    · rintro task p o a n ht hr rfl htier hsafe hacc hends k hk
      rw [cutContexts_single ht hr]
      exact ramByte_ctxCopied_single (s := onJob q job _ s) rfl hsafe (fun x h1 h2 => acceptedT2_range htier hacc hends h1 h2) hk
  · obtain ⟨t, hexec, k, hk, hplace⟩ := heelInComplete_saves hj ha
    simp only [placeOf, Prod.mk.injEq] at hplace
    exact ⟨t, hexec, k, hk, hplace⟩
  · intro n new hn hin
    obtain ⟨t, hexec, hk⟩ := victimResume_rebinds hj ha hf hi hn hin
    exact ⟨t, hexec, _, hk, hid, rfl, rfl, rfl, rfl⟩
  · obtain ⟨t, ok, watch, hexec, hk⟩ := restoreComplete_returns hj ha hlive hs hidle
    exact ⟨t, hexec, _, hk, hid, rfl, rfl, rfl, rfl, rfl⟩

end Sys2Proof.Machine
end

section
/-! FLUSH through any view of the state: what of it a flush keeps, whatever the flush stops and whatever plot it prunes (R78, R482). -/

namespace Sys2Proof.Machine

open Host

/-- A view of the state that plots, beds, causes, the prune log, trace losses, marks of failed passes, the reserve and memory do not
change. -/
structure BesideFlush {γ : Type} (g : State → γ) : Prop where
  onPlot : ∀ p f u, g (State.onPlot u p f) = g u
  onBed : ∀ b f u, g (State.onBed u b f) = g u
  onMem : ∀ f u, g (State.onMem u f) = g u
  fresh : ∀ n u, g { u with fresh := n } = g u
  raiseEvent : ∀ f v u, g (raiseEvent f v u) = g u
  queueLog : ∀ ty len payload u, g (queueLog ty len payload u) = g u
  traceLose : ∀ r u, g (traceLose r u) = g u
  failPassOn : ∀ p u, g (failPassOn p u) = g u
  drawReserve : ∀ r u, g (drawReserve r u) = g u

section
variable {γ : Type} {g : State → γ} (h : BesideFlush g) (p : PlotIx) (s : State)
include h

/-! ### Discarded commands (R78) -/

theorem BesideFlush.step10 (l : Lane) (d : BitVec 1024) (e : Ended) : g (step10 p l d e s) = g s := by
  have htrace : ∀ u, g (traceCommand p l d true e.status e.cycles u) = g u := fun u => by
    rcases traceCommand_cases p l d true e.status e.cycles u with ⟨r, hr⟩ | ⟨r, hr⟩
    · rw [hr, h.onBed]
    · rw [hr, h.traceLose]
  unfold Machine.step10
  dsimp only
  rw [htrace, h.onPlot]
  split
  · rw [writeRecord_eq, h.onBed]
  · rfl

theorem BesideFlush.returnSem (l : Lane) : g (returnSem p l s) = g s := by
  unfold Machine.returnSem
  dsimp only
  split
  · split
    · exact h.onBed ..
    · rfl
  · rfl

theorem BesideFlush.discardLane (l : Lane) : g (discardLane p l s) = g s :=
  (foldl_keeps g (fun u d => h.step10 p u l d _) _ _).trans ((h.onPlot ..).trans (h.returnSem p s l))

/-! ### A command that a flush ends (R78, R482) -/

theorem BesideFlush.pruneOnResidue : g (pruneOnResidue p s) = g s := by
  have hrecord : ∀ kind index sub c n returns u, g (recordPrune kind index sub c n returns u) = g u :=
    fun _ _ _ _ _ _ _ => by rw [recordPrune, raiseDevice, h.raiseEvent, h.queueLog]
  have hprune : ∀ c n u, g (prunePlot p c n u) = g u := fun c n u => by
    unfold prunePlot
    split
    · rfl
    · dsimp only
      split
      · rw [hrecord, h.onPlot, h.failPassOn]
      · rw [h.drawReserve, raiseCapacity, h.raiseEvent, hrecord, h.onPlot, h.failPassOn]
  unfold Machine.pruneOnResidue
  dsimp only
  split
  · rfl
  · split
    · exact hprune ..
    · rfl

theorem BesideFlush.endCommand_of_flushed (l : Lane) (d : BitVec 1024) {e : Ended} (he : e.status = stFlushed) :
    g (endCommand p l d e s) = g s := by
  have hok : e.status ≠ stOk := by rw [he]; decide
  unfold endCommand
  dsimp only
  rw [h.pruneOnResidue, h.onPlot, if_neg hok]
  split <;> rw [h.onPlot, h.step10, h.onPlot]

/-- A TEST that is cut short leaves free bytes and invalid table slots. -/
theorem BesideFlush.testLeaves (n : Nat) : g (testLeaves p n s) = g s := by
  have hfree : g (t0Free p s) = g s := by rw [t0Free, clearTags, h.onPlot, t0Write, ramWrite, h.onMem, h.fresh]
  have hfirst : g (if n = 2 || n = 5 then t0Free p s else s) = g s := by
    split
    · exact hfree
    · rfl
  unfold Machine.testLeaves
  dsimp only
  split
  · exact (h.onPlot ..).trans hfirst
  · exact hfirst

theorem BesideFlush.stopCompute : g (stopCompute p s) = g s := by
  have hend : ∀ r u, g (endRun p .compute r stFlushed 0 u) = g u := fun r u => by
    have hst : ¬ (decide (stFlushed = stOk) || decide (stFlushed = stTest)) = true := by decide
    rw [endRun, if_neg hst, h.endCommand_of_flushed p _ .compute r.desc (by rfl), h.fresh]
  unfold Machine.stopCompute
  split
  · split
    · rw [hend]
      split
      · exact h.testLeaves ..
      · rfl
    · rfl
  · rfl

/-! ### FLUSH -/

theorem BesideFlush.flushPlot (resume : Bool) : g (flushPlot p resume s) = g s := by
  unfold Machine.flushPlot
  dsimp only
  rw [h.onPlot, h.stopCompute, h.discardLane, h.discardLane, h.onPlot]

end

end Sys2Proof.Machine
end

section
/-! What the begin of a partition reset leaves of other partitions: a view of one partition that flushes, ended jobs, dropped slots
and the steps of another partition's reset keep (R311 to R313). -/

namespace Sys2Proof.Machine

open Host

/-! ### The view -/

/-- Whether a queue pair is attached, and the completions it still holds. -/
def queueGate (x : Qp) : BitVec 2 × List CqEntry := (x.state, x.journal)

/-- Of a partition, its jobs through a view of each, its gates, and its work under way outside its plots. -/
structure PartGates (β : Type) where
  jobs : List β
  defined : Bool
  step : ResetStep
  done : Bool
  adm : BitVec 3
  carrier : List CarrierOp
  fabric : List FabricOp
  colls : List CollOp

/-- What resets of a partition look at and leave: the partition, the queue pairs of its function, and what the device allows. -/
structure ResetView (β : Type) where
  part : PartGates β
  queues : QpIx → BitVec 2 × List CqEntry
  boot : Boot
  replant : Option (Fin 2)
  mode : BitVec 3
  pf0 : Pf0

section
variable {β : Type} (V : Job → β) (q : PartIx)

/-- The gates of a partition. -/
def partGates (x : Part) : PartGates β :=
  { jobs := x.jobs.map V, defined := x.defined, step := x.resetStep, done := x.resetDone, adm := x.adm, carrier := x.carrier
    fabric := x.fabric, colls := x.colls }

/-- The view of a partition in a state. -/
def resetView (s : State) : ResetView β :=
  { part := partGates V (s.part q), queues := fun i => queueGate (qpOf s (vfOf q) i), boot := s.image.boot
    replant := s.image.replant, mode := s.fence.mode, pf0 := s.pf0 }

variable (s : State)

/-! ### Changes of one part of the state -/

@[simp] theorem resetView_onPlot (p : PlotIx) (g : Plot → Plot) : resetView V q (s.onPlot p g) = resetView V q s := rfl
@[simp] theorem resetView_onBed (b : BedIx) (g : Bed → Bed) : resetView V q (s.onBed b g) = resetView V q s := rfl
@[simp] theorem resetView_onCis (c : CisIx) (g : Cistern → Cistern) : resetView V q (s.onCis c g) = resetView V q s := rfl

/-- A change of the partition that its gates follow. -/
theorem resetView_onPart_same {g : Part → Part} {k : PartGates β → PartGates β} (h : ∀ x, partGates V (g x) = k (partGates V x)) :
    resetView V q (s.onPart q g) = { resetView V q s with part := k (resetView V q s).part } := by
  simp only [resetView, State.onPart_part, h]
  rfl

theorem resetView_onPart_ne {r : PartIx} (h : q ≠ r) (g : Part → Part) : resetView V q (s.onPart r g) = resetView V q s := by
  simp only [resetView, State.onPart_part_ne s g h]
  rfl

/-- A change of a partition beside its gates, or of another partition. -/
theorem resetView_onPart_of_keeps (r : PartIx) {g : Part → Part} (h : q = r → ∀ x, partGates V (g x) = partGates V x) :
    resetView V q (s.onPart r g) = resetView V q s := by
  by_cases hr : q = r
  · subst hr
    exact resetView_onPart_same V q s (k := id) (h rfl)
  · exact resetView_onPart_ne V q s hr g

theorem qpOf_onFunc_of_keeps {g : Fn → Fn} (h : ∀ x, (g x).qps = x.qps) (f k : FnIx) (i : QpIx) :
    qpOf (s.onFunc f g) k i = qpOf s k i := by
  rw [qpOf, State.onFunc_func_if]
  split
  · subst_vars
    exact congrArg (fun v : Vector Qp 4 => v[i]) (h _)
  · rfl

theorem resetView_onFunc_of_keeps {g : Fn → Fn} (h : ∀ x, (g x).qps = x.qps) (f : FnIx) :
    resetView V q (s.onFunc f g) = resetView V q s := by
  simp only [resetView, qpOf_onFunc_of_keeps s h]
  rfl

theorem qpOf_onQp (f k : FnIx) (i j : QpIx) (g : Qp → Qp) :
    qpOf (onQp f i g s) k j = if k = f ∧ j = i then g (qpOf s k j) else qpOf s k j := by
  rw [qpOf, onQp, State.onFunc_func_if]
  by_cases hk : k = f
  · subst hk
    rw [if_pos rfl]
    by_cases hj : j = i
    · subst hj
      rw [if_pos ⟨rfl, rfl⟩]
      exact Vector.getElem_set_self ..
    · rw [if_neg fun h => hj h.2]
      exact Vector.getElem_set_ne i.isLt j.isLt fun h => hj (Fin.ext h).symm
  · rw [if_neg hk, if_neg fun h => hk h.1]
    rfl

/-- A change of a queue pair that keeps its state and its journal. -/
theorem resetView_onQp_of_keeps {g : Qp → Qp} (h : ∀ x, queueGate (g x) = queueGate x) (f : FnIx) (i : QpIx) :
    resetView V q (onQp f i g s) = resetView V q s := by
  have hqueues : ∀ j, queueGate (qpOf (onQp f i g s) (vfOf q) j) = queueGate (qpOf s (vfOf q) j) := fun j => by
    rw [qpOf_onQp]
    split
    · exact h _
    · rfl
  simp only [resetView, hqueues]
  rfl

/-! ### Causes and answers (R304, R377) -/

@[simp] theorem resetView_raiseEvent (f : FnIx) (v : VecIx) : resetView V q (raiseEvent f v s) = resetView V q s := by
  unfold raiseEvent
  split
  · rfl
  · exact resetView_onFunc_of_keeps V q s (fun _ => by rfl) f

@[simp] theorem resetView_answerWaiting (p : FnIx → BitVec 1024 → Bool) (a : Answer) :
    resetView V q (answerWaiting p a s) = resetView V q s :=
  foldl_keeps (resetView V q) (fun u f => foldl_keeps (resetView V q)
    (fun w i => resetView_onQp_of_keeps V q w (fun _ => by rfl) f i) _ u) _ s

theorem resetView_giveEntry (f : FnIx) (i : QpIx) (e : CqEntry) : resetView V q (giveEntry f i e s) = resetView V q s := by
  refine resetView_onQp_of_keeps V q s (fun x => ?_) f i
  split <;> rfl

/-! ### The steps of a reset (R313) -/

theorem resetView_writeSlot (r : PartIx) (slot : BitVec 8) (e : BitVec 25) :
    resetView V q (writeSlot r slot e s) = resetView V q s :=
  (foldl_keeps (resetView V q) (fun u b => resetView_onBed V q u b _) _ _).trans
    (foldl_keeps (resetView V q) (fun u c => resetView_onCis V q u c _) _ s)

theorem resetView_dropSlots (r : PartIx) : resetView V q (dropSlots r s) = resetView V q s :=
  (foldl_keeps (resetView V q) (fun u b => resetView_onBed V q u b _) _ _).trans
    (foldl_keeps (resetView V q) (fun u c => resetView_onCis V q u c _) _ s)

theorem resetView_openGate (r : PartIx) : resetView V q (openGate r s) = resetView V q s := by
  unfold openGate
  split
  · rfl
  · exact (resetView_onPart_of_keeps V q _ r fun _ _ => by rfl).trans
      (foldl_keeps (resetView V q) (fun u c => resetView_onCis V q u c _) _ s)

theorem freeStreams_cis (r : PartIx) : (freeStreams r s).cis = s.cis := rfl

theorem resetView_freeStreams (r : PartIx) : resetView V q (freeStreams r s) = resetView V q s := rfl

variable {V q} in
/-- The end of a job, where the view of its own partition does not see it. -/
theorem resetView_endJob {r : PartIx} {l : Life} (hend : q = r → ∀ j, V (jobEnded l j) = V j) (id : Word) (bytes index : Nat)
    (post : Bool) : resetView V q (endJob r id l bytes index post s) = resetView V q s := by
  have hended : resetView V q (onJob r id (jobEnded l) (countJob r (endCounter l) s)) = resetView V q s := by
    have hcounted : resetView V q (countJob r (endCounter l) s) = resetView V q s :=
      resetView_onPart_of_keeps V q s r fun _ _ => by rfl
    refine (resetView_onPart_of_keeps V q _ r fun h x => ?_).trans hcounted
    rw [partGates, map_updateWhere_of_keeps fun j _ => hend h j]
    rfl
  have hmissed : ∀ u, resetView V q (missCuts r id u) = resetView V q u := fun u =>
    resetView_onPart_of_keeps V q u r fun _ _ => by rfl
  unfold endJob
  split
  · rfl
  · dsimp only
    rw [resetView_answerWaiting]
    split
    · rw [resetView_giveEntry, hmissed, resetView_writeSlot, hended]
    · rw [hmissed, resetView_writeSlot, hended]

variable {V q} in
theorem resetView_cancelAll {r : PartIx} (hend : q = r → ∀ j, V (jobEnded .cancelled j) = V j) :
    resetView V q (cancelAll r s) = resetView V q s :=
  foldl_keeps (resetView V q) (fun u id => resetView_endJob u hend id 0 0 false) _ s

variable {q} in
theorem resetView_dropQueues_ne {r : PartIx} (h : q ≠ r) : resetView V q (dropQueues (vfOf r) s) = resetView V q s := by
  have hfn : vfOf q ≠ vfOf r := fun e => h (Fin.ext (Nat.succ.inj (Fin.mk.inj e)))
  refine foldl_keeps (resetView V q) (fun u i => ?_) _ s
  simp only [resetView, qpOf_onQp, hfn, false_and, if_false]
  rfl

end

/-! ### Plots flushed (R78, R313) -/

section
variable {β : Type} {V : Job → β} (hV : ∀ j b, V { j with passFailed := b } = V j) (q : PartIx) (s : State)

include hV in
/-- Of the jobs, a flush changes the mark of a failed pass alone. -/
theorem besideFlush_resetView : BesideFlush (resetView V q) where
  onPlot := fun p f u => resetView_onPlot V q u p f
  onBed := fun b f u => resetView_onBed V q u b f
  onMem := fun _ _ => rfl
  fresh := fun _ _ => rfl
  raiseEvent := fun f v u => resetView_raiseEvent V q u f v
  queueLog := fun _ _ _ _ => rfl
  traceLose := fun r u => resetView_onPart_of_keeps V q u r fun _ _ => by rfl
  failPassOn := fun p u => by
    unfold failPassOn
    split
    · rfl
    · refine resetView_onPart_of_keeps V q u _ fun _ x => ?_
      rw [partGates, map_updateWhere_of_keeps fun j _ => hV j true]
      rfl
  drawReserve := fun r u => by
    unfold drawReserve
    split
    · exact resetView_onPart_of_keeps V q u r fun _ _ => by rfl
    · rfl

theorem besideFlush_cis : BesideFlush State.cis where
  onPlot := fun _ _ _ => rfl
  onBed := fun _ _ _ => rfl
  onMem := fun _ _ => rfl
  fresh := fun _ _ => rfl
  raiseEvent := fun f v u => (raiseEvent_keeps f v u).1
  queueLog := fun _ _ _ _ => rfl
  traceLose := fun _ _ => rfl
  failPassOn := fun p u => by
    unfold failPassOn
    split <;> rfl
  drawReserve := fun r u => by
    unfold drawReserve
    split <;> rfl

/-- The powered plots of a partition flushed. -/
def plotsFlushed (r : PartIx) (s : State) : State :=
  forAll (plotsOf s r) (fun s p => if powered (s.plot p) then flushPlot p false s else s) s

theorem BesideFlush.plotsFlushed {γ : Type} {g : State → γ} (h : BesideFlush g) (r : PartIx) (s : State) :
    g (plotsFlushed r s) = g s := by
  refine foldl_keeps g (fun u p => ?_) _ s
  split
  · exact h.flushPlot ..
  · rfl

/-- A partition of which no transfer and no collective is in progress any more. -/
def workAbandoned (x : Part) : Part := { x with fabric := [], fabricOld := [], colls := [], readies := [], wrote := [] }

theorem stopPartition_eq (r : PartIx) : stopPartition r s =
    freeStreams r ((openGate r (stopCarriers r (plotsFlushed r s))).onPart r workAbandoned) := by
  rw [stopPartition, ← plotsFlushed.eq_def]
  rfl

include hV

/-- Step 3 leaves nothing under way outside the plots. -/
theorem resetView_stopPartition : resetView V q (stopPartition q s) =
    { resetView V q s with part := { (resetView V q s).part with carrier := [], fabric := [], colls := [] } } := by
  rw [stopPartition_eq, resetView_freeStreams,
    resetView_onPart_same V q _ (k := fun x => { x with fabric := [], colls := [] }) fun _ => by rfl,
    resetView_openGate, stopCarriers, resetView_onPart_same V q _ (k := fun x => { x with carrier := [] }) fun _ => by rfl,
    (besideFlush_resetView hV q).plotsFlushed]

theorem resetView_stopPartition_ne {r : PartIx} (h : q ≠ r) : resetView V q (stopPartition r s) = resetView V q s := by
  rw [stopPartition_eq, resetView_freeStreams, resetView_onPart_ne V q _ h, resetView_openGate, stopCarriers,
    resetView_onPart_ne V q _ h, (besideFlush_resetView hV q).plotsFlushed]

end

end Sys2Proof.Machine
end

section
/-! The begin of a partition reset: steps 1 to 4, and what the reset of another partition leaves of one that has begun (R302,
R311 to R313). -/

namespace Sys2Proof.Machine

open Host

/-! ### Slots (R281, R313) -/

/-- No entry of a partition is VALID at a cistern, listed or behind another. -/
def NoSlots (q : PartIx) (s : State) : Prop :=
  ∀ c : CisIx, ∀ e ∈ (s.cistern c).epochs, e.1 / 256 = q.val → e.2.getLsbD 24 = false

section
variable {q : PartIx} {s t : State}

theorem NoSlots.of_cis (h : NoSlots q s) (ht : t.cis = s.cis) : NoSlots q t := fun c => by
  rw [State.cistern, ht]
  exact h c

theorem mem_of_lookup {α : Type} {t : Tab α} {k : Nat} {v : α} (h : t.lookup k = some v) : (k, v) ∈ t := by
  obtain ⟨l, _, rfl, -⟩ := List.lookup_eq_some_iff.1 h
  exact List.mem_append_right l List.mem_cons_self

theorem NoSlots.cisEpoch (h : NoSlots q s) (c : CisIx) {k : Nat} (hk : k < 256) : (cisEpoch s c q k).getLsbD 24 = false := by
  unfold Machine.cisEpoch tabGet
  cases hl : (s.cistern c).epochs.lookup (256 * q.val + k) with
  | none => rfl
  | some e => exact h c (256 * q.val + k, e) (mem_of_lookup hl) (by dsimp only; omega)

/-- A change of cisterns that adds no VALID entry of the partition. -/
theorem NoSlots.forAll_onCis {f : Cistern → Cistern} (h : NoSlots q s)
    (hf : ∀ x, (∀ e ∈ x.epochs, e.1 / 256 = q.val → e.2.getLsbD 24 = false) →
      ∀ e ∈ (f x).epochs, e.1 / 256 = q.val → e.2.getLsbD 24 = false) (l : List CisIx) :
    NoSlots q (forAll l (fun s c => s.onCis c f) s) := by
  refine List.foldlRecOn (motive := NoSlots q) l _ h fun u hu i _ c => ?_
  rw [State.onCis_cistern_if]
  split
  · exact hf _ (hu i)
  · exact hu c

theorem NoSlots.forAll_onBed {f : Bed → Bed} (h : NoSlots q s) (l : List BedIx) :
    NoSlots q (forAll l (fun s b => s.onBed b f) s) :=
  h.of_cis (foldl_keeps State.cis (fun _ _ => by rfl) l s)

theorem getLsbD_slotEntry_false (c : BitVec 24) : (slotEntry false c).getLsbD 24 = false := by
  rw [slotEntry, BitVec.getLsbD_ofNat, Bool.toNat_false, Nat.zero_mul, Nat.add_zero, Nat.testBit_lt_two_pow c.isLt, Bool.and_false]

theorem NoSlots.writeSlot (h : NoSlots q s) (r : PartIx) (slot : BitVec 8) (c : BitVec 24) :
    NoSlots q (writeSlot r slot (slotEntry false c) s) := by
  refine NoSlots.forAll_onBed (h.forAll_onCis (fun x hx e he hq => ?_) _) _
  simp only [tabSet, tabWrite, List.mem_append, List.mem_filter] at he
  rcases he with (⟨he, -⟩ | he) | ⟨he, -⟩
  · exact hx e he hq
  · unfold tabEntries at he
    split at he
    · cases he
    · obtain rfl := List.mem_singleton.1 he
      exact getLsbD_slotEntry_false c
  · exact hx e he hq

theorem answerWaiting_cis (p : FnIx → BitVec 1024 → Bool) (a : Answer) : (answerWaiting p a s).cis = s.cis :=
  foldl_keeps State.cis (fun u _ => foldl_keeps State.cis (fun _ _ => by rfl) _ u) _ s

theorem NoSlots.endJob (h : NoSlots q s) (r : PartIx) (id : Word) (l : Life) :
    NoSlots q (endJob r id l 0 0 false s) := by
  unfold Machine.endJob
  split
  · exact h
  · rename_i j _
    have hended : NoSlots q (onJob r id (jobEnded l) (countJob r (endCounter l) s)) := h.of_cis rfl
    have hslot := hended.writeSlot r j.slot j.epoch
    exact NoSlots.of_cis hslot (answerWaiting_cis _ _)

theorem NoSlots.cancelAll (h : NoSlots q s) (r : PartIx) : NoSlots q (cancelAll r s) :=
  List.foldlRecOn _ _ h fun _ hu id _ => hu.endJob r id .cancelled

theorem getLsbD_and_count (e : BitVec 25) : (e &&& 0xFFFFFF).getLsbD 24 = false := by
  rw [BitVec.getLsbD_and]
  exact Bool.and_false _

/-- The entries of a cistern when step 4 has cleared those of a partition. -/
theorem mem_dropped {r : PartIx} {t : Tab (BitVec 25)} {e : Nat × BitVec 25} (he : e ∈ (t.map fun e =>
    if e.1 / 256 = r.val then (e.1, e.2 &&& 0xFFFFFF) else e).filter fun e => e.2 ≠ 0) :
    e.2.getLsbD 24 = false ∨ e ∈ t ∧ e.1 / 256 ≠ r.val := by
  obtain ⟨d, hd, rfl⟩ := List.mem_map.1 (List.mem_of_mem_filter he)
  split
  · exact .inl (getLsbD_and_count d.2)
  · exact .inr ⟨hd, ‹_›⟩

theorem NoSlots.dropSlots (h : NoSlots q s) (r : PartIx) : NoSlots q (dropSlots r s) := by
  refine NoSlots.forAll_onBed (h.forAll_onCis (fun x hx e he hq => ?_) _) _
  rcases mem_dropped he with h0 | ⟨hmem, -⟩
  · exact h0
  · exact hx e hmem hq

/-- Step 4 leaves no slot of the partition VALID. -/
theorem noSlots_dropSlots (q : PartIx) (s : State) : NoSlots q (dropSlots q s) := by
  refine NoSlots.forAll_onBed (fun c e he hq => ?_) _
  have hclear : ∀ x : Cistern, e ∈ (x.epochs.map fun e =>
      if e.1 / 256 = q.val then (e.1, e.2 &&& 0xFFFFFF) else e).filter (fun e => e.2 ≠ 0) → e.2.getLsbD 24 = false := fun x hx =>
    (mem_dropped hx).resolve_right fun h => h.2 hq
  rw [forAll, List.foldl_cons, List.foldl_cons, List.foldl_nil] at he
  rcases (by decide : ∀ c : CisIx, c = 0 ∨ c = 1) c with rfl | rfl
  · rw [State.onCis_cistern_ne _ _ (by decide), State.onCis_cistern] at he
    exact hclear _ he
  · rw [State.onCis_cistern] at he
    exact hclear _ he

theorem stopPartition_cis_epochs (r : PartIx) (c : CisIx) : ((stopPartition r s).cistern c).epochs = (s.cistern c).epochs := by
  have hgate : ∀ u, ((openGate r u).cistern c).epochs = (u.cistern c).epochs := fun u => by
    unfold openGate
    split
    · rfl
    · exact foldl_keeps (fun u => (State.cistern u c).epochs) (fun v d => onCis_keeps Cistern.epochs (fun _ => by rfl) v d c) _ u
  rw [stopPartition_eq, State.cistern, freeStreams_cis, ← State.cistern, State.onPart_cistern, hgate, stopCarriers,
    State.onPart_cistern, State.cistern, besideFlush_cis.plotsFlushed, ← State.cistern]

theorem NoSlots.stopPartition (h : NoSlots q s) (r : PartIx) : NoSlots q (stopPartition r s) := fun c => by
  rw [stopPartition_cis_epochs]
  exact h c

end

/-! ### Jobs end (R313) -/

/-- A job that still lives after some names have ended lived before, under another name. -/
theorem live_of_endJobs {q : PartIx} (ids : List Word) {s : State} {j : Job}
    (hj : j ∈ ((ids.foldl (fun s id => endJob q id .cancelled 0 0 false s) s).part q).jobs) (hlive : jobLive j = true) :
    j ∈ (s.part q).jobs ∧ j.id ∉ ids := by
  induction ids generalizing s with
  | nil => exact ⟨hj, List.not_mem_nil⟩
  | cons id ids ih =>
    obtain ⟨hmem, hids⟩ := ih hj
    rw [endJob_jobs, updateWhere] at hmem
    obtain ⟨k, hk, rfl⟩ := List.mem_map.1 hmem
    split at hlive
    · exact absurd hlive Bool.false_ne_true
    · rename_i hid
      rw [if_neg hid] at hids ⊢
      exact ⟨hk, List.not_mem_cons_of_ne_of_not_mem (fun h => hid (beq_iff_eq.2 h)) hids⟩

/-- Steps 1 and 2 leave no job alive. -/
theorem cancelAll_jobs {q : PartIx} {s : State} : ∀ j ∈ ((cancelAll q s).part q).jobs, jobLive j = false := fun j hj => by
  rw [Bool.eq_false_iff]
  intro hlive
  obtain ⟨hmem, hids⟩ := live_of_endJobs _ hj hlive
  exact hids (List.mem_map_of_mem (List.mem_filter.2 ⟨hmem, hlive⟩))

/-! ### Queue pairs (R313) -/

/-- Queue pairs changed one after another, each to the same gate. -/
theorem queueGate_forAll_onQp {f : FnIx} {g : Qp → Qp} {v : BitVec 2 × List CqEntry} (hg : ∀ x, queueGate (g x) = v)
    (l : List QpIx) {s : State} {i : QpIx} (h : i ∈ l ∨ queueGate (qpOf s f i) = v) :
    queueGate (qpOf (forAll l (fun s k => onQp f k g s) s) f i) = v := by
  induction l generalizing s with
  | nil => exact h.resolve_left List.not_mem_nil
  | cons k l ih =>
    refine ih ?_
    rw [qpOf_onQp]
    by_cases hi : i = k
    · rw [if_pos ⟨rfl, hi⟩]
      exact .inr (hg _)
    · rw [if_neg fun h => hi h.2]
      exact h.imp_left fun h => (List.mem_cons.1 h).resolve_left hi

/-- The view with every queue pair of the function detached. -/
def detachedView {β : Type} (V : Job → β) (q : PartIx) (s : State) : ResetView β := { resetView V q s with queues := fun _ => (0, []) }

theorem resetView_of_detached {β : Type} (V : Job → β) {q : PartIx} {s : State}
    (h : ∀ i, queueGate (qpOf s (vfOf q) i) = (0, [])) : resetView V q s = detachedView V q s := by
  simp only [detachedView, resetView, h]

/-- No queue pair of the partition's function is attached, and none holds a completion. -/
theorem resetView_dropQueues {β : Type} (V : Job → β) (q : PartIx) (s : State) :
    resetView V q (dropQueues (vfOf q) s) = detachedView V q s :=
  (resetView_of_detached V fun i => queueGate_forAll_onQp (fun _ => by rfl) _ (.inl (List.mem_finRange i))).trans
    (foldl_keeps (detachedView V q) (fun _ _ => by rfl) _ s)

end Sys2Proof.Machine
end

section
/-! Partition resets: their triggers, a reset among those of other partitions, and its end (R302, R311 to R313, R318). That energy
accounts and traces fare as here is the model's (entry 64 of the assumption log). -/

namespace Sys2Proof.Machine

open Host

/-! ### A reset begins (R312, R313) -/

/-- A partition whose reset may begin: defined, in no reset, after start-up, outside a replant and outside HOLD. -/
structure MayReset (q : PartIx) (s : State) : Prop where
  defined : (s.part q).defined = true
  step : (s.part q).resetStep = .none
  boot : s.image.boot = .done
  replant : s.image.replant = none
  noHold : holdActive s = false

/-- Steps 1 to 4 are done, and no entry of the partition is VALID at a cistern. -/
structure Begun (q : PartIx) (s : State) : Prop extends ResetBegun q s where
  slots : NoSlots q s

/-- Nothing has changed of a partition that its reset looks at or leaves. -/
structure Beside (q : PartIx) (s t : State) : Prop where
  view : resetView jobLive q t = resetView jobLive q s
  slots : NoSlots q s → NoSlots q t

section
variable {q r : PartIx} {s t u : State}

theorem Beside.trans (h : Beside q s t) (k : Beside q t u) : Beside q s u := ⟨k.view.trans h.view, k.slots ∘ h.slots⟩

theorem MayReset.of_view (h : MayReset q s) (hv : resetView jobLive q t = resetView jobLive q s) : MayReset q t := by
  simp only [resetView, partGates, ResetView.mk.injEq, PartGates.mk.injEq] at hv
  obtain ⟨⟨-, hdefined, hstep, -⟩, -, hboot, hreplant, hmode, -⟩ := hv
  refine ⟨hdefined.trans h.defined, hstep.trans h.step, hboot.trans h.boot, hreplant.trans h.replant, ?_⟩
  rw [holdActive, hmode]
  exact h.noHold

/-- What the view says of a partition whose reset has begun. -/
theorem Begun.of_view (hstep : (resetView jobLive q t).part.step = .draining) (hdone : (resetView jobLive q t).part.done = false)
    (hadm : (resetView jobLive q t).part.adm = 3) (hjobs : ∀ b ∈ (resetView jobLive q t).part.jobs, b = false)
    (hcarrier : (resetView jobLive q t).part.carrier = []) (hfabric : (resetView jobLive q t).part.fabric = [])
    (hcolls : (resetView jobLive q t).part.colls = []) (hqueues : (resetView jobLive q t).queues = fun _ => (0, []))
    (hslots : NoSlots q t) : Begun q t where
  step := hstep
  notDone := hdone
  stopped := hadm
  jobs := fun _ hj => hjobs _ (List.mem_map_of_mem hj)
  carriers := hcarrier
  fabric := hfabric
  collectives := hcolls
  queues := fun i => Prod.mk.inj (congrFun hqueues i)
  epochs := fun c _ hk => hslots.cisEpoch c hk
  slots := hslots

theorem Begun.of_beside (h : Begun q s) (k : Beside q s t) : Begun q t := by
  have hjobs : ∀ b ∈ (resetView jobLive q s).part.jobs, b = false := fun b hb => by
    obtain ⟨j, hj, rfl⟩ := List.mem_map.1 hb
    exact h.jobs j hj
  refine Begun.of_view ?_ ?_ ?_ ?_ ?_ ?_ ?_ ?_ (k.slots h.slots) <;> rw [k.view]
  · exact h.step
  · exact h.notDone
  · exact h.stopped
  · exact hjobs
  · exact h.carriers
  · exact h.fabric
  · exact h.collectives
  · exact funext fun i => Prod.ext (h.queues i).1 (h.queues i).2

/-! ### The steps of a reset (R313) -/

/-- The gates of a partition as its reset begins outside HOLD. -/
def resetStarted (x : Part) : Part := { x with resetStep := .draining, resetDone := false, adm := 3 }

/-- Steps 1, 2 and 4 of the reset of a partition. -/
def holdingsDropped (r : PartIx) (s : State) : State := dropSlots r (cancelAll r (dropQueues (vfOf r) s))

theorem beginReset_of_mayReset (h : MayReset q s) :
    beginReset q s = stopPartition q (holdingsDropped q (s.onPart q resetStarted)) := by
  simp only [beginReset, h.defined, h.step, h.boot, h.replant, h.noHold, Bool.not_true, Bool.false_eq_true, if_false, ne_eq,
    not_true_eq_false, decide_false, Option.isSome_none, Bool.or_self]
  rfl

/-- Whatever the reset of one partition finds, it leaves others alone. -/
theorem beginReset_beside (hr : q ≠ r) (s : State) : Beside q s (beginReset r s) := by
  have hpart : ∀ (g : Part → Part) (u : State), Beside q u (u.onPart r g) := fun g u =>
    ⟨resetView_onPart_ne jobLive q u hr g, fun h => h.of_cis rfl⟩
  have hdropped : ∀ u, Beside q u (holdingsDropped r u) := fun u => by
    constructor
    · rw [holdingsDropped, resetView_dropSlots, resetView_cancelAll _ fun h => absurd h hr, resetView_dropQueues_ne jobLive u hr]
    · intro h
      have hqueues : (dropQueues (vfOf r) u).cis = u.cis := foldl_keeps State.cis (fun _ _ => by rfl) _ u
      exact ((h.of_cis hqueues).cancelAll r).dropSlots r
  have hstopped : ∀ u, Beside q u (stopPartition r u) := fun u =>
    ⟨resetView_stopPartition_ne (fun _ _ => rfl) q u hr, fun h => h.stopPartition r⟩
  unfold beginReset
  split
  · exact ⟨rfl, id⟩
  · split
    · exact hpart _ s
    · dsimp only
      split
      · exact (hpart _ s).trans (hdropped _)
      · exact ((hpart _ s).trans (hdropped _)).trans (hstopped _)

theorem resetView_holdingsDropped : resetView (fun _ => ()) q (holdingsDropped q s) = detachedView (fun _ => ()) q s := by
  rw [holdingsDropped, resetView_dropSlots, resetView_cancelAll _ fun _ _ => by rfl, resetView_dropQueues]

theorem dropSlots_parts : (dropSlots q s).parts = s.parts :=
  (foldl_keeps State.parts (fun _ _ => by rfl) _ _).trans (foldl_keeps State.parts (fun _ _ => by rfl) _ s)

theorem holdingsDropped_jobs : ∀ j ∈ ((holdingsDropped q s).part q).jobs, jobLive j = false := fun j hj => by
  rw [holdingsDropped, State.part, dropSlots_parts] at hj
  exact cancelAll_jobs j hj

/-- The reset of a partition begins. -/
theorem begun_beginReset (h : MayReset q s) : Begun q (beginReset q s) := by
  have hreset : beginReset q s = stopPartition q (holdingsDropped q (s.onPart q resetStarted)) := beginReset_of_mayReset h
  have hview := resetView_holdingsDropped (q := q) (s := s.onPart q resetStarted)
  have hjobs : ∀ b ∈ ((holdingsDropped q (s.onPart q resetStarted)).part q).jobs.map jobLive, b = false := fun b hb => by
    obtain ⟨j, hj, rfl⟩ := List.mem_map.1 hb
    exact holdingsDropped_jobs j hj
  have hslots : NoSlots q (holdingsDropped q (s.onPart q resetStarted)) := noSlots_dropSlots q _
  have hpart : (s.onPart q resetStarted).part q = resetStarted (s.part q) := State.onPart_part ..
  generalize holdingsDropped q (s.onPart q resetStarted) = u at hreset hview hjobs hslots
  simp only [detachedView, resetView, hpart, partGates, ResetView.mk.injEq, PartGates.mk.injEq] at hview
  obtain ⟨⟨-, -, hstep, hdone, hadm, -⟩, hqueues, -⟩ := hview
  rw [hreset]
  refine Begun.of_view ?_ ?_ ?_ ?_ ?_ ?_ ?_ ?_ (hslots.stopPartition q) <;> rw [resetView_stopPartition fun _ _ => rfl]
  · exact hstep
  · exact hdone
  · exact hadm
  · exact hjobs
  · exact hqueues

/-! ### Resets among others (R302, R384) -/

/-- Among resets of different partitions, one that may begin has begun. -/
theorem begun_foldl {f : State → PartIx → State} (hown : ∀ u, MayReset q u → Begun q (f u q))
    (hother : ∀ r u, q ≠ r → Beside q u (f u r)) {l : List PartIx} (hl : l.Nodup) (hq : q ∈ l) (h : MayReset q s) :
    Begun q (l.foldl f s) := by
  induction l generalizing s with
  | nil => exact absurd hq List.not_mem_nil
  | cons r l ih =>
    obtain ⟨hr, hl⟩ := List.nodup_cons.1 hl
    by_cases hqr : q = r
    · subst hqr
      refine List.foldlRecOn (motive := Begun q) l f (hown s h) fun u hu k hk => hu.of_beside (hother k u fun e => hr (e ▸ hk))
    · exact ih hl ((List.mem_cons.1 hq).resolve_left hqr) (h.of_view (hother r s hqr).view)

/-! ### Triggers (R302, R311, R312) -/

theorem exec_partitionReset {why : ResetTrigger} (hw : why ≠ .flr) : exec (.partitionReset q why) s = .next (beginReset q s) := by
  cases why with
  | flr => exact absurd rfl hw
  | _ => rfl

theorem exec_flr_of_vf {f : FnIx} (hf : fnPart f = some q) (hv : vfExists s q = true) :
    exec (.flr f) s = .next (beginReset q s) := by
  change execFlr f s = _
  simp only [execFlr, hf, hv, if_true]

theorem exec_resetPartition_of_next {f : FnIx} {i : QpIx} {e : BitVec 1024} (he : nextSubmission s f i = some e)
    (ho : seOpc e = 0x21) : exec (.resetPartition f i) s = .next (beginReset (subPart f e) (takeUp f i s)) := by
  change execResetPartition f i s = _
  simp only [execResetPartition, he, ho, if_true]

theorem MayReset.takeUp (h : MayReset q s) (f : FnIx) (i : QpIx) : MayReset q (takeUp f i s) :=
  ⟨h.defined, h.step, h.boot, h.replant, h.noHold⟩

/-- No reset of a partition touches PF0. -/
theorem beginReset_pf0 : (beginReset r s).pf0 = s.pf0 := by
  have hview : ∀ u, (resetView (fun _ => ()) r u).pf0 = u.pf0 := fun _ => rfl
  have hdropped : ∀ u, (holdingsDropped r u).pf0 = u.pf0 := fun u => by
    rw [← hview, resetView_holdingsDropped]
    rfl
  have hstopped : ∀ u, (stopPartition r u).pf0 = u.pf0 := fun u => by
    rw [← hview, resetView_stopPartition fun _ _ => rfl]
    rfl
  unfold beginReset
  split
  · rfl
  · split
    · rfl
    · dsimp only
      split
      · exact hdropped _
      · exact (hstopped _).trans (hdropped _)

/-- The VFs that a write of VF Enable and NumVFs takes away. -/
def vfsGone (en : Bool) (num : BitVec 16) (s : State) : List PartIx :=
  (List.finRange 16).filter fun q => vfExists s q && !(en && q.val < num.toNat)

theorem mem_vfsGone {en : Bool} {num : BitVec 16} (hv : vfExists s q = true) (hg : en = false ∨ num.toNat ≤ q.val) :
    q ∈ vfsGone en num s := by
  refine List.mem_filter.2 ⟨List.mem_finRange q, ?_⟩
  rcases hg with rfl | hg
  · simp [hv]
  · simp [hv, Nat.not_lt.2 hg]

/-- A partition whose VF goes is reset, whichever others go with it. -/
theorem vfEnableChange_resets {en : Bool} {num : BitVec 16} (h : MayReset q s) (hv : vfExists s q = true)
    (hg : en = false ∨ num.toNat ≤ q.val) : ∃ t, exec (.vfEnableChange en num) s = .next t ∧ ResetBegun q t ∧
      t.pf0.vfEnable = en ∧ t.pf0.numVfs = num := by
  set s1 : State := { s with pf0 := { s.pf0 with vfEnable := en, numVfs := num } }
  have hmay : MayReset q s1 := ⟨h.defined, h.step, h.boot, h.replant, h.noHold⟩
  have hbegun : Begun q ((vfsGone en num s).foldl (fun s q => beginReset q s) s1) :=
    begun_foldl (fun u hu => begun_beginReset hu) (fun r u hr => beginReset_beside hr u)
      ((List.nodup_finRange 16).filter _) (mem_vfsGone hv hg) hmay
  have hpf0 : ((vfsGone en num s).foldl (fun s q => beginReset q s) s1).pf0 = s1.pf0 :=
    foldl_keeps State.pf0 (fun _ _ => beginReset_pf0) _ s1
  exact ⟨_, rfl, hbegun.toResetBegun, congrArg Pf0.vfEnable hpf0, congrArg Pf0.numVfs hpf0⟩

/-- While a reset is under way another is absorbed and counted. -/
theorem beginReset_of_under_way (hd : (s.part q).defined = true) (hr : (s.part q).resetStep ≠ .none) :
    beginReset q s = s.onPart q fun x => { x with absorbed := satAdd x.absorbed 1 } := by
  simp only [beginReset, hd, hr, Bool.not_true, Bool.false_eq_true, if_false, ne_eq, not_false_eq_true, decide_true, Bool.true_or,
    if_true]

/-! ### Step 5 (R313) -/

/-- What the acknowledgements leave: no model, no page generation, no trace and no cutting. -/
theorem epochAcknowledged_clears (slot : BitVec 8) (hr : (s.part q).resetStep = .draining) (hp : plotsStopped s q = true)
    (hh : holdActive s = false) : ∃ t, exec (.epochAcknowledged q slot) s = .next t ∧ (t.part q).resetStep = .zeroing ∧
      (t.part q).models = [] ∧ (t.part q).gens = [] ∧ (t.part q).trace = Trace.reset ∧
      (t.part q).cuts = Vector.replicate 16 Cutting.reset := by
  have hexec : exec (.epochAcknowledged q slot) s = .next (clearPartition q s) := by
    change execEpochAcknowledged q slot s = _
    simp only [execEpochAcknowledged, hr, resetAcknowledged, hp, hh, if_true, decide_true, Bool.not_false, Bool.and_self]
  refine ⟨_, hexec, ?_⟩
  rw [clearPartition, State.onPart_part]
  exact ⟨rfl, rfl, rfl, rfl, rfl⟩

/-! ### Step 6 (R313) -/

theorem ramByte_zeroRange (a n : Nat) (s : State) (x : Nat) :
    ramByte (zeroRange a n s) x = if a ≤ x ∧ x < a + n then 0 else ramByte s x :=
  tabGet_clear s.mem.ram a n x

/-- Ranges zeroed one after another, each at the place that the cisterns give it: their bytes read 0, and no other byte changes. -/
theorem ramByte_foldl_zeroRange {α : Type} {f : State → α → State} {a n : α → Nat} {cis : Vector Cistern 2}
    (hf : ∀ u k, u.cis = cis → f u k = zeroRange (a k) (n k) u) (l : List α) {s : State} (hs : s.cis = cis) (x : Nat) :
    ((∃ k ∈ l, a k ≤ x ∧ x < a k + n k) ∨ ramByte s x = 0 → ramByte (l.foldl f s) x = 0) ∧
      ((∀ k ∈ l, ¬ (a k ≤ x ∧ x < a k + n k)) → ramByte (l.foldl f s) x = ramByte s x) := by
  induction l generalizing s with
  | nil => exact ⟨fun h => h.resolve_left fun ⟨_, hk, _⟩ => List.not_mem_nil hk, fun _ => rfl⟩
  | cons k l ih =>
    obtain ⟨hin, hout⟩ := ih (s := zeroRange (a k) (n k) s) hs
    rw [List.foldl_cons, hf s k hs]
    rw [ramByte_zeroRange] at hin hout
    constructor
    · intro h
      refine hin ?_
      by_cases hk : a k ≤ x ∧ x < a k + n k
      · exact .inr (if_pos hk)
      · rw [if_neg hk]
        refine h.imp_left fun ⟨i, hi, hix⟩ => ⟨i, (List.mem_cons.1 hi).resolve_left fun e => hk (e ▸ hix), hix⟩
    · intro h
      rw [hout fun i hi => h i (List.mem_cons_of_mem _ hi), if_neg (h k List.mem_cons_self)]

/-- A byte of the hold buffers of a partition's beds, or of its extents in T2. -/
def OwnByte (s : State) (q : PartIx) (x : Nat) : Prop :=
  (∃ b ∈ bedsOf s q, t1Addr b 0 ≤ x ∧ x < t1Addr b 0 + bedStride) ∨
    ∃ c : CisIx, t2Base + c.val * 0x10000000 + ((s.cistern c).parts[q]).t2Base.toNat * mib ≤ x ∧
      x < t2Base + c.val * 0x10000000 + ((s.cistern c).parts[q]).t2Base.toNat * mib + ((s.cistern c).parts[q]).t2Size.toNat * mib

/-- The hold buffers of the partition's beds zeroed. -/
def buffersZeroed (q : PartIx) (s : State) : State := forAll (bedsOf s q) (fun s b => zeroRange (t1Addr b 0) bedStride s) s

/-- One of the partition's extents in T2 zeroed. -/
def extentZeroed (q : PartIx) (s : State) (c : CisIx) : State :=
  zeroRange (t2Base + c.val * 0x10000000 + ((s.cistern c).parts[q]).t2Base.toNat * mib) (((s.cistern c).parts[q]).t2Size.toNat * mib) s

theorem zeroPartition_eq (t3 : Bool) : zeroPartition q t3 s =
    if t3 then zeroT3 q (forAll (List.finRange 2) (extentZeroed q) (buffersZeroed q s))
    else forAll (List.finRange 2) (extentZeroed q) (buffersZeroed q s) := rfl

/-- Zeroing changes memories alone. -/
theorem zeroPartition_keeps_view {γ : Type} {g : State → γ} (hmem : ∀ f u, g (State.onMem u f) = g u) (t3 : Bool) :
    g (zeroPartition q t3 s) = g s := by
  have hzero : ∀ a n u, g (zeroRange a n u) = g u := fun _ _ _ => hmem ..
  have hextents : g (forAll (List.finRange 2) (extentZeroed q) (buffersZeroed q s)) = g s :=
    (foldl_keeps g (f := extentZeroed q) (fun u _ => hzero _ _ u) _ _).trans (foldl_keeps g (fun u _ => hzero _ _ u) _ s)
  rw [zeroPartition_eq]
  split
  · exact (foldl_keeps g (fun _ _ => hmem ..) _ _).trans hextents
  · exact hextents

/-- The partition's bytes read 0, and no other byte of T0, T1 or T2 changes, whether T3 is zeroed as well or not. -/
theorem ramByte_zeroPartition (t3 : Bool) (x : Nat) : (OwnByte s q x → ramByte (zeroPartition q t3 s) x = 0) ∧
    (¬ OwnByte s q x → ramByte (zeroPartition q t3 s) x = ramByte s x) := by
  have hcis : (buffersZeroed q s).cis = s.cis := foldl_keeps State.cis (fun _ _ => by rfl) _ s
  obtain ⟨hin1, hout1⟩ : _ ∧ (_ → ramByte (buffersZeroed q s) x = ramByte s x) :=
    ramByte_foldl_zeroRange (fun _ _ _ => rfl) (bedsOf s q) rfl x
  obtain ⟨hin2, hout2⟩ := ramByte_foldl_zeroRange (f := extentZeroed q)
    (fun u c hu => by rw [extentZeroed, State.cistern, hu]) (List.finRange 2) hcis x
  have hram : ramByte (zeroPartition q t3 s) x = ramByte (forAll (List.finRange 2) (extentZeroed q) (buffersZeroed q s)) x := by
    rw [zeroPartition_eq]
    split
    · exact foldl_keeps (fun u => ramByte u x) (fun _ _ => by rfl) _ _
    · rfl
  rw [hram]
  constructor
  · rintro (h | ⟨c, hc⟩)
    · exact hin2 (.inr (hin1 (.inl h)))
    · exact hin2 (.inl ⟨c, List.mem_finRange c, hc⟩)
  · intro h
    exact (hout2 fun c _ hc => h (.inr ⟨c, hc⟩)).trans (hout1 fun b hb hx => h (.inl ⟨b, hb, hx⟩))

/-! ### Step 7 (R313, R318) -/

section
variable {γ : Type} {g : State → γ} (hfunc : ∀ f h u, g (State.onFunc u f h) = g u)
include hfunc

/-- A view that no change of a function touches keeps through causes. -/
theorem raiseEvent_keeps_view (f : FnIx) (v : VecIx) (s : State) : g (raiseEvent f v s) = g s := by
  unfold raiseEvent
  split
  · rfl
  · exact hfunc ..

theorem answerWaiting_keeps_view (p : FnIx → BitVec 1024 → Bool) (a : Answer) (s : State) : g (answerWaiting p a s) = g s :=
  foldl_keeps g (fun u f => foldl_keeps g (fun w _ => hfunc f _ w) _ u) _ s

variable (hadm : ∀ r a u, g (State.onPart u r fun x => { x with adm := a }) = g u) (hbvl : ∀ v u, g { u with bvl := v } = g u)
include hadm hbvl

theorem setAdmit_keeps_view (r : PartIx) (a : BitVec 3) (s : State) : g (setAdmit r a s) = g s := by
  have hstate : g (raiseState r (s.onPart r fun x => { x with adm := a })) = g s :=
    (raiseEvent_keeps_view hfunc ..).trans (hadm r a s)
  unfold setAdmit
  split
  · rfl
  · dsimp only
    split
    · exact (hbvl ..).trans hstate
    · exact hstate

/-- A partition whose reset is done, and counted. -/
def resetFinished (x : Part) : Part :=
  { x with resetStep := .none, resetDone := true, zeroing := false, resets := satAdd x.resets 1 }

variable (hplot : ∀ p f u, g (State.onPlot u p f) = g u) (hpf0 : ∀ v u, g { u with pf0 := v } = g u)
include hplot hpf0

/-- Beside admission, plots, causes and answers step 7 marks the partition alone. -/
theorem finishReset_keeps_view (q : PartIx) (s : State) : g (finishReset q s) = g (s.onPart q resetFinished) := by
  unfold finishReset
  dsimp only
  rw [answerWaiting_keeps_view hfunc, raiseEvent_keeps_view hfunc, hpf0, setAdmit_keeps_view hfunc hadm hbvl, raiseState,
    raiseEvent_keeps_view hfunc]
  exact foldl_keeps g (fun _ _ => hplot ..) _ _

end

/-- How the reset of a partition stands, with the memories and the image. -/
def resetEnd (q : PartIx) (s : State) : Memories × Image × ResetStep × Bool × BitVec 16 :=
  (s.mem, s.image, (s.part q).resetStep, (s.part q).resetDone, (s.part q).resets)

/-- The reset is done and counted; the memories and the image stay. -/
theorem resetEnd_finishReset (q : PartIx) (s : State) :
    resetEnd q (finishReset q s) = (s.mem, s.image, .none, true, satAdd (s.part q).resets 1) := by
  have hadm : ∀ r a u, resetEnd q (State.onPart u r fun x => { x with adm := a }) = resetEnd q u := fun r a u => by
    simp only [resetEnd, State.onPart_part_if]
    split
    · subst_vars
      rfl
    · rfl
  rw [finishReset_keeps_view (fun _ _ _ => by rfl) hadm (fun _ _ => by rfl) (fun _ _ _ => by rfl) fun _ _ => by rfl]
  simp only [resetEnd, State.onPart_part]
  rfl

theorem finishReset_lastPart (q : PartIx) (s : State) : (finishReset q s).pf0.lastPart = BitVec.ofNat 4 q.val := by
  unfold finishReset
  dsimp only
  rw [answerWaiting_keeps_view (g := (·.pf0.lastPart)) fun _ _ _ => by rfl,
    raiseEvent_keeps_view (g := (·.pf0.lastPart)) fun _ _ _ => by rfl]

/-- Outside a replant the partition is zeroed and its reset ends. -/
theorem exec_partitionZeroingDone_of_over (hz : zeroingOver s q = true) (hr : s.image.replant = none) :
    exec (.partitionZeroingDone q) s = .next (finishReset q (zeroPartition q (s.part q).zeroing s)) := by
  have hend := resetEnd_finishReset q (zeroPartition q (s.part q).zeroing s)
  simp only [resetEnd, Prod.mk.injEq] at hend
  obtain ⟨-, himage, -⟩ := hend
  have hreplant : (finishReset q (zeroPartition q (s.part q).zeroing s)).image.replant = none := by
    rw [himage, zeroPartition_keeps_view (g := State.image) fun _ _ => rfl, hr]
  change execPartitionZeroingDone q s = _
  simp only [execPartitionZeroingDone, hz, hr, Option.isSome_none, Bool.or_false, if_true, replantGoesOn, hreplant]

end

/-- Settles O40: every trigger leads to the one begin of a reset, and a reset that is over ends with its partition's bytes zero. That
accounts return to the burst and that RESET_DONE waits for the plots are the model's (entry 64 of the assumption log). -/
theorem partitionsReset : Obligations.PartitionsReset := by
  refine ⟨fun s hb hrp => ⟨fun q hd hr hh => ?_, fun q hd hr why hw => ?_⟩, fun s q slot hr hp hh =>
    epochAcknowledged_clears slot hr hp hh, fun s q hz hrp _ => ?_⟩
  · have hmay : MayReset q s := ⟨hd, hr, hb, hrp, hh⟩
    refine ⟨fun why hw => ⟨_, exec_partitionReset hw, (begun_beginReset hmay).toResetBegun⟩,
      fun f hf hv => ⟨_, exec_flr_of_vf hf hv, (begun_beginReset hmay).toResetBegun⟩,
      fun f i e he ho hsub => ⟨_, exec_resetPartition_of_next he ho, ?_⟩, fun en num hv hg => vfEnableChange_resets hmay hv hg⟩
    rw [hsub]
    exact (begun_beginReset (hmay.takeUp f i)).toResetBegun
  · rw [exec_partitionReset hw, beginReset_of_under_way hd hr]
  · intro bed ext
    have hend := resetEnd_finishReset q (zeroPartition q (s.part q).zeroing s)
    simp only [resetEnd, Prod.mk.injEq, zeroPartition_keeps_view (g := (State.part · q)) fun _ _ => rfl] at hend
    obtain ⟨hmem, -, hstep, hdone, hresets⟩ := hend
    refine ⟨_, exec_partitionZeroingDone_of_over hz hrp, hstep, hdone, hresets, ?_, fun a ha => ?_, fun a hbed hext => ?_⟩
    · rw [finishReset_lastPart, BitVec.toNat_ofNat]
      exact Nat.mod_eq_of_lt q.isLt
    · rw [ramByte_congr hmem]
      exact (ramByte_zeroPartition _ a).1 ha
    · rw [ramByte_congr hmem]
      exact (ramByte_zeroPartition _ a).2 fun h => h.elim (fun ⟨b, hb, hx⟩ => hbed b hb hx) fun ⟨c, hc⟩ => hext c hc

end Sys2Proof.Machine
end

section
/-! Device resets and the PCIe warm reset (R311, R330, R333, R384, R443). That the queue of commands and the counter of free values
stay, and that JOBS_LOST adds up, are the model's (entry 101 of the assumption log). -/

namespace Sys2Proof.Machine

open Host

section
variable {s : State}

/-! ### Device resets (R311) -/

/-- Whatever its cause, a device reset leaves the state of power-on with the flash devices, and says why. -/
theorem deviceReset_leaves (cause : BitVec 4) (railsFell : Bool) (s : State) : DeviceWasReset s (deviceReset cause railsFell s) ∧
    (deviceReset cause railsFell s).fence.resetCause = cause ∧ (deviceReset cause railsFell s).pf0.reportCause = cause where
  left := {
    time := rfl, plots := rfl, beds := rfl, cisterns := rfl, parts := rfl, functions := rfl, cores := rfl, links := rfl
    codec := rfl, mem := rfl, flash := rfl, boot := rfl
    jobsLost := fun h => by rw [deviceReset, h, Bool.or_true] }
  right := ⟨rfl, rfl⟩

theorem exec_moduleReset_of_high (h : s.pins.mrstLow = false) : exec .moduleReset s =
    .next { deviceReset 1 false s with pins := { (deviceReset 1 false s).pins with mrstLow := true } } := by
  change execModuleReset s = _
  simp only [execModuleReset, h, Bool.false_eq_true, if_false]

theorem exec_thermalSample_of_trip {temps : Temps} (hs : s.fence.supply ≠ .off)
    (ht : s.fence.tripSeen.toNat &&& tripBits s temps ≠ 0) : exec (.thermalSample temps) s = .next (deviceReset 3 true s) := by
  change execThermalSample temps s = _
  simp only [execThermalSample, hs, ht, if_false, ne_eq, not_false_eq_true, if_true]

/-! ### PCIe warm reset (R311, R384) -/

/-- The partitions reset by a warm reset, before the functions start anew. -/
def warmResets (s : State) : State :=
  (definedParts { s with image := { s.image with replant := none } }).foldl resetAnew
    { s with image := { s.image with replant := none } }

/-- The state in which the functions have started anew, and PF0 reports a warm reset. -/
def functionsAnew (lost : Bool) (s : State) : State :=
  { s with fns := s.fns.map freshFn, pf0 := { Pf0.reset with reportCause := 6, jobsLost := lost } }

theorem exec_pcieWarmReset_of_done (hb : s.image.boot = .done) :
    exec .pcieWarmReset s = .next (functionsAnew (s.pf0.jobsLost || jobsLost s) (warmResets s)) := by
  change execPcieWarmReset s = _
  have hstarted : ¬ (decide (s.image.boot ≠ .done) && s.image.replant.isNone) = true := by simp [hb]
  rw [execPcieWarmReset, if_neg hstarted]
  dsimp only
  rw [if_pos hb]
  rfl

theorem qpOf_functionsAnew (lost : Bool) (s : State) (f : FnIx) (i : QpIx) : qpOf (functionsAnew lost s) f i = Qp.reset := by
  have hfn : (functionsAnew lost s).func f = freshFn (s.func f) := Vector.getElem_map ..
  rw [qpOf, hfn]
  exact Vector.getElem_replicate ..

/-- Functions that start anew keep what a partition reset has begun. -/
theorem resetBegun_functionsAnew {q : PartIx} (h : ResetBegun q s) (lost : Bool) : ResetBegun q (functionsAnew lost s) :=
  { h with queues := fun i => by rw [qpOf_functionsAnew]; exact ⟨rfl, rfl⟩ }

theorem begun_resetAnew {q : PartIx} {u : State} (h : MayReset q u) : Begun q (resetAnew u q) := by
  rw [resetAnew, if_pos h.step]
  exact begun_beginReset h

theorem resetAnew_beside {q r : PartIx} (hr : q ≠ r) (u : State) : Beside q u (resetAnew u r) := by
  unfold resetAnew
  split
  · exact beginReset_beside hr u
  · exact ⟨rfl, id⟩

/-- The reset of every defined partition that is in none begins. -/
theorem resetBegun_warmResets {q : PartIx} (hb : s.image.boot = .done) (hd : (s.part q).defined = true)
    (hr : (s.part q).resetStep = .none) (hh : holdActive s = false) : ResetBegun q (warmResets s) := by
  have hmay : MayReset q { s with image := { s.image with replant := none } } := ⟨hd, hr, hb, rfl, hh⟩
  have hin : q ∈ definedParts { s with image := { s.image with replant := none } } :=
    List.mem_filter.2 ⟨List.mem_finRange q, hd⟩
  exact (begun_foldl (fun _ hu => begun_resetAnew hu) (fun _ u hr => resetAnew_beside hr u)
    ((List.nodup_finRange 16).filter _) hin hmay).toResetBegun

end

/-- Settles O41: the five device resets are one reset with five causes, and a warm reset is every partition's. -/
theorem deviceResets : Obligations.DeviceResets := by
  intro s reset
  have hreset : ∀ (c : Instr) (cause : BitVec 4) (railsFell : Bool), exec c s = .next (deviceReset cause railsFell s) →
      reset c cause.toNat := fun c cause railsFell hc => by
    obtain ⟨hwas, hfence, hreport⟩ := deviceReset_leaves cause railsFell s
    exact ⟨_, hc, hwas, congrArg BitVec.toNat hfence, congrArg BitVec.toNat hreport⟩
  refine ⟨hreset _ 0 true rfl, fun hm => ?_, fun e => hreset _ 2 true rfl, fun e => hreset _ 4 true rfl,
    fun temps hs ht => hreset _ 3 true (exec_thermalSample_of_trip hs ht), fun hb _ => ?_⟩
  · obtain ⟨hwas, -, -⟩ := deviceReset_leaves 1 false s
    exact ⟨_, exec_moduleReset_of_high hm, { hwas with }, rfl, rfl⟩
  · refine ⟨_, exec_pcieWarmReset_of_done hb, rfl, fun hl => ?_, fun f i => ?_, fun q hd hr hh => ?_⟩
    · rw [functionsAnew, hl, Bool.or_true]
    · rw [qpOf_functionsAnew]
      exact ⟨rfl, rfl⟩
    · exact resetBegun_functionsAnew (resetBegun_warmResets hb hd hr hh) _

end Sys2Proof.Machine
end

section
/-! MSI-X messages: when a vector sends, when the budget delays it, and how causes and masks are written (R304 to R306, R369). That
PF0 has no budget and that a delayed message is counted once are the model's (entry 80 of the assumption log). -/

namespace Sys2Proof.Machine

open Host

section
variable {s : State} {f : FnIx} {v : VecIx}

/-! ### The message of a vector (R306) -/

/-- MSIX_MESSAGE and IRQ_MODERATION_TIMEOUT each let one vector try to send. -/
theorem exec_msix_eq_tryMsix {c : Instr} (hc : c ∈ [Instr.msixMessage f v, .irqModerationTimeout f v]) :
    exec c s = .next (tryMsix f v s) := by
  simp only [List.mem_cons, List.not_mem_nil, or_false] at hc
  rcases hc with rfl | rfl <;> rfl

theorem tryMsix_of_not_ready (hr : irqReady s f v = false) : tryMsix f v s = s := by
  simp only [tryMsix, hr, Bool.not_false, if_true]

theorem irqBudget_iff : irqBudget s f = true ↔ fnPart f = none ∨ 0 < (s.func f).budget := by
  simp only [irqBudget, Bool.or_eq_true, Option.isNone_iff_eq_none, decide_eq_true_eq]

theorem tryMsix_of_budget (hr : irqReady s f v = true) (hb : irqBudget s f = true) : tryMsix f v s = sendMsix f v s := by
  simp only [tryMsix, hr, hb, Bool.not_true, Bool.false_eq_true, if_false, if_true]

/-- A function of which a message has left: counted, its budget one lower, and the events of the vector start anew. -/
theorem sendMsix_func : (sendMsix f v s).func f = { s.func f with
    sent := satAdd (s.func f).sent 1
    budget := (s.func f).budget - 1
    vecs := (s.func f).vecs.set v.val { (s.func f).vecs[v] with events := 0, lastAt := some s.time, late := false } v.isLt } :=
  State.onFunc_func ..

/-- A message that the budget delays: counted, and its vector marked. -/
def delayMsix (f : FnIx) (v : VecIx) (s : State) : State :=
  s.onFunc f fun x =>
    { x with throttled := satAdd x.throttled 1, vecs := x.vecs.set v.val { (s.func f).vecs[v] with late := true } v.isLt }

theorem tryMsix_of_late (hr : irqReady s f v = true) (hb : irqBudget s f = false) (hl : ((s.func f).vecs[v]).late = true) :
    tryMsix f v s = s := by
  simp only [tryMsix, hr, hb, hl, Bool.not_true, Bool.false_eq_true, if_false, if_true]

theorem tryMsix_of_not_late (hr : irqReady s f v = true) (hb : irqBudget s f = false) (hl : ((s.func f).vecs[v]).late = false) :
    tryMsix f v s = delayMsix f v s := by
  simp only [tryMsix, hr, hb, hl, Bool.not_true, Bool.false_eq_true, if_false]
  rfl

/-- Without budget a message is marked late, and counted as it becomes so. -/
theorem tryMsix_of_no_budget (hr : irqReady s f v = true) (hb : irqBudget s f = false) : (tryMsix f v s).mem = s.mem ∧
    ((tryMsix f v s).func f).cause = (s.func f).cause ∧
    ((tryMsix f v s).func f).vecs[v] = { (s.func f).vecs[v] with late := true } ∧
    ((tryMsix f v s).func f).throttled =
      if ((s.func f).vecs[v]).late then (s.func f).throttled else satAdd (s.func f).throttled 1 := by
  cases hl : ((s.func f).vecs[v]).late with
  | true =>
    rw [tryMsix_of_late hr hb hl]
    exact ⟨rfl, rfl, by rw [← hl], rfl⟩
  | false =>
    rw [tryMsix_of_not_late hr hb hl, delayMsix, State.onFunc_func]
    exact ⟨rfl, rfl, Vector.getElem_set_self .., rfl⟩

/-! ### Budgets and causes (R305, R306) -/

/-- With no vector delayed a refill is the new budget alone. -/
theorem exec_irqBudgetRefill_of_none_late {q : PartIx} (hq : fnPart f = some q) (ht : s.time.toNat % 1000000 = 0)
    (hl : ∀ v : VecIx, ((s.func f).vecs[v]).late = false) :
    exec (.irqBudgetRefill f) s = .next (s.onFunc f fun x => { x with budget := (s.part q).img.irqRate }) := by
  have hnone : (List.finRange 8).filter (fun v => ((s.func f).vecs[v]).late) = [] :=
    List.filter_eq_nil_iff.2 fun v _ => by simp only [hl, Bool.false_eq_true, not_false_eq_true]
  change execIrqBudgetRefill f s = _
  simp only [execIrqBudgetRefill, hq, ht, hnone, ne_eq, not_true_eq_false, if_false]
  rfl

/-- A bit of the lower byte of a word, cleared where that word has a one. -/
theorem getLsbD_and_not_low (cause : BitVec 8) (w : Word) {i : Nat} (hi : i < 8) :
    (cause &&& ~~~(BitVec.ofNat 8 w.toNat)).getLsbD i = (cause.getLsbD i && !w.getLsbD i) := by
  have hlow : (BitVec.ofNat 8 w.toNat).getLsbD i = w.getLsbD i := by
    simp only [BitVec.getLsbD_ofNat, hi, decide_true, Bool.true_and, BitVec.testBit_toNat]
  rw [BitVec.getLsbD_and, BitVec.getLsbD_not, hlow, decide_eq_true hi, Bool.true_and]

/-- Where the mask held no message back, clearing it sends none. -/
theorem tryAll_of_none_ready (h : ∀ v : VecIx, irqReady s f v = false) : tryAll f s = s :=
  List.foldl_fixed' (fun v => tryMsix_of_not_ready (h v)) _

end

/-- Settles O47: a vector that is ready sends or is delayed as the budget decides, and one that is not ready does nothing. -/
theorem interrupts : Obligations.Interrupts := by
  intro s f
  refine ⟨fun v c hc => ?_, fun q hq ht hl => exec_irqBudgetRefill_of_none_late hq ht hl, fun w => ?_, rfl, fun h => ?_⟩
  · rw [exec_msix_eq_tryMsix hc]
    refine ⟨fun hr hb => ⟨_, rfl, ?_⟩, fun hr hq hb => ⟨_, rfl, tryMsix_of_no_budget hr ?_⟩,
      fun hr => congrArg Outcome.next (tryMsix_of_not_ready hr)⟩
    · rw [tryMsix_of_budget hr (irqBudget_iff.2 hb)]
      rw [sendMsix_func]
      exact ⟨rfl, rfl, rfl, rfl, Vector.getElem_set_self ..,
        fun k hk => Vector.getElem_set_ne v.isLt k.isLt fun h => hk (Fin.ext h).symm⟩
    · rw [Bool.eq_false_iff, ne_eq, irqBudget_iff, hb]
      exact fun h => h.elim hq (lt_irrefl 0)
  · refine ⟨_, rfl, rfl, ?_, fun i hi => ?_⟩
    · rw [State.onFunc_func]
    · rw [State.onFunc_func]
      exact getLsbD_and_not_low _ w hi
  · exact congrArg Outcome.next (tryAll_of_none_ready h)

end Sys2Proof.Machine
end

section
/-! What no command touches: the queue behind the one that runs, and what is fused (R2, R353). That the commands stand in one queue is
the model's (entry 1 of the assumption log). -/

namespace Sys2Proof.Machine

open Host

/-- Settles O2: the queue is a part of what a step keeps of the state without its first command. -/
theorem stepConsumesOneCommand : Obligations.StepConsumesOneCommand := fun _ _ h => (step_kept h).pending

/-- Settles O5: key hashes, revocation fuses and order code are parts of what a step keeps. -/
theorem fusesNeverChange : Obligations.FusesNeverChange := fun _ _ h =>
  have hkept := step_kept h
  ⟨hkept.keyHash, hkept.revoked, hkept.order⟩

end Sys2Proof.Machine
end

section
/-! Bed clocks: where a bed's step leads, and what a look at a bed changes (R325, R333, R334). That a TARGET above 24 is taken as 24,
and that CURRENT changes when a step completes, are the model's (entry 81 of the assumption log). -/

namespace Sys2Proof.Machine

open Host

section
variable {s : State} {b : BedIx}

/-- The step that a bed begins on its way from one step to another: up, down, or none where it is there. -/
def stepToward (cur goal : Nat) : Option Bool :=
  if cur < goal then some true else if goal < cur then some false else none

theorem stepToward_self (n : Nat) : stepToward n n = none := by
  simp only [stepToward, lt_irrefl, if_false]

theorem stepToward_of_ne {cur goal : Nat} (h : cur ≠ goal) : stepToward cur goal = some (decide (cur < goal)) := by
  rcases Nat.lt_or_gt_of_ne h with hlt | hgt
  · simp only [stepToward, hlt, if_true, decide_true]
  · simp only [stepToward, hgt, Nat.lt_asymm hgt, if_true, if_false, decide_false]

/-- A look at a bed changes the step under way there, and nothing else. -/
theorem clockKick_eq_onBed (b : BedIx) (s : State) : clockKick b s = s.onBed b fun x =>
    { x with stepping := x.stepping.or (stepToward x.current.toNat (clockGoal s b)) } := by
  have hstay : ∀ o : Option Bool, (s.bed b).stepping = o → s = s.onBed b fun x => { x with stepping := o } := fun o ho => by
    rw [State.onBed_id]
    rw [← ho]
  unfold clockKick
  dsimp only
  split
  case isTrue h =>
    rw [Bool.or_eq_true, decide_eq_true_eq] at h
    rcases h with h | h
    · obtain ⟨up, hup⟩ := Option.isSome_iff_exists.1 h
      rw [State.onBed, hup, Option.some_or]
      exact hstay _ hup
    · rw [State.onBed, h, stepToward_self, Option.or_none]
      exact hstay _ rfl
  case isFalse h =>
    rw [Bool.or_eq_true, decide_eq_true_eq, not_or, Option.not_isSome_iff_eq_none] at h
    obtain ⟨hnone, hne⟩ := h
    rw [State.onBed, State.onBed, hnone, stepToward_of_ne hne, Option.none_or]

theorem clockKick_bed_stepping : ((clockKick b s).bed b).stepping =
    (s.bed b).stepping.or (stepToward (s.bed b).current.toNat (clockGoal s b)) := by
  rw [clockKick_eq_onBed, State.onBed_bed]

theorem clockKick_bed_current (k : BedIx) : ((clockKick b s).bed k).current = (s.bed k).current := by
  rw [clockKick_eq_onBed, State.onBed_bed_if]
  split
  · subst_vars
    rfl
  · rfl

theorem clockKick_bed_target (k : BedIx) : ((clockKick b s).bed k).target = (s.bed k).target := by
  rw [clockKick_eq_onBed, State.onBed_bed_if]
  split
  · subst_vars
    rfl
  · rfl

theorem clockKick_bed_ne {k : BedIx} (h : k ≠ b) : (clockKick b s).bed k = s.bed k := by
  rw [clockKick_eq_onBed, State.onBed_bed_ne s _ h]

/-- A look at a bed changes no part of the state but the beds. -/
theorem clockKick_eq_beds (b : BedIx) (s : State) : clockKick b s = { s with beds := (clockKick b s).beds } := by
  rw [clockKick_eq_onBed]
  rfl

/-- A look at every bed changes no part of the state but the beds. -/
theorem kickClocks_eq_beds (s : State) : kickClocks s = { s with beds := (kickClocks s).beds } := by
  unfold kickClocks forAll
  generalize List.finRange 16 = l
  induction l generalizing s with
  | nil => rfl
  | cons k l ih =>
    rw [List.foldl_cons, ih]
    dsimp only
    rw [clockKick_eq_beds]

/-- A bed whose step and target are set, and that is then looked at. -/
theorem clockGoal_onBed (f : Bed → Bed) : clockGoal (s.onBed b f) b = min (f (s.bed b)).target.toNat (bedCeil s b) := by
  rw [clockGoal, State.onBed_bed]
  rfl

/-- A larger TARGET than 24 is stored as 24. -/
theorem toNat_capped_target (step : BitVec 5) : (if 24 < step.toNat then 24 else step : BitVec 5).toNat = min 24 step.toNat := by
  split
  case isTrue h => exact (min_eq_left h.le).symm
  case isFalse h => rw [min_eq_right (Nat.le_of_not_lt h)]

/-- The step of a bed that is not at one end moves by one. -/
theorem toNat_moved_step {up : Bool} {cur : BitVec 5} (h : if up then cur.toNat < 24 else 0 < cur.toNat) :
    (if up then cur + 1 else cur - 1).toNat = if up then cur.toNat + 1 else cur.toNat - 1 := by
  cases up
  · simp only [Bool.false_eq_true, if_false] at h ⊢
    bv_omega
  · simp only [if_true] at h ⊢
    bv_omega

end

/-- Settles O33: a TARGET written and a step completed each end with one look at the bed. That a TARGET above 24 is taken as 24 and
that CURRENT changes as the step completes are entry 81 of the assumption log. -/
theorem clocksStep : Obligations.ClocksStep := by
  intro s b x kicked
  refine ⟨fun step => ⟨_, rfl, ?_, ?_, fun hnone => ?_, fun hsome => ?_, fun k hk => ?_, ?_, ?_⟩, fun up hup hend => ?_⟩
  · rw [setTarget, clockKick_bed_target, State.onBed_bed]
    exact toNat_capped_target step
  · rw [setTarget, clockKick_bed_current, State.onBed_bed]
  · change _ = stepToward _ _
    rw [setTarget, clockKick_bed_stepping, clockGoal_onBed, State.onBed_bed, toNat_capped_target, hnone, Option.none_or]
  · obtain ⟨up, hup⟩ := Option.ne_none_iff_exists'.1 hsome
    rw [setTarget, clockKick_bed_stepping, State.onBed_bed, hup, Option.some_or]
  · rw [setTarget, clockKick_bed_ne hk, State.onBed_bed_ne _ _ hk]
  · rw [setTarget, clockKick_eq_beds, State.onBed_plots]
  · rw [setTarget, clockKick_eq_beds, State.onBed_mem]
  · have hexec : exec (.clockStepComplete b) s = .next (clockKick b (s.onBed b fun x =>
        { x with current := if up then x.current + 1 else x.current - 1, stepping := none })) := by
      change execClockStepComplete b s = _
      rw [execClockStepComplete, hup]
    refine ⟨_, hexec, ?_, ?_, ?_, fun k hk => ?_, ?_, ?_⟩
    · rw [clockKick_bed_current, State.onBed_bed]
      exact toNat_moved_step hend
    · rw [clockKick_bed_target, State.onBed_bed]
    · change _ = stepToward _ _
      rw [clockKick_bed_stepping, clockGoal_onBed, clockKick_bed_current, State.onBed_bed, Option.none_or]
    · rw [clockKick_bed_ne hk, State.onBed_bed_ne _ _ hk]
    · rw [clockKick_eq_beds, State.onBed_plots]
    · rw [clockKick_eq_beds, State.onBed_mem]

end Sys2Proof.Machine
end

section
/-! The Fence's own events: what ALERT_N, admission, safe hold and a cause change of the state (R304, R334, R335, R339). -/

namespace Sys2Proof.Machine

open Host

/-! ### Folds in which one element acts -/

/-- In a fold over distinct elements a view changes once, where only one of them acts on it. -/
theorem foldl_acts_once {σ ι γ : Type} {F : σ → ι → σ} {g : σ → γ} {φ : γ → γ} {q : ι} (hact : ∀ u, g (F u q) = φ (g u)) {l : List ι}
    (hskip : ∀ k ∈ l, k ≠ q → ∀ u, g (F u k) = g u) (hl : l.Nodup) (hq : q ∈ l) (s : σ) : g (l.foldl F s) = φ (g s) := by
  induction l generalizing s with
  | nil => exact absurd hq List.not_mem_nil
  | cons k l ih =>
    obtain ⟨hk, hl⟩ := List.nodup_cons.1 hl
    rw [List.foldl_cons]
    by_cases hkq : k = q
    · subst hkq
      rw [← hact]
      exact List.foldlRecOn (motive := fun u => g u = g (F s k)) l F rfl fun u hu j hj =>
        (hskip j (List.mem_cons_of_mem _ hj) (fun e => hk (e ▸ hj)) u).trans hu
    · rw [ih (fun j hj => hskip j (List.mem_cons_of_mem _ hj)) hl ((List.mem_cons.1 hq).resolve_left (Ne.symm hkq)),
        hskip k List.mem_cons_self hkq]

/-! ### ALERT_N (R334) -/

/-- ALERT_N changes its own two registers alone. -/
theorem noteAlert_eq_fence (before after : State) : ∃ t m, noteAlert before after =
    { after with fence := { after.fence with alertAt := t, alertMin := m } } := by
  unfold noteAlert
  split
  · exact ⟨_, _, rfl⟩
  · exact ⟨_, _, rfl⟩

theorem noteAlert_keeps_view {γ : Type} {g : State → γ}
    (halert : ∀ t m u, g { u with fence := { u.fence with alertAt := t, alertMin := m } } = g u) (before after : State) :
    g (noteAlert before after) = g after := by
  obtain ⟨t, m, hnote⟩ := noteAlert_eq_fence before after
  rw [hnote, halert]

/-! ### Causes (R304) -/

theorem causesHeld_pf0 (s : State) : causesHeld s pf0Fn = false := rfl

/-- A cause that nothing holds is latched. -/
theorem raiseEvent_cause {s : State} {f : FnIx} (h : causesHeld s f = false) (v : VecIx) :
    ((raiseEvent f v s).func f).cause.getLsbD v.val = true := by
  have hv : v.val < 8 := v.isLt
  rw [raiseEvent, if_neg (by simp only [h, Bool.false_eq_true, not_false_eq_true]), State.onFunc_func]
  simp only [BitVec.getLsbD_or, BitVec.getLsbD_ofNat, hv, decide_true, Nat.testBit_two_pow_self, Bool.and_self, Bool.or_true]

/-! ### Safe hold (R339) -/

/-- The registers of the Fence as safe hold begins. -/
def safeEntered (cause : BitVec 4) (s : State) : State :=
  { s with fence := { s.fence with safe := true, safeCause := cause, mode := if holdActive s then s.fence.mode else 4 } }

theorem safeHold_of_safe (cause : BitVec 4) {s : State} (h : s.fence.safe = true) : safeHold cause s = s := if_pos h

theorem safeHold_of_not_safe (cause : BitVec 4) {s : State} (h : s.fence.safe = false) : safeHold cause s =
    noteAlert s (fenceEvent (admitAll (fun a => a = 0 || a = 1) 2 (safeEntered cause s))) :=
  if_neg (Bool.eq_false_iff.1 h)

section
variable {γ : Type} {g : State → γ} (hfunc : ∀ f h u, g (State.onFunc u f h) = g u)
include hfunc

/-- A record of a pruning, for a view that the log decides. -/
theorem recordPrune_keeps_view (kind index sub : Nat) (c : PruneCause) (count returns : Nat) (s : State) :
    g (recordPrune kind index sub c count returns s) = g (queueLog 1 11 (prunePayload kind index sub (causeCode c) count returns) s) := by
  rw [recordPrune, raiseDevice, raiseEvent_keeps_view hfunc]

/-- An event of the Fence, for a view without causes and without the Almanac's events. -/
theorem fenceEvent_keeps_view (halm : ∀ v u, g { u with alm := v } = g u) (s : State) : g (fenceEvent s) = g s :=
  (halm ..).trans (raiseEvent_keeps_view hfunc ..)

variable (hadm : ∀ r a u, g (State.onPart u r fun x => { x with adm := a }) = g u) (hbvl : ∀ v u, g { u with bvl := v } = g u)
  (halm : ∀ v u, g { u with alm := v } = g u)
include hadm hbvl

theorem admitAll_keeps_view (p : BitVec 3 → Bool) (a : BitVec 3) (s : State) : g (admitAll p a s) = g s :=
  foldl_keeps g (fun _ _ => setAdmit_keeps_view hfunc hadm hbvl ..) _ _

include halm

/-- Safe hold, for a view without causes, admission, the fabric and the Fence's modes. -/
theorem safeHold_keeps_view (hsafe : ∀ (b : Bool) (c : BitVec 4) (m : BitVec 3) u,
    g { u with fence := { u.fence with safe := b, safeCause := c, mode := m } } = g u)
    (halert : ∀ t m u, g { u with fence := { u.fence with alertAt := t, alertMin := m } } = g u) (cause : BitVec 4) (s : State) :
    g (safeHold cause s) = g s := by
  cases h : s.fence.safe with
  | true => rw [safeHold_of_safe cause h]
  | false =>
    obtain ⟨t, m, hnote⟩ := noteAlert_eq_fence s (fenceEvent (admitAll (fun a => a = 0 || a = 1) 2 (safeEntered cause s)))
    rw [safeHold_of_not_safe cause h, hnote, halert, fenceEvent_keeps_view hfunc halm, admitAll_keeps_view hfunc hadm hbvl,
      safeEntered, hsafe]

end

/-- The module is in safe hold afterwards. -/
theorem safeHold_safe (cause : BitVec 4) (s : State) : (safeHold cause s).fence.safe = true := by
  cases h : s.fence.safe with
  | true => rw [safeHold_of_safe cause h, h]
  | false =>
    obtain ⟨t, m, hnote⟩ := noteAlert_eq_fence s (fenceEvent (admitAll (fun a => a = 0 || a = 1) 2 (safeEntered cause s)))
    rw [safeHold_of_not_safe cause h, hnote]
    dsimp only
    rw [fenceEvent_keeps_view (g := (·.fence.safe)) (fun _ _ _ => by rfl) fun _ _ => by rfl,
      admitAll_keeps_view (g := (·.fence.safe)) (fun _ _ _ => by rfl) (fun _ _ _ => by rfl) fun _ _ => by rfl, safeEntered]

/-- The cause FENCE of PF0 is latched by an event of the Fence. -/
theorem fenceEvent_cause (s : State) : ((fenceEvent s).func pf0Fn).cause.getLsbD 4 = true :=
  raiseEvent_cause (causesHeld_pf0 s) 4

end Sys2Proof.Machine
end

section
/-! The gauge interval and the thermal sample: votes, ledgers, credits, cap limits and heartbeats (R320 to R323, R326, R333, R336, R338).
That credit is judged after lending, that limits move one step per sample, the ten samples, and that a vote that fails goes on with
the first copy, are the model's (entries 82 and 83 of the assumption log). -/

namespace Sys2Proof.Machine

open Host

/-! ### Votes (R338) -/

/-- A register whose vote rewrites no copy stays as it is. -/
theorem triRepair_of_no_fix {n : Nat} {t : Tri n} (h : triFixes t = some 0) : triRepair t = t := by
  obtain ⟨a, b, c, okA, okB, okC⟩ := t
  cases okA <;> cases okB <;> cases okC <;> simp only [triFixes, triVote] at h
  all_goals simp only [triRepair, triVote, Tri.of]
  all_goals split_ifs at h ⊢ <;> simp_all

/-- Where every vote finds three equal copies the registers stay. -/
theorem repairAll_of_no_fix {r : FenceRegs} (h : ∀ v ∈ voteAll r, v = some 0) : repairAll r = r := by
  simp only [voteAll, List.mem_append, List.mem_cons, List.not_mem_nil, or_false, List.mem_map] at h
  have hshare : r.share.map triRepair = r.share := by
    refine Vector.ext fun i hi => ?_
    rw [Vector.getElem_map]
    exact triRepair_of_no_fix (h _ (.inr ⟨_, Vector.mem_toList_iff.2 (Vector.getElem_mem hi), rfl⟩))
  simp only [repairAll, hshare]
  rw [triRepair_of_no_fix (h _ (.inl (.inl rfl))), triRepair_of_no_fix (h _ (.inl (.inr (.inl rfl)))),
    triRepair_of_no_fix (h _ (.inl (.inr (.inr (.inl rfl))))), triRepair_of_no_fix (h _ (.inl (.inr (.inr (.inr (.inl rfl)))))),
    triRepair_of_no_fix (h _ (.inl (.inr (.inr (.inr (.inr (.inl rfl))))))),
    triRepair_of_no_fix (h _ (.inl (.inr (.inr (.inr (.inr (.inr rfl)))))))]

/-- The vote's count of repairs. -/
def voted (s : State) : State :=
  { s with fence := { s.fence with repaired := satAdd s.fence.repaired ((voteAll s.fence.regs).map fun v => v.getD 0).sum } }

/-- An interval in which every vote agrees and nothing upsets a copy changes the count of repairs at most. -/
theorem voteInterval_of_agreement {s : State} (h : ∀ v ∈ voteAll s.fence.regs, v = some 0) : voteInterval [] s = voted s := by
  have hnone : (voteAll s.fence.regs).contains none = false := by
    rw [Bool.eq_false_iff, ne_eq, List.contains_iff_mem]
    exact fun hin => nomatch h none hin
  simp only [voteInterval, List.foldl_nil, hnone, Bool.false_eq_true, if_false, repairAll_of_no_fix h, voted]

/-- A vote that fails enters safe hold. -/
theorem voteInterval_safe {s : State} {ups : List CopyUpset} (h : none ∈ voteAll (ups.foldl upsetReg s.fence.regs)) :
    (voteInterval ups s).fence.safe = true := by
  rw [voteInterval, if_pos (List.contains_iff_mem.2 h), safeHold_safe]

/-! ### Ledgers (R321, R322) -/

section
variable {old s : State} {e : Nat} {q : PartIx}

/-- The ledger that a partition is settled to. -/
def settledBalance (old : State) (e : Nat) (q : PartIx) : Int := min (rawBalance old e q) (burstOf old q) + lentTo old e q

/-- The credit of each powered bed of a partition in 8 nJ units. -/
def bedCredit (old : State) (e : Nat) (q : PartIx) : Int :=
  (125000 * (shareW old q : Int) + 125 * lentTo old e q) / (poweredBeds old q).length

/-- A bed of a settled partition after its credit. -/
def creditedBed (old : State) (e : Nat) (q : PartIx) (x : Bed) : Bed :=
  if settledBalance old e q < 0 then x else creditBed (bedCredit old e q) x

theorem settlePart_eq : settlePart old e s q =
    forAll (if settledBalance old e q < 0 then [] else poweredBeds old q) (fun u b => u.onBed b (creditBed (bedCredit old e q)))
      (s.onPart q fun x => { x with bal := settledBalance old e q, mw := BitVec.ofInt 32 (attributed old e q) }) := by
  unfold settlePart
  dsimp only
  split
  case isTrue h => rw [if_pos (show settledBalance old e q < 0 from h)]; rfl
  case isFalse h => rw [if_neg (show ¬ settledBalance old e q < 0 from h)]; rfl

/-- A settlement, for a view of no bed. -/
theorem settlePart_keeps_view {γ : Type} {g : State → γ} (hbed : ∀ b f u, g (State.onBed u b f) = g u) : g (settlePart old e s q) =
    g (s.onPart q fun x => { x with bal := settledBalance old e q, mw := BitVec.ofInt 32 (attributed old e q) }) := by
  rw [settlePart_eq]
  exact foldl_keeps g (fun _ _ => hbed ..) _ _

/-- A partition's settlement gives its ledger, and no other's. -/
theorem settlePart_bal (k : PartIx) :
    ((settlePart old e s k).part q).bal = if q = k then settledBalance old e k else (s.part q).bal := by
  rw [settlePart_keeps_view (g := fun u => (u.part q).bal) fun _ _ _ => by rfl, State.onPart_part_if]
  split <;> rfl

theorem poweredBeds_nodup : (poweredBeds old q).Nodup := ((List.nodup_finRange 16).filter _).filter _

theorem mem_poweredBeds_iff {b : BedIx} : b ∈ poweredBeds old q ↔ b ∈ bedsOf old q ∧ bedPowered old b = true := List.mem_filter

/-- The powered bed of a partition has its credit. -/
theorem settlePart_bed_of_mem {b : BedIx} (h : b ∈ poweredBeds old q) :
    (settlePart old e s q).bed b = creditedBed old e q (s.bed b) := by
  rw [settlePart_eq, creditedBed]
  split
  case isTrue => rfl
  case isFalse =>
    exact foldl_acts_once (g := fun u : State => u.bed b) (F := fun u k => u.onBed k (creditBed (bedCredit old e q)))
      (fun u => State.onBed_bed ..) (fun k _ hk u => State.onBed_bed_ne _ _ (Ne.symm hk)) poweredBeds_nodup h _

/-- A bed that is no powered bed of a partition stays as it is. -/
theorem settlePart_bed_of_not_mem {b : BedIx} (h : b ∉ poweredBeds old q) : (settlePart old e s q).bed b = s.bed b := by
  rw [settlePart_eq]
  refine foldl_keeps_of_mem (fun u => u.bed b) (fun k hk u => State.onBed_bed_ne _ _ fun hbk => h ?_) _
  subst hbk
  split at hk
  · exact absurd hk List.not_mem_nil
  · exact hk

theorem definedParts_nodup : (definedParts s).Nodup := (List.nodup_finRange 16).filter _

theorem mem_definedParts_iff : q ∈ definedParts s ↔ (s.part q).defined = true := by
  simp only [definedParts, List.mem_filter, List.mem_finRange, true_and]

/-- A settlement of every partition, for a view that no ledger and no bed touches. -/
theorem settleAll_keeps_view {γ : Type} {g : State → γ} (hbeds : ∀ v u, g { u with beds := v } = g u)
    (hpart : ∀ k bal mw u, g (State.onPart u k fun x => { x with bal := bal, mw := mw }) = g u) : g (settleAll e s) = g s :=
  (hbeds ..).trans (foldl_keeps g (fun _ _ => (settlePart_keeps_view fun _ _ u => hbeds _ u).trans (hpart ..)) _ _)

/-- Every defined partition has its settled ledger. -/
theorem settleAll_bal (h : (s.part q).defined = true) : ((settleAll e s).part q).bal = settledBalance s e q := by
  refine foldl_acts_once (F := settlePart s e) (g := fun u : State => (u.part q).bal) (φ := fun _ => settledBalance s e q)
    (fun u => ?_) (fun k _ hk u => ?_) definedParts_nodup (mem_definedParts_iff.2 h) s
  · rw [settlePart_bal, if_pos rfl]
  · rw [settlePart_bal, if_neg (Ne.symm hk)]

/-- A powered bed of one defined partition has that partition's credit, and its debits start anew. -/
theorem settleAll_bed {b : BedIx} (h : (s.part q).defined = true) (hb : b ∈ poweredBeds s q)
    (honly : ∀ k : PartIx, (s.part k).defined = true → b ∈ bedsOf s k → k = q) :
    (settleAll e s).bed b = { creditedBed s e q (s.bed b) with debited := 0 } := by
  have hfold : ((definedParts s).foldl (settlePart s e) s).bed b = creditedBed s e q (s.bed b) := by
    refine foldl_acts_once (g := fun u : State => u.bed b) (φ := creditedBed s e q) (fun u => settlePart_bed_of_mem hb)
      (fun k hk hkq u => settlePart_bed_of_not_mem fun hbk => hkq ?_) definedParts_nodup (mem_definedParts_iff.2 h) s
    exact honly k (mem_definedParts_iff.1 hk) (mem_poweredBeds_iff.1 hbk).1
  rw [← hfold, State.bed]
  exact Vector.getElem_map ..

theorem settleAll_debited (b : BedIx) : ((settleAll e s).bed b).debited = 0 := by
  rw [State.bed]
  exact congrArg Bed.debited (Vector.getElem_map ..)

/-- The energy of a bed after a credit. -/
theorem creditedBed_energy (x : Bed) : (creditedBed old e q x).energy =
    if 0 ≤ settledBalance old e q ∧ 0 < bedCredit old e q then min (x.energy + bedCredit old e q) (2 * bedCredit old e q)
    else x.energy := by
  unfold creditedBed creditBed
  split
  case isTrue h => rw [if_neg fun hc => absurd hc.1 (not_le.2 h)]
  case isFalse h =>
    split
    case isTrue hc => rw [if_neg fun hp => absurd hp.2 (not_lt.2 hc)]
    case isFalse hc => rw [if_pos ⟨not_lt.1 h, not_le.1 hc⟩]

end

/-! ### Limits and heartbeats (R326, R336) -/

section
variable {s : State}

/-- The limits of R326 fit in five bits. -/
theorem capStep_lt (s : State) (e : Nat) (lim : BitVec 5) : capStep s e lim.toNat < 32 := by
  unfold capStep
  split_ifs <;> omega

theorem capInterval_cap (e : Nat) (s : State) (b : BedIx) :
    ((capInterval e s).fence.ceils[b]).cap.toNat = capStep s e (s.fence.ceils[b]).cap.toNat := by
  rw [capInterval, kickClocks_eq_beds, Fin.getElem_fin, Vector.getElem_map, BitVec.toNat_ofNat]
  exact Nat.mod_eq_of_lt (capStep_lt s e _)

theorem capInterval_bed (e : Nat) (s : State) (b : BedIx) : ((capInterval e s).bed b).energy = (s.bed b).energy ∧
    ((capInterval e s).bed b).debited = (s.bed b).debited := by
  have hkick : ∀ (k : BedIx) (u : State), (((clockKick k u).bed b).energy, ((clockKick k u).bed b).debited) =
      ((u.bed b).energy, (u.bed b).debited) := fun k u => by
    rw [clockKick_eq_onBed, State.onBed_bed_if]
    split
    · subst_vars
      rfl
    · rfl
  exact Prod.mk.inj (foldl_keeps (fun u : State => ((u.bed b).energy, (u.bed b).debited)) (fun u k => hkick k u) _ _)

/-- A core whose counter has moved is noted with the time. -/
theorem heartbeats_core {c : CoreIx} (h : (s.core c).beat ≠ (s.core c).seen) :
    (heartbeats s).core c = { s.core c with seen := (s.core c).beat, seenAt := s.time } := by
  rw [State.core]
  exact (Vector.getElem_map ..).trans (if_pos h)

end

/-! ### The gauge interval (R320) -/

section
variable {s : State}

/-- The Fence's ledger and measurements after an interval. -/
def measured (microJ : BitVec 32) (s : State) : State :=
  { s with fence := { s.fence with
    energy := s.fence.energy + BitVec.ofNat 64 microJ.toNat
    power := microJ
    bal := min (s.fence.bal + 1000 * pCap s - microJ.toNat) (dMax s) } }

/-- The settlement looks at the shares, the ledgers and the debits alone. -/
theorem settledBalance_congr {t : State} (hregs : t.fence.regs = s.fence.regs) (hparts : t.parts = s.parts) (hbeds : t.beds = s.beds)
    (e : Nat) (q : PartIx) : settledBalance t e q = settledBalance s e q ∧ lentTo t e q = lentTo s e q := by
  have hshare : shareW t = shareW s := by simp only [funext_iff, shareW, hregs, implies_true]
  have hdebited : debitedBy t = debitedBy s := by
    simp only [funext_iff, debitedBy, bedsOf, State.part, State.bed, hparts, hbeds, implies_true]
  have hdefined : definedParts t = definedParts s := by simp only [definedParts, State.part, hparts]
  have hburst : burstOf t = burstOf s := by simp only [funext_iff, burstOf, burstMs, hshare, hregs, implies_true]
  have hattributed : attributed t e = attributed s e := by
    funext k
    unfold attributed baseW
    rw [hdebited, hdefined, hregs]
  have hraw : rawBalance t e = rawBalance s e := by
    simp only [funext_iff, rawBalance, State.part, hparts, hshare, hattributed, implies_true]
  have hlent : lentTo t e q = lentTo s e q := by
    unfold lentTo borrowers lendPool
    rw [hdefined, hshare, hraw, hburst]
  exact ⟨by rw [settledBalance, hraw, hburst, hlent, settledBalance], hlent⟩

theorem poweredBeds_congr {t : State} (hparts : t.parts = s.parts) (hplots : t.plots = s.plots) (q : PartIx) :
    poweredBeds t q = poweredBeds s q := by
  have hpowered : bedPowered t = bedPowered s := by
    funext b
    unfold bedPowered State.plot
    rw [hplots]
  simp only [poweredBeds, bedsOf, State.part, hparts, hpowered]

theorem measured_part (microJ : BitVec 32) (s : State) (q : PartIx) : (measured microJ (voted s)).part q = s.part q := by
  simp only [State.part, measured, voted]

theorem measured_bed (microJ : BitVec 32) (s : State) (b : BedIx) : (measured microJ (voted s)).bed b = s.bed b := by
  simp only [State.bed, measured, voted]

theorem measured_core (microJ : BitVec 32) (s : State) (c : CoreIx) : (measured microJ (voted s)).core c = s.core c := by
  simp only [State.core, measured, voted]

/-- The cap and its ceiling look at safe hold, recovery and the registers alone. -/
theorem caps_congr {t : State} (hsafe : t.fence.safe = s.fence.safe) (hregs : t.fence.regs = s.fence.regs)
    (himage : t.image = s.image) : pCap t = pCap s ∧ dMax t = dMax s := by
  have hheld : capHeld t = capHeld s := by rw [capHeld, hsafe, himage, capHeld]
  have hw : capW t = capW s := by rw [capW, hregs, capW]
  have hburst : burstMs t = burstMs s := by rw [burstMs, hregs, burstMs]
  exact ⟨by rw [pCap, hheld, hw, pCap], by rw [dMax, hheld, hw, hburst, dMax]⟩

theorem caps_voted (s : State) : pCap (voted s) = pCap s ∧ dMax (voted s) = dMax s :=
  caps_congr (by simp only [voted]) (by simp only [voted]) (by simp only [voted])

theorem caps_measured (microJ : BitVec 32) (s : State) :
    pCap (measured microJ (voted s)) = pCap s ∧ dMax (measured microJ (voted s)) = dMax s :=
  caps_congr (by simp only [measured, voted]) (by simp only [measured, voted]) (by simp only [measured, voted])

theorem measured_bal (microJ : BitVec 32) (s : State) : (measured microJ (voted s)).fence.bal =
    min (s.fence.bal + 1000 * pCap s - microJ.toNat) (dMax s) := by
  obtain ⟨hcap, hmax⟩ := caps_voted s
  simp only [measured, hcap, hmax]
  simp only [voted]

theorem measured_ceils (microJ : BitVec 32) (s : State) : (measured microJ (voted s)).fence.ceils = s.fence.ceils := by
  simp only [measured, voted]

theorem measured_time (microJ : BitVec 32) (s : State) : (measured microJ (voted s)).time = s.time := by
  simp only [measured, voted]

theorem bedsOf_measured (microJ : BitVec 32) (s : State) (q : PartIx) : bedsOf (measured microJ (voted s)) q = bedsOf s q := by
  simp only [bedsOf, measured_part]

theorem poweredBeds_measured (microJ : BitVec 32) (s : State) (q : PartIx) :
    poweredBeds (measured microJ (voted s)) q = poweredBeds s q :=
  poweredBeds_congr (by simp only [measured, voted]) (by simp only [measured, voted]) q

/-- What is measured moves no credit. -/
theorem settled_measured (microJ : BitVec 32) (s : State) (e : Nat) (q : PartIx) :
    settledBalance (measured microJ (voted s)) e q = settledBalance s e q ∧
    bedCredit (measured microJ (voted s)) e q = bedCredit s e q := by
  have hregs : (measured microJ (voted s)).fence.regs = s.fence.regs := by simp only [measured, voted]
  have hparts : (measured microJ (voted s)).parts = s.parts := by simp only [measured, voted]
  obtain ⟨hbal, hlent⟩ := settledBalance_congr hregs hparts (by simp only [measured, voted]) e q
  have hbeds := poweredBeds_measured microJ s q
  refine ⟨hbal, ?_⟩
  rw [bedCredit, hlent, hbeds, bedCredit, shareW, hregs, shareW]

/-- Ledgers, cap limits and heartbeats after the measurement. -/
def interval (e : Nat) (s : State) : State := heartbeats (capInterval e (settleAll e s))

theorem exec_gaugeInterval_of_supply (h : s.fence.supply ≠ .off) (microJ : BitVec 32) (ups : List CopyUpset) :
    exec (.gaugeInterval microJ ups) s =
      .next (noteAlert s (interval microJ.toNat (measured microJ (voteInterval ups s)))) := by
  change execGaugeInterval microJ ups s = _
  rw [execGaugeInterval, if_neg h]
  rfl

/-- Fields that no ledger, no credit and no limit is. -/
theorem interval_keeps_view {γ : Type} {g : State → γ} (hbeds : ∀ v u, g { u with beds := v } = g u)
    (hpart : ∀ k bal mw u, g (State.onPart u k fun x => { x with bal := bal, mw := mw }) = g u)
    (hceils : ∀ v u, g { u with fence := { u.fence with ceils := v } } = g u) (hcores : ∀ v u, g { u with cores := v } = g u) (e : Nat)
    (s : State) : g (interval e s) = g s := by
  rw [interval, heartbeats, hcores, capInterval, kickClocks_eq_beds, hbeds, hceils, settleAll_keeps_view hbeds hpart]

/-- The Fence's measurements, and what it does not touch. -/
theorem interval_leaves (e : Nat) (s : State) : (interval e s).mem = s.mem ∧ (interval e s).plots = s.plots ∧
    (interval e s).fence.bal = s.fence.bal ∧ (interval e s).fence.power = s.fence.power ∧
    (interval e s).fence.energy = s.fence.energy ∧ (interval e s).fence.safe = s.fence.safe := by
  have hview := interval_keeps_view
    (g := fun u => (u.mem, u.plots, u.fence.bal, u.fence.power, u.fence.energy, u.fence.safe)) (fun _ _ => by rfl)
    (fun _ _ _ _ => by rfl) (fun _ _ => by rfl) (fun _ _ => by rfl) e s
  simpa only [Prod.mk.injEq] using hview

theorem interval_parts (e : Nat) (s : State) : (interval e s).parts = (settleAll e s).parts := by
  rw [interval, heartbeats, capInterval, kickClocks_eq_beds]

theorem interval_beds (e : Nat) (s : State) : (interval e s).beds = (capInterval e (settleAll e s)).beds := by
  rw [interval, heartbeats]

theorem interval_bal (e : Nat) {q : PartIx} (h : (s.part q).defined = true) :
    ((interval e s).part q).bal = settledBalance s e q := by
  rw [← settleAll_bal h, State.part, interval_parts, State.part]

theorem interval_bed (e : Nat) (s : State) (b : BedIx) : ((interval e s).bed b).energy = ((settleAll e s).bed b).energy ∧
    ((interval e s).bed b).debited = 0 := by
  obtain ⟨henergy, hdebited⟩ := capInterval_bed e (settleAll e s) b
  rw [State.bed, interval_beds]
  exact ⟨henergy, hdebited.trans (settleAll_debited b)⟩

theorem interval_bed_energy (e : Nat) {q : PartIx} {b : BedIx} (h : (s.part q).defined = true) (hb : b ∈ poweredBeds s q)
    (honly : ∀ k : PartIx, (s.part k).defined = true → b ∈ bedsOf s k → k = q) : ((interval e s).bed b).energy =
    if 0 ≤ settledBalance s e q ∧ 0 < bedCredit s e q then min ((s.bed b).energy + bedCredit s e q) (2 * bedCredit s e q)
    else (s.bed b).energy := by
  obtain ⟨henergy, -⟩ := interval_bed e s b
  rw [henergy, settleAll_bed h hb honly]
  exact creditedBed_energy _

theorem interval_cap (e : Nat) (b : BedIx) : ((interval e s).fence.ceils[b]).cap.toNat =
    capStep s e (s.fence.ceils[b]).cap.toNat := by
  have hview := settleAll_keeps_view (g := fun u => (u.fence, u.image)) (e := e) (s := s) (fun _ _ => by rfl) fun _ _ _ _ => by rfl
  obtain ⟨hfence, himage⟩ := Prod.mk.inj hview
  rw [interval, heartbeats]
  dsimp only
  rw [capInterval_cap]
  unfold capStep pCap dMax capHeld capW burstMs
  rw [hfence, himage]

theorem interval_core (e : Nat) {c : CoreIx} (h : (s.core c).beat ≠ (s.core c).seen) :
    ((interval e s).core c).seen = (s.core c).beat ∧ ((interval e s).core c).seenAt = s.time := by
  have hview : ((capInterval e (settleAll e s)).cores, (capInterval e (settleAll e s)).time) = (s.cores, s.time) := by
    rw [capInterval, kickClocks_eq_beds]
    dsimp only
    rw [Prod.mk.injEq, settleAll_keeps_view (g := State.cores) (fun _ _ => by rfl) fun _ _ _ _ => by rfl,
      settleAll_keeps_view (g := State.time) (fun _ _ => by rfl) fun _ _ _ _ => by rfl]
    exact ⟨rfl, rfl⟩
  obtain ⟨hcores, htime⟩ := Prod.mk.inj hview
  have hcore : (capInterval e (settleAll e s)).core c = s.core c := by rw [State.core, hcores, State.core]
  rw [interval, heartbeats_core (by rwa [hcore]), hcore, htime]
  exact ⟨rfl, rfl⟩

end

/-! ### The thermal sample (R333) -/

section
variable {s : State} {temps : Temps}

/-- The Fence's limits and temperatures after a sample. -/
def sampled (temps : Temps) (s : State) : State :=
  { s with fence := { s.fence with
    ceils := Vector.ofFn fun b => thermStep s temps b s.fence.ceils[b]
    tempMax := (hottest (junctions temps)).1
    tempSensor := BitVec.ofNat 8 (hottest (junctions temps)).2
    tripSeen := BitVec.ofNat 20 (tripBits s temps) } }

theorem exec_thermalSample_of_no_trip (hs : s.fence.supply ≠ .off) (ht : s.fence.tripSeen.toNat &&& tripBits s temps = 0) :
    exec (.thermalSample temps) s = .next (noteAlert s (kickClocks (sampled temps s))) := by
  change execThermalSample temps s = _
  simp only [execThermalSample, hs, ht, if_false, ne_eq, not_true_eq_false]
  rfl

theorem sampled_ceils (b : BedIx) : (sampled temps s).fence.ceils[b] = thermStep s temps b s.fence.ceils[b] :=
  Vector.getElem_ofFn ..

variable {b : BedIx} {c : Ceil}

/-- A sensor at its limit lowers the bed's limit. -/
theorem thermStep_of_hot (h : ∃ x ∈ (temps.beds[b].toNat, throttleC s) :: sharedSensors s temps, x.2 ≤ x.1) :
    thermStep s temps b c = { c with therm := BitVec.ofNat 5 (c.therm.toNat - 1), coolMs := 0 } := by
  refine if_pos (List.any_eq_true.2 ?_)
  obtain ⟨x, hx, hle⟩ := h
  exact ⟨x, hx, decide_eq_true hle⟩

/-- Below every limit it is the release points that decide. -/
theorem thermStep_of_not_hot (h : ∀ x ∈ (temps.beds[b].toNat, throttleC s) :: sharedSensors s temps, x.1 < x.2) :
    thermStep s temps b c =
      if (((temps.beds[b].toNat, throttleC s) :: sharedSensors s temps).all fun x => x.1 + hystC s < x.2) && c.therm.toNat < 24 then
        if c.coolMs + 1 = 10 then { c with therm := c.therm + 1, coolMs := 0 } else { c with coolMs := c.coolMs + 1 }
      else { c with coolMs := 0 } := by
  refine if_neg fun hany => ?_
  obtain ⟨x, hx, hle⟩ := List.any_eq_true.1 hany
  exact absurd (of_decide_eq_true hle) (not_le.2 (h x hx))

end

/-- Settles O44: the interval settles ledgers, beds and limits by the laws above, a failed vote enters safe hold, and a sample moves
each thermal limit by its sensors. Credit after lending and one step per sample are entry 83 of the assumption log, votes entry 82. -/
theorem gaugeAndThermal : Obligations.GaugeAndThermal := by
  intro s hsupply
  refine ⟨fun microJ hv => ?_, fun microJ ups hnone => ?_, fun temps ht => ?_⟩
  · dsimp only
    obtain ⟨hmem, hplots, hbal, hpower, henergy, -⟩ := interval_leaves microJ.toNat (measured microJ (voted s))
    rw [exec_gaugeInterval_of_supply hsupply, voteInterval_of_agreement hv]
    refine ⟨noteAlert s (interval microJ.toNat (measured microJ (voted s))), rfl, ?_, ?_, ?_, ?_, ?_, fun b => ?_, fun q hq => ?_,
      fun q b hq hb honly => ?_, fun b => ?_, fun c hc => ?_⟩
    · rw [noteAlert_keeps_view (g := State.mem) fun _ _ _ => by rfl, hmem]
      simp only [measured, voted]
    · rw [noteAlert_keeps_view (g := State.plots) fun _ _ _ => by rfl, hplots]
      simp only [measured, voted]
    · rw [noteAlert_keeps_view (g := (·.fence.bal)) fun _ _ _ => by rfl, hbal, measured_bal]
    · rw [noteAlert_keeps_view (g := (·.fence.power)) fun _ _ _ => by rfl, hpower]
      simp only [measured]
    · rw [noteAlert_keeps_view (g := (·.fence.energy)) fun _ _ _ => by rfl, henergy]
      simp only [measured, voted]
    · rw [noteAlert_keeps_view (g := fun u => u.bed b) fun _ _ _ => by rfl]
      exact (interval_bed ..).2
    · rw [noteAlert_keeps_view (g := fun u => u.part q) fun _ _ _ => by rfl, interval_bal _ (by rwa [measured_part])]
      exact (settled_measured microJ s _ q).1
    · have honly' : ∀ k : PartIx, ((measured microJ (voted s)).part k).defined = true →
          b ∈ bedsOf (measured microJ (voted s)) k → k = q := fun k hk hbk =>
        honly k (by rwa [measured_part] at hk) (by rwa [bedsOf_measured] at hbk)
      obtain ⟨hbal, hcredit⟩ := settled_measured microJ s microJ.toNat q
      rw [noteAlert_keeps_view (g := fun u => u.bed b) fun _ _ _ => by rfl,
        interval_bed_energy _ (by rwa [measured_part]) (by rwa [poweredBeds_measured]) honly', hbal, hcredit, measured_bed]
      rfl
    · obtain ⟨hcap, hmax⟩ := caps_measured microJ s
      rw [noteAlert_keeps_view (g := fun u => u.fence.ceils) fun _ _ _ => by rfl, interval_cap, capStep, measured_bal,
        hcap, hmax, measured_ceils]
    · rw [noteAlert_keeps_view (g := fun u => u.core c) fun _ _ _ => by rfl]
      have hcore := interval_core (s := measured microJ (voted s)) microJ.toNat (c := c) (by rwa [measured_core])
      rwa [measured_core, measured_time] at hcore
  · obtain ⟨-, -, -, -, -, hsafe⟩ := interval_leaves microJ.toNat (measured microJ (voteInterval ups s))
    rw [exec_gaugeInterval_of_supply hsupply]
    refine ⟨_, rfl, ?_⟩
    rw [noteAlert_keeps_view (g := (·.fence.safe)) fun _ _ _ => by rfl, hsafe]
    exact voteInterval_safe hnone
  · obtain ⟨at_, m, hnote⟩ := noteAlert_eq_fence s (kickClocks (sampled temps s))
    rw [exec_thermalSample_of_no_trip hsupply ht, hnote, kickClocks_eq_beds]
    refine ⟨_, rfl, by simp only [sampled], by simp only [sampled], by simp only [sampled], fun b => ?_⟩
    intro sensors c
    have hb := sampled_ceils (s := s) (temps := temps) (b := b)
    refine ⟨fun h => hb.trans (thermStep_of_hot h), fun h hlt => hb.trans ?_, fun h hx => hb.trans ?_⟩
    · rw [thermStep_of_not_hot fun x hx => (Nat.le_add_right ..).trans_lt (h x hx), if_pos]
      · simp only [Nat.reduceEqDiff]
        rfl
      · rw [Bool.and_eq_true, List.all_eq_true]
        exact ⟨fun x hx => decide_eq_true (h x hx), decide_eq_true hlt⟩
    · rw [thermStep_of_not_hot h, if_neg]
      obtain ⟨x, hin, hle⟩ := hx
      rw [Bool.and_eq_true, List.all_eq_true]
      exact fun hall => absurd (of_decide_eq_true (hall.1 x hin)) (not_lt.2 hle)

end Sys2Proof.Machine
end

section
/-! Events of the Fence: THROTTLE_N, ALERT_N, core watchdogs, lockstep and foreign writes (R334 to R337, R342, R343, R373, R483). -/

namespace Sys2Proof.Machine

open Host

/-! ### One bit of a register -/

/-- A bit of a byte that is set to a value has that value. -/
theorem getLsbD_setBits_self (v : BitVec 8) (i : Fin 8) (b : Bool) :
    (BitVec.ofNat 8 (setBits v.toNat i.val i.val b.toNat)).getLsbD i.val = b := by
  have hi : i.val < 8 := i.isLt
  have hquot : ∀ q m l n : Nat, 0 < n → l < n → (n * (2 * q + m) + l) / n % 2 = m % 2 := fun q m l n hn hl => by
    rw [Nat.mul_add_div hn, Nat.div_eq_of_lt hl]
    omega
  have hpos : 0 < 2 ^ i.val := Nat.two_pow_pos _
  have hset : setBits v.toNat i.val i.val b.toNat =
      2 ^ i.val * (2 * (v.toNat / 2 ^ i.val / 2) + b.toNat) + v.toNat % 2 ^ i.val := by
    simp only [setBits, bitsOf, Nat.sub_self, zero_add, pow_one, Nat.shiftLeft_eq, Nat.shiftRight_eq_div_pow]
    have hb : b.toNat % 2 = b.toNat := Nat.mod_eq_of_lt b.toNat_lt
    have hq := Nat.div_add_mod v.toNat (2 ^ i.val)
    generalize v.toNat / 2 ^ i.val = q at hq ⊢
    rw [← Nat.div_add_mod q 2, Nat.mul_add] at hq
    rw [hb, Nat.mul_add, Nat.mul_comm _ (2 ^ i.val), Nat.mul_comm b.toNat]
    omega
  rw [BitVec.getLsbD_ofNat, decide_eq_true hi, Bool.true_and, Nat.testBit_eq_decide_div_mod_eq, hset,
    hquot _ _ _ _ hpos (Nat.mod_lt _ hpos)]
  cases b <;> rfl

/-- A pin has the level that the board gives it. -/
theorem setLevel_levels (i : Fin 8) (high : Bool) (s : State) : (setLevel i.val high s).pins.levels.getLsbD i.val = high :=
  getLsbD_setBits_self ..

/-! ### THROTTLE_N (R334) -/

section
variable {s : State}

/-- A view without clocks and without the pin limit's registers. -/
theorem throttleLow_keeps_view {γ : Type} {g : State → γ} (hbeds : ∀ v u, g { u with beds := v } = g u)
    (halert : ∀ t m u, g { u with fence := { u.fence with alertAt := t, alertMin := m } } = g u)
    (hpin : ∀ l t u, g { u with fence := { u.fence with throttleLow := l, pinLift := t } } = g u) (s : State) :
    g (throttleLow s) = g s := by
  rw [throttleLow, noteAlert_keeps_view halert, kickClocks_eq_beds, hbeds, hpin]

theorem throttleLow_throttleLow (s : State) : (throttleLow s).fence.throttleLow = true := by
  rw [throttleLow, noteAlert_keeps_view (g := (·.fence.throttleLow)) fun _ _ _ => by rfl, kickClocks_eq_beds]

theorem pinActive_of_low (h : s.fence.throttleLow = true) : pinActive s = true := by
  rw [pinActive, h, Bool.true_or]

theorem exec_throttleNAssert_of_serves (h : throttleServes s = true) (hlow : s.fence.throttleLow = false) :
    exec .throttleNAssert s = .next (throttleLow (setLevel 3 false s)) := by
  change execThrottleNAssert s = _
  simp only [execThrottleNAssert, h, hlow, Bool.not_false, Bool.and_self, if_true]

theorem exec_throttleNRelease_of_low (hlow : s.fence.throttleLow = true) : exec .throttleNRelease s =
    .next { setLevel 3 true s with fence := { s.fence with throttleLow := false, pinLift := some s.time } } := by
  change execThrottleNRelease s = _
  simp only [execThrottleNRelease, hlow, if_true]
  rfl

theorem exec_pinLimitLift_of_due {since : DWord} (h : s.fence.pinLift = some since) (hdue : 1000000 ≤ (s.time - since).toNat) :
    exec .pinLimitLift s = .next (kickClocks { s with fence := { s.fence with pinLift := none } }) := by
  change execPinLimitLift s = _
  simp only [execPinLimitLift, h, hdue, if_true]

theorem exec_alertMinimumExpire_of_due {since : DWord} (h : s.fence.alertAt = some since) (hm : s.fence.alertMin = true)
    (hdue : 1000000 ≤ (s.time - since).toNat) :
    exec .alertMinimumExpire s = .next { s with fence := { s.fence with alertMin := false, alertAt := none } } := by
  change execAlertMinimumExpire s = _
  simp only [execAlertMinimumExpire, h, hm, hdue, decide_true, Bool.and_self, if_true]

/-! ### Gardener cores (R336, R483) -/

variable {c : CoreIx}

/-- The expiries of a core within the last second, with one now. -/
def recentExpiries (s : State) (c : CoreIx) : List DWord :=
  ((s.core c).expiries.filter fun t => (s.time - t).toNat < 1000000000) ++ [s.time]

/-- A core that restarts after an expiry. -/
def coreRestarts (c : CoreIx) (s : State) : State :=
  s.onCore c fun y => { y with restarting := true, expiries := recentExpiries s c }

/-- A core in service whose counter has stood still for the timeout. -/
structure CoreStands (s : State) (c : CoreIx) : Prop where
  on : wdogOn s = true
  inService : (s.core c).held = false
  runs : (s.core c).restarting = false
  started : s.image.boot = .done
  still : 1000000 * wdogMs s ≤ (s.time - (s.core c).seenAt).toNat

theorem exec_watchdogExpiry_of_stands (h : CoreStands s c) : exec (.watchdogExpiry c) s =
    .next (if 3 ≤ (recentExpiries s c).length then holdCore c (coreRestarts c s) else coreRestarts c s) := by
  obtain ⟨hon, hheld, hrun, hboot, hstill⟩ := h
  change execWatchdogExpiry c s = _
  rw [execWatchdogExpiry, if_neg]
  · rfl
  · simp only [hon, hheld, hrun, hboot, Bool.not_true, Bool.or_false, Bool.false_or, ne_eq, not_true_eq_false, decide_false,
      decide_eq_true_eq]
    exact not_lt.2 hstill

theorem queueLog_core (ty len payload : Nat) (s : State) (c : CoreIx) : (queueLog ty len payload s).core c = s.core c := rfl

/-- What holding a core leaves to a view without causes and shares: the core held, and its record. -/
theorem holdCore_keeps_view {γ : Type} {g : State → γ} (hfunc : ∀ f h u, g (State.onFunc u f h) = g u)
    (hshare : ∀ q (h : Part → BitVec 8) u, g (State.onPart u q fun x => { x with scaledShare := h x }) = g u) (c : CoreIx) (s : State) :
    g (holdCore c s) = g (queueLog 1 11 (prunePayload 8 c.val 0 (causeCode .watchdog) 3 (s.core c).returns)
      (s.onCore c fun x => { x with held := true, restarting := false })) := by
  unfold holdCore
  dsimp only
  rw [scaleShares]
  refine (foldl_keeps g (fun _ _ => hshare ..) _ _).trans ?_
  exact (foldl_keeps g (fun _ _ => raiseEvent_keeps_view hfunc ..) _ _).trans (recordPrune_keeps_view hfunc ..)

end

/-! ### Foreign writes (R335, R373) -/

section
variable {s : State}

/-- A foreign write, for a view without causes, the Almanac's events and the Fence's record of it. -/
theorem foreignWrite_keeps_view {γ : Type} {g : State → γ} (hfunc : ∀ f h u, g (State.onFunc u f h) = g u)
    (halm : ∀ v u, g { u with alm := v } = g u)
    (halert : ∀ t m u, g { u with fence := { u.fence with alertAt := t, alertMin := m } } = g u) (code : BitVec 4)
    (offset : BitVec 16) (s : State) : g (foreignWrite code offset s) = g { s with fence := { s.fence with
      foreign := satAdd s.fence.foreign 1, foreignSrc := code, foreignAddr := BitVec.ofNat 32 offset.toNat, foreignAt := some s.time } } := by
  rw [foreignWrite, noteAlert_keeps_view halert, fenceEvent_keeps_view hfunc halm]

/-- An event of a function changes its causes and its vectors alone. -/
theorem raiseEvent_func_keeps {γ : Type} {h : Fn → γ} (hh : ∀ x c v, h { x with cause := c, vecs := v } = h x) (f : FnIx) (v : VecIx)
    (s : State) (k : FnIx) : h ((raiseEvent f v s).func k) = h (s.func k) := by
  unfold raiseEvent
  split
  · rfl
  · rw [State.onFunc_func_if]
    split
    · subst_vars
      exact hh ..
    · rfl

theorem foreignWrite_func_keeps {γ : Type} {h : Fn → γ} (hh : ∀ x c v, h { x with cause := c, vecs := v } = h x) (code : BitVec 4)
    (offset : BitVec 16) (s : State) (k : FnIx) : h ((foreignWrite code offset s).func k) = h (s.func k) := by
  rw [foreignWrite, noteAlert_keeps_view (g := fun u => u.func k) fun _ _ _ => by rfl]
  exact raiseEvent_func_keeps hh ..

theorem foreignWrite_cause (code : BitVec 4) (offset : BitVec 16) (s : State) :
    ((foreignWrite code offset s).func pf0Fn).cause.getLsbD 4 = true := by
  rw [foreignWrite, noteAlert_keeps_view (g := fun u => u.func pf0Fn) fun _ _ _ => by rfl]
  exact fenceEvent_cause _

/-- What a foreign write leaves of the Fence: its record, and the registers and the memories as they were. -/
structure ForeignNoted (s t : State) (code : BitVec 4) (offset : BitVec 16) : Prop where
  mem : t.mem = s.mem
  plots : t.plots = s.plots
  regs : t.fence.regs = s.fence.regs
  count : t.fence.foreign = satAdd s.fence.foreign 1
  src : t.fence.foreignSrc = code
  addr : t.fence.foreignAddr = BitVec.ofNat 32 offset.toNat
  at_ : t.fence.foreignAt = some s.time
  cause : (t.func pf0Fn).cause.getLsbD 4 = true

theorem foreignWrite_noted (code : BitVec 4) (offset : BitVec 16) (s : State) :
    ForeignNoted s (foreignWrite code offset s) code offset where
  mem := foreignWrite_keeps_view (g := State.mem) (fun _ _ _ => by rfl) (fun _ _ => by rfl) (fun _ _ _ => by rfl) ..
  plots := foreignWrite_keeps_view (g := State.plots) (fun _ _ _ => by rfl) (fun _ _ => by rfl) (fun _ _ _ => by rfl) ..
  regs := foreignWrite_keeps_view (g := (·.fence.regs)) (fun _ _ _ => by rfl) (fun _ _ => by rfl) (fun _ _ _ => by rfl) ..
  count := foreignWrite_keeps_view (g := (·.fence.foreign)) (fun _ _ _ => by rfl) (fun _ _ => by rfl) (fun _ _ _ => by rfl) ..
  src := foreignWrite_keeps_view (g := (·.fence.foreignSrc)) (fun _ _ _ => by rfl) (fun _ _ => by rfl) (fun _ _ _ => by rfl) ..
  addr := foreignWrite_keeps_view (g := (·.fence.foreignAddr)) (fun _ _ _ => by rfl) (fun _ _ => by rfl) (fun _ _ _ => by rfl) ..
  at_ := foreignWrite_keeps_view (g := (·.fence.foreignAt)) (fun _ _ _ => by rfl) (fun _ _ => by rfl) (fun _ _ _ => by rfl) ..
  cause := foreignWrite_cause ..

/-- The record of a foreign write, as its registers show it. -/
theorem ForeignNoted.record {t : State} {code : BitVec 4} {offset : BitVec 16} (h : ForeignNoted s t code offset) :
    t.fence.foreign = satAdd s.fence.foreign 1 ∧ t.fence.foreignSrc.toNat = code.toNat ∧
    t.fence.foreignAddr.toNat = offset.toNat ∧ t.fence.foreignAt = some s.time ∧ (t.func pf0Fn).cause.getLsbD 4 = true := by
  refine ⟨h.count, congrArg BitVec.toNat h.src, ?_, h.at_, h.cause⟩
  rw [h.addr, BitVec.toNat_ofNat]
  exact Nat.mod_eq_of_lt (offset.isLt.trans (by decide))

/-- A change of a function that keeps its causes. -/
theorem ForeignNoted.onFunc {t : State} {code : BitVec 4} {offset : BitVec 16} (h : ForeignNoted s t code offset) {f : FnIx}
    {g : Fn → Fn} (hg : (g (t.func f)).cause = (t.func f).cause) : ForeignNoted s (t.onFunc f g) code offset := by
  refine { h with cause := ?_ }
  rw [State.onFunc_func_if]
  split
  · subst_vars
    rw [hg]
    exact h.cause
  · exact h.cause

theorem ForeignNoted.logAccess {t : State} {code : BitVec 4} {offset : BitVec 16} (h : ForeignNoted s t code offset) (f : FnIx)
    (kind bar : BitVec 2) : ForeignNoted s (logAccess f kind bar offset t) code offset := h.onFunc rfl

theorem ForeignNoted.logAer {t : State} {code : BitVec 4} {offset : BitVec 16} (h : ForeignNoted s t code offset) (f : FnIx)
    (error : BitVec 16) : ForeignNoted s (logAer f error t) code offset := h.onFunc rfl

/-! ### Lockstep (R335, R342, R343) -/

/-- The Fence's cores restart. -/
def lockstepRestarts (s : State) : State :=
  { s with fence := { s.fence with lockstep := satAdd s.fence.lockstep 1, lockstepAt := some s.time, restarting := true } }

theorem exec_lockstepMismatch : exec .lockstepMismatch s =
    .next (if lockstepRecent s then safeHold 3 (fenceEvent (lockstepRestarts s)) else fenceEvent (lockstepRestarts s)) := rfl

/-- A mismatch, for a view without causes, admission, the fabric and the Fence's modes. -/
theorem lockstep_keeps_view {γ : Type} {g : State → γ} (hfunc : ∀ f h u, g (State.onFunc u f h) = g u)
    (hadm : ∀ r a u, g (State.onPart u r fun x => { x with adm := a }) = g u) (hbvl : ∀ v u, g { u with bvl := v } = g u)
    (halm : ∀ v u, g { u with alm := v } = g u) (hsafe : ∀ (b : Bool) (c : BitVec 4) (m : BitVec 3) u,
      g { u with fence := { u.fence with safe := b, safeCause := c, mode := m } } = g u)
    (halert : ∀ t m u, g { u with fence := { u.fence with alertAt := t, alertMin := m } } = g u) (s : State) :
    g (if lockstepRecent s then safeHold 3 (fenceEvent (lockstepRestarts s)) else fenceEvent (lockstepRestarts s)) =
      g (lockstepRestarts s) := by
  split
  · rw [safeHold_keeps_view hfunc hadm hbvl halm hsafe halert, fenceEvent_keeps_view hfunc halm]
  · rw [fenceEvent_keeps_view hfunc halm]

/-- The Fence, the memories and the plots after a mismatch. -/
theorem lockstep_leaves (s : State) :
    let t := if lockstepRecent s then safeHold 3 (fenceEvent (lockstepRestarts s)) else fenceEvent (lockstepRestarts s)
    t.mem = s.mem ∧ t.plots = s.plots ∧ t.fence.regs = s.fence.regs ∧ t.fence.lockstep = satAdd s.fence.lockstep 1 ∧
      t.fence.restarting = true ∧ t.fence.lockstepAt = some s.time := by
  have hview := lockstep_keeps_view
    (g := fun u => (u.mem, u.plots, u.fence.regs, u.fence.lockstep, u.fence.restarting, u.fence.lockstepAt)) (fun _ _ _ => by rfl)
    (fun _ _ _ => by rfl) (fun _ _ => by rfl) (fun _ _ => by rfl) (fun _ _ _ _ => by rfl) (fun _ _ _ => by rfl) s
  simp only [Prod.mk.injEq] at hview
  exact hview

end

/-- Settles O46: each event by its own law above. -/
theorem fenceEvents : Obligations.FenceEvents := by
  intro s
  dsimp only
  refine ⟨fun hs hl => ?_, fun hl => ?_, fun since hp hdue => ?_, fun since ha hm hdue => ?_, fun c => ⟨?_, fun hr => ?_⟩, ?_, rfl,
    fun offset data => ?_⟩
  · refine ⟨_, exec_throttleNAssert_of_serves hs hl, ?_, ?_, ?_, ?_, ?_, ?_⟩
    · exact throttleLow_keeps_view (g := State.mem) (fun _ _ => by rfl) (fun _ _ _ => by rfl) (fun _ _ _ => by rfl) _
    · exact throttleLow_keeps_view (g := State.plots) (fun _ _ => by rfl) (fun _ _ _ => by rfl) (fun _ _ _ => by rfl) _
    · exact throttleLow_keeps_view (g := (·.fence.regs)) (fun _ _ => by rfl) (fun _ _ _ => by rfl) (fun _ _ _ => by rfl) _
    · exact throttleLow_throttleLow _
    · exact pinActive_of_low (throttleLow_throttleLow _)
    · rw [throttleLow_keeps_view (g := State.pins) (fun _ _ => by rfl) (fun _ _ _ => by rfl) fun _ _ _ => by rfl]
      exact setLevel_levels 3 false s
  · refine ⟨_, exec_throttleNRelease_of_low hl, rfl, rfl, rfl, rfl, rfl, rfl, ?_⟩
    exact setLevel_levels 3 true s
  · rw [exec_pinLimitLift_of_due hp hdue, kickClocks_eq_beds]
    exact ⟨_, rfl, rfl, rfl, rfl, rfl⟩
  · exact exec_alertMinimumExpire_of_due ha hm hdue
  · intro hon hheld hrun hboot hstill
    rw [exec_watchdogExpiry_of_stands ⟨hon, hheld, hrun, hboot, hstill⟩]
    refine ⟨fun hlt => congrArg Outcome.next (if_neg (not_le.2 hlt)), fun hle => ?_⟩
    rw [if_pos (show 3 ≤ (recentExpiries s c).length from hle)]
    refine ⟨_, rfl, ?_, ?_, ?_, ?_, ?_, ?_⟩
    · exact holdCore_keeps_view (g := State.mem) (fun _ _ _ => by rfl) (fun _ _ _ => by rfl) c _
    · exact holdCore_keeps_view (g := State.plots) (fun _ _ _ => by rfl) (fun _ _ _ => by rfl) c _
    · exact holdCore_keeps_view (g := (·.fence.regs)) (fun _ _ _ => by rfl) (fun _ _ _ => by rfl) c _
    · rw [holdCore_keeps_view (g := fun u => u.core c) (fun _ _ _ => by rfl) fun _ _ _ => by rfl]
      rw [queueLog_core, State.onCore_core]
    · rw [holdCore_keeps_view (g := fun u => u.core c) (fun _ _ _ => by rfl) fun _ _ _ => by rfl]
      rw [queueLog_core, State.onCore_core]
    · rw [holdCore_keeps_view (g := (·.image.pendingLog)) (fun _ _ _ => by rfl) fun _ _ _ => by rfl, coreRestarts,
        State.onCore_core]
      rfl
  · exact congrArg Outcome.next (if_pos hr)
  · obtain ⟨hmem, hplots, hregs, hcount, hrestart, hat⟩ := lockstep_leaves s
    refine ⟨_, exec_lockstepMismatch, hmem, hplots, hregs, hcount, hrestart, hat, fun hr => ?_, fun hr => ?_⟩
    · rw [if_pos hr, safeHold_safe]
    · rw [if_neg (Bool.eq_false_iff.1 hr), fenceEvent_keeps_view (g := (·.fence.safe)) (fun _ _ _ => by rfl) fun _ _ => by rfl]
      rfl
  · have hagent := fun code => foreignWrite_noted code offset s
    refine ⟨fun f => ?_, ?_, ?_, ?_⟩
    · have hhost := ((hagent 0).logAccess f 3 2).logAer f aerUnsupported
      refine ⟨logAer f aerUnsupported (logAccess f 3 2 offset (foreignWrite 0 offset s)), rfl, hhost.mem, hhost.plots, hhost.regs, hhost.record, ?_⟩
      rw [logAer, State.onFunc_func, logAccess, State.onFunc_func, List.length_append, List.length_singleton]
      exact congrArg (fun l => l.length + 1) (foreignWrite_func_keeps (h := Fn.aer) (fun _ _ _ => rfl) ..)
    · exact ⟨_, rfl, (hagent 1).mem, (hagent 1).plots, (hagent 1).regs, (hagent 1).record⟩
    · exact ⟨_, rfl, (hagent 2).mem, (hagent 2).plots, (hagent 2).regs, (hagent 2).record⟩
    · exact ⟨_, rfl, (hagent 3).mem, (hagent 3).plots, (hagent 3).regs, (hagent 3).record⟩

end Sys2Proof.Machine
end

section
/-! What the begin of a partition reset leaves of another partition: every field of it, since the plots that are flushed serve the
partition that is reset (R313, R454). -/

namespace Sys2Proof.Machine

open Host

/-! ### A partition seen from aside -/

section
variable (q : PartIx)

/-- A partition, and which partition each plot serves. -/
def aside (s : State) : Part × (PlotIx → Option PartIx) := (s.part q, fun p => plotPart (s.plot p))

variable {q} {s t : State} {p : PlotIx}

theorem aside_of_fields (hparts : t.parts = s.parts) (hplots : t.plots = s.plots) : aside q t = aside q s := by
  simp only [aside, State.part, State.plot, hparts, hplots]

/-- A change of a plot beside its assignment. -/
theorem aside_onPlot {f : Plot → Plot} (hf : ∀ x, plotPart (f x) = plotPart x) : aside q (s.onPlot p f) = aside q s := by
  refine Prod.ext rfl (funext fun k => ?_)
  dsimp only [aside]
  rw [State.onPlot_plot_if]
  split
  · subst_vars
    exact hf _
  · rfl

theorem aside_onPart_ne {r : PartIx} (h : q ≠ r) (f : Part → Part) : aside q (s.onPart r f) = aside q s :=
  Prod.ext (State.onPart_part_ne s f h) rfl

theorem aside_raiseEvent (f : FnIx) (v : VecIx) : aside q (raiseEvent f v s) = aside q s :=
  raiseEvent_keeps_view (fun _ _ _ => by rfl) ..

theorem aside_recordPrune (kind index sub : Nat) (c : PruneCause) (count returns : Nat) :
    aside q (recordPrune kind index sub c count returns s) = aside q s :=
  recordPrune_keeps_view (fun _ _ _ => by rfl) ..

/-- Which partition a plot serves, in a state with the same view. -/
theorem not_serves_of_aside (h : aside q t = aside q s) (hp : plotPart (s.plot p) ≠ some q) : plotPart (t.plot p) ≠ some q :=
  (congrFun (congrArg Prod.snd h) p).trans_ne hp

/-! ### Assignments of plots (R91) -/

theorem plotPart_laneSet (x : Plot) (l : Lane) (y : LaneSt) : plotPart (laneSet x l y) = plotPart x := by cases l <;> rfl

theorem plotPart_plotSettle (x : Plot) : plotPart (plotSettle x) = plotPart x := by unfold plotSettle; split <;> rfl

theorem plotPart_haltPlot (st : Nat) (x : Plot) : plotPart (haltPlot st x) = plotPart x := by unfold haltPlot; split <;> rfl

theorem plotPart_flushDone (x : Plot) : plotPart (flushDone x) = plotPart x := by
  unfold flushDone
  split
  · dsimp only
    split
    · exact plotPart_plotSettle { x with flushing := false, flushRec := false, resumeAfter := false }
    · split
      · exact plotPart_plotSettle { x with flushing := false, flushRec := false, resumeAfter := false }
      · exact plotPart_plotSettle { x with flushing := false, flushRec := false, resumeAfter := false }
  · rfl

/-! ### Flushes of plots that serve others (R78, R482) -/

/-- A trace record of another partition, kept or lost. -/
theorem aside_traceCommand (hp : plotPart (s.plot p) ≠ some q) (l : Lane) (d : BitVec 1024) (e : Bool) (st c : Nat) :
    aside q (traceCommand p l d e st c s) = aside q s := by
  unfold traceCommand
  split
  case h_1 r hr =>
    rcases traceEmit_bed (bedOf p) r _ s with ⟨l, h⟩ | h
    · rw [h]
      rfl
    · rw [h]
      exact aside_onPart_ne (fun hq => hp (hr.trans (congrArg some hq.symm))) _
  case h_2 => rfl

theorem aside_step10 (hp : plotPart (s.plot p) ≠ some q) (l : Lane) (d : BitVec 1024) (e : Ended) :
    aside q (step10 p l d e s) = aside q s := by
  have hnote : ∀ u, aside q (u.onPlot p (noteLast d e)) = aside q u := fun u => aside_onPlot fun _ => by rfl
  have htraced : ∀ u, aside q u = aside q s → aside q (traceCommand p l d true e.status e.cycles (u.onPlot p (noteLast d e))) =
      aside q s := fun u hu => by
    rw [aside_traceCommand (not_serves_of_aside ((hnote u).trans hu) hp), hnote, hu]
  unfold step10
  dsimp only
  split
  · refine htraced _ ?_
    rw [writeRecord_eq]
    rfl
  · exact htraced s rfl

theorem aside_returnSem (l : Lane) : aside q (returnSem p l s) = aside q s := by
  unfold returnSem
  dsimp only
  split
  · split <;> rfl
  · rfl

/-- A fold of changes that each keep the view of a partition, over plots or commands of another one. -/
theorem aside_foldl {α : Type} {f : State → α → State} (hf : ∀ u, plotPart (u.plot p) ≠ some q → ∀ a, aside q (f u a) = aside q u)
    (l : List α) (hp : plotPart (s.plot p) ≠ some q) : aside q (l.foldl f s) = aside q s :=
  List.foldlRecOn (motive := fun u => aside q u = aside q s) l f rfl fun u hu a _ =>
    (hf u (not_serves_of_aside hu hp) a).trans hu

theorem aside_discardLane (hp : plotPart (s.plot p) ≠ some q) (l : Lane) : aside q (discardLane p l s) = aside q s := by
  have hempty : aside q ((returnSem p l s).onPlot p fun x => laneSet x l { laneGet x l with queue := [], stage := .queued }) =
      aside q s := (aside_onPlot fun x => plotPart_laneSet x l _).trans (aside_returnSem l)
  exact (aside_foldl (fun u hu d => aside_step10 hu l d _) _ (not_serves_of_aside hempty hp)).trans hempty

theorem aside_failPassOn (hp : plotPart (s.plot p) ≠ some q) : aside q (failPassOn p s) = aside q s := by
  unfold failPassOn
  split
  case h_1 => rfl
  case h_2 r hr => exact aside_onPart_ne (fun hq => hp (hr.trans (congrArg some hq.symm))) _

theorem aside_drawReserve {r : PartIx} (h : q ≠ r) : aside q (drawReserve r s) = aside q s := by
  unfold drawReserve
  split
  · exact aside_onPart_ne h _
  · rfl

theorem aside_prunePlot (hp : plotPart (s.plot p) ≠ some q) (c : PruneCause) (n : Nat) : aside q (prunePlot p c n s) = aside q s := by
  unfold prunePlot
  split
  · rfl
  · dsimp only
    split
    case h_1 => rw [aside_recordPrune, aside_onPlot fun _ => by rfl, aside_failPassOn hp]
    case h_2 r hr =>
      rw [aside_drawReserve fun hq => hp (hr.trans (congrArg some hq.symm)), raiseCapacity, aside_raiseEvent,
        aside_recordPrune, aside_onPlot fun _ => by rfl,
        aside_failPassOn hp]

theorem aside_pruneOnResidue (hp : plotPart (s.plot p) ≠ some q) : aside q (pruneOnResidue p s) = aside q s := by
  unfold pruneOnResidue
  dsimp only
  split
  · rfl
  · split
    · exact aside_prunePlot hp ..
    · rfl

/-- What follows the end of a command that a flush has stopped. -/
theorem aside_stopped {f : Plot → Plot} (hf : ∀ x, plotPart (f x) = plotPart x) (hp : plotPart (s.plot p) ≠ some q) :
    aside q (pruneOnResidue p ((s.onPlot p f).onPlot p fun x => flushDone (plotSettle x))) = aside q s := by
  have hdone : aside q ((s.onPlot p f).onPlot p fun x => flushDone (plotSettle x)) = aside q s :=
    (aside_onPlot fun x => (plotPart_flushDone _).trans (plotPart_plotSettle x)).trans (aside_onPlot hf)
  exact (aside_pruneOnResidue (not_serves_of_aside hdone hp)).trans hdone

theorem aside_endCommand_of_flushed (hp : plotPart (s.plot p) ≠ some q) (l : Lane) (d : BitVec 1024) {e : Ended}
    (he : e.status = stFlushed) : aside q (endCommand p l d e s) = aside q s := by
  have hok : e.status ≠ stOk := by rw [he]; decide
  have hfree : aside q (s.onPlot p fun x => laneSet x l { laneGet x l with run := none, stage := .queued }) = aside q s :=
    aside_onPlot fun x => plotPart_laneSet x l _
  have hstep := (aside_step10 (not_serves_of_aside hfree hp) l d e).trans hfree
  unfold endCommand
  dsimp only
  rw [if_neg hok]
  split
  · rw [aside_stopped (fun _ => by rfl) (not_serves_of_aside hstep hp), hstep]
  · rw [aside_stopped (plotPart_haltPlot _) (not_serves_of_aside hstep hp), hstep]

theorem aside_testLeaves (n : Nat) : aside q (testLeaves p n s) = aside q s := by
  have hfirst : aside q (if n = 2 || n = 5 then t0Free p s else s) = aside q s := by
    split
    · exact aside_onPlot fun _ => by rfl
    · rfl
  unfold testLeaves
  dsimp only
  split
  · exact (aside_onPlot fun _ => by rfl).trans hfirst
  · exact hfirst

theorem aside_stopCompute (hp : plotPart (s.plot p) ≠ some q) : aside q (stopCompute p s) = aside q s := by
  have hend : ∀ r u, aside q u = aside q s → aside q (endRun p .compute r stFlushed 0 u) = aside q s := fun r u hu => by
    have hst : ¬ (decide (stFlushed = stOk) || decide (stFlushed = stTest)) = true := by decide
    rw [endRun, if_neg hst]
    exact (aside_endCommand_of_flushed (s := { u with fresh := u.fresh + 1 }) (not_serves_of_aside hu hp) .compute r.desc rfl).trans hu
  unfold stopCompute
  split
  · split
    · refine hend _ _ ?_
      split
      · exact aside_testLeaves _
      · rfl
    · rfl
  · rfl

/-- A flush of a plot leaves every partition but the one that the plot serves. -/
theorem aside_flushPlot (hp : plotPart (s.plot p) ≠ some q) (resume : Bool) : aside q (flushPlot p resume s) = aside q s := by
  unfold flushPlot
  dsimp only
  generalize hmarked : State.onPlot s p _ = u
  have hu : aside q u = aside q s := hmarked ▸ aside_onPlot fun _ => by rfl
  have hcompute := (aside_discardLane (not_serves_of_aside hu hp) .compute).trans hu
  have hmove := (aside_discardLane (not_serves_of_aside hcompute hp) .move).trans hcompute
  have hstop := (aside_stopCompute (not_serves_of_aside hmove hp)).trans hmove
  exact (aside_onPlot plotPart_flushDone).trans hstop

/-! ### The begin of another partition's reset (R313) -/

variable {r : PartIx}

theorem mem_plotsOf_iff : p ∈ plotsOf s r ↔ plotPart (s.plot p) = some r := by
  simp only [plotsOf, List.mem_filter, List.mem_finRange, true_and, beq_iff_eq]

theorem aside_plotsFlushed (h : q ≠ r) : aside q (plotsFlushed r s) = aside q s := by
  refine List.foldlRecOn (motive := fun u => aside q u = aside q s) (plotsOf s r) _ rfl fun u hu p hp => ?_
  have hserves : plotPart (s.plot p) ≠ some q := by
    rw [mem_plotsOf_iff.1 hp]
    exact fun e => h (Option.some.inj e).symm
  split
  · exact (aside_flushPlot (not_serves_of_aside hu hserves) false).trans hu
  · exact hu

theorem aside_stopPartition (h : q ≠ r) : aside q (stopPartition r s) = aside q s := by
  have hgate : ∀ u, aside q (openGate r u) = aside q u := fun u => by
    unfold openGate
    split
    · rfl
    · exact (aside_onPart_ne h _).trans (aside_of_fields rfl rfl)
  rw [stopPartition_eq, freeStreams]
  refine (aside_of_fields rfl rfl).trans ((aside_onPart_ne h _).trans ((hgate _).trans ?_))
  exact (aside_onPart_ne h _).trans (aside_plotsFlushed h)

theorem aside_endJob (h : q ≠ r) (id : Word) (l : Life) (bytes index : Nat) (post : Bool) :
    aside q (endJob r id l bytes index post s) = aside q s := by
  have hmiss : ∀ u, aside q (missCuts r id u) = aside q u := fun u => aside_onPart_ne h _
  have hslot : ∀ slot e u, aside q (writeSlot r slot e u) = aside q u := fun slot e u =>
    aside_of_fields ((foldl_keeps State.parts (fun _ _ => by rfl) _ _).trans (foldl_keeps State.parts (fun _ _ => by rfl) _ _))
      ((foldl_keeps State.plots (fun _ _ => by rfl) _ _).trans (foldl_keeps State.plots (fun _ _ => by rfl) _ _))
  have hgive : ∀ f i e u, aside q (giveEntry f i e u) = aside q u := fun _ _ _ _ => rfl
  have hended : ∀ f u, aside q (onJob r id f (countJob r (endCounter l) u)) = aside q u := fun f u =>
    (aside_onPart_ne h _).trans (aside_onPart_ne h _)
  unfold endJob
  split
  · rfl
  · dsimp only
    rw [answerWaiting_keeps_view (g := aside q) fun _ _ _ => by rfl]
    split
    · rw [hgive, hmiss, hslot, hended]
    · rw [hmiss, hslot, hended]

/-- The begin of a partition's reset leaves every other partition as it is. -/
theorem aside_beginReset (h : q ≠ r) (s : State) : aside q (beginReset r s) = aside q s := by
  have hdropped : ∀ u, aside q (holdingsDropped r u) = aside q u := fun u => by
    have hslots : ∀ w, aside q (dropSlots r w) = aside q w := fun w =>
      aside_of_fields dropSlots_parts
        ((foldl_keeps State.plots (fun _ _ => by rfl) _ _).trans (foldl_keeps State.plots (fun _ _ => by rfl) _ _))
    rw [holdingsDropped, hslots]
    exact (foldl_keeps (aside q) (fun w id => aside_endJob h id ..) _ _).trans (foldl_keeps (aside q) (fun _ _ => by rfl) _ u)
  unfold beginReset
  split
  · rfl
  · split
    · exact aside_onPart_ne h _
    · dsimp only
      split
      · exact (hdropped _).trans (aside_onPart_ne h _)
      · exact (aside_stopPartition h).trans ((hdropped _).trans (aside_onPart_ne h _))

end

end Sys2Proof.Machine
end

section
/-! MGT_PART_RESET: each partition by its own bit (R311 to R314, R454). -/

namespace Sys2Proof.Machine

open Host

section
variable {q : PartIx} {s : State} {l : List PartIx}

/-- A partition among those of which none is reset. -/
theorem part_foldl_beginReset_of_not_mem (hq : q ∉ l) (s : State) :
    (l.foldl (fun u r => beginReset r u) s).part q = s.part q :=
  congrArg Prod.fst (foldl_keeps_of_mem (aside q) (fun r hr u => aside_beginReset (fun e : q = r => hq (e ▸ hr)) u) s)

theorem foldl_beginReset_beside (hq : q ∉ l) (s : State) : Beside q s (l.foldl (fun u r => beginReset r u) s) :=
  List.foldlRecOn (motive := Beside q s) l _ ⟨rfl, id⟩ fun u hu r hr =>
    hu.trans (beginReset_beside (fun e : q = r => hq (e ▸ hr)) u)

/-- Among resets of different partitions, what becomes of one is its own reset, begun in a state that has left it alone. -/
theorem foldl_beginReset_of_mem (hl : l.Nodup) (hq : q ∈ l) (s : State) : ∃ u, Beside q s u ∧ u.part q = s.part q ∧
    Beside q (beginReset q u) (l.foldl (fun u r => beginReset r u) s) ∧
    (l.foldl (fun u r => beginReset r u) s).part q = (beginReset q u).part q := by
  obtain ⟨l₁, l₂, rfl⟩ := List.append_of_mem hq
  rw [List.nodup_middle, List.nodup_cons, List.mem_append, not_or] at hl
  obtain ⟨⟨h₁, h₂⟩, -⟩ := hl
  rw [List.foldl_append, List.foldl_cons]
  exact ⟨_, foldl_beginReset_beside h₁ s, part_foldl_beginReset_of_not_mem h₁ s, foldl_beginReset_beside h₂ _,
    part_foldl_beginReset_of_not_mem h₂ _⟩

/-- The gates of a partition as its reset begins in HOLD (R314). -/
def resetWaits (x : Part) : Part := { x with resetStep := .waitResume, resetDone := false, adm := 3 }

theorem beginReset_of_hold (hd : (s.part q).defined = true) (hr : (s.part q).resetStep = .none) (hb : s.image.boot = .done)
    (hrp : s.image.replant = none) (hh : holdActive s = true) : beginReset q s = holdingsDropped q (s.onPart q resetWaits) := by
  simp only [beginReset, hd, hr, hb, hrp, hh, Bool.not_true, Bool.false_eq_true, if_false, if_true, ne_eq, not_true_eq_false,
    decide_false, Option.isSome_none, Bool.or_self]
  rfl

/-- A reset that nothing absorbs: it is under way, not done, and admission is in RESET. -/
theorem beginReset_gates (hd : (s.part q).defined = true) (hr : (s.part q).resetStep = .none) (hb : s.image.boot = .done)
    (hrp : s.image.replant = none) : ((beginReset q s).part q).resetStep ≠ .none ∧ ((beginReset q s).part q).resetDone = false ∧
    ((beginReset q s).part q).adm = 3 := by
  cases hh : holdActive s with
  | false =>
    have hbegun := begun_beginReset ⟨hd, hr, hb, hrp, hh⟩
    exact ⟨by rw [hbegun.step]; decide, hbegun.notDone, hbegun.stopped⟩
  | true =>
    have hview := resetView_holdingsDropped (q := q) (s := s.onPart q resetWaits)
    rw [← beginReset_of_hold hd hr hb hrp hh] at hview
    have hpart : (s.onPart q resetWaits).part q = resetWaits (s.part q) := State.onPart_part ..
    simp only [detachedView, resetView, hpart, partGates, ResetView.mk.injEq, PartGates.mk.injEq] at hview
    obtain ⟨⟨-, -, hstep, hdone, hadm, -⟩, -⟩ := hview
    exact ⟨by rw [hstep]; exact ResetStep.noConfusion, hdone, hadm⟩

theorem exec_mgtPartReset_of_awake (h : spiAwake s = true) (w : Word) : exec (.mgtPartReset w) s =
    .next (((definedParts s).filter fun q => w.getLsbD q.val).foldl (fun u r => beginReset r u) s) :=
  congrArg Outcome.next (if_pos h)

theorem mem_resetParts_iff {w : Word} : q ∈ (definedParts s).filter (fun q => w.getLsbD q.val) ↔
    (s.part q).defined = true ∧ w.getLsbD q.val = true := by
  simp only [definedParts, List.mem_filter, List.mem_finRange, true_and]

/-- What the resets of other partitions leave of the conditions of a reset. -/
theorem Beside.image {t : State} (h : Beside q s t) : t.image.boot = s.image.boot ∧ t.image.replant = s.image.replant ∧
    holdActive t = holdActive s := by
  have hview := h.view
  simp only [resetView, ResetView.mk.injEq] at hview
  obtain ⟨-, -, hboot, hreplant, hmode, -⟩ := hview
  exact ⟨hboot, hreplant, by rw [holdActive, hmode, holdActive]⟩

end

/-- Settles O57: a partition whose bit is 1 has its own reset among those of others, and each other partition is left alone. -/
theorem managementPartitionReset : Obligations.ManagementPartitionReset := by
  intro s w hawake hboot hreplant
  have hnodup : ((definedParts s).filter fun q => w.getLsbD q.val).Nodup := ((List.nodup_finRange 16).filter _).filter _
  refine ⟨_, exec_mgtPartReset_of_awake hawake w, fun q => ⟨fun hd hw hr => ?_, fun hd hw hr => ?_, fun hno => ?_⟩⟩
  · obtain ⟨u, hu, hpart, hrest, hres⟩ := foldl_beginReset_of_mem hnodup (mem_resetParts_iff.2 ⟨hd, hw⟩) s
    obtain ⟨hub, hur, huh⟩ := hu.image
    rw [← hpart] at hd hr
    obtain ⟨hstep, hdone, hadm⟩ := beginReset_gates hd hr (hub.trans hboot) (hur.trans hreplant)
    rw [hres]
    refine ⟨hstep, hdone, hadm, fun hh => ?_⟩
    exact ((begun_beginReset ⟨hd, hr, hub.trans hboot, hur.trans hreplant, huh.trans hh⟩).of_beside hrest).toResetBegun
  · obtain ⟨u, -, hpart, -, hres⟩ := foldl_beginReset_of_mem hnodup (mem_resetParts_iff.2 ⟨hd, hw⟩) s
    rw [hres, ← hpart]
    rw [← hpart] at hd hr
    rw [beginReset_of_under_way hd hr, State.onPart_part]
  · refine part_foldl_beginReset_of_not_mem (fun hin => ?_) s
    obtain ⟨hd, hw⟩ := mem_resetParts_iff.1 hin
    rcases hno with h | h
    · exact Bool.noConfusion (hd.symm.trans h)
    · exact Bool.noConfusion (hw.symm.trans h)

end Sys2Proof.Machine
end

section
/-! Accesses through a bed's mirror or straight to a tier, and the end of a capture: its pieces in their cuttings, the post and the lane
released (R65, R226, R465, R466). -/

namespace Sys2Proof.Machine

open Host

/-! ### Accesses by their route (R226) -/

section
variable {γ : Type} {g : State → γ} (hcis : ∀ c f u, g (State.onCis u c f) = g u) (hmem : ∀ f u, g (State.onMem u f) = g u)
  (hmirror : ∀ b (m : Bed → List MirrorCopy) u, g (State.onBed u b fun x => { x with mirror := m x }) = g u)
include hcis hmem hmirror

theorem readPiece_keeps (q : PartIx) (bed : Option BedIx) (a n : Nat) (flips : Flips) (s : State) :
    g (readPiece q bed a n 0 flips s).1 = g s := by
  unfold readPiece
  split
  · dsimp only
    exact (hmirror ..).trans (hcis ..)
  · exact devRead_keeps hcis hmem ..

theorem readPieces_keeps (q : PartIx) (bed : Option BedIx) (flips : Flips) (ps : List (Nat × Nat)) (s : State) :
    g (readPieces q bed 0 flips s ps).1 = g s := by
  induction ps generalizing s with
  | nil => rfl
  | cons x ps ih =>
    have hpiece := readPiece_keeps hcis hmem hmirror q bed x.1 x.2 flips s
    rw [readPieces]
    split
    · exact keeps_of_pair g hpiece ‹_›
    · have hrest := (ih _).trans (keeps_of_pair g hpiece ‹_›)
      split <;> exact keeps_of_pair g hrest ‹_›

/-- An uncompressed read by its route. -/
theorem routedRead_keeps (q : PartIx) (bed : Option BedIx) (a n : Nat) (flips : Flips) (s : State) :
    g (routedRead q bed a n 0 flips s).1 = g s := by
  unfold routedRead
  split
  · exact readPieces_keeps hcis hmem hmirror ..
  · exact devRead_keeps hcis hmem ..

variable {epoch : Nat} (hbed : ∀ b n u, g (bedCheck b epoch n u).1 = g u) (hperf : ∀ c r k n u, g (cisPerfAdd c r k n u) = g u)
include hbed hperf

theorem writePiece_keeps (q : PartIx) (bed : Option BedIx) (a : Nat) (bs : List Byte) (s : State) :
    g (writePiece q bed a 0 epoch bs s).1 = g s := by
  have htouched : ∀ b f v u, g (touchCopy b f (xltTouch q v u)) = g u := fun b f v u => (hmirror ..).trans (hcis ..)
  have hentry : ∀ f e u, g (setDirEntry f e u) = g u := fun f e u => by rw [setDirEntry, onDir, hcis]
  have hdirty : ∀ b f h u, g (onCopy b f h u) = g u := fun b f h u => hmirror ..
  unfold writePiece
  split
  · dsimp only
    split
    · dsimp only
      split
      · exact (hentry ..).trans ((hdirty ..).trans ((hmem ..).trans (keeps_of_pair g ((hbed ..).trans (htouched ..)) ‹_›)))
      · exact (hdirty ..).trans ((hmem ..).trans (keeps_of_pair g ((hbed ..).trans (htouched ..)) ‹_›))
    · exact keeps_of_pair g ((hbed ..).trans (htouched ..)) ‹_›
  · exact devWritePiece_keeps hcis hmem hbed hperf ..

/-- An uncompressed write by its route. -/
theorem routedWrite_keeps (q : PartIx) (bed : Option BedIx) (a : Nat) (bs : List Byte) (s : State) :
    g (routedWrite q bed a 0 epoch bs s).1 = g s := by
  unfold routedWrite
  split
  · clear * - hcis hmem hmirror hbed hperf
    induction pieces pageBytes a bs.length generalizing s with
    | nil => rfl
    | cons x ps ih =>
      have hpiece := writePiece_keeps hcis hmem hmirror hbed hperf q bed x.1 ((bs.drop (x.1 - a)).take x.2) s
      rw [writePieces]
      split
      · exact keeps_of_pair g hpiece ‹_›
      · exact (ih _).trans (keeps_of_pair g hpiece ‹_›)
  · exact devWrite_keeps hcis hmem hbed hperf ..

end

/-- The performance counters of a cistern, for a view of none of them and of no cause. -/
theorem cisPerfAdd_keeps_view {γ : Type} {g : State → γ} (hcis : ∀ c f u, g (State.onCis u c f) = g u)
    (hfunc : ∀ f h u, g (State.onFunc u f h) = g u) (c : CisIx) (q : Option PartIx) (code n : Nat) (s : State) :
    g (cisPerfAdd c q code n s) = g s := by
  have hset : ∀ x u, g (State.setCistern u c x) = g u := fun x u => hcis c (fun _ => x) u
  unfold cisPerfAdd
  split
  · rfl
  · dsimp only
    split
    · exact (raiseEvent_keeps_view hfunc ..).trans (hset ..)
    · exact hset ..

/-! ### Pieces of a capture (R465) -/

section
variable {γ : Type} {g : State → γ} (hcis : ∀ c f u, g (State.onCis u c f) = g u) (hmem : ∀ f u, g (State.onMem u f) = g u)
  (hbed : ∀ b (m : Bed → List MirrorCopy) (d : Bed → EpochDrop) u, g (State.onBed u b fun x => { x with mirror := m x, drop := d x }) = g u)
  (hfunc : ∀ f h u, g (State.onFunc u f h) = g u) (hfresh : ∀ n u, g { u with fresh := n } = g u)
include hcis hmem hbed hfresh

theorem pieceData_keeps (s : State) (q : PartIx) (x : Piece) : g (pieceData s q x).1 = g s := by
  unfold pieceData
  refine List.foldlRecOn (motive := fun a : State × List (List Byte) => g a.1 = g s) x.rows _ rfl fun a ha r _ => ?_
  have hread := routedRead_keeps hcis hmem (fun b m u => hbed b m Bed.drop u) q none r.1 r.2 [] a.1
  split
  · exact (keeps_of_pair g hread ‹_›).trans ha
  · exact (hfresh ..).trans ((keeps_of_pair g hread ‹_›).trans ha)

variable (hcut : ∀ q c f u, g (onCut q c f u) = g u)
include hfunc hcut

theorem putPiece_keeps (p : PlotIx) (k : Capture) (c : Fin 16) (s : State) (x : Piece) : g (putPiece p k c s x) = g s := by
  unfold putPiece
  dsimp only
  split
  · exact hcut ..
  · exact (hcut ..).trans ((routedWrite_keeps hcis hmem (fun b m u => hbed b m Bed.drop u)
      (fun b n u => hbed b Bed.mirror (fun y => dropCount y.drop _ n) u) (cisPerfAdd_keeps_view hcis hfunc) ..).trans
      (pieceData_keeps hcis hmem hbed hfresh ..))

end

/-! ### The end of a capture (R466) -/

section
variable {s : State} {p : PlotIx} {k : Capture}

/-- The pieces of a capture in their cuttings. -/
def piecesPut (p : PlotIx) (k : Capture) (s : State) : State :=
  forAll k.cuts (fun s c => (resultPieces p k.desc).foldl (putPiece p k c) s) s

/-- The cuttings that were dropped meanwhile are free, and the plot's capture is over. -/
def captureOver (p : PlotIx) (k : Capture) (s : State) : State :=
  forAll k.cuts (fun s c => onCut k.part c (fun y => if y.dropAfter then Cutting.reset else y) s)
    (s.onPlot p fun x => { x with capture := none })

/-- What the held command's post goes on with. -/
def capturedEnd (k : Capture) : Ended :=
  { status := stOk, esc := k.esc, retries := k.retries, cycles := k.cycles, progress := k.progress, fault := 0 }

theorem exec_captureComplete_of_free (hk : (s.plot p).capture = some k) (hh : holdActive s = false)
    (hm : (s.plot p).move.run = none) :
    exec (.captureComplete p) s = .next (step11 p .compute k.desc (capturedEnd k) (captureOver p k (piecesPut p k s))) := by
  change execCaptureComplete p s = _
  simp only [execCaptureComplete, hk, hh, hm, Option.isSome_none, Bool.or_self, Bool.false_eq_true, if_false]
  rfl

/-- The semaphores of every bed. -/
def bedSems (s : State) : Vector (Vector (BitVec 16) 64) 16 := s.beds.map (·.sems)

theorem bedSems_get (s : State) (b : BedIx) : (bedSems s)[b] = (s.bed b).sems := Vector.getElem_map ..

theorem bedSems_onBed {b : BedIx} {f : Bed → Bed} (hf : (f (s.bed b)).sems = (s.bed b).sems) : bedSems (s.onBed b f) = bedSems s := by
  have hset : bedSems (s.onBed b f) = (bedSems s).set b.val (f (s.bed b)).sems b.isLt := Vector.map_set
  have hself : (s.bed b).sems = (bedSems s)[b.val] := (Vector.getElem_map _ _).symm
  rw [hset, hf, hself, Vector.set_getElem_self]

/-- Pieces go beside plots and semaphores. -/
theorem piecesPut_keeps (p : PlotIx) (k : Capture) (s : State) :
    (piecesPut p k s).plots = s.plots ∧ bedSems (piecesPut p k s) = bedSems s :=
  ⟨foldl_keeps State.plots (fun u c => foldl_keeps State.plots (putPiece_keeps (fun _ _ _ => by rfl) (fun _ _ => by rfl)
      (fun _ _ _ _ => by rfl) (fun _ _ _ => by rfl) (fun _ _ => by rfl) (fun _ _ _ _ => by rfl) p k c) _ u) _ s,
    foldl_keeps bedSems (fun u c => foldl_keeps bedSems (putPiece_keeps (fun _ _ _ => by rfl) (fun _ _ => by rfl)
      (fun _ _ _ _ => bedSems_onBed rfl) (fun _ _ _ => by rfl) (fun _ _ => by rfl) (fun _ _ _ _ => by rfl) p k c) _ u) _ s⟩

theorem captureOver_leaves (p : PlotIx) (k : Capture) (s : State) :
    ((captureOver p k s).plot p).capture = none ∧ bedSems (captureOver p k s) = bedSems s := by
  refine ⟨?_, foldl_keeps bedSems (fun _ _ => by rfl) _ _⟩
  rw [captureOver, forAll, foldl_keeps (fun u : State => u.plot p) (fun _ _ => by rfl), State.onPlot_plot]

theorem step11_capture (l : Lane) (d : BitVec 1024) (e : Ended) (s : State) :
    ((step11 p l d e s).plot p).capture = (s.plot p).capture := by
  unfold step11
  split
  · dsimp only
    split
    · rw [State.onPlot_plot, haltPlot]
      split <;> rfl
    · rfl
  · rfl

end

/-- Settles O16: the pieces touch neither plots nor semaphores; the capture is taken from the plot, and the post is step 11's. -/
theorem captureReleases : Obligations.CaptureReleases := by
  intro s p k hk hh hm
  dsimp only
  obtain ⟨hplots, hput⟩ := piecesPut_keeps p k s
  obtain ⟨hcapture, hover⟩ := captureOver_leaves p k (piecesPut p k s)
  have hsems : ((captureOver p k (piecesPut p k s)).bed (bedOf p)).sems = (s.bed (bedOf p)).sems := by
    rw [← bedSems_get, hover, hput, bedSems_get]
  refine ⟨_, exec_captureComplete_of_free hk hh hm, (step11_capture ..).trans hcapture, fun hno => ?_, fun hyes hlt => ?_⟩
  · rw [step11_of_no_post hno, hsems]
  · rw [← hsems] at hlt ⊢
    rw [step11_of_post hyes hlt, State.onBed_bed]

end Sys2Proof.Machine
end

section
/-! The retirement of a bank: its bit, reduced mode, its record and the cause (R473, R481, R482). What calls for a retirement is the
model's reading (entry 86 of the assumption log). -/

namespace Sys2Proof.Machine

open Host

section
variable {s : State} {p : PlotIx} {k : Fin 64} {c : PruneCause} {n : Nat}

/-! ### Retired banks counted -/

/-- One more key in a list without repetition. -/
theorem length_filter_or_le {l : List Nat} (hl : l.Nodup) (f : Nat → Bool) (k : Nat) :
    (l.filter fun i => f i || i == k).length ≤ (l.filter f).length + 1 := by
  induction l with
  | nil => exact Nat.zero_le _
  | cons a l ih =>
    obtain ⟨ha, hl⟩ := List.nodup_cons.1 hl
    by_cases hk : a = k
    · subst hk
      have hrest : (l.filter fun i => f i || i == a) = l.filter f := List.filter_congr fun i hi => by
        rw [beq_false_of_ne (fun e : i = a => ha (e ▸ hi)), Bool.or_false]
      rw [List.filter_cons_of_pos (by simp only [beq_self_eq_true, Bool.or_true]), hrest, List.length_cons]
      exact Nat.succ_le_succ (List.Sublist.length_le ((List.sublist_cons_self a l).filter f))
    · have hb := beq_false_of_ne hk
      rw [List.filter_cons, List.filter_cons, hb, Bool.or_false]
      split
      · exact Nat.succ_le_succ (ih hl)
      · exact ih hl

/-- The plot after a bank's retirement. -/
def bankRetired (k : Fin 64) (x : Plot) : Plot :=
  let bit : BitVec 64 := BitVec.ofNat 64 (2 ^ k.val)
  { x with banks := x.banks ||| bit, reducedReq := some true, win := { x.win with ueBanks := x.win.ueBanks &&& ~~~bit } }

theorem bankCount_bankRetired_le (k : Fin 64) (x : Plot) : bankCount (bankRetired k x) ≤ bankCount x + 1 := by
  have hbits : ((List.range 64).filter fun i => (bankRetired k x).banks.getLsbD i) =
      (List.range 64).filter fun i => x.banks.getLsbD i || i == k.val := List.filter_congr fun i hi => by
    have hi : i < 64 := List.mem_range.1 hi
    rw [bankRetired, BitVec.getLsbD_or, BitVec.getLsbD_ofNat, decide_eq_true hi, Bool.true_and, Nat.testBit_two_pow]
    exact congrArg (x.banks.getLsbD i || ·) (Bool.eq_iff_iff.2 (by rw [decide_eq_true_eq, beq_iff_eq, eq_comm]))
  rw [bankCount, hbits]
  exact length_filter_or_le List.nodup_range _ _

/-! ### What a retirement leaves (R481) -/

theorem retireBank_keeps_view {γ : Type} {g : State → γ} (hfunc : ∀ f h u, g (State.onFunc u f h) = g u)
    (hreserve : ∀ r b u, g (State.onPart u r fun x => { x with reserveUsed := b }) = g u) (p : PlotIx) (k : Fin 64) (c : PruneCause)
    (n : Nat) (s : State) : g (retireBank p k c n s) = g (queueLog 1 11 (prunePayload 6 p.val k.val (causeCode c) n
      (tabGet 0 (s.plot p).win.bankReturns k.val)) (s.onPlot p (bankRetired k))) := by
  have hdraw : ∀ r u, g (drawReserve r u) = g u := fun r u => by
    unfold drawReserve
    split
    · exact hreserve ..
    · rfl
  unfold retireBank
  dsimp only
  split
  · rw [hdraw, raiseCapacity, raiseEvent_keeps_view hfunc, recordPrune_keeps_view hfunc]
    rfl
  · rw [recordPrune_keeps_view hfunc]
    rfl

theorem retireBank_plot (p : PlotIx) (k : Fin 64) (c : PruneCause) (n : Nat) (s : State) (m : PlotIx) :
    (retireBank p k c n s).plot m = if m = p then bankRetired k (s.plot p) else s.plot m := by
  rw [retireBank_keeps_view (g := fun u => u.plot m) (fun _ _ _ => by rfl) fun _ _ _ => by rfl]
  exact State.onPlot_plot_if ..

/-- The cause DEVICE of PF0 stays through the cause CAPACITY of a partition. -/
theorem retireBank_cause (p : PlotIx) (k : Fin 64) (c : PruneCause) (n : Nat) (s : State) :
    ((retireBank p k c n s).func pf0Fn).cause.getLsbD 6 = true := by
  have hvf : ∀ (q : PartIx) u, (raiseCapacity q u).func pf0Fn = u.func pf0Fn := fun q u => by
    unfold raiseCapacity raiseEvent
    split
    · rfl
    · exact State.onFunc_func_ne _ _ (fun h => absurd (congrArg Fin.val h) (by simp [pf0Fn, vfOf]))
  have hdraw : ∀ r u, (drawReserve r u).func pf0Fn = u.func pf0Fn := fun r u => by
    unfold drawReserve
    split <;> rfl
  have hdevice : ∀ u, ((recordPrune 6 p.val k.val c n (tabGet 0 (s.plot p).win.bankReturns k.val) u).func pf0Fn).cause.getLsbD 6 = true :=
    fun u => raiseEvent_cause (causesHeld_pf0 _) 6
  unfold retireBank
  dsimp only
  split
  · rw [hdraw, hvf]
    exact hdevice _
  · exact hdevice _

/-- Below BANK_MAX, on a plot that no job has a task on, nothing but the mark of a failed pass follows. -/
theorem afterRetire_keeps_view {γ : Type} {g : State → γ}
    (hjobs : ∀ r (f : Part → List Job) u, g (State.onPart u r fun x => { x with jobs := f x }) = g u)
    (hn : bankCount (s.plot p) < s.dev.fault.bankMax) (hj : plotJob s p = none) (c : PruneCause) : g (afterRetire p c s) = g s := by
  unfold afterRetire
  dsimp only
  rw [if_neg (not_le.2 hn)]
  split
  · unfold failPassOn
    split
    · rfl
    · exact hjobs ..
  · rw [migrateFrom, hj]

/-- The job of a plot, by the plot's partition and the jobs of every partition. -/
theorem plotJob_retireBank : plotJob (retireBank p k c n s) p = plotJob s p := by
  have hjobs : ∀ q : PartIx, ((retireBank p k c n s).part q).jobs = (s.part q).jobs := fun q => by
    rw [retireBank_keeps_view (g := fun u => (u.part q).jobs) (fun _ _ _ => by rfl) fun r b u => ?_]
    · rfl
    · rw [State.onPart_part_if]
      split
      · subst_vars
        rfl
      · rfl
  have hpart : plotPart ((retireBank p k c n s).plot p) = plotPart (s.plot p) := by
    rw [retireBank_plot, if_pos rfl]
    rfl
  simp only [plotJob, hpart, hjobs]

theorem exec_bankRetire_of_called (hh : holdActive s = false) (hp : powered (s.plot p) = true)
    (hbit : (s.plot p).banks.getLsbD k.val = false) (hcalls : bankCalls s p k c = some n)
    (hempty : c = .ceRate → plotEmpty (s.plot p) = true) :
    exec (.bankRetire p k c) s = .next (afterRetire p c (retireBank p k c n s)) := by
  have hflush : (decide (c = .ceRate) && !plotEmpty (s.plot p)) = false := by
    by_cases hc : c = .ceRate
    · rw [hempty hc, Bool.not_true, Bool.and_false]
    · rw [decide_eq_false hc, Bool.false_and]
  change execBankRetire p k c s = _
  simp only [execBankRetire, hh, hp, hbit, hcalls, hflush, Bool.not_true, Bool.or_self, Bool.false_eq_true, if_false]

end

/-- Settles O22: the bank's bit and record, and nothing that follows while BANK_MAX is not reached and no job has a task there. What
calls for a retirement is entry 86 of the assumption log. -/
theorem bankRetires : Obligations.BankRetires := by
  intro s p k c n hh hp hbit hcalls hempty hmax hjob
  have hdev : (retireBank p k c n s).dev = s.dev := retireBank_keeps_view (g := State.dev) (fun _ _ _ => by rfl) (fun _ _ _ => by rfl) ..
  have hplot := retireBank_plot p k c n s
  have hown : (retireBank p k c n s).plot p = bankRetired k (s.plot p) := (hplot p).trans (if_pos rfl)
  have hbelow : bankCount ((retireBank p k c n s).plot p) < (retireBank p k c n s).dev.fault.bankMax := by
    rw [hown, hdev]
    exact (bankCount_bankRetired_le k _).trans_lt hmax
  have hafter := fun {γ : Type} (g : State → γ) hg => afterRetire_keeps_view (g := g) hg hbelow (plotJob_retireBank.trans hjob) c
  have hplots := hafter State.plots fun _ _ _ => rfl
  refine ⟨_, exec_bankRetire_of_called hh hp hbit hcalls hempty, ?_, ?_, ?_, ?_, fun m hm => ?_, ?_, ?_⟩
  · rw [State.plot, hplots, ← State.plot, hown]
    rfl
  · rw [State.plot, hplots, ← State.plot, hown]
    rfl
  · rw [hafter State.mem fun _ _ _ => rfl, retireBank_keeps_view (g := State.mem) (fun _ _ _ => by rfl) fun _ _ _ => by rfl]
    rfl
  · rw [hafter State.beds fun _ _ _ => rfl, retireBank_keeps_view (g := State.beds) (fun _ _ _ => by rfl) fun _ _ _ => by rfl]
    rfl
  · rw [State.plot, hplots, ← State.plot, hplot m, if_neg hm]
  · rw [hafter (·.image.pendingLog) fun _ _ _ => rfl,
      retireBank_keeps_view (g := (·.image.pendingLog)) (fun _ _ _ => by rfl) fun _ _ _ => by rfl]
    rfl
  · rw [State.func, hafter State.fns fun _ _ _ => rfl, ← State.func]
    exact retireBank_cause p k c n s

end Sys2Proof.Machine
end

section
/-! Queue pairs: doorbells, fetching, completions, attaching and detaching (R375 to R383). -/

namespace Sys2Proof.Machine

open Host

section
variable {s : State} {f : FnIx} {i : QpIx}

/-! ### One pair changes -/

/-- What a command that works on one queue pair leaves: the pair as `y`, and the memories, the partitions and the function's other
pairs as they were. -/
structure PairBecomes (s t : State) (f : FnIx) (i : QpIx) (y : Qp) : Prop where
  pair : qpOf t f i = y
  mem : t.mem = s.mem
  parts : t.parts = s.parts
  others : ∀ k : QpIx, k ≠ i → qpOf t f k = qpOf s f k

theorem onQp_becomes {g : Qp → Qp} {y : Qp} (h : g (qpOf s f i) = y) : PairBecomes s (onQp f i g s) f i y where
  pair := by rw [qpOf_onQp, if_pos ⟨rfl, rfl⟩, h]
  mem := rfl
  parts := rfl
  others := fun k hk => by rw [qpOf_onQp, if_neg fun hki => hk hki.2]

/-- A command whose meaning is a change of one pair. -/
theorem exists_becomes {c : Instr} {g : Qp → Qp} {y : Qp} (hc : exec c s = .next (onQp f i g s)) (h : g (qpOf s f i) = y) :
    ∃ t, exec c s = .next t ∧ qpOf t f i = y ∧ t.mem = s.mem ∧ t.parts = s.parts ∧ ∀ k : QpIx, k ≠ i → qpOf t f k = qpOf s f k :=
  have hb := onQp_becomes h
  ⟨_, hc, hb.pair, hb.mem, hb.parts, hb.others⟩

theorem qpOf_raiseEvent (g : FnIx) (v : VecIx) (u : State) : qpOf (raiseEvent g v u) f i = qpOf u f i :=
  raiseEvent_func_keeps (h := fun x : Fn => x.qps[i]) (fun _ _ _ => rfl) ..

/-! ### Submissions answered in their turn (R377) -/

theorem promote_of_waiting {x : Qp} {a : Accepted} (ha : x.accepted = [a]) (hr : a.resp = none) : promote x = x := by
  simp only [promote, ha, splitAnswered, hr, List.append_nil]
  rw [← ha]

theorem promote_of_answered {x : Qp} {a : Accepted} {r : CqEntry} (ha : x.accepted = [a]) (hr : a.resp = some r) :
    promote x = { x with ready := x.ready ++ [r], accepted := [] } := by
  simp only [promote, ha, splitAnswered, hr]

/-! ### Doorbells (R381) -/

variable {v : Word}

theorem exec_sqDoorbell_of_limit (hs : (qpOf s f i).state = 1) (h1 : 1 ≤ (v - (qpOf s f i).nextSsn).toNat)
    (hn : (v - (qpOf s f i).nextSsn).toNat ≤ 2 ^ (qpOf s f i).sqLog.toNat) (hl : (v - (qpOf s f i).limit).toNat < 2 ^ 31) :
    ∃ g, exec (.sqDoorbell f i v) s = .next (onQp f i g s) ∧ g (qpOf s f i) = { qpOf s f i with limit := v, stall := false } := by
  refine ⟨_, rfl, ?_⟩
  have hle : (v - (qpOf s f i).limit).toNat ≤ 0x7FFFFFFF := Nat.le_of_lt_succ hl
  simp only [hs, h1, hn, hle, ne_eq, not_true_eq_false, if_false, decide_true, Bool.and_self, if_true]

/-- A doorbell that repeats LIMIT ends a stall alone. -/
theorem exec_sqDoorbell_of_same (hs : (qpOf s f i).state = 1) (hv : v = (qpOf s f i).limit) :
    ∃ g, exec (.sqDoorbell f i v) s = .next (onQp f i g s) ∧ g (qpOf s f i) = { qpOf s f i with stall := false } := by
  refine ⟨_, rfl, ?_⟩
  simp only [hs, ne_eq, not_true_eq_false, if_false, ← hv, if_true]
  split
  · rw [hv]
  · rfl

theorem exec_sqDoorbell_of_dropped (hs : (qpOf s f i).state = 1) (hv : v ≠ (qpOf s f i).limit)
    (hbad : (v - (qpOf s f i).nextSsn).toNat = 0 ∨ 2 ^ (qpOf s f i).sqLog.toNat < (v - (qpOf s f i).nextSsn).toNat ∨
      2 ^ 31 ≤ (v - (qpOf s f i).limit).toNat) : ∃ g, exec (.sqDoorbell f i v) s = .next (onQp f i g s) ∧
    g (qpOf s f i) = { qpOf s f i with dbDrop := satAdd (qpOf s f i).dbDrop 1 } := by
  refine ⟨_, rfl, ?_⟩
  have hno : ¬ ((decide (1 ≤ (v - (qpOf s f i).nextSsn).toNat) &&
      decide ((v - (qpOf s f i).nextSsn).toNat ≤ 2 ^ (qpOf s f i).sqLog.toNat) &&
      decide ((v - (qpOf s f i).limit).toNat ≤ 0x7FFFFFFF)) = true) := by
    simp only [Bool.and_eq_true, decide_eq_true_eq]
    rintro ⟨⟨h1, hn⟩, hl⟩
    rcases hbad with h | h | h <;> omega
  dsimp only
  rw [if_neg (not_not.2 hs), if_neg hno, if_neg hv]

theorem exec_cqDoorbell_of_consumed (hs : (qpOf s f i).state = 1)
    (hv : (v - (qpOf s f i).consumed).toNat ≤ ((qpOf s f i).lastCsn - (qpOf s f i).consumed).toNat) :
    ∃ g, exec (.cqDoorbell f i v) s = .next (onQp f i g s) ∧ g (qpOf s f i) =
      { qpOf s f i with consumed := v, journal := (qpOf s f i).journal.drop (v - (qpOf s f i).consumed).toNat } := by
  refine ⟨_, rfl, ?_⟩
  simp only [hs, outstanding, hv, decide_true, Bool.and_self, if_true]

theorem exec_cqDoorbell_of_dropped (hv : ((qpOf s f i).lastCsn - (qpOf s f i).consumed).toNat < (v - (qpOf s f i).consumed).toNat) :
    ∃ g, exec (.cqDoorbell f i v) s = .next (onQp f i g s) ∧
      g (qpOf s f i) = { qpOf s f i with dbDrop := satAdd (qpOf s f i).dbDrop 1 } := by
  refine ⟨_, rfl, ?_⟩
  simp only [outstanding, not_le.2 hv, decide_false, Bool.and_false, Bool.false_eq_true, if_false]

/-! ### Fetching (R379) -/

theorem seSsn_eq_iff {e : BitVec 1024} {w : Word} : seSsn e = w ↔ e.toNat / 2 ^ 32 % 2 ^ 32 = w.toNat := by
  have hfld : fld e 0x04 31 0 = e.toNat / 2 ^ 32 % 2 ^ 32 := by
    rw [fld, bitsOf, Nat.shiftRight_eq_div_pow]
  rw [← BitVec.toNat_inj, seSsn, hfld, BitVec.toNat_ofNat, Nat.mod_mod]

/-- What a pair that may fetch makes of its next entry. -/
theorem exec_submissionFetch_of_mayFetch (h : mayFetch (qpOf s f i) = true) : exec (.submissionFetch f i true) s =
    .next (if seSsn (sqEntry s (qpOf s f i)) ≠ (qpOf s f i).nextSsn then onQp f i (fun x => { x with stall := true }) s
      else onQp f i (fun x => promote { x with
        nextSsn := x.nextSsn + 1
        accepted := x.accepted ++ [if refusedEntry s f (sqEntry s (qpOf s f i)) then
          { entry := sqEntry s (qpOf s f i), taken := true, resp := some (response (sqEntry s (qpOf s f i)) (ansState 0x3E)) }
          else { entry := sqEntry s (qpOf s f i), taken := false, resp := none }] }) s) := by
  change execSubmissionFetch f i true s = _
  simp only [execSubmissionFetch, h, Bool.not_true, Bool.false_eq_true, if_false]

theorem mayFetch_iff {x : Qp} : mayFetch x = true ↔
    x.state = 1 ∧ x.nextSsn ≠ x.limit ∧ x.stall = false ∧ (x.lastCsn - x.consumed).toNat ≠ min (2 ^ x.cqLog.toNat) 256 := by
  simp only [mayFetch, outstanding, cqWindow, Bool.and_eq_true, beq_iff_eq, bne_iff_ne, Bool.not_eq_true', and_assoc, ne_eq]

/-! ### Completions (R379, R380) -/

theorem exec_completionWrite_of_full (h : min (2 ^ (qpOf s f i).cqLog.toNat) 256 ≤ ((qpOf s f i).lastCsn - (qpOf s f i).consumed).toNat) :
    exec (.completionWrite f i) s = .next s := by
  change execCompletionWrite f i s = _
  rw [execCompletionWrite]
  dsimp only
  split
  · rfl
  · exact congrArg Outcome.next (if_pos ((Bool.or_eq_true ..).mpr (.inr (decide_eq_true h))))

/-- The oldest ready entry of a pair, issued. -/
def issueEntry (f : FnIx) (i : QpIx) (e : CqEntry) (rest : List CqEntry) (s : State) : State :=
  let x := qpOf s f i
  let out := cqIssue e (x.lastCsn + 1) s.time
  onQp f i (fun x => { x with ready := rest, lastCsn := (qpOf s f i).lastCsn + 1, journal := x.journal ++ [out] })
    (writeCq x (x.lastCsn + 1) out s)

theorem exec_completionWrite_of_ready {e : CqEntry} {rest : List CqEntry} (hs : (qpOf s f i).state = 1)
    (hr : (qpOf s f i).ready = e :: rest)
    (h : ((qpOf s f i).lastCsn - (qpOf s f i).consumed).toNat < min (2 ^ (qpOf s f i).cqLog.toNat) 256) :
    exec (.completionWrite f i) s = .next (raiseEvent f (qpVec i) (issueEntry f i e rest s)) := by
  have hroom : ¬ (decide ((qpOf s f i).state ≠ 1) || decide (cqWindow (qpOf s f i) ≤ outstanding (qpOf s f i))) = true := by
    simp only [hs, ne_eq, not_true_eq_false, decide_false, Bool.false_or, decide_eq_true_eq]
    exact not_le.2 h
  change execCompletionWrite f i s = _
  simp only [execCompletionWrite, hr]
  rw [if_neg hroom]
  rfl

end

/-- Settles O31: doorbells, fetches and completions each by their law above. -/
theorem queuesMove : Obligations.QueuesMove := by
  intro s f i
  dsimp only
  refine ⟨fun hs => ⟨fun v => ⟨?_, ?_, ?_, ?_, ?_⟩, fun hl hst hw => ⟨fun hssn href hacc => ?_, fun hssn => ?_⟩, fun e rest hr hlt => ?_,
    exec_completionWrite_of_full⟩, fun e a hacc => ?_⟩
  · rintro ⟨h1, hn, hl⟩
    obtain ⟨g, hexec, hg⟩ := exec_sqDoorbell_of_limit hs h1 hn hl
    exact exists_becomes hexec hg
  · intro hv
    obtain ⟨g, hexec, hg⟩ := exec_sqDoorbell_of_same hs hv
    exact exists_becomes hexec hg
  · intro hv hbad
    obtain ⟨g, hexec, hg⟩ := exec_sqDoorbell_of_dropped hs hv hbad
    exact exists_becomes hexec hg
  · intro hv
    obtain ⟨g, hexec, hg⟩ := exec_cqDoorbell_of_consumed hs hv
    exact exists_becomes hexec hg
  · intro hv
    obtain ⟨g, hexec, hg⟩ := exec_cqDoorbell_of_dropped hv
    exact exists_becomes hexec hg
  · have hexec := exec_submissionFetch_of_mayFetch (mayFetch_iff.2 ⟨hs, hl, hst, hw⟩)
    rw [if_neg (not_not.2 (seSsn_eq_iff.2 hssn)), href] at hexec
    refine exists_becomes hexec ?_
    rw [hacc]
    exact promote_of_waiting rfl rfl
  · have hexec := exec_submissionFetch_of_mayFetch (mayFetch_iff.2 ⟨hs, hl, hst, hw⟩)
    rw [if_pos (fun h => hssn (seSsn_eq_iff.1 h))] at hexec
    exact exists_becomes hexec rfl
  · refine ⟨_, exec_completionWrite_of_ready hs hr hlt, ?_, ?_, fun hh => raiseEvent_cause (s := issueEntry f i e rest s) hh (qpVec i)⟩
    · rw [qpOf_raiseEvent, issueEntry, qpOf_onQp, if_pos ⟨rfl, rfl⟩]
      rfl
    · rw [raiseEvent_keeps_view (g := State.mem) fun _ _ _ => by rfl]
      rfl
  · rw [answerNow, qpOf_onQp, if_pos ⟨rfl, rfl⟩, hacc]
    exact promote_of_answered rfl rfl

end Sys2Proof.Machine
end

section
/-! Queue pairs attached fresh, attached again with their sequence state, and detached (R382, R383). -/

namespace Sys2Proof.Machine

open Host

section
variable {s : State} {f : FnIx} {i : QpIx}

/-- Sizes of 2^6 to 2^16 and bases on 4 KiB. -/
theorem qpSizesOk_iff {x : Qp} : qpSizesOk x = true ↔ 6 ≤ x.sqLog.toNat ∧ x.sqLog.toNat ≤ 16 ∧ 6 ≤ x.cqLog.toNat ∧
    x.cqLog.toNat ≤ 16 ∧ x.sqBase.toNat % 4096 = 0 ∧ x.cqBase.toNat % 4096 = 0 := by
  simp only [qpSizesOk, Bool.and_eq_true, decide_eq_true_eq, beq_iff_eq, and_assoc]

/-- A pair attached fresh. -/
def attached (x : Qp) : Qp :=
  { x with
    state := 1
    detaching := false
    en := true
    resumeSeq := false
    stall := false
    err := 0
    nextSsn := x.ssnInit
    limit := x.ssnInit
    lastCsn := x.csnInit - 1
    consumed := x.csnInit - 1
    ready := x.ready.filter fun e => e.toNat % 16 = 0
    journal := [] }

/-- What an attach makes of a pair. -/
def afterAttach (takes : Bool) (x : Qp) : Qp :=
  if x.state = 1 then x
  else if !takes then { x with err := 2 }
  else if !qpSizesOk x then { x with err := 3 }
  else attached x

theorem exec_qpAttach : exec (.qpAttach f i) s = .next (onQp f i (afterAttach (takesQueues s f)) s) := rfl

/-- A pair that goes on with its sequence state. -/
def resumed (x : Qp) : Qp :=
  { x with state := 1, detaching := false, en := true, resumeSeq := true, stall := false, err := 0, limit := x.nextSsn }

theorem exec_qpResumeAttach_of_fit (hs : (qpOf s f i).state ≠ 1) (h0 : (qpOf s f i).state ≠ 0) (ht : takesQueues s f = true)
    (hok : qpSizesOk (qpOf s f i) = true)
    (hfit : ((qpOf s f i).lastCsn - (qpOf s f i).consumed).toNat ≤ 2 ^ (qpOf s f i).cqLog.toNat) :
    exec (.qpResumeAttach f i) s = .next (raiseEvent f (qpVec i) (replayJournal (qpOf s f i) (onQp f i resumed s))) := by
  change execQpResumeAttach f i s = _
  simp only [execQpResumeAttach, hs, h0, ht, hok, outstanding, not_lt.2 hfit, Bool.not_true, decide_false, Bool.or_self,
    Bool.false_eq_true, if_false]
  rfl

/-- The rewritten journal is in host memory alone. -/
theorem replayJournal_keeps_view {γ : Type} {g : State → γ} (hmem : ∀ h u, g (State.onMem u h) = g u) (x : Qp) (s : State) :
    g (replayJournal x s) = g s := by
  unfold replayJournal
  exact foldl_keeps g (fun _ _ => by rw [writeCq, hostWrite, hmem]) _ s

theorem replayJournal_mem_congr {t : State} (h : t.mem = s.mem) (x : Qp) : (replayJournal x t).mem = (replayJournal x s).mem := by
  unfold replayJournal
  generalize (List.range x.journal.length).zip x.journal = l
  induction l generalizing s t with
  | nil => exact h
  | cons a l ih =>
    refine ih ?_
    simp only [writeCq, hostWrite, State.onMem, h]

end

/-- Settles O32: attach, attach again and detach each by their law above. -/
theorem queuesAttachAndDetach : Obligations.QueuesAttachAndDetach := by
  intro s f i
  dsimp only
  refine ⟨fun hs => ⟨fun ht hok => ?_, fun ht => ?_, fun ht hok => ?_, fun ht h0 hok hfit => ?_⟩, fun hs => ?_, fun hs hd => ?_⟩
  · refine exists_becomes exec_qpAttach ?_
    rw [afterAttach, if_neg hs, ht, qpSizesOk_iff.2 hok]
    rfl
  · refine exists_becomes exec_qpAttach ?_
    rw [afterAttach, if_neg hs, ht]
    rfl
  · refine exists_becomes exec_qpAttach ?_
    rw [afterAttach, if_neg hs, ht, Bool.eq_false_iff.2 fun h => hok (qpSizesOk_iff.1 h)]
    rfl
  · refine ⟨_, exec_qpResumeAttach_of_fit hs h0 ht (qpSizesOk_iff.2 hok) hfit, ?_, ?_, fun hh => ?_⟩
    · rw [qpOf_raiseEvent, replayJournal_keeps_view (g := fun u => qpOf u f i) fun _ _ => by rfl, qpOf_onQp, if_pos ⟨rfl, rfl⟩]
      rfl
    · rw [raiseEvent_keeps_view (g := State.mem) fun _ _ _ => by rfl]
      exact replayJournal_mem_congr (s := s) (t := onQp f i resumed s) rfl _
    · refine raiseEvent_cause ?_ (qpVec i)
      rw [replayJournal_keeps_view (g := fun u => causesHeld u f) fun _ _ => by rfl]
      exact hh
  · refine exists_becomes (c := .qpDetach f i) (g := fun x => { x with en := false, detaching := x.detaching || x.state == 1 }) rfl ?_
    rw [hs]
    simp only [beq_self_eq_true, Bool.or_true]
  · refine exists_becomes (c := .detachComplete f i)
      (g := fun x => if x.detaching && x.state = 1 then { x with state := 2, detaching := false } else x) rfl ?_
    rw [hs, hd]
    rfl

end Sys2Proof.Machine
end

section
/-! QUERY_JOBS, LOAD_MODEL and UNLOAD_MODEL, as the next submission of a pair (R294, R376, R378). That the live jobs are the ones listed is
the model's reading (entry 55 of the assumption log). -/

namespace Sys2Proof.Machine

open Host

section
variable {s : State} {f : FnIx} {i : QpIx} {e : BitVec 1024}

/-- The live jobs of a submission's partition in ascending SSN. -/
def listedJobs (s : State) (q : PartIx) : List Job := (liveJobs s q).mergeSort fun a b => a.ssn.toNat ≤ b.ssn.toNat

theorem exec_queryJobs_of_next (he : nextSubmission s f i = some e) (ho : seOpc e = 0x05) : exec (.queryJobs f i true) s =
    .next (answerNow f i (ansDone ((listedJobs s (subPart f e)).take (seLen e / 16)).length (listedJobs s (subPart f e)).length)
      (hostWrite (seAddr e) (((listedJobs s (subPart f e)).take (seLen e / 16)).flatMap fun j => bytesOf 16 (queryRecord j)) s)) := by
  change execQueryJobs f i true s = _
  simp only [execQueryJobs, he, ho, ne_eq, not_true_eq_false, if_false, Bool.not_true, Bool.false_eq_true, listedJobs]

theorem exec_loadModel_of_fit {pkg : ModelPkg} (he : nextSubmission s f i = some e) (ho : seOpc e = 0x10)
    (hroom : residencyFull s (subPart f e) = false) (hgood : loadBad pkg = false) (hfit : loadShort s (subPart f e) pkg = none) :
    exec (.loadModel f i (some pkg)) s =
      .next (answerNow f i (ansDone (s.part (subPart f e)).nextHandle.toNat 0) (makeResident (subPart f e) pkg s)) := by
  change execLoadModel f i (some pkg) s = _
  simp only [execLoadModel, he, ho, hroom, hgood, hfit, ne_eq, not_true_eq_false, if_false, Bool.false_eq_true]

theorem exec_unloadModel_of_unused {r : Resident} {m : ModelDesc} (he : nextSubmission s f i = some e) (ho : seOpc e = 0x11)
    (hm : findModel s (subPart f e) (seArg e) = some (r, m)) (hfree : packageUsed s (subPart f e) r = false) :
    exec (.unloadModel f i) s = .next (answerNow f i (ansDone 0 0)
      (s.onPart (subPart f e) fun x => { x with models := x.models.filter fun k => k.handle ≠ r.handle })) := by
  change execUnloadModel f i s = _
  simp only [execUnloadModel, he, ho, hm, hfree, ne_eq, not_true_eq_false, if_false, Bool.false_eq_true]

end

/-- Settles O36: each of the three commands by its law above. That the live jobs are listed is entry 55 of the assumption log. -/
theorem queriesAndModels : Obligations.QueriesAndModels := by
  intro s f i e he
  refine ⟨fun ho => ?_, fun pkg ho hroom hgood hfit => exec_loadModel_of_fit he ho hroom hgood hfit, fun r m ho hm hfree =>
    exec_unloadModel_of_unused he ho hm hfree⟩
  rw [exec_queryJobs_of_next he ho, List.length_take]
  rfl

end Sys2Proof.Machine
end

section
/-! The mailbox of PF0: how its commands start, what they do to the flash devices, and how they end (R347, R356, R385, R390). That an
erase and a program act as they start, that a refusal goes before a bad length, and the log entry of a command that finds BUSY, are
the model's (entries 92 and 93 of the assumption log). -/

namespace Sys2Proof.Machine

open Host

section
variable {s : State} {k : Fin 2}

/-! ### The start of a command (R390) -/

/-- The mailbox as a command runs in it. -/
def mailboxRuns (op : MbxOp) (s : State) : State := { s with pf0 := { s.pf0 with mbxBusy := true, mbxOp := op } }

theorem startMailbox_of_busy (h : s.pf0.mbxBusy = true) (op : MbxOp) : startMailbox op s = logAccess pf0Fn 0 2 0x1000 s := if_pos h

theorem startMailbox_of_free (h : s.pf0.mbxBusy = false) (op : MbxOp) : startMailbox op s = mailboxRuns op s :=
  if_neg (Bool.eq_false_iff.1 h)

theorem exec_mailbox_of_busy (h : s.pf0.mbxBusy = true) (len : BitVec 16) {c : Instr}
    (hc : c ∈ [Instr.mailboxMonitor len, .imageErase k, .imageWrite k len, .imageCheck k]) :
    exec c s = .next (logAccess pf0Fn 0 2 0x1000 s) := by
  simp only [List.mem_cons, List.not_mem_nil, or_false] at hc
  rcases hc with rfl | rfl | rfl | rfl
  · change execMailboxMonitor len s = _
    rw [execMailboxMonitor, if_pos h, startMailbox_of_busy h]
  · change execImageErase k s = _
    simp only [execImageErase, h, Bool.true_or, if_true, startMailbox_of_busy h]
  · change execImageWrite k len s = _
    simp only [execImageWrite, h, Bool.true_or, if_true, startMailbox_of_busy h]
  · change execImageCheck k s = _
    rw [execImageCheck, startMailbox_of_busy h]

/-! ### A line for the monitor (R448) -/

/-- A line that names a command waits at the front. -/
theorem monitorTurn_of_command {n : Nat} {mbx : Bool} {l : List Byte} {rest : List (Bool × List Byte)} {c : Instr}
    (hl : s.monitor.lines = (mbx, l) :: rest) (hc : parseLine l = .ok c) : monitorTurn n s = s := by
  cases n with
  | zero => rfl
  | succ n => simp only [monitorTurn, hl, hc]

/-- With no line and no character there is nothing to do. -/
theorem monitorTurn_of_idle (hl : s.monitor.lines = []) (hf : s.pins.fifo = []) (n : Nat) : monitorTurn n s = s := by
  cases n with
  | zero => rfl
  | succ n => simp only [monitorTurn, hl, hf]

/-- A line that names no command is answered with its error. -/
theorem monitorTurn_of_error {n : Nat} {mbx : Bool} {l : List Byte} {rest : List (Bool × List Byte)} {e : MonErr}
    (hl : s.monitor.lines = (mbx, l) :: rest) (he : parseLine l = .error e) : monitorTurn (n + 1) s =
      monitorTurn n (sendReply mbx [] (some e) { s with monitor := { s.monitor with lines := rest } }) := by
  simp only [monitorTurn, hl, he]

/-- A reply changes the pins and the mailbox, and takes no character. -/
theorem sendReply_eq_pins_pf0 (mbx : Bool) (body : List (List Byte)) (e : Option MonErr) (s : State) :
    ∃ v w, sendReply mbx body e s = { s with pins := v, pf0 := w } ∧ v.fifo = s.pins.fifo := by
  cases mbx
  all_goals
    unfold sendReply
    dsimp only [Bool.false_eq_true, if_false, if_true]
    split
    · exact ⟨_, _, rfl, rfl⟩
    · exact ⟨_, _, rfl, rfl⟩

/-- A reply into the mailbox. -/
theorem sendReply_mailbox (body : List (List Byte)) (e : Option MonErr) (s : State) : (sendReply true body e s).pf0 =
    { s.pf0 with
      mbxData := tabWrite 0 s.pf0.mbxData 0 (mailboxReply (replyLines body e))
      mbxLen := BitVec.ofNat 16 (mailboxReply (replyLines body e)).length } := by
  unfold sendReply
  dsimp only [if_true]
  split <;> rfl

/-- A line of the mailbox at the monitor. -/
def lineGiven (l : List Byte) (s : State) : State :=
  { mailboxRuns .monitor s with monitor := { s.monitor with lines := [(true, l)] } }

theorem exec_mailboxMonitor_of_free (h : s.pf0.mbxBusy = false) (hl : s.monitor.lines = []) (len : BitVec 16) :
    exec (.mailboxMonitor len) s = .next (monitorGoes (lineGiven (tabRead 0 s.pf0.mbxData 0 (min len.toNat 4096)) s)) := by
  change execMailboxMonitor len s = _
  rw [execMailboxMonitor, if_neg (Bool.eq_false_iff.1 h), startMailbox_of_free h, giveLine]
  simp only [mailboxRuns, hl, List.nil_append, lineGiven]

theorem turns_lineGiven (hf : s.pins.fifo = []) (l : List Byte) : turns (lineGiven l s) = 2 := by
  simp only [turns, lineGiven, mailboxRuns, hf, List.length_singleton, List.length_nil]

/-- The monitor's turn over the mailbox's line that names no command. -/
theorem monitorGoes_lineGiven_of_error {l : List Byte} {e : MonErr} (hf : s.pins.fifo = []) (he : parseLine l = .error e) :
    ∃ v, monitorGoes (lineGiven l s) = { mailboxRuns .monitor s with
      pins := v
      pf0 := { (mailboxRuns .monitor s).pf0 with
        mbxData := tabWrite 0 s.pf0.mbxData 0 (mailboxReply (replyLines [] (some e)))
        mbxLen := BitVec.ofNat 16 (mailboxReply (replyLines [] (some e))).length }
      monitor := { s.monitor with lines := [] } } := by
  obtain ⟨v, w, hreply, hfifo⟩ := sendReply_eq_pins_pf0 true [] (some e)
    { mailboxRuns .monitor s with monitor := { s.monitor with lines := [] } }
  have hpf0 := sendReply_mailbox [] (some e) { mailboxRuns .monitor s with monitor := { s.monitor with lines := [] } }
  rw [hreply] at hpf0
  dsimp only at hpf0
  refine ⟨v, ?_⟩
  rw [monitorGoes, turns_lineGiven hf, monitorTurn_of_error rfl he]
  refine (congrArg (monitorTurn 1) hreply).trans ?_
  rw [monitorTurn_of_idle rfl (hfifo.trans hf), hpf0]
  rfl

/-! ### Flash devices (R347, R385) -/

theorem tabGet_onFlash (d k : Fin 2) (f : Tab Byte → Tab Byte) (s : State) (a : Nat) :
    tabGet 0xFF (onFlash k f s).image.flash[d] a = if d = k then tabGet 0xFF (f s.image.flash[d]) a else tabGet 0xFF s.image.flash[d] a := by
  by_cases h : d = k
  · subst h
    rw [if_pos rfl, onFlash, Fin.getElem_fin, Vector.getElem_set_self]
  · rw [if_neg h, onFlash, Fin.getElem_fin, Vector.getElem_set_ne _ _ fun e => h (Fin.ext e).symm]
    rfl

/-- Erased cells read 0xFF, and no other cell changes. -/
theorem tabGet_flashErase (k d : Fin 2) (at_ n : Nat) (s : State) (a : Nat) : tabGet 0xFF (flashErase k at_ n s).image.flash[d] a =
    if d = k ∧ at_ ≤ a ∧ a < at_ + n then 0xFF else tabGet 0xFF s.image.flash[d] a := by
  rw [flashErase, tabGet_onFlash, tabGet_clear]
  simp only [ite_and]

/-- Programmed cells keep the ones that the bytes have too, and no other cell changes. -/
theorem tabGet_flashProgram {data : Tab Byte} {n : Nat} (hflash : tabWf 0xFF s.image.flash[k] = true) (hdata : tabWf 0 data = true)
    (d : Fin 2) (at_ a : Nat) : tabGet 0xFF (flashProgram k at_ (tabRead 0 data 0 n) s).image.flash[d] a =
    if d = k ∧ at_ ≤ a ∧ a < at_ + n then tabGet 0xFF s.image.flash[d] a &&& tabGet 0 data (a - at_)
    else tabGet 0xFF s.image.flash[d] a := by
  rw [flashProgram, tabGet_onFlash, tabRead_length]
  by_cases h : d = k
  · subst h
    rw [if_pos rfl, tabGet_write, tabRead_eq at_ n hflash, tabRead_eq 0 n hdata, List.length_zipWith, List.length_map, List.length_map,
      List.length_range, min_self]
    by_cases ha : at_ ≤ a ∧ a < at_ + n
    · obtain ⟨hle, hlt⟩ := ha
      have hin : a - at_ < n := by omega
      have hsum : at_ + (a - at_) = a := by omega
      rw [if_pos ⟨hle, hlt⟩, if_pos ⟨rfl, hle, hlt⟩]
      simp only [List.getElem?_zipWith, List.getElem?_map, List.getElem?_range hin, Option.map_some, Option.getD_some, hsum, zero_add]
    · rw [if_neg ha, if_neg fun h => ha h.2]
  · rw [if_neg h, if_neg fun hd => h hd.1]

theorem exec_imageErase_of_free (h : s.pf0.mbxBusy = false) : exec (.imageErase k) s = .next
    (if copyRefused s k then mailboxRuns (.erase k true) s else flashErase k 0 imageRange (mailboxRuns (.erase k false) s)) := by
  change execImageErase k s = _
  simp only [execImageErase, startMailbox_of_free h, h, Bool.false_or]
  cases copyRefused s k <;> rfl

/-- What an IMAGE_WRITE ends with, as it starts. -/
def writeResult (s : State) (k : Fin 2) (len : BitVec 16) : BitVec 4 :=
  if copyRefused s k then 1 else if imageWriteBad s.pf0.mbxArg.toNat len.toNat then 3 else 0

theorem exec_imageWrite_of_free (h : s.pf0.mbxBusy = false) (len : BitVec 16) : exec (.imageWrite k len) s = .next
    (let s1 := mailboxRuns (.write k s.pf0.mbxArg.toNat len.toNat (writeResult s k len)) s
    if writeResult s k len ≠ 0 then s1 else flashProgram k s.pf0.mbxArg.toNat (tabRead 0 s.pf0.mbxData 0 len.toNat) s1) := by
  change execImageWrite k len s = _
  simp only [execImageWrite, startMailbox_of_free h, h, Bool.false_or, decide_eq_true_eq]
  rfl

/-! ### The end of a command (R390) -/

/-- A command of the mailbox has ended: BUSY is clear, RESULT and the length stand, PF0's cause is set, and nothing but the image may
have changed beside. -/
structure MailboxEnded (s t : State) (result : BitVec 4) (len : Nat) : Prop where
  busy : t.pf0.mbxBusy = false
  op : t.pf0.mbxOp = .none
  result_eq : t.pf0.mbxResult = result
  len_eq : t.pf0.mbxLen = BitVec.ofNat 16 len
  cause : (t.func pf0Fn).cause.getLsbD 7 = true
  mem : t.mem = s.mem
  plots : t.plots = s.plots

theorem endMailbox_ended (result : BitVec 4) (len : Nat) (s : State) : MailboxEnded s (endMailbox result len s) result len := by
  have hview : ∀ {γ : Type} (g : State → γ), (∀ f h u, g (State.onFunc u f h) = g u) → g (endMailbox result len s) =
      g { s with pf0 := { s.pf0 with mbxBusy := false, mbxOp := .none, mbxResult := result, mbxLen := BitVec.ofNat 16 len } } :=
    fun g hg => raiseEvent_keeps_view (g := g) hg ..
  exact {
    busy := congrArg Pf0.mbxBusy (hview State.pf0 fun _ _ _ => rfl)
    op := congrArg Pf0.mbxOp (hview State.pf0 fun _ _ _ => rfl)
    result_eq := congrArg Pf0.mbxResult (hview State.pf0 fun _ _ _ => rfl)
    len_eq := congrArg Pf0.mbxLen (hview State.pf0 fun _ _ _ => rfl)
    cause := raiseEvent_cause (causesHeld_pf0 _) 7
    mem := hview State.mem fun _ _ _ => rfl
    plots := hview State.plots fun _ _ _ => rfl }

theorem endMailbox_image (result : BitVec 4) (len : Nat) (s : State) : (endMailbox result len s).image = s.image :=
  raiseEvent_keeps_view (g := State.image) (fun _ _ _ => by rfl) ..

end

/-- Settles O53: each command by its start above, and its end by the one law of how a command ends. The order of refusal and length and
the start of erase and program are entry 93 of the assumption log, the log entry of a command that finds BUSY entry 92. -/
theorem mailboxCommands : Obligations.MailboxCommands := by
  intro s
  refine ⟨fun k len hb c hc => exec_mailbox_of_busy hb len hc, fun hb => ⟨fun len hl hf => ?_, fun k => ⟨fun hr => ?_, fun hr => ?_, ?_⟩⟩,
    fun fe => ?_⟩
  · dsimp only
    refine ⟨fun c hc => ?_, fun e he => ?_⟩
    · rw [exec_mailboxMonitor_of_free hb hl, monitorGoes, monitorTurn_of_command rfl hc]
      rfl
    · obtain ⟨v, hgoes⟩ := monitorGoes_lineGiven_of_error hf he
      rw [exec_mailboxMonitor_of_free hb hl, hgoes]
      exact ⟨_, rfl, rfl, rfl, rfl, rfl, rfl⟩
  · have hw : ∀ len, writeResult s k len = 1 := fun len => by rw [writeResult, if_pos hr]
    refine ⟨by rw [exec_imageErase_of_free hb, if_pos hr]; rfl, fun len => ?_⟩
    rw [exec_imageWrite_of_free hb, hw]
    rfl
  · have hno : ¬ copyRefused s k = true := Bool.eq_false_iff.1 hr
    refine ⟨⟨_, exec_imageErase_of_free hb, ?_⟩, fun len => ?_⟩
    · rw [if_neg hno]
      refine ⟨rfl, rfl, fun d a => ?_⟩
      rw [tabGet_flashErase]
      simp only [Nat.zero_le, true_and, Nat.zero_add]
      rfl
    · dsimp only
      refine ⟨fun hbad => ?_, fun hgood hflash hdata => ?_⟩
      · have hw : writeResult s k len = 3 := by rw [writeResult, if_neg hno, if_pos hbad]
        rw [exec_imageWrite_of_free hb, hw]
        rfl
      · have hw : writeResult s k len = 0 := by rw [writeResult, if_neg hno, if_neg (Bool.eq_false_iff.1 hgood)]
        refine ⟨_, exec_imageWrite_of_free hb len, ?_⟩
        rw [hw]
        refine ⟨rfl, rfl, fun d a => ?_⟩
        exact tabGet_flashProgram (s := mailboxRuns _ s) hflash hdata d _ a
  · change execImageCheck k s = _
    rw [execImageCheck, startMailbox_of_free hb]
    rfl
  · dsimp only
    have hends : ∀ (u : State) (result : BitVec 4) (len : Nat) (sameFlash : Bool),
        exec (.mailboxComplete fe) s = .next (endMailbox result len u) → u.mem = s.mem → u.plots = s.plots →
        (sameFlash = true → u.image = s.image) → ∃ t, exec (.mailboxComplete fe) s = .next t ∧ t.pf0.mbxBusy = false ∧
          t.pf0.mbxOp = .none ∧ t.pf0.mbxResult = result ∧ t.pf0.mbxLen = BitVec.ofNat 16 len ∧
          (t.func pf0Fn).cause.getLsbD 7 = true ∧ t.mem = s.mem ∧ t.plots = s.plots ∧ (sameFlash = true → t.image = s.image) :=
      fun u result len _ hexec hmem hplots himage =>
        have h := endMailbox_ended result len u
        ⟨_, hexec, h.busy, h.op, h.result_eq, h.len_eq, h.cause, h.mem.trans hmem, h.plots.trans hplots,
          fun hs => (endMailbox_image ..).trans (himage hs)⟩
    have hexec : exec (.mailboxComplete fe) s = execMailboxComplete fe s := rfl
    refine ⟨fun ho => ?_, fun ho => ⟨fun hl => ?_, fun hl => ?_⟩, fun k refused ho => ⟨fun hr => ?_, fun hr => ?_⟩,
      fun k off len result ho => ⟨fun hr => ?_, fun hr => ?_⟩, fun k refused ho => ⟨fun hr => ?_, fun hr => ?_⟩⟩
    · simp only [hexec, execMailboxComplete, ho]
    · simp only [hexec, execMailboxComplete, ho, hl, if_true]
    · refine hends s _ _ _ ?_ rfl rfl fun _ => rfl
      simp only [hexec, execMailboxComplete, ho, hl, Bool.false_eq_true, if_false]
    · refine hends s _ _ _ ?_ rfl rfl fun _ => rfl
      simp only [hexec, execMailboxComplete, ho, hr, if_true]
    · cases fe with
      | true =>
        refine hends (flashUnknown k 0 imageRange s) _ _ _ ?_ rfl rfl fun h => Bool.noConfusion h
        simp only [hexec, execMailboxComplete, ho, hr, Bool.false_eq_true, if_false, if_true]
      | false =>
        refine hends s _ _ _ ?_ rfl rfl fun _ => rfl
        simp only [hexec, execMailboxComplete, ho, hr, Bool.false_eq_true, if_false]
    · refine hends s _ _ _ ?_ rfl rfl fun _ => rfl
      simp only [hexec, execMailboxComplete, ho, hr, ne_eq, not_false_eq_true, if_true]
    · cases fe with
      | true =>
        refine hends (flashUnknown k off len s) _ _ _ ?_ rfl rfl fun h => Bool.noConfusion h
        simp only [hexec, execMailboxComplete, ho, hr, ne_eq, not_true_eq_false, if_false, if_true]
      | false =>
        refine hends s _ _ _ ?_ rfl rfl fun _ => rfl
        simp only [hexec, execMailboxComplete, ho, hr, ne_eq, not_true_eq_false, Bool.false_eq_true, if_false]
    · refine hends s _ _ _ ?_ rfl rfl fun _ => rfl
      simp only [hexec, execMailboxComplete, ho, hr, if_true]
    · refine hends s _ _ _ ?_ rfl rfl fun _ => rfl
      simp only [hexec, execMailboxComplete, ho, hr, Bool.false_eq_true, if_false]

end Sys2Proof.Machine
end

section
/-! Fault windows and Trellis lanes (R473, R480). The kinds 4 and 5 with cause 7, the counts per whole second and the four redundant
lanes are entries 87 and 88 of the assumption log. -/

namespace Sys2Proof.Machine

open Host

section
variable {s : State} {link lane m_ l : Nat} {dir : Bool} {m : TrModule}

/-! ### Fault windows (R473) -/

/-- A day of the time counter has ended, and the next one began at `at_`. -/
def dayOver (at_ : DWord) (s : State) : State :=
  { s with
    alm := { s.alm with dayAt := at_ }
    plots := s.plots.map fun x => { x with win := { x.win with fault := 0 } }
    cis := s.cis.map fun x => { x with chans := x.chans.map fun k => { k with dayUe := 0 } } }

/-- An hour of the time counter has ended, and the next one began at `at_`. -/
def hourOver (at_ : DWord) (s : State) : State :=
  { s with
    alm := { s.alm with hourAt := at_ }
    plots := s.plots.map fun x => { x with win := { x.win with bankCe := [], mismatch := 0 } }
    cis := s.cis.map fun x => { x with chans := x.chans.map fun k => { k with hourCe := 0 } } }

theorem exec_faultWindowRollover_day : exec (.faultWindowRollover true) s = .next (if (s.time - s.alm.dayAt).toNat < 24 * hourNs then s
    else dayOver (s.alm.dayAt + BitVec.ofNat 64 (24 * hourNs)) s) := rfl

theorem exec_faultWindowRollover_hour : exec (.faultWindowRollover false) s = .next (if (s.time - s.alm.hourAt).toNat < hourNs then s
    else hourOver (s.alm.hourAt + BitVec.ofNat 64 hourNs) s) := rfl

/-- A vector's entry after a function on every entry, as `Vector.map` reads it. -/
theorem getElem_fin_map {α β : Type} {n : Nat} (v : Vector α n) (f : α → β) (i : Fin n) : (v.map f)[i] = f v[i] :=
  Vector.getElem_map ..

theorem dayOver_clears (at_ : DWord) (s : State) : (dayOver at_ s).mem = s.mem ∧ (dayOver at_ s).parts = s.parts ∧
    (dayOver at_ s).alm.dayAt = at_ ∧ (dayOver at_ s).alm.hourAt = s.alm.hourAt ∧
    (∀ p : PlotIx, (dayOver at_ s).plot p = { s.plot p with win := { (s.plot p).win with fault := 0 } }) ∧
    ∀ (c : CisIx) (k : Fin 64), ((dayOver at_ s).cistern c).chans[k] = { (s.cistern c).chans[k] with dayUe := 0 } := by
  refine ⟨rfl, rfl, rfl, rfl, fun p => getElem_fin_map .., fun c k => ?_⟩
  rw [State.cistern, dayOver, getElem_fin_map, getElem_fin_map, ← State.cistern]

theorem hourOver_clears (at_ : DWord) (s : State) : (hourOver at_ s).mem = s.mem ∧ (hourOver at_ s).parts = s.parts ∧
    (hourOver at_ s).alm.hourAt = at_ ∧ (hourOver at_ s).alm.dayAt = s.alm.dayAt ∧
    (∀ p : PlotIx, (hourOver at_ s).plot p = { s.plot p with win := { (s.plot p).win with bankCe := [], mismatch := 0 } }) ∧
    ∀ (c : CisIx) (k : Fin 64), ((hourOver at_ s).cistern c).chans[k] = { (s.cistern c).chans[k] with hourCe := 0 } := by
  refine ⟨rfl, rfl, rfl, rfl, fun p => getElem_fin_map .., fun c k => ?_⟩
  rw [State.cistern, hourOver, getElem_fin_map, getElem_fin_map, ← State.cistern]

/-! ### Failed flits (R480) -/

theorem laneDue_eq_trellis (link code : Nat) (s : State) :
    ∃ d, laneDue link code s = { s with trellis := { s.trellis with due := d } } ∧
      (∀ e ∈ s.trellis.due, e ∈ d) ∧ (link, code) ∈ d := by
  unfold laneDue
  split
  · next h => exact ⟨s.trellis.due, rfl, fun _ he => he, List.contains_iff_mem.1 h⟩
  · exact ⟨_, rfl, fun _ he => List.mem_append_left _ he, List.mem_append_right _ (List.mem_singleton_self _)⟩

theorem laneCount_countLane (link code : Nat) (s : State) : laneCount (countLane link code s) link code =
    (if s.trellis.sec = s.time.toNat / 1000000000 then laneCount s link code else 0) + 1 := by
  simp only [laneCount, countLane, List.find?_cons, decide_true, Bool.and_self]
  split <;> rfl

/-- The replays of the flit in progress on a link. -/
def replaysOf (s : State) (link : Nat) : Nat := ((s.trellis.flits.find? fun e => e.1 = link).map (·.2.1)).getD 0

/-- The flit in progress after one more failure on a lane. -/
def flitNow (s : State) (link lane : Nat) (again : Bool) : Nat × Nat × List Nat :=
  let old := (s.trellis.flits.find? fun e => e.1 = link).getD (link, 0, [])
  if again then (link, old.2.1 + 1, old.2.2 ++ [lane]) else (link, 0, [lane])

theorem flitNow_again : flitNow s link lane true = (link, replaysOf s link + 1, (flitNow s link lane true).2.2) := by
  simp only [flitNow, replaysOf, if_true]
  cases s.trellis.flits.find? fun e => e.1 = link <;> rfl

/-- The flits in progress after one more failure: a flit whose replays are used up is given up. -/
def flitsNow (s : State) (link lane : Nat) (again : Bool) : List (Nat × Nat × List Nat) :=
  let rest := s.trellis.flits.filter fun e => e.1 ≠ link
  if s.dev.fault.trReplay ≤ (flitNow s link lane again).2.1 then rest else flitNow s link lane again :: rest

/-- A failure counted, and its flit noted. -/
def flitCounted (s : State) (link lane : Nat) (again : Bool) : State :=
  let s1 := countLane link lane s
  { s1 with trellis := { s1.trellis with flits := flitsNow s link lane again } }

theorem laneCount_flitCounted (again : Bool) : laneCount (flitCounted s link lane again) link lane =
    (if s.trellis.sec = s.time.toNat / 1000000000 then laneCount s link lane else 0) + 1 :=
  laneCount_countLane link lane s

/-- The lanes found faulty by a failure: one with TR_LANE_SEC failures in its second, and the worst one of a flit given up. -/
def lanesFound (s : State) (link lane : Nat) (again : Bool) : State :=
  let s2 := flitCounted s link lane again
  let s3 := if s.dev.fault.trLaneSec ≤ laneCount s2 link lane then laneDue link lane s2 else s2
  if s.dev.fault.trReplay ≤ (flitNow s link lane again).2.1 then laneDue link (worstLane (flitNow s link lane again).2.2) s3 else s3

theorem exec_flitReplay (again : Bool) : exec (.flitReplay link lane again) s =
    .next (if 53 ≤ link || s.trellis.lost.contains link then s else lanesFound s link lane again) := rfl

theorem lanesFound_eq_trellis (s : State) (link lane : Nat) (again : Bool) :
    ∃ d, lanesFound s link lane again = { flitCounted s link lane again with
        trellis := { (flitCounted s link lane again).trellis with due := d } } ∧
      (∀ e ∈ s.trellis.due, e ∈ d) ∧
      (s.dev.fault.trLaneSec ≤ laneCount (flitCounted s link lane again) link lane → (link, lane) ∈ d) ∧
      (s.dev.fault.trReplay ≤ (flitNow s link lane again).2.1 → ∃ l, (link, l) ∈ d) ∧
      (laneCount (flitCounted s link lane again) link lane < s.dev.fault.trLaneSec →
        (flitNow s link lane again).2.1 < s.dev.fault.trReplay → d = s.trellis.due) := by
  obtain ⟨d, hd, hold, hmem⟩ := laneDue_eq_trellis link lane (flitCounted s link lane again)
  unfold lanesFound
  dsimp only
  by_cases hsec : s.dev.fault.trLaneSec ≤ laneCount (flitCounted s link lane again) link lane
  · rw [if_pos hsec, hd]
    split
    · next hspent =>
      obtain ⟨e, he, hold', hmem'⟩ := laneDue_eq_trellis link (worstLane (flitNow s link lane again).2.2)
        { flitCounted s link lane again with trellis := { (flitCounted s link lane again).trellis with due := d } }
      exact ⟨e, he, fun x hx => hold' _ (hold _ hx), fun _ => hold' _ hmem, fun _ => ⟨_, hmem'⟩,
        fun h => absurd hsec (not_le.2 h)⟩
    · next hspent => exact ⟨d, rfl, hold, fun _ => hmem, fun h => absurd h hspent, fun h => absurd hsec (not_le.2 h)⟩
  · rw [if_neg hsec]
    split
    · next hspent =>
      obtain ⟨e, he, hold', hmem'⟩ :=
        laneDue_eq_trellis link (worstLane (flitNow s link lane again).2.2) (flitCounted s link lane again)
      exact ⟨e, he, hold', fun h => absurd h hsec, fun _ => ⟨_, hmem'⟩, fun _ h => absurd hspent (not_le.2 h)⟩
    · next hspent => exact ⟨s.trellis.due, rfl, fun _ h => h, fun h => absurd h hsec, fun h => absurd h hspent, fun _ _ => rfl⟩

theorem exec_flitReplay_of_kept (again : Bool) (hlink : link < 53) (hlost : s.trellis.lost.contains link = false) :
    exec (.flitReplay link lane again) s = .next (lanesFound s link lane again) := by
  rw [exec_flitReplay, hlost, Bool.or_false, if_neg (by simpa using hlink)]

theorem flitReplay_counts (again : Bool) (hlink : link < 53) (hlost : s.trellis.lost.contains link = false) :
    let before := if s.trellis.sec = s.time.toNat / 1000000000 then laneCount s link lane else 0
    ∃ t, exec (.flitReplay link lane again) s = .next t ∧ t.mem = s.mem ∧ t.plots = s.plots ∧ t.image = s.image ∧
      t.trellis.sec = s.time.toNat / 1000000000 ∧ laneCount t link lane = before + 1 ∧ t.trellis.modules = s.trellis.modules ∧
      t.trellis.lost = s.trellis.lost ∧ (∀ e ∈ s.trellis.due, e ∈ t.trellis.due) ∧
      (s.dev.fault.trLaneSec ≤ before + 1 → (link, lane) ∈ t.trellis.due) ∧
      (again = true → s.dev.fault.trReplay ≤ replaysOf s link + 1 →
        (∀ e ∈ t.trellis.flits, e.1 ≠ link) ∧ ∃ l, (link, l) ∈ t.trellis.due) ∧
      (again = true → replaysOf s link + 1 < s.dev.fault.trReplay → ∃ ls, (link, replaysOf s link + 1, ls) ∈ t.trellis.flits) ∧
      (again = false → 0 < s.dev.fault.trReplay → before + 1 < s.dev.fault.trLaneSec →
        (link, 0, [lane]) ∈ t.trellis.flits ∧ t.trellis.due = s.trellis.due) := by
  dsimp only
  obtain ⟨d, heq, hold, hsec, hspent, hnone⟩ := lanesFound_eq_trellis s link lane again
  rw [laneCount_flitCounted] at hsec hnone
  have hexec := (exec_flitReplay_of_kept (lane := lane) again hlink hlost).trans (congrArg Outcome.next heq)
  refine ⟨_, hexec, rfl, rfl, rfl, rfl, laneCount_flitCounted again, rfl, rfl, hold, hsec, fun ha hr => ?_, fun ha hr => ?_,
    fun ha hr hb => ?_⟩
  · subst ha
    rw [flitNow_again] at hspent
    refine ⟨fun e he => ?_, hspent hr⟩
    have he : e ∈ flitsNow s link lane true := he
    rw [flitsNow, flitNow_again, if_pos hr] at he
    exact of_decide_eq_true (List.mem_filter.1 he).2
  · subst ha
    refine ⟨(flitNow s link lane true).2.2, ?_⟩
    change _ ∈ flitsNow s link lane true
    rw [flitsNow, flitNow_again, if_neg (not_le.2 hr)]
    exact List.mem_cons_self
  · subst ha
    refine ⟨?_, hnone hb hr⟩
    change _ ∈ flitsNow s link lane false
    rw [flitsNow, if_neg (show ¬ s.dev.fault.trReplay ≤ (flitNow s link lane false).2.1 from not_le.2 hr)]
    exact List.mem_cons_self

/-! ### Faulty lanes of a module (R480) -/

/-- A lane's sub-index names its direction and its module. -/
theorem moduleOf_setModule (hlane : lane < 64) (hm : m_ < 4) (h : m.link = link ∧ m.dir = dir ∧ m.index = m_) (s : State) :
    moduleOf (setModule m s) link (laneCodeOf dir m_ lane) = m := by
  obtain ⟨rfl, rfl, rfl⟩ := h
  have hdir : decide (32768 ≤ laneCodeOf m.dir m.index lane) = m.dir := by
    cases hd : m.dir <;> simp [laneCodeOf] <;> omega
  have hix : laneCodeOf m.dir m.index lane % 32768 / 128 = m.index := by
    cases hd : m.dir <;> simp [laneCodeOf] <;> omega
  simp only [moduleOf, setModule, hdir, hix, List.find?_cons, beq_self_eq_true, Bool.and_self]
  rfl

theorem trPrune_keeps_view {γ : Type} {g : State → γ} (hfunc : ∀ f h u, g (State.onFunc u f h) = g u) (kind link sub count : Nat)
    (s : State) : g (trPrune kind link sub count s) = g (queueLog 1 11 (prunePayload kind link sub 7 count
      (tabGet 0 s.trellis.returns (kind + link * 2 ^ 8 + sub * 2 ^ 24))) s) :=
  (foldl_keeps g (fun _ _ => raiseEvent_keeps_view hfunc ..) _ _).trans (recordPrune_keeps_view hfunc ..)

/-- A waiting lane taken from the list of those that wait. -/
def laneTaken (s : State) (link code : Nat) : State :=
  { s with trellis := { s.trellis with due := s.trellis.due.filter (· ≠ (link, code)) } }

theorem exec_trellisLaneFault : exec (.trellisLaneFault link dir m_ lane) s =
    .next (if holdActive s || !s.trellis.due.contains (link, laneCodeOf dir m_ lane) then s
      else if s.trellis.lost.contains link || (moduleOf s link (laneCodeOf dir m_ lane)).faults.contains lane || 64 ≤ lane || 4 ≤ m_
      then laneTaken s link (laneCodeOf dir m_ lane)
      else laneFails (moduleOf s link (laneCodeOf dir m_ lane)) lane (laneCount s link (laneCodeOf dir m_ lane))
        (laneTaken s link (laneCodeOf dir m_ lane))) := rfl

theorem exec_trellisLaneFault_of_waits (hh : holdActive s = false) (hw : (link, laneCodeOf dir m_ lane) ∈ s.trellis.due) :
    exec (.trellisLaneFault link dir m_ lane) s =
      .next (if s.trellis.lost.contains link || (moduleOf s link (laneCodeOf dir m_ lane)).faults.contains lane || 64 ≤ lane || 4 ≤ m_
        then laneTaken s link (laneCodeOf dir m_ lane)
        else laneFails (moduleOf s link (laneCodeOf dir m_ lane)) lane (laneCount s link (laneCodeOf dir m_ lane))
          (laneTaken s link (laneCodeOf dir m_ lane))) := by
  rw [exec_trellisLaneFault, hh, List.contains_iff_mem.2 hw]
  rfl

/-- What a faulty lane leaves when it is acted on: its module changed, and a record of the kind. -/
structure LaneActed (s t : State) (link code kind sub n : Nat) (m : TrModule) : Prop where
  mem : t.mem = s.mem
  plots : t.plots = s.plots
  module_ : moduleOf t link code = m
  due : (link, code) ∉ t.trellis.due
  log : t.image.pendingLog = s.image.pendingLog ++
    [logRecord s 1 11 (prunePayload kind link sub 7 n (tabGet 0 s.trellis.returns (kind + link * 2 ^ 8 + sub * 2 ^ 24)))]

theorem LaneActed.ends {t : State} {code kind sub n : Nat} {c : Instr} (h : LaneActed s t link code kind sub n m)
    (hexec : exec c s = .next t) : ∃ t, exec c s = .next t ∧ t.mem = s.mem ∧ t.plots = s.plots ∧ moduleOf t link code = m ∧
      (link, code) ∉ t.trellis.due ∧ t.image.pendingLog = s.image.pendingLog ++
        [logRecord s 1 11 (prunePayload kind link sub 7 n (tabGet 0 s.trellis.returns (kind + link * 2 ^ 8 + sub * 2 ^ 24)))] :=
  ⟨t, hexec, h.mem, h.plots, h.module_, h.due, h.log⟩

theorem laneActed_trPrune (hlane : lane < 64) (hm : m_ < 4) (h : m.link = link ∧ m.dir = dir ∧ m.index = m_) (kind sub n : Nat)
    (s : State) : LaneActed s (trPrune kind link sub n (setModule m (laneTaken s link (laneCodeOf dir m_ lane)))) link
      (laneCodeOf dir m_ lane) kind sub n m := by
  have htr : (trPrune kind link sub n (setModule m (laneTaken s link (laneCodeOf dir m_ lane)))).trellis =
    (setModule m (laneTaken s link (laneCodeOf dir m_ lane))).trellis := trPrune_keeps_view (g := State.trellis) (fun _ _ _ => rfl) ..
  exact {
    mem := (trPrune_keeps_view (g := State.mem) (fun _ _ _ => rfl) ..).trans rfl
    plots := (trPrune_keeps_view (g := State.plots) (fun _ _ _ => rfl) ..).trans rfl
    module_ := by
      rw [moduleOf, htr, ← moduleOf]
      exact moduleOf_setModule hlane hm h _
    due := by
      rw [htr]
      exact fun hin => absurd rfl (of_decide_eq_true (List.mem_filter.1 hin).2)
    log := (trPrune_keeps_view (g := (·.image.pendingLog)) (fun _ _ _ => rfl) ..).trans rfl }

/-- A link between beds that is lost changes nothing beyond the list of those lost. -/
theorem linkLost_of_between {k : Nat} (h : 32 ≤ k) (h' : k < 48) (u : State) :
    linkLost k u = { u with trellis := { u.trellis with lost := u.trellis.lost ++ [k] } } := by
  rw [linkLost, if_neg (not_lt.2 h), if_pos h']

theorem laneFails_repairs (n : Nat) (hw : m.width = 64) (hf : m.faults.length < 4) (u : State) : laneFails m lane n u =
    trPrune 4 m.link (laneCodeOf m.dir m.index lane) n (setModule { m with faults := m.faults ++ [lane] } u) := by
  have hcode : laneCodeOf m.dir m.index 0 + lane = laneCodeOf m.dir m.index lane := by simp only [laneCodeOf, add_zero]
  have hle : (m.faults ++ [lane]).length ≤ spareLanes := by simpa [spareLanes] using hf
  simp only [laneFails, hw, if_true, hle, hcode]

theorem laneFails_halves (n : Nat) (hw : m.width = 64) (hf : 4 ≤ m.faults.length) (u : State) : laneFails m lane n u =
    trPrune 5 m.link (laneCodeOf m.dir m.index 0) n
      (setModule { m with faults := m.faults ++ [lane], width := 32, upper := lane < 32 } u) := by
  have hle : ¬ (m.faults ++ [lane]).length ≤ spareLanes := by simpa [spareLanes] using hf
  simp only [laneFails, hw, if_true, if_neg hle]

/-- A faulty lane of the half in use switches the module off, and the last module off loses the link. -/
theorem laneFails_switches_off (n : Nat) (hw : m.width = 32) (hu : decide (32 ≤ lane) = m.upper) (u : State) :
    laneFails m lane n u =
      (fun s1 => if (List.range 4).all fun i => (moduleOf s1 m.link (laneCodeOf m.dir i 0)).width = 0 then linkLost m.link s1 else s1)
        (trPrune 5 m.link (laneCodeOf m.dir m.index 0) n (setModule { m with faults := m.faults ++ [lane], width := 0 } u)) := by
  simp only [laneFails, hw, hu, Bool.and_self, decide_true, if_true]
  rfl

theorem trellisLane_of_waits (hh : holdActive s = false) (hw : (link, laneCodeOf dir m_ lane) ∈ s.trellis.due) (hlane : lane < 64)
    (hm : m_ < 4) (hlost : s.trellis.lost.contains link = false)
    (hfaults : (moduleOf s link (laneCodeOf dir m_ lane)).faults.contains lane = false) :
    exec (.trellisLaneFault link dir m_ lane) s =
      .next (laneFails (moduleOf s link (laneCodeOf dir m_ lane)) lane (laneCount s link (laneCodeOf dir m_ lane))
        (laneTaken s link (laneCodeOf dir m_ lane))) := by
  rw [exec_trellisLaneFault_of_waits hh hw, hlost, hfaults, decide_eq_false (not_le.2 hlane), decide_eq_false (not_le.2 hm)]
  rfl

theorem laneActed_laneFails (hlane : lane < 64) (hm : m_ < 4) (h : m.link = link ∧ m.dir = dir ∧ m.index = m_) (n : Nat)
    (s : State) :
    let t := laneFails m lane n (laneTaken s link (laneCodeOf dir m_ lane))
    let acted (kind sub width : Nat) (upper : Bool) : Prop := LaneActed s t link (laneCodeOf dir m_ lane) kind sub n
      { m with faults := m.faults ++ [lane], width := width, upper := upper }
    (m.width = 64 → m.faults.length < 4 → acted 4 (laneCodeOf dir m_ lane) 64 m.upper) ∧
      (m.width = 64 → 4 ≤ m.faults.length → acted 5 (laneCodeOf dir m_ 0) 32 (decide (lane < 32))) ∧
      (m.width = 32 → decide (32 ≤ lane) = m.upper → 32 ≤ link → link < 48 → acted 5 (laneCodeOf dir m_ 0) 0 m.upper) := by
  dsimp only
  obtain ⟨rfl, rfl, rfl⟩ := h
  refine ⟨fun hw hf => ?_, fun hw hf => ?_, fun hw hu hlo hhi => ?_⟩
  · rw [laneFails_repairs n hw hf, ← hw]
    exact laneActed_trPrune (m := { m with faults := m.faults ++ [lane] }) hlane hm ⟨rfl, rfl, rfl⟩ ..
  · rw [laneFails_halves n hw hf]
    exact laneActed_trPrune (m := { m with faults := m.faults ++ [lane], width := 32, upper := lane < 32 }) hlane hm
      ⟨rfl, rfl, rfl⟩ ..
  · have hact := laneActed_trPrune (m := { m with faults := m.faults ++ [lane], width := 0 }) hlane hm ⟨rfl, rfl, rfl⟩ 5
      (laneCodeOf m.dir m.index 0) n s
    rw [laneFails_switches_off n hw hu]
    dsimp only
    split
    · obtain ⟨hmem, hplots, hmodule, hdue, hlog⟩ := hact
      rw [linkLost_of_between hlo hhi]
      exact ⟨hmem, hplots, hmodule, hdue, hlog⟩
    · exact hact

end

/-- Settles O60: the windows' rollovers, the failures of a flit, and what a waiting lane does to its module. The kinds 4 and 5 with
cause 7 and the counts per whole second are entry 88 of the assumption log, the four redundant lanes entry 87. -/
theorem windowsAndTrellis : Obligations.WindowsAndTrellis := by
  refine ⟨fun s => ⟨fun h => ⟨_, ?_, dayOver_clears ..⟩, fun h => ?_, fun h => ⟨_, ?_, hourOver_clears ..⟩, fun h => ?_⟩,
    fun s link lane again => ⟨fun h => ?_, fun h hl => ?_⟩, fun s link dir m_ lane => ?_⟩
  · rw [exec_faultWindowRollover_day, hourNs, if_neg (not_lt.2 h)]
  · rw [exec_faultWindowRollover_day, hourNs, if_pos h]
  · rw [exec_faultWindowRollover_hour, hourNs, if_neg (not_lt.2 h)]
  · rw [exec_faultWindowRollover_hour, hourNs, if_pos h]
  · rw [exec_flitReplay, if_pos (by simpa using h)]
  · exact flitReplay_counts (lane := lane) again h hl
  · have hbase : laneCodeOf dir m_ lane - lane = laneCodeOf dir m_ 0 := by simp only [laneCodeOf]; omega
    have hcode : dir.toNat * 32768 + 128 * m_ + lane = laneCodeOf dir m_ lane := rfl
    dsimp only
    rw [hcode, hbase]
    refine ⟨fun h => ?_, fun hh hw hlane hm => ⟨fun h => ?_, fun hlost hfaults hlink hdir hindex => ?_⟩⟩
    · rw [exec_trellisLaneFault, if_pos (by simpa using h)]
    · rw [exec_trellisLaneFault_of_waits hh hw, if_pos (by rw [Bool.or_assoc, Bool.or_eq_true, Bool.or_eq_true]; simp_all)]
      rfl
    · have hexec := trellisLane_of_waits hh hw hlane hm hlost hfaults
      obtain ⟨hrepair, hhalve, hoff⟩ :=
        laneActed_laneFails hlane hm ⟨hlink, hdir, hindex⟩ (laneCount s link (laneCodeOf dir m_ lane)) s
      exact ⟨fun hw hf => (hrepair hw hf).ends hexec, fun hw hf => (hhalve hw hf).ends hexec,
        fun hw hu hlo hhi => (hoff hw hu hlo hhi).ends hexec⟩

end Sys2Proof.Machine
end

section
/-! Rules of the fabric: what a header says, what a change of a flow or a port leaves, and when the traffic of a partition is over
(R391 to R395, R414). -/

namespace Sys2Proof.Machine

open Host

/-! ### Headers (R392) -/

theorem crcByte_lt {c b : Nat} (hc : c < 2 ^ 32) (hb : b < 2 ^ 32) : crcByte c b < 2 ^ 32 := by
  have hfold : ∀ (l : List Nat) c, c < 2 ^ 32 →
      l.foldl (fun c _ => if c % 2 == 1 then (c / 2) ^^^ 0x82F63B78 else c / 2) c < 2 ^ 32 := fun l => by
    induction l with
    | nil => exact fun _ h => h
    | cons a l ih =>
      intro c hc
      rw [List.foldl_cons]
      refine ih _ ?_
      split
      · exact Nat.xor_lt_two_pow (by omega) (by decide)
      · omega
  exact hfold _ _ (Nat.xor_lt_two_pow hc hb)

theorem crc32c_lt (l : List Byte) : crc32c l < 2 ^ 32 := by
  have hfold : ∀ c, c < 2 ^ 32 → l.foldl (fun c b => crcByte c b.toNat) c < 2 ^ 32 := by
    induction l with
    | nil => exact fun _ h => h
    | cons a l ih => exact fun c hc => ih _ (crcByte_lt hc (a.isLt.trans (by decide)))
  exact Nat.xor_lt_two_pow (hfold _ (by decide)) (by decide)

/-- The fields of a header have their widths. -/
structure HdrFits (h : Hdr) (payload : List Byte) : Prop where
  ty : h.ty < 16
  srcPart : h.srcPart < 16
  dstPart : h.dstPart < 16
  length : payload.length < 65536

section
variable {h : Hdr} {payload : List Byte} {s : State} {p : PortIx} {d : BitVec 12}

/-- A header of this device's own with no payload, and any AUX. -/
theorem hdrFits_ownHdr {ty : Nat} {lc : Bool} (hty : ty < 16) (aux : Word) : HdrFits { ownHdr s ty d lc with aux := aux } [] :=
  ⟨hty, Nat.zero_lt_succ _, Nat.zero_lt_succ _, Nat.zero_lt_succ _⟩

/-- The low quarter of a header: TYPE and the flags, the two ends, and PSN. -/
def headerLow (h : Hdr) : Nat :=
  1 + h.ty * 2 ^ 4 + h.last.toNat * 2 ^ 8 + h.lc.toNat * 2 ^ 9 + h.restart.toNat * 2 ^ 10 + h.hold.toNat * 2 ^ 11 +
    h.srcDev.toNat * 2 ^ 16 + h.srcPart * 2 ^ 28 + h.dstDev.toNat * 2 ^ 32 + h.dstPart * 2 ^ 44 + h.psn.toNat * 2 ^ 64

theorem headerLow_lt (hf : HdrFits h payload) : headerLow h < 2 ^ 96 := by
  obtain ⟨hty, hsp, hdp, -⟩ := hf
  have := h.last.toNat_lt; have := h.lc.toNat_lt; have := h.restart.toNat_lt; have := h.hold.toNat_lt
  have := h.srcDev.isLt; have := h.dstDev.isLt; have := h.psn.isLt
  unfold headerLow
  omega

theorem headerLow_fields (hf : HdrFits h payload) : headerLow h / 2 ^ 4 % 2 ^ 4 = h.ty ∧ headerLow h / 2 ^ 8 % 2 = h.last.toNat ∧
    headerLow h / 2 ^ 11 % 2 = h.hold.toNat := by
  obtain ⟨hty, -, -, -⟩ := hf
  have := h.last.toNat_lt; have := h.lc.toNat_lt; have := h.restart.toNat_lt; have := h.hold.toNat_lt
  unfold headerLow
  refine ⟨?_, ?_, ?_⟩ <;> omega

theorem mkHeader_toNat (hf : HdrFits h payload) : (mkHeader h payload).toNat = headerLow h + h.dstEpoch.toNat * 2 ^ 96 +
    h.xfer.toNat * 2 ^ 128 + payload.length * 2 ^ 160 + h.addr.toNat * 2 ^ 192 + crc32c payload * 2 ^ 256 + h.aux.toNat * 2 ^ 288 := by
  have hlow := headerLow_lt hf
  have := h.dstEpoch.isLt; have := h.xfer.isLt; have := hf.length; have := h.addr.isLt; have := crc32c_lt payload
  have := h.aux.isLt
  rw [mkHeader, BitVec.toNat_ofNat, Nat.mod_eq_of_lt, headerLow]
  rw [headerLow] at hlow
  omega

theorem fTy_ownFrame (hf : HdrFits h payload) : fTy (ownFrame s p d h payload) = h.ty := by
  obtain ⟨hty, -, -⟩ := headerLow_fields hf
  rw [fTy, fld, bitsOf, ownFrame, mkHeader_toNat hf, Nat.shiftRight_eq_div_pow]
  have := headerLow_lt hf
  omega

theorem flag_eq {n : Nat} (d : BitVec n) (off bit : Nat) : flag d off bit = (d.toNat / 2 ^ (8 * off + bit) % 2 == 1) := by
  simp only [flag, fld, bitsOf, Nat.shiftRight_eq_div_pow, Nat.sub_self, Nat.zero_add, Nat.pow_one]

theorem toNat_beq_one (b : Bool) : (b.toNat == 1) = b := by cases b <;> rfl

theorem fLast_ownFrame (hf : HdrFits h payload) : fLast (ownFrame s p d h payload) = h.last := by
  obtain ⟨-, hlast, -⟩ := headerLow_fields hf
  have hbit : (mkHeader h payload).toNat / 2 ^ 8 % 2 = h.last.toNat := by
    rw [mkHeader_toNat hf]
    omega
  rw [fLast, flag_eq, ← toNat_beq_one h.last]
  exact congrArg (· == 1) hbit

theorem fHold_ownFrame (hf : HdrFits h payload) : fHold (ownFrame s p d h payload) = h.hold := by
  obtain ⟨-, -, hhold⟩ := headerLow_fields hf
  have hbit : (mkHeader h payload).toNat / 2 ^ 11 % 2 = h.hold.toNat := by
    rw [mkHeader_toNat hf]
    omega
  rw [fHold, flag_eq, ← toNat_beq_one h.hold]
  exact congrArg (· == 1) hbit

theorem fAddr_ownFrame (hf : HdrFits h payload) : fAddr (ownFrame s p d h payload) = h.addr := by
  refine BitVec.eq_of_toNat_eq ?_
  rw [fAddr, BitVec.toNat_ofNat, fld, bitsOf, ownFrame, mkHeader_toNat hf, Nat.shiftRight_eq_div_pow]
  have := headerLow_lt hf
  have := h.dstEpoch.isLt; have := h.xfer.isLt; have := hf.length; have := h.addr.isLt
  omega

theorem fXfer_ownFrame (hf : HdrFits h payload) : fXfer (ownFrame s p d h payload) = h.xfer := by
  refine BitVec.eq_of_toNat_eq ?_
  rw [fXfer, BitVec.toNat_ofNat, fld, bitsOf, ownFrame, mkHeader_toNat hf, Nat.shiftRight_eq_div_pow]
  have := headerLow_lt hf
  have := h.dstEpoch.isLt; have := h.xfer.isLt
  omega

theorem fAux_ownFrame (hf : HdrFits h payload) : fAux (ownFrame s p d h payload) = h.aux := by
  refine BitVec.eq_of_toNat_eq ?_
  rw [fAux, BitVec.toNat_ofNat, fld, bitsOf, ownFrame, mkHeader_toNat hf, Nat.shiftRight_eq_div_pow]
  have := headerLow_lt hf
  have := h.dstEpoch.isLt; have := h.xfer.isLt; have := hf.length; have := h.addr.isLt; have := crc32c_lt payload
  have := h.aux.isLt
  omega

end

/-! ### Ports (R397) -/

section
variable {p : PortIx} {s : State}

theorem onPort_ports (p : PortIx) (f : Port → Port) (s : State) : (onPort p f s).bvl.ports = s.bvl.ports.set p.val (f s.bvl.ports[p]) p.isLt := rfl

theorem onPort_congr {f g : Port → Port} (h : f s.bvl.ports[p] = g s.bvl.ports[p]) : onPort p f s = onPort p g s := by
  unfold onPort
  rw [h]

theorem onPort_port_self (p : PortIx) (f : Port → Port) (s : State) : (onPort p f s).bvl.ports[p] = f s.bvl.ports[p] :=
  Vector.getElem_set_self p.isLt

/-- A change of a port that leaves the state of its training leaves which ports are up. -/
theorem portUp_onPort {f : Port → Port} (hf : (f s.bvl.ports[p]).state = s.bvl.ports[p].state) (k : PortIx) :
    portUp (onPort p f s) k = portUp s k := by
  have hstate : ((onPort p f s).bvl.ports[k]).state = (s.bvl.ports[k]).state := by
    by_cases hk : k = p
    · rw [hk, onPort_port_self, hf]
    · exact congrArg Port.state (Vector.getElem_set_ne p.isLt k.isLt fun h => hk (Fin.ext h.symm))
  rw [portUp, portUp, hstate]

end

/-! ### Flows (R395) -/

section
variable {s : State} {p n : PortIx} {d : BitVec 12} {lc : Bool} {psn : Word} {g : Flow → Flow} {x : Flow}

theorem isFlow_self (p : PortIx) (d : BitVec 12) (lc : Bool) (psn : Word) : isFlow p d lc (newFlow p d lc psn) = true := by
  simp only [isFlow, newFlow, beq_self_eq_true, Bool.and_self]

/-- A search by a predicate that a change of the entries found keeps. -/
theorem find?_updateWhere_of_keeps {α : Type} {P : α → Bool} {f : α → α} (hf : ∀ x, P x = true → P (f x) = true) (l : List α) :
    (updateWhere P f l).find? P = (l.find? P).map f := by
  induction l with
  | nil => rfl
  | cons a l ih =>
    cases ha : P a
    · rw [updateWhere, List.map_cons, List.find?_cons_of_neg (by simp [ha]), List.find?_cons_of_neg (by simp [ha])]
      exact ih
    · rw [updateWhere, List.map_cons, List.find?_cons_of_pos ha, List.find?_cons_of_pos (by rw [if_pos ha, hf a ha]), if_pos ha]
      rfl

/-- A search that never finds an entry changed. -/
theorem find?_updateWhere_of_disjoint {α : Type} {P R : α → Bool} {f : α → α} (hP : ∀ x, P x = true → R x = false)
    (hR : ∀ x, P x = true → R (f x) = false) (l : List α) : (updateWhere P f l).find? R = l.find? R := by
  induction l with
  | nil => rfl
  | cons a l ih =>
    have ih : (l.map fun x => if P x then f x else x).find? R = l.find? R := ih
    cases ha : P a
    · rw [updateWhere, List.map_cons, List.find?_cons, List.find?_cons, ih, if_neg (by simp [ha])]
    · rw [updateWhere, List.map_cons, List.find?_cons, List.find?_cons, ih, if_pos ha, hP a ha, hR a ha]

theorem isFlow_of_eq {x y : Flow} (h : y.port = x.port ∧ y.dev = x.dev ∧ y.lc = x.lc) : isFlow p d lc y = isFlow p d lc x := by
  obtain ⟨hp, hd, hl⟩ := h
  rw [isFlow, isFlow, hp, hd, hl]

/-- A change of a flow leaves what names it. -/
def KeepsName (g : Flow → Flow) : Prop := ∀ x, (g x).port = x.port ∧ (g x).dev = x.dev ∧ (g x).lc = x.lc

theorem flowOf_onFlow_self (hg : KeepsName g) :
    flowOf (onFlow p d lc psn g s) p d lc = some (g ((flowOf s p d lc).getD (newFlow p d lc psn))) := by
  have hkeep : ∀ x, isFlow p d lc x = true → isFlow p d lc (g x) = true := fun x hx => (isFlow_of_eq (hg x)).trans hx
  unfold flowOf onFlow
  dsimp only
  split
  · next h =>
    obtain ⟨y, hy⟩ := Option.isSome_iff_exists.1 (List.find?_isSome.2 (List.any_eq_true.1 h))
    rw [find?_updateWhere_of_keeps hkeep, hy]
    rfl
  · next h =>
    have hnone : s.bvl.flows.find? (isFlow p d lc) = none := List.find?_eq_none.2 fun y hy hf => h (List.any_eq_true.2 ⟨y, hy, hf⟩)
    rw [List.find?_append, hnone, Option.none_or, List.find?_cons_of_pos (hkeep _ (isFlow_self ..))]
    rfl

theorem flowOf_onFlow_of_some (hg : KeepsName g) (h : flowOf s p d lc = some x) :
    flowOf (onFlow p d lc psn g s) p d lc = some (g x) := by
  rw [flowOf_onFlow_self hg, h]
  rfl

theorem flowOf_onFlow_port_ne (hg : KeepsName g) (hn : n ≠ p) (e : BitVec 12) (l : Bool) :
    flowOf (onFlow n e l psn g s) p d lc = flowOf s p d lc := by
  have hother : ∀ y, isFlow n e l y = true → isFlow p d lc y = false := fun y hy => by
    simp only [isFlow, Bool.and_eq_true, beq_iff_eq] at hy
    obtain ⟨⟨rfl, -⟩, -⟩ := hy
    simp only [isFlow, beq_eq_false_iff_ne.2 hn, Bool.false_and]
  have hother' : ∀ y, isFlow n e l y = true → isFlow p d lc (g y) = false := fun y hy => (isFlow_of_eq (hg y)).trans (hother y hy)
  unfold flowOf onFlow
  dsimp only
  split
  · exact find?_updateWhere_of_disjoint hother hother' _
  · rw [List.find?_append, List.find?_cons_of_neg (by rw [hother' _ (isFlow_self ..)]; exact Bool.false_ne_true), List.find?_nil,
      Option.or_none]

end

/-! ### What the receiving end says of a frame (R395) -/

section
variable {s : State} {p : PortIx} {f : Frame}

/-- The flow of a frame, which its first frame starts. -/
def flowFor (s : State) (p : PortIx) (f : Frame) : Flow := (flowOf s p (fSrcDev f) (fLc f)).getD (newFlow p (fSrcDev f) (fLc f) (fPsn f))

theorem expectedPsn_eq (s : State) (p : PortIx) (f : Frame) :
    expectedPsn s p f = if fRestart f then fPsn f else (flowFor s p f).expected := by
  rw [expectedPsn, flowFor]
  cases flowOf s p (fSrcDev f) (fLc f) <;> rfl

/-- A flow that has taken a frame. -/
def flowTaken (psn : Word) (x : Flow) : Flow := { x with expected := psn + 1, sinceAck := x.sinceAck + 1 }

/-- No NAK left within the last 4 microseconds. -/
def nakDue (s : State) (p : PortIx) (f : Frame) : Bool :=
  match (flowFor s p f).nakAt with
  | some t => decide (4000 ≤ (s.time - t).toNat)
  | none => true

/-- A flow whose frame is not the next. -/
def flowNakked (s : State) (p : PortIx) (f : Frame) (x : Flow) : Flow :=
  { x with nakAt := if nakDue s p f then some s.time else x.nakAt }

theorem receiveSeq_of_next (h : isNext s p f) : receiveSeq p f s =
    (if 8 ≤ (flowFor s p f).sinceAck + 1 then sendAck p (fSrcDev f) (fLc f) (onFlow p (fSrcDev f) (fLc f) (fPsn f) (flowTaken (fPsn f)) s)
      else onFlow p (fSrcDev f) (fLc f) (fPsn f) (flowTaken (fPsn f)) s, true) := by
  obtain ⟨hpsn, hcrc, hlen⟩ := h
  rw [expectedPsn_eq] at hpsn
  unfold receiveSeq
  dsimp only
  rw [← flowFor, ← hpsn, if_pos (by simp only [hcrc, hlen, decide_true, Bool.and_self])]
  rfl

theorem receiveSeq_of_not_next (h : ¬ isNext s p f) : receiveSeq p f s =
    (if nakDue s p f then emitFrame p (fSrcDev f) { (ownHdr s 4 (fSrcDev f) (fLc f)) with aux := expectedPsn s p f } []
        (onFlow p (fSrcDev f) (fLc f) (fPsn f) (flowNakked s p f) s)
      else onFlow p (fSrcDev f) (fLc f) (fPsn f) (flowNakked s p f) s, false) := by
  unfold receiveSeq
  dsimp only
  rw [← flowFor, ← expectedPsn_eq, if_neg (by simpa only [isNext, Bool.and_eq_true, decide_eq_true_eq, and_assoc] using h)]
  rfl

end

/-! ### What the fabric's own changes leave -/

section
variable {γ : Type} {g : State → γ} (hbvl : ∀ v u, g { u with bvl := v } = g u)
include hbvl

theorem sendOn_keeps_view (p : PortIx) (d : BitVec 12) (lc : Bool) (h : Hdr) (payload : List Byte) (s : State) :
    g (sendOn p d lc h payload s) = g s :=
  (hbvl ..).trans (hbvl ..)

theorem sendAck_keeps_view (p : PortIx) (d : BitVec 12) (lc : Bool) (s : State) : g (sendAck p d lc s) = g s := by
  unfold sendAck
  split
  · rfl
  · exact (hbvl ..).trans (hbvl ..)

theorem resendFrom_keeps_view (p : PortIx) (d : BitVec 12) (lc : Bool) (psn : Word) (s : State) : g (resendFrom p d lc psn s) = g s := by
  unfold resendFrom
  split
  · rfl
  · exact (hbvl ..).trans (hbvl ..)

theorem moveFlow_keeps_view (p : PortIx) (d : BitVec 12) (lc : Bool) (s : State) : g (moveFlow p d lc s) = g s := by
  unfold moveFlow
  split
  · exact (hbvl ..).trans ((hbvl ..).trans (hbvl ..))
  · rfl

theorem receiveSeq_keeps_view (p : PortIx) (f : Frame) (s : State) : g (receiveSeq p f s).1 = g s := by
  by_cases hn : isNext s p f
  · rw [receiveSeq_of_next hn]
    dsimp only
    split
    · exact (sendAck_keeps_view hbvl ..).trans (hbvl ..)
    · exact hbvl ..
  · rw [receiveSeq_of_not_next hn]
    dsimp only
    split
    · exact (hbvl ..).trans (hbvl ..)
    · exact hbvl ..

end

/-! ### Idle traffic (R394, R411) -/

section
variable {s : State} {q : PartIx}

theorem finishFabric_of_none_done (h : ∀ o ∈ (s.part q).fabric, fabricDone o = false) : finishFabric q s = s := by
  have hended : (s.part q).fabric.filter fabricDone = [] := List.filter_eq_nil_iff.2 fun o ho => by rw [h o ho]; exact Bool.false_ne_true
  unfold finishFabric
  rw [hended]
  rfl

theorem finishColls_of_no_colls (h : (s.part q).colls = []) : finishColls q s = s := by
  unfold finishColls
  rw [h]
  rfl

theorem pumpColls_of_no_colls (h : (s.part q).colls = []) : pumpColls q s = s := by
  unfold pumpColls
  simp only [h, List.length_nil, List.range_zero, List.foldl_nil, finishColls_of_no_colls h]

theorem pump_of_idle (h : FabricIdle s) : pump s = s := by
  have hbusy : (List.finRange 16).filter (fun q => !(s.part q).fabric.isEmpty || !(s.part q).colls.isEmpty) = [] :=
    List.filter_eq_nil_iff.2 fun q _ => by
      obtain ⟨hf, hc⟩ := h q
      rw [hf, hc]
      exact Bool.false_ne_true
  unfold pump
  rw [hbusy]
  rfl

/-- The traffic of one partition alone: one with a transfer, and no collective anywhere. -/
theorem pump_of_only (hq : (s.part q).fabric ≠ []) (hother : ∀ k : PartIx, k ≠ q → (s.part k).fabric = [])
    (hcolls : ∀ k : PartIx, (s.part k).colls = []) :
    pump s = pumpColls q (finishFabric q (pumpFabric q (pumpFuel s q) 0 s)) := by
  have hbusy : (List.finRange 16).filter (fun k => !(s.part k).fabric.isEmpty || !(s.part k).colls.isEmpty) = [q] := by
    have hiff : ∀ k : PartIx, (!(s.part k).fabric.isEmpty || !(s.part k).colls.isEmpty) = (k == q) := fun k => by
      rw [hcolls k, List.isEmpty_nil, Bool.not_true, Bool.or_false]
      by_cases hk : k = q
      · rw [hk, beq_self_eq_true, List.isEmpty_eq_false_iff.2 hq, Bool.not_false]
      · rw [hother k hk, beq_false_of_ne hk]
        rfl
    rw [List.filter_congr fun k _ => hiff k]
    exact (by decide : ∀ q : PartIx, (List.finRange 16).filter (fun k => k == q) = [q]) q
  unfold pump
  simp only [hbusy, forAll, List.foldl_cons, List.foldl_nil]

theorem State.onPart_congr {f g : Part → Part} (h : f (s.part q) = g (s.part q)) : s.onPart q f = s.onPart q g := by
  rw [State.onPart, h, ← State.onPart]

/-- A transfer alone that is over writes its record. -/
theorem fabricEnded (o : FabricOp) (h : (s.part q).fabric = [o]) (hd : fabricDone o = true) : finishFabric q s =
    settleGate q (s.onPart q fun x => { x with
      fabric := []
      fabricOld := x.fabricOld ++ [o].filter fun o => !o.isRead
      fabricRing := x.fabricRing ++ [(fabricRecord o s.time.toNat, BitVec.ofNat 32 (fdEpoch o.desc))] }) := by
  have hended : (s.part q).fabric.filter fabricDone = [o] := by
    rw [h]
    exact List.filter_cons_of_pos hd
  have hrest : (s.part q).fabric.filter (fun o => !fabricDone o) = [] := by
    rw [h]
    exact List.filter_eq_nil_iff.2 fun y hy => by rw [List.mem_singleton.1 hy, hd]; exact Bool.false_ne_true
  unfold finishFabric
  rw [hended]
  dsimp only [List.isEmpty_cons]
  rw [if_neg Bool.false_ne_true]
  refine congrArg (settleGate q) (State.onPart_congr ?_)
  rw [hrest, List.map_singleton]

end

end Sys2Proof.Machine
end

section
/-! Lanes and ports of the link, and the shared time counter (R397, R401, R479). The third training failure and the causes, and the port
whose partner keeps 8 lanes, are entry 78 of the assumption log, the conditions of a claim entry 79, the tick entry 2. -/

namespace Sys2Proof.Machine

open Host

/-! ### Lanes declared faulty (R479) -/

section
variable {s : State} {p : PortIx} {lane : Fin 8} {x : Port}

section
variable {γ : Type} {g : State → γ} (hfunc : ∀ f h u, g (State.onFunc u f h) = g u) (hbvl : ∀ v u, g { u with bvl := v } = g u)

include hfunc in
theorem linkCapacity_keeps_view (s : State) : g (linkCapacity s) = g s := foldl_keeps g (fun _ _ => raiseEvent_keeps_view hfunc ..) _ _

include hbvl in
theorem moveFlows_keeps_view (p : PortIx) (s : State) : g (moveFlows p s) = g s :=
  foldl_keeps g (fun _ _ => moveFlow_keeps_view hbvl ..) _ _
end

/-- What moves a flow leaves the ports. -/
theorem moveFlows_ports (p : PortIx) (s : State) : (moveFlows p s).bvl.ports = s.bvl.ports := by
  have hone : ∀ (k : BitVec 12 × Bool) u, (moveFlow p k.1 k.2 u).bvl.ports = u.bvl.ports := fun k u => by
    unfold moveFlow
    split <;> rfl
  exact foldl_keeps (fun u : State => u.bvl.ports) (fun u k => hone k u) _ _

/-- A port out of service, with its bit cleared. -/
def portOut (p : PortIx) (s : State) : State :=
  setLinkEn p false (onPort p (fun x => { x with state := 4, narrow := false, testing := false }) s)

theorem prunePort_of_in_service (c : PruneCause) (n : Nat) (ht : s.bvl.ports[p].testing = false) : prunePort p c n s =
    moveFlows p (linkCapacity (recordPrune 3 p.val 0 c n s.bvl.ports[p].returns (portOut p s))) := by
  unfold prunePort
  dsimp only
  rw [ht]
  rfl

/-- What the pruning of a port in service leaves. -/
structure PortPruned (s t : State) (p : PortIx) (c : PruneCause) (n : Nat) : Prop where
  mem : t.mem = s.mem
  plots : t.plots = s.plots
  port : t.bvl.ports[p] = { s.bvl.ports[p] with state := 4, narrow := false, testing := false }
  log : t.image.pendingLog = s.image.pendingLog ++ [logRecord s 1 11 (prunePayload 3 p.val 0 (causeCode c) n s.bvl.ports[p].returns)]

theorem portPruned_prunePort (c : PruneCause) (n : Nat) (ht : s.bvl.ports[p].testing = false) :
    PortPruned s (prunePort p c n s) p c n := by
  have hview : ∀ {γ : Type} (g : State → γ), (∀ f h u, g (State.onFunc u f h) = g u) → (∀ v u, g { u with bvl := v } = g u) →
      g (prunePort p c n s) = g (queueLog 1 11 (prunePayload 3 p.val 0 (causeCode c) n s.bvl.ports[p].returns) (portOut p s)) :=
    fun g hfunc hbvl => by
      rw [prunePort_of_in_service c n ht, moveFlows_keeps_view hbvl, linkCapacity_keeps_view hfunc, recordPrune_keeps_view hfunc]
  have hports : (prunePort p c n s).bvl.ports = (portOut p s).bvl.ports := by
    rw [prunePort_of_in_service c n ht, moveFlows_ports, linkCapacity_keeps_view (g := fun u => u.bvl.ports) (fun _ _ _ => by rfl),
      recordPrune_keeps_view (g := fun u => u.bvl.ports) (fun _ _ _ => by rfl)]
    rfl
  exact {
    mem := (hview State.mem (fun _ _ _ => rfl) fun _ _ => rfl).trans rfl
    plots := (hview State.plots (fun _ _ _ => rfl) fun _ _ => rfl).trans rfl
    port := by
      rw [hports]
      exact onPort_port_self p (fun x => { x with state := 4, narrow := false, testing := false }) s
    log := (hview (·.image.pendingLog) (fun _ _ _ => rfl) fun _ _ => rfl).trans rfl }

/-- A port with one more lane declared faulty. -/
def laneOut (lane : Fin 8) (x : Port) : Port := { x with laneBad := BitVec.ofNat 8 (setBits x.laneBad.toNat lane.val lane.val 1) }

theorem ofNat_setBits_zero : ∀ lane : Fin 8, BitVec.ofNat 8 (setBits (0 : BitVec 8).toNat lane.val lane.val 1) = BitVec.ofNat 8 (2 ^ lane.val) := by
  decide

theorem laneBad_laneOut (h : x.laneBad = 0) : (laneOut lane x).laneBad = BitVec.ofNat 8 (2 ^ lane.val) := by
  rw [laneOut, h]
  exact ofNat_setBits_zero lane

/-- The bits of the other half of a port stay. -/
theorem bitsOf_setBits_other_half (v : Nat) (lane : Fin 8) :
    bitsOf (setBits v lane.val lane.val 1 % 2 ^ 8) (4 * (1 - laneHalf lane.val) + 3) (4 * (1 - laneHalf lane.val)) =
      bitsOf v (4 * (1 - laneHalf lane.val) + 3) (4 * (1 - laneHalf lane.val)) := by
  obtain ⟨l, hl⟩ := lane
  simp only [bitsOf, setBits, laneHalf, Nat.shiftRight_eq_div_pow, Nat.shiftLeft_eq]
  interval_cases l <;> omega

/-- A lane declared faulty changes nothing of the half it is not in. -/
theorem halfGood_laneOut (lane : Fin 8) (x : Port) :
    halfGood (laneOut lane x) (1 - laneHalf lane.val) = halfGood x (1 - laneHalf lane.val) := by
  rw [halfGood, halfGood, laneOut]
  dsimp only
  rw [BitVec.toNat_ofNat, bitsOf_setBits_other_half]

theorem halfGood_of_no_bad (h : x.laneBad = 0) (k : Nat) : halfGood x k = true := by
  rw [halfGood, h]
  simp [bitsOf]

/-- A lane's record is queued, and its port holds it as faulty. -/
def laneNoted (p : PortIx) (lane : Fin 8) (n : Nat) (s : State) : State :=
  recordPrune 2 p.val lane.val .laneErrors n (s.bvl.ports[p]).laneReturns[lane] (onPort p (fun _ => laneOut lane s.bvl.ports[p]) s)

theorem laneNoted_keeps_view {γ : Type} {g : State → γ} (hfunc : ∀ f h u, g (State.onFunc u f h) = g u) (n : Nat) (s : State) :
    g (laneNoted p lane n s) = g (queueLog 1 11 (prunePayload 2 p.val lane.val 7 n (s.bvl.ports[p]).laneReturns[lane])
      (onPort p (fun _ => laneOut lane s.bvl.ports[p]) s)) := recordPrune_keeps_view hfunc ..

theorem laneNoted_mem (n : Nat) (s : State) : (laneNoted p lane n s).mem = s.mem := by
  rw [laneNoted_keeps_view (g := State.mem) fun _ _ _ => by rfl]
  rfl

theorem laneNoted_plots (n : Nat) (s : State) : (laneNoted p lane n s).plots = s.plots := by
  rw [laneNoted_keeps_view (g := State.plots) fun _ _ _ => by rfl]
  rfl

theorem laneNoted_log (n : Nat) (s : State) : (laneNoted p lane n s).image.pendingLog = s.image.pendingLog ++
    [logRecord s 1 11 (prunePayload 2 p.val lane.val 7 n (s.bvl.ports[p]).laneReturns[lane])] := by
  rw [laneNoted_keeps_view (g := (·.image.pendingLog)) fun _ _ _ => by rfl]
  rfl

theorem laneNoted_port (n : Nat) (s : State) : (laneNoted p lane n s).bvl.ports[p] = laneOut lane s.bvl.ports[p] := by
  rw [laneNoted_keeps_view (g := fun u => u.bvl.ports[p]) fun _ _ _ => by rfl]
  exact onPort_port_self ..

theorem laneFaulty_eq (n : Nat) (s : State) : laneFaulty p lane n s =
    if halfGood (laneOut lane s.bvl.ports[p]) (1 - laneHalf lane.val) then
      if (s.bvl.ports[p].narrow || s.bvl.ports[p].state = 3) && s.bvl.ports[p].half.toNat = 1 - laneHalf lane.val then laneNoted p lane n s
      else linkCapacity (moveFlows p (onPort p (fun z => { z with state := 1, narrow := true, half := 1 - laneHalf lane.val == 1 })
        (laneNoted p lane n s)))
    else prunePort p .laneErrors n (laneNoted p lane n s) := rfl

theorem exec_laneFault (training : Bool) : exec (.laneFault p lane training) s =
    .next (if s.bvl.ports[p].state = 0 || s.bvl.ports[p].state = 4 then s
      else if training then
        if s.bvl.ports[p].state ≠ 1 then s
        else
          let s1 := onPort p (fun x =>
            { x with
              trainFail := satAdd x.trainFail 1
              fails := x.fails + 1
              laneFails := x.laneFails.set lane.val (x.laneFails[lane] + 1) lane.isLt }) s
          if holdActive s then s1 else trainingFailed p lane s1
      else if holdActive s || s.bvl.ports[p].laneBad.getLsbD lane.val then s
      else laneFaulty p lane 1 s) := rfl

theorem exec_laneFault_of_good (hh : holdActive s = false) (h0 : s.bvl.ports[p].state ≠ 0) (h4 : s.bvl.ports[p].state ≠ 4)
    (hbit : s.bvl.ports[p].laneBad.getLsbD lane.val = false) : exec (.laneFault p lane false) s = .next (laneFaulty p lane 1 s) := by
  rw [exec_laneFault, decide_eq_false h0, decide_eq_false h4, hh, hbit]
  rfl

/-- The first faulty lane of a port at full width. -/
theorem laneFault_narrows (hh : holdActive s = false) (hx : s.bvl.ports[p].state = 2) (hn : s.bvl.ports[p].narrow = false)
    (hbad : s.bvl.ports[p].laneBad = 0) : ∃ t, exec (.laneFault p lane false) s = .next t ∧ t.mem = s.mem ∧ t.plots = s.plots ∧
      t.bvl.ports[p] = { s.bvl.ports[p] with
        laneBad := BitVec.ofNat 8 (2 ^ lane.val), state := 1, narrow := true, half := decide (laneHalf lane.val = 0) } ∧
      t.image.pendingLog = s.image.pendingLog ++
        [logRecord s 1 11 (prunePayload 2 p.val lane.val 7 1 s.bvl.ports[p].laneReturns[lane])] := by
  have hexec := exec_laneFault_of_good (p := p) (lane := lane) hh (by rw [hx]; decide) (by rw [hx]; decide)
    (by rw [hbad]; exact BitVec.getLsbD_zero)
  have hwide : ((false || decide ((2 : BitVec 3) = 3)) && decide (s.bvl.ports[p].half.toNat = 1 - laneHalf lane.val)) = false := rfl
  rw [laneFaulty_eq, halfGood_laneOut, halfGood_of_no_bad hbad, if_pos rfl, hn, hx, hwide, if_neg Bool.false_ne_true] at hexec
  refine ⟨_, hexec, ?_, ?_, ?_, ?_⟩
  · rw [linkCapacity_keeps_view (g := State.mem) fun _ _ _ => by rfl, moveFlows_keeps_view (g := State.mem) fun _ _ => by rfl]
    exact laneNoted_mem (p := p) (lane := lane) 1 s
  · rw [linkCapacity_keeps_view (g := State.plots) fun _ _ _ => by rfl, moveFlows_keeps_view (g := State.plots) fun _ _ => by rfl]
    exact laneNoted_plots (p := p) (lane := lane) 1 s
  · have hhalf : ((1 - laneHalf lane.val == 1) : Bool) = decide (laneHalf lane.val = 0) :=
      (by decide : ∀ lane : Fin 8, ((1 - laneHalf lane.val == 1) : Bool) = decide (laneHalf lane.val = 0)) lane
    rw [linkCapacity_keeps_view (g := fun u => u.bvl.ports[p]) fun _ _ _ => by rfl, moveFlows_ports, onPort_port_self, laneNoted_port,
      ← laneBad_laneOut hbad, hhalf]
    rfl
  · rw [linkCapacity_keeps_view (g := (·.image.pendingLog)) fun _ _ _ => by rfl,
      moveFlows_keeps_view (g := (·.image.pendingLog)) fun _ _ => by rfl]
    exact laneNoted_log (p := p) (lane := lane) 1 s

/-- A faulty lane in the half that a narrowed port runs on. -/
theorem laneFault_prunes (hh : holdActive s = false) (hx : s.bvl.ports[p].state = 3)
    (hbit : s.bvl.ports[p].laneBad.getLsbD lane.val = false) (hhalf : halfGood s.bvl.ports[p] (1 - laneHalf lane.val) = false)
    (ht : s.bvl.ports[p].testing = false) : ∃ t, exec (.laneFault p lane false) s = .next t ∧ t.mem = s.mem ∧ t.plots = s.plots ∧
      (t.bvl.ports[p]).state = 4 ∧ t.image.pendingLog = s.image.pendingLog ++
        [logRecord s 1 11 (prunePayload 2 p.val lane.val 7 1 s.bvl.ports[p].laneReturns[lane]),
          logRecord s 1 11 (prunePayload 3 p.val 0 7 1 s.bvl.ports[p].returns)] := by
  have hexec := exec_laneFault_of_good (p := p) (lane := lane) hh (by rw [hx]; decide) (by rw [hx]; decide) hbit
  have hport := laneNoted_port (p := p) (lane := lane) 1 s
  rw [laneFaulty_eq, halfGood_laneOut, hhalf, if_neg Bool.false_ne_true] at hexec
  have hout := portPruned_prunePort (s := laneNoted p lane 1 s) .laneErrors 1 (by rw [hport]; exact ht)
  have hlog : ∀ n, logRecord (laneNoted p lane 1 s) 1 11 n = logRecord s 1 11 n := fun n => by
    rw [laneNoted_keeps_view (g := fun u => logRecord u 1 11 n) fun _ _ _ => by rfl]
    rfl
  refine ⟨_, hexec, hout.mem.trans (laneNoted_mem 1 s), hout.plots.trans (laneNoted_plots 1 s), congrArg Port.state hout.port, ?_⟩
  rw [hout.log, hport, hlog, laneNoted_log]
  exact List.append_assoc ..

/-! ### Training (R397, R479) -/

/-- A port after one more failed training on a lane. -/
def portFails (lane : Fin 8) (x : Port) : Port :=
  { x with
    trainFail := satAdd x.trainFail 1
    fails := x.fails + 1
    laneFails := x.laneFails.set lane.val (x.laneFails[lane] + 1) lane.isLt }

theorem exec_laneFault_training (hx : s.bvl.ports[p].state = 1) : exec (.laneFault p lane true) s =
    .next (if holdActive s then onPort p (portFails lane) s else trainingFailed p lane (onPort p (portFails lane) s)) := by
  rw [exec_laneFault, hx]
  rfl

/-- The third failed training in a row. -/
theorem laneFault_third (hh : holdActive s = false) (hx : s.bvl.ports[p].state = 1) (ht : s.bvl.ports[p].testing = false)
    (hf : s.bvl.ports[p].fails = 2) : ∃ t, exec (.laneFault p lane true) s = .next t ∧ (t.bvl.ports[p]).state = 4 ∧
      (t.bvl.ports[p]).trainFail = satAdd s.bvl.ports[p].trainFail 1 ∧
      t.image.pendingLog = s.image.pendingLog ++ [logRecord s 1 11 (prunePayload 3 p.val 0 3 3 s.bvl.ports[p].returns)] := by
  have hport : (onPort p (portFails lane) s).bvl.ports[p] = portFails lane s.bvl.ports[p] := onPort_port_self ..
  have hfails : (portFails lane s.bvl.ports[p]).fails = 3 := congrArg (· + 1) hf
  have htest : ((onPort p (portFails lane) s).bvl.ports[p]).testing = false := (congrArg Port.testing hport).trans ht
  have hfailed : trainingFailed p lane (onPort p (portFails lane) s) = prunePort p .training 3 (onPort p (portFails lane) s) := by
    unfold trainingFailed
    dsimp only
    rw [htest, hport, hfails]
    rfl
  have hout := portPruned_prunePort .training 3 htest
  obtain ⟨-, -, hpruned, hlog⟩ := hout
  rw [hport] at hpruned hlog
  refine ⟨_, ?_, congrArg Port.state hpruned, congrArg Port.trainFail hpruned, hlog⟩
  rw [exec_laneFault_training hx, hh, if_neg Bool.false_ne_true, hfailed]

/-- The first failed training changes the counters only. -/
theorem laneFault_first (hx : s.bvl.ports[p].state = 1) (ht : s.bvl.ports[p].testing = false) (hf : s.bvl.ports[p].fails = 0)
    (hl : s.bvl.ports[p].laneFails[lane] = 0) : exec (.laneFault p lane true) s = .next (onPort p (portFails lane) s) := by
  have hport : (onPort p (portFails lane) s).bvl.ports[p] = portFails lane s.bvl.ports[p] := onPort_port_self ..
  have htest : ((onPort p (portFails lane) s).bvl.ports[p]).testing = false := (congrArg Port.testing hport).trans ht
  have hfails : (portFails lane s.bvl.ports[p]).fails = 1 := congrArg (· + 1) hf
  have hlane : (portFails lane s.bvl.ports[p]).laneFails[lane] = 1 :=
    (Vector.getElem_set_self lane.isLt).trans (congrArg (· + 1) hl)
  have hnone : trainingFailed p lane (onPort p (portFails lane) s) = onPort p (portFails lane) s := by
    unfold trainingFailed
    dsimp only
    rw [htest, hport, hfails, hlane]
    rfl
  rw [exec_laneFault_training hx, hnone, ite_self]

theorem onPort_portFails_first (hf : s.bvl.ports[p].fails = 0) (hl : s.bvl.ports[p].laneFails[lane] = 0) :
    onPort p (portFails lane) s = onPort p (fun y =>
      { y with trainFail := satAdd y.trainFail 1, fails := 1, laneFails := y.laneFails.set lane.val 1 lane.isLt }) s := by
  refine onPort_congr ?_
  rw [portFails, hf, hl]

/-- A port that has come up. -/
def portUpNow (lanes8 : Bool) (x : Port) : Port :=
  { x with state := if lanes8 then 2 else 3, narrow := false, fails := 0, laneFails := Vector.replicate 8 0 }

theorem exec_portTrained (lanes8 : Bool) (hh : holdActive s = false) (hx : s.bvl.ports[p].state = 1)
    (ht : s.bvl.ports[p].testing = false) : exec (.portTrained p lanes8) s =
      .next (if s.bvl.ports[p].narrow && lanes8 then prunePort p .laneErrors 1 s
        else onPort p (portUpNow lanes8) (if lanes8 then portReturns p s else s)) := by
  change execPortTrained p lanes8 s = _
  simp only [execPortTrained, hx, hh, ht, Bool.false_and, Bool.or_false]
  rfl

theorem portReturns_of_good (hbad : s.bvl.ports[p].laneBad = 0) (ht : s.bvl.ports[p].testing = false) :
    ∃ f : Port → Port, portReturns p s = onPort p f s := by
  have hnone : ((List.finRange 8).filter fun l => s.bvl.ports[p].laneBad.getLsbD l.val) = [] := List.filter_eq_nil_iff.2 fun l _ => by
    rw [hbad]
    simp
  unfold portReturns
  dsimp only
  rw [hnone, ht, if_neg Bool.false_ne_true, List.foldl_nil]
  exact ⟨_, rfl⟩

theorem portTrained_comes_up (hh : holdActive s = false) (hx : s.bvl.ports[p].state = 1) (ht : s.bvl.ports[p].testing = false) :
    (s.bvl.ports[p].narrow = false → s.bvl.ports[p].laneBad = 0 → ∃ t, exec (.portTrained p true) s = .next t ∧
      (t.bvl.ports[p]).state = 2 ∧ (t.bvl.ports[p]).fails = 0 ∧ t.image = s.image ∧ t.mem = s.mem) ∧
    (∃ t, exec (.portTrained p false) s = .next t ∧ (t.bvl.ports[p]).state = 3 ∧ (t.bvl.ports[p]).fails = 0 ∧ t.image = s.image ∧
      t.mem = s.mem) ∧
    (s.bvl.ports[p].narrow = true → ∃ t, exec (.portTrained p true) s = .next t ∧ (t.bvl.ports[p]).state = 4 ∧ t.mem = s.mem) := by
  refine ⟨fun hn hbad => ?_, ?_, fun hn => ?_⟩
  · obtain ⟨f, hf⟩ := portReturns_of_good hbad ht
    have hup : (onPort p (portUpNow true) (onPort p f s)).bvl.ports[p] = portUpNow true _ := onPort_port_self ..
    refine ⟨onPort p (portUpNow true) (onPort p f s), ?_, congrArg Port.state hup, congrArg Port.fails hup, rfl, rfl⟩
    rw [exec_portTrained true hh hx ht, hn, Bool.false_and, if_neg Bool.false_ne_true, if_pos rfl, hf]
  · have hup : (onPort p (portUpNow false) s).bvl.ports[p] = portUpNow false _ := onPort_port_self ..
    refine ⟨onPort p (portUpNow false) s, ?_, congrArg Port.state hup, congrArg Port.fails hup, rfl, rfl⟩
    rw [exec_portTrained false hh hx ht, Bool.and_false, if_neg Bool.false_ne_true, if_neg Bool.false_ne_true]
  · have hout := portPruned_prunePort .laneErrors 1 ht
    refine ⟨_, ?_, congrArg Port.state hout.port, hout.mem⟩
    rw [exec_portTrained true hh hx ht, hn]
    rfl

/-! ### Time (R401) -/

section
variable {γ : Type} {g : State → γ} (hbvl : ∀ v u, g { u with bvl := v } = g u)
  (hcolls : ∀ r (f : Part → List CollOp) u, g (State.onPart u r fun x => { x with colls := f x }) = g u)
include hbvl hcolls

theorem noteHeld_keeps_view (hit : Flow → Bool) (dev : BitVec 12) (hold : Bool) (s : State) : g (noteHeld hit dev hold s) = g s := by
  unfold noteHeld
  dsimp only
  split
  · split
    · exact hbvl ..
    · exact (foldl_keeps g (fun _ _ => hcolls ..) _ _).trans (hbvl ..)
  · exact hbvl ..

end

theorem receiveFrame_of_arrives_control {ty : Nat} {f : Frame} (h : Arrives s p ty f) (hty : [3, 4, 8].contains ty = true)
    (take : State → State) : receiveFrame p ty f take s = take s := by
  obtain ⟨hup, hgood, htype⟩ := h
  unfold receiveFrame
  rw [hup, hgood, htype, hty]
  simp only [Bool.not_true, Bool.false_eq_true, if_false, ne_eq, not_true_eq_false, if_true]

theorem timeFrame_names_master {f : Frame} (h : Arrives s p 8 f) : ∃ t, exec (.timeFrame p f) s = .next t ∧ t.mem = s.mem ∧
    t.plots = s.plots ∧ t.time = s.time ∧ t.bvl.master = if s.bvl.isMaster then s.bvl.master else fSrcDev f := by
  refine ⟨_, congrArg Outcome.next (receiveFrame_of_arrives_control h (by decide) _), ?_, ?_, ?_, rfl⟩
  · exact noteHeld_keeps_view (g := State.mem) (fun _ _ => rfl) (fun _ _ _ => rfl) ..
  · exact noteHeld_keeps_view (g := State.plots) (fun _ _ => rfl) (fun _ _ _ => rfl) ..
  · exact noteHeld_keeps_view (g := State.time) (fun _ _ => rfl) (fun _ _ _ => rfl) ..

theorem bestExchange_least {l : List Exchange} {e : Exchange} (h : bestExchange l = some e) : e ∈ l ∧ ∀ x ∈ l, e.trip ≤ x.trip := by
  induction l generalizing e with
  | nil => cases h
  | cons a l ih =>
    rw [bestExchange] at h
    split at h
    · next hnone =>
      obtain rfl := Option.some.inj h
      cases l with
      | nil => exact ⟨List.mem_cons_self, fun x hx => by rw [List.mem_singleton.1 hx]⟩
      | cons b l =>
        rw [bestExchange] at hnone
        split at hnone <;> cases hnone
    · next b hb =>
      obtain ⟨hin, hmin⟩ := ih hb
      obtain rfl := Option.some.inj h
      split
      · next hlt =>
        refine ⟨List.mem_cons_of_mem _ hin, fun x hx => ?_⟩
        obtain rfl | hx := List.mem_cons.1 hx
        · exact hlt.le
        · exact hmin x hx
      · next hlt =>
        refine ⟨List.mem_cons_self, fun x hx => ?_⟩
        obtain rfl | hx := List.mem_cons.1 hx
        · exact le_rfl
        · exact (not_lt.1 hlt).trans (hmin x hx)

theorem lowestPort_eq (hlow : ∀ k : PortIx, k < p → portUp s k = false) (hup : portUp s p = true) : lowestPort s = some p := by
  unfold lowestPort
  rw [List.find?_eq_some_iff_getElem]
  refine ⟨hup, p.val, by simp, by simp, fun j hj => ?_⟩
  have := hlow ⟨j, hj.trans p.isLt⟩ hj
  simpa using this

/-- The TIME frame that leaves for the master. -/
def timeFrameOf (s : State) (p : PortIx) : Frame := ownFrame s p s.bvl.master (ownHdr s 8 s.bvl.master false) []

theorem fTy_timeFrameOf : fTy (timeFrameOf s p) = 8 :=
  fTy_ownFrame (hdrFits_ownHdr (by decide) 0)

/-- An exchange that succeeds. -/
def exchangeOf (t1 t2 t3 t4 : DWord) : Exchange :=
  { offset := ((t2 - t1).toInt - (t4 - t3).toInt) / 2, trip := (t4 - t1).toInt - (t3 - t2).toInt }

/-- The last eight exchanges with one more. -/
def exchangesNow (s : State) (e : Exchange) : List Exchange := (s.bvl.exchanges ++ [e]).drop (s.bvl.exchanges.length + 1 - 8)

theorem exec_timeExchange (t1 t2 t3 t4 : DWord) (ok : Bool) (hm : s.bvl.isMaster = false) (hp : lowestPort s = some p) :
    exec (.timeExchange t1 t2 t3 t4 ok) s = .next (
      let s1 := emitFrame p s.bvl.master (ownHdr s 8 s.bvl.master false) [] s
      if !ok then s1
      else { s1 with bvl := { s1.bvl with
        exchanges := exchangesNow s (exchangeOf t1 t2 t3 t4), offset := BitVec.ofInt 32 (exchangeOf t1 t2 t3 t4).offset, lastOk := s.time,
        holdover := false } }) := by
  change execTimeExchange t1 t2 t3 t4 ok s = _
  simp only [execTimeExchange, hp, hm, Bool.false_eq_true, if_false]
  rfl

theorem exchangesNow_keeps_eight (e : Exchange) (h : s.bvl.exchanges.length ≤ 8) :
    (exchangesNow s e).length ≤ 8 ∧ (exchangesNow s e).getLast? = some e := by
  have hlen : (s.bvl.exchanges ++ [e]).length = s.bvl.exchanges.length + 1 := List.length_append
  refine ⟨?_, ?_⟩
  · rw [exchangesNow, List.length_drop, hlen]
    omega
  · rw [exchangesNow, List.getLast?_drop, if_neg (by rw [hlen]; omega), List.getLast?_append_of_ne_nil _ (List.cons_ne_nil _ _)]
    rfl

theorem timeExchange_sends (t1 t2 t3 t4 : DWord) (hm : s.bvl.isMaster = false) (hlow : ∀ k : PortIx, k < p → portUp s k = false)
    (hup : portUp s p = true) :
    (∃ t g, exec (.timeExchange t1 t2 t3 t4 false) s = .next t ∧ t.bvl.wire = s.bvl.wire ++ [(p, g)] ∧ fTy g = 8 ∧
      t.bvl.exchanges = s.bvl.exchanges ∧ t.time = s.time) ∧
    (s.bvl.exchanges.length ≤ 8 → ∃ t g, exec (.timeExchange t1 t2 t3 t4 true) s = .next t ∧ t.bvl.wire = s.bvl.wire ++ [(p, g)] ∧
      t.bvl.exchanges.length ≤ 8 ∧ t.bvl.lastOk = s.time ∧ t.bvl.holdover = false ∧ t.time = s.time ∧ t.mem = s.mem ∧
      t.bvl.exchanges.getLast? = some (exchangeOf t1 t2 t3 t4)) := by
  have hexec := fun ok => exec_timeExchange t1 t2 t3 t4 ok hm (lowestPort_eq hlow hup)
  refine ⟨⟨_, timeFrameOf s p, hexec false, rfl, fTy_timeFrameOf, rfl, rfl⟩, fun hlen => ?_⟩
  obtain ⟨hle, hlast⟩ := exchangesNow_keeps_eight (exchangeOf t1 t2 t3 t4) hlen
  exact ⟨_, timeFrameOf s p, hexec true, rfl, hle, rfl, rfl, rfl, rfl, hlast⟩

theorem timeAdjust_follows {e : Exchange} (hm : s.bvl.isMaster = false) (hh : s.bvl.holdover = false) (hl : listenOver s = true)
    (he : bestExchange s.bvl.exchanges = some e) : ∃ t, exec .timeAdjust s = .next t ∧ t.bvl.synced = true ∧ t.mem = s.mem ∧
      t.plots = s.plots ∧ (s.bvl.slewOnly = false → t.time = s.time + BitVec.ofInt 64 e.offset) ∧
      (s.bvl.slewOnly = true → t.time = s.time ∧ t.bvl.slew = max (-50) (min 50 e.offset)) := by
  have hexec : exec .timeAdjust s = .next (
      let s1 := { s with bvl := { s.bvl with synced := true } }
      if !s.bvl.slewOnly then stepTime e.offset s1
      else { s1 with bvl := { s1.bvl with slew := max (-50) (min 50 e.offset) } }) := by
    change execTimeAdjust s = _
    simp only [execTimeAdjust, hm, hh, hl, he, Bool.not_true, Bool.or_self, Bool.false_eq_true, if_false]
  cases hslew : s.bvl.slewOnly <;> rw [hslew] at hexec
  · exact ⟨_, hexec, rfl, rfl, rfl, fun _ => rfl, fun h => absurd h Bool.false_ne_true⟩
  · exact ⟨_, hexec, rfl, rfl, rfl, fun h => absurd h Bool.false_ne_true.symm, fun _ => ⟨rfl, rfl⟩⟩

theorem exec_holdoverEntry (hm : s.bvl.isMaster = false) (hh : s.bvl.holdover = false) : exec .holdoverEntry s = .next
    (if (s.time - s.bvl.lastOk).toNat < 100000000 then s else { s with bvl := { s.bvl with holdover := true, slew := 0 } }) := by
  change execHoldoverEntry s = _
  simp only [execHoldoverEntry, hm, hh, Bool.false_or, decide_eq_true_eq]

/-- When a device may claim the role of the master (entry 79 of the assumption log). -/
def MayClaim (s : State) : Prop :=
  s.dev.bvl.eligible = true ∧ listenOver s = true ∧ s.bvl.isMaster = false ∧
    (s.bvl.synced = false ∨ s.bvl.holdover = true ∨ s.dev.bvl.devId.toNat ≤ s.bvl.master.toNat)

/-- A device that has become the master. -/
def masterNow (s : State) : State :=
  { s with bvl := { s.bvl with isMaster := true, master := s.dev.bvl.devId, synced := true, holdover := false, slew := 0 } }

theorem exec_masterClaim : exec .masterClaim s = .next (if !s.dev.bvl.eligible || !listenOver s || s.bvl.isMaster then s
    else if s.bvl.synced && !s.bvl.holdover && s.bvl.master.toNat < s.dev.bvl.devId.toNat then s else masterNow s) := rfl

theorem exec_masterClaim_of_mayClaim (h : MayClaim s) : exec .masterClaim s = .next (masterNow s) := by
  obtain ⟨he, hl, hm, hfree⟩ := h
  have hno : (s.bvl.synced && !s.bvl.holdover && decide (s.bvl.master.toNat < s.dev.bvl.devId.toNat)) = false := by
    obtain h | h | h := hfree
    · rw [h, Bool.false_and, Bool.false_and]
    · rw [h, Bool.not_true, Bool.and_false, Bool.false_and]
    · rw [decide_eq_false (not_lt.2 h), Bool.and_false]
  rw [exec_masterClaim, he, hl, hm, hno]
  rfl

theorem exec_masterClaim_of_not_mayClaim (h : ¬ MayClaim s) : exec .masterClaim s = .next s := by
  rw [exec_masterClaim]
  split
  · rfl
  · next hfirst =>
    split
    · rfl
    · next hno =>
      refine absurd ?_ h
      simp only [Bool.or_eq_true, Bool.not_eq_true', not_or, Bool.not_eq_false, Bool.not_eq_true] at hfirst
      obtain ⟨⟨he, hl⟩, hm⟩ := hfirst
      refine ⟨he, hl, hm, ?_⟩
      simp only [Bool.and_eq_true, Bool.not_eq_true', decide_eq_true_eq, not_and, not_lt] at hno
      cases hs : s.bvl.synced
      · exact .inl rfl
      · cases hd : s.bvl.holdover
        · exact .inr (.inr (hno ⟨hs, hd⟩))
        · exact .inr (.inl rfl)

/-- A tick takes at most two nanoseconds, and never turns the counter back. -/
theorem idleTick_time_le (s : State) : ((idleTick s).time - s.time).toNat ≤ 2 := by
  have hstep : ∀ k : DWord, s.time + k - s.time = k := fun k => by rw [add_comm, BitVec.add_sub_cancel]
  unfold idleTick
  dsimp only
  rw [traceDrain_time]
  split
  · rw [hstep 2]
    decide
  · split
    · rw [BitVec.sub_self]
      decide
    · rw [hstep 1]
      decide

end

/-- Settles O51: lanes, training and pruning of a port, and the rules of the shared time. The third training failure, the causes, and
the narrowed port whose partner keeps 8 lanes are entry 78 of the assumption log, the conditions of a claim entry 79, the tick
entry 2. -/
theorem portsAndTime : Obligations.PortsAndTime := by
  refine ⟨fun s p lane => ⟨fun hh => ?_, fun hh hx hn hbad => laneFault_narrows hh hx hn hbad,
      fun hh hx hbit hhalf ht => laneFault_prunes hh hx hbit hhalf ht, fun hh hx ht hf => laneFault_third hh hx ht hf,
      fun hx ht hf hl => (laneFault_first hx ht hf hl).trans (congrArg Outcome.next (onPort_portFails_first hf hl)),
      fun hh hx ht => portTrained_comes_up hh hx ht⟩,
    fun s p f h => timeFrame_names_master h, fun l e => bestExchange_least, fun s => ?_⟩
  · rw [exec_laneFault, hh, Bool.true_or, if_pos rfl, if_neg Bool.false_ne_true, if_pos rfl, ite_self]
  · have hlisten : listenOver s = true ↔ 2000000 ≤ (s.time - s.image.bootAt).toNat := decide_eq_true_iff
    dsimp only
    rw [← hlisten]
    refine ⟨fun t1 t2 t3 t4 p hm hlow hup => timeExchange_sends t1 t2 t3 t4 hm hlow hup,
      fun e hm hh hl he => timeAdjust_follows hm hh hl he, fun hm hh => exec_holdoverEntry hm hh,
      fun h => ⟨masterNow s, exec_masterClaim_of_mayClaim h, rfl, rfl, rfl, rfl⟩, fun h => exec_masterClaim_of_not_mayClaim h,
      fun h => ?_, fun h => ?_, fun h => ⟨idleTick s, step_of_nil h, idleTick_time_le s⟩⟩
    · exact congrArg Outcome.next (if_pos (by simpa only [Bool.and_eq_true, decide_eq_true_eq, and_assoc] using h))
    · exact congrArg Outcome.next (if_neg (by simpa only [Bool.and_eq_true, decide_eq_true_eq, and_assoc] using h))

end Sys2Proof.Machine
end

section
/-! The monitor's answers: a line at the front that names its command (R448, R459 to R461). The texts of replies are entry 105 of the
assumption log, the block map and the error answers entry 106. -/

namespace Sys2Proof.Machine

open Host

/-! ### A line that is served (R448) -/

section
variable {s u : State} {mbx : Bool} {c c' : Instr} {act : State → State × Reply} {body : List (List Byte)} {e : Option MonErr}

/-- The line at the front is taken; no other waits. -/
def lineTaken (s : State) : State := { s with monitor := { s.monitor with lines := [] } }

/-- The command is answered, and everything else is as in `u`. -/
def Answers (c : Instr) (s u : State) (mbx : Bool) (body : List (List Byte)) (e : Option MonErr) : Prop :=
  ∃ t, exec c s = .next t ∧ Answered u t mbx body e

theorem serve_of_no_line (h : s.monitor.lines = []) (c : Instr) (act : State → State × Reply) : serve c act s = s := by
  simp only [serve, h]

theorem monitorGoes_of_idle (hl : s.monitor.lines = []) (hf : s.pins.fifo = []) : monitorGoes s = s := monitorTurn_of_idle hl hf _

theorem serve_of_serving (h : Serving s mbx c) (act : State → State × Reply) :
    serve c act s = monitorGoes (sendReply mbx (act (lineTaken s)).2.1 (act (lineTaken s)).2.2 (act (lineTaken s)).1) := by
  obtain ⟨-, l, hl, hc⟩ := h
  simp only [serve, hl, hc, if_true]
  rfl

theorem serve_answers (h : Serving s mbx c) (hact : act (lineTaken s) = (lineTaken u, (body, e))) (hf : u.pins.fifo = []) :
    Answered u (serve c act s) mbx body e := by
  obtain ⟨v, w, hreply, hfifo⟩ := sendReply_eq_pins_pf0 mbx body e (lineTaken u)
  have hidle : monitorGoes (sendReply mbx body e (lineTaken u)) = sendReply mbx body e (lineTaken u) := by
    rw [hreply]
    exact monitorGoes_of_idle rfl (hfifo.trans hf)
  rw [serve_of_serving h, hact]
  exact hidle

/-- A command whose line is at the front acts, and is answered. -/
theorem answers_of_act (h : Serving s mbx c') (hexec : exec c s = .next (serve c' act s))
    (hact : act (lineTaken s) = (lineTaken u, (body, e))) (hf : u.pins.fifo = []) : Answers c s u mbx body e :=
  ⟨_, hexec, serve_answers h hact hf⟩

/-- A command that changes nothing else. -/
theorem answers_of_keeps (h : Serving s mbx c') (hexec : exec c s = .next (serve c' act s))
    (hact : act (lineTaken s) = (lineTaken s, (body, e))) : Answers c s s mbx body e :=
  answers_of_act h hexec hact h.1

end

/-! ### No line waits -/

theorem monitor_idle_of_no_line {s : State} (h : s.monitor.lines = []) (n m k i : Nat) (v : Word) (b : Byte) (q : PartIx) (d : DWord)
    (w x : BitVec 16) (wrap : Bool) (o : Option PartIx) (fail : Option (BitVec 4 × BitVec 6)) :
    ∀ c ∈ [Instr.monitorHelp, .monitorStatus, .monitorTime, .monitorGauge, .monitorLog n, .monitorRd n m k, .monitorWr n m v,
      .monitorTest n b fail, .monitorBaud n, .traceStart q d n wrap, .traceStop q, .traceStatus q, .cutArm q v w x n d m k i, .cutList q,
      .cutGet q n m k, .cutDrop q n, .perfSelect n m b o, .perfClear n], exec c s = .next s := by
  have hs : ∀ c act, (.next (serve c act s) : Out) = .next s := fun c act => congrArg Outcome.next (serve_of_no_line h c act)
  have htest : exec (.monitorTest n b fail) s = .next s := by
    change execMonitorTest n b fail s = _
    rw [execMonitorTest, serve_of_no_line h, ite_self]
  simp only [List.forall_mem_cons, List.not_mem_nil, false_implies, implies_true, and_true]
  exact ⟨hs _ _, hs _ _, hs _ _, hs _ _, hs _ _, hs _ _, hs _ _, htest, hs _ _, hs _ _, hs _ _, hs _ _, hs _ _, hs _ _, hs _ _, hs _ _,
    hs _ _, hs _ _⟩

/-! ### Reports, LOG and BAUD (R459) -/

section
variable {s : State} {mbx : Bool}

theorem report_answers {c : Instr} {l : State → List (List Byte)} (h : Serving s mbx c) (hexec : exec c s = report c l s) :
    ∃ body, Answers c s s mbx body none :=
  ⟨l (lineTaken s), answers_of_keeps h hexec rfl⟩

theorem reports_answer : ∀ c ∈ [Instr.monitorHelp, .monitorStatus, .monitorTime, .monitorGauge], Serving s mbx c →
    ∃ body, Answers c s s mbx body none := by
  simp only [List.forall_mem_cons, List.not_mem_nil, false_implies, implies_true, and_true]
  exact ⟨fun h => report_answers h rfl, fun h => report_answers h rfl, fun h => report_answers h rfl, fun h => report_answers h rfl⟩

theorem monitorLog_answers {n : Nat} (h : Serving s mbx (.monitorLog n)) :
    (1 ≤ n → n ≤ 256 → ∃ body, Answers (.monitorLog n) s s mbx body none ∧ body.length = min n (orderedLog s).length) ∧
      (n = 0 ∨ 256 < n → Answers (.monitorLog n) s s mbx [] (some .range)) := by
  refine ⟨fun h1 h2 => ⟨((orderedLog s).drop ((orderedLog s).length - n)).map logLine, answers_of_keeps h rfl ?_, ?_⟩, fun hn => ?_⟩
  · exact if_neg (by simp only [Bool.or_eq_true, decide_eq_true_eq]; omega)
  · rw [List.length_map, List.length_drop]
    omega
  · exact answers_of_keeps h rfl (if_pos (by simpa using hn))

theorem monitorBaud_answers {div : Nat} (h : Serving s mbx (.monitorBaud div)) :
    (div < 25 ∨ 65535 < div → Answers (.monitorBaud div) s s mbx [] (some .range)) ∧
      (25 ≤ div → div ≤ 65535 →
        Answers (.monitorBaud div) s { s with pins := { s.pins with divNext := some (BitVec.ofNat 16 div) } } mbx [] none ∧
          ∃ t, exec (.monitorBaud div) s = .next t ∧ t.pins.div = BitVec.ofNat 16 div) := by
  refine ⟨fun hd => answers_of_keeps h rfl (if_pos (by simpa using hd)), fun h1 h2 => ?_⟩
  have hans : Answers (.monitorBaud div) s { s with pins := { s.pins with divNext := some (BitVec.ofNat 16 div) } } mbx [] none :=
    answers_of_act h rfl (if_neg (by simp only [Bool.or_eq_true, decide_eq_true_eq]; omega)) h.1
  refine ⟨hans, ?_⟩
  obtain ⟨t, hexec, ht⟩ := hans
  exact ⟨t, hexec, by rw [ht]; cases mbx <;> rfl⟩

/-! ### RD and WR (R459, R460) -/

theorem cisLink_lineTaken (c : CisIx) (x : Cistern) (o : Nat) : cisLink (lineTaken s) c x o = cisLink s c x o := by
  have hpart : ∀ q, (lineTaken s).part q = s.part q := fun _ => rfl
  have hcis : ∀ a k, collCis (lineTaken s) a k = collCis s a k := fun _ _ => rfl
  have hdev : (lineTaken s).dev = s.dev := rfl
  have hbvl : (lineTaken s).bvl = s.bvl := rfl
  simp only [cisLink, hpart, hcis, hdev, hbvl]

theorem almReg_lineTaken (o : Nat) : almReg (lineTaken s) o = almReg s o := by
  have hpart : ∀ q, (lineTaken s).part q = s.part q := fun _ => rfl
  have hcore : ∀ c, (lineTaken s).core c = s.core c := fun _ => rfl
  have hstat : ∀ q, partStatWord (lineTaken s) q = partStatWord s q := fun _ => rfl
  have hpin : ∀ i, pinLevel (lineTaken s) i = pinLevel s i := fun _ => rfl
  have halm : (lineTaken s).alm = s.alm := rfl
  have hpins : (lineTaken s).pins = s.pins := rfl
  have hcodec : (lineTaken s).codec = s.codec := rfl
  have hdev : (lineTaken s).dev = s.dev := rfl
  simp only [almReg, almParts, mgtReg, hpart, hcore, hstat, hpin, halm, hpins, hcodec, hdev]

theorem fnReg_lineTaken (f : FnIx) (o : Nat) : fnReg (lineTaken s) f o = fnReg s f o := by
  have hpart : ∀ q, (lineTaken s).part q = s.part q := fun _ => rfl
  have hfunc : (lineTaken s).func f = s.func f := rfl
  have hqp : ∀ i, qpOf (lineTaken s) f i = qpOf s f i := fun _ => rfl
  have hstat : ∀ q, partStatWord (lineTaken s) q = partStatWord s q := fun _ => rfl
  have hshare : ∀ q, shareW (lineTaken s) q = shareW s q := fun _ => rfl
  have hfence : fncStatus (lineTaken s) = fncStatus s ∧ (lineTaken s).fence = s.fence := ⟨rfl, rfl⟩
  have hirq : ∀ v, irqPending (lineTaken s) f v = irqPending s f v := fun _ => rfl
  have hpf0 : pf0Own (lineTaken s) o = pf0Own s o := rfl
  have hown : (lineTaken s).image = s.image ∧ (lineTaken s).time = s.time := ⟨rfl, rfl⟩
  simp only [fnReg, viewReg, fnOwn, hpart, hfunc, hqp, hstat, hshare, hfence, hirq, hpf0, hown]

theorem regRead_lineTaken (b : Block) (o : Nat) : regRead (lineTaken s) b o = regRead s b o := by
  have hdev : (lineTaken s).dev = s.dev := rfl
  cases b with
  | plot p =>
    have hplot : (lineTaken s).plot p = s.plot p := rfl
    simp only [regRead, plotReg, hplot, hdev]
  | bed b =>
    have hbed : (lineTaken s).bed b = s.bed b := rfl
    have hplot : ∀ p, (lineTaken s).plot p = s.plot p := fun _ => rfl
    have hceil : bedCeil (lineTaken s) b = bedCeil s b := rfl
    have hepoch : ∀ k, bedEpoch (lineTaken s) b k = bedEpoch s b k := fun _ => rfl
    simp only [regRead, bedReg, hbed, hplot, hceil, hepoch]
  | cistern c =>
    have hcis : (lineTaken s).cistern c = s.cistern c := rfl
    simp only [regRead, cisReg, cisMap, cisLink_lineTaken, hcis, hdev]
  | almanac => exact almReg_lineTaken o
  | image => rfl
  | vf q => exact fnReg_lineTaken (vfOf q) o
  | pf0 => exact fnReg_lineTaken pf0Fn o
  | fence => rfl

theorem latchRead_lineTaken (b : Block) (o : Nat) (t : Tab Word) : latchRead (lineTaken s) b o t = latchRead s b o t := by
  simp only [latchRead, regRead_lineTaken]

theorem latchedRead_lineTaken (t : Tab Word) (b : Block) (o : Nat) : latchedRead (lineTaken s) t b o = latchedRead s t b o := by
  simp only [latchedRead, regRead_lineTaken]

theorem readWords_one {block off o : Nat} {b : Block} (h : monBlock block off = some (b, o)) (u : State) : readWords block 1 off u =
    ({ u with alm := { u.alm with latch := latchRead u b o u.alm.latch } }, [latchedRead u u.alm.latch b o]) := by
  simp only [readWords, readShadow, h]

theorem monitorRd_answers {block offset n : Nat} (h : Serving s mbx (.monitorRd block offset n)) :
    (n = 0 ∨ 64 < n ∨ offset % 4 ≠ 0 ∨ monBlock block offset = none → Answers (.monitorRd block offset n) s s mbx [] (some .range)) ∧
      ∀ b o, monBlock block offset = some (b, o) → offset % 4 = 0 → n = 1 →
        Answers (.monitorRd block offset n) s { s with alm := { s.alm with latch := latchRead s b o s.alm.latch } } mbx
          [hexN 8 (latchedRead s s.alm.latch b o)] none := by
  refine ⟨fun hbad => answers_of_keeps h rfl (if_pos ?_), fun b o hb ho hn => ?_⟩
  · simpa only [Bool.or_eq_true, decide_eq_true_eq, Option.isNone_iff_eq_none, or_assoc] using hbad
  · subst hn
    refine answers_of_act h rfl ((if_neg ?_).trans ?_) h.1
    · simp [ho, hb]
    · rw [readWords_one hb, latchRead_lineTaken, latchedRead_lineTaken]
      rfl

theorem noteAlert_lineTaken (u v : State) : noteAlert (lineTaken u) (lineTaken v) = lineTaken (noteAlert u v) := by
  have hcond : (alertCause (lineTaken v) && !alertOn (lineTaken u)) = (alertCause v && !alertOn u) := rfl
  unfold noteAlert
  rw [hcond]
  split <;> rfl

theorem foreignWrite_lineTaken (code : BitVec 4) (offset : BitVec 16) :
    foreignWrite code offset (lineTaken s) = lineTaken (foreignWrite code offset s) :=
  noteAlert_lineTaken s (fenceEvent { s with fence := { s.fence with
    foreign := satAdd s.fence.foreign 1
    foreignSrc := code
    foreignAddr := BitVec.ofNat 32 offset.toNat
    foreignAt := some s.time } })

theorem foreignWrite_pins (code : BitVec 4) (offset : BitVec 16) : (foreignWrite code offset s).pins = s.pins := by
  obtain ⟨t, m, hnote⟩ := noteAlert_eq_fence s (fenceEvent { s with fence := { s.fence with
    foreign := satAdd s.fence.foreign 1
    foreignSrc := code
    foreignAddr := BitVec.ofNat 32 offset.toNat
    foreignAt := some s.time } })
  rw [foreignWrite, hnote]
  rfl

theorem monBlock_bed (b : BedIx) (o : Nat) (ho : o < 0x8000) : monBlock (0x10 + b.val) o = some (.bed b, o) := by
  have hb := b.isLt
  have hfin : Fin.ofNat 16 (0x10 + b.val) = b := Fin.ext (by rw [Fin.val_ofNat]; omega)
  rw [monBlock, if_neg (by omega), if_pos (by omega), if_pos ho, hfin]

/-- A write of the bed's context select replaces it whole. -/
theorem coreWrite_ctxSel (b : BedIx) (value : Word) (u : State) : coreWrite (.bed b) 0x48 4 (BitVec.ofNat 64 value.toNat) u =
    u.onBed b fun x => { x with ctxSel := BitVec.ofNat _ value.toNat } := by
  have hexec := exec_coreStore (b := .bed b) (off := 0x48) value u (by simp) (by decide) (by decide) le_rfl
  refine (Outcome.next.inj hexec).trans ?_
  change u.onBed b (fun x => { x with ctxSel := mergeBits x.ctxSel 15 value.toNat }) = _
  simp only [mergeBits, mergeWord_all _ value.isLt]

theorem monitorWr_answers {block offset : Nat} {value : Word} (h : Serving s mbx (.monitorWr block offset value)) :
    let answers := Answers (.monitorWr block offset value) s
    (s.image.debugOn = false → answers s mbx [] (some .disabled)) ∧
      (s.image.debugOn = true → (monBlock block offset = none → answers s mbx [] (some .range)) ∧
        (∀ o, monBlock block offset = some (.fence, o) → answers (foreignWrite 2 (BitVec.ofNat 16 o) s) mbx [] (some .access)) ∧
        ∀ b : BedIx, block = 0x10 + b.val → offset = 0x48 →
          answers (s.onBed b fun x => { x with ctxSel := BitVec.ofNat _ value.toNat }) mbx [] none) := by
  dsimp only
  refine ⟨fun hd => answers_of_keeps h rfl ?_, fun hd => ⟨fun hb => answers_of_keeps h rfl ?_, fun o hb => ?_, fun b hblock hoff => ?_⟩⟩
  · exact if_pos (by rw [show (lineTaken s).image.debugOn = false from hd]; rfl)
  · refine (if_neg (by rw [show (lineTaken s).image.debugOn = true from hd]; decide)).trans ?_
    rw [hb]
    rfl
  · refine answers_of_act h rfl ((if_neg (by rw [show (lineTaken s).image.debugOn = true from hd]; decide)).trans ?_) ?_
    · rw [hb]
      exact congrArg (·, failing .access) (foreignWrite_lineTaken ..)
    · rw [foreignWrite_pins]
      exact h.1
  · subst hblock hoff
    refine answers_of_act h rfl ((if_neg (by rw [show (lineTaken s).image.debugOn = true from hd]; decide)).trans ?_) h.1
    rw [monBlock_bed b _ (by decide)]
    dsimp only
    rw [if_neg (by simp), if_neg (by decide), coreWrite_ctxSel]
    rfl

/-! ### TEST (R461) -/

theorem exec_monitorTest (plot : Nat) (pattern : Byte) (fail : Option (BitVec 4 × BitVec 6)) :
    exec (.monitorTest plot pattern fail) s = .next (
      let p : PlotIx := Fin.ofNat 128 plot
      let open_ := plot < 128 && ((s.plot p).mode = .pruned || freeForTest s p)
      if open_ && !readyForTest s p then s
      else serve (.monitorTest plot pattern none) (fun s =>
        if 128 ≤ plot then (s, failing .range)
        else if !open_ then (s, failing .busy)
        else
          let e := testEnd pattern fail
          (testedPlot p pattern e (if (s.plot p).mode = .pruned then s else wakeForTest p s), fine [testLine e])) s) := rfl

/-- Without traces a command's record is none. -/
theorem traceCommand_of_no_trace {u : State} (h : u.dev.traceEn = false) (p : PlotIx) (l : Lane) (d : BitVec 1024) (isEnd : Bool)
    (st cycles : Nat) : traceCommand p l d isEnd st cycles u = u := by
  unfold traceCommand
  split
  · rw [traceEmit, h]
    rfl
  · rfl

/-- A plot tested without traces: its last command, and an empty scratchpad. -/
def plotTested (p : PlotIx) (pattern : Byte) (e : Ended) (s : State) : State :=
  clearTags p (t0Zero p (({ s with fresh := s.fresh + 2 } : State).onPlot p fun x => noteLast (testDesc s pattern) e (slotsInvalid x)))

theorem testedPlot_of_no_trace (h : s.dev.traceEn = false) (p : PlotIx) (pattern : Byte) (e : Ended) :
    testedPlot p pattern e s = plotTested p pattern e s := by
  have htrace : ({ s with fresh := s.fresh + 2 } : State).dev.traceEn = false := h
  unfold testedPlot
  dsimp only
  rw [traceCommand_of_no_trace htrace, traceCommand_of_no_trace]
  · rfl
  · exact htrace

theorem plotTested_plot (p : PlotIx) (pattern : Byte) (e : Ended) : (plotTested p pattern e s).plot p =
    { noteLast (testDesc s pattern) e (slotsInvalid (s.plot p)) with ring := PageRing.reset } := by
  rw [plotTested, clearTags, State.onPlot_plot]
  exact congrArg (fun x : Plot => { x with ring := PageRing.reset }) (State.onPlot_plot { s with fresh := s.fresh + 2 } p
    fun x => noteLast (testDesc s pattern) e (slotsInvalid x))

theorem plotTested_parts (p : PlotIx) (pattern : Byte) (e : Ended) : (plotTested p pattern e s).parts = s.parts := by
  rw [plotTested, clearTags, State.onPlot_parts, t0Zero, State.onMem_parts, State.onPlot_parts]

theorem noteLast_mode (d : BitVec 1024) (e : Ended) (x : Plot) : (noteLast d e x).mode = x.mode := rfl

theorem noteLast_lastStatus (d : BitVec 1024) (e : Ended) (x : Plot) : (noteLast d e x).lastStatus = BitVec.ofNat 8 e.status := rfl

theorem plotTested_mode (p : PlotIx) (pattern : Byte) (e : Ended) : ((plotTested p pattern e s).plot p).mode = (s.plot p).mode :=
  (congrArg Plot.mode (plotTested_plot p pattern e)).trans (noteLast_mode (testDesc s pattern) e (slotsInvalid (s.plot p)))

theorem plotTested_lastStatus (p : PlotIx) (pattern : Byte) (e : Ended) :
    ((plotTested p pattern e s).plot p).lastStatus = BitVec.ofNat 8 e.status :=
  (congrArg Plot.lastStatus (plotTested_plot p pattern e)).trans (noteLast_lastStatus (testDesc s pattern) e (slotsInvalid (s.plot p)))

theorem ramByte_plotTested (p : PlotIx) (pattern : Byte) (e : Ended) (a : Nat) : ramByte (plotTested p pattern e s) a =
    if t0Addr p 0 ≤ a ∧ a < t0Addr p 0 + t0Size then 0 else ramByte s a :=
  ramByte_t0Zero p (({ s with fresh := s.fresh + 2 } : State).onPlot p fun x => noteLast (testDesc s pattern) e (slotsInvalid x)) a

/-- What the line of a test says: PASS, or FAIL with the unit and the bank. -/
theorem testLine_testEnd {pattern : Byte} (h1 : 1 ≤ pattern.toNat) (h5 : pattern.toNat ≤ 5) (fail : Option (BitVec 4 × BitVec 6)) :
    testLine (testEnd pattern fail) = (match fail with
      | some (x, b) => shown "FAIL" 1 x.toNat ++ hexWord 2 b.toNat
      | none => txt "PASS") ∧
    BitVec.ofNat 8 (testEnd pattern fail).status = if fail.isSome then 0x0C else 0x00 := by
  have hin : (decide (pattern = 0) || decide (5 < pattern.toNat)) = false := by
    have hne : pattern ≠ 0 := fun h => by rw [h] at h1; exact absurd h1 (by decide)
    rw [decide_eq_false hne, decide_eq_false (by omega)]
    rfl
  cases fail with
  | none => simp only [testEnd, hin]; exact ⟨rfl, rfl⟩
  | some k =>
    obtain ⟨x, b⟩ := k
    have hx := x.isLt
    have hb := b.isLt
    have hunit : (x.toNat * 2 ^ 28 + b.toNat) / 2 ^ 28 = x.toNat := by omega
    have hbank : (x.toNat * 2 ^ 28 + b.toNat) % 64 = b.toNat := by omega
    refine ⟨?_, ?_⟩
    · simp only [testEnd, hin, Bool.false_eq_true, if_false, testLine, endedEarly]
      rw [hunit, hbank]
      rfl
    · simp only [testEnd, hin]
      rfl

theorem monitorTest_answers {plot : Nat} {pattern : Byte} {fail : Option (BitVec 4 × BitVec 6)}
    (h : Serving s mbx (.monitorTest plot pattern none)) :
    let c := Instr.monitorTest plot pattern fail
    let p : PlotIx := Fin.ofNat 128 plot
    (128 ≤ plot → Answers c s s mbx [] (some .range)) ∧
    (plot < 128 → (s.plot p).mode ≠ .pruned → freeForTest s p = false → Answers c s s mbx [] (some .busy)) ∧
    (plot < 128 → (s.plot p).mode ≠ .pruned → freeForTest s p = true → readyForTest s p = false → exec c s = .next s) ∧
    (plot < 128 → (s.plot p).mode = .pruned → s.dev.traceEn = false → 1 ≤ pattern.toNat → pattern.toNat ≤ 5 →
      Answers c s (plotTested p pattern (testEnd pattern fail) s) mbx [testLine (testEnd pattern fail)] none) := by
  dsimp only
  have hexec := exec_monitorTest (s := s) plot pattern fail
  dsimp only at hexec
  refine ⟨fun hp => ?_, fun hp hm hf => ?_, fun hp hm hf hr => ?_, fun hp hm ht h1 h5 => ?_⟩
  · rw [decide_eq_false (not_lt.2 hp), Bool.false_and, Bool.false_and, if_neg Bool.false_ne_true] at hexec
    exact answers_of_keeps h hexec (if_pos hp)
  · rw [decide_eq_false hm, hf, Bool.false_or, Bool.and_false, Bool.false_and, if_neg Bool.false_ne_true] at hexec
    exact answers_of_keeps h hexec ((if_neg (not_le.2 hp)).trans (if_pos rfl))
  · rw [decide_eq_true hp, hf, hr, Bool.or_true, Bool.true_and, Bool.true_and, Bool.not_false, if_pos rfl] at hexec
    exact hexec
  · have hready : readyForTest s (Fin.ofNat 128 plot) = true := by rw [readyForTest, hm]; rfl
    rw [decide_eq_true hp, decide_eq_true hm, hready, Bool.true_or, Bool.true_and, Bool.not_true, Bool.and_false,
      if_neg Bool.false_ne_true] at hexec
    refine answers_of_act h hexec ((if_neg (not_le.2 hp)).trans ((if_neg Bool.false_ne_true).trans ?_)) h.1
    rw [if_pos (show ((lineTaken s).plot (Fin.ofNat 128 plot)).mode = .pruned from hm),
      testedPlot_of_no_trace (show (lineTaken s).dev.traceEn = false from ht)]
    rfl

end

/-- Settles O58: each command, and what its line answers. The texts of the replies are entry 105 of the assumption log, the block map
and the error answers entry 106. -/
theorem monitorReports : Obligations.MonitorReports := by
  refine ⟨fun s hl n m k i v b q d w x wrap o fail => monitor_idle_of_no_line hl n m k i v b q d w x wrap o fail,
    fun s mbx => ⟨reports_answer, fun n h => monitorLog_answers h, fun block offset n h => monitorRd_answers h,
      fun block offset value h => monitorWr_answers h, fun plot pattern fail h => ?_, fun div h => monitorBaud_answers h⟩⟩
  obtain ⟨hrange, hbusy, hwaits, hruns⟩ := monitorTest_answers (fail := fail) h
  refine ⟨hrange, hbusy, hwaits, fun hp hm ht h1 h5 => ⟨plotTested (Fin.ofNat 128 plot) pattern (testEnd pattern fail) s,
    ?_, ?_, ?_, plotTested_parts .., fun a hlo hhi => ?_, fun a hout => ?_⟩⟩
  · obtain ⟨hline, -⟩ := testLine_testEnd h1 h5 fail
    have hans := hruns hp hm ht h1 h5
    rw [hline] at hans
    exact hans
  · rw [plotTested_mode, hm]
  · obtain ⟨-, hstatus⟩ := testLine_testEnd h1 h5 fail
    rw [plotTested_lastStatus, hstatus]
  · rw [ramByte_plotTested, if_pos ⟨hlo, hhi⟩]
  · rw [ramByte_plotTested, if_neg (by omega)]

end Sys2Proof.Machine
end

section
/-! Traces, cuttings and performance counters at the monitor, and the captures that complete (R464 to R472). The answers are entry 106 of
the assumption log, the completion of a capture entry 107, the unit numbers entry 112. -/

namespace Sys2Proof.Machine

open Host

section
variable {s : State} {mbx : Bool} {q : PartIx}

/-! ### What the line leaves readable -/

theorem rangeFree_lineTaken (q : PartIx) (base : DWord) (size : Nat) : rangeFree (lineTaken s) q base size = rangeFree s q base size := by
  have hpart : (lineTaken s).part q = s.part q := rfl
  have hquota : t3Quota (lineTaken s) q = t3Quota s q := rfl
  have hfree : t3Free (lineTaken s) q = t3Free s q := rfl
  simp only [rangeFree, takenRanges, hpart, hquota, hfree]

theorem finishes_lineTaken (q : PartIx) (step t : Nat) (l : List Job) : finishes (lineTaken s) q step t l = finishes s q step t l := by
  have hneed : ∀ j, needLeft (lineTaken s) q step j = needLeft s q step j := fun _ => rfl
  have hpre : ∀ j, preHeld (lineTaken s) q j = preHeld s q j := fun _ => rfl
  induction l generalizing t with
  | nil => rfl
  | cons j l ih => simp only [finishes, hneed, hpre, ih]

theorem slackOf_lineTaken (q : PartIx) (id : Word) : slackOf (lineTaken s) q id = slackOf s q id := by
  have hplan : ∀ step, planFinishes (lineTaken s) q step = planFinishes s q step := fun step => finishes_lineTaken q step ..
  have hpart : (lineTaken s).part q = s.part q := rfl
  simp only [slackOf, hpart, hplan]

theorem armRefused_lineTaken (q : PartIx) (j : Job) (pass cost : Nat) : armRefused (lineTaken s) q j pass cost = armRefused s q j pass cost := by
  simp only [armRefused, slackOf_lineTaken]

theorem captureRuns_lineTaken (q : PartIx) (c : Nat) : captureRuns (lineTaken s) q c = captureRuns s q c := rfl

/-! ### TRACE (R464) -/

/-- A trace turned on over a range. -/
def traceOn (base : DWord) (size : Nat) (wrap : Bool) (k : Trace) : Trace :=
  { k with
    on := true
    wrap := wrap
    full := false
    half := false
    pages := BitVec.ofNat 17 (size / pageBytes)
    base := base
    wptr := 0
    seq := 0
    count := 0
    stopping := false }

/-- A command of a feature that the image leaves out. -/
theorem answers_disabled {c c' : Instr} {act : State → State × Reply} (h : Serving s mbx c') (hexec : exec c s = .next (serve c' act s))
    (hact : act (lineTaken s) = (lineTaken s, failing .disabled)) : Answers c s s mbx [] (some .disabled) :=
  answers_of_keeps h hexec hact

theorem traceStart_answers {base : DWord} {size : Nat} {wrap : Bool} (h : Serving s mbx (.traceStart q base size wrap)) :
    let c := Instr.traceStart q base size wrap
    (s.dev.traceEn = false → Answers c s s mbx [] (some .disabled)) ∧
      (s.dev.traceEn = true → ((s.part q).defined = false ∨ rangeBad base size = true → Answers c s s mbx [] (some .range)) ∧
        ((s.part q).defined = true → rangeBad base size = false → ((s.part q).trace.on = true → Answers c s s mbx [] (some .busy)) ∧
          ((s.part q).trace.on = false → (rangeFree s q base size = false → Answers c s s mbx [] (some .quota)) ∧
            (rangeFree s q base size = true →
              Answers c s (s.onPart q fun y => { y with trace := traceOn base size wrap y.trace }) mbx [] none)))) := by
  dsimp only
  have hdev : (lineTaken s).dev = s.dev := rfl
  have hpart : (lineTaken s).part q = s.part q := rfl
  have hexec : exec (.traceStart q base size wrap) s = .next (serve (.traceStart q base size wrap) (fun s =>
      if !s.dev.traceEn then (s, failing .disabled)
      else if !(s.part q).defined || rangeBad base size then (s, failing .range)
      else if (s.part q).trace.on then (s, failing .busy)
      else if !rangeFree s q base size then (s, failing .quota)
      else (s.onPart q fun y => { y with trace := traceOn base size wrap y.trace }, fine [])) s) := rfl
  refine ⟨fun he => answers_of_keeps h hexec ?_, fun he => ⟨fun hbad => answers_of_keeps h hexec ?_, fun hd hr =>
    ⟨fun ho => answers_of_keeps h hexec ?_, fun ho => ⟨fun hf => answers_of_keeps h hexec ?_, fun hf => answers_of_act h hexec ?_ h.1⟩⟩⟩⟩
  · simp only [hdev, he]
    rfl
  · have hbad : (!(s.part q).defined || rangeBad base size) = true := by simpa using hbad
    simp only [hdev, he, hpart, hbad]
    rfl
  · simp only [hdev, he, hpart, hd, hr, ho]
    rfl
  · simp only [hdev, he, hpart, hd, hr, ho, rangeFree_lineTaken, hf]
    rfl
  · simp only [hdev, he, hpart, hd, hr, ho, rangeFree_lineTaken, hf]
    rfl

theorem traceStop_answers (h : Serving s mbx (.traceStop q)) : (s.dev.traceEn = false → Answers (.traceStop q) s s mbx [] (some .disabled)) ∧
    (s.dev.traceEn = true → ((s.part q).trace.on = false → Answers (.traceStop q) s s mbx [] (some .state)) ∧
      ((s.part q).trace.on = true →
        Answers (.traceStop q) s (s.onPart q fun y => { y with trace := { y.trace with stopping := true } }) mbx [] none)) := by
  have hdev : (lineTaken s).dev = s.dev := rfl
  have hpart : (lineTaken s).part q = s.part q := rfl
  refine ⟨fun he => answers_of_keeps h rfl ?_, fun he => ⟨fun ho => answers_of_keeps h rfl ?_, fun ho => answers_of_act h rfl ?_ h.1⟩⟩
  · simp only [hdev, he]
    rfl
  · simp only [hdev, he, hpart, ho]
    rfl
  · simp only [hdev, he, hpart, ho]
    rfl

theorem traceStatus_answers (h : Serving s mbx (.traceStatus q)) :
    (s.dev.traceEn = false → Answers (.traceStatus q) s s mbx [] (some .disabled)) ∧
      (s.dev.traceEn = true → ∃ body, Answers (.traceStatus q) s s mbx body none ∧ body.length = 6) := by
  have hdev : (lineTaken s).dev = s.dev := rfl
  refine ⟨fun he => answers_of_keeps h rfl ?_, fun he => ?_⟩
  · simp only [hdev, he]
    rfl
  · let x := (s.part q).trace
    refine ⟨[shown "CTL" 8 (traceReg x 0x00), shown "SIZE" 8 (traceReg x 0x04), shown "BASE" 16 x.base.toNat,
      shown "WPTR" 8 x.wptr.toNat, shown "LOST" 8 x.lost.toNat, shown "SEQ" 8 x.seq.toNat], answers_of_keeps h rfl ?_, rfl⟩
    simp only [hdev, he]
    rfl

theorem exec_traceDrained : exec (.traceDrained q) s = .next (if (s.part q).trace.stopping && !traceBuffered s q then
    s.onPart q fun x => { x with trace := { x.trace with on := false, stopping := false } } else s) := rfl

/-! ### CUT (R465 to R468) -/

theorem cutList_answers (h : Serving s mbx (.cutList q)) : (s.dev.cuttingEn = false → Answers (.cutList q) s s mbx [] (some .disabled)) ∧
    (s.dev.cuttingEn = true → ∃ body, Answers (.cutList q) s s mbx body none ∧ body.length = 16) := by
  have hdev : (lineTaken s).dev = s.dev := rfl
  refine ⟨fun he => answers_of_keeps h rfl ?_, fun he => ⟨(List.finRange 16).map (cutLine (s.part q)), answers_of_keeps h rfl ?_, ?_⟩⟩
  · simp only [hdev, he]
    rfl
  · simp only [hdev, he]
    rfl
  · rw [List.length_map, List.length_finRange]

theorem cutGet_answers {i off len : Nat} (h : Serving s mbx (.cutGet q i off len)) :
    let c := Instr.cutGet q i off len
    (s.dev.cuttingEn = false → Answers c s s mbx [] (some .disabled)) ∧
      (s.dev.cuttingEn = true → (16 ≤ i ∨ len = 0 ∨ 1024 < len → Answers c s s mbx [] (some .range)) ∧
        ∀ k : Fin 16, k.val = i → 0 < len → len ≤ 1024 → (((s.part q).cuts[k]).state = 0 → Answers c s s mbx [] (some .state)) ∧
          (((s.part q).cuts[k]).state ≠ 0 → (((s.part q).cuts[k]).size < off + len → Answers c s s mbx [] (some .range)) ∧
            (off + len ≤ ((s.part q).cuts[k]).size → ∀ u bs,
              devRead q (((s.part q).cuts[k]).base.toNat + off) len 0 [] (lineTaken s) = (u, .ok bs) → u.pins = s.pins →
              u.monitor.lines = [] → Answers c s u mbx (hexLines bs) none))) := by
  dsimp only
  have hdev : (lineTaken s).dev = s.dev := rfl
  have hpart : (lineTaken s).part q = s.part q := rfl
  refine ⟨fun he => answers_of_keeps h rfl ?_, fun he => ⟨fun hbad => answers_of_keeps h rfl ?_, fun k hk h0 h1 => ?_⟩⟩
  · simp only [hdev, he]
    rfl
  · have hbad : (decide (16 ≤ i) || decide (len = 0) || decide (1024 < len)) = true := by simpa [or_assoc] using hbad
    simp only [hdev, he, hbad]
    rfl
  · have hi : Fin.ofNat 16 i = k := Fin.ext (by rw [Fin.val_ofNat, ← hk]; exact Nat.mod_eq_of_lt k.isLt)
    have hok : (decide (16 ≤ i) || decide (len = 0) || decide (1024 < len)) = false := by
      have := k.isLt
      simp only [Bool.or_eq_false_iff, decide_eq_false_iff_not]
      omega
    refine ⟨fun hs => answers_of_keeps h rfl ?_, fun hs => ⟨fun hn => answers_of_keeps h rfl ?_, fun hn u bs hr hp hl => ?_⟩⟩
    · simp only [hdev, he, hok, hpart, hi, hs]
      rfl
    · simp only [hdev, he, hok, hpart, hi, if_neg hs, if_pos hn]
      rfl
    · have hu : lineTaken u = u := by rw [lineTaken, ← hl]
      refine answers_of_act h rfl ?_ ((congrArg Pins.fifo hp).trans h.1)
      simp only [hdev, he, hok, hpart, hi, if_neg hs, if_neg (not_lt.2 hn), hr, hu]
      rfl

theorem cutDrop_answers {i : Nat} (h : Serving s mbx (.cutDrop q i)) :
    let c := Instr.cutDrop q i
    (s.dev.cuttingEn = false → Answers c s s mbx [] (some .disabled)) ∧
      (s.dev.cuttingEn = true → (16 ≤ i → Answers c s s mbx [] (some .range)) ∧
        ∀ k : Fin 16, k.val = i → (((s.part q).cuts[k]).state = 0 → Answers c s s mbx [] (some .state)) ∧
          (((s.part q).cuts[k]).state ≠ 0 →
            (captureRuns s q i = false → Answers c s (onCut q k (fun _ => Cutting.reset) s) mbx [] none) ∧
            (captureRuns s q i = true → Answers c s (onCut q k (fun y => { y with dropAfter := true }) s) mbx [] none))) := by
  dsimp only
  have hdev : (lineTaken s).dev = s.dev := rfl
  have hpart : (lineTaken s).part q = s.part q := rfl
  refine ⟨fun he => answers_of_keeps h rfl ?_, fun he => ⟨fun hbad => answers_of_keeps h rfl ?_, fun k hk => ?_⟩⟩
  · simp only [hdev, he]
    rfl
  · simp only [hdev, he, if_pos hbad]
    rfl
  · have hi : Fin.ofNat 16 i = k := Fin.ext (by rw [Fin.val_ofNat, ← hk]; exact Nat.mod_eq_of_lt k.isLt)
    have hlt : ¬ 16 ≤ i := by have := k.isLt; omega
    refine ⟨fun hs => answers_of_keeps h rfl ?_, fun hs => ⟨fun hr => answers_of_act h rfl ?_ h.1, fun hr => answers_of_act h rfl ?_ h.1⟩⟩
    · simp only [hdev, he, if_neg hlt, hpart, hi, hs]
      rfl
    · simp only [hdev, he, if_neg hlt, hpart, hi, if_neg hs, captureRuns_lineTaken, hr]
      rfl
    · simp only [hdev, he, if_neg hlt, hpart, hi, if_neg hs, captureRuns_lineTaken, hr]
      rfl

theorem find?_finRange {n : Nat} {f : Fin n → Bool} {k : Fin n} (hk : f k = true) (hlow : ∀ i < k, f i = false) :
    (List.finRange n).find? f = some k := by
  rw [List.find?_eq_some_iff_getElem]
  refine ⟨hk, k.val, by simp, by simp, fun j hj => ?_⟩
  have := hlow ⟨j, hj.trans k.isLt⟩ hj
  simpa using this

/-- A cutting that waits for its operator. -/
def cutArmed (job : Word) (layer oper : BitVec 16) (pass : Nat) (base : DWord) (size cost energy : Nat) : Cutting :=
  { state := 1, trunc := false, pieces := 0, job := job, layer := layer, oper := oper, pass := pass, base := base, size := size, wptr := 0,
    cost := cost, energy := energy, dropAfter := false }

theorem cutArm_answers {job : Word} {layer oper : BitVec 16} {pass size cost energy : Nat} {base : DWord}
    (h : Serving s mbx (.cutArm q job layer oper pass base size 0 0)) :
    let c := Instr.cutArm q job layer oper pass base size cost energy
    (s.dev.cuttingEn = false → Answers c s s mbx [] (some .disabled)) ∧
      ∀ k : Fin 16, s.dev.cuttingEn = true → ((s.part q).cuts[k]).state = 0 → (∀ i : Fin 16, i < k → ((s.part q).cuts[i]).state ≠ 0) →
        ((s.part q).defined = false ∨ rangeBad base size = true ∨ pass = 0 ∨ 4096 < pass → Answers c s s mbx [] (some .range)) ∧
        ((s.part q).defined = true → rangeBad base size = false → 0 < pass → pass ≤ 4096 →
          (rangeFree s q base size = false → Answers c s s mbx [] (some .quota)) ∧
          (rangeFree s q base size = true →
            let armed := onCut q k (fun _ => cutArmed job layer oper pass base size cost energy) s
            ((∀ j ∈ (s.part q).jobs, j.id = job → jobLive j = false) → Answers c s armed mbx [shown "CUT" 1 k.val] none) ∧
            ∀ j, (s.part q).jobs.find? (fun j => j.id = job && jobLive j) = some j →
              (∀ e, armRefused s q j pass cost = some e → Answers c s s mbx [] (some e)) ∧
              (armRefused s q j pass cost = none → Answers c s (onJob q job (fun j =>
                { j with extra := j.extra + cost, wc := j.wc + cost, energy := j.energy + energy }) armed) mbx
                  [shown "CUT" 1 k.val] none))) := by
  dsimp only
  have hdev : (lineTaken s).dev = s.dev := rfl
  have hpart : (lineTaken s).part q = s.part q := rfl
  refine ⟨fun he => answers_of_keeps h rfl ?_, fun k he hk hlow => ?_⟩
  · dsimp only
    split <;> simp only [hdev, he] <;> rfl
  · have hfree : (List.finRange 16).find? (fun c => decide (((s.part q).cuts[c]).state = 0)) = some k :=
      find?_finRange (decide_eq_true hk) fun i hi => decide_eq_false (hlow i hi)
    refine ⟨fun hbad => answers_of_keeps h rfl ?_, fun hd hr h0 h1 => ?_⟩
    · have hbad : (!(s.part q).defined || rangeBad base size || decide (pass = 0) || decide (4096 < pass)) = true := by
        simpa [or_assoc] using hbad
      simp only [hdev, he, hpart, hfree, hbad]
      rfl
    · have hok : (!(s.part q).defined || rangeBad base size || decide (pass = 0) || decide (4096 < pass)) = false := by
        rw [hd, hr, decide_eq_false (by omega), decide_eq_false (by omega)]
        rfl
      refine ⟨fun hf => answers_of_keeps h rfl ?_, fun hf => ⟨fun hnone => answers_of_act h rfl ?_ h.1, fun j hj =>
        ⟨fun e hrefused => answers_of_keeps h rfl ?_, fun hrefused => answers_of_act h rfl ?_ h.1⟩⟩⟩
      · simp only [hdev, he, hpart, hfree, hok, rangeFree_lineTaken, hf]
        rfl
      · have hnone : (s.part q).jobs.find? (fun j => decide (j.id = job) && jobLive j) = none := List.find?_eq_none.2 fun j hj hjob => by
          obtain ⟨hid, hlive⟩ := Bool.and_eq_true_iff.1 hjob
          rw [hnone j hj (of_decide_eq_true hid)] at hlive
          exact Bool.false_ne_true hlive
        simp only [hdev, he, hpart, hfree, hok, rangeFree_lineTaken, hf, hnone, Option.bind_none]
        rfl
      · simp only [hdev, he, hpart, hfree, hok, rangeFree_lineTaken, hf, hj, Option.bind_some, armRefused_lineTaken, hrefused]
        rfl
      · simp only [hdev, he, hpart, hfree, hok, rangeFree_lineTaken, hf, hj, Option.bind_some, armRefused_lineTaken, hrefused]
        rfl

/-! ### PERF (R469, R470) -/

theorem writePerfSel_one (i : Fin 4) (event : Byte) (x : Plot) : writePerfSel (2 ^ i.val) (event.toNat * 256 ^ i.val) x =
    { x with
      perfSel := x.perfSel.set i.val (eventCode 8 event.toNat) i.isLt
      perf := x.perf.set i.val Perf.reset i.isLt } := by
  have hhit : ∀ k : Fin 4, (2 ^ i.val).testBit k.val = (k == i) := fun k => by
    rw [Nat.testBit_two_pow]
    exact Bool.eq_iff_iff.2 (by rw [decide_eq_true_eq, beq_iff_eq, Fin.ext_iff, eq_comm])
  have hevent : event.toNat * 256 ^ i.val / 256 ^ i.val % 256 = event.toNat := by
    rw [Nat.mul_div_cancel _ (Nat.pow_pos (by decide))]
    exact Nat.mod_eq_of_lt event.isLt
  have hset : ∀ {α : Type} (v : Vector α 4) (f : Fin 4 → α) (y : α), f i = y →
      (Vector.ofFn fun k => bif k == i then f k else v[k]) = v.set i.val y i.isLt :=
    fun v f y hy => by
      refine Vector.ext fun k hk => ?_
      rw [Vector.getElem_ofFn, Vector.getElem_set]
      by_cases hki : i.val = k
      · subst hki
        simp [hy]
      · have hne : ((⟨k, hk⟩ : Fin 4) == i) = false := beq_false_of_ne fun h => hki (congrArg Fin.val h).symm
        rw [if_neg hki, hne]
        rfl
  simp only [writePerfSel, hhit]
  rw [hset x.perfSel (fun k => eventCode 8 (event.toNat * 256 ^ i.val / 256 ^ k.val % 256)) (eventCode 8 event.toNat) (by rw [hevent]),
    hset x.perf (fun _ => Perf.reset) Perf.reset rfl]

/-- The word of a select field: the event, the partition, and whether all are counted. -/
theorem selWord_fields (e : Byte) {k a : Nat} (hk : k < 16) (ha : a < 2) : let w := pack [(8, e.toNat), (4, k), (1, a)]
    w % 256 = e.toNat ∧ w / 256 % 16 = k ∧ w.testBit 12 = decide (a = 1) ∧ w < 2 ^ 32 := by
  have he := e.isLt
  have hw : pack [(8, e.toNat), (4, k), (1, a)] = e.toNat + 256 * (k + 16 * a) := by
    simp only [pack]
    omega
  dsimp only
  rw [hw]
  refine ⟨by omega, by omega, ?_, by omega⟩
  rw [Nat.testBit_eq_decide_div_mod_eq]
  exact decide_eq_decide.2 (by omega)

theorem writeCisPerf_select (i : Fin 8) (e : Byte) {k a : Nat} (hk : k < 16) (ha : a < 2) (x : Cistern) :
    writeCisPerf (0xC00 + 4 * i.val) 15 (pack [(8, e.toNat), (4, k), (1, a)]) x =
      { x with
        perfSel := x.perfSel.set i.val { event := eventCode 0xA e.toNat, part := BitVec.ofNat 4 k, all := decide (a = 1) } i.isLt
        perf := x.perf.set i.val Perf.reset i.isLt } := by
  obtain ⟨hevent, hpart, hall, hlt⟩ := selWord_fields e hk ha
  have hpart' : BitVec.ofNat 4 (pack [(8, e.toNat), (4, k), (1, a)] / 256) = BitVec.ofNat 4 k := by
    refine BitVec.eq_of_toNat_eq ?_
    rw [BitVec.toNat_ofNat, BitVec.toNat_ofNat, Nat.mod_eq_of_lt hk]
    exact hpart
  unfold writeCisPerf
  rw [arr_at (by decide) i]
  simp only [mergeWord_all _ hlt, hevent, hpart', hall]

theorem perfUnit_plot (n : PlotIx) : perfUnit n.val = some (.inl n) := by
  rw [perfUnit, if_pos n.isLt]
  exact congrArg (fun k => some (Sum.inl k)) (Fin.ext (Nat.mod_eq_of_lt n.isLt))

theorem perfUnit_cistern (n : CisIx) : perfUnit (128 + n.val) = some (.inr n) := by
  have := n.isLt
  rw [perfUnit, if_neg (by omega), if_pos (by omega)]
  exact congrArg (fun k => some (Sum.inr k)) (Fin.ext (by rw [Fin.val_ofNat]; omega))

theorem perfUnit_of_beyond {unit : Nat} (h : 130 ≤ unit) : perfUnit unit = none := by
  rw [perfUnit, if_neg (by omega), if_neg (by omega)]

theorem perfClear_answers {unit : Nat} (h : Serving s mbx (.perfClear unit)) :
    let c := Instr.perfClear unit
    (s.dev.perfEn = false → Answers c s s mbx [] (some .disabled)) ∧
      (s.dev.perfEn = true → (130 ≤ unit → Answers c s s mbx [] (some .range)) ∧
        (∀ n : PlotIx, unit = n.val → Answers c s (s.onPlot n fun y => { y with perf := Vector.replicate 4 Perf.reset }) mbx [] none) ∧
        ∀ n : CisIx, unit = 128 + n.val → Answers c s (s.onCis n fun y => { y with perf := Vector.replicate 8 Perf.reset }) mbx [] none) := by
  dsimp only
  have hdev : (lineTaken s).dev = s.dev := rfl
  refine ⟨fun he => answers_of_keeps h rfl ?_, fun he => ⟨fun hu => answers_of_keeps h rfl ?_, fun n hn => answers_of_act h rfl ?_ h.1,
    fun n hn => answers_of_act h rfl ?_ h.1⟩⟩
  · simp only [hdev, he]
    rfl
  · simp only [hdev, he, perfUnit_of_beyond hu]
    rfl
  · simp only [hdev, he, hn, perfUnit_plot]
    rfl
  · simp only [hdev, he, hn, perfUnit_cistern]
    rfl

/-- A select field of a plot written. -/
def plotSelected (n : PlotIx) (i : Fin 4) (event : Byte) (s : State) : State := s.onPlot n fun x =>
  { x with
    perfSel := x.perfSel.set i.val (eventCode 8 event.toNat) i.isLt
    perf := x.perf.set i.val Perf.reset i.isLt }

/-- A select field of a cistern written. -/
def cisSelected (n : CisIx) (i : Fin 8) (event : Byte) (p : Option PartIx) (s : State) : State := s.onCis n fun x =>
  { x with
    perfSel := x.perfSel.set i.val
      { event := eventCode 0xA event.toNat, part := BitVec.ofNat 4 ((p.map (·.val)).getD 0), all := p.isNone } i.isLt
    perf := x.perf.set i.val Perf.reset i.isLt }

theorem perfSelect_answers {unit counter : Nat} {event : Byte} {p : Option PartIx} (h : Serving s mbx (.perfSelect unit counter event p)) :
    let c := Instr.perfSelect unit counter event p
    (s.dev.perfEn = false → Answers c s s mbx [] (some .disabled)) ∧
      (s.dev.perfEn = true →
        (130 ≤ unit ∨ (unit < 128 ∧ 4 ≤ counter) ∨ 8 ≤ counter → Answers c s s mbx [] (some .range)) ∧
        (∀ (n : PlotIx) (i : Fin 4), unit = n.val → counter = i.val → Answers c s (plotSelected n i event s) mbx [] none) ∧
        ∀ (n : CisIx) (i : Fin 8), unit = 128 + n.val → counter = i.val → Answers c s (cisSelected n i event p s) mbx [] none) := by
  dsimp only
  have hdev : (lineTaken s).dev = s.dev := rfl
  refine ⟨fun he => answers_of_keeps h rfl ?_, fun he => ⟨fun hbad => answers_of_keeps h rfl ?_,
    fun n i hn hi => answers_of_act h rfl ?_ h.1, fun n i hn hi => answers_of_act h rfl ?_ h.1⟩⟩
  · simp only [hdev, he]
    rfl
  · by_cases h130 : 130 ≤ unit
    · simp only [hdev, he, perfUnit_of_beyond h130]
      rfl
    · by_cases h128 : unit < 128
      · have hunit : perfUnit unit = some (.inl ⟨unit, h128⟩) := perfUnit_plot ⟨unit, h128⟩
        have h4 : 4 ≤ counter := by omega
        simp only [hdev, he, hunit, if_pos h4]
        rfl
      · have hunit : perfUnit (128 + (unit - 128)) = some (.inr ⟨unit - 128, by omega⟩) := perfUnit_cistern ⟨unit - 128, by omega⟩
        rw [Nat.add_sub_cancel' (by omega)] at hunit
        have h8 : 8 ≤ counter := by omega
        simp only [hdev, he, hunit, if_pos h8]
        rfl
  · have h4 : ¬ 4 ≤ i.val := by have := i.isLt; omega
    simp only [hdev, he, hn, hi, perfUnit_plot, if_neg h4]
    have hsel : writePerfSel (2 ^ i.val) (event.toNat * 256 ^ i.val) = fun x => { x with
        perfSel := x.perfSel.set i.val (eventCode 8 event.toNat) i.isLt
        perf := x.perf.set i.val Perf.reset i.isLt } := funext fun x => writePerfSel_one i event x
    rw [hsel]
    rfl
  · have h8 : ¬ 8 ≤ i.val := by have := i.isLt; omega
    have hk : (p.map (·.val)).getD 0 < 16 := by
      cases p with
      | none => decide
      | some q => exact q.isLt
    have hall : decide (p.isNone.toNat = 1) = p.isNone := by cases p <;> rfl
    have hsel : writeCisPerf (0xC00 + 4 * i.val) 15 (pack [(8, event.toNat), (4, (p.map (·.val)).getD 0), (1, p.isNone.toNat)]) = fun x =>
        { x with
          perfSel := x.perfSel.set i.val
            { event := eventCode 0xA event.toNat, part := BitVec.ofNat 4 ((p.map (·.val)).getD 0), all := p.isNone } i.isLt
          perf := x.perf.set i.val Perf.reset i.isLt } :=
      funext fun x => by rw [writeCisPerf_select i event hk p.isNone.toNat_lt, hall]
    simp only [hdev, he, hn, hi, perfUnit_cistern, if_neg h8]
    rw [hsel]
    rfl

end

/-! ### Captures that complete (R466) -/

section
variable {s : State} {p : PlotIx} {k : Capture} {c : Fin 16} {x : Piece}

/-- Bytes that a piece takes of its cutting. -/
def pieceBytes (x : Piece) : Nat := 64 + roundUp (x.rows.map (·.2)).sum 64

theorem onCut_cuts (q : PartIx) (c : Fin 16) (f : Cutting → Cutting) (s : State) :
    ((onCut q c f s).part q).cuts = (s.part q).cuts.set c.val (f (s.part q).cuts[c]) c.isLt := by
  rw [onCut, State.onPart_part]

theorem onCut_cut (q : PartIx) (c : Fin 16) (f : Cutting → Cutting) (s : State) :
    ((onCut q c f s).part q).cuts[c] = f (s.part q).cuts[c] := by
  rw [onCut_cuts]
  exact Vector.getElem_set_self c.isLt

/-- A piece in its cutting, or the mark that it did not fit. -/
theorem putPiece_cut (p : PlotIx) (k : Capture) (c : Fin 16) (s : State) (x : Piece) : ((putPiece p k c s x).part k.part).cuts[c] =
    if ((s.part k.part).cuts[c]).size < ((s.part k.part).cuts[c]).wptr + pieceBytes x then
      { (s.part k.part).cuts[c] with trunc := true }
    else { (s.part k.part).cuts[c] with
      wptr := ((s.part k.part).cuts[c]).wptr + pieceBytes x, pieces := satAdd ((s.part k.part).cuts[c]).pieces 1 } := by
  unfold putPiece
  dsimp only
  rw [← pieceBytes]
  split
  · exact onCut_cut ..
  · have hkeep : ∀ (bs : List Byte) (a e : Nat) u, (routedWrite k.part (some (bedOf p)) a 0 e bs u).1.part k.part = u.part k.part :=
      fun bs a e u => routedWrite_keeps (g := fun u : State => u.part k.part) (fun _ _ _ => by rfl) (fun _ _ => by rfl)
        (fun _ _ _ => by rfl) (fun _ _ _ => by rfl) (cisPerfAdd_keeps_view (g := fun u : State => u.part k.part)
          (fun _ _ _ => by rfl) fun _ _ _ => by rfl) ..
    have hdata : (pieceData s k.part x).1.part k.part = s.part k.part := pieceData_keeps (g := fun u : State => u.part k.part)
      (fun _ _ _ => by rfl) (fun _ _ => by rfl) (fun _ _ _ _ => by rfl) (fun _ _ => by rfl) ..
    rw [onCut_cut, hkeep, hdata]

/-- One piece into one cutting that nobody drops. -/
theorem captureOver_cut (hc : k.cuts = [c]) (hx : resultPieces p k.desc = [x]) (hd : ((s.part k.part).cuts[c]).dropAfter = false) :
    ((captureOver p k (piecesPut p k s)).part k.part).cuts[c] = ((putPiece p k c s x).part k.part).cuts[c] := by
  have hput : piecesPut p k s = putPiece p k c s x := by
    rw [piecesPut, hc, hx]
    rfl
  have hkept : (((putPiece p k c s x).part k.part).cuts[c]).dropAfter = false := by
    rw [putPiece_cut]
    split <;> exact hd
  have hover : captureOver p k (piecesPut p k s) = onCut k.part c (fun y => if y.dropAfter then Cutting.reset else y)
      ((piecesPut p k s).onPlot p fun x => { x with capture := none }) := by
    rw [captureOver, hc]
    rfl
  rw [hover, hput, onCut_cut]
  change (if (((putPiece p k c s x).part k.part).cuts[c]).dropAfter then Cutting.reset else _) = _
  rw [hkept]
  rfl

theorem step11_parts (l : Lane) (d : BitVec 1024) (e : Ended) (s : State) : (step11 p l d e s).parts = s.parts := by
  unfold step11
  split
  · dsimp only
    split <;> rfl
  · rfl

theorem exec_captureComplete : exec (.captureComplete p) s = .next (match (s.plot p).capture with
    | none => s
    | some k =>
      if holdActive s || (s.plot p).move.run.isSome then s
      else step11 p .compute k.desc (capturedEnd k) (captureOver p k (piecesPut p k s))) := rfl

end

/-- Settles O59: each command of traces, cuttings and counters with its answers, and the captures. The answers are entry 106 of the
assumption log, the completion of a capture entry 107, the unit numbers entry 112. -/
theorem tracesCutsAndCounters : Obligations.TracesCutsAndCounters := by
  refine ⟨fun s mbx q => ⟨fun base size wrap h => traceStart_answers h, fun n m k => ⟨fun he => ?_, fun he => ?_, fun he h => ?_⟩,
    fun h => (traceStop_answers h).2, fun h => (traceStatus_answers h).2, fun hs hb => ?_, fun hs => ?_,
    fun job layer oper pass base size cost energy h => cutArm_answers h, fun h => (cutList_answers h).2,
    fun i off len h => (cutGet_answers h).2, fun i h => (cutDrop_answers h).2, fun unit counter event p h => ?_,
    fun unit h => (perfClear_answers h).2⟩, fun s p => ⟨fun hk => ?_, fun k hk => ⟨fun h => ?_, fun hh hm => ?_⟩⟩⟩
  · simp only [List.forall_mem_cons, List.not_mem_nil, false_implies, implies_true, and_true]
    exact ⟨fun h => (traceStop_answers h).1 he, fun h => (traceStatus_answers h).1 he⟩
  · simp only [List.forall_mem_cons, List.not_mem_nil, false_implies, implies_true, and_true]
    exact ⟨fun h => (cutList_answers h).1 he, fun h => (cutGet_answers h).1 he, fun h => (cutDrop_answers h).1 he⟩
  · exact (perfClear_answers h).1 he
  · rw [exec_traceDrained, hs, hb]
    rfl
  · rw [exec_traceDrained, if_neg]
    obtain h | h := hs <;> simp [h]
  · obtain ⟨hoff, hon⟩ := perfSelect_answers h
    refine ⟨hoff, fun he => ⟨(hon he).1, fun n i hn hi => ?_, fun n i hn hi => ?_⟩⟩
    · obtain ⟨-, hplot, -⟩ := hon he
      have hsel : (plotSelected n i event s).plot n = _ := State.onPlot_plot ..
      exact ⟨plotSelected n i event s, hplot n i hn hi, rfl, congrArg Plot.perfSel hsel, congrArg Plot.perf hsel,
        fun m hm => State.onPlot_plot_ne _ _ hm⟩
    · obtain ⟨-, -, hcis⟩ := hon he
      have hsel : (cisSelected n i event p s).cistern n = _ := State.onCis_cistern ..
      have hfield : ((cisSelected n i event p s).cistern n).perfSel[i] =
          { event := eventCode 0xA event.toNat, part := BitVec.ofNat 4 ((p.map (·.val)).getD 0), all := p.isNone } := by
        rw [hsel]
        exact Vector.getElem_set_self i.isLt
      have hpart : ((p.map (·.val)).getD 0) < 16 := by
        cases p with
        | none => decide
        | some q => exact q.isLt
      refine ⟨cisSelected n i event p s, hcis n i hn hi, rfl, rfl, congrArg PerfSel.event hfield, congrArg PerfSel.all hfield, ?_,
        congrArg Cistern.perf hsel⟩
      rw [hfield]
      exact Nat.mod_eq_of_lt hpart
  · rw [exec_captureComplete, hk]
  · rw [exec_captureComplete, hk]
    exact congrArg Outcome.next (if_pos (by simpa using h))
  · obtain ⟨hcapture, -⟩ := captureOver_leaves p k (piecesPut p k s)
    refine ⟨_, exec_captureComplete_of_free hk hh hm, (step11_capture ..).trans hcapture, fun c x hc hx hd => ?_⟩
    have hcut := (captureOver_cut hc hx hd).trans (putPiece_cut p k c s x)
    have hstep := congrArg (fun v : Vector Part 16 => (v[k.part]).cuts[c])
      (step11_parts (p := p) .compute k.desc (capturedEnd k) (captureOver p k (piecesPut p k s)))
    exact ⟨fun hfit => (hstep.trans hcut).trans (if_neg (not_lt.2 hfit)), fun hfull => (hstep.trans hcut).trans (if_pos hfull)⟩

end Sys2Proof.Machine
end

section
/-! Stake pins, the UART and the management SPI (R444 to R454). The phases of pins, BEAT and the UART's waiting characters are entry 104
of the assumption log. -/

namespace Sys2Proof.Machine

open Host

section
variable {s : State}

/-! ### Stake pins (R444 to R446) -/

theorem all_set_ne_park_iff {v : Vector PinPhase 8} {pin : Fin 8} {ph : PinPhase} (hph : ph ≠ .park) :
    (v.set pin.val ph pin.isLt).all (· ≠ .park) = true ↔ ∀ k : Fin 8, k ≠ pin → v[k] ≠ .park := by
  simp only [Vector.all_eq_true, decide_eq_true_eq]
  constructor
  · intro h k hk
    have := h k.val k.isLt
    rwa [Vector.getElem_set_ne _ _ fun he => hk (Fin.ext he.symm)] at this
  · intro h k hk
    by_cases he : pin.val = k
    · subst he
      rwa [Vector.getElem_set_self]
    · rw [Vector.getElem_set_ne _ _ he]
      exact h ⟨k, hk⟩ fun hp => he (congrArg Fin.val hp).symm

theorem pinFor_of_le {pin : Fin 8} {ns : Nat} (h : ns ≤ (s.time - s.pins.pinAt[pin]).toNat) : pinFor s pin ns = true :=
  decide_eq_true h

theorem pinFor_of_lt {pin : Fin 8} {ns : Nat} (h : (s.time - s.pins.pinAt[pin]).toNat < ns) : pinFor s pin ns = false :=
  decide_eq_false (Nat.not_le.2 h)

theorem exec_parkEnd_of_due {pin : Fin 8} (hpark : s.pins.pins[pin] = .park) (hphase : 2 ≤ s.pins.phase.toNat)
    (hdue : 2000 ≤ (s.time - s.pins.pinAt[pin]).toNat) :
    ∃ t, exec (.parkEnd pin) s = .next t ∧ t.mem = s.mem ∧ t.fence = s.fence ∧
      t.pins.pins = s.pins.pins.set pin.val (if pinListens s pin then .blank else .run) pin.isLt ∧
      t.pins.phase = if ∀ k : Fin 8, k ≠ pin → s.pins.pins[k] ≠ .park then 3 else s.pins.phase := by
  have hnew : (if pinListens s pin then PinPhase.blank else .run) ≠ .park := by split <;> decide
  have hcond : (decide (s.pins.phase.toNat < 2) || decide (s.pins.pins[pin] ≠ .park) || !pinFor s pin 2000) = false := by
    rw [pinFor_of_le hdue, hpark, decide_eq_false (Nat.not_lt.2 hphase)]
    rfl
  have hcond' := Bool.eq_false_iff.1 hcond
  by_cases hlast : ∀ k : Fin 8, k ≠ pin → s.pins.pins[k] ≠ .park
  · refine ⟨_, congrArg Outcome.next ((if_neg hcond').trans (if_pos ((all_set_ne_park_iff hnew).2 hlast))), ?_⟩
    rw [if_pos hlast]
    exact ⟨rfl, rfl, rfl, rfl⟩
  · refine ⟨_, congrArg Outcome.next ((if_neg hcond').trans (if_neg fun h => hlast ((all_set_ne_park_iff hnew).1 h))), ?_⟩
    rw [if_neg hlast]
    exact ⟨rfl, rfl, rfl, rfl⟩

theorem exec_parkEnd_of_not_due {pin : Fin 8} (h : s.pins.pins[pin] ≠ .park ∨ (s.time - s.pins.pinAt[pin]).toNat < 2000) :
    exec (.parkEnd pin) s = .next s := by
  refine congrArg Outcome.next (if_pos ?_)
  rcases h with h | h
  · rw [decide_eq_true h, Bool.or_true, Bool.true_or]
  · rw [pinFor_of_lt h, Bool.not_false, Bool.or_true]

/-- Leaving blanking, a pin runs with the level the board gives it; a low THROTTLE_N applies the pin limit. -/
theorem exec_inputBlankingEnd_of_due {pin : Fin 8} (high : Bool) (hblank : s.pins.pins[pin] = .blank)
    (hdue : 1000 ≤ (s.time - s.pins.pinAt[pin]).toNat) :
    ∃ t, exec (.inputBlankingEnd pin high) s = .next t ∧ t.mem = s.mem ∧
      t.pins.pins = s.pins.pins.set pin.val .run pin.isLt ∧ t.pins.levels.getLsbD pin.val = high ∧
      (pin.val = 3 → high = false → t.fence.throttleLow = true) ∧ (pin.val ≠ 3 ∨ high = true → t.fence = s.fence) := by
  have hcond : ¬ (s.pins.pins[pin] ≠ .blank || !pinFor s pin 1000) = true := by
    rw [pinFor_of_le hdue, hblank]
    decide
  have hlevel : (setLevel pin.val high (setPhase pin .run s)).pins.levels.getLsbD pin.val = high := setLevel_levels ..
  by_cases hlow : pin.val = 3 ∧ high = false
  · have hpins : (throttleLow (setLevel pin.val high (setPhase pin .run s))).pins = (setLevel pin.val high (setPhase pin .run s)).pins :=
      throttleLow_keeps_view (g := State.pins) (fun _ _ => by rfl) (fun _ _ _ => by rfl) (fun _ _ _ => by rfl) _
    refine ⟨_, congrArg Outcome.next ((if_neg hcond).trans (if_pos (by simp [hlow]))),
      throttleLow_keeps_view (g := State.mem) (fun _ _ => by rfl) (fun _ _ _ => by rfl) (fun _ _ _ => by rfl) _,
      congrArg Pins.pins hpins, ?_, fun _ _ => throttleLow_throttleLow _, fun h => ?_⟩
    · rw [hpins]
      exact hlevel
    · rcases h with h | h
      · exact absurd hlow.1 h
      · simp [hlow.2] at h
  · exact ⟨_, congrArg Outcome.next ((if_neg hcond).trans (if_neg (by simpa using hlow))), rfl, rfl, hlevel,
      fun h3 hh => absurd ⟨h3, hh⟩ hlow, fun _ => rfl⟩

/-! ### BEAT -/

theorem coresFree_iff : s.cores.all (fun c => !c.held) = true ↔ ∀ c : CoreIx, (s.core c).held = false := by
  simp only [Vector.all_eq_true, Bool.not_eq_true']
  exact ⟨fun h c => h c.val c.isLt, fun h i hi => h ⟨i, hi⟩⟩

theorem beatCond_iff : (s.cores.all (fun c => !c.held) && decide (500000000 ≤ (s.time - s.pins.beatAt).toNat)) = true ↔
    (∀ c : CoreIx, (s.core c).held = false) ∧ 500000000 ≤ (s.time - s.pins.beatAt).toNat := by
  rw [Bool.and_eq_true, coresFree_iff, decide_eq_true_eq]

/-! ### The UART (R448) -/

/-- A character that arrives whole, where the FIFO has room. -/
theorem exec_uartCharacter_of_room {ch : Byte} (hserves : uartServes s = true)
    (hroom : s.monitor.lines = [] ∨ s.pins.fifo.length < 256) :
    exec (.uartCharacter ch true) s = .next (monitorGoes { s with pins := { s.pins with fifo := s.pins.fifo ++ [ch] } }) := by
  refine congrArg Outcome.next ((if_neg (by simp [hserves])).trans ((if_neg (by decide)).trans (if_neg ?_)))
  rcases hroom with h | h
  · simp [h]
  · simp [h]

theorem exec_uartCharacter_of_line {ch : Byte} {m : Bool} {l : List Byte} {rest : List (Bool × List Byte)} {c : Instr}
    (hserves : uartServes s = true) (hl : s.monitor.lines = (m, l) :: rest) (hc : parseLine l = .ok c) :
    exec (.uartCharacter ch true) s = .next (if s.pins.fifo.length < 256
      then { s with pins := { s.pins with fifo := s.pins.fifo ++ [ch] } }
      else { s with pins := { s.pins with overflow := satAdd s.pins.overflow 1 } }) := by
  split
  case isTrue hroom =>
    rw [exec_uartCharacter_of_room hserves (.inr hroom)]
    exact congrArg Outcome.next (monitorTurn_of_command (by exact hl) hc)
  case isFalse hfull =>
    refine congrArg Outcome.next ((if_neg (by simp [hserves])).trans ((if_neg (by decide)).trans (if_pos ?_)))
    simp only [hl, List.isEmpty_cons, Bool.not_false, Bool.true_and, decide_eq_true_eq]
    omega

/-- An idle monitor takes a character at once. -/
theorem exec_uartCharacter_of_idle {ch : Byte} (hserves : uartServes s = true) (hl : s.monitor.lines = []) (hf : s.pins.fifo = []) :
    exec (.uartCharacter ch true) s = .next (monitorTurn 2 (takeChar ch s)) := by
  rw [exec_uartCharacter_of_room hserves (.inl hl)]
  have hempty : { s with pins := { s.pins with fifo := [] } } = s := by rw [← hf]
  have hturns : turns { s with pins := { s.pins with fifo := s.pins.fifo ++ [ch] } } = 3 := by simp [turns, hl, hf]
  rw [monitorGoes, hturns]
  simp only [monitorTurn, hl, hf, List.nil_append]
  rw [hempty]

theorem exec_uartCharacter_of_text {ch : Byte} (hserves : uartServes s = true) (hl : s.monitor.lines = []) (hf : s.pins.fifo = [])
    (hcr : ch ≠ 13) (hlf : ch ≠ 10) (hroom : s.pins.uartLine.length < 256) :
    exec (.uartCharacter ch true) s = .next { s with
      pins := { s.pins with uartOut := s.pins.uartOut ++ [ch], uartLine := s.pins.uartLine ++ [ch] } } := by
  have htake : (s.pins.uartLine ++ [ch]).take 256 = s.pins.uartLine ++ [ch] := List.take_of_length_le (by simp; omega)
  rw [exec_uartCharacter_of_idle hserves hl hf, takeChar, if_neg (by simpa only [Bool.or_eq_true, decide_eq_true_eq, not_or] using ⟨hcr, hlf⟩)]
  dsimp only
  rw [htake]
  exact congrArg Outcome.next (monitorTurn_of_idle (by exact hl) (by exact hf) 2)

theorem exec_uartCharacter_of_end {c : Instr} (hserves : uartServes s = true) (hl : s.monitor.lines = []) (hf : s.pins.fifo = [])
    (hline : s.pins.uartLine ≠ []) (hc : parseLine s.pins.uartLine = .ok c) :
    exec (.uartCharacter 13 true) s = .next { s with
      pins := { s.pins with uartOut := s.pins.uartOut ++ [13], uartLine := [] }
      monitor := { s.monitor with lines := [(false, s.pins.uartLine)] } } := by
  rw [exec_uartCharacter_of_idle hserves hl hf, takeChar, if_pos (by decide), if_neg (by simpa using hline)]
  dsimp only
  rw [hl]
  exact congrArg Outcome.next (monitorTurn_of_command rfl hc)

/-! ### The management SPI (R449 to R454) -/

/-- A frame has ended with this result: it is counted, and no memory, no plot, no Fence register and no partition changed. -/
def SpiEnded (s t : State) (result : Nat) : Prop :=
  t.pins.spiResult.toNat = result ∧ t.pins.spiFrames = s.pins.spiFrames + 1 ∧ t.mem = s.mem ∧ t.plots = s.plots ∧
    t.fence.regs = s.fence.regs ∧ t.parts = s.parts

/-- The result of a frame: the least of its codes that is not 0 (R451). -/
def spiResultOf (results : List Nat) : Nat := results.foldl (fun a b => if a = 0 || b < a && b ≠ 0 then b else a) 0

/-- What a word of a frame leaves: the pins' frame count, the memories, the plots, the Fence's registers and the partitions. -/
def SpiKept (s u : State) : Prop :=
  u.pins = s.pins ∧ u.mem = s.mem ∧ u.plots = s.plots ∧ u.fence.regs = s.fence.regs ∧ u.parts = s.parts

theorem SpiKept.refl (s : State) : SpiKept s s := ⟨rfl, rfl, rfl, rfl, rfl⟩

theorem SpiKept.ended {u : State} {results : List Nat} {result : Nat} (h : SpiKept s u) (hr : spiResultOf results = result)
    (hfit : result < 16) (miso : List Word) : SpiEnded s (spiEnd results miso u) result := by
  obtain ⟨hpins, hmem, hplots, hregs, hparts⟩ := h
  refine ⟨?_, congrArg (fun v : Pins => v.spiFrames + 1) hpins, hmem, hplots, hregs, hparts⟩
  change (BitVec.ofNat 4 (spiResultOf results)).toNat = result
  rw [hr, BitVec.toNat_ofNat, Nat.mod_eq_of_lt hfit]

theorem spiRead_keeps (a : Nat) (s : State) : SpiKept s (spiRead a s).1 := by
  unfold spiRead
  split
  · exact .refl s
  · split
    · exact ⟨rfl, rfl, rfl, rfl, rfl⟩
    · exact .refl s
    · exact .refl s

theorem spiReads_keeps (n a : Nat) (s : State) : SpiKept s (spiReads n a s).1 := by
  induction n generalizing a s with
  | zero => exact .refl s
  | succ n ih =>
    obtain ⟨h1, h2, h3, h4, h5⟩ := spiRead_keeps a s
    obtain ⟨g1, g2, g3, g4, g5⟩ := ih (a + 4) (spiRead a s).1
    exact ⟨g1.trans h1, g2.trans h2, g3.trans h3, g4.trans h4, g5.trans h5⟩

theorem bitsOf_low_eq_zero_iff (n : Nat) : bitsOf n 1 0 = 0 ↔ n % 4 = 0 := by
  simp [bitsOf]

theorem spiBad_of_low {cmd : Word} (h : cmd.toNat % 4 ≠ 0) : spiBad cmd = true :=
  decide_eq_true (mt (bitsOf_low_eq_zero_iff _).1 h)

theorem spiBad_of_aligned {cmd : Word} (h : cmd.toNat % 4 = 0) : spiBad cmd = false :=
  decide_eq_false (not_not_intro ((bitsOf_low_eq_zero_iff _).2 h))

theorem spiLength_of_short {n : Nat} {e : SpiEnd} (h : e.words < n) : spiLength n e = some spiPartialRes := if_pos h

theorem spiLength_of_long {n : Nat} {e : SpiEnd} (h : n < e.words) : spiLength n e = some spiOverrunRes := by
  rw [spiLength, if_neg (by omega), if_pos (by simp [h])]

theorem spiLength_of_exact {n : Nat} {e : SpiEnd} (h : e.words = n) (hp : e.partialWord = false) : spiLength n e = none := by
  rw [spiLength, if_neg (by omega), if_neg (by simp [h, hp])]

section
variable {cmd : Word} {e : SpiEnd}

theorem exec_mgtReadFrame_of_bad (hawake : spiAwake s = true) (hread : cmd.getLsbD 31 = false) (hbad : spiBad cmd = true) :
    exec (.mgtReadFrame cmd e) s =
      .next (spiEnd ((spiLength (spiCount cmd + 1) e).toList ++ [spiBadCmd]) [spiStatus s] s) :=
  congrArg Outcome.next ((if_neg (by rw [hawake, hread]; decide)).trans (if_pos hbad))

/-- A word of the frame was not ready to be read. -/
def spiLate (s : State) (cmd : Word) (k : Nat) : Bool := (List.range k).any fun i => spiUnready s (spiAddr cmd + 4 * i)

theorem exec_mgtReadFrame_of_good (hawake : spiAwake s = true) (hread : cmd.getLsbD 31 = false) (hbad : spiBad cmd = false) :
    exec (.mgtReadFrame cmd e) s = .next
      (spiEnd ((spiLength (spiCount cmd + 1) e).toList ++
          if spiLate s cmd (min (spiCount cmd) (e.words - 1)) then [spiNotReady] else [])
        (spiStatus s :: 0 :: (spiReads (min (spiCount cmd) (e.words - 1)) (spiAddr cmd) s).2)
        (spiReads (min (spiCount cmd) (e.words - 1)) (spiAddr cmd) s).1) :=
  congrArg Outcome.next ((if_neg (by rw [hawake, hread]; decide)).trans (if_neg (by simp [hbad])))

theorem exec_mgtWriteFrame_of_good (hawake : spiAwake s = true) (hwrite : cmd.getLsbD 31 = true) (hbad : spiBad cmd = false)
    (data : List Word) : exec (.mgtWriteFrame cmd data e) s = .next
      (spiEnd ((spiLength (spiCount cmd) e).toList ++
          if (spiWrites (data.take (min (spiCount cmd) e.words)) (spiAddr cmd) s).2 then [spiAccess] else [])
        [spiStatus s] (spiWrites (data.take (min (spiCount cmd) e.words)) (spiAddr cmd) s).1) :=
  congrArg Outcome.next ((if_neg (by rw [hawake, hwrite]; decide)).trans (if_neg (by simp [hbad])))

theorem exec_spi_of_asleep (h : spiAwake s = false) : exec (.mgtReadFrame cmd e) s = .next s ∧
    ∀ data, exec (.mgtWriteFrame cmd data e) s = .next s :=
  ⟨congrArg Outcome.next (if_pos (by simp [h])), fun _ => congrArg Outcome.next (if_pos (by simp [h]))⟩

/-! ### Frames that read -/

theorem mgtReadFrame_badCommand (hawake : spiAwake s = true) (hread : cmd.getLsbD 31 = false) (hlow : cmd.toNat % 4 ≠ 0)
    (hlen : e.words = spiCount cmd + 1) (hwhole : e.partialWord = false) :
    ∃ t, exec (.mgtReadFrame cmd e) s = .next t ∧ SpiEnded s t 4 ∧ t.pins.spiMiso = [spiStatus s] ∧
      t.pins.spiRefused = satAdd s.pins.spiRefused 1 := by
  refine ⟨_, exec_mgtReadFrame_of_bad hawake hread (spiBad_of_low hlow), ?_⟩
  rw [spiLength_of_exact hlen hwhole]
  exact ⟨(SpiKept.refl s).ended rfl (by decide) _, rfl, rfl⟩

theorem mgtReadFrame_short (hawake : spiAwake s = true) (hread : cmd.getLsbD 31 = false) (hlow : cmd.toNat % 4 = 0)
    (hlen : e.words < spiCount cmd + 1) :
    ∃ t, exec (.mgtReadFrame cmd e) s = .next t ∧ SpiEnded s t 1 ∧ t.pins.spiPartial = satAdd s.pins.spiPartial 1 := by
  refine ⟨_, exec_mgtReadFrame_of_good hawake hread (spiBad_of_aligned hlow), ?_⟩
  have hkept := spiReads_keeps (min (spiCount cmd) (e.words - 1)) (spiAddr cmd) s
  have hpartial := congrArg Pins.spiPartial hkept.1
  rw [spiLength_of_short hlen]
  split
  · exact ⟨hkept.ended rfl (by decide) _, congrArg (satAdd · 1) hpartial⟩
  · exact ⟨hkept.ended rfl (by decide) _, congrArg (satAdd · 1) hpartial⟩

/-- A frame that reads one word. -/
theorem mgtReadFrame_oneWord {result : Nat} {v : Nat} (hawake : spiAwake s = true) (hread : cmd.getLsbD 31 = false)
    (hlow : cmd.toNat % 4 = 0) (hcount : spiCount cmd = 1) (hlen : e.words = 2) (hwhole : e.partialWord = false)
    (hword : (spiRead (spiAddr cmd) s).2 = BitVec.ofNat 32 v)
    (hresult : (if spiUnready s (spiAddr cmd) then 5 else 0) = result) :
    ∃ t, exec (.mgtReadFrame cmd e) s = .next t ∧ SpiEnded s t result ∧
      t.pins.spiMiso = [spiStatus s, 0, BitVec.ofNat 32 v] := by
  have hone : spiReads 1 (spiAddr cmd) s = ((spiRead (spiAddr cmd) s).1, [(spiRead (spiAddr cmd) s).2]) := rfl
  have hlate : spiLate s cmd 1 = spiUnready s (spiAddr cmd) := Bool.or_false _
  refine ⟨_, exec_mgtReadFrame_of_good hawake hread (spiBad_of_aligned hlow), ?_⟩
  rw [hcount, hlen, spiLength_of_exact hlen hwhole]
  change SpiEnded s (spiEnd ([] ++ if spiLate s cmd 1 then [spiNotReady] else []) _ (spiReads 1 _ s).1) result ∧
    _ :: _ :: (spiReads 1 _ s).2 = _
  rw [hone, hlate, hword]
  refine ⟨(spiRead_keeps _ s).ended ?_ ?_ _, rfl⟩
  · rw [← hresult]
    split <;> rfl
  · rw [← hresult]
    split <;> decide

theorem spiRead_of_unready {a : Nat} (h : spiUnready s a = true) : (spiRead a s).2 = BitVec.ofNat 32 0 := by
  rw [spiRead, if_pos h]
  rfl

theorem spiRead_of_block {a off : Nat} {b : Block} (h : spiUnready s a = false) (hp : spiPlace a = some (some b, off)) :
    (spiRead a s).2 = BitVec.ofNat 32 (latchedRead s s.alm.latch b off) := by
  simp only [spiRead, h, hp, Bool.false_eq_true, if_false]

theorem spiRead_of_pins {a off : Nat} (h : spiUnready s a = false) (hp : spiPlace a = some (none, off)) :
    (spiRead a s).2 = BitVec.ofNat 32 (mgtReg s off) := by
  simp only [spiRead, h, hp, Bool.false_eq_true, if_false]

theorem spiRead_of_nothing {a : Nat} (h : spiUnready s a = false) (hp : spiPlace a = none) :
    (spiRead a s).2 = BitVec.ofNat 32 0 := by
  simp only [spiRead, h, hp, Bool.false_eq_true, if_false]
  rfl

/-! ### Frames that write -/

theorem spiWrites_singleton (w : Word) (a : Nat) (s : State) :
    spiWrites [w] a s = ((spiWrite a w s).1, (spiWrite a w s).2) := by
  simp only [spiWrites, Bool.or_false]

theorem mgtWriteFrame_short (hawake : spiAwake s = true) (hwrite : cmd.getLsbD 31 = true) (hlow : cmd.toNat % 4 = 0)
    (hcount : spiCount cmd = 1) (w : Word) (hlen : e.words = 0) :
    ∃ t, exec (.mgtWriteFrame cmd [w] e) s = .next t ∧ SpiEnded s t 1 := by
  refine ⟨_, exec_mgtWriteFrame_of_good hawake hwrite (spiBad_of_aligned hlow) [w], ?_⟩
  rw [spiLength_of_short (by omega), hcount, hlen]
  exact (SpiKept.refl s).ended (result := 1) rfl (by decide) _

/-- The frame ends, with what its one word did. -/
theorem exec_mgtWriteFrame_of_oneWord (hawake : spiAwake s = true) (hwrite : cmd.getLsbD 31 = true) (hlow : cmd.toNat % 4 = 0)
    (hcount : spiCount cmd = 1) (w : Word) (hlen : 1 ≤ e.words) : exec (.mgtWriteFrame cmd [w] e) s = .next
      (spiEnd ((spiLength 1 e).toList ++ if (spiWrite (spiAddr cmd) w s).2 then [spiAccess] else [])
        [spiStatus s] (spiWrite (spiAddr cmd) w s).1) := by
  have htake : [w].take (min 1 e.words) = [w] := by rw [Nat.min_eq_left hlen]; rfl
  rw [exec_mgtWriteFrame_of_good hawake hwrite (spiBad_of_aligned hlow), hcount, htake, spiWrites_singleton]

/-- A word to no writable register is refused and changes nothing. -/
def SpiRefuses (s : State) (a : Nat) (w : Word) : Prop := spiWrite a w s = (s, true)

theorem spiRefuses_of_nothing {a : Nat} (hp : spiPlace a = none) (w : Word) : SpiRefuses s a w := by
  simp only [SpiRefuses, spiWrite, hp]

theorem spiRefuses_of_image {a off : Nat} (hp : spiPlace a = some (some .image, off)) (w : Word) : SpiRefuses s a w := by
  simp only [SpiRefuses, spiWrite, hp]

theorem spiRefuses_of_almanac {a off : Nat} (hp : spiPlace a = some (some .almanac, off)) (w : Word) : SpiRefuses s a w := by
  simp only [SpiRefuses, spiWrite, hp]

theorem spiWrite_of_fence {a off : Nat} (hp : spiPlace a = some (some .fence, off)) (w : Word) :
    spiWrite a w s = (foreignWrite 0 (BitVec.ofNat 16 off) s, true) := by
  simp only [spiWrite, hp]

/-- A write of the SPI counters' register clears them. -/
def spiCleared (s : State) : State := { s with pins := { s.pins with spiPartial := 0, spiOverrun := 0, spiRefused := 0 } }

theorem spiWrite_of_counters {a : Nat} (hp : spiPlace a = some (none, 0x04)) (w : Word) : spiWrite a w s = (spiCleared s, false) := by
  simp only [spiWrite, hp, spiCleared]

theorem foreignWrite_spiKept (code : BitVec 4) (offset : BitVec 16) (s : State) : SpiKept s (foreignWrite code offset s) :=
  have h := foreignWrite_noted code offset s
  ⟨foreignWrite_pins code offset, h.mem, h.plots, h.regs,
    foreignWrite_keeps_view (g := State.parts) (fun _ _ _ => by rfl) (fun _ _ => by rfl) (fun _ _ _ => by rfl) code offset s⟩

section
variable (hawake : spiAwake s = true) (hwrite : cmd.getLsbD 31 = true) (hlow : cmd.toNat % 4 = 0) (hcount : spiCount cmd = 1) (w : Word)
include hawake hwrite hlow hcount

theorem mgtWriteFrame_long (hlen : e.words = 2) (hp : spiPlace (spiAddr cmd) = none) :
    ∃ t, exec (.mgtWriteFrame cmd [w] e) s = .next t ∧ SpiEnded s t 2 := by
  have hw : spiWrite (spiAddr cmd) w s = (s, true) := spiRefuses_of_nothing hp w
  refine ⟨_, exec_mgtWriteFrame_of_oneWord hawake hwrite hlow hcount w (by omega), ?_⟩
  rw [hw, spiLength_of_long (by omega)]
  exact (SpiKept.refl s).ended (result := 2) rfl (by decide) _

theorem mgtWriteFrame_fence {off : Nat} (hlen : e.words = 1) (hwhole : e.partialWord = false)
    (hp : spiPlace (spiAddr cmd) = some (some .fence, off)) :
    ∃ t, exec (.mgtWriteFrame cmd [w] e) s = .next t ∧ SpiEnded s t 3 ∧
      t.fence.foreign = satAdd s.fence.foreign 1 ∧ t.fence.foreignSrc = 0 ∧ t.pins.spiRefused = satAdd s.pins.spiRefused 1 := by
  refine ⟨_, exec_mgtWriteFrame_of_oneWord hawake hwrite hlow hcount w (by omega), ?_⟩
  rw [spiWrite_of_fence hp, spiLength_of_exact hlen hwhole]
  have hnoted := foreignWrite_noted 0 (BitVec.ofNat 16 off) s
  exact ⟨(foreignWrite_spiKept 0 _ s).ended (result := 3) rfl (by decide) _, hnoted.count, hnoted.src,
    congrArg (fun v : Pins => satAdd v.spiRefused 1) (foreignWrite_pins 0 (BitVec.ofNat 16 off))⟩

theorem mgtWriteFrame_refused (hlen : e.words = 1) (hwhole : e.partialWord = false) (hw : SpiRefuses s (spiAddr cmd) w) :
    ∃ t, exec (.mgtWriteFrame cmd [w] e) s = .next t ∧ SpiEnded s t 3 ∧
      t.fence = s.fence ∧ t.image = s.image ∧ t.alm = s.alm := by
  have hw' : spiWrite (spiAddr cmd) w s = (s, true) := hw
  refine ⟨_, exec_mgtWriteFrame_of_oneWord hawake hwrite hlow hcount w (by omega), ?_⟩
  rw [hw', spiLength_of_exact hlen hwhole]
  exact ⟨(SpiKept.refl s).ended (result := 3) rfl (by decide) _, rfl, rfl, rfl⟩

theorem mgtWriteFrame_counters (hlen : e.words = 1) (hwhole : e.partialWord = false)
    (hp : spiPlace (spiAddr cmd) = some (none, 0x04)) :
    ∃ t, exec (.mgtWriteFrame cmd [w] e) s = .next t ∧ SpiEnded s t 0 ∧
      t.pins.spiPartial = 0 ∧ t.pins.spiOverrun = 0 ∧ t.pins.spiRefused = 0 := by
  refine ⟨_, exec_mgtWriteFrame_of_oneWord hawake hwrite hlow hcount w (by omega), ?_⟩
  rw [spiWrite_of_counters hp, spiLength_of_exact hlen hwhole]
  exact ⟨⟨rfl, rfl, rfl, rfl, rfl, rfl⟩, rfl, rfl, rfl⟩

end

end

end

/-- Settles O56: a pin, a character or a frame changes what its phase, the monitor's lines or its words say, and no more. Phases, BEAT and
the UART's FIFO are entry 104 of the assumption log. -/
theorem pinsAndManagement : Obligations.PinsAndManagement := by
  unfold Obligations.PinsAndManagement
  dsimp only
  intro s
  refine ⟨fun pin => ⟨exec_parkEnd_of_due, exec_parkEnd_of_not_due, exec_inputBlankingEnd_of_due⟩,
    fun h => congrArg Outcome.next (if_pos (beatCond_iff.2 h)), fun h => congrArg Outcome.next (if_neg (mt beatCond_iff.1 h)),
    fun ch => ⟨fun h ok => congrArg Outcome.next (if_pos (by simp [h])), fun hserves => ⟨?_, ?_, ?_⟩⟩, ?_⟩
  · exact congrArg Outcome.next ((if_neg (by simp [hserves])).trans (if_pos rfl))
  · exact fun _ _ _ _ => exec_uartCharacter_of_line hserves
  · refine fun hl hf => ⟨exec_uartCharacter_of_text hserves hl hf, ?_⟩
    rintro rfl hline c hc
    exact exec_uartCharacter_of_end hserves hl hf hline hc
  · refine fun cmd e => ⟨exec_spi_of_asleep, fun hawake => ⟨fun hread => ⟨mgtReadFrame_badCommand hawake hread, fun hlow =>
      ⟨mgtReadFrame_short hawake hread hlow, fun hcount hlen hwhole => ⟨fun hun => ?_, fun hready => ⟨?_, ?_, ?_⟩⟩⟩⟩,
      fun hwrite hlow hcount w => ⟨mgtWriteFrame_short hawake hwrite hlow hcount w,
        mgtWriteFrame_long hawake hwrite hlow hcount w, fun hlen hwhole => ⟨?_, ?_, ?_⟩⟩⟩⟩
    · exact mgtReadFrame_oneWord hawake hread hlow hcount hlen hwhole (spiRead_of_unready hun) (if_pos hun)
    · exact fun b off hp => mgtReadFrame_oneWord hawake hread hlow hcount hlen hwhole (spiRead_of_block hready hp)
        (if_neg (by simp [hready]))
    · exact fun off hp => mgtReadFrame_oneWord hawake hread hlow hcount hlen hwhole (spiRead_of_pins hready hp)
        (if_neg (by simp [hready]))
    · exact fun hp => mgtReadFrame_oneWord hawake hread hlow hcount hlen hwhole (spiRead_of_nothing hready hp)
        (if_neg (by simp [hready]))
    · exact fun off => mgtWriteFrame_fence hawake hwrite hlow hcount w hlen hwhole
    · rintro (hp | hp | hp)
      · exact mgtWriteFrame_refused hawake hwrite hlow hcount w hlen hwhole (spiRefuses_of_image hp w)
      · exact mgtWriteFrame_refused hawake hwrite hlow hcount w hlen hwhole (spiRefuses_of_almanac hp w)
      · exact mgtWriteFrame_refused hawake hwrite hlow hcount w hlen hwhole (spiRefuses_of_nothing hp w)
    · exact mgtWriteFrame_counters hawake hwrite hlow hcount w hlen hwhole

end Sys2Proof.Machine
end

section
/-! Flows keep their sequence (R391 to R396). The list of sequenced frames is entry 67 of the assumption log, a data frame in HOLD answered by
an ACK with HOLD entry 69, what drops a frame entry 71. -/

namespace Sys2Proof.Machine

open Host

section
variable {s : State} {p : PortIx} {f : Frame} {ty : Nat}

/-! ### A frame at a port (R391, R392) -/

theorem receiveFrame_of_down (take : State → State) (h : portUp s p = false) : receiveFrame p ty f take s = s :=
  if_pos (by rw [h]; rfl)

theorem receiveFrame_of_bad (take : State → State) (hup : portUp s p = true) (h : frameBad s p f = true) :
    receiveFrame p ty f take s = onLink p (fun x => { x with badFrame := satAdd x.badFrame 1 }) s :=
  (if_neg (by rw [hup]; exact Bool.false_ne_true)).trans (if_pos h)

/-- A frame of a sequenced type in HOLD is acknowledged as far as its flow was, and not taken. -/
theorem receiveFrame_of_hold (h : Arrives s p ty f) (hty : [3, 4, 8].contains ty = false) (hh : holdActive s = true) (take : State → State) :
    receiveFrame p ty f take s = sendAck p (fSrcDev f) (fLc f) s := by
  obtain ⟨hup, hgood, htype⟩ := h
  unfold receiveFrame
  rw [hup, hgood, htype, hty, hh]
  simp only [Bool.not_true, Bool.false_eq_true, if_false, ne_eq, not_true_eq_false, if_true]

theorem receiveFrame_of_awake (h : Arrives s p ty f) (hty : [3, 4, 8].contains ty = false) (hh : holdActive s = false)
    (take : State → State) : receiveFrame p ty f take s = if (receiveSeq p f s).2 then take (receiveSeq p f s).1 else (receiveSeq p f s).1 := by
  obtain ⟨hup, hgood, htype⟩ := h
  unfold receiveFrame
  rw [hup, hgood, htype, hty, hh]
  simp only [Bool.not_true, Bool.false_eq_true, if_false, ne_eq, not_true_eq_false]
  obtain ⟨s1, b⟩ := receiveSeq p f s
  cases b <;> rfl

/-- What accepting a frame leaves: its flow has advanced, and every eighth is acknowledged. -/
def seqTaken (p : PortIx) (f : Frame) (s : State) : State := (receiveSeq p f s).1

theorem receiveFrame_of_inOrder (h : InOrder s p ty f) (hty : [3, 4, 8].contains ty = false) (take : State → State) :
    receiveFrame p ty f take s = take (seqTaken p f s) := by
  have hok : (receiveSeq p f s).2 = true := by rw [receiveSeq_of_next h.next]
  rw [receiveFrame_of_awake h.toArrives hty h.noHold, hok, if_pos rfl, seqTaken]

theorem receiveFrame_of_not_next (h : Arrives s p ty f) (hty : [3, 4, 8].contains ty = false) (hh : holdActive s = false)
    (hn : ¬ isNext s p f) (take : State → State) : receiveFrame p ty f take s = (receiveSeq p f s).1 := by
  have hno : (receiveSeq p f s).2 = false := by rw [receiveSeq_of_not_next hn]
  rw [receiveFrame_of_awake h hty hh, hno, if_neg Bool.false_ne_true]

/-- The frames of the fabric, each by its command. -/
theorem exec_frame_of_down (h : portUp s p = false) : ∀ c ∈ [Instr.writeFrame p f, .readReq p f, .readData p f, .ack p f, .nak p f, .lateErr p f,
    .settle p f, .settleDone p f, .timeFrame p f], exec c s = .next s := by
  simp only [List.mem_cons, List.not_mem_nil, or_false]
  rintro c (rfl | rfl | rfl | rfl | rfl | rfl | rfl | rfl | rfl) <;> exact congrArg Outcome.next (receiveFrame_of_down _ h)

theorem exec_frame_of_bad (hup : portUp s p = true) (h : frameBad s p f = true) : ∀ c ∈ [Instr.writeFrame p f, .readReq p f, .readData p f,
    .ack p f, .nak p f, .lateErr p f, .settle p f, .settleDone p f, .timeFrame p f],
    exec c s = .next (onLink p (fun x => { x with badFrame := satAdd x.badFrame 1 }) s) := by
  simp only [List.mem_cons, List.not_mem_nil, or_false]
  rintro c (rfl | rfl | rfl | rfl | rfl | rfl | rfl | rfl | rfl) <;> exact congrArg Outcome.next (receiveFrame_of_bad _ hup h)

/-! ### Acknowledgement sent (R395) -/

/-- A flow whose frames are acknowledged. -/
def flowAcked (x : Flow) : Flow := { x with sinceAck := 0 }

/-- The ACK that a flow sends. -/
def ackOf (s : State) (p : PortIx) (d : BitVec 12) (lc : Bool) (x : Flow) : Frame :=
  ownFrame s p d { (ownHdr s 3 d lc) with aux := x.expected - 1 } []

section
variable {d : BitVec 12} {lc : Bool} {x : Flow}

theorem sendAck_of_some (h : flowOf s p d lc = some x) : sendAck p d lc s =
    { onFlow p d lc 0 flowAcked s with
      bvl := { (onFlow p d lc 0 flowAcked s).bvl with wire := s.bvl.wire ++ [(p, ackOf s p d lc x)] } } := by
  unfold sendAck
  rw [h]
  rfl

theorem sendAck_flow (h : flowOf s p d lc = some x) : flowOf (sendAck p d lc s) p d lc = some (flowAcked x) := by
  rw [sendAck_of_some h]
  exact flowOf_onFlow_of_some (psn := 0) (g := flowAcked) (fun _ => ⟨rfl, rfl, rfl⟩) h

theorem sendAck_wire (h : flowOf s p d lc = some x) : (sendAck p d lc s).bvl.wire = s.bvl.wire ++ [(p, ackOf s p d lc x)] := by
  rw [sendAck_of_some h]

theorem fTy_ackOf : fTy (ackOf s p d lc x) = 3 := fTy_ownFrame (hdrFits_ownHdr (by decide) _)
theorem fAux_ackOf : fAux (ackOf s p d lc x) = x.expected - 1 := fAux_ownFrame (hdrFits_ownHdr (by decide) _)
theorem fHold_ackOf : fHold (ackOf s p d lc x) = holdActive s := fHold_ownFrame (hdrFits_ownHdr (by decide) _)

end

/-! ### Data frames (R395) -/

theorem writeFrame_of_hold (h : Arrives s p 0 f) (hh : holdActive s = true) : ∃ t, exec (.writeFrame p f) s = .next t ∧ t.mem = s.mem ∧
    t.cis = s.cis ∧ t.parts = s.parts ∧
    ∀ x, flowOf s p (fSrcDev f) (fLc f) = some x → ∃ g, lastFrame t = some (p, g) ∧ fTy g = 3 ∧ fHold g = true := by
  refine ⟨_, congrArg Outcome.next (receiveFrame_of_hold h (by decide) hh _), ?_, ?_, ?_, fun x hx => ?_⟩
  · exact sendAck_keeps_view (g := State.mem) (fun _ _ => rfl) ..
  · exact sendAck_keeps_view (g := State.cis) (fun _ _ => rfl) ..
  · exact sendAck_keeps_view (g := State.parts) (fun _ _ => rfl) ..
  · refine ⟨ackOf s p (fSrcDev f) (fLc f) x, ?_, fTy_ackOf, fHold_ackOf.trans hh⟩
    rw [lastFrame, sendAck_wire hx, List.getLast?_append]
    rfl

/-- A NAK of the frame's flow left less than 4 microseconds ago. -/
def NakWaits (s : State) (p : PortIx) (f : Frame) : Prop :=
  ∃ x at_, flowOf s p (fSrcDev f) (fLc f) = some x ∧ x.nakAt = some at_ ∧ (s.time - at_).toNat < 4000

theorem nakDue_eq_false_iff : nakDue s p f = false ↔ NakWaits s p f := by
  unfold nakDue flowFor NakWaits
  cases hx : flowOf s p (fSrcDev f) (fLc f) with
  | none => simp [newFlow]
  | some x =>
    cases hn : x.nakAt with
    | none => simp [hn]
    | some at_ => simp [hn]

theorem writeFrame_of_not_next (h : Arrives s p 0 f) (hh : holdActive s = false) (hn : ¬ isNext s p f) :
    ∃ t, exec (.writeFrame p f) s = .next t ∧ t.mem = s.mem ∧ t.cis = s.cis ∧ t.parts = s.parts ∧
      (NakWaits s p f → t.bvl.wire = s.bvl.wire) ∧
      (¬ NakWaits s p f → ∃ g, t.bvl.wire = s.bvl.wire ++ [(p, g)] ∧ fTy g = 4 ∧ fAux g = expectedPsn s p f) := by
  refine ⟨_, congrArg Outcome.next (receiveFrame_of_not_next h (by decide) hh hn _), ?_, ?_, ?_, fun hw => ?_, fun hw => ?_⟩
  · exact receiveSeq_keeps_view (g := State.mem) (fun _ _ => rfl) ..
  · exact receiveSeq_keeps_view (g := State.cis) (fun _ _ => rfl) ..
  · exact receiveSeq_keeps_view (g := State.parts) (fun _ _ => rfl) ..
  · rw [receiveSeq_of_not_next hn, if_neg (by rw [nakDue_eq_false_iff.2 hw]; exact Bool.false_ne_true)]
    rfl
  · refine ⟨ownFrame (onFlow p (fSrcDev f) (fLc f) (fPsn f) (flowNakked s p f) s) p (fSrcDev f)
        { (ownHdr s 4 (fSrcDev f) (fLc f)) with aux := expectedPsn s p f } [], ?_, fTy_ownFrame (hdrFits_ownHdr (by decide) _),
      fAux_ownFrame (hdrFits_ownHdr (by decide) _)⟩
    rw [receiveSeq_of_not_next hn, if_pos (Bool.not_eq_false _ ▸ mt nakDue_eq_false_iff.1 hw)]
    rfl

theorem flowFor_sinceAck (s : State) (p : PortIx) (f : Frame) :
    ((flowOf s p (fSrcDev f) (fLc f)).map (·.sinceAck)).getD 0 = (flowFor s p f).sinceAck := by
  rw [flowFor]
  cases flowOf s p (fSrcDev f) (fLc f) <;> rfl

theorem flowOf_flowTaken : flowOf (onFlow p (fSrcDev f) (fLc f) (fPsn f) (flowTaken (fPsn f)) s) p (fSrcDev f) (fLc f) =
    some (flowTaken (fPsn f) (flowFor s p f)) :=
  flowOf_onFlow_self fun _ => ⟨rfl, rfl, rfl⟩

/-- The flow after a frame that was not the eighth. -/
theorem seqTaken_of_few (h : isNext s p f) (hfew : (flowFor s p f).sinceAck < 7) :
    flowOf (seqTaken p f s) p (fSrcDev f) (fLc f) = some (flowTaken (fPsn f) (flowFor s p f)) ∧ (seqTaken p f s).bvl.wire = s.bvl.wire := by
  rw [seqTaken, receiveSeq_of_next h, if_neg (by omega)]
  exact ⟨flowOf_flowTaken, rfl⟩

/-- The flow after the eighth frame, which is acknowledged. -/
theorem seqTaken_of_eighth (h : isNext s p f) (heighth : 7 ≤ (flowFor s p f).sinceAck) :
    flowOf (seqTaken p f s) p (fSrcDev f) (fLc f) = some (flowAcked (flowTaken (fPsn f) (flowFor s p f))) ∧
      ∃ g, (seqTaken p f s).bvl.wire = s.bvl.wire ++ [(p, g)] ∧ fTy g = 3 ∧ fAux g = fPsn f := by
  rw [seqTaken, receiveSeq_of_next h, if_pos (by omega)]
  refine ⟨sendAck_flow flowOf_flowTaken, _, sendAck_wire flowOf_flowTaken, fTy_ackOf, fAux_ackOf.trans ?_⟩
  exact add_sub_cancel_right (fPsn f) 1

/-- A chunk that waits leaves the fabric as it was. -/
theorem keepChunk_bvl (p : PortIx) (f : Frame) (s : State) : (keepChunk p f s).bvl = s.bvl := rfl

theorem writeFrame_of_inOrder (h : InOrder s p 0 f) : ∃ t x, exec (.writeFrame p f) s = .next t ∧
    flowOf t p (fSrcDev f) (fLc f) = some x ∧ x.expected = fPsn f + 1 ∧
    ((flowFor s p f).sinceAck < 7 → x.sinceAck = (flowFor s p f).sinceAck + 1 ∧ t.bvl.wire = s.bvl.wire) ∧
    (7 ≤ (flowFor s p f).sinceAck → x.sinceAck = 0 ∧ ∃ g, t.bvl.wire = s.bvl.wire ++ [(p, g)] ∧ fTy g = 3 ∧ fAux g = fPsn f) := by
  have hexec : exec (.writeFrame p f) s = .next (keepChunk p f (seqTaken p f s)) :=
    congrArg Outcome.next (receiveFrame_of_inOrder h (by decide) _)
  rcases Nat.lt_or_ge (flowFor s p f).sinceAck 7 with hfew | heighth
  · obtain ⟨hflow, hwire⟩ := seqTaken_of_few h.next hfew
    exact ⟨_, _, hexec, hflow, rfl, fun _ => ⟨rfl, hwire⟩, fun h7 => by omega⟩
  · obtain ⟨hflow, hwire⟩ := seqTaken_of_eighth h.next heighth
    exact ⟨_, _, hexec, hflow, rfl, fun h7 => by omega, fun _ => ⟨rfl, hwire⟩⟩

/-! ### Retransmission (R395) -/

section
variable {d : BitVec 12} {lc : Bool} {x : Flow}

/-- The frames of a flow from a PSN on. -/
def framesFrom (psn : Word) (x : Flow) : List Frame := x.unacked.filter fun g => decide ((fPsn g - psn).toNat < 2 ^ 31)

theorem resendFrom_of_some (psn : Word) (h : flowOf s p d lc = some x) : resendFrom p d lc psn s =
    onPort p (fun y => { y with resent := satAdd y.resent (framesFrom psn x).length })
      { s with bvl := { s.bvl with wire := s.bvl.wire ++ (framesFrom psn x).map fun g => (p, g) } } := by
  unfold resendFrom
  rw [h]
  rfl

theorem nak_resends (hx : flowOf s p (fSrcDev f) (fLc f) = some x) (h : Arrives s p 4 f) : ∃ t, exec (.nak p f) s = .next t ∧ t.mem = s.mem ∧
    t.parts = s.parts ∧ t.bvl.flows = s.bvl.flows ∧ t.bvl.wire = s.bvl.wire ++ (framesFrom (fAux f) x).map (fun g => (p, g)) ∧
    (t.bvl.ports[p]).resent = satAdd (s.bvl.ports[p]).resent (framesFrom (fAux f) x).length := by
  refine ⟨_, congrArg Outcome.next ((receiveFrame_of_arrives_control h (by decide) _).trans (resendFrom_of_some _ hx)), rfl, rfl, rfl, rfl, ?_⟩
  rw [onPort_port_self]

theorem ackTimer_of_none_owed (hx : flowOf s p d lc = some x) (h : x.sinceAck = 0) : exec (.ackTimer p d lc) s = .next s := by
  change execAckTimer p d lc s = _
  rw [execAckTimer, hx]
  exact congrArg Outcome.next (if_neg (by omega))

theorem ackTimer_acknowledges (hx : flowOf s p d lc = some x) (h : 0 < x.sinceAck) : ∃ t y g, exec (.ackTimer p d lc) s = .next t ∧
    t.mem = s.mem ∧ t.parts = s.parts ∧ flowOf t p d lc = some y ∧ y = { x with sinceAck := 0 } ∧
    t.bvl.wire = s.bvl.wire ++ [(p, g)] ∧ fTy g = 3 ∧ fAux g = x.expected - 1 := by
  have hexec : exec (.ackTimer p d lc) s = .next (sendAck p d lc s) := by
    change execAckTimer p d lc s = _
    rw [execAckTimer, hx]
    exact congrArg Outcome.next (if_pos h)
  exact ⟨_, flowAcked x, ackOf s p d lc x, hexec, sendAck_keeps_view (g := State.mem) (fun _ _ => rfl) ..,
    sendAck_keeps_view (g := State.parts) (fun _ _ => rfl) .., sendAck_flow hx, rfl, sendAck_wire hx, fTy_ackOf, fAux_ackOf⟩

/-- A flow whose time-out has passed once more. -/
def flowTimedOut (now : DWord) (x : Flow) : Flow :=
  { x with
    timeouts := x.timeouts + 1
    timeoutUs := min 160 (2 * x.timeoutUs)
    stalled := if x.stalled.isSome then x.stalled else some now }

/-- The time-out is counted at the port and at the flow. -/
def timedOut (p : PortIx) (d : BitVec 12) (lc : Bool) (s : State) : State :=
  onPort p (fun y => { y with timeouts := satAdd y.timeouts 1 }) (onFlow p d lc 0 (flowTimedOut s.time) s)

theorem timedOut_flow (hx : flowOf s p d lc = some x) : flowOf (timedOut p d lc s) p d lc = some (flowTimedOut s.time x) :=
  flowOf_onFlow_of_some (psn := 0) (g := flowTimedOut s.time) (fun _ => ⟨rfl, rfl, rfl⟩) hx

theorem retransmitTimeout_of_nothing (hx : flowOf s p d lc = some x) (h : x.unacked = [] ∨ x.held.isSome = true) :
    exec (.retransmitTimeout p d lc) s = .next s := by
  change execRetransmitTimeout p d lc s = _
  rw [execRetransmitTimeout, hx]
  dsimp only
  cases hu : x.unacked with
  | nil => rfl
  | cons g rest => exact congrArg Outcome.next (if_pos (h.resolve_left (by rw [hu]; exact List.cons_ne_nil _ _)))

theorem exec_retransmitTimeout {g : Frame} {rest : List Frame} (hx : flowOf s p d lc = some x) (hu : x.unacked = g :: rest)
    (hh : x.held = none) : exec (.retransmitTimeout p d lc) s =
      .next (if 8 ≤ x.timeouts + 1 then moveFlow p d lc (timedOut p d lc s) else resendFrom p d lc (fPsn g) (timedOut p d lc s)) := by
  change execRetransmitTimeout p d lc s = _
  rw [execRetransmitTimeout, hx]
  dsimp only
  rw [hu]
  exact congrArg Outcome.next (if_neg (by rw [hh]; exact Bool.false_ne_true))

theorem retransmitTimeout_resends {g : Frame} {rest : List Frame} (hx : flowOf s p d lc = some x) (hu : x.unacked = g :: rest)
    (hh : x.held = none) (h : x.timeouts < 7) : ∃ t y, exec (.retransmitTimeout p d lc) s = .next t ∧ t.mem = s.mem ∧ t.parts = s.parts ∧
      flowOf t p d lc = some y ∧ y.unacked = x.unacked ∧ y.timeouts = x.timeouts + 1 ∧ y.timeoutUs = min 160 (2 * x.timeoutUs) ∧
      y.stalled.isSome = true ∧
      t.bvl.wire = s.bvl.wire ++ (x.unacked.filter fun k => decide ((fPsn k - fPsn g).toNat < 2 ^ 31)).map fun k => (p, k) := by
  refine ⟨_, flowTimedOut s.time x, (exec_retransmitTimeout hx hu hh).trans (congrArg Outcome.next ((if_neg (by omega)).trans
    (resendFrom_of_some (fPsn g) (timedOut_flow hx)))), rfl, rfl, timedOut_flow hx, rfl, rfl, rfl, ?_, rfl⟩
  unfold flowTimedOut
  dsimp only
  split
  · assumption
  · rfl

/-! ### The next port (R395) -/

theorem upPorts_congr {t : State} (h : ∀ k, portUp t k = portUp s k) (c : CisIx) : upPorts t c = upPorts s c := by
  simp only [upPorts, h]

theorem nextPort_congr {t : State} (h : ∀ k, portUp t k = portUp s k) : nextPort t p = nextPort s p := by
  rw [nextPort, nextPort, upPorts_congr h]

theorem nextPort_timedOut : nextPort (timedOut p d lc s) p = nextPort s p :=
  nextPort_congr fun k => (portUp_onPort (by rfl) k).trans (by rfl)

theorem fRestart_movedFrame_first {n : PortIx} {f : Frame} (psn : Word) : fRestart (movedFrame s n d psn true f) = true := by
  have hbit : (BitVec.ofNat 320 (setBits (setBits f.header.toNat 10 10 true.toNat) 95 64 psn.toNat)).toNat / 2 ^ 10 % 2 = 1 := by
    simp only [setBits, bitsOf, BitVec.toNat_ofNat, Nat.shiftLeft_eq, Nat.shiftRight_eq_div_pow, Bool.toNat_true]
    have := f.header.isLt
    omega
  rw [fRestart, flag_eq]
  exact beq_iff_eq.2 hbit

/-- The frames of a flow as they move, numbered from a PSN on. -/
def movedFrames (s : State) (n : PortIx) (d : BitVec 12) (start : Word) (l : List Frame) : List Frame :=
  ((List.range l.length).zip l).map fun k => movedFrame s n d (start + BitVec.ofNat 32 k.1) (k.1 == 0) k.2

section
variable {n : PortIx} {start : Word} {l : List Frame}

theorem movedFrames_length : (movedFrames s n d start l).length = l.length := by
  rw [movedFrames, List.length_map, List.length_zip, List.length_range, Nat.min_self]

theorem movedFrames_payload : (movedFrames s n d start l).map (·.payload) = l.map (·.payload) := by
  have hsnd : ((List.range l.length).zip l).map Prod.snd = l := List.map_snd_zip List.length_range.ge
  have hkeep : ∀ k : Nat × Frame, (movedFrame s n d (start + BitVec.ofNat 32 k.1) (k.1 == 0) k.2).payload = k.2.payload := fun _ => by
    rw [movedFrame]
  calc (movedFrames s n d start l).map (·.payload)
      = ((List.range l.length).zip l).map fun k => k.2.payload := by simp only [movedFrames, List.map_map, Function.comp_def, hkeep]
    _ = (((List.range l.length).zip l).map Prod.snd).map (·.payload) := by simp only [List.map_map, Function.comp_def]
    _ = l.map (·.payload) := by rw [hsnd]

theorem movedFrames_restart : ∀ g, (movedFrames s n d start l).head? = some g → fRestart g = true := by
  cases l with
  | nil => exact fun _ h => nomatch h
  | cons a l =>
    intro g h
    rw [movedFrames, List.length_cons, List.range_succ_eq_map, List.zip_cons_cons, List.map_cons, List.head?_cons] at h
    rw [← Option.some.inj h]
    exact fRestart_movedFrame_first _

end

/-- A flow whose frames have gone to another port. -/
def flowLeft (x : Flow) : Flow := { x with unacked := [], timeouts := 0, timeoutUs := 20, stalled := none }

/-- A flow that takes the frames of another. -/
def flowJoined (next : Word) (fs : List Frame) (stalled : Option DWord) (y : Flow) : Flow :=
  { y with
    next := next
    unacked := y.unacked ++ fs
    stalled := if y.stalled.isSome then y.stalled else stalled }

theorem moveFlow_of_some {n : PortIx} (hx : flowOf s p d lc = some x) (hn : nextPort s p = some n) :
    ∃ next fs, fs = movedFrames s n d (((flowOf s n d lc).map (·.next)).getD 0) x.unacked ∧ moveFlow p d lc s =
      { onFlow n d lc 0 (flowJoined next fs x.stalled) (onFlow p d lc 0 flowLeft s) with
        bvl := { (onFlow n d lc 0 (flowJoined next fs x.stalled) (onFlow p d lc 0 flowLeft s)).bvl with
          wire := s.bvl.wire ++ fs.map fun g => (n, g) } } := by
  refine ⟨((flowOf s n d lc).map (·.next)).getD 0 + BitVec.ofNat 32 (movedFrames s n d (((flowOf s n d lc).map (·.next)).getD 0) x.unacked).length,
    _, rfl, ?_⟩
  unfold moveFlow
  rw [hx, hn]
  rfl

theorem retransmitTimeout_moves {g : Frame} {rest : List Frame} {n : PortIx} (hx : flowOf s p d lc = some x) (hu : x.unacked = g :: rest)
    (hh : x.held = none) (h : x.timeouts = 7) (hn : nextPort s p = some n) (hne : n ≠ p) : ∃ (t : State) (y : Flow) (fs : List Frame),
      exec (.retransmitTimeout p d lc) s = .next t ∧ t.mem = s.mem ∧ flowOf t p d lc = some y ∧ y.unacked = [] ∧
      t.bvl.wire = s.bvl.wire ++ fs.map (fun g => (n, g)) ∧ fs.length = x.unacked.length ∧
      fs.map (·.payload) = x.unacked.map (·.payload) ∧ ∀ g, fs.head? = some g → fRestart g = true := by
  obtain ⟨next, fs, hfs, hmove⟩ := moveFlow_of_some (timedOut_flow hx) (nextPort_timedOut.trans hn)
  have hleft : flowOf (onFlow p d lc 0 flowLeft (timedOut p d lc s)) p d lc = some (flowLeft (flowTimedOut s.time x)) :=
    flowOf_onFlow_of_some (psn := 0) (g := flowLeft) (fun _ => ⟨rfl, rfl, rfl⟩) (timedOut_flow hx)
  refine ⟨_, flowLeft (flowTimedOut s.time x), fs, (exec_retransmitTimeout hx hu hh).trans
    (congrArg Outcome.next ((if_pos (by omega)).trans hmove)), rfl, ?_, rfl, rfl, ?_, ?_, ?_⟩
  · exact (flowOf_onFlow_port_ne (psn := 0) (g := flowJoined next fs (flowTimedOut s.time x).stalled) (fun _ => ⟨rfl, rfl, rfl⟩) hne d
      lc).trans hleft
  · exact (congrArg List.length hfs).trans movedFrames_length
  · exact (congrArg (List.map (·.payload)) hfs).trans movedFrames_payload
  · rw [hfs]
    exact movedFrames_restart

end

end

end Sys2Proof.Machine
end

section
/-! Acknowledged and unreachable transfers end (R394, R395). A retransmission that waits for a far device in HOLD is entry 69 of the
assumption log. -/

namespace Sys2Proof.Machine

open Host

/-! ### A fold over partitions that acts on one -/

/-- A fold of which one step leads from one invariant to another, and the others keep either. -/
theorem foldl_turns_once {σ ι : Type} {F : σ → ι → σ} {I J : σ → Prop} {q : ι} {l : List ι} (hbefore : ∀ k, k ≠ q → ∀ u, I u → I (F u k))
    (hq : ∀ u, I u → J (F u q)) (hafter : ∀ k, k ≠ q → ∀ u, J u → J (F u k)) (hl : l.Nodup) (hmem : q ∈ l) {s : σ} (hs : I s) :
    J (l.foldl F s) := by
  induction l generalizing s with
  | nil => exact absurd hmem List.not_mem_nil
  | cons k l ih =>
    obtain ⟨hk, hl⟩ := List.nodup_cons.1 hl
    rw [List.foldl_cons]
    by_cases hkq : k = q
    · subst hkq
      exact List.foldlRecOn l F (hq s hs) fun u hu j hj => hafter j (fun e => hk (e ▸ hj)) u hu
    · exact ih hl ((List.mem_cons.1 hmem).resolve_left (Ne.symm hkq)) (hbefore k hkq s hs)

/-! ### The gate (R414) -/

section
variable {γ : Type} {g : State → γ} (hcis : ∀ c (f : Cistern → Vector CisPart 16) u, g (State.onCis u c fun x => { x with parts := f x }) = g u)
  (hgate : ∀ k u, g (State.onPart u k fun x => { x with gateSince := none }) = g u)
include hcis hgate

theorem settleGate_keeps_view (q : PartIx) (s : State) : g (settleGate q s) = g s := by
  unfold settleGate openGate
  dsimp only
  split
  · split
    · rfl
    · exact (hgate ..).trans (foldl_keeps g (fun _ _ => hcis ..) _ _)
  · rfl

end

/-! ### A transfer alone ends (R394) -/

/-- What the end of a transfer leaves as it was. -/
def besideTransfers (s : State) : Memories × DWord × Bvl × LinkRegs × LinkRegs :=
  (s.mem, s.time, s.bvl, (s.cistern 0).link, (s.cistern 1).link)

theorem besideTransfers_onCis (c : CisIx) (f : Cistern → Vector CisPart 16) (s : State) :
    besideTransfers (s.onCis c fun x => { x with parts := f x }) = besideTransfers s := by
  have hlink : ∀ k, ((s.onCis c fun x => { x with parts := f x }).cistern k).link = (s.cistern k).link := fun k => by
    rw [State.onCis_cistern_if]
    split
    · next h => rw [h]
    · rfl
  simp only [besideTransfers, hlink, State.onCis_mem, State.onCis_time, State.onCis_bvl]

section
variable {s : State} {q : PartIx} {o : FabricOp}

theorem settleGate_beside (q : PartIx) (s : State) : besideTransfers (settleGate q s) = besideTransfers s :=
  settleGate_keeps_view besideTransfers_onCis (fun _ _ => by rfl) q s

/-- What a partition's fabric is: its transfers, their records, and whether collectives are in progress. -/
def traffic (s : State) (k : PartIx) : List FabricOp × List (BitVec 128 × Word) × Bool :=
  ((s.part k).fabric, (s.part k).fabricRing, (s.part k).colls.isEmpty)

theorem traffic_onPart_of_ne {k r : PartIx} (h : k ≠ r) (f : Part → Part) (s : State) : traffic (s.onPart r f) k = traffic s k := by
  simp only [traffic, State.onPart_part_ne s f h]

theorem traffic_onPart (r k : PartIx) {f : Part → Part}
    (hf : ∀ x, ((f x).fabric, (f x).fabricRing, (f x).colls.isEmpty) = (x.fabric, x.fabricRing, x.colls.isEmpty)) (s : State) :
    traffic (s.onPart r f) k = traffic s k := by
  by_cases h : k = r
  · subst h
    simp only [traffic, State.onPart_part]
    exact hf _
  · exact traffic_onPart_of_ne h f s

theorem settleGate_traffic (q k : PartIx) (s : State) : traffic (settleGate q s) k = traffic s k :=
  settleGate_keeps_view (g := fun u => traffic u k) (fun _ _ _ => by rfl) (fun r u => traffic_onPart r k (fun _ => by rfl) u) q s

theorem onlyTransfer_iff : OnlyTransfer s q o ↔ (s.part q).fabric = [o] ∧ (∀ k : PartIx, k ≠ q → (s.part k).fabric = []) ∧
    ∀ k : PartIx, (s.part k).colls.isEmpty = true := by
  simp only [OnlyTransfer, List.isEmpty_iff]

theorem fabricIdle_iff : FabricIdle s ↔ ∀ k : PartIx, (s.part k).fabric = [] ∧ (s.part k).colls.isEmpty = true := by
  simp only [FabricIdle, List.isEmpty_iff]

/-- The states that have the traffic of another have its only transfer. -/
theorem OnlyTransfer.congr {t : State} (h : OnlyTransfer s q o) (ht : ∀ k, traffic t k = traffic s k) : OnlyTransfer t q o := by
  obtain ⟨hq, hother, hcolls⟩ := onlyTransfer_iff.1 h
  have hf : ∀ k, (t.part k).fabric = (s.part k).fabric := fun k => congrArg (fun v => v.1) (ht k)
  have hc : ∀ k, (t.part k).colls.isEmpty = (s.part k).colls.isEmpty := fun k => congrArg (fun v => v.2.2) (ht k)
  exact onlyTransfer_iff.2 ⟨(hf q).trans hq, fun k hk => (hf k).trans (hother k hk), fun k => (hc k).trans (hcolls k)⟩

theorem FabricIdle.congr {t : State} (h : FabricIdle s) (ht : ∀ k, traffic t k = traffic s k) : FabricIdle t :=
  fabricIdle_iff.2 fun k => ⟨(congrArg (fun v => v.1) (ht k)).trans (fabricIdle_iff.1 h k).1,
    (congrArg (fun v => v.2.2) (ht k)).trans (fabricIdle_iff.1 h k).2⟩

/-- What is left when the only transfer has ended with its record. -/
structure TransferEnded (s t : State) (q : PartIx) (o : FabricOp) : Prop where
  idle : FabricIdle t
  ring : (t.part q).fabricRing = (s.part q).fabricRing ++ [(fabricRecord o s.time.toNat, BitVec.ofNat 32 (fdEpoch o.desc))]
  beside : besideTransfers t = besideTransfers s

theorem transferEnded_of_only (h : OnlyTransfer s q o) (hd : fabricDone o = true) : TransferEnded s (finishFabric q s) q o := by
  obtain ⟨hq, hother, hcolls⟩ := h
  rw [fabricEnded o hq hd]
  have hring : traffic (settleGate q (s.onPart q fun x => { x with
      fabric := []
      fabricOld := x.fabricOld ++ [o].filter fun o => !o.isRead
      fabricRing := x.fabricRing ++ [(fabricRecord o s.time.toNat, BitVec.ofNat 32 (fdEpoch o.desc))] })) q =
      ([], (s.part q).fabricRing ++ [(fabricRecord o s.time.toNat, BitVec.ofNat 32 (fdEpoch o.desc))], (s.part q).colls.isEmpty) := by
    rw [settleGate_traffic]
    simp only [traffic, State.onPart_part]
  refine ⟨fabricIdle_iff.2 fun k => ?_, congrArg (fun v => v.2.1) hring, (settleGate_beside ..).trans (by rfl)⟩
  by_cases hk : k = q
  · subst hk
    exact ⟨congrArg (fun v => v.1) hring, (congrArg (fun v => v.2.2) hring).trans (List.isEmpty_iff.2 (hcolls k))⟩
  · have hother' := (settleGate_traffic q k _).trans (traffic_onPart_of_ne hk (fun x => { x with
      fabric := []
      fabricOld := x.fabricOld ++ [o].filter fun o => !o.isRead
      fabricRing := x.fabricRing ++ [(fabricRecord o s.time.toNat, BitVec.ofNat 32 (fdEpoch o.desc))] }) s)
    exact ⟨(congrArg (fun v => v.1) hother').trans (hother k hk),
      (congrArg (fun v => v.2.2) hother').trans (List.isEmpty_iff.2 (hcolls k))⟩

end

/-! ### Acknowledgement received (R395) -/

section
variable {s : State} {p : PortIx} {d : BitVec 12} {lc : Bool} {f : Frame} {x : Flow}

/-- A flow whose far device says whether it is in HOLD. -/
def flowHeld (now : DWord) (hold : Bool) (x : Flow) : Flow :=
  { x with held := if !hold then none else if x.held.isSome then x.held else some now }

theorem flowHeld_held (now : DWord) (hold : Bool) (x : Flow) : (flowHeld now hold x).held.isSome = hold := by
  unfold flowHeld
  cases hold
  · rfl
  · cases h : x.held <;> rfl

theorem isFlow_dev (p : PortIx) (d : BitVec 12) (lc : Bool) : (fun x => isFlow p d lc x && x.dev == d) = isFlow p d lc := by
  funext x
  by_cases hd : x.dev = d
  · rw [hd, beq_self_eq_true, Bool.and_true]
  · simp only [isFlow, beq_false_of_ne hd, Bool.and_false, Bool.false_and]

theorem noteHeld_flows (hit : Flow → Bool) (dev : BitVec 12) (hold : Bool) (s : State) : (noteHeld hit dev hold s).bvl.flows =
    updateWhere (fun x => hit x && x.dev == dev) (flowHeld s.time hold) s.bvl.flows := by
  unfold noteHeld
  dsimp only
  split
  · split
    · rfl
    · exact foldl_keeps (fun u : State => u.bvl.flows) (fun _ _ => by rfl) _ _
  · rfl

theorem noteHeld_flow (hold : Bool) (hx : flowOf s p d lc = some x) :
    flowOf (noteHeld (isFlow p d lc) d hold s) p d lc = some (flowHeld s.time hold x) := by
  rw [flowOf, noteHeld_flows, isFlow_dev,
    find?_updateWhere_of_keeps (f := flowHeld s.time hold) fun y hy => (isFlow_of_eq (x := y) ⟨rfl, rfl, rfl⟩).trans hy]
  exact congrArg (Option.map (flowHeld s.time hold)) hx

theorem noteHeld_traffic (hit : Flow → Bool) (dev : BitVec 12) (hold : Bool) (s : State) (k : PartIx) :
    traffic (noteHeld hit dev hold s) k = traffic s k := by
  unfold noteHeld
  dsimp only
  split
  · split
    · rfl
    · refine (foldl_keeps (fun u => traffic u k) (fun u r => traffic_onPart r k (fun x => ?_) u) _ _).trans (by rfl)
      simp only [List.isEmpty_map]
  · rfl

/-- A flow whose frames up to a PSN are acknowledged; `none_` says that no frame was. -/
def flowReleased (hi : Word) (none_ : Bool) (x : Flow) : Flow :=
  { x with
    unacked := x.unacked.filter fun g => !ackCovers hi (fPsn g)
    timeouts := if none_ then x.timeouts else 0
    timeoutUs := if none_ then x.timeoutUs else 20
    stalled := if none_ then x.stalled else none }

/-- The frames that an ACK releases. -/
def released (f : Frame) (x : Flow) : List Frame := x.unacked.filter fun g => ackCovers (fAux f) (fPsn g)

/-- The flow after an ACK, before the transfers of its frames are marked. -/
def ackNoted (p : PortIx) (f : Frame) (x : Flow) (s : State) : State :=
  onFlow p (fSrcDev f) (fLc f) 0 (flowReleased (fAux f) (released f x).isEmpty) (noteHeld (isFlow p (fSrcDev f) (fLc f)) (fSrcDev f) (fHold f) s)

/-- The chunks of the frames released are marked. -/
def ackMarked (p : PortIx) (f : Frame) (x : Flow) (s : State) : State := (released f x).foldl (fun s g => ackWrite g s) (ackNoted p f x s)

/-- Transfers of every partition that has some write their records. -/
def finishAll (s : State) : State :=
  forAll ((List.finRange 16).filter fun q => !(s.part q).fabric.isEmpty) (fun s q => finishFabric q s) s

theorem exec_ack_of_arrives (h : Arrives s p 3 f) (hx : flowOf s p (fSrcDev f) (fLc f) = some x) :
    exec (.ack p f) s = .next (pump (finishAll (ackMarked p f x s))) := by
  refine congrArg Outcome.next ((receiveFrame_of_arrives_control h (by decide) _).trans ?_)
  dsimp only
  rw [hx]
  rfl

theorem ackNoted_flow (hx : flowOf s p (fSrcDev f) (fLc f) = some x) : flowOf (ackNoted p f x s) p (fSrcDev f) (fLc f) =
    some (flowReleased (fAux f) (released f x).isEmpty (flowHeld s.time (fHold f) x)) :=
  flowOf_onFlow_of_some (psn := 0) (g := flowReleased (fAux f) (released f x).isEmpty) (fun _ => ⟨rfl, rfl, rfl⟩) (noteHeld_flow _ hx)

theorem ackNoted_traffic (k : PartIx) : traffic (ackNoted p f x s) k = traffic s k :=
  noteHeld_traffic (isFlow p (fSrcDev f) (fLc f)) (fSrcDev f) (fHold f) s k

/-- Acknowledgements change the partitions only. -/
theorem ackWrite_keeps_view {γ : Type} {g : State → γ} (hparts : ∀ r f u, g (State.onPart u r f) = g u) (f : Frame) (s : State) :
    g (ackWrite f s) = g s := by
  unfold ackWrite
  split
  · rfl
  · exact hparts ..

theorem ackMarked_keeps_view {γ : Type} {g : State → γ} (hparts : ∀ r f u, g (State.onPart u r f) = g u)
    (hbvl : ∀ v u, g { u with bvl := v } = g u) : g (ackMarked p f x s) = g s :=
  (foldl_keeps g (fun u k => ackWrite_keeps_view hparts k u) _ _).trans
    ((hbvl ..).trans (noteHeld_keeps_view hbvl (fun _ _ _ => hparts ..) ..))

theorem ackMarked_bvl : (ackMarked p f x s).bvl = (ackNoted p f x s).bvl :=
  foldl_keeps State.bvl (fun u k => ackWrite_keeps_view (fun _ _ _ => rfl) k u) _ _

theorem FabricIdle.ackWrite (h : FabricIdle s) (g : Frame) : FabricIdle (ackWrite g s) := by
  unfold Machine.ackWrite
  split
  · exact h
  · intro k
    rw [State.onPart_part_if]
    split
    · next hk =>
      subst hk
      obtain ⟨hf, hc⟩ := h (fSrcPart g)
      simp only [hf, hc, List.map_nil, and_self]
    · exact h k

theorem FabricIdle.ackMarked (h : FabricIdle s) (p : PortIx) (f : Frame) (x : Flow) : FabricIdle (ackMarked p f x s) :=
  List.foldlRecOn (motive := FabricIdle) (released f x) _ (h.congr fun _ => ackNoted_traffic _) fun _ hu g _ => hu.ackWrite g

theorem finishAll_of_idle (h : FabricIdle s) : finishAll s = s := by
  have hnone : (List.finRange 16).filter (fun q => !(s.part q).fabric.isEmpty) = [] :=
    List.filter_eq_nil_iff.2 fun q _ => by
      rw [(h q).1]
      exact Bool.false_ne_true
  rw [finishAll, hnone]
  rfl

/-- On an idle fabric an ACK changes its flow alone. -/
theorem ack_of_idle (h : Arrives s p 3 f) (hx : flowOf s p (fSrcDev f) (fLc f) = some x) (hidle : FabricIdle s) :
    ∃ t y, exec (.ack p f) s = .next t ∧ t.mem = s.mem ∧ t.cis = s.cis ∧ flowOf t p (fSrcDev f) (fLc f) = some y ∧
      y.unacked = x.unacked.filter (fun g => !ackCovers (fAux f) (fPsn g)) ∧ y.held.isSome = fHold f ∧ y.next = x.next ∧
      ((∃ g ∈ x.unacked, ackCovers (fAux f) (fPsn g) = true) → y.timeouts = 0 ∧ y.timeoutUs = 20 ∧ y.stalled = none) := by
  have hmarked := hidle.ackMarked p f x
  refine ⟨ackMarked p f x s, flowReleased (fAux f) (released f x).isEmpty (flowHeld s.time (fHold f) x), ?_, ?_, ?_, ?_, rfl,
    flowHeld_held .., rfl, ?_⟩
  · rw [exec_ack_of_arrives h hx, finishAll_of_idle hmarked, pump_of_idle hmarked]
  · exact ackMarked_keeps_view (g := State.mem) (fun _ _ _ => rfl) (fun _ _ => rfl)
  · exact ackMarked_keeps_view (g := State.cis) (fun _ _ _ => rfl) (fun _ _ => rfl)
  · rw [flowOf, ackMarked_bvl]
    exact ackNoted_flow hx
  · rintro ⟨g, hg, hcov⟩
    have hsome : (released f x).isEmpty = false :=
      List.isEmpty_eq_false_iff.2 (List.ne_nil_of_mem (List.mem_filter.2 ⟨hg, hcov⟩))
    rw [hsome]
    exact ⟨rfl, rfl, rfl⟩

/-- The one transfer of a partition, whose chunk a frame is. -/
structure FirstChunk (g : Frame) (q : PartIx) (o : FabricOp) : Prop where
  type : fTy g = 0
  part : fSrcPart g = q
  xfer : (fXfer g).toNat = fdXfer o.desc
  dev : BitVec.ofNat 12 (fld g.header 0x04 11 0) = fdDev o.desc
  addr : (fAddr g).toNat = fdRemote o.desc

theorem ackWrite_firstChunk {g : Frame} {q : PartIx} {o : FabricOp} (hg : FirstChunk g q o) (h : OnlyTransfer s q o)
    (hw : o.isRead = false) (hack : o.acked = []) : OnlyTransfer (ackWrite g s) q { o with acked := [(0, s.time)] } := by
  obtain ⟨hq, hother, hcolls⟩ := h
  obtain ⟨hty, rfl, hxfer, hdev, haddr⟩ := hg
  have hmarked : ∀ k, ((ackWrite g s).part k).fabric = if k = fSrcPart g then [{ o with acked := [(0, s.time)] }] else [] := fun k => by
    rw [ackWrite, if_neg (not_not_intro hty), State.onPart_part_if]
    split
    · simp only [hq, List.map_cons, List.map_nil, hw, hxfer, hdev, haddr, hack, Bool.not_false, decide_true, Bool.and_self,
        le_refl, if_true, Nat.sub_self, List.any_nil, Bool.false_eq_true, if_false]
    · exact hother k ‹_›
  have hempty : ∀ k, ((ackWrite g s).part k).colls = [] := fun k => by
    rw [ackWrite, if_neg (not_not_intro hty), State.onPart_part_if]
    split
    · simp only [hcolls, List.map_nil]
    · exact hcolls k
  exact ⟨(hmarked _).trans (if_pos rfl), fun k hk => (hmarked k).trans (if_neg hk), hempty⟩

theorem ackWrite_fabricRing (g : Frame) (k : PartIx) (s : State) : ((ackWrite g s).part k).fabricRing = (s.part k).fabricRing := by
  unfold ackWrite
  split
  · rfl
  · rw [State.onPart_part_if]
    split
    · next h => rw [h]
    · rfl

theorem finishAll_of_only {q : PartIx} {o : FabricOp} (h : OnlyTransfer s q o) : finishAll s = finishFabric q s := by
  obtain ⟨hq, hother, -⟩ := h
  have hiff : ∀ k : PartIx, (!(s.part k).fabric.isEmpty) = (k == q) := fun k => by
    by_cases hk : k = q
    · rw [hk, hq, beq_self_eq_true]
      rfl
    · rw [hother k hk, beq_false_of_ne hk]
      rfl
  have hbusy : (List.finRange 16).filter (fun k => !(s.part k).fabric.isEmpty) = [q] := by
    rw [List.filter_congr fun k _ => hiff k]
    exact (by decide : ∀ q : PartIx, (List.finRange 16).filter (fun k => k == q) = [q]) q
  rw [finishAll, hbusy]
  rfl

/-- The ACK of the only chunk of the only transfer ends it. -/
theorem ack_completes {g : Frame} {q : PartIx} {o : FabricOp} (h : Arrives s p 3 f) (hx : flowOf s p (fSrcDev f) (fLc f) = some x)
    (honly : OnlyTransfer s q o) (hw : o.isRead = false) (hack : o.acked = []) (hcount : chunkCount o.desc = 1) (hu : x.unacked = [g])
    (hcov : ackCovers (fAux f) (fPsn g) = true) (hg : FirstChunk g q o) :
    ∃ t, exec (.ack p f) s = .next t ∧ t.mem = s.mem ∧ (t.part q).fabric = [] ∧ (t.part q).fabricRing = (s.part q).fabricRing ++
      [(fabricRecord { o with acked := [(0, s.time)] } s.time.toNat, BitVec.ofNat 32 (fdEpoch o.desc))] := by
  have hreleased : released f x = [g] := by
    simp only [released, hu, List.filter_cons, hcov, if_true, List.filter_nil]
  have hmarked : ackMarked p f x s = ackWrite g (ackNoted p f x s) := by rw [ackMarked, hreleased]; rfl
  have htime : (ackNoted p f x s).time = s.time :=
    noteHeld_keeps_view (g := State.time) (fun _ _ => rfl) (fun _ _ _ => rfl) (isFlow p (fSrcDev f) (fLc f)) (fSrcDev f) (fHold f) s
  have honly' : OnlyTransfer (ackMarked p f x s) q { o with acked := [(0, s.time)] } := by
    rw [hmarked, ← htime]
    exact ackWrite_firstChunk hg (honly.congr fun k => ackNoted_traffic k) hw hack
  have hdone : fabricDone { o with acked := [(0, s.time)] } = true := by
    rw [fabricDone, hcount, hw]
    exact Bool.or_true _
  have hended := transferEnded_of_only honly' hdone
  have hring : ((ackMarked p f x s).part q).fabricRing = (s.part q).fabricRing := by
    rw [hmarked, ackWrite_fabricRing]
    exact congrArg (fun v => v.2.1) (ackNoted_traffic q)
  have htime' : (ackMarked p f x s).time = s.time := ackMarked_keeps_view (g := State.time) (fun _ _ _ => rfl) (fun _ _ => rfl)
  refine ⟨finishFabric q (ackMarked p f x s), ?_, ?_, (hended.idle q).1, ?_⟩
  · rw [exec_ack_of_arrives h hx, finishAll_of_only honly', pump_of_idle hended.idle]
  · exact (congrArg (fun v => v.1) hended.beside).trans (ackMarked_keeps_view (g := State.mem) (fun _ _ _ => rfl) (fun _ _ => rfl))
  · have hr := hended.ring
    rw [htime'] at hr
    exact hr.trans (congrArg (· ++ _) hring)

end

/-! ### A device out of reach (R395) -/

theorem satAdd_zero {w : Nat} (x : BitVec w) : satAdd x 0 = x := by
  have hx := x.isLt
  refine BitVec.eq_of_toNat_eq ?_
  rw [satAdd]
  split
  · rw [BitVec.toNat_ofNat, Nat.mod_eq_of_lt] <;> omega
  · rw [Nat.add_zero, BitVec.toNat_ofNat, Nat.mod_eq_of_lt hx]

section
variable {s : State} {q : PartIx} {d : BitVec 12} {o : FabricOp}

theorem State.onPart_id {f : Part → Part} (h : f (s.part q) = s.part q) : s.onPart q f = s := by
  have hset : s.parts.set q.val (s.part q) q.isLt = s.parts := Vector.set_getElem_self _
  rw [State.onPart, h, State.setPart, hset]

/-- A transfer in progress to a device. -/
def goesTo (d : BitVec 12) (o : FabricOp) : Bool := fdDev o.desc == d && o.status == 0

/-- A transfer that has failed. -/
def transferFailed (o : FabricOp) : FabricOp := { o with status := BitVec.ofNat 8 stFabricFail }

/-- The transfers and collectives of a partition with a device are marked as failed. -/
def farMarked (d : BitVec 12) (s : State) (q : PartIx) : State :=
  (s.onPart q fun x => { x with fabric := updateWhere (goesTo d) transferFailed x.fabric }).onPart q fun x => { x with
    colls := updateWhere (fun c => (neighbourDevs s c).contains d && c.status == 0)
      (fun c => { c with status := BitVec.ofNat 8 stFabricFail }) x.colls }

/-- The transfers that fail are counted. -/
def unreachCounted (n : Nat) (s : State) : State :=
  s.onCis 0 fun x => { x with link := { x.link with unreach := satAdd x.link.unreach n } }

/-- A job that waits for a device's settlement. -/
def settlesWith (d : BitVec 12) (j : Job) : Bool := j.settled.any fun e => e.1 == d && !e.2.2

/-- A partition gives up what goes to a device out of reach. -/
def farGivenUp (d : BitVec 12) (s : State) (q : PartIx) : State :=
  onJobs q (settlesWith d) (fun j => { j with passFailed := true })
    (finishFabric q (unreachCounted ((s.part q).fabric.filter (goesTo d)).length (farMarked d s q)))

/-- The flows to a device give up their frames. -/
def flowsGivenUp (d : BitVec 12) (s : State) : State :=
  { s with bvl := { s.bvl with flows := updateWhere (fun x => x.dev == d) flowLeft s.bvl.flows } }

/-- Some flow to the device has stood for 1 ms. -/
def isStuck (s : State) (d : BitVec 12) : Bool :=
  s.bvl.flows.any fun x => x.dev == d && (match x.stalled with
    | some t => 1000000 ≤ (s.time - t).toNat
    | none => false)

theorem exec_fabricUnreachable : exec (.fabricUnreachable d) s =
    .next (if !isStuck s d then s else pump ((List.finRange 16).foldl (farGivenUp d) (flowsGivenUp d s))) := rfl

theorem fabricUnreachable_of_flowing (h : ∀ x ∈ s.bvl.flows, x.dev = d → x.stalled = none) : exec (.fabricUnreachable d) s = .next s := by
  have hno : isStuck s d = false := List.any_eq_false.2 fun x hx hstuck => by
    obtain ⟨hdev, hst⟩ := Bool.and_eq_true_iff.1 hstuck
    rw [h x hx (beq_iff_eq.1 hdev)] at hst
    exact Bool.false_ne_true hst
  rw [exec_fabricUnreachable, hno]
  rfl

theorem onJobs_traffic (r k : PartIx) (p : Job → Bool) (f : Job → Job) (s : State) : traffic (onJobs r p f s) k = traffic s k :=
  traffic_onPart r k (fun _ => by rfl) s

/-- A partition without traffic gives up nothing. -/
theorem farGivenUp_of_idle {k : PartIx} (hf : (s.part k).fabric = []) (hc : (s.part k).colls = []) :
    farGivenUp d s k = onJobs k (settlesWith d) (fun j => { j with passFailed := true }) s := by
  have hmarked : farMarked d s k = s := by
    have hfabric : (s.onPart k fun x => { x with fabric := updateWhere (goesTo d) transferFailed x.fabric }) = s := State.onPart_id (by
      rw [hf]
      show { s.part k with fabric := [] } = s.part k
      rw [← hf])
    rw [farMarked, hfabric]
    refine State.onPart_id ?_
    rw [hc]
    show { s.part k with colls := [] } = s.part k
    rw [← hc]
  have hcounted : unreachCounted 0 s = s := State.onCis_id (by rw [satAdd_zero])
  have hfinish : finishFabric k s = s := finishFabric_of_none_done (by rw [hf]; exact fun _ h => absurd h List.not_mem_nil)
  rw [farGivenUp, hmarked, hf, List.filter_nil, List.length_nil, hcounted, hfinish]

/-- What is counted and left when one transfer to the device fails. -/
def besideFailed (s : State) : Memories × DWord × Bvl × LinkRegs × LinkRegs :=
  (s.mem, s.time, s.bvl, { (s.cistern 0).link with unreach := satAdd (s.cistern 0).link.unreach 1 }, (s.cistern 1).link)

theorem unreachCounted_beside (s : State) : besideTransfers (unreachCounted 1 s) = besideFailed s := by
  have h1 : (unreachCounted 1 s).cistern 1 = s.cistern 1 := State.onCis_cistern_ne s _ (by decide)
  rw [besideTransfers, h1]
  simp only [unreachCounted, State.onCis_cistern, State.onCis_mem, State.onCis_time, State.onCis_bvl, besideFailed]

theorem farMarked_only (h : OnlyTransfer s q o) (hto : goesTo d o = true) : OnlyTransfer (farMarked d s q) q (transferFailed o) := by
  obtain ⟨hq, hother, hcolls⟩ := h
  refine ⟨?_, fun k hk => ?_, fun k => ?_⟩
  · simp only [farMarked, State.onPart_part, hq, updateWhere, List.map_cons, List.map_nil, hto, if_true]
  · simp only [farMarked, State.onPart_part_ne _ _ hk, hother k hk]
  · by_cases hk : k = q
    · subst hk
      simp only [farMarked, State.onPart_part, hcolls, updateWhere, List.map_nil]
    · simp only [farMarked, State.onPart_part_ne _ _ hk, hcolls k]

theorem farMarked_ring : ((farMarked d s q).part q).fabricRing = (s.part q).fabricRing := by
  simp only [farMarked, State.onPart_part]

/-- The only transfer, to the device, ends with its failure. -/
theorem farGivenUp_of_only (h : OnlyTransfer s q o) (hto : goesTo d o = true) : FabricIdle (farGivenUp d s q) ∧
    besideTransfers (farGivenUp d s q) = besideFailed s ∧ ((farGivenUp d s q).part q).fabricRing = (s.part q).fabricRing ++
      [(fabricRecord (transferFailed o) s.time.toNat, BitVec.ofNat 32 (fdEpoch o.desc))] := by
  have hone : ((s.part q).fabric.filter (goesTo d)).length = 1 := by
    rw [h.1, List.filter_cons_of_pos hto]
    rfl
  have hended := transferEnded_of_only (s := unreachCounted 1 (farMarked d s q)) (farMarked_only h hto) (by rfl)
  rw [farGivenUp, hone]
  refine ⟨hended.idle.congr fun k => onJobs_traffic .., ?_, ?_⟩
  · calc besideTransfers _ = besideTransfers (finishFabric q (unreachCounted 1 (farMarked d s q))) := by rfl
      _ = besideTransfers (unreachCounted 1 (farMarked d s q)) := hended.beside
      _ = besideFailed (farMarked d s q) := unreachCounted_beside _
      _ = besideFailed s := by rfl
  · calc _ = ((finishFabric q (unreachCounted 1 (farMarked d s q))).part q).fabricRing := congrArg (fun v => v.2.1) (onJobs_traffic q q ..)
      _ = ((farMarked d s q).part q).fabricRing ++ [(fabricRecord (transferFailed o) s.time.toNat, BitVec.ofNat 32 (fdEpoch o.desc))] :=
        hended.ring
      _ = _ := by rw [farMarked_ring]

/-- The only transfer goes to a device that no port has reached for 1 ms. -/
theorem fabricUnreachable_fails {x : Flow} {at_ : DWord} (h : OnlyTransfer s q o) (hst : o.status = 0) (hdev : fdDev o.desc = d)
    (hx : x ∈ s.bvl.flows) (hxd : x.dev = d) (hstall : x.stalled = some at_) (hlong : 1000000 ≤ (s.time - at_).toNat) :
    ∃ t, exec (.fabricUnreachable d) s = .next t ∧ t.mem = s.mem ∧ (t.part q).fabric = [] ∧
      (∀ y ∈ t.bvl.flows, y.dev = d → y.unacked = []) ∧ (t.cistern 0).link.unreach = satAdd (s.cistern 0).link.unreach 1 ∧
      (t.part q).fabricRing = (s.part q).fabricRing ++
        [(fabricRecord { o with status := 0x10 } s.time.toNat, BitVec.ofNat 32 (fdEpoch o.desc))] := by
  have hstuck : isStuck s d = true := List.any_eq_true.2 ⟨x, hx, by
    rw [hxd, beq_self_eq_true, hstall]
    exact decide_eq_true hlong⟩
  have hto : goesTo d o = true := by rw [goesTo, hdev, hst, beq_self_eq_true]; rfl
  have hjobs : ∀ (k : PartIx) (u : State),
      besideTransfers (onJobs k (settlesWith d) (fun j => { j with passFailed := true }) u) = besideTransfers u :=
    fun _ _ => by rfl
  have hring : ∀ (k : PartIx) (u : State), ((onJobs k (settlesWith d) (fun j => { j with passFailed := true }) u).part q).fabricRing =
      (u.part q).fabricRing := fun k u => congrArg (fun v => v.2.1) (onJobs_traffic k q ..)
  have hfold := foldl_turns_once (F := farGivenUp d) (q := q) (l := List.finRange 16)
    (I := fun u => OnlyTransfer u q o ∧ besideTransfers u = besideTransfers (flowsGivenUp d s) ∧ (u.part q).fabricRing = (s.part q).fabricRing)
    (J := fun u => FabricIdle u ∧ besideTransfers u = besideFailed (flowsGivenUp d s) ∧ (u.part q).fabricRing = (s.part q).fabricRing ++
      [(fabricRecord (transferFailed o) s.time.toNat, BitVec.ofNat 32 (fdEpoch o.desc))])
    (fun k hk u ⟨honly, hbeside, hr⟩ => by
      rw [farGivenUp_of_idle (honly.2.1 k hk) (honly.2.2 k)]
      exact ⟨honly.congr fun j => onJobs_traffic .., (hjobs k u).trans hbeside, (hring k u).trans hr⟩)
    (fun u ⟨honly, hbeside, hr⟩ => by
      obtain ⟨hidle, hbeside', hr'⟩ := farGivenUp_of_only honly hto
      have htime : u.time = s.time := congrArg (fun v => v.2.1) hbeside
      have hfailed : besideFailed u = besideFailed (flowsGivenUp d s) := congrArg
        (fun v : Memories × DWord × Bvl × LinkRegs × LinkRegs =>
          (v.1, v.2.1, v.2.2.1, { v.2.2.2.1 with unreach := satAdd v.2.2.2.1.unreach 1 }, v.2.2.2.2)) hbeside
      rw [htime, hr] at hr'
      exact ⟨hidle, hbeside'.trans hfailed, hr'⟩)
    (fun k _ u ⟨hidle, hbeside, hr⟩ => by
      rw [farGivenUp_of_idle (hidle k).1 (hidle k).2]
      exact ⟨hidle.congr fun j => onJobs_traffic .., (hjobs k u).trans hbeside, (hring k u).trans hr⟩)
    (List.nodup_finRange 16) (List.mem_finRange q) (s := flowsGivenUp d s) ⟨h.congr fun _ => by rfl, rfl, rfl⟩
  have hexec : exec (.fabricUnreachable d) s = .next (pump ((List.finRange 16).foldl (farGivenUp d) (flowsGivenUp d s))) := by
    rw [exec_fabricUnreachable, hstuck]
    rfl
  generalize (List.finRange 16).foldl (farGivenUp d) (flowsGivenUp d s) = t at hfold hexec
  obtain ⟨hidle, hbeside, hr⟩ := hfold
  simp only [besideTransfers, besideFailed, Prod.mk.injEq] at hbeside
  obtain ⟨hmem, -, hbvl, hlink, -⟩ := hbeside
  refine ⟨t, ?_, hmem, (hidle q).1, ?_, congrArg LinkRegs.unreach hlink, hr⟩
  · rw [hexec, pump_of_idle hidle]
  · intro y hy hyd
    rw [hbvl] at hy
    obtain ⟨z, -, rfl⟩ := List.mem_map.1 hy
    by_cases hz : z.dev == d
    · rw [if_pos hz]
      rfl
    · rw [if_neg hz] at hyd
      exact absurd (beq_iff_eq.2 hyd) hz

end

/-- Settles O49: a flow takes its frames in sequence, answers what it does not take, and sends again what is not acknowledged. The sequenced
frames are entry 67 of the assumption log, the ACK with HOLD entry 69, what drops a frame entry 71. -/
theorem flowsKeepSequence : Obligations.FlowsKeepSequence := by
  unfold Obligations.FlowsKeepSequence
  dsimp only
  refine ⟨fun s p f => ⟨fun c hc => ⟨fun h => exec_frame_of_down h c hc, fun hup h => exec_frame_of_bad hup h c hc⟩,
      fun h => ⟨writeFrame_of_hold h, writeFrame_of_not_next h, fun hin => ?_⟩⟩,
    fun s p f x hx => ⟨fun h => ⟨ack_of_idle h hx, ?_⟩, nak_resends hx⟩,
    fun s p d lc => ⟨fun x hx => ⟨ackTimer_of_none_owed hx, ackTimer_acknowledges hx, retransmitTimeout_of_nothing hx, ?_⟩,
      fabricUnreachable_of_flowing, fun q o x at_ => fabricUnreachable_fails⟩⟩
  · rw [flowFor_sinceAck]
    exact writeFrame_of_inOrder hin
  · intro q o g honly hw hack _ hcount hu hcov hty hpart hxfer hdev haddr
    exact ack_completes h hx honly hw hack hcount hu hcov ⟨hty, hpart, hxfer, hdev, haddr⟩
  · exact fun g rest hu hh => ⟨retransmitTimeout_resends hx hu hh, fun h7 n => retransmitTimeout_moves hx hu hh h7⟩

end Sys2Proof.Machine
end

section
/-! Fabric transfers: descriptors, chunks that leave and chunks that enter memory (R392 to R398). What a READ_REQ carries, the local address
in READ_DATA and a failed read as an empty frame with AUX are entry 68 of the assumption log. -/

namespace Sys2Proof.Machine

open Host

/-! ### T2 in one page (R226, R282) -/

section
variable {s : State} {q : PartIx} {a n : Nat} {bs : List Byte}

theorem routedRead_of_t2 (h : tierOf s a = .t2) (bed : Option BedIx) (flips : Flips) :
    routedRead q bed a n 0 flips s = (s, .ok (ramRead s a n)) := by
  simp only [routedRead, devRead, h, reduceCtorEq, if_false]

theorem accessReady_of_t2 (h : tierOf s a = .t2) (bed : Option BedIx) (write : Bool) : accessReady s q bed a n write = true := by
  rw [accessReady, h]
  rfl

theorem mapped_of_t2 (h : tierOf s a = .t2) : mapped s q a n = true := by
  rw [mapped, h]
  rfl

/-- The cistern of a T2 address. -/
def t2Cis (a : Nat) : CisIx := Fin.ofNat 2 ((a - t2Base) / 0x10000000)

theorem routedWrite_of_onePage {epoch : Nat} (h : onePage s a bs.length) (hacc : epochCheck (cisEpoch s (t2Cis a) q) epoch = .accept)
    (bed : Option BedIx) : routedWrite q bed a 0 epoch bs s = (ramWrite a bs s, none) := by
  obtain ⟨hn, hpage, htier⟩ := h
  have hfit : a % pageBytes + bs.length ≤ pageBytes := by
    simp only [pageBytes] at hpage ⊢
    omega
  rw [routedWrite, if_neg (by rw [htier]; decide), devWrite, pieces_of_fits hn hfit]
  simp only [devWritePieces, Nat.sub_self, List.drop_zero, List.take_length, devWritePiece_of_acceptedT2 ⟨htier, hacc⟩]

/-- A write without an epoch is accepted. -/
theorem epochCheck_none (e : Nat → BitVec 25) : epochCheck e 0xFFFFFFFF = .accept := if_pos rfl

end

/-! ### Frames that leave (R392) -/

section
variable {s : State} {p : PortIx} {d : BitVec 12} {lc : Bool} {h : Hdr} {payload : List Byte}

/-- The type of a frame, whatever its length. -/
theorem fTy_ownFrame_of_lt (hty : h.ty < 16) : fTy (ownFrame s p d h payload) = h.ty := by
  have hbits : (mkHeader h payload).toNat / 2 ^ 4 % 2 ^ 4 = h.ty := by
    have := h.last.toNat_lt; have := h.lc.toNat_lt; have := h.restart.toNat_lt; have := h.hold.toNat_lt
    rw [mkHeader, BitVec.toNat_ofNat]
    omega
  rw [fTy, fld, bitsOf_eq]
  exact hbits

/-- A header as it leaves on a flow. -/
def sentHdr (h : Hdr) (psn : Word) (lc : Bool) : Hdr := { h with psn := psn, lc := lc, hold := false }

theorem sendOn_wire (p : PortIx) (d : BitVec 12) (lc : Bool) (h : Hdr) (payload : List Byte) (s : State) :
    ∃ psn, (sendOn p d lc h payload s).bvl.wire = s.bvl.wire ++ [(p, ownFrame s p d (sentHdr h psn lc) payload)] := ⟨_, rfl⟩

theorem sendOn_lastFrame (p : PortIx) (d : BitVec 12) (lc : Bool) (h : Hdr) (payload : List Byte) (s : State) :
    ∃ psn, lastFrame (sendOn p d lc h payload s) = some (p, ownFrame s p d (sentHdr h psn lc) payload) := by
  obtain ⟨psn, hwire⟩ := sendOn_wire p d lc h payload s
  refine ⟨psn, ?_⟩
  rw [lastFrame, hwire, List.getLast?_append]
  rfl

end

/-! ### Descriptors (R394) -/

section
variable {d : BitVec 512} {s : State}

theorem checkFabric_status {st : Nat} (h : checkFabric d s = some st) : BitVec.ofNat 8 st ≠ 0 := by
  have hmem : st = stIllegal ∨ st = stAlign ∨ st = stAddrFault := by
    simp only [checkFabric, firstBreach] at h
    split at h
    · exact .inl (Option.some.inj h).symm
    · split at h
      · exact .inr (.inl (Option.some.inj h).symm)
      · split at h
        · exact .inr (.inr (Option.some.inj h).symm)
        · exact nomatch h
  rcases hmem with rfl | rfl | rfl <;> decide

theorem checkFabric_good (h : checkFabric d s = none) : fdOp d < 2 ∧ 256 ≤ fdBytes d := by
  simp only [checkFabric, firstBreach] at h
  split at h
  · exact nomatch h
  · next hbad =>
    simp only [Bool.or_eq_true, decide_eq_true_eq, not_or] at hbad
    omega

theorem chunkAt_of_one (h : chunkCount d = 1) (hn : 0 < fdBytes d) : chunkAt d 0 = (0, fdBytes d) := by
  have hfit : fdBytes d ≤ (fdRemote d / 4096 + 0 + 1) * 4096 - fdRemote d := by
    rw [chunkCount] at h
    omega
  rw [chunkAt, if_pos rfl, Nat.min_eq_left hfit, Nat.sub_zero]

theorem fdBytes_of_one (h : chunkCount d = 1) : fdBytes d ≤ 4096 := by
  rw [chunkCount] at h
  omega

theorem chunkCount_pos (d : BitVec 512) : 0 < chunkCount d := Nat.succ_pos _

/-- A descriptor as it is posted. -/
def postedOp (d : BitVec 512) (status : BitVec 8) : FabricOp :=
  { desc := d, isRead := decide (fdOp d = 1), sent := 0, acked := [], received := [], status := status }

/-- The descriptor is the partition's next transfer; a WRITE closes the gate. -/
def posted (d : BitVec 512) (s : State) : State :=
  let s1 := s.onPart (fdPart d) fun x => { x with fabric := x.fabric ++ [postedOp d (BitVec.ofNat 8 ((checkFabric d s).getD 0))] }
  if fdOp d = 0 then closeGate (fdPart d) s1 else s1

/-- The command that posts a descriptor. -/
def postCommand (d : BitVec 512) : Instr := if fdOp d = 1 then .fabricRead d else .fabricWrite d

theorem exec_postCommand (hr : (s.part (fdPart d)).resetStep = .none) (hd : (s.part (fdPart d)).defined = true) :
    exec (postCommand d) s = .next (pump (finishFabric (fdPart d) (posted d s))) := by
  have hpost : postFabric d s = pump (finishFabric (fdPart d) (posted d s)) := by
    rw [postFabric, if_neg (by rw [hr, hd]; decide)]
    rfl
  rw [postCommand, ← hpost]
  split
  · next h => exact congrArg Outcome.next (if_pos h)
  · next h => exact congrArg Outcome.next (if_pos h)

theorem posted_beside : besideTransfers (posted d s) = besideTransfers s := by
  unfold posted
  dsimp only
  split <;> rfl

theorem closeGate_traffic (q k : PartIx) (s : State) : traffic (closeGate q s) k = traffic s k := traffic_onPart q k (fun _ => by rfl) s

theorem posted_traffic (k : PartIx) : traffic (posted d s) k = traffic (s.onPart (fdPart d) fun x => { x with
    fabric := x.fabric ++ [postedOp d (BitVec.ofNat 8 ((checkFabric d s).getD 0))] }) k := by
  unfold posted
  dsimp only
  split
  · exact closeGate_traffic ..
  · rfl

theorem posted_only (h : FabricIdle s) : OnlyTransfer (posted d s) (fdPart d) (postedOp d (BitVec.ofNat 8 ((checkFabric d s).getD 0))) := by
  refine OnlyTransfer.congr ⟨?_, fun k hk => ?_, fun k => ?_⟩ fun k => posted_traffic k
  · rw [State.onPart_part, (h _).1]
    rfl
  · rw [State.onPart_part_ne _ _ hk, (h k).1]
  · rw [State.onPart_part_if]
    split
    · exact (h _).2
    · exact (h k).2

theorem posted_ring : ((posted d s).part (fdPart d)).fabricRing = (s.part (fdPart d)).fabricRing := by
  have h := congrArg (fun v => v.2.1) (posted_traffic (d := d) (s := s) (fdPart d))
  simp only [traffic, State.onPart_part] at h
  exact h

theorem fabricDone_of_fresh {o : FabricOp} (hs : o.status = 0) (ha : o.acked = []) (hr : o.received = []) : fabricDone o = false := by
  have hne : ¬ 0 = chunkCount o.desc := by
    have := chunkCount_pos o.desc
    omega
  rw [fabricDone, hs, ha, hr]
  simp only [List.length_nil, ite_self, hne, decide_false, ne_eq, not_true_eq_false, Bool.or_self]

theorem fabricDone_postedOp : fabricDone (postedOp d 0) = false := fabricDone_of_fresh rfl rfl rfl

theorem posted_keeps_view {γ : Type} {g : State → γ} (hpart : ∀ r f u, g (State.onPart u r f) = g u) : g (posted d s) = g s := by
  unfold posted
  dsimp only
  split
  · exact (hpart ..).trans (hpart ..)
  · exact hpart ..

theorem isSome_of_kept (x : Option DWord) (t : DWord) : (if x.isNone then some t else x).isSome = true := by
  cases x <;> rfl

section
variable (hr : (s.part (fdPart d)).resetStep = .none) (hd : (s.part (fdPart d)).defined = true) (hidle : FabricIdle s)
include hr hd hidle

/-- A descriptor that breaches a check ends at once with its status. -/
theorem postCommand_breach {st : Nat} (hst : checkFabric d s = some st) : ∃ t, exec (postCommand d) s = .next t ∧ t.mem = s.mem ∧
    t.bvl = s.bvl ∧ (t.part (fdPart d)).fabric = [] ∧ (t.part (fdPart d)).fabricRing = (s.part (fdPart d)).fabricRing ++
      [(fabricRecord (postedOp d (BitVec.ofNat 8 st)) s.time.toNat, BitVec.ofNat 32 (fdEpoch d))] := by
  have honly := posted_only (d := d) hidle
  rw [hst] at honly
  have hdone : fabricDone (postedOp d (BitVec.ofNat 8 st)) = true := by
    rw [fabricDone, Bool.or_eq_true]
    exact .inl (decide_eq_true (checkFabric_status hst))
  have hended := transferEnded_of_only honly hdone
  have hbeside := hended.beside.trans posted_beside
  have htime : (posted d s).time = s.time := congrArg (fun v => v.2.1) (posted_beside (d := d) (s := s))
  have hring := hended.ring
  rw [posted_ring, htime] at hring
  refine ⟨finishFabric (fdPart d) (posted d s), ?_, ?_, ?_, (hended.idle _).1, hring⟩
  · rw [exec_postCommand hr hd, pump_of_idle hended.idle]
  · exact congrArg (fun v => v.1) hbeside
  · exact congrArg (fun v => v.2.2.1) hbeside

end

/-! ### The traffic of one transfer (R394) -/

section
variable {q : PartIx} {o : FabricOp}

theorem pumpFabric_of_stuck (hf : (s.part q).fabric = [o]) (hs : sendChunk q 0 s = none) (fuel : Nat) : pumpFabric q fuel 0 s = s := by
  have hend : ∀ fuel, pumpFabric q fuel 1 s = s := fun fuel => by
    cases fuel with
    | zero => rfl
    | succ fuel => rw [pumpFabric, hf]; rfl
  cases fuel with
  | zero => rfl
  | succ fuel =>
    rw [pumpFabric, hf, hs, if_neg (by rw [List.length_singleton]; decide)]
    exact hend fuel

/-- A chunk that may not go: its transfer has sent all, or the device is in HOLD. -/
theorem sendChunk_of_waiting (hf : (s.part q).fabric = [o]) (h : chunkCount o.desc ≤ o.sent ∨ holdActive s = true) : sendChunk q 0 s = none := by
  unfold sendChunk
  rw [hf]
  dsimp only [List.getElem?_cons_zero]
  refine if_pos ?_
  rcases h with h | h
  · rw [decide_eq_true h, Bool.or_true, Bool.true_or, Bool.true_or]
  · rw [h, Bool.or_true, Bool.true_or]

theorem pump_of_stuck (h : OnlyTransfer s q o) (hs : sendChunk q 0 s = none) (hd : fabricDone o = false) : pump s = s := by
  obtain ⟨hq, hother, hcolls⟩ := h
  rw [pump_of_only (by rw [hq]; exact List.cons_ne_nil _ _) hother hcolls, pumpFabric_of_stuck hq hs,
    finishFabric_of_none_done (by rw [hq]; exact fun x hx => List.mem_singleton.1 hx ▸ hd), pumpColls_of_no_colls (hcolls q)]

/-- The transfer has sent one chunk more. -/
def sentOne (o : FabricOp) : FabricOp := { o with sent := o.sent + 1 }

theorem onFabric_of_one (hf : (s.part q).fabric = [o]) (f : FabricOp → FabricOp) :
    onFabric q 0 f s = s.onPart q fun x => { x with fabric := [f o] } := by
  refine State.onPart_congr ?_
  rw [hf]
  rfl

theorem failFabric_of_one (hf : (s.part q).fabric = [o]) (st : Nat) :
    failFabric q 0 st s = s.onPart q fun x => { x with fabric := [{ o with status := BitVec.ofNat 8 st }] } := by
  refine State.onPart_congr ?_
  rw [hf]
  rfl

theorem OnlyTransfer.replaced {o' : FabricOp} (h : OnlyTransfer s q o) : OnlyTransfer (s.onPart q fun x => { x with fabric := [o'] }) q o' := by
  obtain ⟨-, hother, hcolls⟩ := h
  refine ⟨?_, fun k hk => ?_, fun k => ?_⟩
  · rw [State.onPart_part]
  · rw [State.onPart_part_ne _ _ hk, hother k hk]
  · rw [State.onPart_part_if]
    split
    · exact hcolls q
    · exact hcolls k

theorem pump_of_sent {s1 : State} {o1 : FabricOp} (h : OnlyTransfer s q o) (hsend : sendChunk q 0 s = some s1) (h1 : OnlyTransfer s1 q o1)
    (hs : sendChunk q 0 s1 = none) (hd : fabricDone o1 = false) : pump s = s1 := by
  obtain ⟨hq, hother, hcolls⟩ := h
  have hpump : pumpFabric q (pumpFuel s q) 0 s = s1 := by
    rw [pumpFuel, pumpFabric, hq, hsend, if_neg (by rw [List.length_singleton]; decide)]
    exact pumpFabric_of_stuck h1.1 hs _
  rw [pump_of_only (by rw [hq]; exact List.cons_ne_nil _ _) hother hcolls, hpump,
    finishFabric_of_none_done (by rw [h1.1]; exact fun x hx => List.mem_singleton.1 hx ▸ hd), pumpColls_of_no_colls (h1.2.2 q)]

/-- The bytes that the only chunk of a transfer carries. -/
def firstPayload (s : State) (o : FabricOp) : List Byte :=
  if o.isRead then readReqPayload o.desc 0 else ramRead s (fdLocal o.desc) (fdBytes o.desc)

/-- The only chunk of a transfer leaves. -/
def firstSent (p : PortIx) (q : PartIx) (o : FabricOp) (s : State) : State :=
  (sendOn p (fdDev o.desc) (fdLc o.desc) (chunkHdr s o 0) (firstPayload s o) s).onPart q fun x => { x with fabric := [sentOne o] }

theorem firstSent_keeps_view {γ : Type} {g : State → γ} (hbvl : ∀ v u, g { u with bvl := v } = g u)
    (hpart : ∀ r f u, g (State.onPart u r f) = g u) (p : PortIx) (q : PartIx) (o : FabricOp) (s : State) : g (firstSent p q o s) = g s :=
  (hpart ..).trans (sendOn_keeps_view hbvl ..)

theorem firstSent_only {p : PortIx} (h : OnlyTransfer s q o) : OnlyTransfer (firstSent p q o s) q (sentOne o) :=
  OnlyTransfer.replaced (o := o) (h.congr fun k => sendOn_keeps_view (g := fun u => traffic u k) (fun _ _ => by rfl) ..)

theorem sendChunk_first {p : PortIx} (hf : (s.part q).fabric = [o]) (hstatus : o.status = 0) (hsent : o.sent = 0) (hone : chunkCount o.desc = 1)
    (hn : 0 < fdBytes o.desc) (hh : holdActive s = false) (htier : tierOf s (fdLocal o.desc) = .t2)
    (hport : portFor s (fdLocal o.desc) 0 (fdDev o.desc) = some p) (hwin : windowOpen s p (fdDev o.desc) (fdLc o.desc) = true) :
    sendChunk q 0 s = some (firstSent p q o s) := by
  have hbump : ∀ payload, onFabric q 0 (fun o => { o with sent := o.sent + 1 })
      (sendOn p (fdDev o.desc) (fdLc o.desc) (chunkHdr s o 0) payload s) =
      (sendOn p (fdDev o.desc) (fdLc o.desc) (chunkHdr s o 0) payload s).onPart q fun x => { x with fabric := [sentOne o] } :=
    fun payload => onFabric_of_one (s := sendOn p (fdDev o.desc) (fdLc o.desc) (chunkHdr s o 0) payload s) (o := o) hf sentOne
  have hgo : (decide (o.status ≠ 0) || decide (chunkCount o.desc ≤ 0) || holdActive s || fdFence o.desc && decide (0 ≠ 0)) = false := by
    rw [hstatus, hone, hh]
    simp
  unfold sendChunk
  rw [hf]
  dsimp only [List.getElem?_cons_zero]
  rw [hsent, chunkAt_of_one hone hn]
  dsimp only
  rw [Nat.add_zero, Nat.sub_self, hgo, if_neg Bool.false_ne_true, hport]
  dsimp only
  rw [hwin, if_neg (by decide), firstSent, firstPayload]
  cases o.isRead
  · rw [if_neg Bool.false_ne_true, accessReady_of_t2 htier, if_neg (by decide), routedRead_of_t2 htier, if_neg Bool.false_ne_true]
    exact congrArg some (hbump _)
  · rw [if_pos rfl, if_pos rfl]
    exact congrArg some (hbump _)

/-- The header of a transfer's only chunk has its fields' widths. -/
theorem hdrFits_firstSent (hone : chunkCount o.desc = 1) (psn : Word) :
    HdrFits (sentHdr (chunkHdr s o 0) psn (fdLc o.desc)) (firstPayload s o) := by
  have hbytes := fdBytes_of_one hone
  refine ⟨?_, (fdPart o.desc).isLt, ?_, ?_⟩
  · change (if o.isRead then 1 else 0) < 16
    split <;> decide
  · change fdDstPart o.desc < 16
    rw [fdDstPart, fld, bitsOf_eq]
    exact Nat.mod_lt _ (by decide)
  · rw [firstPayload]
    split
    · rw [readReqPayload, List.length_append, bytesOf_length, bytesOf_length]
      decide
    · rw [length_ramRead]
      omega

end

section
variable (hr : (s.part (fdPart d)).resetStep = .none) (hd : (s.part (fdPart d)).defined = true) (hidle : FabricIdle s)
include hr hd hidle

theorem exec_postCommand_of_good (hgood : checkFabric d s = none) : exec (postCommand d) s = .next (pump (posted d s)) ∧
    OnlyTransfer (posted d s) (fdPart d) (postedOp d 0) := by
  have honly := posted_only (d := d) hidle
  rw [hgood] at honly
  refine ⟨?_, honly⟩
  rw [exec_postCommand hr hd, finishFabric_of_none_done]
  rw [honly.1]
  exact fun x hx => List.mem_singleton.1 hx ▸ fabricDone_postedOp

/-- In HOLD a good descriptor waits. -/
theorem postCommand_hold (hgood : checkFabric d s = none) (hh : holdActive s = true) : ∃ t, exec (postCommand d) s = .next t ∧
    t.mem = s.mem ∧ t.bvl = s.bvl ∧ (t.part (fdPart d)).fabric = [postedOp d 0] ∧
    (t.part (fdPart d)).fabricRing = (s.part (fdPart d)).fabricRing ∧ (fdOp d ≠ 1 → (t.part (fdPart d)).gateSince.isSome = true) := by
  obtain ⟨hexec, honly⟩ := exec_postCommand_of_good hr hd hidle hgood
  have hhold : holdActive (posted d s) = true := by
    rw [← hh]
    unfold posted
    dsimp only
    split <;> rfl
  refine ⟨posted d s, ?_, congrArg (fun v => v.1) posted_beside, congrArg (fun v => v.2.2.1) posted_beside, honly.1, posted_ring, fun hop => ?_⟩
  · rw [hexec, pump_of_stuck honly (sendChunk_of_waiting honly.1 (.inr hhold)) fabricDone_postedOp]
  · have hzero : fdOp d = 0 := by have := (checkFabric_good hgood).1; omega
    rw [posted, if_pos hzero, closeGate, State.onPart_part]
    exact isSome_of_kept _ _

/-- A transfer of one chunk leaves at once. -/
theorem postCommand_sends {p : PortIx} (hgood : checkFabric d s = none) (hh : holdActive s = false) (hone : chunkCount d = 1)
    (htier : tierOf s (fdLocal d) = .t2) (hport : portFor s (fdLocal d) 0 (fdDev d) = some p)
    (hwin : windowOpen s p (fdDev d) (fdLc d) = true) : ∃ t g, exec (postCommand d) s = .next t ∧ t.mem = s.mem ∧
      (t.part (fdPart d)).fabric = [{ postedOp d 0 with sent := 1 }] ∧ t.bvl.wire = s.bvl.wire ++ [(p, g)] ∧ fTy g = fdOp d ∧ fLast g = true ∧
      (fAddr g).toNat = fdRemote d ∧ (fXfer g).toNat = fdXfer d ∧ g.dstMac = macOf s (fdDev d) p.val ∧
      g.payload = if fdOp d = 1 then bytesOf 8 (fdLocal d) ++ bytesOf 4 (fdBytes d) else ramRead s (fdLocal d) (fdBytes d) := by
  obtain ⟨hexec, honly⟩ := exec_postCommand_of_good hr hd hidle hgood
  obtain ⟨hop, hn⟩ := checkFabric_good hgood
  have hview : ∀ {γ : Type} {g : State → γ}, (∀ r f u, g (State.onPart u r f) = g u) → g (posted d s) = g s := fun h => posted_keeps_view h
  have hsend : sendChunk (fdPart d) 0 (posted d s) = some (firstSent p (fdPart d) (postedOp d 0) (posted d s)) :=
    sendChunk_first honly.1 rfl rfl hone (by change 0 < fdBytes d; omega) ((hview (g := holdActive) fun _ _ _ => rfl).trans hh)
      ((hview (g := fun u => tierOf u (fdLocal d)) fun _ _ _ => rfl).trans htier)
      ((hview (g := fun u => portFor u (fdLocal d) 0 (fdDev d)) fun _ _ _ => rfl).trans hport)
      ((hview (g := fun u => windowOpen u p (fdDev d) (fdLc d)) fun _ _ _ => rfl).trans hwin)
  have honly1 : OnlyTransfer (firstSent p (fdPart d) (postedOp d 0) (posted d s)) (fdPart d) (sentOne (postedOp d 0)) :=
    firstSent_only honly
  obtain ⟨psn, hwire⟩ := sendOn_wire p (fdDev d) (fdLc d) (chunkHdr (posted d s) (postedOp d 0) 0)
    (firstPayload (posted d s) (postedOp d 0)) (posted d s)
  have hfits := hdrFits_firstSent (s := posted d s) (o := postedOp d 0) hone psn
  refine ⟨_, ownFrame (posted d s) p (fdDev d) (sentHdr (chunkHdr (posted d s) (postedOp d 0) 0) psn (fdLc d))
      (firstPayload (posted d s) (postedOp d 0)),
    hexec.trans (congrArg Outcome.next (pump_of_sent honly hsend honly1
      (sendChunk_of_waiting honly1.1 (.inl (by change chunkCount d ≤ 1; omega))) fabricDone_postedOp)), ?_, honly1.1, ?_, ?_, ?_, ?_, ?_, ?_, ?_⟩
  · exact (firstSent_keeps_view (g := State.mem) (fun _ _ => rfl) (fun _ _ _ => rfl) ..).trans (hview (g := State.mem) fun _ _ _ => rfl)
  · exact hwire.trans (congrArg (fun v : Bvl => v.wire ++ _) (hview (g := State.bvl) fun _ _ _ => rfl))
  · refine (fTy_ownFrame hfits).trans ?_
    change (if decide (fdOp d = 1) = true then 1 else 0) = fdOp d
    simp only [decide_eq_true_eq]
    split <;> omega
  · exact (fLast_ownFrame hfits).trans (decide_eq_true hone.symm)
  · have haddr : (chunkAt d 0).1 = 0 := by rw [chunkAt_of_one hone (by omega)]
    refine (congrArg BitVec.toNat (fAddr_ownFrame hfits)).trans ?_
    change (BitVec.ofNat 64 (fdRemote d + (chunkAt d 0).1)).toNat = _
    rw [haddr, BitVec.toNat_ofNat, fdRemote, fld, bitsOf_eq]
    exact Nat.mod_mod _ _
  · refine (congrArg BitVec.toNat (fXfer_ownFrame hfits)).trans ?_
    change (BitVec.ofNat 32 (fdXfer d)).toNat = _
    rw [BitVec.toNat_ofNat, fdXfer, fld, bitsOf_eq]
    exact Nat.mod_mod _ _
  · exact hview (g := fun u => macOf u (fdDev d) p.val) fun _ _ _ => rfl
  · change firstPayload (posted d s) (postedOp d 0) = _
    rw [firstPayload, readReqPayload]
    change (if decide (fdOp d = 1) = true then bytesOf 8 (fdLocal d + (chunkAt d 0).1) ++ bytesOf 4 (chunkAt d 0).2 else _) = _
    rw [chunkAt_of_one hone (by omega)]
    simp only [decide_eq_true_eq, Nat.add_zero]
    exact if_congr Iff.rfl rfl (hview (g := fun u => ramRead u (fdLocal d) (fdBytes d)) fun _ _ _ => rfl)

end

end

end Sys2Proof.Machine
end

section
/-! Chunks that arrive and enter memory (R396, R398). The local address in READ_DATA and a failed read as an empty frame with AUX are entry
68 of the assumption log. -/

namespace Sys2Proof.Machine

open Host

/-! ### Frames of chunks (R396) -/

section
variable {s : State} {p : PortIx} {f : Frame}

theorem seqTaken_keeps_view {γ : Type} {g : State → γ} (hbvl : ∀ v u, g { u with bvl := v } = g u) (p : PortIx) (f : Frame) (s : State) :
    g (seqTaken p f s) = g s := receiveSeq_keeps_view hbvl ..

theorem keepChunk_chunks (p : PortIx) (f : Frame) (s : State) : ((keepChunk p f s).cistern (chunkCis s p (fAddr f).toNat)).chunks =
    (s.cistern (chunkCis s p (fAddr f).toNat)).chunks ++ [{ port := p, frame := f }] := by
  rw [keepChunk, State.onCis_cistern]

/-- An accepted frame's chunk waits at its cistern. -/
theorem keepChunk_seqTaken (p : PortIx) (f : Frame) (s : State) : (keepChunk p f (seqTaken p f s)).mem = s.mem ∧
    (keepChunk p f (seqTaken p f s)).parts = s.parts ∧
    ((keepChunk p f (seqTaken p f s)).cistern (chunkCis s p (fAddr f).toNat)).chunks =
      (s.cistern (chunkCis s p (fAddr f).toNat)).chunks ++ [{ port := p, frame := f }] := by
  have hcis : chunkCis (seqTaken p f s) p (fAddr f).toNat = chunkCis s p (fAddr f).toNat :=
    seqTaken_keeps_view (g := fun u => chunkCis u p (fAddr f).toNat) (fun _ _ => rfl) p f s
  have hwait := keepChunk_chunks p f (seqTaken p f s)
  rw [hcis, seqTaken_keeps_view (g := fun u => (u.cistern (chunkCis s p (fAddr f).toNat)).chunks) (fun _ _ => rfl) p f s] at hwait
  exact ⟨seqTaken_keeps_view (g := State.mem) (fun _ _ => rfl) p f s, seqTaken_keeps_view (g := State.parts) (fun _ _ => rfl) p f s, hwait⟩

theorem writeFrame_waits (h : InOrder s p 0 f) : ∃ t, exec (.writeFrame p f) s = .next t ∧ t.mem = s.mem ∧ t.parts = s.parts ∧
    (t.cistern (chunkCis s p (fAddr f).toNat)).chunks =
      (s.cistern (chunkCis s p (fAddr f).toNat)).chunks ++ [{ port := p, frame := f }] :=
  ⟨_, congrArg Outcome.next (receiveFrame_of_inOrder h (by decide) _), keepChunk_seqTaken p f s⟩

/-! ### READ_REQ (R394) -/

/-- The header of the frame that answers a READ_REQ. -/
def answerHdr (s : State) (f : Frame) : Hdr :=
  { ownHdr s 2 (fSrcDev f) (fLc f) with
    last := fLast f
    srcPart := (fDstPart f).val
    dstPart := (fSrcPart f).val
    xfer := fXfer f
    addr := BitVec.ofNat 64 (natOf (f.payload.take 8))
    aux := fAux f }

/-- The length that a READ_REQ asks for. -/
def askedLength (f : Frame) : Nat := natOf ((f.payload.drop 8).take 4)

/-- A READ_REQ is answered by a READ_DATA frame. -/
theorem serveRead_answers (p : PortIx) (f : Frame) (s : State) : ∃ g, lastFrame (serveRead p f s) = some (p, g) ∧ fTy g = 2 := by
  have hsent : ∀ (h : Hdr) bs u, h.ty = 2 → ∃ g, lastFrame (sendOn p (fSrcDev f) (fLc f) h bs u) = some (p, g) ∧ fTy g = 2 := fun h bs u hty => by
    obtain ⟨psn, hlast⟩ := sendOn_lastFrame p (fSrcDev f) (fLc f) h bs u
    exact ⟨_, hlast, (fTy_ownFrame_of_lt (h := sentHdr h psn (fLc f)) (by change h.ty < 16; omega)).trans hty⟩
  unfold serveRead
  dsimp only
  split
  · exact hsent _ _ _ rfl
  · split
    · exact hsent _ _ _ rfl
    · exact hsent _ _ _ rfl

theorem serveRead_of_t2 (hend : fabricEnd s (fDstPart f) (fAddr f).toNat (askedLength f) = true) (hlen : askedLength f ≤ 4096)
    (htier : tierOf s (fAddr f).toNat = .t2) : serveRead p f s =
      sendOn p (fSrcDev f) (fLc f) (answerHdr s f) (ramRead s (fAddr f).toNat (askedLength f)) s := by
  have hgo : (!fabricEnd s (fDstPart f) (fAddr f).toNat (askedLength f) || decide (4096 < askedLength f)) = false := by
    rw [hend, decide_eq_false (by omega)]
    rfl
  unfold serveRead
  dsimp only
  rw [← askedLength, hgo, if_neg Bool.false_ne_true, routedRead_of_t2 htier]
  rfl

theorem serveRead_of_outside (hend : fabricEnd s (fDstPart f) (fAddr f).toNat (askedLength f) = false) : serveRead p f s =
    sendOn p (fSrcDev f) (fLc f) { answerHdr s f with aux := BitVec.ofNat 32 stAddrFault } [] s := by
  unfold serveRead
  dsimp only
  rw [← askedLength, hend, if_pos (by rfl)]
  rfl

theorem hdrFits_answer {bs : List Byte} (psn : Word) (aux : Word) (hlen : bs.length < 65536) :
    HdrFits (sentHdr { answerHdr s f with aux := aux } psn (fLc f)) bs :=
  ⟨(by decide : 2 < 16), (fDstPart f).isLt, (fSrcPart f).isLt, hlen⟩

theorem natOf_take_lt (l : List Byte) (n : Nat) : natOf (l.take n) < 256 ^ n :=
  (natOf_lt _).trans_le (Nat.pow_le_pow_right (by decide) (List.length_take_le ..))

theorem readReq_answered (h : InOrder s p 1 f) : ∃ t g, exec (.readReq p f) s = .next t ∧ lastFrame t = some (p, g) ∧ fTy g = 2 ∧
    (fabricEnd s (fDstPart f) (fAddr f).toNat (askedLength f) = true → askedLength f ≤ 4096 → tierOf s (fAddr f).toNat = .t2 →
      t.mem = s.mem ∧ t.parts = s.parts ∧ g.payload = ramRead s (fAddr f).toNat (askedLength f) ∧ (fAddr g).toNat = natOf (f.payload.take 8)) ∧
    (fabricEnd s (fDstPart f) (fAddr f).toNat (askedLength f) = false → t.mem = s.mem ∧ t.parts = s.parts ∧ g.payload = [] ∧ fAux g = 5) := by
  have hexec : exec (.readReq p f) s = .next (serveRead p f (seqTaken p f s)) :=
    congrArg Outcome.next (receiveFrame_of_inOrder h (by decide) _)
  have hmem := seqTaken_keeps_view (g := State.mem) (fun _ _ => rfl) p f s
  have hparts := seqTaken_keeps_view (g := State.parts) (fun _ _ => rfl) p f s
  have hend := seqTaken_keeps_view (g := fun u => fabricEnd u (fDstPart f) (fAddr f).toNat (askedLength f)) (fun _ _ => rfl) p f s
  have htier := seqTaken_keeps_view (g := fun u => tierOf u (fAddr f).toNat) (fun _ _ => rfl) p f s
  have hread := seqTaken_keeps_view (g := fun u => ramRead u (fAddr f).toNat (askedLength f)) (fun _ _ => rfl) p f s
  obtain ⟨g, hlast, hty⟩ := serveRead_answers p f (seqTaken p f s)
  refine ⟨_, g, hexec, hlast, hty, fun hin hlen ht => ?_, fun hout => ?_⟩
  · have hserve := serveRead_of_t2 (p := p) (hend.trans hin) hlen (htier.trans ht)
    obtain ⟨psn, hsent⟩ := sendOn_lastFrame p (fSrcDev f) (fLc f) (answerHdr (seqTaken p f s) f)
      (ramRead (seqTaken p f s) (fAddr f).toNat (askedLength f)) (seqTaken p f s)
    rw [hserve] at hlast ⊢
    obtain rfl := congrArg Prod.snd (Option.some.inj (hsent.symm.trans hlast))
    refine ⟨(sendOn_keeps_view (g := State.mem) (fun _ _ => rfl) ..).trans hmem,
      (sendOn_keeps_view (g := State.parts) (fun _ _ => rfl) ..).trans hparts, hread, ?_⟩
    refine (congrArg BitVec.toNat (fAddr_ownFrame (hdrFits_answer psn (fAux f) (by rw [length_ramRead]; omega)))).trans ?_
    exact (BitVec.toNat_ofNat ..).trans (Nat.mod_eq_of_lt (natOf_take_lt f.payload 8))
  · have hserve := serveRead_of_outside (p := p) (hend.trans hout)
    obtain ⟨psn, hsent⟩ := sendOn_lastFrame p (fSrcDev f) (fLc f) { answerHdr (seqTaken p f s) f with aux := BitVec.ofNat 32 stAddrFault } []
      (seqTaken p f s)
    rw [hserve] at hlast ⊢
    obtain rfl := congrArg Prod.snd (Option.some.inj (hsent.symm.trans hlast))
    exact ⟨(sendOn_keeps_view (g := State.mem) (fun _ _ => rfl) ..).trans hmem,
      (sendOn_keeps_view (g := State.parts) (fun _ _ => rfl) ..).trans hparts, rfl,
      fAux_ownFrame (hdrFits_answer psn (BitVec.ofNat 32 stAddrFault) (by decide))⟩

/-! ### READ_DATA (R396) -/

/-- What a READ_DATA frame does once it is accepted. -/
def dataTaken (p : PortIx) (f : Frame) (s : State) : State :=
  match readFor s f with
  | none => s
  | some n =>
    if f.payload.isEmpty then finishFabric (fDstPart f) (failFabric (fDstPart f) n ((fAux f).toNat % 256) s)
    else keepChunk p f s

theorem exec_readData (h : InOrder s p 2 f) : exec (.readData p f) s = .next (dataTaken p f (seqTaken p f s)) :=
  congrArg Outcome.next (receiveFrame_of_inOrder h (by decide) _)

theorem readFor_seqTaken (p : PortIx) (f : Frame) (s : State) : readFor (seqTaken p f s) f = readFor s f :=
  seqTaken_keeps_view (g := fun u => readFor u f) (fun _ _ => rfl) p f s

theorem readData_of_none (h : InOrder s p 2 f) (hn : readFor s f = none) : ∃ t, exec (.readData p f) s = .next t ∧ t.mem = s.mem ∧
    t.cis = s.cis ∧ t.parts = s.parts := by
  refine ⟨seqTaken p f s, ?_, seqTaken_keeps_view (g := State.mem) (fun _ _ => rfl) p f s,
    seqTaken_keeps_view (g := State.cis) (fun _ _ => rfl) p f s, seqTaken_keeps_view (g := State.parts) (fun _ _ => rfl) p f s⟩
  rw [exec_readData h, dataTaken, readFor_seqTaken, hn]

theorem readData_waits {n : Nat} (h : InOrder s p 2 f) (hn : readFor s f = some n) (hp : f.payload ≠ []) :
    ∃ t, exec (.readData p f) s = .next t ∧ t.mem = s.mem ∧ t.parts = s.parts ∧ (t.cistern (chunkCis s p (fAddr f).toNat)).chunks =
      (s.cistern (chunkCis s p (fAddr f).toNat)).chunks ++ [{ port := p, frame := f }] := by
  refine ⟨_, ?_, keepChunk_seqTaken p f s⟩
  rw [exec_readData h, dataTaken, readFor_seqTaken, hn]
  exact congrArg Outcome.next (if_neg (by rwa [List.isEmpty_iff]))

/-- An empty frame ends its READ with the status in AUX. -/
theorem readData_fails {o : FabricOp} (h : InOrder s p 2 f) (honly : OnlyTransfer s (fDstPart f) o) (hn : readFor s f = some 0)
    (hp : f.payload = []) (haux : (fAux f).toNat % 256 ≠ 0) : ∃ t, exec (.readData p f) s = .next t ∧ t.mem = s.mem ∧
      (t.part (fDstPart f)).fabric = [] ∧ (t.part (fDstPart f)).fabricRing = (s.part (fDstPart f)).fabricRing ++
        [(fabricRecord { o with status := BitVec.ofNat 8 ((fAux f).toNat % 256) } s.time.toNat, BitVec.ofNat 32 (fdEpoch o.desc))] := by
  have honly' : OnlyTransfer (seqTaken p f s) (fDstPart f) o :=
    honly.congr fun k => seqTaken_keeps_view (g := fun u => traffic u k) (fun _ _ => by rfl) p f s
  have htime : (seqTaken p f s).time = s.time := seqTaken_keeps_view (g := State.time) (fun _ _ => rfl) p f s
  have hstatus : BitVec.ofNat 8 ((fAux f).toNat % 256) ≠ 0 := fun h0 => haux (by
    have := congrArg BitVec.toNat h0
    rwa [BitVec.toNat_ofNat, Nat.mod_mod] at this)
  have hfailed := OnlyTransfer.replaced (o' := { o with status := BitVec.ofNat 8 ((fAux f).toNat % 256) }) honly'
  have hended := transferEnded_of_only hfailed (by
    rw [fabricDone, Bool.or_eq_true]
    exact .inl (decide_eq_true hstatus))
  have hring := hended.ring
  rw [State.onPart_part] at hring
  refine ⟨_, ?_, ?_, (hended.idle _).1, hring.trans ?_⟩
  · rw [exec_readData h, dataTaken, readFor_seqTaken, hn]
    dsimp only
    rw [hp, if_pos List.isEmpty_nil, failFabric_of_one honly'.1]
  · exact (congrArg (fun v => v.1) hended.beside).trans (seqTaken_keeps_view (g := State.mem) (fun _ _ => rfl) p f s)
  · rw [State.onPart_time, htime]
    exact congrArg (· ++ _) (seqTaken_keeps_view (g := fun u => (u.part (fDstPart f)).fabricRing) (fun _ _ => rfl) p f s)

end

/-! ### Late errors sent (R398) -/

section
variable {s : State} {k : Chunk} {q : PartIx} {c : CisIx}

theorem sendLate_keeps_view {γ : Type} {g : State → γ} (hbvl : ∀ v u, g { u with bvl := v } = g u)
    (hlink : ∀ r (f : Cistern → LinkRegs) u, g (State.onCis u r fun x => { x with link := f x }) = g u) (k : Chunk) (cause : Nat) (s : State) :
    g (sendLate k cause s) = g s := by
  unfold sendLate onLink
  dsimp only
  exact (hlink (portCis k.port) (fun x => { x.link with lateSent := satAdd x.link.lateSent 1 }) _).trans (sendOn_keeps_view hbvl ..)

/-- A LATE_ERR of a cause is the last frame that left through the chunk's port. -/
def LateSent (k : Chunk) (cause : Byte) (t : State) : Prop :=
  ∃ g, lastFrame t = some (k.port, g) ∧ fTy g = 5 ∧ (g.payload.drop 16).take 1 = [cause]

theorem lateSent_sendLate (k : Chunk) (cause : Nat) (s : State) : LateSent k (BitVec.ofNat 8 cause) (sendLate k cause s) := by
  obtain ⟨psn, hlast⟩ := sendOn_lastFrame k.port (fSrcDev k.frame) (fLc k.frame)
    { ownHdr s 5 (fSrcDev k.frame) (fLc k.frame) with srcPart := (fDstPart k.frame).val, dstPart := (fSrcPart k.frame).val }
    (bytesOf 4 (fAux k.frame).toNat ++ bytesOf 4 (fXfer k.frame).toNat ++ bytesOf 8 (fAddr k.frame).toNat ++ bytesOf 4 cause ++
      bytesOf 4 (fDstEpoch k.frame).toNat ++ bytesOf 8 s.time.toNat ++ bytesOf 8 0) s
  exact ⟨_, hlast, fTy_ownFrame_of_lt (by exact (by decide : 5 < 16)), rfl⟩

/-! ### Chunks that enter memory (R398) -/

/-- The chunks that wait at a cistern. -/
def chunksAt (c : CisIx) (s : State) : List Chunk := (s.cistern c).chunks

theorem chunksAt_onCis (c r : CisIx) {f : Cistern → Cistern} (hf : ∀ x, (f x).chunks = x.chunks) (s : State) :
    chunksAt c (s.onCis r f) = chunksAt c s := by
  rw [chunksAt, State.onCis_cistern_if]
  split
  · next h => rw [h, hf, chunksAt]
  · rfl

theorem chunksAt_sendLate (cause : Nat) : chunksAt c (sendLate k cause s) = chunksAt c s :=
  sendLate_keeps_view (fun _ _ => rfl) (fun r f u => chunksAt_onCis c r (fun _ => by rfl) u) k cause s

/-- The oldest chunk of a cistern is taken. -/
def chunkTaken (c : CisIx) (rest : List Chunk) (s : State) : State := s.onCis c fun x => { x with chunks := rest }

theorem chunksAt_chunkTaken (c : CisIx) (rest : List Chunk) (s : State) : chunksAt c (chunkTaken c rest s) = rest := by
  rw [chunksAt, chunkTaken, State.onCis_cistern]

theorem cisEpoch_chunkTaken (c h : CisIx) (rest : List Chunk) (q : PartIx) (s : State) : cisEpoch (chunkTaken c rest s) h q = cisEpoch s h q := by
  have hepochs : ((chunkTaken c rest s).cistern h).epochs = (s.cistern h).epochs := by
    rw [chunkTaken, State.onCis_cistern_if]
    split
    · next hc => rw [hc]
    · rfl
  funext j
  rw [cisEpoch, hepochs, cisEpoch]

/-- A chunk to one page of T2 enters, whatever it does there. -/
theorem exec_chunkMemoryEntry {rest : List Chunk} (crcOk memOk : Bool) (hc : (s.cistern c).chunks = k :: rest) (hh : holdActive s = false)
    (hpage : onePage s (fAddr k.frame).toNat k.frame.payload.length) : exec (.chunkMemoryEntry c crcOk memOk) s =
      .next (pump (if fTy k.frame = 2 then readChunk k crcOk (chunkTaken c rest s) else writeChunk k crcOk memOk (chunkTaken c rest s))) := by
  change execChunkMemoryEntry c crcOk memOk s = _
  rw [execChunkMemoryEntry, hc]
  refine congrArg Outcome.next (if_neg ?_)
  rw [hh, accessReady_of_t2 hpage.2.2]
  exact Bool.false_ne_true

theorem fabricEnd_chunkTaken (c : CisIx) (rest : List Chunk) (q : PartIx) (a n : Nat) (s : State) :
    fabricEnd (chunkTaken c rest s) q a n = fabricEnd s q a n := by
  have htier : ∀ x, tierOf (chunkTaken c rest s) x = tierOf s x := fun _ => rfl
  have hcis : ∀ j, ((chunkTaken c rest s).cistern j).parts = (s.cistern j).parts := fun j => by
    rw [chunkTaken, State.onCis_cistern_if]
    split
    · next hj => rw [hj]
    · rfl
  have hrange : rangeOk (chunkTaken c rest s) q a n = rangeOk s q a n := by
    unfold rangeOk
    simp only [htier, hcis]
    rfl
  rw [fabricEnd, fabricEnd, htier, hrange]

theorem FabricIdle.of_parts {t : State} (h : FabricIdle s) (ht : t.parts = s.parts) : FabricIdle t := fun q => by
  rw [State.part, ht]
  exact h q

section
variable {crcOk memOk : Bool}

theorem writeChunk_of_outside (h : fabricEnd s (fDstPart k.frame) (fAddr k.frame).toNat k.frame.payload.length = false) :
    writeChunk k crcOk memOk s = sendLate k 1 s := by
  unfold writeChunk
  dsimp only
  rw [h, Bool.not_false, Bool.true_or, if_pos rfl]

theorem writeChunk_of_inside (hpage : onePage s (fAddr k.frame).toNat k.frame.payload.length)
    (h : fabricEnd s (fDstPart k.frame) (fAddr k.frame).toNat k.frame.payload.length = true) :
    writeChunk k crcOk memOk s =
      match chunkCheck (fDstPart k.frame) (fAddr k.frame).toNat (fDstEpoch k.frame).toNat k.frame.payload.length s with
      | (s1, .stale) => s1
      | (s1, .foreign) => sendLate k 2 s1
      | (s1, .accept) =>
        if crcOk && memOk then (routedWrite (fDstPart k.frame) none (fAddr k.frame).toNat 0 0xFFFFFFFF k.frame.payload s1).1
        else sendLate k (if crcOk then 4 else 3)
          (routedWrite (fDstPart k.frame) none (fAddr k.frame).toNat 0 0xFFFFFFFF (freeBytes s1 k.frame.payload.length).2
            (freeBytes s1 k.frame.payload.length).1).1 := by
  unfold writeChunk
  dsimp only
  rw [h, mapped_of_t2 hpage.2.2]
  rfl

end

theorem chunkCheck_of_t2 {a epoch n : Nat} (h : tierOf s a = .t2) : chunkCheck q a epoch n s =
    ((cisCheck (t2Cis a) q epoch n s).1, epochCheck (cisEpoch s (t2Cis a) q) epoch) := by
  simp only [chunkCheck, h, t2Cis]

/-- What the check of a chunk's epoch leaves. -/
theorem cisCheck_leaves (c r : CisIx) (q : PartIx) (epoch n : Nat) (s : State) : (cisCheck r q epoch n s).1.mem = s.mem ∧
    (cisCheck r q epoch n s).1.bvl = s.bvl ∧ (cisCheck r q epoch n s).1.parts = s.parts ∧
    chunksAt c (cisCheck r q epoch n s).1 = chunksAt c s :=
  ⟨rfl, rfl, rfl, chunksAt_onCis c r (fun _ => by rfl) s⟩

/-- The state with the bytes that a failed chunk leaves. -/
def freshened (n : Nat) (s : State) : State := { s with fresh := s.fresh + n }

theorem freeBytes_length (s : State) (n : Nat) : (freeBytes s n).2.length = n := by
  rw [freeBytes, List.length_map, List.length_range]

theorem chunksAt_freshWrite {a n : Nat} {bs : List Byte} : chunksAt c (ramWrite a bs (freshened n s)) = chunksAt c s := by
  rw [chunksAt, ramWrite, State.onMem_cistern, freshened]
  rfl

theorem parts_freshWrite {a n : Nat} {bs : List Byte} : (ramWrite a bs (freshened n s)).parts = s.parts := by
  rw [ramWrite, State.onMem_parts, freshened]

theorem ramByte_freshened {n x : Nat} : ramByte (freshened n s) x = ramByte s x := by
  rw [ramByte, freshened, ramByte]

/-- A chunk's range holds its bytes, and no other byte changed. -/
def Written (s t : State) (a : Nat) (bs : List Byte) : Prop :=
  ∀ x, ramByte t x = if a ≤ x ∧ x < a + bs.length then bs.getD (x - a) 0 else ramByte s x

theorem written_of_mem {t u : State} {a : Nat} {bs : List Byte} (hu : u.mem = s.mem) (ht : t.mem = (ramWrite a bs u).mem) : Written s t a bs := by
  intro x
  rw [ramByte_congr ht, ramByte_ramWrite, ramByte_congr hu, List.getD_eq_getElem?_getD]

/-- What every WRITE chunk leaves: the rest of its queue, and the partitions as they were. -/
structure ChunkGone (s t : State) (c : CisIx) (rest : List Chunk) : Prop where
  chunks : (t.cistern c).chunks = rest
  parts : t.parts = s.parts

section
variable {rest : List Chunk} {crcOk memOk : Bool} {epoch : Nat} (hpage : onePage s (fAddr k.frame).toNat k.frame.payload.length)

theorem chunkGone_sendLate (h : chunksAt c s = rest) (cause : Nat) {u : State} (hp : s.parts = u.parts) : ChunkGone u (sendLate k cause s) c rest :=
  ⟨(chunksAt_sendLate cause).trans h, (sendLate_keeps_view (g := State.parts) (fun _ _ => rfl) (fun _ _ _ => rfl) k cause s).trans hp⟩

theorem sendLate_mem (k : Chunk) (cause : Nat) (s : State) : (sendLate k cause s).mem = s.mem :=
  sendLate_keeps_view (g := State.mem) (fun _ _ => rfl) (fun _ _ _ => rfl) k cause s

theorem writeChunk_outside (h : fabricEnd s (fDstPart k.frame) (fAddr k.frame).toNat k.frame.payload.length = false) :
    let t := writeChunk k crcOk memOk (chunkTaken c rest s)
    ChunkGone s t c rest ∧ t.mem = s.mem ∧ LateSent k 1 t := by
  dsimp only
  rw [writeChunk_of_outside (s := chunkTaken c rest s) (by rwa [fabricEnd_chunkTaken])]
  exact ⟨chunkGone_sendLate (chunksAt_chunkTaken c rest s) 1 rfl, sendLate_mem k 1 (chunkTaken c rest s), lateSent_sendLate k 1 _⟩

include hpage
variable (hin : fabricEnd s (fDstPart k.frame) (fAddr k.frame).toNat k.frame.payload.length = true)
include hin

/-- The chunk's epoch has been checked. -/
theorem writeChunk_checked : writeChunk k crcOk memOk (chunkTaken c rest s) =
      let s1 := (cisCheck (t2Cis (fAddr k.frame).toNat) (fDstPart k.frame) (fDstEpoch k.frame).toNat k.frame.payload.length
        (chunkTaken c rest s)).1
      match epochCheck (cisEpoch s (t2Cis (fAddr k.frame).toNat) (fDstPart k.frame)) (fDstEpoch k.frame).toNat with
      | .stale => s1
      | .foreign => sendLate k 2 s1
      | .accept =>
        if crcOk && memOk then (routedWrite (fDstPart k.frame) none (fAddr k.frame).toNat 0 0xFFFFFFFF k.frame.payload s1).1
        else sendLate k (if crcOk then 4 else 3)
          (routedWrite (fDstPart k.frame) none (fAddr k.frame).toNat 0 0xFFFFFFFF (freeBytes s1 k.frame.payload.length).2
            (freeBytes s1 k.frame.payload.length).1).1 := by
  rw [writeChunk_of_inside (s := chunkTaken c rest s) hpage (by rwa [fabricEnd_chunkTaken]), chunkCheck_of_t2 (by exact hpage.2.2),
    cisEpoch_chunkTaken]
  dsimp only
  generalize epochCheck (cisEpoch s (t2Cis (fAddr k.frame).toNat) (fDstPart k.frame)) (fDstEpoch k.frame).toNat = e
  cases e <;> rfl

theorem writeChunk_stale (he : epochCheck (cisEpoch s (t2Cis (fAddr k.frame).toNat) (fDstPart k.frame)) (fDstEpoch k.frame).toNat = .stale) :
    let t := writeChunk k crcOk memOk (chunkTaken c rest s)
    ChunkGone s t c rest ∧ t.mem = s.mem ∧ t.bvl = s.bvl := by
  dsimp only
  rw [writeChunk_checked hpage hin, he]
  obtain ⟨hmem, hbvl, hparts, hchunks⟩ := cisCheck_leaves c (t2Cis (fAddr k.frame).toNat) (fDstPart k.frame) (fDstEpoch k.frame).toNat
    k.frame.payload.length (chunkTaken c rest s)
  exact ⟨⟨hchunks.trans (chunksAt_chunkTaken c rest s), hparts⟩, hmem, hbvl⟩

theorem writeChunk_foreign (he : epochCheck (cisEpoch s (t2Cis (fAddr k.frame).toNat) (fDstPart k.frame)) (fDstEpoch k.frame).toNat = .foreign) :
    let t := writeChunk k crcOk memOk (chunkTaken c rest s)
    ChunkGone s t c rest ∧ t.mem = s.mem ∧ LateSent k 2 t := by
  dsimp only
  rw [writeChunk_checked hpage hin, he]
  obtain ⟨hmem, -, hparts, hchunks⟩ := cisCheck_leaves c (t2Cis (fAddr k.frame).toNat) (fDstPart k.frame) (fDstEpoch k.frame).toNat
    k.frame.payload.length (chunkTaken c rest s)
  exact ⟨chunkGone_sendLate (hchunks.trans (chunksAt_chunkTaken c rest s)) 2 hparts, (sendLate_mem k 2 _).trans hmem, lateSent_sendLate k 2 _⟩

variable (he : epochCheck (cisEpoch s (t2Cis (fAddr k.frame).toNat) (fDstPart k.frame)) (fDstEpoch k.frame).toNat = .accept)
include he

theorem writeChunk_accepted : writeChunk k crcOk memOk (chunkTaken c rest s) =
    if crcOk && memOk then ramWrite (fAddr k.frame).toNat k.frame.payload (chunkTaken c rest s)
    else sendLate k (if crcOk then 4 else 3) (ramWrite (fAddr k.frame).toNat (freeBytes (chunkTaken c rest s) k.frame.payload.length).2
      (freshened k.frame.payload.length (chunkTaken c rest s))) := by
  have hbad : onePage (freshened k.frame.payload.length (chunkTaken c rest s)) (fAddr k.frame).toNat
      (freeBytes (chunkTaken c rest s) k.frame.payload.length).2.length := by
    rw [freeBytes_length]
    exact hpage
  rw [writeChunk_checked hpage hin, he, cisCheck_accepted _ (by rwa [cisEpoch_chunkTaken])]
  dsimp only
  rw [routedWrite_of_onePage (s := chunkTaken c rest s) hpage (epochCheck_none _)]
  change (if _ then _ else sendLate k _ (routedWrite _ none _ 0 _ _ (freshened k.frame.payload.length (chunkTaken c rest s))).1) = _
  rw [routedWrite_of_onePage hbad (epochCheck_none _)]

theorem writeChunk_good (hcrc : crcOk = true) (hm : memOk = true) :
    let t := writeChunk k crcOk memOk (chunkTaken c rest s)
    ChunkGone s t c rest ∧ Written s t (fAddr k.frame).toNat k.frame.payload ∧ t.bvl = s.bvl := by
  dsimp only
  rw [writeChunk_accepted hpage hin he, hcrc, hm, Bool.and_self, if_pos rfl]
  exact ⟨⟨chunksAt_chunkTaken c rest s, rfl⟩, written_of_mem (u := chunkTaken c rest s) rfl rfl, rfl⟩

theorem writeChunk_bad (hbad : crcOk = false ∨ memOk = false) :
    let t := writeChunk k crcOk memOk (chunkTaken c rest s)
    ChunkGone s t c rest ∧ LateSent k (if crcOk then 4 else 3) t ∧
      ∀ x, x < (fAddr k.frame).toNat ∨ (fAddr k.frame).toNat + k.frame.payload.length ≤ x → ramByte t x = ramByte s x := by
  have hno : (crcOk && memOk) = false := Bool.and_eq_false_iff.2 hbad
  dsimp only
  rw [writeChunk_accepted hpage hin he, hno, if_neg Bool.false_ne_true]
  refine ⟨chunkGone_sendLate (chunksAt_freshWrite.trans (chunksAt_chunkTaken c rest s)) _ parts_freshWrite, ?_, fun x hx => ?_⟩
  · have hcause : (if crcOk then 4 else 3 : Byte) = BitVec.ofNat 8 (if crcOk then 4 else 3) := by cases crcOk <;> rfl
    rw [hcause]
    exact lateSent_sendLate ..
  · rw [ramByte_congr (sendLate_mem k _ _)]
    refine (ramByte_ramWrite_outside _ ?_).trans (ramByte_freshened.trans (by rfl))
    rwa [freeBytes_length]

end

/-! ### READ chunks (R396) -/

theorem finishFabric_keeps_view {γ : Type} {g : State → γ}
    (hcis : ∀ c (f : Cistern → Vector CisPart 16) u, g (State.onCis u c fun x => { x with parts := f x }) = g u)
    (hpart : ∀ r f u, g (State.onPart u r f) = g u) (q : PartIx) (s : State) : g (finishFabric q s) = g s := by
  unfold finishFabric
  dsimp only
  split
  · rfl
  · exact (settleGate_keeps_view hcis (fun _ _ => hpart ..) _ _).trans (hpart ..)

/-- A READ whose chunk has entered memory. -/
def chunkReceived (o : FabricOp) : FabricOp := { o with received := [0] }

/-- The only chunk of the only READ enters memory and completes it. -/
theorem readChunk_completes {rest : List Chunk} {o : FabricOp} {memOk : Bool} (hc : (s.cistern c).chunks = k :: rest) (hh : holdActive s = false)
    (hpage : onePage s (fAddr k.frame).toNat k.frame.payload.length) (honly : OnlyTransfer s (fDstPart k.frame) o)
    (hread : readFor s k.frame = some 0) (hty : fTy k.frame = 2) (hone : chunkCount o.desc = 1) (hrec : o.received = [])
    (hfirst : chunkOfLocal o.desc (fAddr k.frame).toNat = 0)
    (hacc : epochCheck (cisEpoch s (t2Cis (fAddr k.frame).toNat) (fDstPart k.frame)) (fdEpoch o.desc) = .accept) :
    ∃ t, exec (.chunkMemoryEntry c true memOk) s = .next t ∧ (t.cistern c).chunks = rest ∧
      Written s t (fAddr k.frame).toNat k.frame.payload ∧ (t.part (fDstPart k.frame)).fabric = [] ∧
      (t.part (fDstPart k.frame)).fabricRing = (s.part (fDstPart k.frame)).fabricRing ++
        [(fabricRecord (chunkReceived o) s.time.toNat, BitVec.ofNat 32 (fdEpoch o.desc))] := by
  have hisRead : o.isRead = true := by
    rw [readFor, honly.1, List.findIdx?_cons] at hread
    split at hread
    · next h => simpa only [Bool.and_eq_true, and_assoc] using (Bool.and_eq_true_iff.1 ((Bool.and_eq_true_iff.1 h).1)).1
    · exact absurd hread (by simp)
  have hwritten : OnlyTransfer (ramWrite (fAddr k.frame).toNat k.frame.payload (chunkTaken c rest s)) (fDstPart k.frame) o :=
    honly.congr fun _ => by rfl
  have hreceived : onFabric (fDstPart k.frame) 0
      (fun o => { o with received := if o.received.contains 0 then o.received else 0 :: o.received })
      (ramWrite (fAddr k.frame).toNat k.frame.payload (chunkTaken c rest s)) =
      (ramWrite (fAddr k.frame).toNat k.frame.payload (chunkTaken c rest s)).onPart (fDstPart k.frame)
        fun x => { x with fabric := [chunkReceived o] } := by
    rw [onFabric_of_one hwritten.1, hrec]
    rfl
  have hchunk : readChunk k true (chunkTaken c rest s) = finishFabric (fDstPart k.frame)
      ((ramWrite (fAddr k.frame).toNat k.frame.payload (chunkTaken c rest s)).onPart (fDstPart k.frame)
        fun x => { x with fabric := [chunkReceived o] }) := by
    have hread' : readFor (chunkTaken c rest s) k.frame = some 0 := hread
    have hfab : (chunkTaken c rest s).part (fDstPart k.frame) = s.part (fDstPart k.frame) := rfl
    unfold readChunk
    dsimp only
    rw [hread', hfab, honly.1]
    dsimp only [List.getElem?_cons_zero]
    rw [hfirst, routedWrite_of_onePage (s := chunkTaken c rest s) hpage (by rwa [cisEpoch_chunkTaken])]
    exact congrArg (finishFabric (fDstPart k.frame)) hreceived
  have hended := transferEnded_of_only (o := chunkReceived o) (OnlyTransfer.replaced hwritten) (by
    rw [fabricDone, Bool.or_eq_true]
    refine .inr (decide_eq_true ?_)
    change (if o.isRead = true then 1 else o.acked.length) = chunkCount o.desc
    rw [if_pos hisRead, hone])
  have hring := hended.ring
  rw [State.onPart_part] at hring
  refine ⟨_, ?_, ?_, written_of_mem (u := chunkTaken c rest s) rfl (congrArg (fun v => v.1) hended.beside), (hended.idle _).1, hring⟩
  · rw [exec_chunkMemoryEntry true memOk hc hh hpage, if_pos hty, hchunk, pump_of_idle hended.idle]
  · exact (finishFabric_keeps_view (g := chunksAt c) (fun r f u => chunksAt_onCis c r (fun _ => by rfl) u) (fun _ _ _ => by rfl) _ _).trans
      (chunksAt_chunkTaken c rest s)

/-- The chunk of a WRITE has entered, or not, and the fabric is as idle as before. -/
theorem exec_writeChunk {rest : List Chunk} {crcOk memOk : Bool} (hidle : FabricIdle s) (hc : (s.cistern c).chunks = k :: rest)
    (hh : holdActive s = false) (hpage : onePage s (fAddr k.frame).toNat k.frame.payload.length) (hty : fTy k.frame = 0)
    (hgone : ChunkGone s (writeChunk k crcOk memOk (chunkTaken c rest s)) c rest) :
    exec (.chunkMemoryEntry c crcOk memOk) s = .next (writeChunk k crcOk memOk (chunkTaken c rest s)) := by
  rw [exec_chunkMemoryEntry crcOk memOk hc hh hpage, if_neg (by rw [hty]; decide), pump_of_idle (hidle.of_parts hgone.parts)]

theorem writeChunk_enters {rest : List Chunk} {crcOk memOk : Bool} (hidle : FabricIdle s) (hc : (s.cistern c).chunks = k :: rest)
    (hh : holdActive s = false) (hpage : onePage s (fAddr k.frame).toNat k.frame.payload.length) (hty : fTy k.frame = 0) :
    ∃ t, exec (.chunkMemoryEntry c crcOk memOk) s = .next t ∧ (t.cistern c).chunks = rest ∧ t.parts = s.parts ∧
      (fabricEnd s (fDstPart k.frame) (fAddr k.frame).toNat k.frame.payload.length = false → t.mem = s.mem ∧ LateSent k 1 t) ∧
      (fabricEnd s (fDstPart k.frame) (fAddr k.frame).toNat k.frame.payload.length = true →
        let e := epochCheck (cisEpoch s (t2Cis (fAddr k.frame).toNat) (fDstPart k.frame)) (fDstEpoch k.frame).toNat
        (e = .stale → t.mem = s.mem ∧ t.bvl = s.bvl) ∧ (e = .foreign → t.mem = s.mem ∧ LateSent k 2 t) ∧
        (e = .accept → crcOk = true → memOk = true → Written s t (fAddr k.frame).toNat k.frame.payload ∧ t.bvl = s.bvl) ∧
        (e = .accept → (crcOk = false ∨ memOk = false) → LateSent k (if crcOk then 4 else 3) t ∧
          ∀ x, x < (fAddr k.frame).toNat ∨ (fAddr k.frame).toNat + k.frame.payload.length ≤ x → ramByte t x = ramByte s x)) := by
  have hgone : ChunkGone s (writeChunk k crcOk memOk (chunkTaken c rest s)) c rest := by
    cases hin : fabricEnd s (fDstPart k.frame) (fAddr k.frame).toNat k.frame.payload.length
    · exact (writeChunk_outside hin).1
    · cases he : epochCheck (cisEpoch s (t2Cis (fAddr k.frame).toNat) (fDstPart k.frame)) (fDstEpoch k.frame).toNat with
      | stale => exact (writeChunk_stale hpage hin he).1
      | foreign => exact (writeChunk_foreign hpage hin he).1
      | accept =>
        by_cases hgood : crcOk = true ∧ memOk = true
        · exact (writeChunk_good hpage hin he hgood.1 hgood.2).1
        · exact (writeChunk_bad hpage hin he (by simpa only [not_and_or, Bool.not_eq_true] using hgood)).1
  exact ⟨_, exec_writeChunk hidle hc hh hpage hty hgone, hgone.chunks, hgone.parts, fun hout => (writeChunk_outside hout).2,
    fun hin => ⟨fun he => (writeChunk_stale hpage hin he).2, fun he => (writeChunk_foreign hpage hin he).2,
      fun he hcrc hm => (writeChunk_good hpage hin he hcrc hm).2, fun he hbad => (writeChunk_bad hpage hin he hbad).2⟩⟩

end

/-- Settles O48: a descriptor completes, waits or sends, and a chunk waits, enters memory, is dropped or is reported late. The payload of
READ_REQ, the local address in READ_DATA and a failed read as an empty frame with AUX are entry 68 of the assumption log. -/
theorem fabricTransfers : Obligations.FabricTransfers := by
  unfold Obligations.FabricTransfers
  dsimp only
  refine ⟨fun s d hr hd hidle => ⟨fun st => postCommand_breach hr hd hidle, postCommand_hold hr hd hidle,
      fun p hgood hh hone => postCommand_sends hr hd hidle hgood hh hone⟩,
    fun s p f => ⟨writeFrame_waits, readReq_answered, fun h => ⟨readData_of_none h, fun n => readData_waits h,
      fun o => readData_fails h⟩⟩,
    fun s c k rest crcOk memOk hc hh hpage => ⟨fun hidle => writeChunk_enters hidle hc hh hpage, ?_⟩⟩
  rintro o honly hread hty rfl hone hrec - hfirst hacc
  exact readChunk_completes hc hh hpage honly hread hty hone hrec hfirst hacc

end Sys2Proof.Machine
end

section
/-! A leaf of a REDUCE whose slot lies beyond the addresses of a frame (R408, R409, R412). The bookkeeping of collectives is entry 75 of the
assumption log. -/

namespace Sys2Proof.Machine

open Host

/-! ### The counterexample -/

/-- A REDUCE of two bytes in T2 with STAGE in T2, root 0 and FANIN 0, which the check of a posted descriptor would refuse (R408). -/
def faninZero : BitVec 512 := BitVec.ofNat 512 (1 + 0x200010000 * 2 ^ (8 * 0x08) + 2 * 2 ^ (8 * 0x18) + 0x200040000 * 2 ^ (8 * 0x30))

/-- Its member in a group of 2^49, at rank 2^48: with FANIN 0 the parent is rank 0 and the rank's place among its children 2^48 - 1. -/
def farLeaf : CollOp :=
  { desc := faninZero, isReduce := true, index := 2 ^ 48, members := 2 ^ 49, started := true, since := 0, ready := [], credits := 2,
    counts := [], countSent := false, early := [], added := [], acc := [], got := [], sentPages := 0, frames := [], status := 0 }

/-- A module with port 0 up and room in its flows, whose partition 0 has the member in progress. -/
def farLeafUp : State :=
  (onPort 0 (fun x => { x with state := 2 })
    { State.reset with dev := { State.reset.dev with bvl := { State.reset.dev.bvl with window := 16 } } }).onPart 0 fun x =>
      { x with defined := true, colls := [farLeaf] }

theorem farLeaf_leafOfReduce : LeafOfReduce farLeafUp 0 farLeaf 0 where
  only := rfl
  started := rfl
  status := rfl
  noTrace := rfl
  isReduce := by decide +kernel
  fixed := by decide +kernel
  leaf := by decide +kernel
  notRoot := by decide +kernel
  nothing := ⟨rfl, rfl, rfl, rfl⟩
  small := by decide +kernel
  stage := by decide +kernel
  src := by decide +kernel
  noHold := by decide +kernel
  port := by decide +kernel
  room := by decide +kernel

/-- The slot of its first page lies beyond 64 bits. -/
theorem farLeaf_slot : 2 ^ 64 ≤ cdStage farLeaf.desc + treePlace (cdFanin farLeaf.desc) (ownRank farLeaf) * 131072 := by decide +kernel

/-- No frame carries an address beyond 64 bits, so the leaf sends none to its slot. -/
theorem farLeaf_not_sends (s t : State) (p : PortIx) : ¬ LeafSends s t farLeaf p := by
  rintro ⟨-, g, -, -, -, haddr, -⟩
  have hlt := (fAddr g).isLt
  have hslot := farLeaf_slot
  omega

/-- Its parent's ready write reaches it and agrees. -/
theorem farLeaf_ready : (receiversFrom farLeaf).contains (rankOf farLeaf.desc farLeaf.members 0) = true ∧
    readyAgrees farLeaf farLeaf.desc farLeaf.members = true ∧ (farLeafUp.part 0).defined = true ∧
    (farLeafUp.part 0).resetStep = .none := by decide +kernel

/-- Refutes O54: the clause of the ready write that agrees asks of every leaf that its frame's address is the slot STAGE + place · 131072
as a number, and nothing in the clause bounds the place. A member with FANIN 0 at rank 2^48 meets every hypothesis; its slot is 2^65 or
more, and ADDR has 64 bits. The bookkeeping of collectives is entry 75 of the assumption log. -/
theorem not_collectives : ¬ Obligations.Collectives := by
  unfold Obligations.Collectives
  rintro ⟨-, -, h⟩
  obtain ⟨hreceives, hagrees, hdefined, hreset⟩ := farLeaf_ready
  obtain ⟨hready, -⟩ := h farLeafUp 0 farLeaf hdefined hreset farLeaf_leafOfReduce.toInCollective
  obtain ⟨t, -, hsends⟩ := (hready 0 farLeaf.desc farLeaf.members hreceives).2 0 hagrees farLeaf_leafOfReduce rfl (by decide)
  exact farLeaf_not_sends _ t 0 hsends

end Sys2Proof.Machine
end

section
/-! Start-up up to the verified image, and the replant (R353 to R359, R443, R444). RESET_DONE of every defined partition after start-up is
the model's reading. -/

namespace Sys2Proof.Machine

open Host

section
variable {s : State}

/-! ### Reset release and straps (R354, R443, R444) -/

theorem resetRelease_starts (hb : s.image.boot = .off) (hs : s.fence.supply = .good) : ∃ t, exec .resetRelease s = .next t ∧
    t.image.boot = .released ∧ t.image.bootAt = s.time ∧ t.mem = s.mem ∧ t.plots = s.plots ∧ ∀ c : CoreIx, (t.core c).seenAt = s.time := by
  refine ⟨_, congrArg Outcome.next (if_pos (by rw [hb, hs]; rfl)), rfl, rfl, rfl, rfl, fun c => ?_⟩
  exact congrArg Core.seenAt (Vector.getElem_map ..)

/-- The straps are latched, and every pin parks. -/
def strapsLatched (levels : BitVec 8) (s : State) : State := { s with
  image := { s.image with
    monitorStrap := !levels.getLsbD 2
    safeBoot := !levels.getLsbD 3
    stage := 1
    boot := .strapped }
  pins := { s.pins with
    straps := BitVec.ofNat 4 levels.toNat
    levels := levels
    phase := 2
    pins := Vector.replicate 8 .park
    pinAt := Vector.replicate 8 s.time } }

/-- A copy that is chosen gives the pins their functions, and changes nothing else. -/
theorem exec_strapLatch_of_released {levels : BitVec 8} (hb : s.image.boot = .released)
    (hdue : 1000000 ≤ (s.time - s.image.bootAt).toNat) (hh : holdActive s = false) : ∃ fns syncOn, exec (.strapLatch levels) s = .next
      { strapsLatched levels s with pins := { (strapsLatched levels s).pins with fns := fns, syncOn := syncOn } } := by
  have hgo : ¬ (decide (s.image.boot ≠ .released) || decide ((s.time - s.image.bootAt).toNat < 1000000) || holdActive s) = true := by
    rw [hb, hh, decide_eq_false (Nat.not_lt.2 hdue)]
    decide
  have hexec : exec (.strapLatch levels) s = .next (match (chooseCopy (strapsLatched levels s) 0).copy with
      | some d => { strapsLatched levels s with pins := { (strapsLatched levels s).pins with
          fns := (pinFunctions (imageBytes (strapsLatched levels s) d)).1
          syncOn := (pinFunctions (imageBytes (strapsLatched levels s) d)).2 } }
      | none => strapsLatched levels s) := congrArg Outcome.next (if_neg hgo)
  rw [hexec]
  cases (chooseCopy (strapsLatched levels s) 0).copy with
  | none => exact ⟨_, _, rfl⟩
  | some d => exact ⟨_, _, rfl⟩

theorem strapLatch_latches {levels : BitVec 8} (hb : s.image.boot = .released)
    (hdue : 1000000 ≤ (s.time - s.image.bootAt).toNat) (hh : holdActive s = false) : ∃ t, exec (.strapLatch levels) s = .next t ∧
      t.image.boot = .strapped ∧ t.image.stage = 1 ∧ t.pins.straps.toNat = levels.toNat % 16 ∧ t.image.monitorStrap = !levels.getLsbD 2 ∧
      t.image.safeBoot = !levels.getLsbD 3 ∧ (∀ i : Fin 8, t.pins.pins[i] = .park) ∧ t.mem = s.mem := by
  obtain ⟨fns, syncOn, hexec⟩ := exec_strapLatch_of_released (levels := levels) hb hdue hh
  exact ⟨_, hexec, rfl, rfl, BitVec.toNat_ofNat .., rfl, rfl, fun i => Vector.getElem_replicate .., rfl⟩

/-! ### What the prune log and the ports leave (R355, R363, R365) -/

/-- What start-up's steps up to the verified image leave of its outcome: the memories, the plain facts of the image, and the Fence loaded. -/
def startView (s : State) : Memories × Boot × BitVec 3 × BitVec 2 × Bool × Option (Fin 2) :=
  (s.mem, s.image.boot, s.image.stage, s.image.copy, s.fence.loaded, s.image.replant)

/-- What of the image's registers the view leaves out may take any value. -/
theorem startView_withImage {i : Image} (hb : i.boot = s.image.boot) (hstage : i.stage = s.image.stage) (hc : i.copy = s.image.copy)
    (hr : i.replant = s.image.replant) : startView { s with image := i } = startView s := by
  rw [startView, startView, ← hb, ← hstage, ← hc, ← hr]

theorem startView_flashProgram (d : Fin 2) (a : Nat) (l : List Byte) (s : State) : startView (flashProgram d a l s) = startView s :=
  startView_withImage rfl rfl rfl rfl

theorem startView_flashErase (d : Fin 2) (a n : Nat) (s : State) : startView (flashErase d a n s) = startView s :=
  startView_withImage rfl rfl rfl rfl

theorem startView_queueLog (ty n v : Nat) (s : State) : startView (queueLog ty n v s) = startView s := startView_withImage rfl rfl rfl rfl

theorem startView_activate (sector rotate : Bool) (s : State) : startView (activate sector rotate s) = startView s :=
  startView_withImage rfl rfl rfl rfl

theorem startView_retire (sector : Bool) (s : State) : startView (retire sector s) = startView s := startView_flashProgram ..

theorem startView_activateOne (sector : Bool) (s : State) : startView (activateOne sector s) = startView s := by
  unfold activateOne
  dsimp only
  split
  · exact startView_activate ..
  · split
    · exact (startView_activate ..).trans (startView_retire ..)
    · exact startView_activate ..

theorem startView_openLog (s : State) : startView (openLog s) = startView s :=
  (startView_queueLog ..).trans ((startView_activate ..).trans ((startView_flashProgram ..).trans (startView_flashErase ..)))

theorem startView_logConflict (s : State) : startView (logConflict s) = startView s :=
  (startView_queueLog ..).trans ((startView_activate ..).trans (startView_withImage rfl rfl rfl rfl))

theorem startView_pickSector (s : State) : startView (pickSector s) = startView s := by
  unfold pickSector
  split
  · dsimp only
    split
    · split
      · exact startView_activate ..
      · exact startView_logConflict s
    · split <;> exact (startView_activate ..).trans (startView_retire ..)
  · exact startView_activateOne ..
  · exact startView_activateOne ..
  · exact startView_openLog s

theorem startView_settleSlot (s : State) (n : Nat) : startView (settleSlot s n) = startView s := by
  unfold settleSlot
  dsimp only
  split
  · rfl
  · split
    · split
      · rfl
      · exact startView_flashProgram ..
    · exact (startView_withImage rfl rfl rfl rfl).trans (startView_flashProgram ..)

theorem startView_countReturns (s : State) (r : BitVec 512) : startView (countReturns s r) = startView s := by
  unfold countReturns
  dsimp only
  split <;> rfl

theorem startView_applyPrune (s : State) (r : BitVec 512) : startView (applyPrune s r) = startView s := by
  unfold applyPrune
  split <;> rfl

theorem startView_settled (s : State) : startView (settleSlots (pickSector s)) = startView s :=
  (foldl_keeps startView (fun u n => startView_settleSlot u (n + 1)) _ _).trans (startView_pickSector s)

/-- The records of a settled log, read and applied. -/
def recordsApplied (u : State) (l : List (BitVec 512)) : State :=
  (l.filter (pruneInForce l)).foldl applyPrune ((l.filter fun r => slType r = 1 || slType r = 2).foldl countReturns
    { u with image := { u.image with seq := BitVec.ofNat 32 (lastSeq u u.image.sector), boots := nextBoot l } })

theorem applyLog_eq (s : State) : applyLog s = recordsApplied (settleSlots (pickSector s)) (orderedLog (settleSlots (pickSector s))) := rfl

theorem startView_recordsApplied (u : State) (l : List (BitVec 512)) : startView (recordsApplied u l) = startView u :=
  (foldl_keeps startView startView_applyPrune _ _).trans ((foldl_keeps startView startView_countReturns _ _).trans
    (startView_withImage rfl rfl rfl rfl))

theorem startView_applyLog (s : State) : startView (applyLog s) = startView s := by
  rw [applyLog_eq, startView_recordsApplied, startView_settled]

theorem startView_enablePort (s : State) (p : PortIx) : startView (enablePort s p) = startView s := by
  unfold enablePort
  dsimp only
  split
  · rfl
  · split
    · rfl
    · split <;> rfl

theorem startView_enablePorts (s : State) : startView (enablePorts s) = startView s :=
  foldl_keeps startView (fun u p => startView_enablePort u p) _ _

theorem startView_imageRecords (c : Choice) (s : State) : startView (imageRecords c s) = startView s := by
  unfold imageRecords
  dsimp only
  split <;> split <;> rfl

theorem setTarget_keeps_view {γ : Type} {g : State → γ} (hbeds : ∀ v u, g { u with beds := v } = g u) (b : BedIx) (step : BitVec 5) (s : State) :
    g (setTarget b step s) = g s := by
  rw [setTarget, clockKick_eq_beds, hbeds]
  exact hbeds ..

theorem startView_testClocks (s : State) : startView (testClocks s) = startView s :=
  foldl_keeps startView (fun u b => setTarget_keeps_view (fun _ _ => rfl) b 24 u) _ _

theorem setTarget_target (b k : BedIx) (s : State) : ((setTarget b 24 s).bed k).target = if k = b then 24 else (s.bed k).target := by
  rw [setTarget, clockKick_bed_target, State.onBed_bed_if]
  split <;> rfl

theorem testClocks_target (b : BedIx) (s : State) : ((testClocks s).bed b).target = 24 :=
  foldl_acts_once (F := fun u k => setTarget k 24 u) (g := fun u : State => (u.bed b).target) (φ := fun _ => 24) (q := b)
    (fun u => (setTarget_target b b u).trans (if_pos rfl)) (fun k _ hk u => (setTarget_target k b u).trans (if_neg hk.symm))
    (List.nodup_finRange 16) (List.mem_finRange b) s

/-! ### Verification (R355, R357) -/

/-- An image is loaded, and the partitions' balances are at their tops. -/
def imageLoaded (c : Choice) (d : Fin 2) (s : State) : State :=
  let s1 := loadConfig (imageBytes s d) (loadFence (imageBytes s d) (chosen c (imageBytes s d) s))
  let s2 := forAll (definedParts s1) (fun s q => s.onPart q fun x => { x with bal := burstOf s q }) s1
  { s2 with image := { s2.image with stage := 5, boot := .verified } }

theorem startView_loadConfig (b : List Byte) (s : State) : startView (loadConfig b s) = startView s := by
  rw [startView, loadConfig, startView]

theorem startView_loadFence (b : List Byte) (s : State) :
    startView (loadFence b s) = (s.mem, s.image.boot, s.image.stage, s.image.copy, true, s.image.replant) := by
  rw [startView, loadFence]

theorem startView_topUp (s : State) :
    startView (forAll (definedParts s) (fun s q => s.onPart q fun x => { x with bal := burstOf s q }) s) = startView s :=
  foldl_keeps startView (fun u q => show startView (u.onPart q fun x => { x with bal := burstOf u q }) = startView u from rfl) _ _

theorem startView_imageLoaded (c : Choice) (d : Fin 2) (s : State) (hc : c.copy = some d) :
    startView (imageLoaded c d s) = (s.mem, .verified, 5, BitVec.ofNat 2 d.val, true, s.image.replant) := by
  have hloaded := (startView_topUp _).trans ((startView_loadConfig (imageBytes s d) _).trans
    (startView_loadFence (imageBytes s d) (chosen c (imageBytes s d) s)))
  unfold imageLoaded
  dsimp only
  generalize forAll _ _ (loadConfig _ _) = u at hloaded ⊢
  have hcopy : (chosen c (imageBytes s d) s).image.copy = BitVec.ofNat 2 d.val := by
    rw [chosen, hc]
  simp only [startView, Prod.mk.injEq, hcopy] at hloaded ⊢
  obtain ⟨hmem, -, -, hcop, hfence, hreplant⟩ := hloaded
  exact ⟨hmem, trivial, trivial, hcop, hfence, hreplant⟩

theorem exec_imageVerified (fe : BitVec 2) (hb : s.image.boot = .strapped) (hh : holdActive s = false) : exec (.imageVerified fe) s =
    .next (match (chooseCopy s fe).copy with
      | none => enterRecovery (chooseCopy s fe) (chosen (chooseCopy s fe) [] s)
      | some d => testClocks (enablePorts (imageRecords (chooseCopy s fe) (applyLog (imageLoaded (chooseCopy s fe) d s))))) :=
  congrArg Outcome.next (if_neg (by rw [hb, hh]; decide))

theorem imageVerified_loads {fe : BitVec 2} {d : Fin 2} (hb : s.image.boot = .strapped) (hh : holdActive s = false)
    (hc : (chooseCopy s fe).copy = some d) : ∃ t, exec (.imageVerified fe) s = .next t ∧ t.image.boot = .verified ∧ t.image.stage = 5 ∧
      t.image.copy.toNat = d.val ∧ t.fence.loaded = true ∧ (∀ b : BedIx, (t.bed b).target = 24) ∧ t.mem = s.mem := by
  have hview := (startView_testClocks (enablePorts (imageRecords (chooseCopy s fe) (applyLog (imageLoaded (chooseCopy s fe) d s))))).trans
    ((startView_enablePorts _).trans ((startView_imageRecords ..).trans ((startView_applyLog _).trans
      (startView_imageLoaded (chooseCopy s fe) d s hc))))
  have hexec := exec_imageVerified fe hb hh
  rw [hc] at hexec
  have htarget := fun b => testClocks_target b (enablePorts (imageRecords (chooseCopy s fe) (applyLog (imageLoaded (chooseCopy s fe) d s))))
  dsimp only at hexec
  generalize testClocks (enablePorts (imageRecords (chooseCopy s fe) (applyLog (imageLoaded (chooseCopy s fe) d s)))) = t at hview hexec htarget
  simp only [startView, Prod.mk.injEq] at hview
  obtain ⟨hmem, hboot, hstage, hcopy, hfence, -⟩ := hview
  refine ⟨t, hexec, hboot, hstage, ?_, hfence, htarget, hmem⟩
  rw [hcopy, BitVec.toNat_ofNat]
  exact Nat.mod_eq_of_lt (by omega)

/-- What recovery mode leaves: the memories and the plots, with start-up over and no copy. -/
def recoveryView (s : State) : Memories × Vector Plot 128 × Bool × Boot × BitVec 2 :=
  (s.mem, s.plots, s.image.recovery, s.image.boot, s.image.copy)

theorem recoveryView_safeHold (cause : BitVec 4) (s : State) : recoveryView (safeHold cause s) = recoveryView s :=
  safeHold_keeps_view (fun _ _ _ => rfl) (fun _ _ _ => rfl) (fun _ _ => rfl) (fun _ _ => rfl) (fun _ _ _ _ => rfl) (fun _ _ _ => rfl) cause s

theorem recoveryView_enterRecovery (c : Choice) (hc : c.copy = none) (s : State) :
    recoveryView (enterRecovery c (chosen c [] s)) = (s.mem, s.plots, true, .done, 2) := by
  have hcopy : (chosen c [] s).image.copy = 2 := by rw [chosen, hc]
  unfold enterRecovery
  dsimp only
  rw [← hcopy]
  split
  · exact (recoveryView_safeHold ..).trans rfl
  · rfl

theorem imageVerified_recovers {fe : BitVec 2} (hb : s.image.boot = .strapped) (hh : holdActive s = false)
    (hc : (chooseCopy s fe).copy = none) : ∃ t, exec (.imageVerified fe) s = .next t ∧ t.image.recovery = true ∧ t.image.boot = .done ∧
      t.image.copy = 2 ∧ t.mem = s.mem ∧ t.plots = s.plots := by
  have hview := recoveryView_enterRecovery (chooseCopy s fe) hc s
  have hexec := exec_imageVerified fe hb hh
  rw [hc] at hexec
  dsimp only at hexec
  generalize enterRecovery (chooseCopy s fe) (chosen (chooseCopy s fe) [] s) = t at hview hexec
  simp only [recoveryView, Prod.mk.injEq] at hview
  obtain ⟨hmem, hplots, hrec, hboot, hcopy⟩ := hview
  exact ⟨t, hexec, hrec, hboot, hcopy, hmem, hplots⟩

end

end Sys2Proof.Machine
end

section
/-! The tests of start-up and what they leave of a plot, and the opening of partitions (R313, R357, R482, R484). RESET_DONE of every
defined partition after start-up is the model's reading. -/

namespace Sys2Proof.Machine

open Host

/-! ### What the tests leave of a view (R357, R484) -/

/-- A view that sees neither causes nor the log, and nothing of cisterns, cores, the Trellis, and of a partition nothing but whether it is
defined. -/
structure TestBlind {γ : Type} (g : State → γ) : Prop where
  func : ∀ f h u, g (State.onFunc u f h) = g u
  log : ∀ ty n v u, g (queueLog ty n v u) = g u
  cis : ∀ c f u, g (State.onCis u c f) = g u
  core : ∀ c f u, g (State.onCore u c f) = g u
  trellis : ∀ v u, g { u with trellis := v } = g u
  part : ∀ q f u, (∀ x : Part, (f x).defined = x.defined) → g (State.onPart u q f) = g u
  xlt : ∀ v u, g (State.onMem u fun m => { m with xlt := v }) = g u

namespace TestBlind

variable {γ : Type} {g : State → γ} (hg : TestBlind g)
include hg

theorem recordReturn (kind index sub errs : Nat) (s : State) : g (recordReturn kind index sub errs s) = g s := by
  unfold Machine.recordReturn
  split
  · rfl
  · exact hg.log ..

theorem recordPrune (kind index sub : Nat) (c : PruneCause) (count returns : Nat) (s : State) :
    g (recordPrune kind index sub c count returns s) = g s :=
  (recordPrune_keeps_view hg.func ..).trans (hg.log ..)

theorem testChan (r : InitReport) (first : Bool) (s : State) (i : Nat) : g (testChan r first s i) = g s := by
  unfold Machine.testChan
  dsimp only
  split
  · split
    · rfl
    · exact (hg.recordReturn ..).trans (hg.cis ..)
  · split
    · exact (hg.recordPrune ..).trans (hg.cis ..)
    · exact hg.cis ..

theorem testCore (r : InitReport) (s : State) (c : CoreIx) : g (testCore r s c) = g s := by
  unfold Machine.testCore
  split
  · exact (hg.recordReturn ..).trans (hg.core ..)
  · rfl

theorem trReturn (kind : Nat) (s : State) (m : TrModule) (sub : Nat) : g (trReturn kind s m sub) = g s :=
  (hg.trellis ..).trans (hg.recordReturn ..)

theorem testModule (r : InitReport) (s : State) (m : TrModule) : g (testModule r s m) = g s := by
  unfold Machine.testModule
  dsimp only
  refine (hg.trellis ..).trans ?_
  split
  · exact (hg.trReturn ..).trans (foldl_keeps g (fun u _ => hg.trReturn 4 u m _) _ _)
  · exact foldl_keeps g (fun u _ => hg.trReturn 4 u m _) _ _

/-- Beside the plots the tests leave the view. -/
theorem runTests (r : InitReport) (first : Bool) (s : State) :
    g (runTests r first s) = g ((List.finRange 128).foldl (testPlot r) ((List.range 128).foldl (Machine.testChan r first) s)) := by
  unfold Machine.runTests
  dsimp only
  split
  · exact (foldl_keeps g (hg.testModule r) _ _).trans (foldl_keeps g (hg.testCore r) _ _)
  · rfl

theorem scaleShares (s : State) : g (scaleShares s) = g s :=
  foldl_keeps g (fun _ _ => hg.part _ _ _ fun _ => by rfl) _ _

theorem buildTables (s : State) : g (buildTables s) = g s :=
  (foldl_keeps g (fun _ _ => hg.part _ _ _ fun _ => by rfl) _ _).trans (hg.xlt ..)

variable {p : PlotIx} (hplot : ∀ f u, g (State.onPlot u p f) = g u)
include hplot

theorem prunePlot (c : PruneCause) (n : Nat) (s : State) : g (prunePlot p c n s) = g s := by
  have hfail : g (failPassOn p s) = g s := by
    unfold failPassOn
    split
    · rfl
    · exact hg.part _ _ _ fun _ => rfl
  unfold Machine.prunePlot
  split
  · rfl
  · dsimp only
    split
    · exact (hg.recordPrune ..).trans ((hplot ..).trans hfail)
    · unfold drawReserve raiseCapacity
      split
      · exact (hg.part _ _ _ fun _ => by rfl).trans ((raiseEvent_keeps_view hg.func ..).trans
          ((hg.recordPrune ..).trans ((hplot ..).trans hfail)))
      · exact (raiseEvent_keeps_view hg.func ..).trans ((hg.recordPrune ..).trans ((hplot ..).trans hfail))

omit hg in
theorem openPlot (s : State) : g (openPlot p s) = g s := by
  unfold Machine.openPlot
  obtain ⟨v, hv⟩ := reloadDefaults_eq p (s.onPlot p fun x =>
    { x with mode := if x.unassigned then .off else .idle, reduced := x.banks ≠ 0, reducedReq := none })
  rw [hv]
  exact (hplot ..).trans (hplot ..)

theorem returnPlot (s : State) : g (returnPlot p s) = g s := by
  unfold Machine.returnPlot
  dsimp only
  refine (hplot ..).trans ?_
  split
  · exact (hg.recordReturn ..).trans (foldl_keeps g (fun _ _ => hg.recordReturn ..) _ _)
  · exact foldl_keeps g (fun _ _ => hg.recordReturn ..) _ _

theorem testPlot (r : InitReport) (s : State) : g (testPlot r s p) = g s := by
  have hopen : g (Machine.openPlot p (Machine.returnPlot p s)) = g s := (TestBlind.openPlot hplot _).trans (hg.returnPlot hplot s)
  unfold Machine.testPlot
  dsimp only
  split
  · split
    · rfl
    · exact hopen
  · split
    · exact hg.prunePlot hplot ..
    · exact hopen

end TestBlind

/-! ### A plot that passes (R357, R300) -/

theorem testBlind_plot (p : PlotIx) : TestBlind fun u => u.plot p where
  func _ _ _ := rfl
  log _ _ _ _ := rfl
  cis _ _ _ := rfl
  core _ _ _ := rfl
  trellis _ _ := rfl
  part _ _ _ _ := rfl
  xlt _ _ := rfl

/-- A plot is in service, or power-gated outside every partition, and reduced only where a bank stays retired. -/
def PlotOpen (unassigned : Bool) (x : Plot) : Prop := x.mode = (if unassigned then .off else .idle) ∧ x.reduced = decide (x.banks ≠ 0)

theorem openPlot_opens (p : PlotIx) (s : State) : PlotOpen (s.plot p).unassigned ((openPlot p s).plot p) := by
  unfold openPlot
  obtain ⟨v, hv⟩ := reloadDefaults_eq p (s.onPlot p fun x =>
    { x with mode := if x.unassigned then .off else .idle, reduced := x.banks ≠ 0, reducedReq := none })
  rw [hv, State.onPlot_plot, State.onPlot_plot]
  exact ⟨rfl, rfl⟩

theorem returnPlot_unassigned (p : PlotIx) (s : State) : ((returnPlot p s).plot p).unassigned = (s.plot p).unassigned := by
  have hg := testBlind_plot p
  have hbanks := foldl_keeps (fun u => u.plot p) (f := fun u k => recordReturn 6 p.val k 0 u) (fun _ _ => hg.recordReturn ..) (banksBack s p) s
  unfold returnPlot
  dsimp only
  rw [State.onPlot_plot]
  dsimp only
  split
  · exact congrArg Plot.unassigned ((hg.recordReturn ..).trans hbanks)
  · exact congrArg Plot.unassigned hbanks

theorem testPlot_of_passes {r : InitReport} {p : PlotIx} {s : State} (hm : (s.plot p).mode ≠ .pruned) (hr : r.plotFail.getLsbD p.val = false) :
    testPlot r s p = openPlot p (returnPlot p s) := by
  unfold testPlot
  dsimp only
  rw [if_neg hm, hr, if_neg Bool.false_ne_true]

theorem runTests_opens {r : InitReport} {p : PlotIx} {s : State} (first : Bool) (hm : (s.plot p).mode ≠ .pruned)
    (hr : r.plotFail.getLsbD p.val = false) : PlotOpen (s.plot p).unassigned ((runTests r first s).plot p) := by
  have hg := testBlind_plot p
  have hskip : ∀ k, k ≠ p → ∀ u, (testPlot r u k).plot p = u.plot p := fun k hk u =>
    hg.testPlot (p := k) (fun f w => State.onPlot_plot_ne _ _ hk.symm) r u
  have hrun : (runTests r first s).plot p = _ := hg.runTests r first s
  have hchan : ((List.range 128).foldl (testChan r first) s).plot p = s.plot p :=
    foldl_keeps (fun u => u.plot p) (hg.testChan r first) _ s
  rw [hrun]
  generalize (List.range 128).foldl (testChan r first) s = v at hchan
  refine foldl_turns_once (F := testPlot r) (I := fun u => u.plot p = s.plot p) (J := fun u => PlotOpen (s.plot p).unassigned (u.plot p))
    (q := p) (fun k hk u hu => (hskip k hk u).trans hu) (fun u hu => ?_) (fun k hk u hu => (hskip k hk u).symm ▸ hu)
    (List.nodup_finRange 128) (List.mem_finRange p) hchan
  rw [testPlot_of_passes (hu ▸ hm) hr, ← hu, ← returnPlot_unassigned]
  exact openPlot_opens p (returnPlot p u)

end Sys2Proof.Machine
end

section
/-! The end of start-up: the partitions open (R357, R361). RESET_DONE of every defined partition after start-up is the model's reading. -/

namespace Sys2Proof.Machine

open Host

section
variable {s : State}

/-! ### What is kept up to the opening -/

/-- What decides how the partitions open, with the bytes of the memories. -/
def openView (s : State) : Tab Byte × Bool × Bool × Bool × (PartIx → Bool) :=
  (s.mem.ram, s.fence.safe, s.image.safeBoot, s.image.recovery, fun q => (s.part q).defined)

theorem openView_onPart {f : Part → Part} (hf : ∀ x, (f x).defined = x.defined) (q : PartIx) (s : State) :
    openView (s.onPart q f) = openView s := by
  have hparts : (fun k => ((s.onPart q f).part k).defined) = fun k => (s.part k).defined := by
    funext k
    rw [State.onPart_part_if]
    split
    · subst_vars
      exact hf _
    · rfl
  rw [openView, openView, ← hparts]
  rfl

theorem testBlind_openView : TestBlind openView where
  func _ _ _ := rfl
  log _ _ _ _ := rfl
  cis _ _ _ := rfl
  core _ _ _ := rfl
  trellis _ _ := rfl
  part _ _ _ hf := openView_onPart hf ..
  xlt _ _ := rfl

theorem openView_runTests (r : InitReport) (first : Bool) (s : State) : openView (runTests r first s) = openView s := by
  have hg := testBlind_openView
  rw [hg.runTests]
  exact (foldl_keeps openView (fun u p => hg.testPlot (p := p) (fun _ _ => rfl) r u) _ _).trans
    (foldl_keeps openView (hg.testChan r first) _ _)

/-- The module tested, with its tables and its boot record. -/
def initTested (r : InitReport) (s : State) : State := bootRecord (buildTables (scaleShares (runTests r s.image.replant.isNone s)))

theorem openView_initTested (r : InitReport) (s : State) : openView (initTested r s) = openView s := by
  have hg := testBlind_openView
  exact (hg.log ..).trans ((hg.buildTables _).trans ((hg.scaleShares _).trans (openView_runTests ..)))

theorem initTested_plot (r : InitReport) (p : PlotIx) (s : State) : (initTested r s).plot p = (runTests r s.image.replant.isNone s).plot p := by
  have hg := testBlind_plot p
  exact (hg.log ..).trans ((hg.buildTables _).trans (hg.scaleShares _))

/-- Start-up is over, and the Fence's mode is the plain one. -/
def startOver (u : State) : State :=
  let v : State := { u with image := { u.image with boot := .done, stage := 7, replant := none } }
  { v with fence := { v.fence with mode := plainMode v } }

theorem startOver_image (u : State) : (startOver u).image = { u.image with boot := .done, stage := 7, replant := none } := rfl

theorem holdActive_startOver (u : State) : holdActive (startOver u) = false := by
  have hmode : (startOver u).fence.mode = if u.fence.safe then 4 else if u.image.recovery then 0 else 1 := by
    rw [startOver, plainMode]
    cases u.fence.safe <;> cases u.image.recovery <;> rfl
  rw [holdActive, hmode]
  cases u.fence.safe <;> cases u.image.recovery <;> rfl

/-- Every bed's clock goes to its plan. -/
def clocksBack (s : State) : State :=
  forAll (List.finRange 16) (fun s b => setTarget b (((bedPart s b).map fun q => (s.part q).fPlan).getD 0) s) s

theorem clocksBack_keeps_view {γ : Type} {g : State → γ} (hbeds : ∀ v u, g { u with beds := v } = g u) (s : State) :
    g (clocksBack s) = g s := foldl_keeps g (fun u b => setTarget_keeps_view hbeds b _ u) _ _

/-! ### Opening (R357) -/

/-- A partition after start-up. -/
def PartOpen (a : BitVec 3) (x : Part) : Prop := x.resetDone = true ∧ x.adm = a

theorem setAdmit_part (q k : PartIx) (a : BitVec 3) (s : State) : (setAdmit q a s).part k =
    if k = q then { s.part k with adm := a } else s.part k := by
  by_cases ha : (s.part q).adm = a
  · rw [setAdmit, if_pos ha]
    split
    · subst_vars
      rfl
    · rfl
  · have hraise : (raiseState q (s.onPart q fun x => { x with adm := a })).part k = (s.onPart q fun x => { x with adm := a }).part k :=
      raiseEvent_keeps_view (g := fun u => u.part k) (fun _ _ _ => rfl) _ _ _
    have hset : (setAdmit q a s).part k = (raiseState q (s.onPart q fun x => { x with adm := a })).part k := by
      rw [setAdmit, if_neg ha]
      dsimp only
      split <;> rfl
    rw [hset, hraise, State.onPart_part_if]
    split
    · subst_vars
      rfl
    · rfl

/-- One partition opens. -/
def openPart (s : State) (q : PartIx) : State := setAdmit q (openAdmit s) (s.onPart q fun x => { x with resetDone := true })

theorem openAdmit_openPart (s : State) (q : PartIx) : openAdmit (openPart s q) = openAdmit s :=
  (setAdmit_keeps_view (g := openAdmit) (fun _ _ _ => rfl) (fun _ _ _ => rfl) (fun _ _ => rfl) q _ _).trans rfl

theorem openPart_part_ne {q k : PartIx} (h : k ≠ q) (s : State) : (openPart s q).part k = s.part k := by
  rw [openPart, setAdmit_part, if_neg h, State.onPart_part_ne _ _ h]

theorem openPart_opens (s : State) (q : PartIx) : PartOpen (openAdmit s) ((openPart s q).part q) := by
  rw [openPart, setAdmit_part, if_pos rfl, State.onPart_part]
  exact ⟨rfl, rfl⟩

theorem openParts_eq (s : State) : openParts s = (definedParts s).foldl openPart s := rfl

theorem openParts_opens {q : PartIx} (hd : (s.part q).defined = true) : PartOpen (openAdmit s) ((openParts s).part q) := by
  rw [openParts_eq]
  exact foldl_turns_once (F := openPart) (I := fun u => openAdmit u = openAdmit s) (J := fun u => PartOpen (openAdmit s) (u.part q)) (q := q)
    (fun k _ u hu => (openAdmit_openPart u k).trans hu) (fun u hu => hu ▸ openPart_opens u q)
    (fun k hk u hu => (openPart_part_ne hk.symm u).symm ▸ hu) definedParts_nodup (mem_definedParts_iff.2 hd) rfl

theorem openParts_keeps_view {γ : Type} {g : State → γ} (hfunc : ∀ f h u, g (State.onFunc u f h) = g u)
    (hpart : ∀ r f u, g (State.onPart u r f) = g u) (hbvl : ∀ v u, g { u with bvl := v } = g u) (s : State) : g (openParts s) = g s :=
  foldl_keeps g (fun _ _ => (setAdmit_keeps_view hfunc (fun _ _ _ => hpart ..) hbvl ..).trans (hpart ..)) _ _

/-! ### The whole event -/

/-- The state as the partitions open. -/
def readyToOpen (r : InitReport) (s : State) : State := clocksBack (startOver (initTested r s))

/-- The partitions are open, and a REPLANT is answered. -/
def initOver (r : InitReport) (s : State) : State :=
  answerWaiting (fun _ e => seOpc e == 0x20) (ansDone 0 0) (openParts (readyToOpen r s))

theorem exec_memoryInitComplete {r : InitReport} (hb : s.image.boot = .verified) (hh : holdActive s = false) :
    exec (.memoryInitComplete r) s = .next (initOver r s) :=
  congrArg Outcome.next (if_neg (by rw [hb, hh]; decide))

theorem initOver_keeps_view {γ : Type} {g : State → γ} (hfunc : ∀ f h u, g (State.onFunc u f h) = g u)
    (hpart : ∀ r f u, g (State.onPart u r f) = g u) (hbvl : ∀ v u, g { u with bvl := v } = g u) (hbeds : ∀ v u, g { u with beds := v } = g u)
    (r : InitReport) (s : State) : g (initOver r s) = g (startOver (initTested r s)) :=
  (answerWaiting_keeps_view hfunc ..).trans ((openParts_keeps_view hfunc hpart hbvl _).trans (clocksBack_keeps_view hbeds _))

theorem initOver_image (r : InitReport) (s : State) :
    (initOver r s).image = { (initTested r s).image with boot := .done, stage := 7, replant := none } :=
  (initOver_keeps_view (g := State.image) (fun _ _ _ => rfl) (fun _ _ _ => rfl) (fun _ _ => rfl) (fun _ _ => rfl) r s).trans
    (startOver_image _)

theorem startOver_ram (u : State) : (startOver u).mem.ram = u.mem.ram := rfl

theorem startOver_part (q : PartIx) (u : State) : (startOver u).part q = u.part q := rfl

theorem startOver_plot (p : PlotIx) (u : State) : (startOver u).plot p = u.plot p := rfl

theorem initOver_plot (r : InitReport) (p : PlotIx) (s : State) : (initOver r s).plot p = (runTests r s.image.replant.isNone s).plot p := by
  rw [initOver_keeps_view (g := fun u => u.plot p) (fun _ _ _ => rfl) (fun _ _ _ => rfl) (fun _ _ => rfl) (fun _ _ => rfl) r s,
    startOver_plot, initTested_plot]

theorem initOver_ram (r : InitReport) (s : State) : (initOver r s).mem.ram = s.mem.ram := by
  have hview := openView_initTested r s
  simp only [openView, Prod.mk.injEq] at hview
  obtain ⟨hram, -⟩ := hview
  rw [initOver_keeps_view (g := fun u => u.mem.ram) (fun _ _ _ => rfl) (fun _ _ _ => rfl) (fun _ _ => rfl) (fun _ _ => rfl) r s,
    startOver_ram, hram]

theorem initOver_part (r : InitReport) (q : PartIx) (s : State) : (initOver r s).part q = (openParts (readyToOpen r s)).part q :=
  answerWaiting_keeps_view (g := fun u => u.part q) (fun _ _ _ => rfl) ..

theorem readyToOpen_defined (r : InitReport) (q : PartIx) (s : State) : ((readyToOpen r s).part q).defined = (s.part q).defined := by
  have hview := openView_initTested r s
  simp only [openView, Prod.mk.injEq] at hview
  obtain ⟨-, -, -, -, hdef⟩ := hview
  rw [readyToOpen, clocksBack_keeps_view (g := fun u => u.part q) (fun _ _ => rfl), startOver_part, congrFun hdef q]

theorem openAdmit_readyToOpen (r : InitReport) (s : State) : openAdmit (readyToOpen r s) =
    if s.fence.safe = true ∨ s.image.safeBoot = true ∨ s.image.recovery = true then 2 else 0 := by
  have hview := openView_initTested r s
  simp only [openView, Prod.mk.injEq] at hview
  obtain ⟨-, hsafe, hboot, hrec, -⟩ := hview
  rw [readyToOpen, clocksBack_keeps_view (g := openAdmit) (fun _ _ => rfl), openAdmit, holdActive_startOver]
  generalize initTested r s = u at hsafe hboot hrec
  rw [← hsafe, ← hboot, ← hrec]
  have hkept : (startOver u).fence.safe = u.fence.safe := rfl
  rw [hkept, startOver_image]
  simp [or_assoc]

theorem memoryInitComplete_opens {r : InitReport} (hb : s.image.boot = .verified) (hh : holdActive s = false) :
    ∃ t, exec (.memoryInitComplete r) s = .next t ∧ t.image.boot = .done ∧ t.image.stage = 7 ∧ t.image.replant = none ∧
      t.mem.ram = s.mem.ram ∧
      (∀ p : PlotIx, (s.plot p).mode ≠ .pruned → r.plotFail.getLsbD p.val = false → PlotOpen (s.plot p).unassigned (t.plot p)) ∧
      ∀ q : PartIx, (s.part q).defined = true → PartOpen
        (if s.fence.safe = true ∨ s.image.safeBoot = true ∨ s.image.recovery = true then 2 else 0) (t.part q) := by
  have himage := initOver_image r s
  refine ⟨_, exec_memoryInitComplete hb hh, congrArg Image.boot himage, congrArg Image.stage himage, congrArg Image.replant himage,
    initOver_ram r s, fun p hm hr => ?_, fun q hd => ?_⟩
  · rw [initOver_plot]
    exact runTests_opens _ hm hr
  · rw [initOver_part, ← openAdmit_readyToOpen r s]
    exact openParts_opens (by rw [readyToOpen_defined, hd])

end

end Sys2Proof.Machine
end

section
/-! Start-up settled, with the replant: a REPLANT takes the chosen copy and resets every partition anew (R292, R311, R359). RESET_DONE
of every defined partition after start-up is the model's reading. -/

namespace Sys2Proof.Machine

open Host

section
variable {s : State} {q : PartIx}

/-! ### What a reset is allowed by (R313) -/

/-- What allows the reset of a partition to begin. -/
def mayView (q : PartIx) (s : State) : Bool × ResetStep × Boot × Option (Fin 2) × BitVec 3 :=
  ((s.part q).defined, (s.part q).resetStep, s.image.boot, s.image.replant, s.fence.mode)

theorem MayReset.congr {t : State} (h : MayReset q s) (hv : mayView q t = mayView q s) : MayReset q t := by
  simp only [mayView, Prod.mk.injEq] at hv
  obtain ⟨hdefined, hstep, hboot, hreplant, hmode⟩ := hv
  exact ⟨hdefined.trans h.defined, hstep.trans h.step, hboot.trans h.boot, hreplant.trans h.replant,
    by rw [holdActive, hmode]; exact h.noHold⟩

theorem mayView_admitAll (p : BitVec 3 → Bool) (a : BitVec 3) (s : State) : mayView q (admitAll p a s) = mayView q s := by
  refine admitAll_keeps_view (g := mayView q) (fun _ _ _ => rfl) (fun r b u => ?_) (fun _ _ => rfl) p a s
  simp only [mayView, State.onPart_part_if]
  split
  · subst_vars
    rfl
  · rfl

theorem mayView_imageRecords (c : Choice) (s : State) : mayView q (imageRecords c s) = mayView q s := by
  unfold imageRecords
  dsimp only
  split <;> split <;> rfl

/-! ### Every partition is reset anew (R311) -/

theorem beginReset_defined (h : MayReset q s) : ((beginReset q s).part q).defined = true := by
  have hview := (resetView_stopPartition (V := fun _ => ()) (fun _ _ => rfl) q (holdingsDropped q (s.onPart q resetStarted))).trans
    (congrArg (fun v : ResetView Unit => { v with part := { v.part with carrier := [], fabric := [], colls := [] } })
      resetView_holdingsDropped)
  rw [← beginReset_of_mayReset h] at hview
  have hpart : (s.onPart q resetStarted).part q = resetStarted (s.part q) := State.onPart_part ..
  simp only [detachedView, resetView, hpart, partGates, ResetView.mk.injEq, PartGates.mk.injEq] at hview
  obtain ⟨⟨-, hdefined, -⟩, -⟩ := hview
  exact hdefined.trans h.defined

theorem Beside.defined {t : State} (h : Beside q s t) : (t.part q).defined = (s.part q).defined := by
  have hview := h.view
  simp only [resetView, partGates, ResetView.mk.injEq, PartGates.mk.injEq] at hview
  obtain ⟨⟨-, hdefined, -⟩, -⟩ := hview
  exact hdefined

/-- Of the partitions that are reset anew, each that may be is draining, and is defined as before. -/
theorem foldl_resetAnew_begins {l : List PartIx} (hl : l.Nodup) (hq : q ∈ l) (h : MayReset q s) :
    Begun q (l.foldl resetAnew s) ∧ ((l.foldl resetAnew s).part q).defined = true :=
  foldl_turns_once (F := resetAnew) (I := MayReset q) (J := fun u => Begun q u ∧ (u.part q).defined = true) (q := q)
    (fun _ hk u hu => hu.of_view (resetAnew_beside hk.symm u).view)
    (fun u hu => ⟨begun_resetAnew hu, by rw [resetAnew, if_pos hu.step]; exact beginReset_defined hu⟩)
    (fun _ hk u ⟨hbegun, hdefined⟩ => ⟨hbegun.of_beside (resetAnew_beside hk.symm u), (resetAnew_beside hk.symm u).defined.trans hdefined⟩)
    hl hq h

/-! ### Loading the new image (R359) -/

theorem startView_changePins (b : List Byte) (s : State) : startView (changePins b s) = startView s := by
  rw [startView, changePins, startView]

theorem startView_replant {t : State} (h : startView t = startView s) : t.image.replant = s.image.replant := by
  simp only [startView, Prod.mk.injEq] at h
  obtain ⟨-, -, -, -, -, hreplant⟩ := h
  exact hreplant

theorem loadFence_replant (b : List Byte) (s : State) : (loadFence b s).image.replant = s.image.replant := rfl

theorem chosen_replant (c : Choice) (b : List Byte) (s : State) : (chosen c b s).image.replant = s.image.replant := rfl

theorem replantClear_replant (s : State) : (replantClear s).image.replant = s.image.replant := rfl

theorem replantLoad_replant (d : Fin 2) (s : State) : (replantLoad d s).image.replant = s.image.replant := by
  unfold replantLoad
  dsimp only
  rw [startView_replant (startView_testClocks _), startView_replant (startView_enablePorts _)]
  dsimp only
  rw [startView_replant (startView_topUp _), startView_replant (startView_changePins ..), startView_replant (startView_loadConfig ..),
    loadFence_replant, chosen_replant, replantClear_replant]

theorem replantGoesOn_replant (s : State) : (replantGoesOn s).image.replant = s.image.replant := by
  unfold replantGoesOn
  split
  · split
    · exact replantLoad_replant ..
    · rfl
  · rfl

/-- While a partition's reset still runs, the replant waits for it. -/
theorem replantGoesOn_of_resetting (hd : (s.part q).defined = true) (hr : (s.part q).resetStep ≠ .none) : replantGoesOn s = s := by
  have hany : (definedParts s).all (fun q => (s.part q).resetStep = .none) = false :=
    List.all_eq_false.2 ⟨q, mem_definedParts_iff.2 hd, by simp [hr]⟩
  unfold replantGoesOn
  split
  · rw [hany, Bool.and_false, if_neg Bool.false_ne_true]
  · rfl

/-! ### REPLANT (R359) -/

/-- The reasons of a choice are recorded, and every partition is STOPPED. -/
def replantTold (c : Choice) (s : State) : State :=
  let v := imageRecords c { s with image := { s.image with
    forced := c.forced, aReason := BitVec.ofNat 8 c.a, bReason := BitVec.ofNat 8 c.b } }
  admitAll (fun _ => true) 2 v

/-- The copy that a replant goes on with. -/
def replantNoted (d : Fin 2) (s : State) : State := { s with image := { s.image with replant := some d } }

theorem resetBegun_replantNoted (d : Fin 2) (h : ResetBegun q s) : ResetBegun q (replantNoted d s) := { h with }

theorem mayView_replantTold (c : Choice) (s : State) : mayView q (replantTold c s) = mayView q s :=
  (mayView_admitAll ..).trans (mayView_imageRecords ..)

/-- The partitions of a state in which the reasons are recorded. -/
theorem definedParts_told (c : Choice) (s : State) : definedParts (imageRecords c { s with image := { s.image with
    forced := c.forced, aReason := BitVec.ofNat 8 c.a, bReason := BitVec.ofNat 8 c.b } }) = definedParts s := by
  have hparts : ∀ u : State, (imageRecords c u).parts = u.parts := fun u => by
    unfold imageRecords
    dsimp only
    split <;> split <;> rfl
  rw [definedParts, definedParts]
  simp only [State.part, hparts]

theorem beginReplant_eq (c : Choice) (d : Fin 2) (s : State) :
    beginReplant c d s = replantGoesOn (replantNoted d ((definedParts s).foldl resetAnew (replantTold c s))) := by
  rw [← definedParts_told c s]
  rfl

theorem beginReplant_begins (c : Choice) (d : Fin 2) (s : State) : (beginReplant c d s).image.replant = some d ∧
    ∀ q, MayReset q s → ResetBegun q (beginReplant c d s) := by
  rw [beginReplant_eq]
  refine ⟨replantGoesOn_replant _, fun q h => ?_⟩
  obtain ⟨hbegun, hdefined⟩ := foldl_resetAnew_begins (definedParts_nodup (s := s)) (mem_definedParts_iff.2 h.defined)
    (h.congr (mayView_replantTold c s))
  generalize (definedParts s).foldl resetAnew (replantTold c s) = u at hbegun hdefined
  have hrun : ((replantNoted d u).part q).resetStep ≠ .none := by
    rw [(resetBegun_replantNoted d hbegun.toResetBegun).step]
    exact ResetStep.noConfusion
  rw [replantGoesOn_of_resetting (s := replantNoted d u) hdefined hrun]
  exact resetBegun_replantNoted d hbegun.toResetBegun

variable {f : FnIx} {i : QpIx} {e : BitVec 1024} {fe : BitVec 2}

theorem exec_replant (hn : nextSubmission s f i = some e) (ho : seOpc e = 0x20) (hr : s.image.replant = none) (hb : s.image.boot = .done)
    (hrec : s.image.recovery = false) (hidle : s.fence.safe = true ∨ ∀ q : PartIx, (s.part q).defined = true → liveJobs s q = []) :
    exec (.replant f i fe) s = .next (match (chooseCopy s fe).copy with
      | none => answerNow f i ansImage s
      | some d => beginReplant (chooseCopy s fe) d (takeUp f i s)) := by
  have hfinal : ¬ (!s.fence.safe && (definedParts s).any fun q => !(liveJobs s q).isEmpty) = true := by
    rcases hidle with hsafe | hjobs
    · simp [hsafe]
    · have hnone : (definedParts s).any (fun q => !(liveJobs s q).isEmpty) = false :=
        List.any_eq_false.2 fun q hq => by simp [hjobs q (mem_definedParts_iff.1 hq)]
      rw [hnone, Bool.and_false]
      exact Bool.false_ne_true
  have hstarted : ¬ (decide (s.image.boot ≠ .done) || s.image.recovery) = true := by simp [hb, hrec]
  change execReplant f i fe s = _
  rw [execReplant, hn]
  dsimp only
  rw [if_neg (not_not_intro ho), hr, if_neg (by exact Bool.false_ne_true), if_neg hstarted, if_neg hfinal]
    <;> rfl

end

/-- Settles O42: each event of start-up acts once its row is due, and a REPLANT resets every partition that no reset holds. That
RESET_DONE is set after start-up is the model's reading. -/
theorem startUp : Obligations.StartUp := by
  intro s
  refine ⟨fun hb hs => resetRelease_starts hb hs, fun levels hb hdue hh => strapLatch_latches hb hdue hh, fun fe hb hh => ?_,
    fun r hb hh => memoryInitComplete_opens hb hh, fun f i e fe hn ho hr hb hrec hidle => ?_⟩
  · exact ⟨fun d hc => imageVerified_loads hb hh hc, fun hc => imageVerified_recovers hb hh hc⟩
  · have hexec := exec_replant (fe := fe) hn ho hr hb hrec hidle
    refine ⟨fun hc => ?_, fun d hc => ?_⟩
    · rw [hexec, hc]
    · obtain ⟨hreplant, hbegun⟩ := beginReplant_begins (chooseCopy s fe) d (takeUp f i s)
      rw [hc] at hexec
      exact ⟨_, hexec, hreplant, fun q hd hstep hh => hbegun q (MayReset.takeUp ⟨hd, hstep, hb, hr, hh⟩ f i)⟩

end Sys2Proof.Machine
end

section
/-! Codec streams, the pipes that code their frames, and the end of a frame (R422, R425, R426, R430 to R433, R435, R437). That the coded
end lies in host memory (entry 102 of the assumption log), and that a frame of a stale epoch leaves the stream as it is, and how pipes are
kept (entry 103), are the model's. -/

namespace Sys2Proof.Machine

open Host

section
variable {s : State}

/-! ### Traces that are off (R462) -/

theorem traceEmit_of_off (h : s.dev.traceEn = false) (die : TraceDie) (q : PartIx) (r : BitVec 256) : traceEmit die q r s = s := by
  simp only [traceEmit, h, Bool.false_and, Bool.false_eq_true, if_false]

/-- A pipe's record, where traces are off, for pipes that are changed one by one. -/
theorem tracedPipes_of_off {f : State → PipeIx → State} (hdev : ∀ u i, (f u i).dev = u.dev) (q : PartIx) (encode isEnd : Bool) (st : Nat)
    (epoch : Word) (ps : List PipeIx) (h : s.dev.traceEn = false) :
    forAll ps (fun u i => tracePipe q encode isEnd st epoch i (f u i)) s = forAll ps f s := by
  induction ps generalizing s with
  | nil => rfl
  | cons i ps ih =>
    have hoff : (f s i).dev.traceEn = false := by rw [hdev, h]
    change forAll ps _ (tracePipe q encode isEnd st epoch i (f s i)) = forAll ps f (f s i)
    rw [tracePipe, traceEmit_of_off hoff, ih hoff]

/-! ### Pipes (R424 to R426) -/

/-- A state with other pipes. -/
def withPipes (s : State) (v : Vector Pipe 8) : State := { s with codec := { s.codec with pipes := v } }

theorem onPipe_eq (i : PipeIx) (f : Pipe → Pipe) (s : State) : onPipe i f s = withPipes s (s.codec.pipes.set i.val (f s.codec.pipes[i]) i.isLt) :=
  rfl

/-- Each of the pipes is changed once, and nothing else. -/
theorem onPipes_eq (f : Pipe → Pipe) {ps : List PipeIx} (hps : ps.Nodup) (s : State) : ∃ v, forAll ps (fun u i => onPipe i f u) s = withPipes s v ∧
    ∀ k : PipeIx, v[k] = if k ∈ ps then f s.codec.pipes[k] else s.codec.pipes[k] := by
  induction ps generalizing s with
  | nil => exact ⟨_, rfl, fun _ => rfl⟩
  | cons i ps ih =>
    obtain ⟨hi, hps⟩ := List.nodup_cons.1 hps
    obtain ⟨v, hv, hk⟩ := ih hps (onPipe i f s)
    refine ⟨v, hv, fun k => ?_⟩
    have hpipe : (onPipe i f s).codec.pipes[k] = if k = i then f s.codec.pipes[i] else s.codec.pipes[k] := by
      rw [onPipe_eq]
      simp only [withPipes, Fin.getElem_fin, Vector.getElem_set, Fin.ext_iff, eq_comm]
    rw [hk, hpipe]
    by_cases hki : k = i
    · subst hki
      rw [if_neg hi, if_pos rfl, if_pos List.mem_cons_self]
    · simp only [List.mem_cons, hki, false_or, if_false]

theorem pipesFor_nodup (pair : Bool) (i : PipeIx) : (pipesFor pair i).Nodup := by
  cases pair with
  | false => exact List.nodup_singleton i
  | true =>
    refine List.nodup_cons.2 ⟨fun h => ?_, List.nodup_singleton _⟩
    have := congrArg Fin.val (List.mem_singleton.1 h)
    simp at this

/-! ### Streams (R430) -/

theorem streamOpen_of_taken {ctx : Fin 32} {x : Stream} (hc : s.codec.ctxs[ctx] = some x) (sp : StreamParams) :
    exec (.streamOpen ctx sp) s = .next s := by
  change execStreamOpen ctx sp s = _
  rw [execStreamOpen, hc]

theorem streamOpen_of_free {ctx : Fin 32} {sp : StreamParams} (hc : s.codec.ctxs[ctx] = none) (hr : (s.part sp.part).resetStep = .none) :
    exec (.streamOpen ctx sp) s = .next { s with codec := { s.codec with
      ctxs := s.codec.ctxs.set ctx.val (some { sp := sp, frames := 0, outBytes := 0, index := 0 }) ctx.isLt } } := by
  change execStreamOpen ctx sp s = _
  rw [execStreamOpen, hc]
  dsimp only
  rw [if_neg (not_not_intro hr)]

/-- Some pipe codes a frame of the context. -/
theorem coding_iff {ctx : Fin 32} : (s.codec.pipes.any fun y => y.frame.isSome && y.ctx.toNat = ctx.val) = true ↔
    ∃ i : PipeIx, (s.codec.pipes[i]).frame ≠ none ∧ (s.codec.pipes[i]).ctx.toNat = ctx.val := by
  simp only [Vector.any_eq_true, Bool.and_eq_true, Option.isSome_iff_ne_none, decide_eq_true_eq]
  exact ⟨fun ⟨i, hi, h⟩ => ⟨⟨i, hi⟩, h⟩, fun ⟨i, h⟩ => ⟨i.val, i.isLt, h⟩⟩

theorem streamClose_of_coding {ctx : Fin 32} (h : ∃ i : PipeIx, (s.codec.pipes[i]).frame ≠ none ∧ (s.codec.pipes[i]).ctx.toNat = ctx.val) :
    exec (.streamClose ctx) s = .next s := congrArg Outcome.next (if_pos (coding_iff.2 h))

theorem streamClose_of_idle {ctx : Fin 32} (h : ∀ i : PipeIx, (s.codec.pipes[i]).frame = none ∨ (s.codec.pipes[i]).ctx.toNat ≠ ctx.val) :
    exec (.streamClose ctx) s = .next { s with codec := { s.codec with ctxs := s.codec.ctxs.set ctx.val none ctx.isLt } } :=
  congrArg Outcome.next (if_neg fun hc => by
    obtain ⟨i, hframe, hctx⟩ := coding_iff.1 hc
    exact (h i).elim hframe fun hne => hne hctx)

/-! ### A frame begins (R425, R426) -/

/-- A pipe that takes a frame. -/
def pipeTaken (q : PartIx) (pair : Bool) (ctx : Fin 32) (fc : FrameCmd) (y : Pipe) : Pipe :=
  { y with
    state := 1
    user := BitVec.ofNat 4 q.val
    lent := y.owner.toNat ≠ q.val
    paired := pair
    ctx := BitVec.ofNat 5 ctx.val
    lastCtx := some ctx
    frame := some fc
    ueOnce := false }

/-- What lets a frame of a stream begin on a pipe. -/
def FrameTaken (s : State) (x : Stream) (pipe : PipeIx) : Prop := holdActive s = false ∧ x.sp.encode = decide (pipe.val < 4) ∧
  ∀ i ∈ pipesFor (spPair x.sp) pipe, pipeFree s x.sp.part (spPair x.sp) i = true

theorem frameRefused_iff {x : Stream} {pipe : PipeIx} : (holdActive s || (x.sp.encode != decide (pipe.val < 4)) ||
    !(pipesFor (spPair x.sp) pipe).all (pipeFree s x.sp.part (spPair x.sp))) = true ↔ ¬ FrameTaken s x pipe := by
  rw [FrameTaken, ← List.all_eq_true]
  cases holdActive s <;> cases (pipesFor (spPair x.sp) pipe).all (pipeFree s x.sp.part (spPair x.sp)) <;> simp

variable {ctx : Fin 32} {pipe : PipeIx} {fc : FrameCmd} {x : Stream}

theorem streamFrame_of_refused (hc : s.codec.ctxs[ctx] = some x) (h : ¬ FrameTaken s x pipe) : exec (.streamFrame ctx pipe fc) s = .next s := by
  change execStreamFrame ctx pipe fc s = _
  rw [execStreamFrame, hc]
  dsimp only
  rw [if_pos (frameRefused_iff.2 h)]

theorem streamFrame_of_taken (hc : s.codec.ctxs[ctx] = some x) (ht : s.dev.traceEn = false) (h : FrameTaken s x pipe) :
    exec (.streamFrame ctx pipe fc) s = .next (forAll (pipesFor (spPair x.sp) pipe)
      (fun u i => onPipe i (pipeTaken x.sp.part (spPair x.sp) ctx fc) u) s) := by
  change execStreamFrame ctx pipe fc s = _
  rw [execStreamFrame, hc]
  dsimp only
  rw [if_neg fun hr => frameRefused_iff.1 hr h]
  exact congrArg Outcome.next (tracedPipes_of_off (f := fun u i => onPipe i (pipeTaken x.sp.part (spPair x.sp) ctx fc) u) (fun _ _ => rfl)
    _ _ _ _ _ _ ht)

theorem streamFrame_takes (hc : s.codec.ctxs[ctx] = some x) (ht : s.dev.traceEn = false) (h : FrameTaken s x pipe) :
    ∃ t, exec (.streamFrame ctx pipe fc) s = .next t ∧ t.mem = s.mem ∧ t.codec.ctxs = s.codec.ctxs ∧ t.plots = s.plots ∧
      ∀ i : PipeIx, t.codec.pipes[i] = if i ∈ pipesFor (spPair x.sp) pipe then pipeTaken x.sp.part (spPair x.sp) ctx fc s.codec.pipes[i]
        else s.codec.pipes[i] := by
  obtain ⟨v, hv, hpipes⟩ := onPipes_eq (pipeTaken x.sp.part (spPair x.sp) ctx fc) (pipesFor_nodup (spPair x.sp) pipe) s
  have hexec := streamFrame_of_taken (fc := fc) hc ht h
  rw [hv] at hexec
  exact ⟨_, hexec, rfl, rfl, rfl, hpipes⟩

/-! ### A frame ends (R431, R435) -/

/-- A pipe that a frame has left. -/
def pipeLeft (done : Bool) (y : Pipe) : Pipe :=
  { y with state := 0, lent := false, paired := false, frame := none, ueOnce := false, count := satAdd y.count done.toNat }

/-- The pipes of a frame are idle again, and its completion is given to the Almanac. -/
def FrameOver (ps : List PipeIx) (ctx : Fin 32) (st : BitVec 8) (s t : State) : Prop := t.codec.done = s.codec.done ++ [(ctx, st)] ∧
  ∀ i : PipeIx, (t.codec.pipes[i]).frame = (if i ∈ ps then none else (s.codec.pipes[i]).frame) ∧
    (t.codec.pipes[i]).state = if i ∈ ps then 0 else (s.codec.pipes[i]).state

/-- A state with other pipes and one more completion. -/
def withDone (s : State) (v : Vector Pipe 8) (e : Fin 32 × BitVec 8) : State :=
  { s with codec := { s.codec with pipes := v, done := s.codec.done ++ [e] } }

variable {ps : List PipeIx}

/-- Where traces are off a frame's end changes the pipes and the completions alone. -/
theorem endFrame_eq (hps : ps.Nodup) (ht : s.dev.traceEn = false) (q : PartIx) (ctx : Fin 32) (encode : Bool) (fc : FrameCmd) (st : BitVec 8) :
    ∃ v, endFrame q ctx encode fc ps st s = withDone s v (ctx, st) ∧ FrameOver ps ctx st s (withDone s v (ctx, st)) := by
  obtain ⟨v, hv, hpipes⟩ := onPipes_eq (pipeLeft (st = 0)) hps s
  have htraced : forAll ps (fun u i => tracePipe q encode true st.toNat fc.epoch i u) s = s :=
    (tracedPipes_of_off (f := fun u _ => u) (fun _ _ => rfl) q encode true st.toNat fc.epoch ps ht).trans (List.foldl_fixed' (fun _ => rfl) ps)
  have hleft : releasePipes ps (st = 0) s = withPipes s v := hv
  refine ⟨v, ?_, rfl, fun i => ?_⟩
  · rw [endFrame, htraced, hleft]
    rfl
  · have hpipe : (withDone s v (ctx, st)).codec.pipes[i] = _ := hpipes i
    rw [hpipe]
    split <;> exact ⟨rfl, rfl⟩

theorem failStream_of_no_job {q : PartIx} (h : frameJob s q fc = none) (x : Stream) : failStream q fc x s = s := by
  rw [failStream, h]

end

end Sys2Proof.Machine
end

section
/-! The outcomes of a frame: errors, decoded rows and encoded bytes with their index entry (R422, R430 to R435). That the coded end lies
in host memory (entry 102 of the assumption log), and that a frame of a stale epoch leaves the stream as it is (entry 103), are the
model's. -/

namespace Sys2Proof.Machine

open Host

section
variable {s : State} {pipe : PipeIx} {r : CodecResult} {fc : FrameCmd} {x : Stream} {ctx : Fin 32} {q : PartIx} {ps : List PipeIx}

/-! ### What the end of a frame turns on (R432, R435) -/

/-- The errors of the die's SRAM are counted. -/
def sramCounted (r : CodecResult) (s : State) : State :=
  { s with codec := { s.codec with ce := satAdd s.codec.ce r.sramCe, ue := satAdd s.codec.ue r.sramUe } }

/-- A frame whose end is due: a pipe codes it, and its rows are accessible. -/
structure FrameDue (s : State) (pipe : PipeIx) (fc : FrameCmd) (x : Stream) : Prop where
  frame : (s.codec.pipes[pipe]).frame = some fc
  stream : s.codec.ctxs[(s.codec.pipes[pipe]).ctx.toFin] = some x
  busy : (s.codec.pipes[pipe]).state = 1
  noHold : holdActive s = false
  ready : ∀ a ∈ frameRows x.sp fc, accessReady s x.sp.part none a.2.2 (2 * x.sp.width) (!x.sp.encode) = true

theorem frameComplete_of_hold (hf : (s.codec.pipes[pipe]).frame = some fc)
    (hx : s.codec.ctxs[(s.codec.pipes[pipe]).ctx.toFin] = some x) (hh : holdActive s = true) : exec (.frameComplete pipe r) s = .next s := by
  change execFrameComplete pipe r s = _
  rw [execFrameComplete]
  dsimp only
  rw [hf, hx]
  dsimp only
  rw [hh, Bool.or_true, Bool.true_or, if_pos rfl]

theorem exec_frameComplete_of_due (h : FrameDue s pipe fc x) : exec (.frameComplete pipe r) s = .next
    (if r.sramUe = 0 then
      frameOutcome x.sp.part (s.codec.pipes[pipe]).ctx.toFin fc x (pipesFor (s.codec.pipes[pipe]).paired pipe) r (sramCounted r s)
    else if r.sramUe = 1 && !(s.codec.pipes[pipe]).ueOnce then
      forAll (pipesFor (s.codec.pipes[pipe]).paired pipe) (fun s i => onPipe i (fun z => { z with ueOnce := true }) s) (sramCounted r s)
    else failOpen x.sp.part (s.codec.pipes[pipe]).ctx.toFin fc x (pipesFor (s.codec.pipes[pipe]).paired pipe) (sramCounted r s)) := by
  have hready : (frameRows x.sp fc).all (fun a => accessReady s x.sp.part none a.2.2 (2 * x.sp.width) (!x.sp.encode)) = true :=
    List.all_eq_true.2 h.ready
  change execFrameComplete pipe r s = _
  rw [execFrameComplete]
  dsimp only
  rw [h.frame, h.stream]
  dsimp only
  rw [h.busy, h.noHold, hready, if_neg (by decide)]
  rfl

/-- The first uncorrectable error leaves the picture to be coded again. -/
theorem frameComplete_of_first_error (h : FrameDue s pipe fc x) (hue : r.sramUe = 1) (honce : (s.codec.pipes[pipe]).ueOnce = false) :
    ∃ t, exec (.frameComplete pipe r) s = .next t ∧ t.mem = s.mem ∧ t.codec.ctxs = s.codec.ctxs ∧ t.codec.done = s.codec.done ∧
      t.codec.ue = satAdd s.codec.ue 1 ∧ ∀ i ∈ pipesFor (s.codec.pipes[pipe]).paired pipe,
        (t.codec.pipes[i]).frame = (s.codec.pipes[i]).frame ∧ (t.codec.pipes[i]).ueOnce = true := by
  obtain ⟨v, hv, hpipes⟩ := onPipes_eq (fun z => { z with ueOnce := true }) (pipesFor_nodup (s.codec.pipes[pipe]).paired pipe) (sramCounted r s)
  have hexec := exec_frameComplete_of_due (r := r) h
  rw [if_neg (by rw [hue]; decide), if_pos (by rw [hue, honce]; rfl), hv] at hexec
  refine ⟨_, hexec, rfl, rfl, rfl, congrArg (satAdd s.codec.ue) hue, fun i hi => ?_⟩
  have hpipe : (withPipes (sramCounted r s) v).codec.pipes[i] = _ := hpipes i
  rw [hpipe, if_pos hi]
  exact ⟨rfl, rfl⟩

theorem exec_frameComplete_of_clean (h : FrameDue s pipe fc x) (hue : r.sramUe = 0) : exec (.frameComplete pipe r) s = .next
    (frameOutcome x.sp.part (s.codec.pipes[pipe]).ctx.toFin fc x (pipesFor (s.codec.pipes[pipe]).paired pipe) r (sramCounted r s)) := by
  rw [exec_frameComplete_of_due h, if_pos hue]

theorem sramCounted_of_none (hce : r.sramCe = 0) (hue : r.sramUe = 0) (s : State) : sramCounted r s = s := by
  rw [sramCounted, hce, hue, satAdd_zero, satAdd_zero]

/-! ### Frames that fail (R422, R431, R435) -/

/-- A frame of no job that ends with a status changes the pipes and the completions alone. -/
theorem failed_eq (hps : ps.Nodup) (ht : s.dev.traceEn = false) (hj : frameJob s q fc = none) (encode : Bool) (st : BitVec 8) :
    ∃ v, failStream q fc x (endFrame q ctx encode fc ps st s) = withDone s v (ctx, st) ∧ FrameOver ps ctx st s (withDone s v (ctx, st)) := by
  obtain ⟨v, hv, hover⟩ := endFrame_eq hps ht q ctx encode fc st
  refine ⟨v, ?_, hover⟩
  rw [hv]
  exact failStream_of_no_job (s := withDone s v (ctx, st)) hj x

/-- A frame beyond the features is counted. -/
def unsupportedCounted (s : State) : State := { s with codec := { s.codec with unsupported := satAdd s.codec.unsupported 1 } }

/-- A bad bitstream is counted. -/
def bitstreamCounted (s : State) : State := { s with codec := { s.codec with bitstream := satAdd s.codec.bitstream 1 } }

theorem frameOutcome_of_beyond (hdma : r.dmaOk = true) (hu : r.unsupported = true ∨ spBeyond x.sp = true) : frameOutcome q ctx fc x ps r s =
    failStream q fc x (endFrame q ctx x.sp.encode fc ps 0x13 (unsupportedCounted s)) := by
  rw [frameOutcome, hdma, if_neg (by decide), if_pos (Bool.or_eq_true_iff.2 hu)]
  rfl

theorem frameOutcome_of_bitstream (hdma : r.dmaOk = true) (hu : r.unsupported = false) (hb : spBeyond x.sp = false)
    (he : x.sp.encode = false) (herr : r.bitstreamErr = true) : frameOutcome q ctx fc x ps r s =
      failStream q fc x (endFrame q ctx false fc ps 0x12 (bitstreamCounted s)) := by
  rw [frameOutcome, hdma, hu, hb, he, herr, if_neg (by decide), if_neg (by decide), if_pos (by decide)]
  rfl

theorem frameOutcome_of_decode (hdma : r.dmaOk = true) (hu : r.unsupported = false) (hb : spBeyond x.sp = false)
    (he : x.sp.encode = false) (herr : r.bitstreamErr = false) : frameOutcome q ctx fc x ps r s = decodeDone q ctx fc x ps r s := by
  rw [frameOutcome, hdma, hu, hb, he, herr, if_neg (by decide), if_neg (by decide), if_neg (by decide), if_neg (by decide)]

theorem frameOutcome_of_encode (hdma : r.dmaOk = true) (hu : r.unsupported = false) (hb : spBeyond x.sp = false)
    (he : x.sp.encode = true) : frameOutcome q ctx fc x ps r s = encodeDone q ctx fc x ps r s := by
  rw [frameOutcome, hdma, hu, hb, he, if_neg (by decide), if_neg (by decide), Bool.not_true, Bool.and_false, if_neg (by decide), if_pos rfl]

/-! ### A decoded frame (R433) -/

theorem writeRows_dev (q : PartIx) (y : StreamParams) (r : CodecResult) (epoch : Nat) (rows : List (Nat × Nat × Nat)) (s : State) :
    (writeRows q y r epoch rows s).1.dev = s.dev := by
  have hrow : ∀ (a : Nat) (bs : List Byte) (u : State), (routedWrite q none a 0 epoch bs u).1.dev = u.dev := fun a bs u =>
    routedWrite_keeps (g := State.dev) (fun _ _ _ => rfl) (fun _ _ => rfl) (fun _ _ _ => rfl) (fun _ _ _ => rfl)
      (cisPerfAdd_keeps_view (g := State.dev) (fun _ _ _ => rfl) fun _ _ _ => rfl) q none a bs u
  induction rows generalizing s with
  | nil => rfl
  | cons a rows ih =>
    rw [writeRows]
    split
    · next u e hw => rw [← hrow a.2.2 (decodedRow y r a.1 a.2.1) s, hw]
    · next u hw => rw [ih, ← hrow a.2.2 (decodedRow y r a.1 a.2.1) s, hw]

theorem decodeDone_of_written {u : State} (hps : ps.Nodup) (ht : s.dev.traceEn = false) (hstale : frameStale s q fc = false)
    (hw : writeRows q x.sp r fc.epoch.toNat (frameRows x.sp fc) s = (u, none)) (hu : u.codec = s.codec) :
    (decodeDone q ctx fc x ps r s).mem = u.mem ∧ FrameOver ps ctx 0 s (decodeDone q ctx fc x ps r s) ∧
      (decodeDone q ctx fc x ps r s).codec.ctxs[ctx] = some { x with frames := x.frames + 1 } := by
  have hdev : u.dev = s.dev := by rw [← writeRows_dev q x.sp r fc.epoch.toNat (frameRows x.sp fc) s, hw]
  obtain ⟨v, hv, hover⟩ := endFrame_eq (s := u) hps (by rw [hdev, ht]) q ctx false fc 0
  have hdone : decodeDone q ctx fc x ps r s = setStream ctx { x with frames := x.frames + 1 } (withDone u v (ctx, 0)) := by
    rw [decodeDone, hw]
    dsimp only
    rw [hv, hstale, if_neg Bool.false_ne_true]
  rw [FrameOver, hu] at hover
  rw [hdone]
  exact ⟨rfl, hover, Vector.getElem_set_self ..⟩

/-! ### An encoded frame (R430, R432) -/

/-- The clamps of a picture are counted. -/
def clampsCounted (y : StreamParams) (vs : List XVal) (s : State) : State :=
  let l := vs.map xrat
  let n := y.width * y.height
  { s with codec := { s.codec with clamp := satAdd s.codec.clamp (clampCount y (l.take n) ((l.drop n).take n) (l.drop (2 * n))) } }

theorem pictureClamps_of_finite {vs : List XVal} (h : ∀ v ∈ vs, xisNan v = false ∧ xisInf v = false) (y : StreamParams) (s : State) :
    pictureClamps y vs s = (s, clampCount y ((vs.map xrat).take (y.width * y.height))
      (((vs.map xrat).drop (y.width * y.height)).take (y.width * y.height)) ((vs.map xrat).drop (2 * (y.width * y.height)))) := by
  have hnone : (vs.any fun v => xisNan v || xisInf v) = false := List.any_eq_false.2 fun v hv => by
    obtain ⟨hnan, hinf⟩ := h v hv
    rw [hnan, hinf]
    decide
  rw [pictureClamps, hnone, if_neg Bool.false_ne_true]

theorem rateControl_of_fits (h : r.overflow = false) (y : StreamParams) (s : State) : rateControl y r s = (s, r.coded) := by
  rw [rateControl, h, Bool.and_false, if_neg Bool.false_ne_true]

theorem encodeDone_of_read {vs : List XVal} (hread : readRows q (2 * x.sp.width) (frameRows x.sp fc) s = (s, .ok vs))
    (hvs : ∀ v ∈ vs, xisNan v = false ∧ xisInf v = false) (hover : r.overflow = false) : encodeDone q ctx fc x ps r s =
      putCoded q ctx fc x r.coded (endFrame q ctx true fc ps 0 (clampsCounted x.sp vs s)) := by
  rw [encodeDone, hread]
  dsimp only
  rw [pictureClamps_of_finite hvs]
  dsimp only
  rw [rateControl_of_fits hover]
  rfl

theorem putCoded_of_stale (h : frameStale s q fc = true) (bs : List Byte) : putCoded q ctx fc x bs s = s := by
  rw [putCoded, if_pos h]

/-- A frame of no job goes to the host whole, and its index entry after it. -/
theorem putCoded_of_current (h : frameStale s q fc = false) (hj : frameJob s q fc = none) (bs : List Byte) : putCoded q ctx fc x bs s =
    setStream ctx { x with frames := x.frames + 1, outBytes := x.outBytes + bs.length, index := (writeIndex x (hostWrite fc.coded.toNat bs s)).2 }
      (writeIndex x (hostWrite fc.coded.toNat bs s)).1 := by
  rw [putCoded, h, if_neg Bool.false_ne_true, hj]
  dsimp only
  rw [if_neg (lt_irrefl _), List.take_length]

/-- A frame has an index entry: it is a random-access point, the stream has an index, and there is room. -/
def Indexed (x : Stream) : Prop := accessPoint x.sp x.frames ≠ none ∧ spIndexAddr x.sp ≠ 0 ∧ 16 * (x.index + 1) ≤ spIndexLen x.sp

/-- The bytes of a frame's index entry. -/
def indexEntry (x : Stream) : List Byte :=
  bytesOf 16 (x.outBytes + x.frames * 2 ^ 64 + (decide (accessPoint x.sp x.frames = some true)).toNat * 2 ^ 96)

theorem writeIndex_of_not_indexed (h : ¬ Indexed x) (s : State) : writeIndex x s = (s, x.index) := by
  unfold writeIndex
  split
  · next key hkey =>
    rw [if_pos]
    by_contra hroom
    simp only [Bool.or_eq_true, decide_eq_true_eq, not_or, Nat.not_lt] at hroom
    exact h ⟨by rw [hkey]; exact Option.some_ne_none _, hroom⟩
  · rfl

theorem writeIndex_of_indexed (h : Indexed x) (ho : x.outBytes < 2 ^ 64) (hf : x.frames < 2 ^ 32) (s : State) :
    writeIndex x s = (hostWrite (spIndexAddr x.sp + 16 * x.index) (indexEntry x) s, x.index + 1) := by
  obtain ⟨hpoint, haddr, hroom⟩ := h
  obtain ⟨key, hkey⟩ := Option.ne_none_iff_exists'.1 hpoint
  have hpack : pack [(64, x.outBytes), (32, x.frames), (32, key.toNat)] = x.outBytes + x.frames * 2 ^ 64 + key.toNat * 2 ^ 96 := by
    have hbit := key.toNat_lt
    rw [pack, pack, pack, pack, Nat.mod_eq_of_lt ho, Nat.mod_eq_of_lt hf, Nat.mod_eq_of_lt (by omega)]
    omega
  have hentry : indexEntry x = bytesOf 16 (pack [(64, x.outBytes), (32, x.frames), (32, key.toNat)]) := by
    rw [indexEntry, hkey, hpack]
    cases key <;> rfl
  rw [writeIndex, hkey, hentry]
  dsimp only
  rw [if_neg]
  simp only [Bool.or_eq_true, decide_eq_true_eq, not_or, Nat.not_lt]
  exact ⟨haddr, hroom⟩

theorem hostByte_hostWrite (at_ : Nat) (bs : List Byte) (s : State) (a : Nat) : hostByte (hostWrite at_ bs s) a =
    if at_ ≤ a ∧ a < at_ + bs.length then bs.getD (a - at_) 0 else hostByte s a := by
  rw [List.getD_eq_getElem?_getD]
  exact tabGet_write s.mem.host at_ bs a

/-- A state with another host memory and other streams. -/
def withCoded (s : State) (h : Tab Byte) (c : Vector (Option Stream) 32) : State :=
  { s with codec := { s.codec with ctxs := c }, mem := { s.mem with host := h } }

theorem writeIndex_eq (x : Stream) (s : State) : ∃ h, (writeIndex x s).1 = s.onMem fun m => { m with host := h } := by
  unfold writeIndex
  split
  · split
    · exact ⟨s.mem.host, rfl⟩
    · exact ⟨_, rfl⟩
  · exact ⟨s.mem.host, rfl⟩

/-- A coded frame of no job changes the host's memory and the streams alone. -/
theorem putCoded_eq (hj : frameJob s q fc = none) (bs : List Byte) : ∃ h c, putCoded q ctx fc x bs s = withCoded s h c := by
  cases hstale : frameStale s q fc with
  | true => exact ⟨s.mem.host, s.codec.ctxs, putCoded_of_stale hstale bs⟩
  | false =>
    obtain ⟨h, hh⟩ := writeIndex_eq x (hostWrite fc.coded.toNat bs s)
    rw [putCoded_of_current hstale hj, hh]
    exact ⟨_, _, rfl⟩

/-- The bytes of a current frame and its index entry, in the host's memory, and its stream. -/
theorem putCoded_stands (hstale : frameStale s q fc = false) (hj : frameJob s q fc = none) (bs : List Byte) (ho : x.outBytes < 2 ^ 64)
    (hf : x.frames < 2 ^ 32) :
    (Indexed x → (putCoded q ctx fc x bs s).codec.ctxs[ctx] =
        some { x with frames := x.frames + 1, outBytes := x.outBytes + bs.length, index := x.index + 1 } ∧
      (∀ i < 16, hostByte (putCoded q ctx fc x bs s) (spIndexAddr x.sp + 16 * x.index + i) = (indexEntry x).getD i 0) ∧
      ∀ a, (a < spIndexAddr x.sp + 16 * x.index ∨ spIndexAddr x.sp + 16 * x.index + 16 ≤ a) → hostByte (putCoded q ctx fc x bs s) a =
        if fc.coded.toNat ≤ a ∧ a < fc.coded.toNat + bs.length then bs.getD (a - fc.coded.toNat) 0 else hostByte s a) ∧
    (¬ Indexed x → (putCoded q ctx fc x bs s).codec.ctxs[ctx] = some { x with frames := x.frames + 1, outBytes := x.outBytes + bs.length } ∧
      ∀ a, hostByte (putCoded q ctx fc x bs s) a =
        if fc.coded.toNat ≤ a ∧ a < fc.coded.toNat + bs.length then bs.getD (a - fc.coded.toNat) 0 else hostByte s a) := by
  have hkeep : ∀ y u a, hostByte (setStream ctx y u) a = hostByte u a := fun _ _ _ => rfl
  have hlen : (indexEntry x).length = 16 := bytesOf_length ..
  rw [putCoded_of_current hstale hj]
  refine ⟨fun hi => ?_, fun hi => ?_⟩
  · rw [writeIndex_of_indexed hi ho hf]
    refine ⟨Vector.getElem_set_self .., fun i hi => ?_, fun a ha => ?_⟩
    · rw [hkeep, hostByte_hostWrite, hlen, if_pos ⟨Nat.le_add_right .., by omega⟩, Nat.add_sub_cancel_left]
    · rw [hkeep, hostByte_hostWrite, hlen, if_neg (by omega), hostByte_hostWrite]
  · rw [writeIndex_of_not_indexed hi]
    refine ⟨Vector.getElem_set_self .., fun a => ?_⟩
    rw [hkeep, hostByte_hostWrite]

end

end Sys2Proof.Machine
end

section
/-! Codec streams settled (R422, R426, R430 to R433, R435). That the coded end lies in host memory (entry 102 of the assumption log), and
that a frame of a stale epoch leaves the stream as it is, with how pipes are kept (entry 103), are the model's. -/

namespace Sys2Proof.Machine

open Host

section
variable {s : State} {pipe : PipeIx} {r : CodecResult} {fc : FrameCmd} {x : Stream}

/-- The pipes that code the frame of a pipe. -/
def framePipes (s : State) (pipe : PipeIx) : List PipeIx := pipesFor (s.codec.pipes[pipe]).paired pipe

/-- The context whose frame a pipe codes. -/
def frameCtx (s : State) (pipe : PipeIx) : Fin 32 := (s.codec.pipes[pipe]).ctx.toFin

theorem framePipes_nodup : (framePipes s pipe).Nodup := pipesFor_nodup ..

theorem frameComplete_of_beyond (h : FrameDue s pipe fc x) (ht : s.dev.traceEn = false) (hj : frameJob s x.sp.part fc = none)
    (hue : r.sramUe = 0) (hdma : r.dmaOk = true) (hu : r.unsupported = true ∨ spBeyond x.sp = true) :
    ∃ t, exec (.frameComplete pipe r) s = .next t ∧ t.mem = s.mem ∧ FrameOver (framePipes s pipe) (frameCtx s pipe) 0x13 s t ∧
      t.codec.unsupported = satAdd s.codec.unsupported 1 := by
  obtain ⟨v, hv, hover⟩ := failed_eq (s := unsupportedCounted (sramCounted r s)) (q := x.sp.part) (fc := fc) (x := x) (ctx := frameCtx s pipe)
    (framePipes_nodup (s := s) (pipe := pipe)) ht hj x.sp.encode 0x13
  have hexec := exec_frameComplete_of_clean (r := r) h hue
  rw [frameOutcome_of_beyond hdma hu] at hexec
  exact ⟨_, hexec.trans (congrArg Outcome.next hv), rfl, hover, rfl⟩

theorem frameComplete_of_bitstream (h : FrameDue s pipe fc x) (ht : s.dev.traceEn = false) (hj : frameJob s x.sp.part fc = none)
    (hue : r.sramUe = 0) (hdma : r.dmaOk = true) (hu : r.unsupported = false) (hb : spBeyond x.sp = false) (he : x.sp.encode = false)
    (herr : r.bitstreamErr = true) : ∃ t, exec (.frameComplete pipe r) s = .next t ∧ t.mem = s.mem ∧
      FrameOver (framePipes s pipe) (frameCtx s pipe) 0x12 s t ∧ t.codec.bitstream = satAdd s.codec.bitstream 1 := by
  obtain ⟨v, hv, hover⟩ := failed_eq (s := bitstreamCounted (sramCounted r s)) (q := x.sp.part) (fc := fc) (x := x) (ctx := frameCtx s pipe)
    (framePipes_nodup (s := s) (pipe := pipe)) ht hj false 0x12
  have hexec := exec_frameComplete_of_clean (r := r) h hue
  rw [frameOutcome_of_bitstream hdma hu hb he herr] at hexec
  exact ⟨_, hexec.trans (congrArg Outcome.next hv), rfl, hover, rfl⟩

theorem frameComplete_of_decoded {u : State} (h : FrameDue s pipe fc x) (ht : s.dev.traceEn = false) (hue : r.sramUe = 0)
    (hdma : r.dmaOk = true) (hu : r.unsupported = false) (hb : spBeyond x.sp = false) (he : x.sp.encode = false)
    (herr : r.bitstreamErr = false) (hce : r.sramCe = 0) (hstale : frameStale s x.sp.part fc = false)
    (hw : writeRows x.sp.part x.sp r fc.epoch.toNat (frameRows x.sp fc) s = (u, none)) (hcodec : u.codec = s.codec) :
    ∃ t, exec (.frameComplete pipe r) s = .next t ∧ t.mem = u.mem ∧ FrameOver (framePipes s pipe) (frameCtx s pipe) 0 s t ∧
      t.codec.ctxs[frameCtx s pipe] = some { x with frames := x.frames + 1 } := by
  have hexec := exec_frameComplete_of_clean (r := r) h hue
  rw [frameOutcome_of_decode hdma hu hb he herr, sramCounted_of_none hce hue] at hexec
  exact ⟨_, hexec, decodeDone_of_written framePipes_nodup ht hstale hw hcodec⟩

/-- An encoded frame ends, and its bytes then go to the host. -/
theorem frameComplete_of_encoded {vs : List XVal} (h : FrameDue s pipe fc x) (ht : s.dev.traceEn = false) (hue : r.sramUe = 0)
    (hdma : r.dmaOk = true) (hu : r.unsupported = false) (hb : spBeyond x.sp = false) (he : x.sp.encode = true) (hce : r.sramCe = 0)
    (hfits : r.overflow = false) (hread : readRows x.sp.part (2 * x.sp.width) (frameRows x.sp fc) s = (s, .ok vs))
    (hvs : ∀ v ∈ vs, xisNan v = false ∧ xisInf v = false) : ∃ v, let b := withDone (clampsCounted x.sp vs s) v (frameCtx s pipe, 0)
      exec (.frameComplete pipe r) s = .next (putCoded x.sp.part (frameCtx s pipe) fc x r.coded b) ∧
        FrameOver (framePipes s pipe) (frameCtx s pipe) 0 s b := by
  obtain ⟨v, hv, hover⟩ := endFrame_eq (s := clampsCounted x.sp vs s) (framePipes_nodup (s := s) (pipe := pipe)) ht x.sp.part
    (frameCtx s pipe) true fc 0
  have hexec := exec_frameComplete_of_clean (r := r) h hue
  rw [frameOutcome_of_encode hdma hu hb he, sramCounted_of_none hce hue, encodeDone_of_read hread hvs hfits] at hexec
  exact ⟨v, hexec.trans (congrArg (fun b => Outcome.next (putCoded x.sp.part (frameCtx s pipe) fc x r.coded b)) hv), hover⟩

end

/-- Settles O55: streams by their contexts, and each end of a frame by what the pipe reports. The coded end in host memory, and a stale
epoch that leaves the stream, are the model's (entries 102 and 103 of the assumption log). -/
theorem codecStreams : Obligations.CodecStreams := by
  refine ⟨fun s ctx sp => ?_, fun s ctx pipe fc x hc ht => ?_, fun s pipe r fc x => ?_⟩
  · exact ⟨streamOpen_of_free, fun x hc => streamOpen_of_taken hc sp, streamClose_of_idle, streamClose_of_coding⟩
  · exact ⟨streamFrame_of_refused hc, streamFrame_takes hc ht⟩
  · intro y ctx ps rows hframe hstream hbusy
    refine ⟨frameComplete_of_hold hframe hstream, fun hh hready ht hj => ?_⟩
    have hdue : FrameDue s pipe fc x := ⟨hframe, hstream, hbusy, hh, hready⟩
    refine ⟨frameComplete_of_first_error hdue, fun hue hdma => ⟨frameComplete_of_beyond hdue ht hj hue hdma, fun hu hb => ⟨?_, ?_, ?_⟩⟩⟩
    · exact frameComplete_of_bitstream hdue ht hj hue hdma hu hb
    · exact fun u he herr hce hstale hw hcodec => frameComplete_of_decoded hdue ht hue hdma hu hb he herr hce hstale hw hcodec
    · intro vs he hce hfits hread hvs
      obtain ⟨v, hexec, hover⟩ := frameComplete_of_encoded hdue ht hue hdma hu hb he hce hfits hread hvs
      obtain ⟨h, c, hput⟩ := putCoded_eq (s := withDone (clampsCounted x.sp vs s) v (frameCtx s pipe, 0)) (q := x.sp.part) (fc := fc) (x := x)
        (ctx := frameCtx s pipe) hj r.coded
      refine ⟨_, hexec, ?_, ?_, ?_, fun hstale => ?_, fun hstale ho hf => ?_⟩
      · rw [hput]
        exact hover
      · rw [hput]
        rfl
      · rw [hput]
        rfl
      · rw [putCoded_of_stale (by exact hstale)]
        exact ⟨rfl, rfl⟩
      · exact putCoded_stands (s := withDone (clampsCounted x.sp vs s) v (frameCtx s pipe, 0)) hstale hj r.coded ho hf

end Sys2Proof.Machine
end
